-- ==== Sys2Proof/Word.lean ====
section
/-!
DEFINITION. The word types of the machine and the type of a sparse table.
-/

namespace Sys2Proof

/-- An instruction word, a v register, a queue entry: 32 bits (R25, R85, R95). -/
abbrev Word := BitVec 32

/-- An a or s register, a latch entry, a memory operand: 64 bits (R29, R32). -/
abbrev DWord := BitVec 64

/-- One byte, the smallest location of memory (R58). -/
abbrev Byte := BitVec 8

/-- A sparse table: entries by rising key, none of them equal to what an unlisted key reads as.
A machine memory (R331) is such a table of bytes, a list of `Host.Cell`. -/
abbrev Table (V : Type) := List (Nat × V)

/-- The lanes of a consist as a mask: bit L stands for lane L (R80). -/
abbrev Lanes := BitVec 32

end Sys2Proof
end

