-- ==== Sys2Proof/Config.lean ====
section
/-!
DEFINITION. What the spec leaves to an implementation, and the free values of the model.
Every constant here is opaque: no proof sees what it is, so a statement holds whatever it is.
-/

namespace Sys2Proof.Config

/-- A fresh 64-bit free value for each count of `State.tick` (DESIGN CHOICE, assumption log 4). -/
opaque freeWord : Nat → BitVec 64

/-- A fresh free byte: byte `j` of the free text taken at a count of `State.tick` (DESIGN CHOICE, assumption log 4). -/
opaque freeByte : Nat → Nat → BitVec 8

/-- How far the arithmetic clock of a core runs between two reads of it (R109, R396; DESIGN CHOICE, assumption log 5). -/
opaque cycAdvance : Nat → Nat

/-- How far a stream's scan time runs between two steps that look at it (R306, R307; DESIGN CHOICE, assumption log 5). -/
opaque scanAdvance : Nat → Nat

/-- Which of the values that R167's bound allows a special function returns: function code and argument
(DESIGN CHOICE, assumption log 7). The same for every core, as R167 says. -/
opaque functionChoice : Nat → BitVec 32 → Nat

/-- The payload of an OBU that the encoder writes, by the count of `State.tick` and by what it codes: which of the legal
codings it chooses is its own (R326; DESIGN CHOICE, assumption log 9). -/
opaque codeBytes : Nat → List Nat → List (BitVec 8)

/-- Byte `j` of the signature of a message under a die's identity key, at a count of `State.tick` (R385; DESIGN CHOICE,
assumption log 10). -/
opaque signatureByte : Nat → Nat → List (BitVec 8) → Nat → BitVec 8

/-- What the fuses of a die hold of its identity and of their own state, and its ROM (R385; DESIGN CHOICE, assumption log
10). -/
opaque dieIdentity : Nat → BitVec 256
/-- See `dieIdentity`. -/
opaque fuseState : Nat → BitVec 64
/-- See `dieIdentity`. -/
opaque rom : Nat → List (BitVec 8)

/-- Operand number `k` of a firmware command with this opcode, read from BODY (R376, R380): the spec names the
operands and gives no places for them (DESIGN CHOICE, assumption log 11). -/
opaque operand : Nat → Nat → BitVec 448 → Nat

/-- The host address a machine address of the host windows reaches (R331; DESIGN CHOICE, assumption log 12). -/
opaque hostAddress : Nat → Nat

/-- The fused limit of the arithmetic clock, in MHz, for a core supply in mV (R395; DESIGN CHOICE, assumption log 17). -/
opaque fusedLimit : Nat → Nat

/-- The fused canary limit of a router, in mΩ (R392; DESIGN CHOICE, assumption log 17). -/
opaque canaryLimit : Nat → Nat → BitVec 16

/-- The timing margin of core `i` that a sample finds (R392; DESIGN CHOICE, assumption log 5). -/
opaque margin : Nat → Nat → BitVec 16

/-- How many errors a store has corrected by itself since its counter was last read, by store code (R386; DESIGN CHOICE,
assumption log 5). -/
opaque naturalErrors : Nat → Nat → BitVec 32

/-- How many transfers a channel has repeated since its counter was last read (R399; DESIGN CHOICE, assumption log 5). -/
opaque linkRetries : Nat → Nat → BitVec 32

/-- The virtual pages where root launches of maintenance mode find the RAS and Manifest blocks of a die (R356, R392;
DESIGN CHOICE, assumption log 43). -/
opaque rasPage : Nat → Nat
/-- See `rasPage`. -/
opaque manifestPage : Nat → Nat

/-- The LP6 DRAM channel of a die that serves a line, modulo 32 (R399; DESIGN CHOICE, assumption log 17). -/
opaque dramChannel : Nat → Nat

/-- The module's serial number (R15, R384; DESIGN CHOICE, assumption log 18). -/
opaque moduleSerial : BitVec 64

/-- The firmware version of a die and its identity certificate chain (R384; DESIGN CHOICE, assumption log 18). -/
opaque firmwareVersion : Nat → BitVec 64
/-- See `firmwareVersion`. -/
opaque certificates : Nat → List (BitVec 8)

/-- The frame the Manifest engine prefers for an allocation (R347: its own choice; DESIGN CHOICE, assumption log 19). -/
opaque framePick : Nat → Nat

/-- Where the Signal box starts looking for free cores (R380: its own choice; DESIGN CHOICE, assumption log 19). -/
opaque corePick : Nat → Nat

end Sys2Proof.Config
end

