-- ==== Sys2Proof/Syntax.lean ====
section
/-!
DEFINITION. The instruction set: one constructor of `Instr` for every row of spec/opcode_table.json.
The last 278 constructors are the 32-bit instruction words of Neurcel (R49); their arguments are the fields the
table gives the row, in the table's order, each at its own width.
The first 105 are the operations, events and commands of the part that carry no instruction word; their arguments
name the agent that takes the step and the data that reach the part from outside with it.
-/

namespace Sys2Proof

/-- The register blocks a REGISTER_WRITE reaches: a Terminus stream's (R316), a die's Manifest block (R356), a die's
RAS block (R392) and a command queue's (R375). -/
inductive RegBlock where
  | stream | manifest | ras | queue
  deriving DecidableEq, Repr, Inhabited

/-- The operands of SESS_NEW (R380): title, session, die and core count; the rings (host addresses and k); depth and
class of each of the 16 sidings; weight; frame-map and fault-ring sizes; grant windows (base, size, translated);
the depot and quiescence options, and the mode of R281. -/
structure SessNewOps where
  title : Nat
  sess : Nat
  die : Nat
  cores : Nat
  sqBase : BitVec 64
  cqBase : BitVec 64
  qk : Nat
  depths : List Nat
  classes : List Nat
  weight : Nat
  fmSize : Nat
  frSize : Nat
  windows : List (Nat × Nat × Bool)
  depot : Bool
  quiescence : Bool
  maintenance : Bool
  deriving DecidableEq, Repr, Inhabited

/-- The operands of STREAM_SET with the start option (R305, R306, R316): scan timing, buffers, the page the stream
registers are mapped at, the launch header and FRAME. -/
structure StreamOps where
  sess : Nat
  stream : Nat
  hact : Nat
  vact : Nat
  vtot : Nat
  lper : Nat
  lead : Nat
  depth : Bool
  hist : Nat
  mfld : Nat
  bsBase : Nat
  bsSize : Nat
  page : Nat
  header : Nat
  frame : BitVec 64
  deriving DecidableEq, Repr, Inhabited

/-- What an UNCORRECTABLE_ERROR reports (R387, R391, R402): the store code, the unit that met it, the machine address
of the line, whether the line was dirty, its set and way, the session of the reading agent (none when no agent of a
session read it) and, where a lane's instruction consumed the line, its consist. -/
structure ErrorOps where
  store : Nat
  unit : Nat
  addr : Nat
  dirty : Bool
  setIx : Nat
  way : Nat
  reader : Option Nat
  consumer : Option Nat
  deriving DecidableEq, Repr, Inhabited

/-- One constructor per row of the opcode table. -/
inductive Instr where
  /-- LOAD_DATA_RETURN (R85). Returned load data fill the reserved LQ slot or destination register of a lane. -/
  | loadDataReturn (consist : Nat) (lane : Nat) (n : Nat)
  /-- VARIABLE_LATENCY_COMPLETE (R138). A division, FDIV, DDIV, DSQRT or rational result is written and its readers released. -/
  | variableLatencyComplete (consist : Nat) (n : Nat)
  /-- QLOCK_DETECT (R89). The core raises QLOCK on a consist with a queue-locked lane within 64 cycles. -/
  | qlockDetect (consist : Nat)
  /-- RUN_DEFERRAL (R92). A run that reached 256 head instructions or 1,024 blocked cycles is deferred behind the next run. -/
  | runDeferral (consist : Nat) (aStream : Bool) (blocked : Bool)
  /-- REGISTER_TIER_MOVE (R96). The registers of a consist that waited 512 cycles in both streams move to the lower tier. -/
  | registerTierMove (consist : Nat)
  /-- REGISTER_TIER_RECALL (R96). A consist's registers return from the lower tier before it issues again. -/
  | registerTierRecall (consist : Nat)
  /-- ASYNC_TRAP_DELIVERY (R104). A fault delivered by an engine is taken at the consist's next instruction boundary. -/
  | asyncTrapDelivery (consist : Nat)
  /-- CONSIST_EXIT_REPORT (R102). After its work drains, a consist's exit or termination is reported and its resources released. -/
  | consistExitReport (consist : Nat)
  /-- SIDE_LOG_REPLAY (R196). A side-log entry is replayed once its page resolves, or discarded with an asynchronous fault. -/
  | sideLogReplay (core : Nat)
  /-- TLB_PROBE (R344). An L1 TLB miss probes the station's other cores over the ring. -/
  | tlbProbe (core : Nat) (sess : Nat) (va : Nat)
  /-- PAGE_WALK (R341). The station walker walks the session's tables and fills, faults or posts a fault record. -/
  | pageWalk (core : Nat) (sess : Nat) (va : Nat) (write : Bool)
  /-- FAULT_RECORD_POST (R341). A fault record is written to the session's fault ring once it has room. -/
  | faultRecordPost (sess : Nat)
  /-- COW_BREAK (R340). The Manifest engine copies a shared patch into the private frame and releases the waiting access. -/
  | cowBreak (sess : Nat) (va : Nat)
  /-- TILE_EXECUTE (R235). The sequencer starts the next tile instruction of a consist's queue after the previous completes. -/
  | tileExecute (consist : Nat)
  /-- TILE_COMPLETE (R236). A numbered tile instruction completes and the class-2 counter advances. -/
  | tileComplete (consist : Nat)
  /-- ROW_QUEUE_GRANT (R250). The row queue is granted to a waiting consist's MROW once free. -/
  | rowQueueGrant (core : Nat)
  /-- MROW_PUSH (R251). MROW pushes further row segments as the row queue gains room. -/
  | mrowPush (consist : Nat)
  /-- FREIGHT_OPERATION_START (R258). A context starts its next accepted operation after the previous one completes. -/
  | freightOperationStart (sess : Nat) (ctx : Nat)
  /-- FREIGHT_OPERATION_COMPLETE (R258). An operation's writes are performed, its tokens freed and its timeline advanced. -/
  | freightOperationComplete (sess : Nat) (ctx : Nat)
  /-- FREIGHT_FAULT (R268). An execution failure halts the context and delivers FREIGHT to the convoy. -/
  | freightFault (sess : Nat) (ctx : Nat)
  /-- FREIGHT_ASSEMBLY_ABANDON (R269). A pending assembly of a convoy whose consists all wait in exit is discarded with reason 0xB. -/
  | freightAssemblyAbandon (convoy : Nat) (ctx : Nat)
  /-- CONVOY_EXPAND (R275). A core with room takes the next waybill and starts one convoy, or a train, from it. -/
  | convoyExpand (core : Nat)
  /-- ENGINE_JOIN (R283). When a launch's count returns to zero the engine joins its record with decrement 1. -/
  | engineJoin (sess : Nat) (slot : Nat)
  /-- PARTITION_FLIP (R285). The Signal box flips the partition-map banks at a quiesce point, halting cores whose session changes. -/
  | partitionFlip (die : Nat)
  /-- CONTEXT_SWAP (R286). Halted convoys are swapped to shadow storage and parked. -/
  | contextSwap (core : Nat)
  /-- CONVOY_RESUME (R287). A parked convoy resumes on its core when the core returns to its session. -/
  | convoyResume (core : Nat)
  /-- RASTER_DRAW_BIN (R291). The rasteriser bins a draw's primitives into tiles of the pass. -/
  | rasterDrawBin (station : Nat)
  /-- RASTER_PASS_COMPLETE (R288). A flushed pass finishes rendering and its counter reaches the RFLUSH number. -/
  | rasterPassComplete (station : Nat)
  /-- RASTER_FAULT (R295). A fault during binning or rendering ends the pass and is delivered to the issuing consist. -/
  | rasterFault (station : Nat)
  /-- RASTER_PASS_ABANDON (R288). An open pass whose opening launch has exited without RFLUSH is discarded. -/
  | rasterPassAbandon (station : Nat) (slot : Nat)
  /-- TEXTURE_RESULT (R302). Filtered texel results return and fill the lane's reserved LQ slots. -/
  | textureResult (consist : Nat) (lane : Nat) (n : Nat)
  /-- BAND_WINDOW_OPEN (R310). At O(n) a band's window opens and the Terminus starts copying its fallback from history. -/
  | bandWindowOpen (die : Nat) (stream : Nat)
  /-- PREPARED_IMAGE_READY (R310). The copy of the history band into the prepared image completes or faults. -/
  | preparedImageReady (die : Nat) (stream : Nat)
  /-- LEMIT_COPY_COMPLETE (R319). An LEMIT copy into the emit image completes and returns its status. -/
  | lemitCopyComplete (die : Nat) (stream : Nat)
  /-- FBSET_COPY_COMPLETE (R319). An FBSET copy into the armed image completes and returns its status. -/
  | fbsetCopyComplete (die : Nat) (stream : Nat)
  /-- WARPB_COMPLETE (R320). A reprojection completes with its writes performed at die scope. -/
  | warpbComplete (die : Nat) (stream : Nat)
  /-- MESRCH_RESULT (R321). Motion-search vectors and costs are pushed into the reserved LQ slots. -/
  | mesrchResult (die : Nat) (stream : Nat)
  /-- BAND_SETTLE (R311). At D(n) a band's content is chosen from emit, armed, prepared or fill sources. -/
  | bandSettle (die : Nat) (stream : Nat)
  /-- TAP_HISTORY_WRITE (R312). The settled band is written to the history buffer and the class-3 timeline advances. -/
  | tapHistoryWrite (die : Nat) (stream : Nat)
  /-- ENCODER_TAP (R326). At T(n) the encoder takes the band and latches ENC fields at band 0. -/
  | encoderTap (die : Nat) (stream : Nat)
  /-- ENCODER_TILE_ROW (R327). The encoder codes a tile row into the bitstream ring, or drops the frame when it does not fit. -/
  | encoderTileRow (die : Nat) (stream : Nat)
  /-- STREAM_STOP_EFFECT (R305). A pending stop takes effect after the frame in progress settles, and the stream turns OFF. -/
  | streamStopEffect (die : Nat) (stream : Nat)
  /-- STREAM_MOVE (R22). A moving session's stream passes to the destination Terminus at an output-frame boundary. -/
  | streamMove (die : Nat) (stream : Nat)
  /-- SEAL_HASH (R357). After the seal's shootdown completes, the page is consolidated if patched and hashed. -/
  | sealHash (sess : Nat) (n : Nat)
  /-- SEAL_LOOKUP (R357). The bucket's home die compares the page with matching ways. -/
  | sealLookup (sess : Nat) (n : Nat)
  /-- SEAL_COMMIT (R358). The seal merges, lists or leaves the page unlisted. -/
  | sealCommit (sess : Nat) (n : Nat)
  /-- SEAL_ABORT (R359). A write to a page being sealed aborts the seal before its commit. -/
  | sealAbort (sess : Nat) (n : Nat)
  /-- QUIESCENCE_VISIT (R360). The quiescence detector visits a hashable page, sealing it or clearing its quiet record. -/
  | quiescenceVisit (sess : Nat) (va : Nat)
  /-- MANIFEST_REQUEST_COMPLETE (R366). An MSEAL or MHARV request completes and the class-5 counter advances. -/
  | manifestRequestComplete (sess : Nat)
  /-- KEY_REVOKE_COMPLETE (R352). A key slot's sweep finishes and the slot becomes EMPTY. -/
  | keyRevokeComplete (die : Nat) (slot : Nat)
  /-- TRANSFER_TABLES_MOVED (R363). A moving session's tables and frame map are copied to the destination and switched. -/
  | transferTablesMoved (sess : Nat)
  /-- FRAME_DRIFT (R364). A session frame drifts to the destination die by merge or copy. -/
  | frameDrift (sess : Nat) (frame : Nat)
  /-- TRANSFER_COMPLETE (R22). No frame remains at the source, its key slot is revoked and the session returns to LIVE. -/
  | transferComplete (sess : Nat)
  /-- SLIP_COMPLETE (R362). A slip's copies finish and the new session becomes LIVE. -/
  | slipComplete (sess : Nat)
  /-- SESS_PARK_COMPLETE (R361). Once launches have completed, a parked depot's pages convert and it becomes DEPOT. -/
  | sessParkComplete (sess : Nat)
  /-- DEPOT_END_PROCEED (R17). A waiting SESS_END of a depot proceeds once no slip from it is in progress. -/
  | depotEndProceed (sess : Nat)
  /-- SESS_END_COMPLETE (R23). An ending session's work has drained, its slot is revoked and frames freed, and it becomes FREE. -/
  | sessEndComplete (sess : Nat)
  /-- SUBMIT_RESUME (R281). A waiting SUBMIT is accepted once a siding slot or launch slot is free. -/
  | submitResume (q : Nat)
  /-- SQTAIL (R377). A notify write names new commands for the Signal box to fetch. -/
  | sqtail (q : Nat) (value : BitVec 32)
  /-- RESTART (R378). A write of RESTART makes a STOPPED queue fetch again from SQHEAD. -/
  | restart (q : Nat)
  /-- COMMAND_FETCH (R377). The Signal box fetches a command and accepts it when both stamps match. -/
  | commandFetch (q : Nat)
  /-- FORWARDED_COMMAND (R373). A management command forwarded over the die links is carried out by the home die's Signal box. -/
  | forwardedCommand (die : Nat)
  /-- SESS_NEW (R380). Creates a session, or a depot in BUILD, with its rings, sidings and partition. -/
  | sessNew (q : Nat) (ops : SessNewOps)
  /-- SESS_SLIP (R19). Starts forking a new session from a DEPOT source. -/
  | sessSlip (q : Nat) (source : Nat) (sess : Nat) (die : Nat) (cores : Nat)
  /-- SESS_MOVE (R22). Starts transferring a LIVE session to another die, or repartitions on its home die. -/
  | sessMove (q : Nat) (sess : Nat) (die : Nat) (cores : Nat)
  /-- SESS_MOVE_EXTEND (R285). Gives or takes a session's cores on another die by a partition flip. -/
  | sessMoveExtend (q : Nat) (sess : Nat) (die : Nat) (cores : Nat)
  /-- SESS_END (R23). Starts taking a session out of service by cancelling its jobs. -/
  | sessEnd (q : Nat) (sess : Nat)
  /-- SESS_END_PARK (R17). Requests parking a BUILD session into a DEPOT once its launches complete. -/
  | sessEndPark (q : Nat) (sess : Nat)
  /-- SESS_END_KILL (R23). Stops a session's work at once and revokes its key by force. -/
  | sessEndKill (q : Nat) (sess : Nat)
  /-- KEY_LOAD (R350). Installs a key blob into a key slot of a die over IDE. -/
  | keyLoad (q : Nat) (slot : Nat) (die : Nat) (blob : Nat)
  /-- KEY_DROP (R352). Starts revoking a loaded key slot. -/
  | keyDrop (q : Nat) (slot : Nat) (die : Nat)
  /-- LAYOUT_PUT (R259). Writes a layout record into a context's table. -/
  | layoutPut (q : Nat) (sess : Nat) (ctx : Nat) (layout : Nat) (record : Nat)
  /-- LAYOUT_PUT_RESET (R268). Resets a HALTED Freight context to RUNNING with its counter set. -/
  | layoutPutReset (q : Nat) (sess : Nat) (ctx : Nat)
  /-- SUBMIT (R380). Submits a waybill from the host as a new launch at a rank. -/
  | submit (q : Nat) (sess : Nat) (waybill : Nat) (rank : Nat) (sup : Bool)
  /-- STREAM_SET_START (R305). Starts a Terminus stream with its timing, buffers and band program. -/
  | streamSetStart (q : Nat) (ops : StreamOps)
  /-- STREAM_SET_STOP (R305). Requests that a stream stop after its frame in progress. -/
  | streamSetStop (q : Nat) (sess : Nat) (stream : Nat)
  /-- STREAM_SET_RESTART (R305). Starts a new band program on an ORPHAN stream. -/
  | streamSetRestart (q : Nat) (sess : Nat) (stream : Nat) (header : Nat) (frame : BitVec 64)
  /-- ATTEST (R385). Writes a signed attestation token to a host buffer. -/
  | attest (q : Nat) (sess : Option Nat) (nonce : BitVec 256) (buffer : Nat)
  /-- CAPS_READ (R384). Copies the capability list to a host buffer. -/
  | capsRead (q : Nat) (buffer : Nat) (len : Nat)
  /-- RAS_LOG (R391). Copies the error log to a host buffer, optionally clearing it. -/
  | rasLog (q : Nat) (buffer : Nat) (len : Nat) (clear : Bool)
  /-- HOST_ACCESS (R383). A host or peer request reaches device memory as a host requester. -/
  | hostAccess (func : Nat) (addr : Nat) (size : Nat) (write : Bool) (data : BitVec 64)
  /-- DIE_LINK_FLIT (R381). A sealed flit arrives on a die link and is checked by CRC and GCM tag. -/
  | dieLinkFlit (src : Nat) (dst : Nat) (good : Bool)
  /-- LINK_RESYNC (R382). After three failures of one flit the link retrains, rekeys and replays. -/
  | linkResync (src : Nat) (dst : Nat)
  /-- LINK_DOWN (R382). A failed retrain takes the link down and poisons sessions on both dies. -/
  | linkDown (src : Nat) (dst : Nat)
  /-- LINK_REKEY (R381). A link direction rekeys before its flit counter reaches 2^48. -/
  | linkRekey (src : Nat) (dst : Nat)
  /-- DIE_RESET (R350). A die resets, loading key slot 0 and deriving link keys. -/
  | dieReset (die : Nat)
  /-- UNCORRECTABLE_ERROR (R387). An uncorrectable error is refetched if clean, or handed to the owning world if dirty. -/
  | uncorrectableError (die : Nat) (ops : ErrorOps)
  /-- DRAM_CORRECTION_REPORT (R399). The LP6 DRAM device reports on-die corrections, added to ODEC. -/
  | dramCorrectionReport (die : Nat) (channel : Nat) (count : Nat)
  /-- RASCTL_CLR (R392). Writing CLR clears every counter and extreme of the RAS block. -/
  | rasctlClr (die : Nat)
  /-- INJCTL_ARM (R393). Writing ARM arms the error injector when INJEN and the fields allow. -/
  | injctlArm (die : Nat) (value : BitVec 64)
  /-- VFK (R395). A write of an operating-point register is accepted only within its limits. -/
  | vfk (die : Nat) (k : Nat) (value : BitVec 64)
  /-- KEYREQ (R316). Writing KEYREQ makes the stream's next frame a key frame. -/
  | keyreq (die : Nat) (stream : Nat)
  /-- REGISTER_WRITE (R316). A write to a register with no row of its own, ignored where read-only or out of range. -/
  | registerWrite (block : RegBlock) (unit : Nat) (offset : Nat) (value : BitVec 64)
  /-- POWER_AVERAGE (R396). Each 1 ms power average raises or lowers the die's stations' operating points. -/
  | powerAverage (die : Nat) (milliwatts : Nat)
  /-- SUPPLY_DIP (R397). A supply drop 30 mV below a station's point halves its clock within 10 ns. -/
  | supplyDip (die : Nat) (station : Nat)
  /-- SUPPLY_RECOVERY (R397). After 1 µs back within 10 mV the station's clock returns to full. -/
  | supplyRecovery (die : Nat) (station : Nat)
  /-- THROTTLE (R398). A core-layer sensor above THR lowers covered stations by one point each 100 µs. -/
  | throttle (die : Nat) (sensor : Nat) (reading : BitVec 16)
  /-- THERMAL_TRIP (R398). A sensor above TRIP halts the die and poisons its sessions. -/
  | thermalTrip (die : Nat) (sensor : Nat) (reading : BitVec 16)
  /-- CANARY_SAMPLE (R394). The Signal box samples a router's canary bond, starting retirement after 16 samples over LIM. -/
  | canarySample (die : Nat) (router : Nat) (res : BitVec 16)
  /-- ROUTER_RETIRE_MARK (R394). At a quiesce point the routing banks flip away from a failing router. -/
  | routerRetireMark (die : Nat) (router : Nat)
  /-- ROUTER_RETIRED (R394). The failing router drains, is marked retired and logged. -/
  | routerRetired (die : Nat) (router : Nat)
  /-- THROTTLE_RELEASE (R398). A core-layer sensor that falls below THR minus 16 releases the throttle limit on the stations it covers. -/
  | throttleRelease (die : Nat) (sensor : Nat) (reading : BitVec 16)
  /-- CONTESTED_CYCLE (R400). In each arithmetic-clock cycle where both the core and the engine side of a column ask for full rate, one wins and the refusal counts update. -/
  | contestedCycle (die : Nat) (column : Nat) (coreAsks : Bool) (engineAsks : Bool) (deadline : Bool)
  /-- TDISP_REQUEST (R373). A TDISP request from the host moves a virtual function's TDI into or out of the RUN state that gates its commands. -/
  | tdispRequest (func : Nat) (die : Nat) (run : Bool)
  /-- IDE_STREAM_ACTIVATION (R372). The host's IDE key management sets up or retires a link or selective IDE stream, which KEY_LOAD needs to be active. -/
  | ideStreamActivation (die : Nat) (stream : Nat) (active : Bool)
  /-- IADD (R133). Adds two integer operands per active lane at the stream width, wrapping or saturating under sat. -/
  | iadd (d : BitVec 7) (a : BitVec 7) (b : BitVec 7) (w : BitVec 1)
  /-- ISUB (R133). Subtracts B from A per active lane, wrapping or saturating under sat. -/
  | isub (d : BitVec 7) (a : BitVec 7) (b : BitVec 7) (w : BitVec 1)
  /-- IMIN (R133). Writes the signed lesser of A and B per active lane. -/
  | imin (d : BitVec 7) (a : BitVec 7) (b : BitVec 7) (w : BitVec 1)
  /-- IMAX (R133). Writes the signed greater of A and B per active lane. -/
  | imax (d : BitVec 7) (a : BitVec 7) (b : BitVec 7) (w : BitVec 1)
  /-- UMIN (R133). Writes the unsigned lesser of A and B per active lane. -/
  | umin (d : BitVec 7) (a : BitVec 7) (b : BitVec 7) (w : BitVec 1)
  /-- UMAX (R133). Writes the unsigned greater of A and B per active lane. -/
  | umax (d : BitVec 7) (a : BitVec 7) (b : BitVec 7) (w : BitVec 1)
  /-- IABSD (R133). Writes the absolute signed difference of A and B as an unsigned value. -/
  | iabsd (d : BitVec 7) (a : BitVec 7) (b : BitVec 7) (w : BitVec 1)
  /-- IADDI (R134). Adds a sign-extended immediate, or a HINT.CONST constant, to A per active lane. -/
  | iaddi (d : BitVec 7) (a : BitVec 7) (w : BitVec 1) (imm : BitVec 10)
  /-- AND (R139). Writes the bitwise AND of A and B. -/
  | and (d : BitVec 7) (a : BitVec 7) (b : BitVec 7) (w : BitVec 1)
  /-- OR (R139). Writes the bitwise OR of A and B. -/
  | or (d : BitVec 7) (a : BitVec 7) (b : BitVec 7) (w : BitVec 1)
  /-- XOR (R139). Writes the bitwise XOR of A and B. -/
  | xor (d : BitVec 7) (a : BitVec 7) (b : BitVec 7) (w : BitVec 1)
  /-- ANDN (R139). Writes A AND NOT B. -/
  | andn (d : BitVec 7) (a : BitVec 7) (b : BitVec 7) (w : BitVec 1)
  /-- NOT (R139). Writes the bitwise complement of A. -/
  | not (d : BitVec 7) (a : BitVec 7) (w : BitVec 1)
  /-- ANDI (R139). ANDs A with the immediate. -/
  | andi (d : BitVec 7) (a : BitVec 7) (w : BitVec 1) (imm : BitVec 10)
  /-- ORI (R139). ORs A with the immediate. -/
  | ori (d : BitVec 7) (a : BitVec 7) (w : BitVec 1) (imm : BitVec 10)
  /-- XORI (R139). XORs A with the immediate. -/
  | xori (d : BitVec 7) (a : BitVec 7) (w : BitVec 1) (imm : BitVec 10)
  /-- SHL (R140). Shifts A left by the amount in B[7:0]. -/
  | shl (d : BitVec 7) (a : BitVec 7) (b : BitVec 7) (w : BitVec 1)
  /-- SHR (R140). Shifts A right logically by the amount in B[7:0]. -/
  | shr (d : BitVec 7) (a : BitVec 7) (b : BitVec 7) (w : BitVec 1)
  /-- SAR (R140). Shifts A right arithmetically by the amount in B[7:0]. -/
  | sar (d : BitVec 7) (a : BitVec 7) (b : BitVec 7) (w : BitVec 1)
  /-- ROR (R140). Rotates A right by the amount in B[7:0]. -/
  | ror (d : BitVec 7) (a : BitVec 7) (b : BitVec 7) (w : BitVec 1)
  /-- BFE (R142). Extracts a bit field of A described by B, sign- or zero-extended. -/
  | bfe (d : BitVec 7) (a : BitVec 7) (b : BitVec 7) (w : BitVec 1)
  /-- BFI (R142). Inserts the low bits of A into a field of D described by B. -/
  | bfi (d : BitVec 7) (a : BitVec 7) (b : BitVec 7) (w : BitVec 1)
  /-- SHLI (R141). Shifts A left by an immediate amount. -/
  | shli (d : BitVec 7) (a : BitVec 7) (w : BitVec 1) (n : BitVec 6)
  /-- SHRI (R141). Shifts A right logically by an immediate amount. -/
  | shri (d : BitVec 7) (a : BitVec 7) (w : BitVec 1) (n : BitVec 6)
  /-- SARI (R141). Shifts A right arithmetically by an immediate amount. -/
  | sari (d : BitVec 7) (a : BitVec 7) (w : BitVec 1) (n : BitVec 6)
  /-- RORI (R141). Rotates A right by an immediate amount. -/
  | rori (d : BitVec 7) (a : BitVec 7) (w : BitVec 1) (n : BitVec 6)
  /-- IMUL (R136). Writes the low bits of the product of A and B, or the saturated product. -/
  | imul (d : BitVec 7) (a : BitVec 7) (b : BitVec 7) (w : BitVec 1)
  /-- IMULH (R136). Writes the high half of the signed double-width product. -/
  | imulh (d : BitVec 7) (a : BitVec 7) (b : BitVec 7) (w : BitVec 1)
  /-- UMULH (R136). Writes the high half of the unsigned double-width product. -/
  | umulh (d : BitVec 7) (a : BitVec 7) (b : BitVec 7) (w : BitVec 1)
  /-- IDIV (R136). Signed division truncated toward zero, variable latency, ZDIV on a zero divisor. -/
  | idiv (d : BitVec 7) (a : BitVec 7) (b : BitVec 7) (w : BitVec 1)
  /-- UDIV (R136). Unsigned division, variable latency, ZDIV on a zero divisor. -/
  | udiv (d : BitVec 7) (a : BitVec 7) (b : BitVec 7) (w : BitVec 1)
  /-- IREM (R136). Signed remainder, variable latency, ZDIV on a zero divisor. -/
  | irem (d : BitVec 7) (a : BitVec 7) (b : BitVec 7) (w : BitVec 1)
  /-- UREM (R136). Unsigned remainder, variable latency, ZDIV on a zero divisor. -/
  | urem (d : BitVec 7) (a : BitVec 7) (b : BitVec 7) (w : BitVec 1)
  /-- IMAD (R135). Writes A times B plus the selected addend, wrapping or saturating. -/
  | imad (d : BitVec 7) (a : BitVec 7) (b : BitVec 7) (c : BitVec 3) (w : BitVec 1)
  /-- POPC (R143). Counts the one bits of A. -/
  | popc (d : BitVec 7) (a : BitVec 7) (w : BitVec 1)
  /-- CLZ (R143). Counts leading zero bits of A. -/
  | clz (d : BitVec 7) (a : BitVec 7) (w : BitVec 1)
  /-- CTZ (R143). Counts trailing zero bits of A. -/
  | ctz (d : BitVec 7) (a : BitVec 7) (w : BitVec 1)
  /-- BREV (R143). Reverses the bit order of A. -/
  | brev (d : BitVec 7) (a : BitVec 7) (w : BitVec 1)
  /-- BSWAP (R143). Reverses the byte order of A. -/
  | bswap (d : BitVec 7) (a : BitVec 7) (w : BitVec 1)
  /-- SEXT8 (R143). Sign-extends the low byte of A. -/
  | sext8 (d : BitVec 7) (a : BitVec 7) (w : BitVec 1)
  /-- SEXT16 (R143). Sign-extends the low 16 bits of A. -/
  | sext16 (d : BitVec 7) (a : BitVec 7) (w : BitVec 1)
  /-- ICMP (R144). Sets a predicate per lane from an integer comparison of A and B under the condition in F. -/
  | icmp (p : BitVec 7) (a : BitVec 7) (b : BitVec 7) (c : BitVec 3)
  /-- ICMPI (R144). Sets a predicate per lane from comparing A with a 7-bit signed immediate. -/
  | icmpi (p : BitVec 7) (a : BitVec 7) (c : BitVec 3) (imm : BitVec 7)
  /-- MOVI (R134). Writes a sign-extended immediate, or a HINT.CONST constant. -/
  | movi (d : BitVec 7) (w : BitVec 1) (imm : BitVec 10)
  /-- SEL (R145). Writes A or B per lane according to a predicate. -/
  | sel (d : BitVec 7) (a : BitVec 7) (b : BitVec 7) (w : BitVec 1) (p : BitVec 3)
  /-- PAND (R146). Writes the AND of two predicates. -/
  | pand (d : BitVec 7) (a : BitVec 7) (b : BitVec 7)
  /-- POR (R146). Writes the OR of two predicates. -/
  | por (d : BitVec 7) (a : BitVec 7) (b : BitVec 7)
  /-- PXOR (R146). Writes the XOR of two predicates. -/
  | pxor (d : BitVec 7) (a : BitVec 7) (b : BitVec 7)
  /-- PANDN (R146). Writes pa AND NOT pb. -/
  | pandn (d : BitVec 7) (a : BitVec 7) (b : BitVec 7)
  /-- PMOV (R146). Copies a predicate. -/
  | pmov (d : BitVec 7) (a : BitVec 7)
  /-- PNZ (R146). Sets a predicate when the operand is nonzero. -/
  | pnz (d : BitVec 7) (a : BitVec 7)
  /-- PTOI (R146). Writes a predicate as 0 or 1 to an operand. -/
  | ptoi (d : BitVec 7) (a : BitVec 7) (w : BitVec 1)
  /-- LEA (R147). Writes A plus B shifted left by F at 64 bits in the A-stream. -/
  | lea (d : BitVec 7) (a : BitVec 7) (b : BitVec 7) (w : BitVec 1) (x : BitVec 3)
  /-- SHFLI (R149). Reads A from the rake lane indexed by B. -/
  | shfli (d : BitVec 7) (a : BitVec 7) (b : BitVec 7) (w : BitVec 1)
  /-- SHFLU (R149). Reads A from the lane B positions lower in the rake. -/
  | shflu (d : BitVec 7) (a : BitVec 7) (b : BitVec 7) (w : BitVec 1)
  /-- SHFLD (R149). Reads A from the lane B positions higher in the rake. -/
  | shfld (d : BitVec 7) (a : BitVec 7) (b : BitVec 7) (w : BitVec 1)
  /-- SHFLX (R149). Reads A from the lane whose rake position is XORed with B. -/
  | shflx (d : BitVec 7) (a : BitVec 7) (b : BitVec 7) (w : BitVec 1)
  /-- SWAPP (R149). Reads A from the lane i XOR 1. -/
  | swapp (d : BitVec 7) (a : BitVec 7) (w : BitVec 1)
  /-- BCAST (R149). Broadcasts A from the rake lane indexed by B of the lowest active lane. -/
  | bcast (d : BitVec 7) (a : BitVec 7) (b : BitVec 7) (w : BitVec 1)
  /-- VANY (R150). Sets a predicate if any active lane of the rake has the source predicate set. -/
  | vany (d : BitVec 7) (a : BitVec 7)
  /-- VALL (R150). Sets a predicate if every active lane of the rake has the source predicate set. -/
  | vall (d : BitVec 7) (a : BitVec 7)
  /-- VBAL (R150). Writes the mask of active rake lanes whose predicate is set. -/
  | vbal (d : BitVec 7) (a : BitVec 7) (w : BitVec 1)
  /-- MATCH (R150). Writes the mask of active rake lanes holding the same value of A. -/
  | matchLanes (d : BitVec 7) (a : BitVec 7) (w : BitVec 1)
  /-- RDADD (R151). Writes the wrapped sum of A over the active rake lanes. -/
  | rdadd (d : BitVec 7) (a : BitVec 7) (w : BitVec 1)
  /-- RDMIN (R151). Writes the signed minimum of A over the active rake lanes. -/
  | rdmin (d : BitVec 7) (a : BitVec 7) (w : BitVec 1)
  /-- RDMAX (R151). Writes the signed maximum of A over the active rake lanes. -/
  | rdmax (d : BitVec 7) (a : BitVec 7) (w : BitVec 1)
  /-- RDAND (R151). Writes the AND of A over the active rake lanes. -/
  | rdand (d : BitVec 7) (a : BitVec 7) (w : BitVec 1)
  /-- RDOR (R151). Writes the OR of A over the active rake lanes. -/
  | rdor (d : BitVec 7) (a : BitVec 7) (w : BitVec 1)
  /-- RDXOR (R151). Writes the XOR of A over the active rake lanes. -/
  | rdxor (d : BitVec 7) (a : BitVec 7) (w : BitVec 1)
  /-- RDFADD (R151). Writes the binary32 sum of A over the rake in the fixed pairwise tree. -/
  | rdfadd (d : BitVec 7) (a : BitVec 7) (w : BitVec 1)
  /-- RDFMAX (R151). Writes the binary32 maximum of A over the rake by an FMAX tree. -/
  | rdfmax (d : BitVec 7) (a : BitVec 7) (w : BitVec 1)
  /-- SCADD (R151). Writes the wrapped inclusive prefix sum over the active rake lanes. -/
  | scadd (d : BitVec 7) (a : BitVec 7) (w : BitVec 1)
  /-- SCFADD (R151). Writes the binary32 inclusive prefix sum by the tree of R130. -/
  | scfadd (d : BitVec 7) (a : BitVec 7) (w : BitVec 1)
  /-- RAKE (R83). Sets the issuing stream's rake size for the whole consist. -/
  | rake (n : BitVec 3)
  /-- FADD (R157). Adds two binary32 operands, or rationals in rational mode. -/
  | fadd (d : BitVec 7) (a : BitVec 7) (b : BitVec 7) (w : BitVec 1)
  /-- FSUB (R157). Subtracts binary32 operands, or rationals in rational mode. -/
  | fsub (d : BitVec 7) (a : BitVec 7) (b : BitVec 7) (w : BitVec 1)
  /-- FMUL (R157). Multiplies binary32 operands, or rationals in rational mode. -/
  | fmul (d : BitVec 7) (a : BitVec 7) (b : BitVec 7) (w : BitVec 1)
  /-- FDIV (R157). Divides binary32 operands with variable latency, or rationals in rational mode. -/
  | fdiv (d : BitVec 7) (a : BitVec 7) (b : BitVec 7) (w : BitVec 1)
  /-- FMIN (R158). Writes the minimumNumber of two binary32 operands. -/
  | fmin (d : BitVec 7) (a : BitVec 7) (b : BitVec 7) (w : BitVec 1)
  /-- FMAX (R158). Writes the maximumNumber of two binary32 operands. -/
  | fmax (d : BitVec 7) (a : BitVec 7) (b : BitVec 7) (w : BitVec 1)
  /-- FCPSGN (R157). Writes A with the sign bit of B. -/
  | fcpsgn (d : BitVec 7) (a : BitVec 7) (b : BitVec 7) (w : BitVec 1)
  /-- FFMA (R159). Computes A times B plus the addend with one rounding. -/
  | ffma (d : BitVec 7) (a : BitVec 7) (b : BitVec 7) (c : BitVec 3) (w : BitVec 1)
  /-- FFMS (R159). Computes A times B minus the addend with one rounding. -/
  | ffms (d : BitVec 7) (a : BitVec 7) (b : BitVec 7) (c : BitVec 3) (w : BitVec 1)
  /-- FCMP (R161). Sets a predicate from a binary32 or rational comparison under the condition in F. -/
  | fcmp (p : BitVec 7) (a : BitVec 7) (b : BitVec 7) (c : BitVec 3)
  /-- FADDI (R160). Adds an F10 immediate or HINT.CONST constant to A. -/
  | faddi (d : BitVec 7) (a : BitVec 7) (w : BitVec 1) (imm : BitVec 10)
  /-- FRNDN (R162). Rounds A to an integral value, ties to even. -/
  | frndn (d : BitVec 7) (a : BitVec 7) (w : BitVec 1)
  /-- FRNDZ (R162). Rounds A toward zero to an integral value. -/
  | frndz (d : BitVec 7) (a : BitVec 7) (w : BitVec 1)
  /-- FRNDU (R162). Rounds A toward plus infinity to an integral value. -/
  | frndu (d : BitVec 7) (a : BitVec 7) (w : BitVec 1)
  /-- FRNDD (R162). Rounds A toward minus infinity to an integral value. -/
  | frndd (d : BitVec 7) (a : BitVec 7) (w : BitVec 1)
  /-- FFRAC (R163). Writes A minus its floor, rounded toward zero. -/
  | ffrac (d : BitVec 7) (a : BitVec 7) (w : BitVec 1)
  /-- FABS (R162). Clears the sign bit of A. -/
  | fabs (d : BitVec 7) (a : BitVec 7) (w : BitVec 1)
  /-- FNEG (R162). Inverts the sign bit of A. -/
  | fneg (d : BitVec 7) (a : BitVec 7) (w : BitVec 1)
  /-- FCLASS (R164). Writes a one-hot class mask of A. -/
  | fclass (d : BitVec 7) (a : BitVec 7) (w : BitVec 1)
  /-- HADD2 (R165). Adds two packed binary16 pairs elementwise. -/
  | hadd2 (d : BitVec 7) (a : BitVec 7) (b : BitVec 7) (w : BitVec 1)
  /-- HMUL2 (R165). Multiplies two packed binary16 pairs elementwise. -/
  | hmul2 (d : BitVec 7) (a : BitVec 7) (b : BitVec 7) (w : BitVec 1)
  /-- BADD2 (R165). Adds two packed BF16 pairs elementwise. -/
  | badd2 (d : BitVec 7) (a : BitVec 7) (b : BitVec 7) (w : BitVec 1)
  /-- BMUL2 (R165). Multiplies two packed BF16 pairs elementwise. -/
  | bmul2 (d : BitVec 7) (a : BitVec 7) (b : BitVec 7) (w : BitVec 1)
  /-- HFMA2 (R165). Fused multiply-add of packed binary16 pairs. -/
  | hfma2 (d : BitVec 7) (a : BitVec 7) (b : BitVec 7) (c : BitVec 3) (w : BitVec 1)
  /-- BFMA2 (R165). Fused multiply-add of packed BF16 pairs. -/
  | bfma2 (d : BitVec 7) (a : BitVec 7) (b : BitVec 7) (c : BitVec 3) (w : BitVec 1)
  /-- DADD (R166). Adds binary64 pairs, or RQ64 in rational mode. -/
  | dadd (d : BitVec 7) (a : BitVec 7) (b : BitVec 7) (w : BitVec 1)
  /-- DSUB (R166). Subtracts binary64 pairs, or RQ64 in rational mode. -/
  | dsub (d : BitVec 7) (a : BitVec 7) (b : BitVec 7) (w : BitVec 1)
  /-- DMUL (R166). Multiplies binary64 pairs, or RQ64 in rational mode. -/
  | dmul (d : BitVec 7) (a : BitVec 7) (b : BitVec 7) (w : BitVec 1)
  /-- DDIV (R166). Divides binary64 pairs with variable latency. -/
  | ddiv (d : BitVec 7) (a : BitVec 7) (b : BitVec 7) (w : BitVec 1)
  /-- DSQRT (R166). Writes the square root of a binary64 pair with variable latency. -/
  | dsqrt (d : BitVec 7) (a : BitVec 7) (w : BitVec 1)
  /-- DFMA (R166). Binary64 fused multiply-add with one rounding. -/
  | dfma (d : BitVec 7) (a : BitVec 7) (b : BitVec 7) (c : BitVec 3) (w : BitVec 1)
  /-- DCMP (R161). Sets a predicate from a binary64 or RQ64 comparison. -/
  | dcmp (p : BitVec 7) (a : BitVec 7) (b : BitVec 7) (c : BitVec 3)
  /-- RCP (R167). Writes the reciprocal of A within 1 ulp, exact in rational mode. -/
  | rcp (d : BitVec 7) (a : BitVec 7) (w : BitVec 1)
  /-- RSQ (R167). Writes the reciprocal square root of A. -/
  | rsq (d : BitVec 7) (a : BitVec 7) (w : BitVec 1)
  /-- SQRT (R167). Writes the square root of A. -/
  | sqrt (d : BitVec 7) (a : BitVec 7) (w : BitVec 1)
  /-- EX2 (R167). Writes 2 to the power A. -/
  | ex2 (d : BitVec 7) (a : BitVec 7) (w : BitVec 1)
  /-- LG2 (R167). Writes the base-2 logarithm of A. -/
  | lg2 (d : BitVec 7) (a : BitVec 7) (w : BitVec 1)
  /-- SINT (R168). Writes sin(2 pi A) with exact argument reduction. -/
  | sint (d : BitVec 7) (a : BitVec 7) (w : BitVec 1)
  /-- COST (R168). Writes cos(2 pi A) with exact argument reduction. -/
  | cost (d : BitVec 7) (a : BitVec 7) (w : BitVec 1)
  /-- TANH (R167). Writes tanh of A. -/
  | tanh (d : BitVec 7) (a : BitVec 7) (w : BitVec 1)
  /-- ITOF (R169). Converts s32 to binary32. -/
  | itof (d : BitVec 7) (a : BitVec 7) (w : BitVec 1)
  /-- UTOF (R169). Converts u32 to binary32. -/
  | utof (d : BitVec 7) (a : BitVec 7) (w : BitVec 1)
  /-- FTOI (R169). Converts binary32 to s32, clamping out-of-range values. -/
  | ftoi (d : BitVec 7) (a : BitVec 7) (w : BitVec 1)
  /-- FTOU (R169). Converts binary32 to u32, clamping out-of-range values. -/
  | ftou (d : BitVec 7) (a : BitVec 7) (w : BitVec 1)
  /-- FTOD (R169). Converts binary32 to a binary64 pair exactly. -/
  | ftod (d : BitVec 7) (a : BitVec 7) (w : BitVec 1)
  /-- DTOF (R169). Converts a binary64 pair to binary32. -/
  | dtof (d : BitVec 7) (a : BitVec 7) (w : BitVec 1)
  /-- ITOD (R169). Converts s32 to a binary64 pair exactly. -/
  | itod (d : BitVec 7) (a : BitVec 7) (w : BitVec 1)
  /-- DTOI (R169). Converts a binary64 pair to s32. -/
  | dtoi (d : BitVec 7) (a : BitVec 7) (w : BitVec 1)
  /-- FTOH2 (R170). Packs two binary32 values into a binary16 pair. -/
  | ftoh2 (d : BitVec 7) (a : BitVec 7) (b : BitVec 7) (w : BitVec 1)
  /-- HTOFL (R170). Widens the low binary16 element to binary32. -/
  | htofl (d : BitVec 7) (a : BitVec 7) (w : BitVec 1)
  /-- HTOFH (R170). Widens the high binary16 element to binary32. -/
  | htofh (d : BitVec 7) (a : BitVec 7) (w : BitVec 1)
  /-- FTOB2 (R170). Packs two binary32 values into a BF16 pair. -/
  | ftob2 (d : BitVec 7) (a : BitVec 7) (b : BitVec 7) (w : BitVec 1)
  /-- BTOFL (R170). Widens the low BF16 element to binary32. -/
  | btofl (d : BitVec 7) (a : BitVec 7) (w : BitVec 1)
  /-- BTOFH (R170). Widens the high BF16 element to binary32. -/
  | btofh (d : BitVec 7) (a : BitVec 7) (w : BitVec 1)
  /-- X8E4 (R171). Extracts an E4 element of a quad as binary32. -/
  | x8e4 (d : BitVec 7) (a : BitVec 7) (b : BitVec 7) (w : BitVec 1)
  /-- X8E5 (R171). Extracts an E5 element of a quad as binary32. -/
  | x8e5 (d : BitVec 7) (a : BitVec 7) (b : BitVec 7) (w : BitVec 1)
  /-- X6A (R171). Extracts an E6A element of a quad as binary32. -/
  | x6a (d : BitVec 7) (a : BitVec 7) (b : BitVec 7) (w : BitVec 1)
  /-- X6B (R171). Extracts an E6B element of a quad as binary32. -/
  | x6b (d : BitVec 7) (a : BitVec 7) (b : BitVec 7) (w : BitVec 1)
  /-- XI4O (R171). Extracts an I4O element of a quad, decoding outlier groups. -/
  | xi4o (d : BitVec 7) (a : BitVec 7) (b : BitVec 7) (w : BitVec 1)
  /-- XI8 (R171). Extracts an I8 element of a quad as binary32. -/
  | xi8 (d : BitVec 7) (a : BitVec 7) (b : BitVec 7) (w : BitVec 1)
  /-- P8E4 (R172). Rounds A to E4 and writes it into an element of the quad D. -/
  | p8e4 (d : BitVec 7) (a : BitVec 7) (b : BitVec 7)
  /-- P8E5 (R172). Rounds A to E5 and writes it into an element of the quad D. -/
  | p8e5 (d : BitVec 7) (a : BitVec 7) (b : BitVec 7)
  /-- P6A (R172). Rounds A to E6A and writes it into an element of the quad D. -/
  | p6a (d : BitVec 7) (a : BitVec 7) (b : BitVec 7)
  /-- P6B (R172). Rounds A to E6B and writes it into an element of the quad D. -/
  | p6b (d : BitVec 7) (a : BitVec 7) (b : BitVec 7)
  /-- PI4O (R172). Rounds A to a plain I4O code and writes it into a slot of the quad D. -/
  | pi4o (d : BitVec 7) (a : BitVec 7) (b : BitVec 7)
  /-- PI8 (R172). Rounds A to I8 and writes it into an element of the quad D. -/
  | pi8 (d : BitVec 7) (a : BitVec 7) (b : BitVec 7)
  /-- RMAKE (R222). Forms the RQ32 quotient of two s32 operands. -/
  | rmake (d : BitVec 7) (a : BitVec 7) (b : BitVec 7) (w : BitVec 1)
  /-- RNUM (R222). Writes the numerator of an RQ32 value as s32. -/
  | rnum (d : BitVec 7) (a : BitVec 7) (w : BitVec 1)
  /-- RDEN (R222). Writes the denominator of an RQ32 value as u32. -/
  | rden (d : BitVec 7) (a : BitVec 7) (w : BitVec 1)
  /-- RMED (R222). Writes the mediant of two RQ32 values. -/
  | rmed (d : BitVec 7) (a : BitVec 7) (b : BitVec 7) (w : BitVec 1)
  /-- RGCD (R222). Writes the gcd of two s32 magnitudes. -/
  | rgcd (d : BitVec 7) (a : BitVec 7) (b : BitVec 7) (w : BitVec 1)
  /-- RFLR (R222). Writes the floor of an RQ32 value as s32. -/
  | rflr (d : BitVec 7) (a : BitVec 7) (w : BitVec 1)
  /-- RTOF (R222). Converts RQ32 to binary32. -/
  | rtof (d : BitVec 7) (a : BitVec 7) (w : BitVec 1)
  /-- FTOR (R222). Converts binary32 to RQ32. -/
  | ftor (d : BitVec 7) (a : BitVec 7) (w : BitVec 1)
  /-- RMODE (R207). Sets CSW.RAT, CSW.RRM and CSW.RATZE for the consist. -/
  | rmode (r : BitVec 1) (m : BitVec 3) (e : BitVec 1)
  /-- BRA (R99). Branches each lane whose predicate matches to a PC-relative target. -/
  | bra (p : BitVec 3) (x : BitVec 1) (d : BitVec 21)
  /-- CALL (R99). Pushes the return address and branches each matching lane. -/
  | call (p : BitVec 3) (x : BitVec 1) (d : BitVec 21)
  /-- BRX (R101). Jumps each active lane to its register target. -/
  | brx (a : BitVec 7)
  /-- CALLX (R101). Pushes the return address and jumps each lane to its register target. -/
  | callx (a : BitVec 7)
  /-- RET (R101). Pops each lane's return stack and jumps there. -/
  | ret
  /-- EXIT (R102). Ends the issuing lanes in the issuing stream. -/
  | exit
  /-- YIELD (R93). Defers the issuing run behind the next run of its stream. -/
  | yield
  /-- NOP (R102). Has no effect. -/
  | nop
  /-- BARINIT (R200). Binds a named barrier slot to a scratchpad word with an expected count. -/
  | barinit (a : BitVec 7) (b : BitVec 7)
  /-- BARARR (R199). Arrives at a barrier and returns the phase count at arrival. -/
  | bararr (d : BitVec 7) (a : BitVec 7) (w : BitVec 1)
  /-- BARWAIT (R199). Waits until a given barrier phase has completed. -/
  | barwait (a : BitVec 7) (b : BitVec 7)
  /-- BARARW (R199). Arrives at a barrier and waits for that phase to complete. -/
  | bararw (d : BitVec 7) (a : BitVec 7) (w : BitVec 1)
  /-- BARTEST (R199). Sets a predicate from the parity of the barrier phase count. -/
  | bartest (p : BitVec 7) (a : BitVec 7) (b : BitVec 7)
  /-- BARDROP (R198). Arrives at a barrier and lowers its expected count from the next phase. -/
  | bardrop (a : BitVec 7)
  /-- BARINV (R198). Unbinds a barrier slot, giving waiters BARLOST. -/
  | barinv (a : BitVec 7)
  /-- BARPH (R199). Reads the barrier's phase count. -/
  | barph (d : BitVec 7) (a : BitVec 7) (w : BitVec 1)
  /-- FENCE (R74). Orders a lane's PRED classes before its SUCC classes at a scope. -/
  | fence (p : BitVec 8) (x : BitVec 8) (c : BitVec 4)
  /-- TLWAIT (R77). Waits until a timeline counter reaches a value and acquires. -/
  | tlwait (a : BitVec 7) (b : BitVec 7)
  /-- TLREAD (R77). Reads a timeline counter. -/
  | tlread (d : BitVec 7) (a : BitVec 7) (w : BitVec 1)
  /-- TLPOLL (R77). Sets a predicate if a timeline has reached a value, acquiring if so. -/
  | tlpoll (p : BitVec 7) (a : BitVec 7) (b : BitVec 7)
  /-- TLSIG (R77). Releases and raises a software timeline to at least a value. -/
  | tlsig (a : BitVec 7) (b : BitVec 7)
  /-- TKWAIT (R266). Waits until every masked token is free and acquires their operations. -/
  | tkwait (m : BitVec 8)
  /-- TKANY (R266). Waits until some masked token is free and returns the free mask. -/
  | tkany (d : BitVec 7) (w : BitVec 1) (m : BitVec 8)
  /-- TKTEST (R266). Sets a predicate if every masked token is free, without waiting. -/
  | tktest (p : BitVec 7) (m : BitVec 8)
  /-- LD8 (R186). Loads a zero-extended byte per lane through a handle. -/
  | ld8 (v : BitVec 7) (a : BitVec 7) (h : BitVec 6) (o : BitVec 2)
  /-- LD8S (R186). Loads a sign-extended byte per lane. -/
  | ld8s (v : BitVec 7) (a : BitVec 7) (h : BitVec 6) (o : BitVec 2)
  /-- LD16 (R186). Loads a zero-extended halfword per lane. -/
  | ld16 (v : BitVec 7) (a : BitVec 7) (h : BitVec 6) (o : BitVec 2)
  /-- LD16S (R186). Loads a sign-extended halfword per lane. -/
  | ld16s (v : BitVec 7) (a : BitVec 7) (h : BitVec 6) (o : BitVec 2)
  /-- LD32 (R186). Loads a word per lane. -/
  | ld32 (v : BitVec 7) (a : BitVec 7) (h : BitVec 6) (o : BitVec 2)
  /-- LD64 (R186). Loads 8 bytes per lane. -/
  | ld64 (v : BitVec 7) (a : BitVec 7) (h : BitVec 6) (o : BitVec 2)
  /-- LD128 (R186). Loads 16 bytes per lane into a register pair or four LQ entries. -/
  | ld128 (v : BitVec 7) (a : BitVec 7) (h : BitVec 6) (o : BitVec 2)
  /-- LDNT (R186). Loads 16 bytes per lane with lines marked streaming. -/
  | ldnt (v : BitVec 7) (a : BitVec 7) (h : BitVec 6) (o : BitVec 2)
  /-- ST8 (R187). Stores a byte per lane. -/
  | st8 (v : BitVec 7) (a : BitVec 7) (h : BitVec 6) (o : BitVec 2)
  /-- ST16 (R187). Stores a halfword per lane. -/
  | st16 (v : BitVec 7) (a : BitVec 7) (h : BitVec 6) (o : BitVec 2)
  /-- ST32 (R187). Stores a word per lane. -/
  | st32 (v : BitVec 7) (a : BitVec 7) (h : BitVec 6) (o : BitVec 2)
  /-- ST64 (R187). Stores 8 bytes per lane. -/
  | st64 (v : BitVec 7) (a : BitVec 7) (h : BitVec 6) (o : BitVec 2)
  /-- ST128 (R187). Stores 16 bytes per lane. -/
  | st128 (v : BitVec 7) (a : BitVec 7) (h : BitVec 6) (o : BitVec 2)
  /-- STNT (R187). Stores 16 bytes per lane with lines marked streaming. -/
  | stnt (v : BitVec 7) (a : BitVec 7) (h : BitVec 6) (o : BitVec 2)
  /-- AADD (R188). Atomically adds to a 4-byte word and returns the old value. -/
  | aadd (v : BitVec 7) (a : BitVec 7) (h : BitVec 6) (o : BitVec 2)
  /-- AMIN (R188). Atomic signed 32-bit minimum returning the old value. -/
  | amin (v : BitVec 7) (a : BitVec 7) (h : BitVec 6) (o : BitVec 2)
  /-- AMAX (R188). Atomic signed 32-bit maximum returning the old value. -/
  | amax (v : BitVec 7) (a : BitVec 7) (h : BitVec 6) (o : BitVec 2)
  /-- AUMIN (R188). Atomic unsigned 32-bit minimum returning the old value. -/
  | aumin (v : BitVec 7) (a : BitVec 7) (h : BitVec 6) (o : BitVec 2)
  /-- AAND (R188). Atomic 32-bit AND returning the old value. -/
  | aand (v : BitVec 7) (a : BitVec 7) (h : BitVec 6) (o : BitVec 2)
  /-- AOR (R188). Atomic 32-bit OR returning the old value. -/
  | aor (v : BitVec 7) (a : BitVec 7) (h : BitVec 6) (o : BitVec 2)
  /-- AXOR (R188). Atomic 32-bit XOR returning the old value. -/
  | axor (v : BitVec 7) (a : BitVec 7) (h : BitVec 6) (o : BitVec 2)
  /-- AXCH (R188). Atomic 32-bit exchange returning the old value. -/
  | axch (v : BitVec 7) (a : BitVec 7) (h : BitVec 6) (o : BitVec 2)
  /-- AADD64 (R188). Atomic 64-bit add returning the old value. -/
  | aadd64 (v : BitVec 7) (a : BitVec 7) (h : BitVec 6) (o : BitVec 2)
  /-- AMIN64 (R188). Atomic signed 64-bit minimum. -/
  | amin64 (v : BitVec 7) (a : BitVec 7) (h : BitVec 6) (o : BitVec 2)
  /-- AMAX64 (R188). Atomic signed 64-bit maximum. -/
  | amax64 (v : BitVec 7) (a : BitVec 7) (h : BitVec 6) (o : BitVec 2)
  /-- AAND64 (R188). Atomic 64-bit AND. -/
  | aand64 (v : BitVec 7) (a : BitVec 7) (h : BitVec 6) (o : BitVec 2)
  /-- AOR64 (R188). Atomic 64-bit OR. -/
  | aor64 (v : BitVec 7) (a : BitVec 7) (h : BitVec 6) (o : BitVec 2)
  /-- AXOR64 (R188). Atomic 64-bit XOR. -/
  | axor64 (v : BitVec 7) (a : BitVec 7) (h : BitVec 6) (o : BitVec 2)
  /-- AXCH64 (R188). Atomic 64-bit exchange. -/
  | axch64 (v : BitVec 7) (a : BitVec 7) (h : BitVec 6) (o : BitVec 2)
  /-- AFADD (R188). Atomic binary32 add rounded RN, returning the old value. -/
  | afadd (v : BitVec 7) (a : BitVec 7) (h : BitVec 6) (o : BitVec 2)
  /-- CAS32 (R189). Compares a word with latch b0 and swaps in V when equal. -/
  | cas32 (v : BitVec 7) (a : BitVec 7) (h : BitVec 6) (o : BitVec 2)
  /-- CAS64 (R189). Compares 8 bytes with latch b0 and swaps in V when equal. -/
  | cas64 (v : BitVec 7) (a : BitVec 7) (h : BitVec 6) (o : BitVec 2)
  /-- REDADD (R190). Reduction add into memory returning nothing. -/
  | redadd (v : BitVec 7) (a : BitVec 7) (h : BitVec 6) (o : BitVec 2)
  /-- REDMIN (R190). Reduction signed minimum into memory. -/
  | redmin (v : BitVec 7) (a : BitVec 7) (h : BitVec 6) (o : BitVec 2)
  /-- REDMAX (R190). Reduction signed maximum into memory. -/
  | redmax (v : BitVec 7) (a : BitVec 7) (h : BitVec 6) (o : BitVec 2)
  /-- REDAND (R190). Reduction AND into memory. -/
  | redand (v : BitVec 7) (a : BitVec 7) (h : BitVec 6) (o : BitVec 2)
  /-- REDOR (R190). Reduction OR into memory. -/
  | redor (v : BitVec 7) (a : BitVec 7) (h : BitVec 6) (o : BitVec 2)
  /-- REDXOR (R190). Reduction XOR into memory. -/
  | redxor (v : BitVec 7) (a : BitVec 7) (h : BitVec 6) (o : BitVec 2)
  /-- REDFADD (R190). Reduction binary32 add into memory. -/
  | redfadd (v : BitVec 7) (a : BitVec 7) (h : BitVec 6) (o : BitVec 2)
  /-- REDBFADD (R190). Reduction add of two BF16 halves into memory. -/
  | redbfadd (v : BitVec 7) (a : BitVec 7) (h : BitVec 6) (o : BitVec 2)
  /-- SBIND (R194). Binds a stash slot to a virtual range after writing back its old binding. -/
  | sbind (v : BitVec 7) (a : BitVec 7) (h : BitVec 6)
  /-- SFLUSH (R194). Writes back a stash slot's dirty lines and keeps the binding. -/
  | sflush (v : BitVec 7)
  /-- SDROP (R194). Writes back a stash slot's dirty lines and releases the binding. -/
  | sdrop (v : BitVec 7)
  /-- PREF (R194). Prefetches each active lane's line into L1 or the stash. -/
  | pref (a : BitVec 7) (h : BitVec 6)
  /-- CFLUSH (R194). Writes back and drops each active lane's line from this core. -/
  | cflush (a : BitVec 7) (h : BitVec 6)
  /-- TEXS (R300). Samples a texture with quad derivatives, results to LQ. -/
  | texs (a : BitVec 7) (b : BitVec 7)
  /-- TEXL (R299). Samples a texture at an explicit level of detail. -/
  | texl (a : BitVec 7) (b : BitVec 7)
  /-- TEXG (R299). Samples a texture with explicit gradients. -/
  | texg (a : BitVec 7) (b : BitVec 7)
  /-- TEXQ (R299). Queries a texture level's sizes into LQ. -/
  | texq (a : BitVec 7) (b : BitVec 7)
  /-- RBEGIN (R293). Opens a raster pass from a descriptor and returns its identifier. -/
  | rbegin (d : BitVec 7) (a : BitVec 7) (w : BitVec 1)
  /-- RDRAW (R293). Numbers a draw record and sends it to the pass for binning. -/
  | rdraw (d : BitVec 7) (a : BitVec 7) (b : BitVec 7) (w : BitVec 1)
  /-- RFLUSH (R293). Queues a pass for its final render and returns its final number. -/
  | rflush (d : BitVec 7) (a : BitVec 7) (w : BitVec 1)
  /-- MMA (R247). Queues a tile multiply-accumulate over KCNT values of K in format F. -/
  | mma (t : BitVec 5) (a : BitVec 7) (z : BitVec 1) (f : BitVec 3)
  /-- MMAS (R248). Queues a tile multiply-accumulate with 2-of-4 sparse A. -/
  | mmas (t : BitVec 5) (a : BitVec 7) (b : BitVec 7) (x : BitVec 2) (z : BitVec 1) (f : BitVec 3)
  /-- MLDA (R245). Queues a load of an A panel with its scales into a tile half. -/
  | mlda (t : BitVec 5) (a : BitVec 7) (b : BitVec 7) (x : BitVec 2) (z : BitVec 1)
  /-- MLDW (R245). Queues a load of a weight stream into a weight slot. -/
  | mldw (t : BitVec 5) (a : BitVec 7) (b : BitVec 7) (x : BitVec 2)
  /-- MACZ (R246). Queues the clearing of a tile to +0 accumulators. -/
  | macz (t : BitVec 5)
  /-- MACLD (R246). Queues a load of a tile's accumulators from memory. -/
  | macld (t : BitVec 5) (a : BitVec 7)
  /-- MACST (R246). Queues a store of a tile's accumulators to memory. -/
  | macst (t : BitVec 5) (a : BitVec 7)
  /-- MROW (R251). Queues the pushing of tile rows into the row queue. -/
  | mrow (t : BitVec 5) (a : BitVec 7)
  /-- MSYNC (R253). Stalls until earlier tile instructions complete, then acquires them. -/
  | msync
  /-- MCFG (R240). Writes a matrix configuration register. -/
  | mcfg (t : BitVec 5) (a : BitVec 7)
  /-- MPOP (R252). Pops a row-queue segment into the lanes. -/
  | mpop (d : BitVec 7) (w : BitVec 1)
  /-- MPOPB (R252). Pops a whole row and writes BF16 pairs to the lanes. -/
  | mpopb (d : BitVec 7) (w : BitVec 1)
  /-- FRCOPY (R264). Contributes a slice of a Freight copy operation. -/
  | frcopy (k : BitVec 3) (a : BitVec 7) (b : BitVec 7)
  /-- FRFILL (R264). Contributes a slice of a Freight fill operation. -/
  | frfill (k : BitVec 3) (a : BitVec 7) (b : BitVec 7)
  /-- FRGATH (R264). Contributes a slice of a Freight row gather. -/
  | frgath (k : BitVec 3) (a : BitVec 7) (b : BitVec 7)
  /-- FRSCAT (R264). Contributes a slice of a Freight row scatter. -/
  | frscat (k : BitVec 3) (a : BitVec 7) (b : BitVec 7)
  /-- FRRED (R264). Contributes a slice of a Freight reduction into a destination. -/
  | frred (k : BitVec 3) (a : BitVec 7) (b : BitVec 7)
  /-- FRPF (R264). Contributes a slice of a Freight prefetch. -/
  | frpf (k : BitVec 3) (a : BitVec 7) (b : BitVec 7)
  /-- SPAWN (R282). Enqueues more convoys of the issuer's launch at its rank. -/
  | spawn (d : BitVec 7) (a : BitVec 7) (b : BitVec 7) (w : BitVec 1)
  /-- JOIN (R283). Decrements a join counter and enqueues the continuation at zero. -/
  | join (d : BitVec 7) (a : BitVec 7) (b : BitVec 7) (w : BitVec 1)
  /-- ENQ (R282). Enqueues a waybill of the issuer's launch into a siding. -/
  | enq (d : BitVec 7) (a : BitVec 7) (b : BitVec 7) (w : BitVec 1)
  /-- DEQ (R282). Removes the head waybill of a siding and writes it to memory. -/
  | deq (d : BitVec 7) (a : BitVec 7) (b : BitVec 7) (w : BitVec 1)
  /-- LAUNCH (R282). Accepts a waybill as a new launch with a new slot. -/
  | launch (d : BitVec 7) (a : BitVec 7) (b : BitVec 7) (w : BitVec 1)
  /-- CANCEL (R284). Cancels a launch, graph, phase or job level. -/
  | cancel (a : BitVec 7) (w : BitVec 1)
  /-- CNTRD (R282). Reads a level's count, acquiring when it is zero. -/
  | cntrd (d : BitVec 7) (a : BitVec 7) (w : BitVec 1)
  /-- LWAIT (R318). Waits for a band window to open and takes the oldest TMISS event. -/
  | lwait (d : BitVec 7) (a : BitVec 7) (w : BitVec 1)
  /-- LEMIT (R319). Copies a band image into the tap's emit image of a band. -/
  | lemit (d : BitVec 7) (a : BitVec 7) (b : BitVec 7) (w : BitVec 1)
  /-- MESRCH (R321). Searches a motion vector per lane and pushes vector and cost to LQ. -/
  | mesrch (a : BitVec 7) (b : BitVec 7)
  /-- WARPB (R320). Writes the reprojection of a history band into a band image. -/
  | warpb (a : BitVec 7) (b : BitVec 7)
  /-- FBSET (R319). Copies a band image into the tap's armed fallback image of a band. -/
  | fbset (d : BitVec 7) (a : BitVec 7) (b : BitVec 7) (w : BitVec 1)
  /-- TMSTAT (R322). Reads a stream counter by index. -/
  | tmstat (d : BitVec 7) (a : BitVec 7) (w : BitVec 1)
  /-- DLREAD (R322). Reads the line periods left to a band's deadline. -/
  | dlread (d : BitVec 7) (a : BitVec 7) (w : BitVec 1)
  /-- TRAP (R109). Completes and raises SWTRAP with a code. -/
  | trap (a : BitVec 7)
  /-- RDSR (R109). Reads a special register. -/
  | rdsr (d : BitVec 7) (b : BitVec 7) (w : BitVec 1)
  /-- WRSR (R107). Writes a special register, subject to level and range checks. -/
  | wrsr (a : BitVec 7) (b : BitVec 7)
  /-- CYC (R109). Reads the core's arithmetic-clock cycle count. -/
  | cyc (d : BitVec 7) (w : BitVec 1)
  /-- ERET (R105). Resumes the trapped consist at TRAPPC, restoring its set-aside context. -/
  | eret
  /-- BRK (R109). Completes and raises BRK. -/
  | brk
  /-- SCALL (R109). Completes and raises SWTRAP with TRAPV bit 63 set. -/
  | scall (a : BitVec 7)
  /-- HALT (R109). Stops the consist at root level and reports a halt after draining. -/
  | halt
  /-- MSEAL (R367). Requests adoption and sealing of a range of pages on the class-5 timeline. -/
  | mseal (d : BitVec 7) (a : BitVec 7) (b : BitVec 7)
  /-- MHARV (R368). Requests harvesting of write grants into D bits over a page range. -/
  | mharv (d : BitVec 7) (a : BitVec 7) (b : BitVec 7)
  /-- MQUERY (R369). Reads a page's sharing state or frames. -/
  | mquery (d : BitVec 7) (a : BitVec 7) (b : BitVec 7)
  /-- MRETIRE (R370). Retires machine frames or places them on the retire list. -/
  | mretire (d : BitVec 7) (a : BitVec 7) (b : BitVec 7)
  /-- TLBINV (R346). Invalidates the session's translations of one address on all dies and applies ACT. -/
  | tlbinv (a : BitVec 7) (b : BitVec 7)
  /-- TLBINVA (R346). Invalidates every translation of the session on all dies and applies ACT. -/
  | tlbinva (b : BitVec 7)
  /-- HINT_CONST (R41). Makes the upper 22 bits of a 32-bit constant pending for the next instruction. -/
  | hintConst (k : BitVec 22)
  /-- HINT_GUARD (R42). Opens a guard window over the next 1 to 16 instructions. -/
  | hintGuard (p : BitVec 3) (x : BitVec 1) (n : BitVec 4)
  /-- HINT_HOLD (R43). Forbids group switches for the next 1 to 8 instructions. -/
  | hintHold (n : BitVec 4)
  /-- HINT_SCOPE (R44). Makes a scope and ordering override pending for the next instruction. -/
  | hintScope (x : BitVec 4) (o : BitVec 2)
  /-- HINT_ROUND (R45). Makes a rounding mode pending for the next instruction. -/
  | hintRound (m : BitVec 3)
  /-- HINT_MOD (R46). Makes saturation, flush and negate modifiers pending for the next instruction. -/
  | hintMod (t : BitVec 2) (f : BitVec 2) (a : BitVec 1) (b : BitVec 1) (c : BitVec 1)
  /-- HINT_SCHED (R47). Makes a stall count and optional yield pending for the next instruction. -/
  | hintSched (n : BitVec 6) (y : BitVec 1)
  deriving DecidableEq, Repr, Inhabited

end Sys2Proof
end

