-- ==== Sys2Proof/Decode.lean ====
section
/-!
DEFINITION. The decoder and the encoder of the 32-bit instruction words (R25, R26, R49).
`decode` is total: a word is an instruction, or no instruction at all (ILLOP, R28 check 1), or the word of an
instruction with another code where the opcode map fixes z (ILLOPND, R27 and R28 check 4); the caller makes the checks
of stream and level that R28 puts between the two. Values of fields that R27 bounds are checked when the instruction
is issued, since R28 orders those checks too.
-/

namespace Sys2Proof

/-- Bits [lo + len - 1 : lo] of an instruction word. -/
def fld (w : Word) (lo len : Nat) : BitVec len := w.extractLsb' lo len

/-- What a word is. -/
inductive Decoded where
  | ok (i : Instr)
  /-- unassigned, or a bit fixed at zero is set (R27, R49) -/
  | illop
  /-- the word of this instruction, but for the operand field at this position of R28, which must hold z -/
  | operand (i : Instr) (pos : Nat)
  deriving DecidableEq, Repr

/-- Read the row's instruction when its fixed zero bits hold, and check the fields that must hold z in R28's order. -/
def fixedFields (zeros : Bool) (zs : List (Bool × Nat)) (i : Instr) : Decoded :=
  if zeros then
    match zs.find? (fun z => !z.1) with
    | some z => .operand i z.2
    | none => .ok i
  else .illop

/-- Major 0x01 (REG). -/
def decode01 (w : Word) : Decoded :=
  match (fld w 0 3).toNat with
  | 0 => .ok (.iadd (fld w 18 7) (fld w 11 7) (fld w 4 7) (fld w 3 1))
  | 1 => .ok (.isub (fld w 18 7) (fld w 11 7) (fld w 4 7) (fld w 3 1))
  | 2 => .ok (.imin (fld w 18 7) (fld w 11 7) (fld w 4 7) (fld w 3 1))
  | 3 => .ok (.imax (fld w 18 7) (fld w 11 7) (fld w 4 7) (fld w 3 1))
  | 4 => .ok (.umin (fld w 18 7) (fld w 11 7) (fld w 4 7) (fld w 3 1))
  | 5 => .ok (.umax (fld w 18 7) (fld w 11 7) (fld w 4 7) (fld w 3 1))
  | 6 => .ok (.iabsd (fld w 18 7) (fld w 11 7) (fld w 4 7) (fld w 3 1))
  | _ => .illop

/-- Major 0x02 (IMM). -/
def decode02 (w : Word) : Decoded :=
  .ok (.iaddi (fld w 18 7) (fld w 11 7) (fld w 10 1) (fld w 0 10))

/-- Major 0x03 (REG). -/
def decode03 (w : Word) : Decoded :=
  match (fld w 0 3).toNat with
  | 0 => .ok (.and (fld w 18 7) (fld w 11 7) (fld w 4 7) (fld w 3 1))
  | 1 => .ok (.or (fld w 18 7) (fld w 11 7) (fld w 4 7) (fld w 3 1))
  | 2 => .ok (.xor (fld w 18 7) (fld w 11 7) (fld w 4 7) (fld w 3 1))
  | 3 => .ok (.andn (fld w 18 7) (fld w 11 7) (fld w 4 7) (fld w 3 1))
  | 4 => fixedFields true [(fld w 4 7 == 0x78, 3)] (.not (fld w 18 7) (fld w 11 7) (fld w 3 1))
  | _ => .illop

/-- Major 0x04 (IMM). -/
def decode04 (w : Word) : Decoded :=
  .ok (.andi (fld w 18 7) (fld w 11 7) (fld w 10 1) (fld w 0 10))

/-- Major 0x05 (IMM). -/
def decode05 (w : Word) : Decoded :=
  .ok (.ori (fld w 18 7) (fld w 11 7) (fld w 10 1) (fld w 0 10))

/-- Major 0x06 (IMM). -/
def decode06 (w : Word) : Decoded :=
  .ok (.xori (fld w 18 7) (fld w 11 7) (fld w 10 1) (fld w 0 10))

/-- Major 0x07 (REG). -/
def decode07 (w : Word) : Decoded :=
  match (fld w 0 3).toNat with
  | 0 => .ok (.shl (fld w 18 7) (fld w 11 7) (fld w 4 7) (fld w 3 1))
  | 1 => .ok (.shr (fld w 18 7) (fld w 11 7) (fld w 4 7) (fld w 3 1))
  | 2 => .ok (.sar (fld w 18 7) (fld w 11 7) (fld w 4 7) (fld w 3 1))
  | 3 => .ok (.ror (fld w 18 7) (fld w 11 7) (fld w 4 7) (fld w 3 1))
  | 4 => .ok (.bfe (fld w 18 7) (fld w 11 7) (fld w 4 7) (fld w 3 1))
  | 5 => .ok (.bfi (fld w 18 7) (fld w 11 7) (fld w 4 7) (fld w 3 1))
  | _ => .illop

/-- Major 0x08 (IMM). -/
def decode08 (w : Word) : Decoded :=
  match (fld w 8 2).toNat with
  | 0 => fixedFields (fld w 6 2 == 0) [] (.shli (fld w 18 7) (fld w 11 7) (fld w 10 1) (fld w 0 6))
  | 1 => fixedFields (fld w 6 2 == 0) [] (.shri (fld w 18 7) (fld w 11 7) (fld w 10 1) (fld w 0 6))
  | 2 => fixedFields (fld w 6 2 == 0) [] (.sari (fld w 18 7) (fld w 11 7) (fld w 10 1) (fld w 0 6))
  | _ => fixedFields (fld w 6 2 == 0) [] (.rori (fld w 18 7) (fld w 11 7) (fld w 10 1) (fld w 0 6))

/-- Major 0x09 (REG). -/
def decode09 (w : Word) : Decoded :=
  match (fld w 0 3).toNat with
  | 0 => .ok (.imul (fld w 18 7) (fld w 11 7) (fld w 4 7) (fld w 3 1))
  | 1 => .ok (.imulh (fld w 18 7) (fld w 11 7) (fld w 4 7) (fld w 3 1))
  | 2 => .ok (.umulh (fld w 18 7) (fld w 11 7) (fld w 4 7) (fld w 3 1))
  | 3 => .ok (.idiv (fld w 18 7) (fld w 11 7) (fld w 4 7) (fld w 3 1))
  | 4 => .ok (.udiv (fld w 18 7) (fld w 11 7) (fld w 4 7) (fld w 3 1))
  | 5 => .ok (.irem (fld w 18 7) (fld w 11 7) (fld w 4 7) (fld w 3 1))
  | 6 => .ok (.urem (fld w 18 7) (fld w 11 7) (fld w 4 7) (fld w 3 1))
  | _ => .illop

/-- Major 0x0A (ACC). -/
def decode0A (w : Word) : Decoded :=
  .ok (.imad (fld w 18 7) (fld w 11 7) (fld w 4 7) (fld w 1 3) (fld w 0 1))

/-- Major 0x0B (REG). -/
def decode0B (w : Word) : Decoded :=
  match (fld w 0 3).toNat with
  | 0 => fixedFields true [(fld w 4 7 == 0x78, 3)] (.popc (fld w 18 7) (fld w 11 7) (fld w 3 1))
  | 1 => fixedFields true [(fld w 4 7 == 0x78, 3)] (.clz (fld w 18 7) (fld w 11 7) (fld w 3 1))
  | 2 => fixedFields true [(fld w 4 7 == 0x78, 3)] (.ctz (fld w 18 7) (fld w 11 7) (fld w 3 1))
  | 3 => fixedFields true [(fld w 4 7 == 0x78, 3)] (.brev (fld w 18 7) (fld w 11 7) (fld w 3 1))
  | 4 => fixedFields true [(fld w 4 7 == 0x78, 3)] (.bswap (fld w 18 7) (fld w 11 7) (fld w 3 1))
  | 5 => fixedFields true [(fld w 4 7 == 0x78, 3)] (.sext8 (fld w 18 7) (fld w 11 7) (fld w 3 1))
  | 6 => fixedFields true [(fld w 4 7 == 0x78, 3)] (.sext16 (fld w 18 7) (fld w 11 7) (fld w 3 1))
  | _ => .illop

/-- Major 0x0C (REG). -/
def decode0C (w : Word) : Decoded :=
  fixedFields (fld w 3 1 == 0) [] (.icmp (fld w 18 7) (fld w 11 7) (fld w 4 7) (fld w 0 3))

/-- Major 0x0D (IMM). -/
def decode0D (w : Word) : Decoded :=
  fixedFields (fld w 10 1 == 0) [] (.icmpi (fld w 18 7) (fld w 11 7) (fld w 7 3) (fld w 0 7))

/-- Major 0x0E (IMM). -/
def decode0E (w : Word) : Decoded :=
  fixedFields true [(fld w 11 7 == 0x78, 2)] (.movi (fld w 18 7) (fld w 10 1) (fld w 0 10))

/-- Major 0x0F (REG). -/
def decode0F (w : Word) : Decoded :=
  .ok (.sel (fld w 18 7) (fld w 11 7) (fld w 4 7) (fld w 3 1) (fld w 0 3))

/-- Major 0x10 (REG). -/
def decode10 (w : Word) : Decoded :=
  match (fld w 0 3).toNat with
  | 0 => fixedFields (fld w 3 1 == 0) [] (.pand (fld w 18 7) (fld w 11 7) (fld w 4 7))
  | 1 => fixedFields (fld w 3 1 == 0) [] (.por (fld w 18 7) (fld w 11 7) (fld w 4 7))
  | 2 => fixedFields (fld w 3 1 == 0) [] (.pxor (fld w 18 7) (fld w 11 7) (fld w 4 7))
  | 3 => fixedFields (fld w 3 1 == 0) [] (.pandn (fld w 18 7) (fld w 11 7) (fld w 4 7))
  | 4 => fixedFields (fld w 4 7 == 0 && fld w 3 1 == 0) [] (.pmov (fld w 18 7) (fld w 11 7))
  | 5 => fixedFields (fld w 3 1 == 0) [(fld w 4 7 == 0x78, 3)] (.pnz (fld w 18 7) (fld w 11 7))
  | 6 => fixedFields (fld w 4 7 == 0) [] (.ptoi (fld w 18 7) (fld w 11 7) (fld w 3 1))
  | _ => .illop

/-- Major 0x11 (REG). -/
def decode11 (w : Word) : Decoded :=
  .ok (.lea (fld w 18 7) (fld w 11 7) (fld w 4 7) (fld w 3 1) (fld w 0 3))

/-- Major 0x12 (REG). -/
def decode12 (w : Word) : Decoded :=
  match (fld w 0 3).toNat with
  | 0 => .ok (.shfli (fld w 18 7) (fld w 11 7) (fld w 4 7) (fld w 3 1))
  | 1 => .ok (.shflu (fld w 18 7) (fld w 11 7) (fld w 4 7) (fld w 3 1))
  | 2 => .ok (.shfld (fld w 18 7) (fld w 11 7) (fld w 4 7) (fld w 3 1))
  | 3 => .ok (.shflx (fld w 18 7) (fld w 11 7) (fld w 4 7) (fld w 3 1))
  | 4 => fixedFields true [(fld w 4 7 == 0x78, 3)] (.swapp (fld w 18 7) (fld w 11 7) (fld w 3 1))
  | 5 => .ok (.bcast (fld w 18 7) (fld w 11 7) (fld w 4 7) (fld w 3 1))
  | _ => .illop

/-- Major 0x13 (REG). -/
def decode13 (w : Word) : Decoded :=
  match (fld w 0 3).toNat with
  | 0 => fixedFields (fld w 3 1 == 0) [(fld w 4 7 == 0x78, 3)] (.vany (fld w 18 7) (fld w 11 7))
  | 1 => fixedFields (fld w 3 1 == 0) [(fld w 4 7 == 0x78, 3)] (.vall (fld w 18 7) (fld w 11 7))
  | 2 => fixedFields true [(fld w 4 7 == 0x78, 3)] (.vbal (fld w 18 7) (fld w 11 7) (fld w 3 1))
  | 3 => fixedFields true [(fld w 4 7 == 0x78, 3)] (.matchLanes (fld w 18 7) (fld w 11 7) (fld w 3 1))
  | _ => .illop

/-- Major 0x14 (REG). -/
def decode14 (w : Word) : Decoded :=
  match (fld w 0 3).toNat with
  | 0 => fixedFields true [(fld w 4 7 == 0x78, 3)] (.rdadd (fld w 18 7) (fld w 11 7) (fld w 3 1))
  | 1 => fixedFields true [(fld w 4 7 == 0x78, 3)] (.rdmin (fld w 18 7) (fld w 11 7) (fld w 3 1))
  | 2 => fixedFields true [(fld w 4 7 == 0x78, 3)] (.rdmax (fld w 18 7) (fld w 11 7) (fld w 3 1))
  | 3 => fixedFields true [(fld w 4 7 == 0x78, 3)] (.rdand (fld w 18 7) (fld w 11 7) (fld w 3 1))
  | 4 => fixedFields true [(fld w 4 7 == 0x78, 3)] (.rdor (fld w 18 7) (fld w 11 7) (fld w 3 1))
  | 5 => fixedFields true [(fld w 4 7 == 0x78, 3)] (.rdxor (fld w 18 7) (fld w 11 7) (fld w 3 1))
  | 6 => fixedFields true [(fld w 4 7 == 0x78, 3)] (.rdfadd (fld w 18 7) (fld w 11 7) (fld w 3 1))
  | _ => fixedFields true [(fld w 4 7 == 0x78, 3)] (.rdfmax (fld w 18 7) (fld w 11 7) (fld w 3 1))

/-- Major 0x15 (REG). -/
def decode15 (w : Word) : Decoded :=
  match (fld w 0 3).toNat with
  | 0 => fixedFields true [(fld w 4 7 == 0x78, 3)] (.scadd (fld w 18 7) (fld w 11 7) (fld w 3 1))
  | 1 => fixedFields true [(fld w 4 7 == 0x78, 3)] (.scfadd (fld w 18 7) (fld w 11 7) (fld w 3 1))
  | _ => .illop

/-- Major 0x16 (IMM). -/
def decode16 (w : Word) : Decoded :=
  fixedFields (fld w 10 1 == 0 && fld w 3 7 == 0) [(fld w 18 7 == 0x78, 1), (fld w 11 7 == 0x78, 2)] (.rake (fld w 0 3))

/-- Major 0x18 (REG). -/
def decode18 (w : Word) : Decoded :=
  match (fld w 0 3).toNat with
  | 0 => .ok (.fadd (fld w 18 7) (fld w 11 7) (fld w 4 7) (fld w 3 1))
  | 1 => .ok (.fsub (fld w 18 7) (fld w 11 7) (fld w 4 7) (fld w 3 1))
  | 2 => .ok (.fmul (fld w 18 7) (fld w 11 7) (fld w 4 7) (fld w 3 1))
  | 3 => .ok (.fdiv (fld w 18 7) (fld w 11 7) (fld w 4 7) (fld w 3 1))
  | 4 => .ok (.fmin (fld w 18 7) (fld w 11 7) (fld w 4 7) (fld w 3 1))
  | 5 => .ok (.fmax (fld w 18 7) (fld w 11 7) (fld w 4 7) (fld w 3 1))
  | 6 => .ok (.fcpsgn (fld w 18 7) (fld w 11 7) (fld w 4 7) (fld w 3 1))
  | _ => .illop

/-- Major 0x19 (ACC). -/
def decode19 (w : Word) : Decoded :=
  .ok (.ffma (fld w 18 7) (fld w 11 7) (fld w 4 7) (fld w 1 3) (fld w 0 1))

/-- Major 0x1A (ACC). -/
def decode1A (w : Word) : Decoded :=
  .ok (.ffms (fld w 18 7) (fld w 11 7) (fld w 4 7) (fld w 1 3) (fld w 0 1))

/-- Major 0x1B (REG). -/
def decode1B (w : Word) : Decoded :=
  fixedFields (fld w 3 1 == 0) [] (.fcmp (fld w 18 7) (fld w 11 7) (fld w 4 7) (fld w 0 3))

/-- Major 0x1C (IMM). -/
def decode1C (w : Word) : Decoded :=
  .ok (.faddi (fld w 18 7) (fld w 11 7) (fld w 10 1) (fld w 0 10))

/-- Major 0x1E (REG). -/
def decode1E (w : Word) : Decoded :=
  match (fld w 0 3).toNat with
  | 0 => fixedFields true [(fld w 4 7 == 0x78, 3)] (.frndn (fld w 18 7) (fld w 11 7) (fld w 3 1))
  | 1 => fixedFields true [(fld w 4 7 == 0x78, 3)] (.frndz (fld w 18 7) (fld w 11 7) (fld w 3 1))
  | 2 => fixedFields true [(fld w 4 7 == 0x78, 3)] (.frndu (fld w 18 7) (fld w 11 7) (fld w 3 1))
  | 3 => fixedFields true [(fld w 4 7 == 0x78, 3)] (.frndd (fld w 18 7) (fld w 11 7) (fld w 3 1))
  | 4 => fixedFields true [(fld w 4 7 == 0x78, 3)] (.ffrac (fld w 18 7) (fld w 11 7) (fld w 3 1))
  | 5 => fixedFields true [(fld w 4 7 == 0x78, 3)] (.fabs (fld w 18 7) (fld w 11 7) (fld w 3 1))
  | 6 => fixedFields true [(fld w 4 7 == 0x78, 3)] (.fneg (fld w 18 7) (fld w 11 7) (fld w 3 1))
  | _ => fixedFields true [(fld w 4 7 == 0x78, 3)] (.fclass (fld w 18 7) (fld w 11 7) (fld w 3 1))

/-- Major 0x1F (REG). -/
def decode1F (w : Word) : Decoded :=
  match (fld w 0 3).toNat with
  | 0 => .ok (.hadd2 (fld w 18 7) (fld w 11 7) (fld w 4 7) (fld w 3 1))
  | 1 => .ok (.hmul2 (fld w 18 7) (fld w 11 7) (fld w 4 7) (fld w 3 1))
  | 2 => .ok (.badd2 (fld w 18 7) (fld w 11 7) (fld w 4 7) (fld w 3 1))
  | 3 => .ok (.bmul2 (fld w 18 7) (fld w 11 7) (fld w 4 7) (fld w 3 1))
  | _ => .illop

/-- Major 0x20 (ACC). -/
def decode20 (w : Word) : Decoded :=
  .ok (.hfma2 (fld w 18 7) (fld w 11 7) (fld w 4 7) (fld w 1 3) (fld w 0 1))

/-- Major 0x21 (ACC). -/
def decode21 (w : Word) : Decoded :=
  .ok (.bfma2 (fld w 18 7) (fld w 11 7) (fld w 4 7) (fld w 1 3) (fld w 0 1))

/-- Major 0x22 (REG). -/
def decode22 (w : Word) : Decoded :=
  match (fld w 0 3).toNat with
  | 0 => .ok (.dadd (fld w 18 7) (fld w 11 7) (fld w 4 7) (fld w 3 1))
  | 1 => .ok (.dsub (fld w 18 7) (fld w 11 7) (fld w 4 7) (fld w 3 1))
  | 2 => .ok (.dmul (fld w 18 7) (fld w 11 7) (fld w 4 7) (fld w 3 1))
  | 3 => .ok (.ddiv (fld w 18 7) (fld w 11 7) (fld w 4 7) (fld w 3 1))
  | 4 => fixedFields true [(fld w 4 7 == 0x78, 3)] (.dsqrt (fld w 18 7) (fld w 11 7) (fld w 3 1))
  | _ => .illop

/-- Major 0x23 (ACC). -/
def decode23 (w : Word) : Decoded :=
  .ok (.dfma (fld w 18 7) (fld w 11 7) (fld w 4 7) (fld w 1 3) (fld w 0 1))

/-- Major 0x24 (REG). -/
def decode24 (w : Word) : Decoded :=
  fixedFields (fld w 3 1 == 0) [] (.dcmp (fld w 18 7) (fld w 11 7) (fld w 4 7) (fld w 0 3))

/-- Major 0x25 (REG). -/
def decode25 (w : Word) : Decoded :=
  match (fld w 0 3).toNat with
  | 0 => fixedFields true [(fld w 4 7 == 0x78, 3)] (.rcp (fld w 18 7) (fld w 11 7) (fld w 3 1))
  | 1 => fixedFields true [(fld w 4 7 == 0x78, 3)] (.rsq (fld w 18 7) (fld w 11 7) (fld w 3 1))
  | 2 => fixedFields true [(fld w 4 7 == 0x78, 3)] (.sqrt (fld w 18 7) (fld w 11 7) (fld w 3 1))
  | 3 => fixedFields true [(fld w 4 7 == 0x78, 3)] (.ex2 (fld w 18 7) (fld w 11 7) (fld w 3 1))
  | 4 => fixedFields true [(fld w 4 7 == 0x78, 3)] (.lg2 (fld w 18 7) (fld w 11 7) (fld w 3 1))
  | 5 => fixedFields true [(fld w 4 7 == 0x78, 3)] (.sint (fld w 18 7) (fld w 11 7) (fld w 3 1))
  | 6 => fixedFields true [(fld w 4 7 == 0x78, 3)] (.cost (fld w 18 7) (fld w 11 7) (fld w 3 1))
  | _ => fixedFields true [(fld w 4 7 == 0x78, 3)] (.tanh (fld w 18 7) (fld w 11 7) (fld w 3 1))

/-- Major 0x26 (REG). -/
def decode26 (w : Word) : Decoded :=
  match (fld w 0 3).toNat with
  | 0 => fixedFields true [(fld w 4 7 == 0x78, 3)] (.itof (fld w 18 7) (fld w 11 7) (fld w 3 1))
  | 1 => fixedFields true [(fld w 4 7 == 0x78, 3)] (.utof (fld w 18 7) (fld w 11 7) (fld w 3 1))
  | 2 => fixedFields true [(fld w 4 7 == 0x78, 3)] (.ftoi (fld w 18 7) (fld w 11 7) (fld w 3 1))
  | 3 => fixedFields true [(fld w 4 7 == 0x78, 3)] (.ftou (fld w 18 7) (fld w 11 7) (fld w 3 1))
  | 4 => fixedFields true [(fld w 4 7 == 0x78, 3)] (.ftod (fld w 18 7) (fld w 11 7) (fld w 3 1))
  | 5 => fixedFields true [(fld w 4 7 == 0x78, 3)] (.dtof (fld w 18 7) (fld w 11 7) (fld w 3 1))
  | 6 => fixedFields true [(fld w 4 7 == 0x78, 3)] (.itod (fld w 18 7) (fld w 11 7) (fld w 3 1))
  | _ => fixedFields true [(fld w 4 7 == 0x78, 3)] (.dtoi (fld w 18 7) (fld w 11 7) (fld w 3 1))

/-- Major 0x27 (REG). -/
def decode27 (w : Word) : Decoded :=
  match (fld w 0 3).toNat with
  | 0 => .ok (.ftoh2 (fld w 18 7) (fld w 11 7) (fld w 4 7) (fld w 3 1))
  | 1 => fixedFields true [(fld w 4 7 == 0x78, 3)] (.htofl (fld w 18 7) (fld w 11 7) (fld w 3 1))
  | 2 => fixedFields true [(fld w 4 7 == 0x78, 3)] (.htofh (fld w 18 7) (fld w 11 7) (fld w 3 1))
  | 3 => .ok (.ftob2 (fld w 18 7) (fld w 11 7) (fld w 4 7) (fld w 3 1))
  | 4 => fixedFields true [(fld w 4 7 == 0x78, 3)] (.btofl (fld w 18 7) (fld w 11 7) (fld w 3 1))
  | 5 => fixedFields true [(fld w 4 7 == 0x78, 3)] (.btofh (fld w 18 7) (fld w 11 7) (fld w 3 1))
  | _ => .illop

/-- Major 0x28 (REG). -/
def decode28 (w : Word) : Decoded :=
  match (fld w 0 3).toNat with
  | 0 => .ok (.x8e4 (fld w 18 7) (fld w 11 7) (fld w 4 7) (fld w 3 1))
  | 1 => .ok (.x8e5 (fld w 18 7) (fld w 11 7) (fld w 4 7) (fld w 3 1))
  | 2 => .ok (.x6a (fld w 18 7) (fld w 11 7) (fld w 4 7) (fld w 3 1))
  | 3 => .ok (.x6b (fld w 18 7) (fld w 11 7) (fld w 4 7) (fld w 3 1))
  | 4 => .ok (.xi4o (fld w 18 7) (fld w 11 7) (fld w 4 7) (fld w 3 1))
  | 5 => .ok (.xi8 (fld w 18 7) (fld w 11 7) (fld w 4 7) (fld w 3 1))
  | _ => .illop

/-- Major 0x29 (REG). -/
noncomputable def decode29 (w : Word) : Decoded :=
  match (fld w 0 3).toNat with
  | 0 => fixedFields (fld w 3 1 == 0) [] (.p8e4 (fld w 18 7) (fld w 11 7) (fld w 4 7))
  | 1 => fixedFields (fld w 3 1 == 0) [] (.p8e5 (fld w 18 7) (fld w 11 7) (fld w 4 7))
  | 2 => fixedFields (fld w 3 1 == 0) [] (.p6a (fld w 18 7) (fld w 11 7) (fld w 4 7))
  | 3 => fixedFields (fld w 3 1 == 0) [] (.p6b (fld w 18 7) (fld w 11 7) (fld w 4 7))
  | 4 => fixedFields (fld w 3 1 == 0) [] (.pi4o (fld w 18 7) (fld w 11 7) (fld w 4 7))
  | 5 => fixedFields (fld w 3 1 == 0) [] (.pi8 (fld w 18 7) (fld w 11 7) (fld w 4 7))
  | _ => .illop

/-- Major 0x2A (REG). -/
noncomputable def decode2A (w : Word) : Decoded :=
  match (fld w 0 3).toNat with
  | 0 => .ok (.rmake (fld w 18 7) (fld w 11 7) (fld w 4 7) (fld w 3 1))
  | 1 => fixedFields true [(fld w 4 7 == 0x78, 3)] (.rnum (fld w 18 7) (fld w 11 7) (fld w 3 1))
  | 2 => fixedFields true [(fld w 4 7 == 0x78, 3)] (.rden (fld w 18 7) (fld w 11 7) (fld w 3 1))
  | 3 => .ok (.rmed (fld w 18 7) (fld w 11 7) (fld w 4 7) (fld w 3 1))
  | 4 => .ok (.rgcd (fld w 18 7) (fld w 11 7) (fld w 4 7) (fld w 3 1))
  | 5 => fixedFields true [(fld w 4 7 == 0x78, 3)] (.rflr (fld w 18 7) (fld w 11 7) (fld w 3 1))
  | 6 => fixedFields true [(fld w 4 7 == 0x78, 3)] (.rtof (fld w 18 7) (fld w 11 7) (fld w 3 1))
  | _ => fixedFields true [(fld w 4 7 == 0x78, 3)] (.ftor (fld w 18 7) (fld w 11 7) (fld w 3 1))

/-- Major 0x2B (IMM). -/
noncomputable def decode2B (w : Word) : Decoded :=
  fixedFields (fld w 10 1 == 0 && fld w 5 5 == 0) [(fld w 18 7 == 0x78, 1), (fld w 11 7 == 0x78, 2)] (.rmode (fld w 4 1) (fld w 1 3) (fld w 0 1))

/-- Major 0x30 (BRN). -/
noncomputable def decode30 (w : Word) : Decoded :=
  .ok (.bra (fld w 22 3) (fld w 21 1) (fld w 0 21))

/-- Major 0x31 (REG). -/
noncomputable def decode31 (w : Word) : Decoded :=
  match (fld w 0 3).toNat with
  | 0 => fixedFields (fld w 3 1 == 0) [(fld w 18 7 == 0x78, 1), (fld w 4 7 == 0x78, 3)] (.brx (fld w 11 7))
  | _ => .illop

/-- Major 0x32 (BRN). -/
noncomputable def decode32 (w : Word) : Decoded :=
  .ok (.call (fld w 22 3) (fld w 21 1) (fld w 0 21))

/-- Major 0x33 (REG). -/
noncomputable def decode33 (w : Word) : Decoded :=
  match (fld w 0 3).toNat with
  | 0 => fixedFields (fld w 3 1 == 0) [(fld w 18 7 == 0x78, 1), (fld w 4 7 == 0x78, 3)] (.callx (fld w 11 7))
  | _ => .illop

/-- Major 0x34 (REG). -/
noncomputable def decode34 (w : Word) : Decoded :=
  match (fld w 0 3).toNat with
  | 0 => fixedFields (fld w 3 1 == 0) [(fld w 18 7 == 0x78, 1), (fld w 11 7 == 0x78, 2), (fld w 4 7 == 0x78, 3)] (.ret)
  | _ => .illop

/-- Major 0x35 (REG). -/
noncomputable def decode35 (w : Word) : Decoded :=
  match (fld w 0 3).toNat with
  | 0 => fixedFields (fld w 3 1 == 0) [(fld w 18 7 == 0x78, 1), (fld w 11 7 == 0x78, 2), (fld w 4 7 == 0x78, 3)] (.exit)
  | _ => .illop

/-- Major 0x36 (REG). -/
noncomputable def decode36 (w : Word) : Decoded :=
  match (fld w 0 3).toNat with
  | 0 => fixedFields (fld w 3 1 == 0) [(fld w 18 7 == 0x78, 1), (fld w 11 7 == 0x78, 2), (fld w 4 7 == 0x78, 3)] (.yield)
  | _ => .illop

/-- Major 0x37 (REG). -/
noncomputable def decode37 (w : Word) : Decoded :=
  fixedFields (fld w 18 7 == 0 && fld w 11 7 == 0 && fld w 4 7 == 0 && fld w 3 1 == 0 && fld w 0 3 == 0) [] (.nop)

/-- Major 0x38 (REG). -/
noncomputable def decode38 (w : Word) : Decoded :=
  match (fld w 0 3).toNat with
  | 0 => fixedFields (fld w 3 1 == 0) [(fld w 18 7 == 0x78, 1)] (.barinit (fld w 11 7) (fld w 4 7))
  | 1 => fixedFields true [(fld w 4 7 == 0x78, 3)] (.bararr (fld w 18 7) (fld w 11 7) (fld w 3 1))
  | 2 => fixedFields (fld w 3 1 == 0) [(fld w 18 7 == 0x78, 1)] (.barwait (fld w 11 7) (fld w 4 7))
  | 3 => fixedFields true [(fld w 4 7 == 0x78, 3)] (.bararw (fld w 18 7) (fld w 11 7) (fld w 3 1))
  | 4 => fixedFields (fld w 3 1 == 0) [] (.bartest (fld w 18 7) (fld w 11 7) (fld w 4 7))
  | 5 => fixedFields (fld w 3 1 == 0) [(fld w 18 7 == 0x78, 1), (fld w 4 7 == 0x78, 3)] (.bardrop (fld w 11 7))
  | 6 => fixedFields (fld w 3 1 == 0) [(fld w 18 7 == 0x78, 1), (fld w 4 7 == 0x78, 3)] (.barinv (fld w 11 7))
  | _ => fixedFields true [(fld w 4 7 == 0x78, 3)] (.barph (fld w 18 7) (fld w 11 7) (fld w 3 1))

/-- Major 0x39 (FEN). -/
noncomputable def decode39 (w : Word) : Decoded :=
  fixedFields (fld w 0 5 == 0) [] (.fence (fld w 17 8) (fld w 9 8) (fld w 5 4))

/-- Major 0x3A (REG). -/
noncomputable def decode3A (w : Word) : Decoded :=
  match (fld w 0 3).toNat with
  | 0 => fixedFields (fld w 3 1 == 0) [(fld w 18 7 == 0x78, 1)] (.tlwait (fld w 11 7) (fld w 4 7))
  | 1 => fixedFields true [(fld w 4 7 == 0x78, 3)] (.tlread (fld w 18 7) (fld w 11 7) (fld w 3 1))
  | 2 => fixedFields (fld w 3 1 == 0) [] (.tlpoll (fld w 18 7) (fld w 11 7) (fld w 4 7))
  | 3 => fixedFields (fld w 3 1 == 0) [(fld w 18 7 == 0x78, 1)] (.tlsig (fld w 11 7) (fld w 4 7))
  | _ => .illop

/-- Major 0x3B (IMM). -/
noncomputable def decode3B (w : Word) : Decoded :=
  match (fld w 8 2).toNat with
  | 0 => fixedFields (fld w 10 1 == 0) [(fld w 18 7 == 0x78, 1), (fld w 11 7 == 0x78, 2)] (.tkwait (fld w 0 8))
  | 1 => fixedFields true [(fld w 11 7 == 0x78, 2)] (.tkany (fld w 18 7) (fld w 10 1) (fld w 0 8))
  | 2 => fixedFields (fld w 10 1 == 0) [(fld w 11 7 == 0x78, 2)] (.tktest (fld w 18 7) (fld w 0 8))
  | _ => .illop

/-- Major 0x40 (MEM). -/
noncomputable def decode40 (w : Word) : Decoded :=
  match (fld w 0 3).toNat with
  | 0 => .ok (.ld8 (fld w 18 7) (fld w 11 7) (fld w 5 6) (fld w 3 2))
  | 1 => .ok (.ld8s (fld w 18 7) (fld w 11 7) (fld w 5 6) (fld w 3 2))
  | 2 => .ok (.ld16 (fld w 18 7) (fld w 11 7) (fld w 5 6) (fld w 3 2))
  | 3 => .ok (.ld16s (fld w 18 7) (fld w 11 7) (fld w 5 6) (fld w 3 2))
  | 4 => .ok (.ld32 (fld w 18 7) (fld w 11 7) (fld w 5 6) (fld w 3 2))
  | 5 => .ok (.ld64 (fld w 18 7) (fld w 11 7) (fld w 5 6) (fld w 3 2))
  | 6 => .ok (.ld128 (fld w 18 7) (fld w 11 7) (fld w 5 6) (fld w 3 2))
  | _ => .ok (.ldnt (fld w 18 7) (fld w 11 7) (fld w 5 6) (fld w 3 2))

/-- Major 0x41 (MEM). -/
noncomputable def decode41 (w : Word) : Decoded :=
  match (fld w 0 3).toNat with
  | 0 => .ok (.st8 (fld w 18 7) (fld w 11 7) (fld w 5 6) (fld w 3 2))
  | 1 => .ok (.st16 (fld w 18 7) (fld w 11 7) (fld w 5 6) (fld w 3 2))
  | 2 => .ok (.st32 (fld w 18 7) (fld w 11 7) (fld w 5 6) (fld w 3 2))
  | 3 => .ok (.st64 (fld w 18 7) (fld w 11 7) (fld w 5 6) (fld w 3 2))
  | 4 => .ok (.st128 (fld w 18 7) (fld w 11 7) (fld w 5 6) (fld w 3 2))
  | 5 => .ok (.stnt (fld w 18 7) (fld w 11 7) (fld w 5 6) (fld w 3 2))
  | _ => .illop

/-- Major 0x42 (MEM). -/
noncomputable def decode42 (w : Word) : Decoded :=
  match (fld w 0 3).toNat with
  | 0 => .ok (.aadd (fld w 18 7) (fld w 11 7) (fld w 5 6) (fld w 3 2))
  | 1 => .ok (.amin (fld w 18 7) (fld w 11 7) (fld w 5 6) (fld w 3 2))
  | 2 => .ok (.amax (fld w 18 7) (fld w 11 7) (fld w 5 6) (fld w 3 2))
  | 3 => .ok (.aumin (fld w 18 7) (fld w 11 7) (fld w 5 6) (fld w 3 2))
  | 4 => .ok (.aand (fld w 18 7) (fld w 11 7) (fld w 5 6) (fld w 3 2))
  | 5 => .ok (.aor (fld w 18 7) (fld w 11 7) (fld w 5 6) (fld w 3 2))
  | 6 => .ok (.axor (fld w 18 7) (fld w 11 7) (fld w 5 6) (fld w 3 2))
  | _ => .ok (.axch (fld w 18 7) (fld w 11 7) (fld w 5 6) (fld w 3 2))

/-- Major 0x43 (MEM). -/
noncomputable def decode43 (w : Word) : Decoded :=
  match (fld w 0 3).toNat with
  | 0 => .ok (.aadd64 (fld w 18 7) (fld w 11 7) (fld w 5 6) (fld w 3 2))
  | 1 => .ok (.amin64 (fld w 18 7) (fld w 11 7) (fld w 5 6) (fld w 3 2))
  | 2 => .ok (.amax64 (fld w 18 7) (fld w 11 7) (fld w 5 6) (fld w 3 2))
  | 3 => .ok (.aand64 (fld w 18 7) (fld w 11 7) (fld w 5 6) (fld w 3 2))
  | 4 => .ok (.aor64 (fld w 18 7) (fld w 11 7) (fld w 5 6) (fld w 3 2))
  | 5 => .ok (.axor64 (fld w 18 7) (fld w 11 7) (fld w 5 6) (fld w 3 2))
  | 6 => .ok (.axch64 (fld w 18 7) (fld w 11 7) (fld w 5 6) (fld w 3 2))
  | _ => .ok (.afadd (fld w 18 7) (fld w 11 7) (fld w 5 6) (fld w 3 2))

/-- Major 0x44 (MEM). -/
noncomputable def decode44 (w : Word) : Decoded :=
  match (fld w 0 3).toNat with
  | 0 => .ok (.cas32 (fld w 18 7) (fld w 11 7) (fld w 5 6) (fld w 3 2))
  | 1 => .ok (.cas64 (fld w 18 7) (fld w 11 7) (fld w 5 6) (fld w 3 2))
  | _ => .illop

/-- Major 0x45 (MEM). -/
noncomputable def decode45 (w : Word) : Decoded :=
  match (fld w 0 3).toNat with
  | 0 => .ok (.redadd (fld w 18 7) (fld w 11 7) (fld w 5 6) (fld w 3 2))
  | 1 => .ok (.redmin (fld w 18 7) (fld w 11 7) (fld w 5 6) (fld w 3 2))
  | 2 => .ok (.redmax (fld w 18 7) (fld w 11 7) (fld w 5 6) (fld w 3 2))
  | 3 => .ok (.redand (fld w 18 7) (fld w 11 7) (fld w 5 6) (fld w 3 2))
  | 4 => .ok (.redor (fld w 18 7) (fld w 11 7) (fld w 5 6) (fld w 3 2))
  | 5 => .ok (.redxor (fld w 18 7) (fld w 11 7) (fld w 5 6) (fld w 3 2))
  | 6 => .ok (.redfadd (fld w 18 7) (fld w 11 7) (fld w 5 6) (fld w 3 2))
  | _ => .ok (.redbfadd (fld w 18 7) (fld w 11 7) (fld w 5 6) (fld w 3 2))

/-- Major 0x46 (MEM). -/
noncomputable def decode46 (w : Word) : Decoded :=
  match (fld w 0 3).toNat with
  | 0 => fixedFields (fld w 3 2 == 0) [] (.sbind (fld w 18 7) (fld w 11 7) (fld w 5 6))
  | 1 => fixedFields (fld w 5 6 == 0 && fld w 3 2 == 0) [(fld w 11 7 == 0x78, 2)] (.sflush (fld w 18 7))
  | 2 => fixedFields (fld w 5 6 == 0 && fld w 3 2 == 0) [(fld w 11 7 == 0x78, 2)] (.sdrop (fld w 18 7))
  | 3 => fixedFields (fld w 3 2 == 0) [(fld w 18 7 == 0x78, 1)] (.pref (fld w 11 7) (fld w 5 6))
  | 4 => fixedFields (fld w 3 2 == 0) [(fld w 18 7 == 0x78, 1)] (.cflush (fld w 11 7) (fld w 5 6))
  | _ => .illop

/-- Major 0x48 (REG). -/
noncomputable def decode48 (w : Word) : Decoded :=
  match (fld w 0 3).toNat with
  | 0 => fixedFields (fld w 3 1 == 0) [(fld w 18 7 == 0x78, 1)] (.texs (fld w 11 7) (fld w 4 7))
  | 1 => fixedFields (fld w 3 1 == 0) [(fld w 18 7 == 0x78, 1)] (.texl (fld w 11 7) (fld w 4 7))
  | 2 => fixedFields (fld w 3 1 == 0) [(fld w 18 7 == 0x78, 1)] (.texg (fld w 11 7) (fld w 4 7))
  | 3 => fixedFields (fld w 3 1 == 0) [(fld w 18 7 == 0x78, 1)] (.texq (fld w 11 7) (fld w 4 7))
  | _ => .illop

/-- Major 0x49 (REG). -/
noncomputable def decode49 (w : Word) : Decoded :=
  match (fld w 0 3).toNat with
  | 0 => fixedFields true [(fld w 4 7 == 0x78, 3)] (.rbegin (fld w 18 7) (fld w 11 7) (fld w 3 1))
  | 1 => .ok (.rdraw (fld w 18 7) (fld w 11 7) (fld w 4 7) (fld w 3 1))
  | 2 => fixedFields true [(fld w 4 7 == 0x78, 3)] (.rflush (fld w 18 7) (fld w 11 7) (fld w 3 1))
  | _ => .illop

/-- Major 0x50 (TIL). -/
noncomputable def decode50 (w : Word) : Decoded :=
  fixedFields (fld w 4 2 == 0) [(fld w 6 7 == 0x78, 3)] (.mma (fld w 20 5) (fld w 13 7) (fld w 3 1) (fld w 0 3))

/-- Major 0x51 (TIL). -/
noncomputable def decode51 (w : Word) : Decoded :=
  .ok (.mmas (fld w 20 5) (fld w 13 7) (fld w 6 7) (fld w 4 2) (fld w 3 1) (fld w 0 3))

/-- Major 0x52 (TIL). -/
noncomputable def decode52 (w : Word) : Decoded :=
  match (fld w 0 3).toNat with
  | 0 => .ok (.mlda (fld w 20 5) (fld w 13 7) (fld w 6 7) (fld w 4 2) (fld w 3 1))
  | 1 => fixedFields (fld w 3 1 == 0) [] (.mldw (fld w 20 5) (fld w 13 7) (fld w 6 7) (fld w 4 2))
  | 2 => fixedFields (fld w 4 2 == 0 && fld w 3 1 == 0) [(fld w 13 7 == 0x78, 2), (fld w 6 7 == 0x78, 3)] (.macz (fld w 20 5))
  | 3 => fixedFields (fld w 4 2 == 0 && fld w 3 1 == 0) [(fld w 6 7 == 0x78, 3)] (.macld (fld w 20 5) (fld w 13 7))
  | 4 => fixedFields (fld w 4 2 == 0 && fld w 3 1 == 0) [(fld w 6 7 == 0x78, 3)] (.macst (fld w 20 5) (fld w 13 7))
  | 5 => fixedFields (fld w 4 2 == 0 && fld w 3 1 == 0) [(fld w 6 7 == 0x78, 3)] (.mrow (fld w 20 5) (fld w 13 7))
  | 6 => fixedFields (fld w 4 2 == 0 && fld w 3 1 == 0) [(fld w 20 5 == 0, 1), (fld w 13 7 == 0x78, 2), (fld w 6 7 == 0x78, 3)] (.msync)
  | _ => fixedFields (fld w 4 2 == 0 && fld w 3 1 == 0) [(fld w 6 7 == 0x78, 3)] (.mcfg (fld w 20 5) (fld w 13 7))

/-- Major 0x53 (REG). -/
noncomputable def decode53 (w : Word) : Decoded :=
  match (fld w 0 3).toNat with
  | 0 => fixedFields true [(fld w 11 7 == 0x78, 2), (fld w 4 7 == 0x78, 3)] (.mpop (fld w 18 7) (fld w 3 1))
  | 1 => fixedFields true [(fld w 11 7 == 0x78, 2), (fld w 4 7 == 0x78, 3)] (.mpopb (fld w 18 7) (fld w 3 1))
  | _ => .illop

/-- Major 0x54 (CPY). -/
noncomputable def decode54 (w : Word) : Decoded :=
  match (fld w 0 3).toNat with
  | 0 => fixedFields (fld w 3 5 == 0) [] (.frcopy (fld w 22 3) (fld w 15 7) (fld w 8 7))
  | 1 => fixedFields (fld w 3 5 == 0) [] (.frfill (fld w 22 3) (fld w 15 7) (fld w 8 7))
  | 2 => fixedFields (fld w 3 5 == 0) [] (.frgath (fld w 22 3) (fld w 15 7) (fld w 8 7))
  | 3 => fixedFields (fld w 3 5 == 0) [] (.frscat (fld w 22 3) (fld w 15 7) (fld w 8 7))
  | 4 => fixedFields (fld w 3 5 == 0) [] (.frred (fld w 22 3) (fld w 15 7) (fld w 8 7))
  | 5 => fixedFields (fld w 3 5 == 0) [] (.frpf (fld w 22 3) (fld w 15 7) (fld w 8 7))
  | _ => .illop

/-- Major 0x56 (REG). -/
noncomputable def decode56 (w : Word) : Decoded :=
  match (fld w 0 3).toNat with
  | 0 => .ok (.spawn (fld w 18 7) (fld w 11 7) (fld w 4 7) (fld w 3 1))
  | 1 => .ok (.join (fld w 18 7) (fld w 11 7) (fld w 4 7) (fld w 3 1))
  | 2 => .ok (.enq (fld w 18 7) (fld w 11 7) (fld w 4 7) (fld w 3 1))
  | 3 => .ok (.deq (fld w 18 7) (fld w 11 7) (fld w 4 7) (fld w 3 1))
  | 4 => .ok (.launch (fld w 18 7) (fld w 11 7) (fld w 4 7) (fld w 3 1))
  | 5 => fixedFields true [(fld w 18 7 == 0x78, 1), (fld w 4 7 == 0x78, 3)] (.cancel (fld w 11 7) (fld w 3 1))
  | 6 => fixedFields true [(fld w 4 7 == 0x78, 3)] (.cntrd (fld w 18 7) (fld w 11 7) (fld w 3 1))
  | _ => .illop

/-- Major 0x58 (REG). -/
noncomputable def decode58 (w : Word) : Decoded :=
  match (fld w 0 3).toNat with
  | 0 => fixedFields true [(fld w 4 7 == 0x78, 3)] (.lwait (fld w 18 7) (fld w 11 7) (fld w 3 1))
  | 1 => .ok (.lemit (fld w 18 7) (fld w 11 7) (fld w 4 7) (fld w 3 1))
  | 2 => fixedFields (fld w 3 1 == 0) [(fld w 18 7 == 0x7a, 1)] (.mesrch (fld w 11 7) (fld w 4 7))
  | 3 => fixedFields (fld w 3 1 == 0) [(fld w 18 7 == 0x78, 1)] (.warpb (fld w 11 7) (fld w 4 7))
  | 4 => .ok (.fbset (fld w 18 7) (fld w 11 7) (fld w 4 7) (fld w 3 1))
  | 5 => fixedFields true [(fld w 4 7 == 0x78, 3)] (.tmstat (fld w 18 7) (fld w 11 7) (fld w 3 1))
  | 6 => fixedFields true [(fld w 4 7 == 0x78, 3)] (.dlread (fld w 18 7) (fld w 11 7) (fld w 3 1))
  | _ => .illop

/-- Major 0x60 (REG). -/
noncomputable def decode60 (w : Word) : Decoded :=
  match (fld w 0 3).toNat with
  | 0 => fixedFields (fld w 3 1 == 0) [(fld w 18 7 == 0x78, 1), (fld w 4 7 == 0x78, 3)] (.trap (fld w 11 7))
  | 1 => fixedFields true [(fld w 11 7 == 0x78, 2)] (.rdsr (fld w 18 7) (fld w 4 7) (fld w 3 1))
  | 2 => fixedFields (fld w 3 1 == 0) [(fld w 18 7 == 0x78, 1)] (.wrsr (fld w 11 7) (fld w 4 7))
  | 3 => fixedFields true [(fld w 11 7 == 0x78, 2), (fld w 4 7 == 0x78, 3)] (.cyc (fld w 18 7) (fld w 3 1))
  | 4 => fixedFields (fld w 3 1 == 0) [(fld w 18 7 == 0x78, 1), (fld w 11 7 == 0x78, 2), (fld w 4 7 == 0x78, 3)] (.eret)
  | 5 => fixedFields (fld w 3 1 == 0) [(fld w 18 7 == 0x78, 1), (fld w 11 7 == 0x78, 2), (fld w 4 7 == 0x78, 3)] (.brk)
  | 6 => fixedFields (fld w 3 1 == 0) [(fld w 18 7 == 0x78, 1), (fld w 4 7 == 0x78, 3)] (.scall (fld w 11 7))
  | _ => fixedFields (fld w 3 1 == 0) [(fld w 18 7 == 0x78, 1), (fld w 11 7 == 0x78, 2), (fld w 4 7 == 0x78, 3)] (.halt)

/-- Major 0x61 (REG). -/
noncomputable def decode61 (w : Word) : Decoded :=
  match (fld w 0 3).toNat with
  | 0 => fixedFields (fld w 3 1 == 0) [] (.mseal (fld w 18 7) (fld w 11 7) (fld w 4 7))
  | 1 => fixedFields (fld w 3 1 == 0) [] (.mharv (fld w 18 7) (fld w 11 7) (fld w 4 7))
  | 2 => fixedFields (fld w 3 1 == 0) [] (.mquery (fld w 18 7) (fld w 11 7) (fld w 4 7))
  | 3 => fixedFields (fld w 3 1 == 0) [] (.mretire (fld w 18 7) (fld w 11 7) (fld w 4 7))
  | _ => .illop

/-- Major 0x62 (REG). -/
noncomputable def decode62 (w : Word) : Decoded :=
  match (fld w 0 3).toNat with
  | 0 => fixedFields (fld w 3 1 == 0) [(fld w 18 7 == 0x78, 1)] (.tlbinv (fld w 11 7) (fld w 4 7))
  | 1 => fixedFields (fld w 3 1 == 0) [(fld w 18 7 == 0x78, 1), (fld w 11 7 == 0x78, 2)] (.tlbinva (fld w 4 7))
  | _ => .illop

/-- Major 0x7F (HNT). -/
noncomputable def decode7F (w : Word) : Decoded :=
  match (fld w 22 3).toNat with
  | 0 => .ok (.hintConst (fld w 0 22))
  | 1 => fixedFields (fld w 0 14 == 0) [] (.hintGuard (fld w 19 3) (fld w 18 1) (fld w 14 4))
  | 2 => fixedFields (fld w 4 18 == 0) [] (.hintHold (fld w 0 4))
  | 3 => fixedFields (fld w 0 16 == 0) [] (.hintScope (fld w 18 4) (fld w 16 2))
  | 4 => fixedFields (fld w 0 19 == 0) [] (.hintRound (fld w 19 3))
  | 5 => fixedFields (fld w 0 15 == 0) [] (.hintMod (fld w 20 2) (fld w 18 2) (fld w 17 1) (fld w 16 1) (fld w 15 1))
  | 6 => fixedFields (fld w 0 15 == 0) [] (.hintSched (fld w 16 6) (fld w 15 1))
  | _ => .illop

/-- The instruction a word stands for (R25, R26, R49). -/
noncomputable def decode (w : Word) : Decoded :=
  match (fld w 25 7).toNat with
  | 0x01 => decode01 w
  | 0x02 => decode02 w
  | 0x03 => decode03 w
  | 0x04 => decode04 w
  | 0x05 => decode05 w
  | 0x06 => decode06 w
  | 0x07 => decode07 w
  | 0x08 => decode08 w
  | 0x09 => decode09 w
  | 0x0A => decode0A w
  | 0x0B => decode0B w
  | 0x0C => decode0C w
  | 0x0D => decode0D w
  | 0x0E => decode0E w
  | 0x0F => decode0F w
  | 0x10 => decode10 w
  | 0x11 => decode11 w
  | 0x12 => decode12 w
  | 0x13 => decode13 w
  | 0x14 => decode14 w
  | 0x15 => decode15 w
  | 0x16 => decode16 w
  | 0x18 => decode18 w
  | 0x19 => decode19 w
  | 0x1A => decode1A w
  | 0x1B => decode1B w
  | 0x1C => decode1C w
  | 0x1E => decode1E w
  | 0x1F => decode1F w
  | 0x20 => decode20 w
  | 0x21 => decode21 w
  | 0x22 => decode22 w
  | 0x23 => decode23 w
  | 0x24 => decode24 w
  | 0x25 => decode25 w
  | 0x26 => decode26 w
  | 0x27 => decode27 w
  | 0x28 => decode28 w
  | 0x29 => decode29 w
  | 0x2A => decode2A w
  | 0x2B => decode2B w
  | 0x30 => decode30 w
  | 0x31 => decode31 w
  | 0x32 => decode32 w
  | 0x33 => decode33 w
  | 0x34 => decode34 w
  | 0x35 => decode35 w
  | 0x36 => decode36 w
  | 0x37 => decode37 w
  | 0x38 => decode38 w
  | 0x39 => decode39 w
  | 0x3A => decode3A w
  | 0x3B => decode3B w
  | 0x40 => decode40 w
  | 0x41 => decode41 w
  | 0x42 => decode42 w
  | 0x43 => decode43 w
  | 0x44 => decode44 w
  | 0x45 => decode45 w
  | 0x46 => decode46 w
  | 0x48 => decode48 w
  | 0x49 => decode49 w
  | 0x50 => decode50 w
  | 0x51 => decode51 w
  | 0x52 => decode52 w
  | 0x53 => decode53 w
  | 0x54 => decode54 w
  | 0x56 => decode56 w
  | 0x58 => decode58 w
  | 0x60 => decode60 w
  | 0x61 => decode61 w
  | 0x62 => decode62 w
  | 0x7F => decode7F w
  | _ => .illop

/-- The word of a REG instruction (R26). -/
def packReg (maj : BitVec 7) (d a b : BitVec 7) (w : BitVec 1) (f : BitVec 3) : Word := maj ++ d ++ a ++ b ++ w ++ f
/-- The word of an ACC instruction (R26). -/
def packAcc (maj : BitVec 7) (d a b : BitVec 7) (c : BitVec 3) (w : BitVec 1) : Word := maj ++ d ++ a ++ b ++ c ++ w
/-- The word of an IMM instruction (R26). -/
def packImm (maj : BitVec 7) (d a : BitVec 7) (w : BitVec 1) (imm : BitVec 10) : Word := maj ++ d ++ a ++ w ++ imm
/-- The word of a BRN instruction (R26). -/
def packBrn (maj : BitVec 7) (p : BitVec 3) (x : BitVec 1) (d : BitVec 21) : Word := maj ++ p ++ x ++ d
/-- The word of a MEM instruction (R26). -/
def packMem (maj : BitVec 7) (v a : BitVec 7) (h : BitVec 6) (o : BitVec 2) (f : BitVec 3) : Word :=
  maj ++ v ++ a ++ h ++ o ++ f
/-- The word of FENCE (R26, R74). -/
def packFen (maj : BitVec 7) (p x : BitVec 8) (c : BitVec 4) : Word := maj ++ p ++ x ++ c ++ 0#5
/-- The word of a TIL instruction (R26). -/
def packTil (maj : BitVec 7) (t : BitVec 5) (a b : BitVec 7) (x : BitVec 2) (z : BitVec 1) (f : BitVec 3) : Word :=
  maj ++ t ++ a ++ b ++ x ++ z ++ f
/-- The word of a CPY instruction (R26). -/
def packCpy (maj : BitVec 7) (k : BitVec 3) (a b : BitVec 7) (f : BitVec 3) : Word := maj ++ k ++ a ++ b ++ 0#5 ++ f
/-- The word of a hint (R26, R40). -/
def packHnt (k : BitVec 3) (payload : BitVec 22) : Word := 0x7F#7 ++ k ++ payload

/-- The word of an instruction, from the encodings of R26, R49 and the instruction's own entry; none for a step that
has no instruction word. -/
def encode : Instr → Option Word
  | .iadd d a b w => some (packReg 0x01#7 d a b w 0#3)
  | .isub d a b w => some (packReg 0x01#7 d a b w 1#3)
  | .imin d a b w => some (packReg 0x01#7 d a b w 2#3)
  | .imax d a b w => some (packReg 0x01#7 d a b w 3#3)
  | .umin d a b w => some (packReg 0x01#7 d a b w 4#3)
  | .umax d a b w => some (packReg 0x01#7 d a b w 5#3)
  | .iabsd d a b w => some (packReg 0x01#7 d a b w 6#3)
  | .iaddi d a w imm => some (packImm 0x02#7 d a w imm)
  | .and d a b w => some (packReg 0x03#7 d a b w 0#3)
  | .or d a b w => some (packReg 0x03#7 d a b w 1#3)
  | .xor d a b w => some (packReg 0x03#7 d a b w 2#3)
  | .andn d a b w => some (packReg 0x03#7 d a b w 3#3)
  | .not d a w => some (packReg 0x03#7 d a 0x78#7 w 4#3)
  | .andi d a w imm => some (packImm 0x04#7 d a w imm)
  | .ori d a w imm => some (packImm 0x05#7 d a w imm)
  | .xori d a w imm => some (packImm 0x06#7 d a w imm)
  | .shl d a b w => some (packReg 0x07#7 d a b w 0#3)
  | .shr d a b w => some (packReg 0x07#7 d a b w 1#3)
  | .sar d a b w => some (packReg 0x07#7 d a b w 2#3)
  | .ror d a b w => some (packReg 0x07#7 d a b w 3#3)
  | .bfe d a b w => some (packReg 0x07#7 d a b w 4#3)
  | .bfi d a b w => some (packReg 0x07#7 d a b w 5#3)
  | .shli d a w n => some (packImm 0x08#7 d a w (0#4 ++ n))
  | .shri d a w n => some (packImm 0x08#7 d a w (4#4 ++ n))
  | .sari d a w n => some (packImm 0x08#7 d a w (8#4 ++ n))
  | .rori d a w n => some (packImm 0x08#7 d a w (0xc#4 ++ n))
  | .imul d a b w => some (packReg 0x09#7 d a b w 0#3)
  | .imulh d a b w => some (packReg 0x09#7 d a b w 1#3)
  | .umulh d a b w => some (packReg 0x09#7 d a b w 2#3)
  | .idiv d a b w => some (packReg 0x09#7 d a b w 3#3)
  | .udiv d a b w => some (packReg 0x09#7 d a b w 4#3)
  | .irem d a b w => some (packReg 0x09#7 d a b w 5#3)
  | .urem d a b w => some (packReg 0x09#7 d a b w 6#3)
  | .imad d a b c w => some (packAcc 0x0A#7 d a b c w)
  | .popc d a w => some (packReg 0x0B#7 d a 0x78#7 w 0#3)
  | .clz d a w => some (packReg 0x0B#7 d a 0x78#7 w 1#3)
  | .ctz d a w => some (packReg 0x0B#7 d a 0x78#7 w 2#3)
  | .brev d a w => some (packReg 0x0B#7 d a 0x78#7 w 3#3)
  | .bswap d a w => some (packReg 0x0B#7 d a 0x78#7 w 4#3)
  | .sext8 d a w => some (packReg 0x0B#7 d a 0x78#7 w 5#3)
  | .sext16 d a w => some (packReg 0x0B#7 d a 0x78#7 w 6#3)
  | .icmp p a b c => some (packReg 0x0C#7 p a b 0#1 c)
  | .icmpi p a c imm => some (packImm 0x0D#7 p a 0#1 (c ++ imm))
  | .movi d w imm => some (packImm 0x0E#7 d 0x78#7 w imm)
  | .sel d a b w p => some (packReg 0x0F#7 d a b w p)
  | .pand d a b => some (packReg 0x10#7 d a b 0#1 0#3)
  | .por d a b => some (packReg 0x10#7 d a b 0#1 1#3)
  | .pxor d a b => some (packReg 0x10#7 d a b 0#1 2#3)
  | .pandn d a b => some (packReg 0x10#7 d a b 0#1 3#3)
  | .pmov d a => some (packReg 0x10#7 d a 0#7 0#1 4#3)
  | .pnz d a => some (packReg 0x10#7 d a 0x78#7 0#1 5#3)
  | .ptoi d a w => some (packReg 0x10#7 d a 0#7 w 6#3)
  | .lea d a b w x => some (packReg 0x11#7 d a b w x)
  | .shfli d a b w => some (packReg 0x12#7 d a b w 0#3)
  | .shflu d a b w => some (packReg 0x12#7 d a b w 1#3)
  | .shfld d a b w => some (packReg 0x12#7 d a b w 2#3)
  | .shflx d a b w => some (packReg 0x12#7 d a b w 3#3)
  | .swapp d a w => some (packReg 0x12#7 d a 0x78#7 w 4#3)
  | .bcast d a b w => some (packReg 0x12#7 d a b w 5#3)
  | .vany d a => some (packReg 0x13#7 d a 0x78#7 0#1 0#3)
  | .vall d a => some (packReg 0x13#7 d a 0x78#7 0#1 1#3)
  | .vbal d a w => some (packReg 0x13#7 d a 0x78#7 w 2#3)
  | .matchLanes d a w => some (packReg 0x13#7 d a 0x78#7 w 3#3)
  | .rdadd d a w => some (packReg 0x14#7 d a 0x78#7 w 0#3)
  | .rdmin d a w => some (packReg 0x14#7 d a 0x78#7 w 1#3)
  | .rdmax d a w => some (packReg 0x14#7 d a 0x78#7 w 2#3)
  | .rdand d a w => some (packReg 0x14#7 d a 0x78#7 w 3#3)
  | .rdor d a w => some (packReg 0x14#7 d a 0x78#7 w 4#3)
  | .rdxor d a w => some (packReg 0x14#7 d a 0x78#7 w 5#3)
  | .rdfadd d a w => some (packReg 0x14#7 d a 0x78#7 w 6#3)
  | .rdfmax d a w => some (packReg 0x14#7 d a 0x78#7 w 7#3)
  | .scadd d a w => some (packReg 0x15#7 d a 0x78#7 w 0#3)
  | .scfadd d a w => some (packReg 0x15#7 d a 0x78#7 w 1#3)
  | .rake n => some (packImm 0x16#7 0x78#7 0x78#7 0#1 (0#7 ++ n))
  | .fadd d a b w => some (packReg 0x18#7 d a b w 0#3)
  | .fsub d a b w => some (packReg 0x18#7 d a b w 1#3)
  | .fmul d a b w => some (packReg 0x18#7 d a b w 2#3)
  | .fdiv d a b w => some (packReg 0x18#7 d a b w 3#3)
  | .fmin d a b w => some (packReg 0x18#7 d a b w 4#3)
  | .fmax d a b w => some (packReg 0x18#7 d a b w 5#3)
  | .fcpsgn d a b w => some (packReg 0x18#7 d a b w 6#3)
  | .ffma d a b c w => some (packAcc 0x19#7 d a b c w)
  | .ffms d a b c w => some (packAcc 0x1A#7 d a b c w)
  | .fcmp p a b c => some (packReg 0x1B#7 p a b 0#1 c)
  | .faddi d a w imm => some (packImm 0x1C#7 d a w imm)
  | .frndn d a w => some (packReg 0x1E#7 d a 0x78#7 w 0#3)
  | .frndz d a w => some (packReg 0x1E#7 d a 0x78#7 w 1#3)
  | .frndu d a w => some (packReg 0x1E#7 d a 0x78#7 w 2#3)
  | .frndd d a w => some (packReg 0x1E#7 d a 0x78#7 w 3#3)
  | .ffrac d a w => some (packReg 0x1E#7 d a 0x78#7 w 4#3)
  | .fabs d a w => some (packReg 0x1E#7 d a 0x78#7 w 5#3)
  | .fneg d a w => some (packReg 0x1E#7 d a 0x78#7 w 6#3)
  | .fclass d a w => some (packReg 0x1E#7 d a 0x78#7 w 7#3)
  | .hadd2 d a b w => some (packReg 0x1F#7 d a b w 0#3)
  | .hmul2 d a b w => some (packReg 0x1F#7 d a b w 1#3)
  | .badd2 d a b w => some (packReg 0x1F#7 d a b w 2#3)
  | .bmul2 d a b w => some (packReg 0x1F#7 d a b w 3#3)
  | .hfma2 d a b c w => some (packAcc 0x20#7 d a b c w)
  | .bfma2 d a b c w => some (packAcc 0x21#7 d a b c w)
  | .dadd d a b w => some (packReg 0x22#7 d a b w 0#3)
  | .dsub d a b w => some (packReg 0x22#7 d a b w 1#3)
  | .dmul d a b w => some (packReg 0x22#7 d a b w 2#3)
  | .ddiv d a b w => some (packReg 0x22#7 d a b w 3#3)
  | .dsqrt d a w => some (packReg 0x22#7 d a 0x78#7 w 4#3)
  | .dfma d a b c w => some (packAcc 0x23#7 d a b c w)
  | .dcmp p a b c => some (packReg 0x24#7 p a b 0#1 c)
  | .rcp d a w => some (packReg 0x25#7 d a 0x78#7 w 0#3)
  | .rsq d a w => some (packReg 0x25#7 d a 0x78#7 w 1#3)
  | .sqrt d a w => some (packReg 0x25#7 d a 0x78#7 w 2#3)
  | .ex2 d a w => some (packReg 0x25#7 d a 0x78#7 w 3#3)
  | .lg2 d a w => some (packReg 0x25#7 d a 0x78#7 w 4#3)
  | .sint d a w => some (packReg 0x25#7 d a 0x78#7 w 5#3)
  | .cost d a w => some (packReg 0x25#7 d a 0x78#7 w 6#3)
  | .tanh d a w => some (packReg 0x25#7 d a 0x78#7 w 7#3)
  | .itof d a w => some (packReg 0x26#7 d a 0x78#7 w 0#3)
  | .utof d a w => some (packReg 0x26#7 d a 0x78#7 w 1#3)
  | .ftoi d a w => some (packReg 0x26#7 d a 0x78#7 w 2#3)
  | .ftou d a w => some (packReg 0x26#7 d a 0x78#7 w 3#3)
  | .ftod d a w => some (packReg 0x26#7 d a 0x78#7 w 4#3)
  | .dtof d a w => some (packReg 0x26#7 d a 0x78#7 w 5#3)
  | .itod d a w => some (packReg 0x26#7 d a 0x78#7 w 6#3)
  | .dtoi d a w => some (packReg 0x26#7 d a 0x78#7 w 7#3)
  | .ftoh2 d a b w => some (packReg 0x27#7 d a b w 0#3)
  | .htofl d a w => some (packReg 0x27#7 d a 0x78#7 w 1#3)
  | .htofh d a w => some (packReg 0x27#7 d a 0x78#7 w 2#3)
  | .ftob2 d a b w => some (packReg 0x27#7 d a b w 3#3)
  | .btofl d a w => some (packReg 0x27#7 d a 0x78#7 w 4#3)
  | .btofh d a w => some (packReg 0x27#7 d a 0x78#7 w 5#3)
  | .x8e4 d a b w => some (packReg 0x28#7 d a b w 0#3)
  | .x8e5 d a b w => some (packReg 0x28#7 d a b w 1#3)
  | .x6a d a b w => some (packReg 0x28#7 d a b w 2#3)
  | .x6b d a b w => some (packReg 0x28#7 d a b w 3#3)
  | .xi4o d a b w => some (packReg 0x28#7 d a b w 4#3)
  | .xi8 d a b w => some (packReg 0x28#7 d a b w 5#3)
  | .p8e4 d a b => some (packReg 0x29#7 d a b 0#1 0#3)
  | .p8e5 d a b => some (packReg 0x29#7 d a b 0#1 1#3)
  | .p6a d a b => some (packReg 0x29#7 d a b 0#1 2#3)
  | .p6b d a b => some (packReg 0x29#7 d a b 0#1 3#3)
  | .pi4o d a b => some (packReg 0x29#7 d a b 0#1 4#3)
  | .pi8 d a b => some (packReg 0x29#7 d a b 0#1 5#3)
  | .rmake d a b w => some (packReg 0x2A#7 d a b w 0#3)
  | .rnum d a w => some (packReg 0x2A#7 d a 0x78#7 w 1#3)
  | .rden d a w => some (packReg 0x2A#7 d a 0x78#7 w 2#3)
  | .rmed d a b w => some (packReg 0x2A#7 d a b w 3#3)
  | .rgcd d a b w => some (packReg 0x2A#7 d a b w 4#3)
  | .rflr d a w => some (packReg 0x2A#7 d a 0x78#7 w 5#3)
  | .rtof d a w => some (packReg 0x2A#7 d a 0x78#7 w 6#3)
  | .ftor d a w => some (packReg 0x2A#7 d a 0x78#7 w 7#3)
  | .rmode r m e => some (packImm 0x2B#7 0x78#7 0x78#7 0#1 (0#5 ++ r ++ m ++ e))
  | .bra p x d => some (packBrn 0x30#7 p x d)
  | .call p x d => some (packBrn 0x32#7 p x d)
  | .brx a => some (packReg 0x31#7 0x78#7 a 0x78#7 0#1 0#3)
  | .callx a => some (packReg 0x33#7 0x78#7 a 0x78#7 0#1 0#3)
  | .ret => some (packReg 0x34#7 0x78#7 0x78#7 0x78#7 0#1 0#3)
  | .exit => some (packReg 0x35#7 0x78#7 0x78#7 0x78#7 0#1 0#3)
  | .yield => some (packReg 0x36#7 0x78#7 0x78#7 0x78#7 0#1 0#3)
  | .nop => some (packReg 0x37#7 0#7 0#7 0#7 0#1 0#3)
  | .barinit a b => some (packReg 0x38#7 0x78#7 a b 0#1 0#3)
  | .bararr d a w => some (packReg 0x38#7 d a 0x78#7 w 1#3)
  | .barwait a b => some (packReg 0x38#7 0x78#7 a b 0#1 2#3)
  | .bararw d a w => some (packReg 0x38#7 d a 0x78#7 w 3#3)
  | .bartest p a b => some (packReg 0x38#7 p a b 0#1 4#3)
  | .bardrop a => some (packReg 0x38#7 0x78#7 a 0x78#7 0#1 5#3)
  | .barinv a => some (packReg 0x38#7 0x78#7 a 0x78#7 0#1 6#3)
  | .barph d a w => some (packReg 0x38#7 d a 0x78#7 w 7#3)
  | .fence p x c => some (packFen 0x39#7 p x c)
  | .tlwait a b => some (packReg 0x3A#7 0x78#7 a b 0#1 0#3)
  | .tlread d a w => some (packReg 0x3A#7 d a 0x78#7 w 1#3)
  | .tlpoll p a b => some (packReg 0x3A#7 p a b 0#1 2#3)
  | .tlsig a b => some (packReg 0x3A#7 0x78#7 a b 0#1 3#3)
  | .tkwait m => some (packImm 0x3B#7 0x78#7 0x78#7 0#1 (0#2 ++ m))
  | .tkany d w m => some (packImm 0x3B#7 d 0x78#7 w (1#2 ++ m))
  | .tktest p m => some (packImm 0x3B#7 p 0x78#7 0#1 (2#2 ++ m))
  | .ld8 v a h o => some (packMem 0x40#7 v a h o 0#3)
  | .ld8s v a h o => some (packMem 0x40#7 v a h o 1#3)
  | .ld16 v a h o => some (packMem 0x40#7 v a h o 2#3)
  | .ld16s v a h o => some (packMem 0x40#7 v a h o 3#3)
  | .ld32 v a h o => some (packMem 0x40#7 v a h o 4#3)
  | .ld64 v a h o => some (packMem 0x40#7 v a h o 5#3)
  | .ld128 v a h o => some (packMem 0x40#7 v a h o 6#3)
  | .ldnt v a h o => some (packMem 0x40#7 v a h o 7#3)
  | .st8 v a h o => some (packMem 0x41#7 v a h o 0#3)
  | .st16 v a h o => some (packMem 0x41#7 v a h o 1#3)
  | .st32 v a h o => some (packMem 0x41#7 v a h o 2#3)
  | .st64 v a h o => some (packMem 0x41#7 v a h o 3#3)
  | .st128 v a h o => some (packMem 0x41#7 v a h o 4#3)
  | .stnt v a h o => some (packMem 0x41#7 v a h o 5#3)
  | .aadd v a h o => some (packMem 0x42#7 v a h o 0#3)
  | .amin v a h o => some (packMem 0x42#7 v a h o 1#3)
  | .amax v a h o => some (packMem 0x42#7 v a h o 2#3)
  | .aumin v a h o => some (packMem 0x42#7 v a h o 3#3)
  | .aand v a h o => some (packMem 0x42#7 v a h o 4#3)
  | .aor v a h o => some (packMem 0x42#7 v a h o 5#3)
  | .axor v a h o => some (packMem 0x42#7 v a h o 6#3)
  | .axch v a h o => some (packMem 0x42#7 v a h o 7#3)
  | .aadd64 v a h o => some (packMem 0x43#7 v a h o 0#3)
  | .amin64 v a h o => some (packMem 0x43#7 v a h o 1#3)
  | .amax64 v a h o => some (packMem 0x43#7 v a h o 2#3)
  | .aand64 v a h o => some (packMem 0x43#7 v a h o 3#3)
  | .aor64 v a h o => some (packMem 0x43#7 v a h o 4#3)
  | .axor64 v a h o => some (packMem 0x43#7 v a h o 5#3)
  | .axch64 v a h o => some (packMem 0x43#7 v a h o 6#3)
  | .afadd v a h o => some (packMem 0x43#7 v a h o 7#3)
  | .cas32 v a h o => some (packMem 0x44#7 v a h o 0#3)
  | .cas64 v a h o => some (packMem 0x44#7 v a h o 1#3)
  | .redadd v a h o => some (packMem 0x45#7 v a h o 0#3)
  | .redmin v a h o => some (packMem 0x45#7 v a h o 1#3)
  | .redmax v a h o => some (packMem 0x45#7 v a h o 2#3)
  | .redand v a h o => some (packMem 0x45#7 v a h o 3#3)
  | .redor v a h o => some (packMem 0x45#7 v a h o 4#3)
  | .redxor v a h o => some (packMem 0x45#7 v a h o 5#3)
  | .redfadd v a h o => some (packMem 0x45#7 v a h o 6#3)
  | .redbfadd v a h o => some (packMem 0x45#7 v a h o 7#3)
  | .sbind v a h => some (packMem 0x46#7 v a h 0#2 0#3)
  | .sflush v => some (packMem 0x46#7 v 0x78#7 0#6 0#2 1#3)
  | .sdrop v => some (packMem 0x46#7 v 0x78#7 0#6 0#2 2#3)
  | .pref a h => some (packMem 0x46#7 0x78#7 a h 0#2 3#3)
  | .cflush a h => some (packMem 0x46#7 0x78#7 a h 0#2 4#3)
  | .texs a b => some (packReg 0x48#7 0x78#7 a b 0#1 0#3)
  | .texl a b => some (packReg 0x48#7 0x78#7 a b 0#1 1#3)
  | .texg a b => some (packReg 0x48#7 0x78#7 a b 0#1 2#3)
  | .texq a b => some (packReg 0x48#7 0x78#7 a b 0#1 3#3)
  | .rbegin d a w => some (packReg 0x49#7 d a 0x78#7 w 0#3)
  | .rdraw d a b w => some (packReg 0x49#7 d a b w 1#3)
  | .rflush d a w => some (packReg 0x49#7 d a 0x78#7 w 2#3)
  | .mma t a z f => some (packTil 0x50#7 t a 0x78#7 0#2 z f)
  | .mmas t a b x z f => some (packTil 0x51#7 t a b x z f)
  | .mlda t a b x z => some (packTil 0x52#7 t a b x z 0#3)
  | .mldw t a b x => some (packTil 0x52#7 t a b x 0#1 1#3)
  | .macz t => some (packTil 0x52#7 t 0x78#7 0x78#7 0#2 0#1 2#3)
  | .macld t a => some (packTil 0x52#7 t a 0x78#7 0#2 0#1 3#3)
  | .macst t a => some (packTil 0x52#7 t a 0x78#7 0#2 0#1 4#3)
  | .mrow t a => some (packTil 0x52#7 t a 0x78#7 0#2 0#1 5#3)
  | .msync => some (packTil 0x52#7 0#5 0x78#7 0x78#7 0#2 0#1 6#3)
  | .mcfg t a => some (packTil 0x52#7 t a 0x78#7 0#2 0#1 7#3)
  | .mpop d w => some (packReg 0x53#7 d 0x78#7 0x78#7 w 0#3)
  | .mpopb d w => some (packReg 0x53#7 d 0x78#7 0x78#7 w 1#3)
  | .frcopy k a b => some (packCpy 0x54#7 k a b 0#3)
  | .frfill k a b => some (packCpy 0x54#7 k a b 1#3)
  | .frgath k a b => some (packCpy 0x54#7 k a b 2#3)
  | .frscat k a b => some (packCpy 0x54#7 k a b 3#3)
  | .frred k a b => some (packCpy 0x54#7 k a b 4#3)
  | .frpf k a b => some (packCpy 0x54#7 k a b 5#3)
  | .spawn d a b w => some (packReg 0x56#7 d a b w 0#3)
  | .join d a b w => some (packReg 0x56#7 d a b w 1#3)
  | .enq d a b w => some (packReg 0x56#7 d a b w 2#3)
  | .deq d a b w => some (packReg 0x56#7 d a b w 3#3)
  | .launch d a b w => some (packReg 0x56#7 d a b w 4#3)
  | .cancel a w => some (packReg 0x56#7 0x78#7 a 0x78#7 w 5#3)
  | .cntrd d a w => some (packReg 0x56#7 d a 0x78#7 w 6#3)
  | .lwait d a w => some (packReg 0x58#7 d a 0x78#7 w 0#3)
  | .lemit d a b w => some (packReg 0x58#7 d a b w 1#3)
  | .mesrch a b => some (packReg 0x58#7 0x7a#7 a b 0#1 2#3)
  | .warpb a b => some (packReg 0x58#7 0x78#7 a b 0#1 3#3)
  | .fbset d a b w => some (packReg 0x58#7 d a b w 4#3)
  | .tmstat d a w => some (packReg 0x58#7 d a 0x78#7 w 5#3)
  | .dlread d a w => some (packReg 0x58#7 d a 0x78#7 w 6#3)
  | .trap a => some (packReg 0x60#7 0x78#7 a 0x78#7 0#1 0#3)
  | .rdsr d b w => some (packReg 0x60#7 d 0x78#7 b w 1#3)
  | .wrsr a b => some (packReg 0x60#7 0x78#7 a b 0#1 2#3)
  | .cyc d w => some (packReg 0x60#7 d 0x78#7 0x78#7 w 3#3)
  | .eret => some (packReg 0x60#7 0x78#7 0x78#7 0x78#7 0#1 4#3)
  | .brk => some (packReg 0x60#7 0x78#7 0x78#7 0x78#7 0#1 5#3)
  | .scall a => some (packReg 0x60#7 0x78#7 a 0x78#7 0#1 6#3)
  | .halt => some (packReg 0x60#7 0x78#7 0x78#7 0x78#7 0#1 7#3)
  | .mseal d a b => some (packReg 0x61#7 d a b 0#1 0#3)
  | .mharv d a b => some (packReg 0x61#7 d a b 0#1 1#3)
  | .mquery d a b => some (packReg 0x61#7 d a b 0#1 2#3)
  | .mretire d a b => some (packReg 0x61#7 d a b 0#1 3#3)
  | .tlbinv a b => some (packReg 0x62#7 0x78#7 a b 0#1 0#3)
  | .tlbinva b => some (packReg 0x62#7 0x78#7 0x78#7 b 0#1 1#3)
  | .hintConst k => some (packHnt 0#3 k)
  | .hintGuard p x n => some (packHnt 1#3 (p ++ x ++ n ++ 0#14))
  | .hintHold n => some (packHnt 2#3 (0#18 ++ n))
  | .hintScope x o => some (packHnt 3#3 (x ++ o ++ 0#16))
  | .hintRound m => some (packHnt 4#3 (m ++ 0#19))
  | .hintMod t f a b c => some (packHnt 5#3 (t ++ f ++ a ++ b ++ c ++ 0#15))
  | .hintSched n y => some (packHnt 6#3 (n ++ y ++ 0#15))
  | _ => none

/-- Four bytes as the hardware stores a word, lowest address first (R25). -/
def wordOfBytes : List Byte → Word
  | [b0, b1, b2, b3] => b3 ++ b2 ++ b1 ++ b0
  | _ => 0

/-- The bytes of a word as stored, lowest address first (R25). -/
def bytesOfWord (w : Word) : List Byte :=
  [w.extractLsb' 0 8, w.extractLsb' 8 8, w.extractLsb' 16 8, w.extractLsb' 24 8]

/-- The instruction the decoder reads from an instruction of one word with bits `w`; none where it refuses. -/
noncomputable def decodeTableWord (nbits w : Nat) : Option Instr :=
  if nbits ≤ 32 then
    match decode (wordOfBytes (bytesOfWord (BitVec.ofNat 32 w))) with
    | .ok i => some i
    | _ => none
  else none

end Sys2Proof
end

