-- ==== Sys2Proof/Machine/State.lean ====
section
/-!
DEFINITION. The state of a TRV-4A module: plain data, holding every piece of state the spec names.
Masks of lanes and sparse tables keep each register file small; an entry a table does not list reads as zero.
Each field's comment gives its width or form and the rule that names it.
-/

namespace Sys2Proof.Machine

open Sys2Proof

/-- Why a step stops. -/
inductive Fault where
  /-- Raised by HOST_ACCESS when a host requester names an address outside device memory, which R331 ends at 2^40
  and R374's BARs do not reach. Safe: the model stops where a PCIe completer would report an unsupported request. -/
  | noDeviceAddress
  deriving DecidableEq, Repr

/-- Why an instruction has no meaning here. -/
inductive Refusal where
  /-- Raised by `exec` for an instruction whose meaning is not written. Safe: the model stops. -/
  | notModelled (mnemonic : String)
  deriving DecidableEq, Repr

/-- The two instruction streams of a consist (R84). -/
inductive Strm where
  | c | a
  deriving DecidableEq, Repr, Inhabited

/-- The trap causes of R6. -/
inductive Cause where
  | illop | illopnd | priv | stream | latch | align | bounds | page | prot | stack | mmx | barlost | zdiv | fpx | ratz
  | fmt | qlock | tmiss | cancel | poison | token | swtrap | brk | matrix | freight | layout | siding | rstack | torn
  deriving DecidableEq, Repr, Inhabited

/-- What one thread of accesses has seen of the others: thread number to the last step of it known (R64). -/
abbrev Clock := Table Nat

/-- What a lane hands on with a queue entry (R59): what it has seen, and what its engine operations happen after, by kind:
Freight reads 0 and writes 3, tile reads 1 and writes 4, texture requests 2 (R60, R74, R267). -/
structure Known where
  clk : Clock
  eng : Table Clock
  deriving DecidableEq, Repr, Inhabited

/-- The pending hints of a lane (R40): at most one of each kind, and the address of the first. -/
structure Hints where
  /-- HINT.CONST payload (R41). -/
  const : Option (BitVec 22)
  /-- HINT.SCOPE scope and ordering override (R44). -/
  scope : Option (BitVec 4 × BitVec 2)
  /-- HINT.ROUND mode (R45). -/
  round : Option (BitVec 3)
  /-- HINT.MOD payload [21:15] (R46). -/
  mod : Option (BitVec 7)
  /-- HINT.SCHED stall cycles and yield (R47). -/
  sched : Option (BitVec 7)
  /-- Address of the first pending hint (R40). -/
  first : BitVec 32
  deriving DecidableEq, Repr, Inhabited

/-- A side of an access or an edge (R13, R14, R65, R71): the agent identifier; the consist it is or works for, as a key;
its lane and rake size; key + 1 of its convoy; its session and title. -/
structure Party where
  agent : Nat
  cons : Option Nat
  lane : Option Nat
  rake : Nat
  conv : Nat
  sess : Nat
  title : Nat
  deriving DecidableEq, Repr, Inhabited

/-- A release (R63, R72): who made it, at which scope, and what it had seen; a merge has moved it to a shared frame, where
only its session reads its value (R79). -/
structure Release where
  party : Party
  scope : Nat
  clk : Clock
  moved : Bool
  deriving DecidableEq, Repr, Inhabited

/-- One entry of an inter-stream queue (R85): its 32 bits, whether the slot is filled, the number of the operation that
will fill it, and what its producer had seen (R59). -/
structure QEntry where
  val : Word
  filled : Bool
  id : Nat
  clk : Known
  deriving DecidableEq, Repr, Inhabited

/-- The four queues by what they carry, in the order of R89's codes. -/
inductive Queue where
  | lq | ac | ca | sq
  deriving DecidableEq, Repr, Inhabited

/-- The queue operations that kept a lane at its next instruction when it last tried: entries to pop and to push (R86,
R89). -/
structure QWant where
  pops : List (Queue × Nat)
  pushes : List (Queue × Nat)
  deriving DecidableEq, Repr, Inhabited

/-- A barrier wait in progress (R198, R199): where and which lanes, the slot and the phase; whether the slot was lost;
the phase count and the arrivals' releases when the phase has completed. -/
structure BarWait where
  pc : BitVec 32
  lanes : Lanes
  slot : Nat
  phase : BitVec 32
  lost : Bool
  released : Option (BitVec 32 × List Release)
  deriving DecidableEq, Repr, Inhabited

/-- A TLWAIT in progress on a timeline that can end (R77): where and which lanes, the identifier, the owner's key in the
model, the value; whether the owner ended below it. -/
structure TlWait where
  pc : BitVec 32
  lanes : Lanes
  id : BitVec 16
  owner : Nat
  value : DWord
  closed : Bool
  deriving DecidableEq, Repr, Inhabited

/-- One stream of a consist (R84). -/
structure StreamSt where
  /-- Program counters, one per lane, 32 bits (R84). -/
  pc : Table (BitVec 32)
  /-- Lanes that have executed EXIT in this stream, 32 bits (R102). -/
  exited : Lanes
  /-- Lanes deferred behind another run, 32 bits (R92). -/
  deferred : Lanes
  /-- Lanes that take no part while a handler runs, 32 bits (R105). -/
  absent : Lanes
  /-- Predicates p0 to p6, a mask of lanes each (R95). -/
  preds : Table Lanes
  /-- Latch entries b0 to b7, 64 bits per lane, at 32 n + lane (R32). -/
  latch : Table DWord
  /-- Validity of the latches, 8 bits (R35). -/
  latchValid : BitVec 8
  /-- Pending hints per lane (R40). -/
  hints : Table Hints
  /-- Remaining count of the open guard window per lane; unlisted: none open (R40, R42). -/
  guardLeft : Table Nat
  /-- Pass bits of the guard windows, 32 bits (R42). -/
  guardPass : Lanes
  /-- Remaining count of the hold window, 0 to 8 (R43). -/
  hold : Nat
  /-- Return stack in the core, at most 8 entries per lane, newest first (R98). -/
  rets : Table (List (BitVec 32))
  /-- Number of spilled return-stack entries per lane (R98). -/
  spilled : Table Nat
  /-- Consecutive instructions issued by the head run at this program counter order, and its lanes (R92). -/
  headCount : Nat
  /-- The lanes of the run that headed the stream last, 32 bits (R92). -/
  headLanes : Lanes
  /-- The head run could not issue at its last turn (R92). -/
  stalled : Bool
  /-- It holds the front end: its access waits on translation, so no run of the stream can issue (R195, R196, R302). -/
  held : Bool
  /-- What keeps each lane that a queue blocks (R89). -/
  wants : Table QWant
  /-- Barrier waits in progress (R199); lanes that reach the wait's address join it (R91). -/
  barWaits : List BarWait
  /-- TLWAITs in progress on class-2 and class-4 timelines (R77). -/
  tlWaits : List TlWait
  /-- Cycles of HINT.SCHED stall left (R47); a step of the front end uses one. -/
  schedLeft : Nat
  deriving DecidableEq, Repr, Inhabited

/-- Where a result that is not yet written goes (R85, R138). -/
inductive Dest where
  /-- a v or a register and its latch: code, and the two or one 64-bit parts -/
  | reg (code : BitVec 7) (wide : Bool) (regWrite : Bool)
  /-- queue slots with this operation number; the latch of the code too, or not -/
  | queue (code : BitVec 7) (latch : Bool) (id : Nat)
  | none
  deriving DecidableEq, Repr, Inhabited

/-- What kind of operation a result waits for. -/
inductive Latency where
  | load | variable | texture | search
  deriving DecidableEq, Repr, Inhabited

/-- A result in flight: a load, division, rational, texture or search result of one lane (R85, R138, R221, R302,
R321). -/
structure Inflight where
  kind : Latency
  strm : Strm
  lane : Nat
  dest : Dest
  vals : List Word
  clk : Known
  deriving DecidableEq, Repr, Inhabited

/-- A fault an engine delivers at the next instruction boundary (R104). -/
structure AsyncFault where
  cause : Cause
  value : DWord
  /-- Tokens released by the delivery (R268). -/
  tokens : BitVec 8
  /-- It faults an instruction that the other stream had issued before the trap in progress: held till ERET (R104). -/
  held : Bool
  deriving DecidableEq, Repr, Inhabited

/-- The context R104 sets aside while a handler runs: both streams, the level, and TRAPPC as the trap wrote it. -/
structure Saved where
  a : StreamSt
  c : StreamSt
  level : BitVec 2
  pc : BitVec 32
  deriving DecidableEq, Repr, Inhabited

/-- A trap record (R104, R379). -/
structure TrapRecord where
  trapc : DWord
  trapv : DWord
  trappc : BitVec 32
  deriving DecidableEq, Repr, Inhabited

/-- What a consist is doing (R102, R105, R109). -/
inductive Status where
  | running
  /-- every lane has exited; its work drains -/
  | draining
  /-- a trap terminated it; its work drains, then the record is reported -/
  | terminated (r : TrapRecord)
  /-- HALT: value of the halt report (R109) -/
  | halted (value : DWord)
  deriving DecidableEq, Repr, Inhabited

/-- A tile instruction in a tile queue, with the operands and configuration captured at issue (R235). -/
structure TileOp where
  /-- 0 MMA, 1 MMAS, 2 MLDA, 3 MLDW, 4 MACZ, 5 MACLD, 6 MACST, 7 MROW, 8 MCFG -/
  op : Nat
  /-- C-stream code offset (R238). -/
  ipc : BitVec 32
  unit : Nat
  z : Bool
  fmt : Nat
  sel : Nat
  val : DWord
  kcnt : Nat
  handle : BitVec 6
  stride : Nat
  /-- The R scale registers, or the index register, read from all lanes: 32 j + lane (R234, R248). -/
  regs : Table Word
  /-- What its reads and its writes happen after (R74). -/
  clk : Clock
  wclk : Clock
  /-- When and by which lanes it was issued (R74). -/
  time : Nat
  lanes : Lanes
  deriving DecidableEq, Repr, Inhabited

/-- A tile of the accumulator store (R230): elements at 64 r + n, or two A panels of 64 rows of 16 eight-byte words at
1024 h + 16 r + j with their scales at 512 h + 64 b + r. -/
inductive Tile where
  | empty
  | acc (e : Table Word)
  | panel (fmt : Nat) (h0 h1 : Bool) (words : Table DWord) (scales : Table Word)
  deriving DecidableEq, Repr, Inhabited

/-- A weight slot (R229): map, format, the present subtiles' eight-byte words at 16 s + j, scales at 64 b + n. -/
structure Weight where
  map : BitVec 64
  fmt : Nat
  words : Table DWord
  scales : Table Word
  deriving DecidableEq, Repr, Inhabited

/-- The matrix sequence of a consist (R229, R235, R236, R239). -/
structure MatrixSeq where
  /-- Tiles and weight slots allotted (R229). -/
  ntiles : Nat
  nslots : Nat
  tiles : Table Tile
  slots : Table (Option Weight)
  /-- Configuration registers 0 to 6 (R239). -/
  cfg : Table Nat
  /-- Tile queue, oldest first, at most 8 (R235). -/
  queue : List TileOp
  /-- Progress of the oldest: started, rows or entries done (R255). -/
  started : Bool
  progress : Nat
  /-- Executed to its last effect, awaiting TILE_COMPLETE (R236). -/
  done : Bool
  /-- Number of the running instruction among all that ever ran: its thread of accesses (R64). -/
  thread : Nat
  /-- Numbers given to tile instructions so far, and the class-2 counter (R236). -/
  issued : Nat
  counter : DWord
  /-- MROWs issued and not yet fully pushed (R252). -/
  rowsPending : Nat
  /-- The completion of each number, with all below it (R63, R75). -/
  ends : List (Nat × Release)
  /-- When and by which lanes each instruction of `ends` was issued, and its thread of accesses (R74). -/
  sent : List (Nat × Lanes × Nat)
  /-- MSYNCs that wait: where, which lanes, and the number that must complete (R253). -/
  syncs : List (BitVec 32 × Lanes × Nat)
  deriving DecidableEq, Repr, Inhabited

/-- A consist (R13, R80). -/
structure Consist where
  /-- Unique number of this consist among all that ever ran: its threads of accesses carry it (R64). -/
  uid : Nat
  /-- Key of its convoy in `State.convoys` (R80). -/
  convoy : Nat
  /-- Consist index in its convoy (R80). -/
  ci : Nat
  status : Status
  /-- Swapped out by a flip (R286, R287); its key then lies beyond `parkedBase`. -/
  parked : Bool
  /-- Session 0 to 255 and title 0 to 63 (R107 SESS). -/
  sess : Nat
  title : Nat
  /-- Code base, size, handler entry (R84, R105, R270). -/
  code : Nat
  csize : Nat
  handler : Option (BitVec 32)
  /-- Private words per lane and region base; consists per convoy (R179). -/
  privWords : Nat
  pbase : Nat
  perConvoy : Nat
  /-- Declared v and a register counts (R30). -/
  nv : Nat
  na : Nat
  csw : BitVec 32
  fmask : BitVec 32
  stklim : BitVec 32
  trapc : DWord
  trapv : DWord
  trappc : BitVec 32
  cvid : BitVec 32
  lnch : BitVec 32
  lmask : BitVec 32
  htbl : DWord
  cid : BitVec 32
  hmask : BitVec 32
  /-- v registers, 32 bits per lane, at 32 n + lane (R95). -/
  vregs : Table Word
  /-- a registers, 64 bits per lane, at 32 n + lane (R95). -/
  aregs : Table DWord
  /-- s registers, 64 bits per consist (R95). -/
  sregs : Table DWord
  a : StreamSt
  c : StreamSt
  /-- The four queues per lane, oldest first (R85). -/
  lq : Table (List QEntry)
  xqAC : Table (List QEntry)
  xqCA : Table (List QEntry)
  sq : Table (List QEntry)
  /-- BUSY bits of tk0 to tk7 (R265). -/
  tokens : BitVec 8
  /-- What the release of each token lets a wait acquire (R266). -/
  tokenRels : Table (List Release)
  /-- When and by which lanes each token was last made busy (R74). -/
  tokenAt : Table (Nat × Lanes)
  /-- Completions of the consist's Freight operations, newest first, each with when and by which lanes its slice was issued
  and its thread of accesses (R63, R74). -/
  freightRels : List (Nat × Lanes × Nat × Release)
  /-- Completions of the consist's texture requests, newest first, each with when and for which lane it was issued (R74). -/
  texRels : List (Nat × Nat × Release)
  inflight : List Inflight
  async : List AsyncFault
  saved : Option Saved
  /-- CANCEL has been delivered: ERET ends the consist (R106). -/
  cancelled : Bool
  matrix : MatrixSeq
  /-- Registers in the lower tier (R96). -/
  lowTier : Bool
  /-- A Terminus LEMIT, FBSET or WARPB of this consist: 0 none, 1 waits for its window, 2 sent, A-front held (R317,
  R319, R320). -/
  bandOp : Nat
  deriving DecidableEq, Repr, Inhabited

/-- A checked access the race detector keeps (R67, R69): thread with its class (R74), step, party, code offset, write,
synchronising with its scope (R68); a merge has moved it to a shared frame, where only its session can race it (R79). -/
structure Access where
  thread : Nat
  time : Nat
  party : Party
  pc : BitVec 32
  write : Bool
  sync : Bool
  scope : Nat
  moved : Bool
  deriving DecidableEq, Repr, Inhabited

/-- One write of a side-log entry: virtual address, address space, kind of reduction (none: store), size and data; what the
race detector keeps of it, and its release (R69, R184, R196). -/
structure LogWrite where
  va : Nat
  space : Nat
  red : Option Nat
  size : Nat
  data : Nat
  access : Option Access
  rel : Option Release
  deriving DecidableEq, Repr, Inhabited

/-- A side-log entry (R196): the consist, its session and level, whether a handler of it ran, the faulting page, its writes
in lane order, and the number under which it waits on a posted fault. -/
structure SideLog where
  consist : Nat
  handler : Bool
  sess : Nat
  level : Nat
  page : Nat
  writes : List LogWrite
  id : Nat
  deriving DecidableEq, Repr, Inhabited

/-- A row-queue entry (R251): owner, segment, 32 values. -/
structure RowEntry where
  consist : Nat
  row : Nat
  seg : Nat
  vals : List Word
  deriving DecidableEq, Repr, Inhabited

/-- A named barrier slot in state BOUND (R198). -/
structure Barrier where
  word : Nat
  expect : Nat
  arrived : Nat
  phase : BitVec 32
  /-- BARDROPs of the current phase: E falls by as many when it completes (R198). -/
  drops : Nat
  /-- Arrivals' releases by phase (R201). -/
  rels : List (BitVec 32 × Release)
  deriving DecidableEq, Repr, Inhabited

/-- A stash binding (R185, R194). -/
structure StashBind where
  start : Nat
  kib : Nat
  va : Nat
  deriving DecidableEq, Repr, Inhabited

/-- A pending assembly of a Freight operation (R263). -/
structure Assembly where
  form : Nat
  layout : Nat
  fill : Word
  /-- Arrived slices, the newest first: slice, consist key, token; and what reads and writes happen after. -/
  slices : List (Nat × Nat × Nat)
  clk : Clock
  wclk : Clock
  deriving DecidableEq, Repr, Inhabited

/-- A convoy (R80, R197, R185, R176). -/
structure Convoy where
  core : Nat
  sess : Nat
  /-- Launch slot, or the stream of a band program (R305). -/
  slot : Nat
  line : Bool
  cvid : BitVec 32
  rank : Nat
  size : Nat
  /-- Keys of its consists that have not been reported ended, ci ascending, and how many have been (R102). -/
  members : List Nat
  ended : Nat
  /-- What the exits of its consists have released (R63), and their FMASKs by consist index (R182). -/
  exitClk : Clock
  exitMasks : Table Lanes
  /-- Train: number of members, own number, keys of the members' convoys (R81). -/
  train : Nat
  member : Nat
  trainKeys : List Nat
  /-- Scratchpad bytes and size; checked (R174). -/
  scratch : Table Byte
  spSize : Nat
  spCheck : Bool
  bars : Table Barrier
  bcnt : Nat
  stashKib : Nat
  binds : Table StashBind
  /-- Kept handle-table entries, 256 bits (R176). -/
  handles : Table (Option (BitVec 256))
  assemblies : Table Assembly
  /-- Resources held: tiles and slots per consist (R229). -/
  tiles : Nat
  slots : Nat
  /-- Swapped out (R286); its side-log entries, row-queue entries and places, and what its front ends issued last. -/
  parked : Bool
  savedLog : List SideLog
  savedRows : List RowEntry
  savedOwner : Option Nat
  savedWait : List (Nat × Nat)
  savedLast : Table Nat
  deriving DecidableEq, Repr, Inhabited

/-- A TLB entry (R343): session, page base and size, machine frame of the page, flags of the leaf, and for COW ≠ 0 the
frame map's MASK, SFRAME, PFRAME and SEALED. -/
structure TlbEntry where
  sess : Nat
  va : Nat
  size : Nat
  frame : Nat
  cow : Nat
  w : Bool
  x : Bool
  supo : Bool
  mask : BitVec 4
  sframe : Nat
  pframe : Nat
  fmSealed : Bool
  deriving DecidableEq, Repr, Inhabited

/-- A SIMT core or line core (R11, R13, R303); line core l of die d has key 256 + 8 d + l. -/
structure Core where
  /-- L1 TLB, newest first, at most 256 entries (R343). -/
  tlb : List TlbEntry
  /-- Side log, oldest first, at most 64 entries (R196). -/
  log : List SideLog
  /-- Row queue, oldest first, at most 64 entries, and its owner; a line core has one for each quadrant (R250,
  R324). -/
  rows : List RowEntry
  rowOwner : Option Nat
  rows1 : List RowEntry
  rowOwner1 : Option Nat
  /-- Consists whose MROW waits at the head of its sequence, each with the step at which it came there (R250). -/
  rowWait : List (Nat × Nat)
  /-- Arithmetic-clock cycles at the last read of CYC, 64 bits (R109). -/
  cyc : DWord
  /-- Consist each front end issued last, at 2 quadrant + stream (R97); 0 none, else key + 1. -/
  last : Table Nat
  /-- The parked convoy whose context shadow storage holds (R287). -/
  shadow : Option Nat
  /-- Halted for a swap by a flip (R286). -/
  halting : Bool
  /-- Quarantined (set, way) of the L1 array (R390). -/
  quarantined : List (Nat × Nat)
  /-- Refusals in a row of the core side and of the engine side of its column (R400). -/
  coreRefused : Nat
  engineRefused : Nat
  deriving DecidableEq, Repr, Inhabited

/-- A raster pass slot (R288). -/
structure RasterPass where
  sess : Nat
  /-- 0 FREE, 1 OPEN, 2 FLUSHED. -/
  state : Nat
  counter : DWord
  /-- Number last given to a draw or flush. -/
  numbered : DWord
  /-- Number of the launch that opened it, and its own number among operations: its thread of accesses (R64). -/
  launch : Nat
  thread : Nat
  /-- Descriptor (R289), and key and what its handles need of the consist that gave it. -/
  desc : BitVec 512
  opener : Nat × Option Consist
  /-- Draws not yet binned: record, with FIRST and NPRIM as they are left, and consist. -/
  draws : List (BitVec 256 × Nat × Option Consist)
  /-- Binned primitives: identifier; snapped x, y and z of the corners; and the parameter buffer bytes they take. -/
  binned : List (BitVec 64 × List Word)
  used : Nat
  /-- Tiles that have been rendered, and those of the render in progress (R292). -/
  tilesDone : Table Nat
  tilesNow : Table Nat
  /-- Consist whose RFLUSH is pending; consist of the RDRAW being binned: key and number (R295). -/
  flusher : Option (Nat × Nat)
  drawer : Option (Nat × Nat)
  /-- A fault that ends it, not yet delivered (R295). -/
  failure : Option (Cause × DWord)
  /-- The completion of each number, with all below it (R63, R75). -/
  ends : List (Nat × Release)
  deriving DecidableEq, Repr, Inhabited

/-- A station: its raster slots, the order of flushed passes, its operating point (R288, R395, R397), the walk cache,
its L2 quarantine (R390). -/
structure Station where
  passes : Table RasterPass
  flushed : List Nat
  /-- Table entries the walker has cached: session, level, virtual address bits that index down to it, its 64 bits
  (R344). -/
  walkCache : List (Nat × Nat × Nat × DWord)
  curPt : Nat
  minPt : BitVec 4
  maxPt : BitVec 4
  halved : Bool
  /-- Sensors that limit it (R398). -/
  throttled : List Nat
  quarantined : List (Nat × Nat)
  deriving DecidableEq, Repr, Inhabited

/-- A waybill in a siding with the launch slot it belongs to (R273, R274). -/
structure Queued where
  bits : BitVec 256
  slot : Nat
  /-- It used a convoy's reservation (R274): the convoy's key. -/
  reserved : Option Nat
  /-- What the start of its convoys happens after (R63, R282). -/
  clk : Clock
  deriving DecidableEq, Repr, Inhabited

/-- A launch slot (R276, R282); it is free while its count is 0. -/
structure Launch where
  /-- Its number among all launches (R288). -/
  uid : Nat
  count : DWord
  cancelled : Bool
  /-- The rank it was accepted at (R280), and whether its issuer could give a supervisor header (R271). -/
  rank : Nat
  sup : Bool
  header : BitVec 1024
  hdrAddr : Nat
  next : Nat
  joinp : Nat
  args : List DWord
  bars : List DWord
  /-- What its convoys' exits have released (R63). -/
  exitClk : Clock
  /-- What the convoys of the launches that held the slot before it have released. -/
  pastClk : Clock
  /-- The exit reports of its convoys, newest first: index, and the FMASK of each consist that is not 0 (R182). -/
  reports : List (BitVec 32 × Table Lanes)
  deriving DecidableEq, Repr, Inhabited

/-- A graph, phase or job slot (R276). -/
structure Level where
  count : DWord
  cancelled : Bool
  exitClk : Clock
  deriving DecidableEq, Repr, Inhabited

/-- A JOIN that the engine owes a launch whose count has returned to 0 (R283): the launch slot, the record, what the exits
released, and the launch as it was. -/
structure PendingJoin where
  slot : Nat
  record : Nat
  launch : Launch
  deriving DecidableEq, Repr, Inhabited

/-- A software timeline (R77): its count and its TLSIGs by value. -/
structure SoftTimeline where
  count : DWord
  sigs : List (DWord × Release)
  deriving DecidableEq, Repr, Inhabited

/-- An accepted Freight operation (R258). -/
structure FreightOp where
  number : Nat
  form : Nat
  layout : BitVec 512
  fill : Word
  convoy : Nat
  /-- Tokens to release: consist key, token. -/
  tokens : List (Nat × Nat)
  clk : Clock
  wclk : Clock
  deriving DecidableEq, Repr, Inhabited

/-- A Freight context (R257). -/
structure FreightCtx where
  layouts : Table (BitVec 512)
  counter : DWord
  accepted : Nat
  halted : Bool
  queue : List FreightOp
  /-- The oldest has started; its thread of accesses; the elements or rows it has done; all are; its failure, as TRAPV
  (R264, R268). -/
  started : Bool
  thread : Nat
  progress : Nat
  written : Bool
  failure : Option DWord
  /-- The completion of each number, with all below it (R63, R75). -/
  ends : List (Nat × Release)
  deriving DecidableEq, Repr, Inhabited

/-- A Manifest request (R366): number, first page, count, KEEP, next page; MHARV when `isSeal` is false; what its issuer
had seen. -/
structure ManifestReq where
  number : Nat
  isSeal : Bool
  va : Nat
  count : Nat
  keep : Bool
  next : Nat
  clk : Clock
  deriving DecidableEq, Repr, Inhabited

/-- A seal in progress (R357): page, frame-map index, the leaf's bits that only software writes, as the seal found them
(R359); state 1 SEALING, 2 HASHED (LOOKUP next), 3 looked up, its bucket held; digest, the way found and whether it is equal,
the number of its request if it has one; a write waits (R359). -/
structure Seal where
  va : Nat
  index : Nat
  leaf : DWord
  state : Nat
  digest : BitVec 128
  way : Option Nat
  merge : Bool
  req : Option Nat
  wanted : Bool
  deriving DecidableEq, Repr, Inhabited

/-- Who waits on a posted fault (R341): a front end of the consist with this number, or of a handler that runs in it; a
sampler or the Terminus on behalf of a consist; an engine; a side-log entry; the walk of a core. -/
inductive Waiter where
  | front (uid : Nat) (handler : Bool) (st : Strm)
  | unit (agent uid : Nat)
  | engine (agent : Nat)
  | logged (id : Nat)
  | walk (core : Nat)
  deriving DecidableEq, Repr, Inhabited

/-- Session states of R17. -/
inductive SessState where
  | free | build | live | moving | depot | ending
  deriving DecidableEq, Repr, Inhabited

/-- A command that has been fetched and is not complete: queue, stamp, what it does (R17, R281, R361, R362, R373, R379). -/
structure Waiting where
  q : Nat
  stamp : BitVec 16
  what : Instr
  deriving DecidableEq, Repr, Inhabited

/-- What the Signal box writes when a session that ends by POISON is FREE (R389): the consuming consist's trap report and the
log record with its die, and the completions of kind 2 of its streams. -/
structure PoisonEnd where
  consumer : Option (Nat × TrapRecord)
  log : Option (Nat × BitVec 192)
  streams : List Nat
  deriving DecidableEq, Repr, Inhabited

/-- A session (R16 to R23, R257, R274, R276, R332, R336, R341, R366). -/
structure Session where
  state : SessState
  title : Nat
  home : Nat
  depotOpt : Bool
  quiescence : Bool
  maintenance : Bool
  weight : Nat
  /-- Root table, frame map and fault ring in the session table (R332, R336, R341). -/
  root : Nat
  fmBase : Nat
  fmSize : Nat
  frBase : Nat
  frSize : Nat
  /-- The pages known to have named a frame-map entry, by index, since TLBINV last covered them without their leaf naming
  it (R349). -/
  fmPages : Table (List Nat)
  windows : List (Nat × Nat × Bool)
  sidings : Table (List Queued)
  depths : List Nat
  classes : List Nat
  launches : Table Launch
  graphs : Table Level
  phases : Table Level
  jobs : Table Level
  /-- JOINs the engine owes (R283), and the graph, phase and job held by each armed record (R279), by its address. -/
  joins : List PendingJoin
  holds : Table (Nat × Nat × Nat)
  soft : Table SoftTimeline
  freight : Table FreightCtx
  /-- Class-5 timeline: counter, numbers given, requests, seals (R366, R357). -/
  mCounter : DWord
  mIssued : Nat
  mReqs : List ManifestReq
  seals : List Seal
  /-- The completion of each number, with all below it (R63, R75). -/
  mEnds : List (Nat × Release)
  /-- Transfer: source die, destination, tables moved, frames in transit (R363, R364). -/
  moveFrom : Option Nat
  moveTo : Nat
  tablesMoved : Bool
  transit : List Nat
  /-- Frames reserved on the destination for runs: source frame, reserved frame, count. -/
  runs : List (Nat × Nat × Nat)
  /-- Walks that wait on a fault: virtual page, who waits, write, ended with PAGE (R341, R346). -/
  faults : List (Nat × Waiter × Bool × Bool)
  /-- Fault records not yet written to the ring: address, write, agent (R341). -/
  unposted : List (Nat × Bool × Nat)
  /-- Copy-on-write breaks that wait: page and patch (R340). -/
  breaks : List Nat
  /-- Measurement of the depot, its own or that it was slipped from (R385). -/
  measured : BitVec 256
  /-- Depot it was slipped from (R19). -/
  slipOf : Option Nat
  /-- TDI in the RUN state (R373). -/
  tdiRun : Bool
  /-- A slip into this identifier is in progress, with its die and core count (R19, R362). -/
  slipping : Option (Nat × Nat)
  /-- How far an ending session is (R23): 0 none, 1 its work drains, 2 its slots are revoked; whether by force. -/
  ending : Nat
  forcedEnd : Bool
  /-- It ends by POISON: what is written once it is FREE (R389). -/
  poisoned : Option PoisonEnd
  /-- Parked convoys whose contexts the save area in LP6 DRAM holds, the newest first (R287). -/
  saveArea : List Nat
  deriving DecidableEq, Repr, Inhabited

/-- A command queue (R375): queue v is session v's, queue 256 + d the management queue of die d. -/
structure CmdQueue where
  sqBase : BitVec 64
  cqBase : BitVec 64
  sqTail : BitVec 32
  sqHead : BitVec 32
  cqTail : BitVec 32
  stopped : Bool
  qk : Nat
  /-- Fetches of the current command that were torn (R377). -/
  torn : Nat
  /-- MSI-X messages raised (R379). -/
  msix : Nat
  /-- A command waits for a condition; nothing is fetched (R17, R378). -/
  busy : Bool
  deriving DecidableEq, Repr, Inhabited

/-- A band operation a consist sent to the Terminus (R319, R320, R323). -/
structure BandOp where
  /-- 0 LEMIT, 1 FBSET, 2 WARPB, 3 MESRCH -/
  kind : Nat
  consist : Nat
  /-- The run and the active lanes that wait for it, and D with its W. -/
  run : Lanes
  act : Lanes
  d : BitVec 7
  nw : Bool
  band : Nat
  /-- The image, and what its reads happened after. -/
  image : List Byte
  clk : Clock
  word : DWord
  deriving DecidableEq, Repr, Inhabited

/-- The tap's slot of a band (R310): the emit, armed and prepared images, with what their writers had seen. -/
structure BandSlot where
  emit : Option (List Byte × Clock)
  armed : Option (List Byte × Clock)
  prepared : Option (List Byte)
  /-- The history band as it stood at O(n), until its copy is ready: pieces by address and length, with their bytes once they
  have been read; the copy is in progress. -/
  snap : Option (List (Nat × Nat × Option (List Byte)))
  copying : Bool
  deriving DecidableEq, Repr, Inhabited

/-- A Terminus stream (R305 to R328). -/
structure Stream where
  /-- 0 OFF, 1 LIVE, 2 ORPHAN (R305). -/
  state : Nat
  sess : Nat
  convoy : Nat
  /-- Registers of R316, by offset; RO mirrors are computed. -/
  hact : Nat
  vact : Nat
  vtot : Nat
  lper : Nat
  lead : Nat
  depth : Bool
  hist : Nat
  mfld : Nat
  bsBase : Nat
  bsSize : Nat
  bsWr : BitVec 32
  bsRd : BitVec 32
  fill : BitVec 48
  wph : Word
  meCur : BitVec 60
  meRef : BitVec 60
  mePitch : BitVec 24
  meH : BitVec 16
  meW : BitVec 16
  enc : DWord
  keyReq : Bool
  /-- Counters 0 to 10 of R314; LINES is computed from scan time. -/
  counters : Table DWord
  /-- Scan time (R306). -/
  t : Nat
  timeline : DWord
  /-- TMISS events, oldest first, at most 16; events were dropped since the last one delivered (R315). -/
  events : List Word
  overflow : Bool
  bands : Table BandSlot
  /-- The operation in progress (R323). -/
  op : Option BandOp
  /-- Images settled and not yet written to history: band number, image (R312). -/
  settled : List (Nat × List Byte × Clock)
  /-- Encoder: latched ENC; bands tapped; tile rows coded of the frame; the frame is a key frame, or is dropped; the next
  is a key frame; frames since the last key frame (R316, R326, R327). -/
  encLatched : DWord
  tapped : Nat
  tileRows : Nat
  /-- Settled images that the encoder has not taken; of those it has taken for its next tile row, the codes; qindex of the
  frame (R326, R328). -/
  untapped : List (List Byte)
  coding : List (List Nat)
  qindex : Nat
  keyFrame : Bool
  dropped : Bool
  keyNext : Bool
  sinceKey : Nat
  /-- Number of the band after which a stop takes effect (R305). -/
  stopAt : Option Nat
  /-- Virtual page of the register block (R316). -/
  page : Nat
  /-- The completion of each number, with all below it (R63, R75). -/
  ends : List (Nat × Release)
  deriving DecidableEq, Repr, Inhabited

/-- A key slot (R350): 0 EMPTY, 1 LOADED, 2 REVOKING; forced revocation (R352). -/
structure KeySlot where
  state : Nat
  forced : Bool
  key : BitVec 512
  deriving DecidableEq, Repr, Inhabited

/-- A directory entry (R354). -/
structure DirEntry where
  title : Nat
  frame : Nat
  digest : BitVec 128
  deriving DecidableEq, Repr, Inhabited

/-- An LP6 DRAM channel's counters (R392, R399). -/
structure Channel where
  linkRty : DWord
  odec : DWord
  wrRty : DWord
  due : DWord
  deriving DecidableEq, Repr, Inhabited

/-- A vertical router (R394): 0 IN SERVICE, 1 BANK READY, 2 MARKED or DRAINING, 3 RETIRED. -/
structure Router where
  res : BitVec 16
  lim : Option (BitVec 16)
  overLim : Nat
  state : Nat
  deriving DecidableEq, Repr, Inhabited

/-- A temperature sensor (R392). -/
structure Sensor where
  temp : BitVec 16
  /-- TMAX and whether a reading has been taken since CLR; none at reset: 0x8000. -/
  tmax : Option (BitVec 16 × Bool)
  deriving DecidableEq, Repr, Inhabited

/-- A die (R9, R10, R13, R285, R350, R354, R356, R391 to R400). -/
structure Die where
  /-- Fetches and commands limited to RAS_LOG, CAPS_READ and ATTEST (R388, R398). -/
  limited : Bool
  tripped : Bool
  slots : Table KeySlot
  directory : Table DirEntry
  mfForce : Bool
  mfDlo : DWord
  mfDhi : DWord
  /-- Partition map: two banks of core to session + 1, the active bank, a flip pending (R285). -/
  bank0 : Table Nat
  bank1 : Table Nat
  active1 : Bool
  flip : Bool
  streams : Table Stream
  log : List (BitVec 256)
  logSeq : DWord
  injEn : Bool
  pcap : BitVec 11
  vf : List (Nat × Nat)
  sensors : Table Sensor
  trip : BitVec 16
  thr : BitVec 16
  channels : Table Channel
  /-- Current and least timing margin per core, and whether one has been taken since CLR; MMIN none at reset: 0xFFFF
  (R392). -/
  margins : Table (BitVec 16)
  mmin : Table (Option (BitVec 16 × Bool))
  /-- UECNT and CECNT per store code (R392). -/
  uecnt : Table Word
  cecnt : Table Word
  injAddr : BitVec 48
  injCtl : BitVec 16
  routers : Table Router
  /-- The entry routers' routing tables: two banks of column to router + 1, a column that is not listed going through its
  own; the active bank (R13, R394). -/
  route0 : Table Nat
  route1 : Table Nat
  routeActive1 : Bool
  /-- Retire list of frames (R370). -/
  retire : List Nat
  /-- Quarantined ways of the stacked-cache slices: slice, set, way (R390). -/
  quarantined : List (Nat × Nat × Nat)
  /-- Active IDE streams (R372). -/
  ide : List Nat
  /-- Commands forwarded to this die's Signal box: queue, stamp, command (R373). -/
  forwarded : List Waiting
  deriving DecidableEq, Repr, Inhabited

/-- One direction of a die link (R381, R382). -/
structure Link where
  counter : BitVec 64
  epoch : Nat
  failures : Nat
  down : Bool
  delivered : Nat
  deriving DecidableEq, Repr, Inhabited

/-- What synchronising writes left at a granule (R63): every release there, the newest first, and those that a read of each
of its bytes takes. -/
structure SyncCell where
  rels : List Release
  bytes : Table (List Release)
  deriving DecidableEq, Repr, Inhabited

/-- A line that a core's L1 or its stash holds (R13, R184, R185): the convoy and the binding slot whose stash holds it, none
in L1; the consist whose private words it holds (R181); dirty. Its bytes are those of memory, with which both stay coherent. -/
structure CacheLine where
  stash : Option (Nat × Nat)
  priv : Option Nat
  dirty : Bool
  deriving DecidableEq, Repr, Inhabited

/-- A shared-frame record (R348). -/
structure RefRec where
  ref : BitVec 32
  listed : Bool
  deriving DecidableEq, Repr, Inhabited

/-- Whose turn it is: a front end, or another step of the part. -/
inductive Turn where
  | front (consist : Nat) (strm : Strm)
  | event (i : Instr)
  deriving DecidableEq, Repr, Inhabited

/-- The module. -/
structure State where
  /-- Steps taken: it numbers the free values and orders accesses (the model's own). -/
  tick : Nat
  /-- The turns that come next; when it is empty the default order holds (the model's own). -/
  agenda : List Turn
  /-- The front end whose instruction `exec` issues: consist key and stream (the model's own). -/
  focus : Nat × Strm
  /-- Next number of a consist, engine operation or launch (the model's own). -/
  nextUid : Nat
  /-- Memory by machine address, below 2^40 (R331). -/
  mem : Table Byte
  /-- Host memory by host address (R331, R375). -/
  hostMem : Table Byte
  /-- Writes that left for I/O, newest first: host address, size, data (R184). -/
  ioOut : List (Nat × Nat × BitVec 128)
  /-- Lines in the L1 and stash of each core, by machine address div 128 (R13). -/
  lines : Table (Table (Option CacheLine))
  /-- Lines in the texture cache of each core's sampler (R13). -/
  texLines : Table (List Nat)
  consists : Table (Option Consist)
  convoys : Table (Option Convoy)
  sessions : Table Session
  cores : Table Core
  /-- Translations that the engines hold, by agent identifier, newest first, at most 256 each (R343). -/
  engineTlbs : Table (List TlbEntry)
  stations : Table Station
  dies : Table Die
  links : Table Link
  queues : Table CmdQueue
  /-- Page-ownership entries by frame (R339). -/
  ownership : Table (BitVec 32)
  refs : Table RefRec
  /-- Write-grant records WG and quiet records QG of frames: bit 0 WG, bit 1 QG (R360, R368). -/
  grants : Table (BitVec 2)
  /-- Poisoned lines by machine address div 128 (R390). -/
  poison : Table Nat
  /-- Lines an injection corrupted: store code, kind, and the core, station or die of the store (R393). -/
  corrupt : Table (Nat × Nat × Nat)
  /-- What each thread of accesses has seen (R64). -/
  clocks : Table Clock
  /-- What each thread's engine operations happen after, by kind as in `Known` (R60, R74, R267). -/
  engineClocks : Table (Table Clock)
  /-- Checked accesses and synchronising writes by granule (R67, R63). -/
  accesses : Table (List Access)
  syncs : Table SyncCell
  /-- The same for scratchpad granules, at 2^20 convoy key + offset div 4. -/
  spAccesses : Table (List Access)
  spSyncs : Table SyncCell
  /-- Commands that have been fetched and are not complete (R17, R378, R379). -/
  commands : List Waiting
  /-- The last data a host read returned (R383). -/
  hostRead : DWord
  deriving DecidableEq, Repr

/-- A die right after reset (R350, R392, R395). -/
def Die.reset : Die :=
  { limited := false, tripped := false, slots := [(0, { state := 1, forced := false, key := 0 })], directory := [],
    mfForce := false, mfDlo := 0, mfDhi := 0, bank0 := [], bank1 := [], active1 := false, flip := false, streams := [],
    log := [], logSeq := 0, injEn := false, pcap := 1500,
    vf := [(560, 2200), (575, 2350), (590, 2450), (605, 2550), (620, 2650), (635, 2750), (650, 2900), (665, 3000),
      (680, 3100), (695, 3200), (710, 3300), (725, 3400), (740, 3500), (755, 3600), (770, 3700), (780, 3750)],
    sensors := [], trip := 960, thr := 840, channels := [], margins := [], mmin := [], uecnt := [], cecnt := [],
    injAddr := 0, injCtl := 0, routers := [], route0 := [], route1 := [],
    routeActive1 := false, retire := [], quarantined := [], ide := [], forwarded := [] }

/-- A station right after reset: operating point 6, MINPT 0, MAXPT 15 (R392). -/
def Station.reset : Station :=
  { passes := [], flushed := [], walkCache := [], curPt := 6, minPt := 0, maxPt := 15, halved := false,
    throttled := [], quarantined := [] }

/-- A management queue right after reset: STOPPED, with QK 6 (R375). -/
def CmdQueue.resetMgmt : CmdQueue :=
  { sqBase := 0, cqBase := 0, sqTail := 0, sqHead := 0, cqTail := 0, stopped := true, qk := 6, torn := 0, msix := 0,
    busy := false }

/-- The module right after reset: every session FREE, no consist, key slot 0 of every die LOADED (R350), the management
queues STOPPED (R375), memory with nothing listed. -/
def State.reset : State :=
  { tick := 0, agenda := [], focus := (0, .a), nextUid := 1, mem := [], hostMem := [], ioOut := [], lines := [],
    texLines := [], consists := [],
    convoys := [], sessions := [], cores := [], engineTlbs := [],
    stations := (List.range 32).map (fun k => (k, Station.reset)),
    dies := (List.range 4).map (fun k => (k, Die.reset)),
    links := [],
    queues := (List.range 4).map (fun k => (256 + k, CmdQueue.resetMgmt)),
    ownership := [], refs := [], grants := [], poison := [], corrupt := [], clocks := [], engineClocks := [], accesses := [], syncs := [],
    spAccesses := [], spSyncs := [], commands := [], hostRead := 0 }

end Sys2Proof.Machine
end

