-- ==== Sys2Proof/Machine/Ops.lean ====
section
/-!
DEFINITION. The named operations over the state: sparse tables, bytes of memory, lane masks, the parts of a consist,
taking a trap and returning from one.
-/

namespace Sys2Proof.Machine

open Sys2Proof

/-! ## Sparse tables -/

/-- The entry a table lists for a key. -/
def tfind {V : Type} (k : Nat) : Table V → Option V
  | [] => none
  | (j, v) :: t => if j = k then some v else tfind k t

/-- Take a key out of a table. -/
def tdel {V : Type} (k : Nat) : Table V → Table V
  | [] => []
  | (j, v) :: t => if j = k then tdel k t else (j, v) :: tdel k t

/-- List a key with this entry. -/
def tput {V : Type} (k : Nat) (v : V) : Table V → Table V
  | [] => [(k, v)]
  | (j, w) :: t => if j = k then (k, v) :: t else if k < j then (k, v) :: (j, w) :: t else (j, w) :: tput k v t

/-- What a table holds for a key: the default where it lists none. -/
def tget {V : Type} [Inhabited V] (t : Table V) (k : Nat) : V := (tfind k t).getD default

/-- Write a table: the default value is not listed. -/
def tset {V : Type} [Inhabited V] [DecidableEq V] (t : Table V) (k : Nat) (v : V) : Table V :=
  if v = default then tdel k t else tput k v t

/-- The table of a function's values below n. -/
def tableOf {V : Type} [Inhabited V] [DecidableEq V] (n : Nat) (f : Nat → V) : Table V :=
  (List.range n).filterMap (fun i => let v := f i; if v = default then none else some (i, v))

/-- Keys strictly rise. -/
def Table.sorted {V : Type} : Table V → Bool
  | [] => true
  | [_] => true
  | (j, _) :: (k, v) :: t => j < k && Table.sorted ((k, v) :: t)

/-- The one form of a table: keys strictly rising, no default entry listed. -/
def Table.wf {V : Type} [Inhabited V] [DecidableEq V] (t : Table V) : Bool :=
  Table.sorted t && t.all (fun e => decide (e.2 ≠ default))

/-! ## Memory -/

/-- Machine memory is in its one form. -/
def Memory.wf (m : Table Byte) : Bool := Table.wf m

/-- `n` bytes from an address, lowest first. -/
def readBytes (m : Table Byte) (a : Nat) : Nat → List Byte
  | 0 => []
  | n + 1 => tget m a :: readBytes m (a + 1) n

/-- Write bytes from an address on, lowest first. -/
def writeBytes (m : Table Byte) (a : Nat) : List Byte → Table Byte
  | [] => m
  | b :: bs => writeBytes (tset m a b) (a + 1) bs

/-- The number little-endian bytes hold (R111). -/
def leNat : List Byte → Nat
  | [] => 0
  | b :: bs => b.toNat + 256 * leNat bs

/-- The `n` little-endian bytes of a number (R111). -/
def leBytes : Nat → Nat → List Byte
  | 0, _ => []
  | n + 1, x => BitVec.ofNat 8 x :: leBytes n (x / 256)

/-- Read `n` bytes as a little-endian number. -/
def readLE (m : Table Byte) (a n : Nat) : Nat := leNat (readBytes m a n)

/-- Write a number as `n` little-endian bytes. -/
def writeLE (m : Table Byte) (a n x : Nat) : Table Byte := writeBytes m a (leBytes n x)

/-! ## Lanes -/

/-- The lanes of a mask, ascending (R4). -/
def lanesOf (m : Lanes) : List Nat := (List.range 32).filter (fun l => m.getLsbD l)

/-- The lowest lane of a mask; 0 for an empty one. -/
def lowest (m : Lanes) : Nat := (lanesOf m).headD 0

/-- The mask of the lanes that satisfy a test. -/
def maskWhere (p : Nat → Bool) : Lanes := (List.range 32).foldl (fun m l => if p l then m ||| (1#32 <<< l) else m) 0

/-- The mask of one lane. -/
def laneBit (l : Nat) : Lanes := 1#32 <<< l

/-- Set the entry of every lane of a list. -/
def setLanes {V : Type} [Inhabited V] [DecidableEq V] (t : Table V) (ls : List Nat) (f : Nat → V) : Table V :=
  ls.foldl (fun u l => tset u l (f l)) t

/-! ## Parts of the machine -/

/-- The consist with this key, if one is there. -/
def State.consist? (s : State) (k : Nat) : Option Consist := tget s.consists k

/-- Write a consist. -/
def State.setConsist (s : State) (k : Nat) (c : Consist) : State := { s with consists := tset s.consists k (some c) }

/-- The convoy with this key, if one is there. -/
def State.convoy? (s : State) (k : Nat) : Option Convoy := tget s.convoys k

/-- Write a convoy. -/
def State.setConvoy (s : State) (k : Nat) (v : Convoy) : State := { s with convoys := tset s.convoys k (some v) }

/-- Session v; FREE when nothing is listed. -/
def State.session (s : State) (v : Nat) : Session := tget s.sessions v

/-- Write a session. -/
def State.setSession (s : State) (v : Nat) (x : Session) : State := { s with sessions := tset s.sessions v x }

/-- A core; keys 0 to 255 are the SIMT cores of R11, 256 + 8 d + l line core l of die d. -/
def State.core (s : State) (k : Nat) : Core := tget s.cores k

/-- Write a core. -/
def State.setCore (s : State) (k : Nat) (x : Core) : State := { s with cores := tset s.cores k x }

/-- Station g of the module, 8 per die. -/
def State.station (s : State) (g : Nat) : Station := tget s.stations g

/-- Write a station. -/
def State.setStation (s : State) (g : Nat) (x : Station) : State := { s with stations := tset s.stations g x }

/-- Die d. -/
def State.die (s : State) (d : Nat) : Die := tget s.dies d

/-- Write a die. -/
def State.setDie (s : State) (d : Nat) (x : Die) : State := { s with dies := tset s.dies d x }

/-- Command queue q. -/
def State.queue (s : State) (q : Nat) : CmdQueue := tget s.queues q

/-- Write a command queue. -/
def State.setQueue (s : State) (q : Nat) (x : CmdQueue) : State := { s with queues := tset s.queues q x }

/-- The stream of a consist. -/
def Consist.strm (c : Consist) : Strm → StreamSt
  | .a => c.a
  | .c => c.c

/-- Write a stream of a consist. -/
def Consist.setStrm (c : Consist) (st : Strm) (x : StreamSt) : Consist :=
  match st with
  | .a => { c with a := x }
  | .c => { c with c := x }

/-! ## Keys of consists (R11, R14, R304) -/

/-- The first consist key of a line core. -/
def lineBase : Nat := 16384

/-- Keys from here on are those of parked consists: a multiple of this and the key they had (R286). -/
def parkedBase : Nat := 131072

/-- The key of a consist's place on its core. -/
def seatOf (k : Nat) : Nat := k % parkedBase

/-- Is this consist on a Terminus line core? -/
def isLine (k : Nat) : Bool := decide (lineBase ≤ seatOf k)

/-- Consist slot `j` of a SIMT core. -/
def simtKey (core j : Nat) : Nat := 64 * core + j

/-- Consist `ci` of quadrant `q` of line core `l` of die `d`. -/
def lineKey (d l q ci : Nat) : Nat := lineBase + ((d * 8 + l) * 2 + q) * 8 + ci

/-- The core a consist runs on, as a key of `State.cores`. -/
def coreOf (k : Nat) : Nat := if isLine k then 256 + (seatOf k - lineBase) / 16 else seatOf k / 64

/-- The die a consist runs on. -/
def dieOf (k : Nat) : Nat := if isLine k then (seatOf k - lineBase) / 128 else seatOf k / 4096

/-- The quadrant a consist issues in: slot mod 4 on a SIMT core (R80), the stream's on a line core (R303). -/
def quadOf (k : Nat) : Nat := if isLine k then (seatOf k - lineBase) / 8 % 2 else seatOf k % 4

/-- The station a consist belongs to, 8 per die; a line core belongs to none (R71). -/
def stationOf (k : Nat) : Option Nat := if isLine k then none else some (seatOf k / 512)

/-- The agent identifier of a consist (R14). -/
def consistAgent (k : Nat) : Nat :=
  if isLine k then dieOf k * 2 ^ 18 + 11 * 2 ^ 14 + (seatOf k - lineBase) % 128
  else dieOf k * 2 ^ 18 + seatOf k % 4096

/-- The index a front end has in its core: two per quadrant (R84). -/
def frontOf (k : Nat) (st : Strm) : Nat := 2 * quadOf k + (match st with | .a => 1 | .c => 0)

/-! ## Operand codes (R29) -/

/-- What a 7-bit operand code names in a stream. -/
inductive Code where
  | v (n : Nat) | a (n : Nat) | s (n : Nat) | b (n : Nat) | z | ln | lq | xq | sq | ci | k | bad
  deriving DecidableEq, Repr

/-- Read an operand code by stream (R29). -/
def codeOf (st : Strm) (code : BitVec 7) : Code :=
  let n := code.toNat
  if 0x70 ≤ n ∧ n ≤ 0x77 then .b (n - 0x70)
  else if n = 0x78 then .z
  else if n = 0x79 then .ln
  else if n = 0x7A then .lq
  else if n = 0x7B then .xq
  else if n = 0x7C then .sq
  else if n = 0x7D then .ci
  else if n = 0x7E then .k
  else if n = 0x7F then .bad
  else
    match st with
    | .c => .v n
    | .a => if n < 0x40 then .a n else if n < 0x60 then .s (n - 0x40) else .bad

/-- Does the code name a queue? -/
def Code.isQueue : Code → Bool
  | .lq | .xq | .sq => true
  | _ => false

/-- The latch a code reads or a destination writes (R32). -/
def latchOf (code : BitVec 7) : Nat := code.toNat % 8

/-! ## Writing results (R32, R33) -/

/-- Write the latch entries of lanes and make the latch valid. -/
def StreamSt.putLatch (sx : StreamSt) (n : Nat) (ls : List Nat) (f : Nat → DWord) : StreamSt :=
  { sx with latch := ls.foldl (fun t l => tset t (32 * n + l) (f l)) sx.latch,
            latchValid := sx.latchValid ||| (1#8 <<< n) }

/-- Write a register of a stream for lanes: v (narrow or pair), a, or s, which takes the lowest lane's value (R132). -/
def Consist.putReg (c : Consist) (st : Strm) (code : BitVec 7) (wide : Bool) (ls : List Nat) (f : Nat → DWord) :
    Consist :=
  match codeOf st code with
  | .v n =>
    let lo := ls.foldl (fun t l => tset t (32 * n + l) ((f l).setWidth 32)) c.vregs
    { c with vregs := if wide then ls.foldl (fun t l => tset t (32 * (n + 1) + l) ((f l).extractLsb' 32 32)) lo
                      else lo }
  | .a n => { c with aregs := ls.foldl (fun t l => tset t (32 * n + l) (f l)) c.aregs }
  | .s n => match ls with
    | [] => c
    | l :: _ => { c with sregs := tset c.sregs n (f l) }
  | _ => c

/-- The entries of a value pushed into a queue: two words for a pair (R30). -/
def wordsOf (wide : Bool) (v : DWord) : List Word :=
  if wide then [v.setWidth 32, v.extractLsb' 32 32] else [v.setWidth 32]

/-! ## Queues (R85 to R87) -/

/-- The queue a code reads in a stream. -/
def readQueue (st : Strm) : Code → Option Queue
  | .lq => some .lq
  | .xq => some (match st with | .c => .ac | .a => .ca)
  | .sq => some .sq
  | _ => none

/-- The queue a code writes in a stream. -/
def writeQueue (st : Strm) : Code → Option Queue
  | .lq => some .lq
  | .xq => some (match st with | .c => .ca | .a => .ac)
  | .sq => some .sq
  | _ => none

/-- Queue entries of a lane, oldest first. -/
def Consist.queueOf (c : Consist) (q : Queue) (lane : Nat) : List QEntry :=
  match q with
  | .lq => tget c.lq lane
  | .ac => tget c.xqAC lane
  | .ca => tget c.xqCA lane
  | .sq => tget c.sq lane

/-- Write the entries of a lane. -/
def Consist.setQueue (c : Consist) (q : Queue) (lane : Nat) (e : List QEntry) : Consist :=
  match q with
  | .lq => { c with lq := tset c.lq lane e }
  | .ac => { c with xqAC := tset c.xqAC lane e }
  | .ca => { c with xqCA := tset c.xqCA lane e }
  | .sq => { c with sq := tset c.sq lane e }

/-- Depth of a queue (R85). -/
def Queue.depth : Queue → Nat
  | .lq | .sq => 16
  | .ac | .ca => 8

/-- The stream that pops a queue (R85). -/
def Queue.consumer : Queue → Strm
  | .lq | .ac => .c
  | .ca | .sq => .a

/-- The lanes that have executed EXIT in a stream, before a handler that runs in it too (R102, R105). -/
def Consist.exitedIn (c : Consist) (st : Strm) : Lanes :=
  (c.strm st).exited ||| (match st, c.saved with | .a, some v => v.a.exited | _, _ => 0)

/-- Has the stream that consumes a queue exited for this lane (R87)? -/
def Consist.deaf (c : Consist) (q : Queue) (lane : Nat) : Bool :=
  (c.exitedIn q.consumer).getLsbD lane || c.fmask.getLsbD lane

/-- Push an entry for a lane; a queue no one will pop discards it (R87). -/
def Consist.push (c : Consist) (q : Queue) (lane : Nat) (e : QEntry) : Consist :=
  if c.deaf q lane then c else c.setQueue q lane (c.queueOf q lane ++ [e])

/-- Fill the slots of an operation in a lane's queue, in order (R85). -/
def fillSlots (id : Nat) (clk : Known) : List Word → List QEntry → List QEntry
  | v :: vs, e :: es =>
    if e.filled = false ∧ e.id = id then { e with val := v, filled := true, clk := clk } :: fillSlots id clk vs es
    else e :: fillSlots id clk (v :: vs) es
  | _, es => es

/-- The two words of a result as 64 bits. -/
def pairOf : List Word → DWord
  | lo :: hi :: _ => hi ++ lo
  | [lo] => lo.setWidth 64
  | [] => 0

/-- Write a result in flight where it goes: the latch, and the register or the queue slots (R32, R85, R138, R186). -/
def Consist.land (c : Consist) (f : Inflight) : Consist :=
  match f.dest with
  | .reg code wide regWrite =>
    let v := pairOf f.vals
    let c := c.setStrm f.strm ((c.strm f.strm).putLatch (latchOf code) [f.lane] (fun _ => v))
    if regWrite then
      match f.strm with
      | .c => c.putReg .c code wide [f.lane] (fun _ => v)
      | .a =>
        let c := c.putReg .a code false [f.lane] (fun _ => v)
        if wide then c.putReg .a (code + 1) false [f.lane] (fun _ => pairOf (f.vals.drop 2)) else c
    else c
  | .queue code latch id =>
    let c := if latch then c.setStrm f.strm ((c.strm f.strm).putLatch (latchOf code) [f.lane] (fun _ => pairOf f.vals))
             else c
    match writeQueue f.strm (codeOf f.strm code) with
    | some q => c.setQueue q f.lane (fillSlots id f.clk f.vals (c.queueOf q f.lane))
    | none => c
  | .none => c

/-- Write every load and variable-latency result in flight: the streams stop only after it (R104, R138). -/
def Consist.settle (c : Consist) : Consist :=
  let now := c.inflight.filter (fun f => f.kind == .load || f.kind == .variable)
  { now.foldl Consist.land c with inflight := c.inflight.filter (fun f => !(f.kind == .load || f.kind == .variable)) }

/-! ## Trap causes and records (R6, R108) -/

/-- The 6-bit code of a cause (R6). -/
def Cause.code : Cause → BitVec 6
  | .illop => 0x01 | .illopnd => 0x02 | .priv => 0x03 | .stream => 0x04 | .latch => 0x05 | .align => 0x06
  | .bounds => 0x07 | .page => 0x08 | .prot => 0x09 | .stack => 0x0A | .mmx => 0x0B | .barlost => 0x0C
  | .zdiv => 0x0D | .fpx => 0x0E | .ratz => 0x0F | .fmt => 0x10 | .qlock => 0x11 | .tmiss => 0x12
  | .cancel => 0x13 | .poison => 0x14 | .token => 0x15 | .swtrap => 0x16 | .brk => 0x17 | .matrix => 0x18
  | .freight => 0x19 | .layout => 0x1A | .siding => 0x1B | .rstack => 0x1C | .torn => 0x1D

/-- TRAPC of a trap (R108). -/
def trapcOf (cause : Cause) (isAsync : Bool) (st : Strm) (lanes : Lanes) : DWord :=
  lanes ++ (0#22 : BitVec 22) ++ BitVec.ofBool isAsync ++ BitVec.ofBool (st == .a) ++ (0#2 : BitVec 2) ++ cause.code

/-- Set every lane with pending hints back to the first of them and drop the hints (R40, R104). -/
def StreamSt.dropHints (x : StreamSt) : StreamSt :=
  { x with pc := x.hints.foldl (fun t h => tset t h.1 h.2.first) x.pc, hints := [], wants := [] }

/-- A stream at its start: every lane at one program counter, latches invalid, no hints and no windows (R35, R95). -/
def StreamSt.start (pc : BitVec 32) (lanes : Lanes) : StreamSt :=
  { pc := setLanes [] (List.range 32) (fun _ => pc), exited := 0, deferred := 0, absent := ~~~lanes, preds := [],
    latch := [], latchValid := 0, hints := [], guardLeft := [], guardPass := 0, hold := 0, rets := [], spilled := [],
    headCount := 0, headLanes := 0, stalled := false, held := false, wants := [], barWaits := [],
    tlWaits := [], schedLeft := 0 }

/-- The handler's A-stream: one run made of the lanes of the trap, at the handler entry, latches invalid. The handler
has the A-stream's predicates and return stacks, which R104 does not set aside (R105). -/
def handlerStream (x : StreamSt) (entry : BitVec 32) (lanes : Lanes) : StreamSt :=
  { StreamSt.start entry lanes with preds := x.preds, rets := x.rets, spilled := x.spilled }

/-- Is a fault that an instruction of a stream takes while it completes held till the handler in progress returns: the
trap was the other stream's, which had issued it before (R104)? -/
def Consist.holds (c : Consist) (st : Strm) : Bool :=
  c.saved.isSome && c.trapc.getLsbD 8 != (st == .a)

/-- The oldest fault an engine has delivered that is not held (R104). -/
def Consist.dueFault (c : Consist) : Option AsyncFault := c.async.find? (fun f => !(f.held && c.saved.isSome))

/-- An engine delivers a fault to a consist (R104). -/
def Consist.giveFault (c : Consist) (cause : Cause) (value : DWord) (tokens : BitVec 8) (held : Bool) : Consist :=
  { c with async := c.async ++ [{ cause := cause, value := value, tokens := tokens, held := held }] }

/-- Deliver a trap to a consist (R104, R105, R106): results in flight are written, the record is
written, pending hints are dropped, the context of both streams is set aside and the handler starts, or the consist is
terminated. `pc` is TRAPPC, and `stood` where the lanes of the trap stand once their hints are dropped. -/
def Consist.deliver (c : Consist) (cause : Cause) (value : DWord) (isAsync : Bool) (st : Strm) (lanes : Lanes)
    (pc stood : BitVec 32) : Consist :=
  let c := c.settle
  let c := { c with a := c.a.dropHints, c := c.c.dropHints }
  let tc := trapcOf cause isAsync st lanes
  let c := { c with trapc := tc, trapv := value, trappc := pc, cancelled := c.cancelled || cause == Cause.cancel }
  let record : TrapRecord := { trapc := tc, trapv := value, trappc := pc }
  match c.saved, c.handler with
  | none, some h =>
    { c with saved := some { a := c.a, c := c.c, level := c.cid.extractLsb' 16 2, pc := stood },
             a := handlerStream c.a h lanes,
             cid := (c.cid &&& ~~~(0x30000#32)) ||| 0x10000#32 }
  | _, _ => { c with status := .terminated record }

/-- The program counter TRAPPC takes for a run (R40, R104): the first pending hint's address, or the given one. -/
def Consist.trapPc (c : Consist) (st : Strm) (lane : Nat) (pc : BitVec 32) : BitVec 32 :=
  match tfind lane (c.strm st).hints with
  | some h => h.first
  | none => pc

/-- Return from the handler (R105, R106): every piece of state set aside is restored and the stream TRAPC.STREAM names
resumes at TRAPPC, the lanes of TRAPC.LANES that stood where the trap was taken; after CANCEL the consist ends as if every lane had executed EXIT in both streams. -/
def Consist.leaveHandler (c : Consist) (v : Saved) : Consist :=
  let c := { c with saved := none,
                    cid := (c.cid &&& ~~~(0x30000#32)) ||| (v.level.setWidth 32 <<< 16) }
  if c.cancelled then
    { c with a := { v.a with exited := BitVec.allOnes 32 }, c := { v.c with exited := BitVec.allOnes 32 },
             status := .draining }
  else
    let lanes : Lanes := c.trapc.extractLsb' 32 32
    let back := fun (x : StreamSt) =>
      { x with pc := setLanes x.pc ((lanesOf lanes).filter (fun l => tget x.pc l == v.pc)) (fun _ => c.trappc),
               barWaits := if c.trappc = v.pc then x.barWaits
                           else x.barWaits.filter (fun w => w.lanes &&& lanes == 0 || w.pc != v.pc) }
    let a := { v.a with preds := c.a.preds, rets := c.a.rets, spilled := c.a.spilled, exited := v.a.exited ||| c.a.exited }
    if c.trapc.getLsbD 8 then { c with a := back a, c := v.c }
    else { c with a := a, c := back v.c }

/-! ## Bits and words -/

/-- Bits [hi:lo] of a number, shifted down (R4). -/
def bitsOf (x hi lo : Nat) : Nat := x / 2 ^ lo % 2 ^ (hi + 1 - lo)

/-- Sign-extend the low `n` bits of a number to 64 bits (R4). -/
def sext64 (n x : Nat) : DWord := (BitVec.ofNat n x).signExtend 64

/-- Keep the low w bits of a 64-bit value. -/
def lowBits (w : Nat) (x : DWord) : DWord := (x.setWidth w).setWidth 64

/-! ## Clocks (R64) -/

/-- The later of two clocks, thread by thread. -/
def Clock.join (x y : Clock) : Clock :=
  y.foldl (fun t e => if tget t e.1 < e.2 then tset t e.1 e.2 else t) x

/-- The thread of a lane in a stream of the consist with this number. A thread and its classes of accesses (R74) take eight
numbers, and the two threads of a lane sixteen. -/
def laneThread (uid lane : Nat) (st : Strm) : Nat := ((uid * 32 + lane) * 2 + (match st with | .a => 1 | .c => 0)) * 8

/-- The thread of an engine operation with this number. -/
def engineThread (uid : Nat) : Nat := uid * 512

/-- The accesses of one class of a thread: 0 r, 1 w, 2 i, 3 o of R74, and atomics, which are of two, of device memory 4 and of
the others 5; of an engine operation 0 reads, 1 writes. -/
def classThread (thread cls : Nat) : Nat := thread + 1 + cls

/-- The thread that a class of accesses belongs to. -/
def threadOf (k : Nat) : Nat := k / 8 * 8

/-- Up to which step does a clock know a thread's accesses of a class: as part of the thread, or the class alone (R74)? -/
def Clock.upTo (c : Clock) (k : Nat) : Nat := max (tget c (threadOf k)) (tget c k)

/-- The part of a clock that a FENCE hands on for some classes of accesses (R74): of the threads that `mine` names, these
classes alone; of the others all it knows, or nothing. -/
def Clock.fenced (c : Clock) (mine : Nat → Bool) (classes : List Nat) (others : Bool) : Clock :=
  c.foldl (fun t e =>
    if mine e.1 then
      classes.foldl (fun t j => let k := classThread (threadOf e.1) j
        if e.1 = threadOf e.1 ∨ e.1 = k then tset t k (max (tget t k) e.2) else t) t
    else if others then tset t e.1 e.2 else t) []

/-- What a thread has seen, its own last step included. -/
def State.seen (s : State) (thread : Nat) : Clock := tset (tget s.clocks thread) thread (s.tick + 1)

/-- Join a clock into some of the engine clocks of a thread. -/
def joinEngines (ks : List Nat) (t : Table Clock) (c : Clock) : Table Clock :=
  ks.foldl (fun t k => tset t k (Clock.join (tget t k) c)) t

/-- The kinds of engine accesses (R74), as `Known` numbers them. -/
def engineKinds : List Nat := [0, 1, 2, 3, 4]

/-- A thread learns what a clock holds, and so do its later engine operations of some kinds. -/
def State.learnFor (s : State) (ks : List Nat) (thread : Nat) (c : Clock) : State :=
  if c = [] then s else
  { s with clocks := tset s.clocks thread (Clock.join (tget s.clocks thread) c),
           engineClocks := if ks = [] then s.engineClocks
             else tset s.engineClocks thread (joinEngines ks (tget s.engineClocks thread) c) }

/-- A thread learns what a clock holds by a wait that R63 lists, and so do its later engine operations (R60, R73). -/
def State.learn (s : State) (thread : Nat) (c : Clock) : State := s.learnFor engineKinds thread c

/-- What a thread hands on now. -/
def State.known (s : State) (thread : Nat) : Known := { clk := s.seen thread, eng := tget s.engineClocks thread }

/-- A thread takes what was handed on with a queue entry: the lane's other stream has it before, its engine operations
only what its producer's would (R59, R60). -/
def State.take (s : State) (thread : Nat) (k : Known) : State :=
  let eng := k.eng.foldl (fun t e => joinEngines [e.1] t e.2) (tget s.engineClocks thread)
  { s with clocks := if k.clk = [] then s.clocks else tset s.clocks thread (Clock.join (tget s.clocks thread) k.clk),
           engineClocks := if k.eng = [] then s.engineClocks else tset s.engineClocks thread eng }

/-- What engine accesses of kind k that lanes of a stream start happen after (R60, R267). -/
def State.engineSeen (s : State) (k uid : Nat) (st : Strm) (ls : List Nat) : Clock :=
  ls.foldl (fun c l => Clock.join c (tget (tget s.engineClocks (laneThread uid l st)) k)) []

/-- The next free value (DESIGN CHOICE, assumption log 4). -/
def State.free (s : State) : DWord := Config.freeWord s.tick

end Sys2Proof.Machine
end

