-- ==== Sys2Proof/Machine/Operands.lean ====
section
/-!
DEFINITION. Operand codes, the checks an instruction passes when it issues, reading operands, writing results, and the
one operation `issue` through which every instruction word takes effect.
-/

namespace Sys2Proof.Machine

open Sys2Proof

/-- How an instruction uses an operand field. The forms `wide` are pairs in the C-stream (R30). -/
inductive Use where
  /-- a source, one lane's value -/
  | src (wide : Bool) (queue : Bool)
  /-- a destination; s registers allowed or not, queues allowed or not -/
  | dst (wide : Bool) (sreg : Bool) (queue : Bool)
  /-- D of an ACC word with C = 0, or of BFI: read, then written as one place (R34); an s register is none, since R132
  lets only MOVI, IADDI and LEA write one and no other word of the A-stream has such a D -/
  | place (wide : Bool)
  /-- a predicate number (R27) -/
  | pred
  /-- a quad of v registers (R118) -/
  | quad
  /-- `n` v registers from one that is a multiple of `m` -/
  | group (m n : Nat)
  /-- A of a memory access: a or s register or z (R193) -/
  | offset
  /-- V of a load of this many bytes (R186) -/
  | load (bytes : Nat)
  /-- V of an atomic or CAS (R188) -/
  | atomic
  /-- V of a store or reduction of this many bytes (R187, R190) -/
  | store (bytes : Nat)
  /-- D of TKANY: a register of lanes or a latch (R266) -/
  | lanesReg
  /-- D of LWAIT: as a destination, lq too in the A-stream (R317) -/
  | lwait
  /-- D of MESRCH: two entries of lq (R321) -/
  | lqTwo
  /-- the four entries of lq that a texture request reserves (R299, R302) -/
  | lqFour
  /-- a special-register number (R100) -/
  | special
  /-- a configuration register number (R239) -/
  | config
  deriving DecidableEq, Repr

/-- Is this code readable as a source of one value in the stream, counts included (R29, R30)? -/
def readable (c : Consist) (st : Strm) (wide queue : Bool) (code : BitVec 7) : Bool :=
  match codeOf st code with
  | .v n => if wide then n % 2 == 0 && n + 1 < c.nv else n < c.nv
  | .a n => n < c.na
  | .s _ | .b _ | .z | .ln | .ci | .k => true
  | .lq => queue && st == .c && c.saved.isNone
  | .xq => queue && c.saved.isNone
  | .sq | .bad => false

/-- Is this code writable as a destination of one value in the stream? -/
def writable (c : Consist) (st : Strm) (wide sreg queue : Bool) (code : BitVec 7) : Bool :=
  match codeOf st code with
  | .v n => if wide then n % 2 == 0 && n + 1 < c.nv else n < c.nv
  | .a n => n < c.na
  | .s _ => sreg
  | .b _ | .z => true
  | .xq => queue && c.saved.isNone
  | .sq => queue && st == .c && c.saved.isNone
  | .lq | .ln | .ci | .k | .bad => false

/-- Is this use of this code allowed (R28 check 4)? `k` read with no HINT.CONST is judged apart. -/
def useOk (c : Consist) (st : Strm) (u : Use) (code : BitVec 7) : Bool :=
  match u with
  | .src wide queue => readable c st wide queue code
  | .dst wide sreg queue => writable c st wide sreg queue code
  | .place wide =>
    match codeOf st code with
    | .v _ | .a _ | .b _ => writable c st wide false false code
    | _ => false
  | .pred => code.toNat ≤ 7
  | .quad =>
    match codeOf st code with
    | .v n => n % 4 == 0 && n + 3 < c.nv
    | _ => false
  | .group m n =>
    match codeOf st code with
    | .v r => r % m == 0 && r + n ≤ c.nv
    | _ => false
  | .offset =>
    match codeOf st code with
    | .a n => n < c.na
    | .s _ | .z => true
    | _ => false
  | .load bytes =>
    match codeOf st code with
    | .a n => if bytes = 16 then n % 2 == 0 && n + 1 < c.na else n < c.na
    | .z => true
    | .lq => c.saved.isNone
    | _ => false
  | .atomic =>
    match codeOf st code with
    | .a n => n < c.na
    | .z => true
    | _ => false
  | .store bytes =>
    match codeOf st code with
    | .a n => if bytes = 16 then n % 2 == 0 && n + 1 < c.na else n < c.na
    | .s n => if bytes = 16 then n % 2 == 0 else true
    | .z | .k => bytes != 16
    | .sq => c.saved.isNone
    | _ => false
  | .lanesReg =>
    match codeOf st code with
    | .v _ | .a _ | .b _ => writable c st false false false code
    | _ => false
  | .lwait =>
    match codeOf st code with
    | .lq => st == .a && c.saved.isNone
    | _ => writable c st false true false code
  | .lqTwo =>
    match codeOf st code with
    | .lq => c.saved.isNone
    | _ => false
  | .lqFour => true
  | .special => code.toNat ≤ 0x0C
  | .config => code.toNat ≤ 6

/-- Does the use read the code's value? -/
def Use.reads : Use → Bool
  | .src _ _ | .place _ | .quad | .group _ _ | .offset | .atomic | .store _ => true
  | _ => false

/-- Does the use write the code's register and latch? -/
def Use.writes : Use → Bool
  | .dst _ _ _ | .place _ | .quad | .load _ | .atomic | .lanesReg | .lwait => true
  | _ => false

/-! ## What an instruction is to the issue unit -/

/-- Which rounding codes a HINT.ROUND may hold (R45, R155, R222). -/
inductive RoundRule where
  | refuse
  | ieee
  /-- rational when CSW.RAT is 1 -/
  | byMode
  | rational
  deriving DecidableEq, Repr

/-- What an instruction word accepts of pending hints (R44 to R46 and the instructions' own entries). -/
structure HintRules where
  /-- HINT.MOD: saturations, flush control, negation of A, B and the addend (R46) -/
  sat : Bool
  sat01 : Bool
  flush : Bool
  negA : Bool
  negB : Bool
  negC : Bool
  /-- a major of R155 that works on rational codes when CSW.RAT is 1 -/
  rationalMajor : Bool
  round : RoundRule
  /-- HINT.SCOPE; with an ordering override (R44) -/
  scope : Bool
  order : Bool
  /-- any HINT.MOD raises ILLOP, one that names no modifier too -/
  noMod : Bool
  /-- HINT.CONST raises ILLOP; every hint but SCHED does; SCHED does too -/
  noConst : Bool
  noHints : Bool
  noSched : Bool
  deriving DecidableEq, Repr

/-- The tables of R44 to R46, R48, R83, R141, R144, R207, R208, R223, R241, R252, R265, R266, R300, R317, R349 and R369, by
major and subfunction. -/
def hintRules (w : Word) : HintRules :=
  let maj := (fld w 25 7).toNat
  let f := (fld w 0 3).toNat
  let within := fun (lo hi : Nat) => decide (lo ≤ maj) && decide (maj ≤ hi)
  let fused := maj == 0x19 || maj == 0x1A || maj == 0x20 || maj == 0x21 || maj == 0x23
  let mode := within 0x18 0x1C || maj == 0x1E || within 0x22 0x24 || (maj == 0x25 && decide (f ≤ 2))
  { sat := (maj == 0x01 && decide (f ≤ 1)) || maj == 0x02 || (maj == 0x09 && f == 0) || maj == 0x0A
      || (maj == 0x18 && decide (f ≤ 3)) || fused || maj == 0x1C || maj == 0x1F || (maj == 0x22 && decide (f ≤ 3)),
    sat01 := (maj == 0x18 && decide (f ≤ 3)) || within 0x19 0x1A || maj == 0x1C || within 0x1F 0x21,
    flush := within 0x18 0x29,
    negA := within 0x18 0x24 || (maj == 0x27 && (f == 0 || f == 3)),
    negB := within 0x18 0x1B || within 0x1F 0x21 || (maj == 0x22 && decide (f ≤ 3)) || within 0x23 0x24
      || (maj == 0x27 && (f == 0 || f == 3)),
    negC := fused,
    rationalMajor := mode,
    round := if mode then .byMode
      else if within 0x1F 0x29 then .ieee
      else if maj = 0x2A then (if f = 6 then .ieee else .rational)
      else .refuse,
    scope := maj == 0x38 || maj == 0x3A || within 0x40 0x46 || maj == 0x54 || (maj == 0x56 && f == 1),
    order := within 0x40 0x45,
    noMod := maj == 0x16 || within 0x2A 0x2B || within 0x30 0x35 || maj == 0x3B || within 0x50 0x53 || maj == 0x58
      || (maj == 0x60 && (f == 0 || f == 4 || f == 6)),
    noConst := maj == 0x16 || maj == 0x2B || maj == 0x08 || maj == 0x0D || maj == 0x3B,
    noHints := maj == 0x48 || maj == 0x61 || maj == 0x62,
    noSched := maj == 0x62 }

/-- What the issue unit needs of an instruction. -/
structure OpInfo where
  /-- operand fields in R28's order of positions: position, code, use -/
  uses : List (Nat × BitVec 7 × Use) := []
  /-- sources are read from the lowest active lane only -/
  uniform : Bool := false
  /-- hazards and reads take every lane of the consist, as R148 gives -/
  cross : Bool := false
  /-- a hint word -/
  hint : Bool := false
  /-- sets the program counters itself and closes guard windows (R42) -/
  transfer : Bool := false
  /-- helper lanes push nothing (R103) -/
  quiet : Bool := false
  /-- a further ILLOP or ILLOPND condition of the instruction's own entry, which `ownIllop` does not give -/
  illop : Bool := false
  illopnd : Option Nat := none
  deriving Repr

/-- Which streams an instruction word is legal in (R49): 1 the C-stream, 2 the A-stream, 3 both. -/
def wordStreams (w : Word) : Nat :=
  let maj := (fld w 25 7).toNat
  let f := (fld w 0 3).toNat
  if maj = 0x11 ∨ (0x40 ≤ maj ∧ maj ≤ 0x46) ∨ maj = 0x49 ∨ maj = 0x54 ∨ maj = 0x56 ∨ maj = 0x61 ∨ maj = 0x62 then 2
  else if (maj = 0x14 ∧ 6 ≤ f) ∨ (maj = 0x15 ∧ f = 1) ∨ (0x18 ≤ maj ∧ maj ≤ 0x2B) ∨ maj = 0x48
      ∨ (0x50 ≤ maj ∧ maj ≤ 0x53) then 1
  else if maj = 0x58 ∧ 1 ≤ f ∧ f ≤ 4 then 2
  else 3

/-- The level an instruction word needs (R49): 0 user, 1 supervisor, 3 root. -/
def wordLevel (w : Word) : Nat :=
  let maj := (fld w 25 7).toNat
  let f := (fld w 0 3).toNat
  if maj = 0x56 ∧ f = 3 then 1
  else if maj = 0x60 ∧ f = 4 then 1
  else if maj = 0x60 ∧ f = 7 then 3
  else if maj = 0x61 ∧ f = 2 then 1
  else if maj = 0x61 ∧ f = 3 then 3
  else if maj = 0x62 then 1
  else 0

/-- Is this major absent from this kind of core (R50)? -/
def wordAbsent (line : Bool) (w : Word) : Bool :=
  let maj := (fld w 25 7).toNat
  if line then maj == 0x56 || maj == 0x61 else maj == 0x58

/-- Does the word's W suppress the register or queue write of its result (R33)? -/
def wordNw (w : Word) : Bool :=
  let maj := (fld w 25 7).toNat
  if maj ∈ [0x0A, 0x19, 0x1A, 0x20, 0x21, 0x23] then w.getLsbD 0
  else if maj ∈ [0x02, 0x04, 0x05, 0x06, 0x08, 0x0D, 0x0E, 0x16, 0x1C, 0x2B, 0x3B] then w.getLsbD 10
  else if (0x40 ≤ maj ∧ maj ≤ 0x46) ∨ (0x50 ≤ maj ∧ maj ≤ 0x52) ∨ maj ∈ [0x30, 0x32, 0x39, 0x54, 0x7F] then false
  else w.getLsbD 3

/-! ## The run that issues -/

/-- The context an instruction issues in: consist, stream, the run, its active lanes, address and pending hints. -/
structure Ctx where
  key : Nat
  st : Strm
  c : Consist
  run : Lanes
  act : Lanes
  pc : BitVec 32
  hints : Hints
  deriving DecidableEq, Repr

/-- No pending hint. -/
def Hints.none : Hints :=
  { const := Option.none, scope := Option.none, round := Option.none, mod := Option.none, sched := Option.none, first := 0 }

/-- Lanes of a stream that are launched, alive and take part (R80, R91, R105, R182). -/
def Consist.alive (c : Consist) (st : Strm) : Lanes :=
  c.lmask &&& ~~~(c.strm st).exited &&& ~~~c.fmask &&& ~~~(c.strm st).absent

/-- Lanes that may head the stream: alive and not deferred; all alive ones when every one is deferred (R92). -/
def Consist.eligible (c : Consist) (st : Strm) : Lanes :=
  let live := c.alive st &&& ~~~(c.strm st).deferred
  if live = 0 then c.alive st else live

/-- The run with the lowest program counter; where R40 splits it, the lanes with no pending hint first, and then the
lanes that share the hints and the window count of the lowest lane (R91). -/
def headRun (x : StreamSt) (live : Lanes) : Lanes :=
  match lanesOf live with
  | [] => 0
  | l :: ls =>
    let low := ls.foldl (fun m j => if (tget x.pc j).toNat < (tget x.pc m).toNat then j else m) l
    let here := (l :: ls).filter (fun j => tget x.pc j == tget x.pc low)
    let free := here.filter (fun j => (tfind j x.hints).isNone)
    let pick := (free ++ here).headD l
    maskWhere (fun j => here.contains j && tfind j x.hints == tfind pick x.hints
      && tget x.guardLeft j == tget x.guardLeft pick)

/-- The active lanes of a run: those that pass the open guard window (R42). -/
def activeOf (x : StreamSt) (run : Lanes) : Lanes :=
  if tget x.guardLeft (lowest run) = 0 then run else run &&& x.guardPass

/-- A hold window of another consist keeps this front end (R43). -/
def heldByOther (s : State) (key : Nat) (st : Strm) : Bool :=
  match tget (s.core (coreOf key)).last (frontOf key st) with
  | 0 => false
  | k + 1 =>
    k != key &&
      (match s.consist? k with
       | some c => c.status == .running && decide ((c.strm st).hold ≠ 0) && decide (c.alive st ≠ 0)
       | none => false)

/-- Has a run issued its 256 instructions as head while another run waits (R92)? -/
def dueDeferral (c : Consist) (st : Strm) (run : Lanes) : Bool :=
  let x := c.strm st
  decide (256 ≤ x.headCount) && x.headLanes == run && decide (c.eligible st &&& ~~~run ≠ 0)

/-- May this stream of this consist issue at all? -/
def canIssue (s : State) (key : Nat) (st : Strm) (c : Consist) : Bool :=
  c.status == .running && !c.parked && !c.lowTier && !(st == .c && c.saved.isSome) && (c.strm st).schedLeft == 0
    && !heldByOther s key st && !(s.core (coreOf key)).halting && !(s.die (dieOf key)).tripped && (c.dueFault.isNone || (st == .a && c.bandOp == 1))
    && (st == .c || c.bandOp != 2)

/-- The context of the front end in focus, if it has a run to issue. -/
def findCtx (s : State) : Option Ctx :=
  let key := s.focus.1
  let st := s.focus.2
  match s.consist? key with
  | none => none
  | some c =>
    if canIssue s key st c then
      let x := c.strm st
      let run := headRun x (c.eligible st)
      if run = 0 || dueDeferral c st run then none
      else
        some { key := key, st := st, c := c, run := run, act := activeOf x run, pc := tget x.pc (lowest run),
               hints := (tfind (lowest run) x.hints).getD Hints.none }
    else none

/-! ## The checks of R28 -/

/-- The privilege level of a consist (R8, R107). -/
def Consist.level (c : Consist) : Nat := (c.cid.extractLsb' 16 2).toNat

/-- CSW.RAT (R107). -/
def Consist.rat (c : Consist) : Bool := c.csw.getLsbD 6

/-- Does the instruction work on rational codes here (R155, R208)? -/
def rationalNow (w : Word) (c : Consist) : Bool := (hintRules w).rationalMajor && c.rat

/-- Is a pending hint misused (R44 to R46 and the instruction's own entry)? -/
def hintMisused (w : Word) (c : Consist) (h : Hints) : Bool :=
  let o := hintRules w
  let rat := o.rationalMajor && c.rat
  let badScope := match h.scope with
    | none => false
    | some (_, ord) => !o.scope || (ord != 0 && !o.order)
  let badRound := match h.round with
    | none => false
    | some m =>
      match o.round with
      | .refuse => true
      | .ieee => decide (3 < m.toNat)
      | .byMode => if rat then decide (4 < m.toNat) else decide (3 < m.toNat)
      | .rational => decide (4 < m.toNat)
  let badMod := match h.mod with
    | none => false
    | some m =>
      let sat := (m.extractLsb' 5 2).toNat
      let ftz := (m.extractLsb' 3 2).toNat
      sat == 3 || ftz == 3 || (sat == 1 && (!o.sat || rat)) || (sat == 2 && (!o.sat01 || rat))
        || (ftz != 0 && (!o.flush || rat)) || (m.getLsbD 2 && !o.negA) || (m.getLsbD 1 && !o.negB)
        || (m.getLsbD 0 && !o.negC)
  badScope || badRound || badMod || (o.noMod && h.mod.isSome) || (o.noConst && h.const.isSome)
    || (o.noHints && (h.const.isSome || h.scope.isSome || h.round.isSome || h.mod.isSome))
    || (o.noSched && h.sched.isSome)

/-- The special registers that only the supervisor level writes (R107). -/
def specialSupervisor (b : BitVec 7) : Bool := b == 2 || b == 3 || b == 4 || b == 5 || b == 0x0A

/-- What an instruction's own entry adds to the first check of R28, from its word: an immediate shift of 32 or more in the
C-stream (R141), RAKE's size (R83), EX2 to TANH in rational mode (R155), RMODE's mode (R207), FENCE's fields (R74), TKANY
of no token (R266), ERET outside a handler (R109), and the fields of HINT.HOLD and HINT.SCOPE (R43, R44). -/
def ownIllop (w : Word) (x : Ctx) : Bool :=
  let maj := (fld w 25 7).toNat
  let f := (fld w 0 3).toNat
  if maj = 0x08 then x.st == .c && decide (32 ≤ (fld w 0 6).toNat)
  else if maj = 0x16 then f == 0 || decide (5 < f)
  else if maj = 0x25 then decide (3 ≤ f) && x.c.rat
  else if maj = 0x2B then decide (4 < (fld w 1 3).toNat)
  else if maj = 0x39 then fld w 17 8 == 0 || fld w 9 8 == 0 || fld w 5 4 == 0 || decide (12 < (fld w 5 4).toNat)
  else if maj = 0x3B then fld w 8 2 == 1 && fld w 0 8 == 0
  else if maj = 0x60 then f == 4 && x.c.saved.isNone && x.c.level != 0
  else if maj = 0x7F then
    if (fld w 22 3).toNat = 2 then fld w 0 4 == 0 || decide (8 < (fld w 0 4).toNat)
    else if (fld w 22 3).toNat = 3 then fld w 18 4 == 0 || decide (12 < (fld w 18 4).toNat)
    else false
  else false

/-- What an instruction's own entry adds to the third check of R28: WRSR of a supervisor register at user level (R107). -/
def ownPriv (w : Word) (x : Ctx) : Bool :=
  fld w 25 7 == 0x60 && fld w 0 3 == 2 && x.c.level == 0 && specialSupervisor (fld w 4 7)

/-- The first operand field that is not allowed, with its position; k with no HINT.CONST pending reports 5 (R28). Where
several are not, it is the first in the order D, A, B, addend (DESIGN CHOICE, assumption log 44). -/
def badOperand (o : OpInfo) (x : Ctx) : Option Nat :=
  match o.uses.find? (fun u => !useOk x.c x.st u.2.2 u.2.1
      || (u.2.2.reads && codeOf x.st u.2.1 == .k && x.hints.const.isNone)) with
  | some u => if useOk x.c x.st u.2.2 u.2.1 then some 5 else some u.1
  | none => o.illopnd

/-- TRAPV of a decode cause (R28). -/
def decodeValue (w : Word) (pos : Nat) : DWord := (BitVec.ofNat 32 pos) ++ w

/-- The decode checks of R28, in order: ILLOP, STREAM, PRIV, ILLOPND. -/
def decodeCheck (w : Word) (o : OpInfo) (x : Ctx) : Option (Cause × DWord) :=
  if wordAbsent (isLine x.key) w || o.illop || ownIllop w x || (!o.hint && hintMisused w x.c x.hints) then some (.illop, decodeValue w 0)
  else if wordStreams w &&& (match x.st with | .c => 1 | .a => 2) = 0 then some (.stream, decodeValue w 0)
  else if x.c.level < wordLevel w || ownPriv w x then some (.priv, decodeValue w 0)
  else match badOperand o x with
    | some p => some (.illopnd, decodeValue w p)
    | none => none

/-! ## Latches and results in flight -/

/-- A latch the instruction reads while it is invalid: its number (R35). -/
def invalidLatch (o : OpInfo) (x : Ctx) : Option Nat :=
  if x.act = 0 then none else
  (o.uses.find? (fun u => u.2.2.reads && (match codeOf x.st u.2.1 with
    | .b n => !(x.c.strm x.st).latchValid.getLsbD n
    | _ => false))).map (fun u => latchOf u.2.1)

/-- The register codes a use covers. -/
def span (st : Strm) (u : Use) (code : BitVec 7) : List Nat :=
  let n := code.toNat
  match u with
  | .quad => [n, n + 1, n + 2, n + 3]
  | .group _ m => (List.range m).map (fun j => n + j)
  | .src true _ | .dst true _ _ | .place true => if st == .c then [n, n + 1] else [n]
  | .load 16 | .store 16 => [n, n + 1]
  | _ => [n]

/-- Does a result in flight stand in the way of an instruction that uses this code (R138)? -/
def conflicts (st : Strm) (f : Inflight) (u : Use) (code : BitVec 7) : Bool :=
  f.strm == st &&
    (match f.dest with
     | .reg d wide _ =>
       (u.reads || u.writes) &&
         ((span st u code).any (fun n => n == d.toNat || (wide && n == d.toNat + 1))
           || (u.writes && latchOf code == latchOf d)
           || (u.reads && (match codeOf st code with | .b n => n == latchOf d | _ => false)))
     | .queue d true _ =>
       (u.writes && latchOf code == latchOf d)
         || (u.reads && (match codeOf st code with | .b n => n == latchOf d | _ => false))
     | _ => false)

/-- Must the instruction wait for a result in flight (R138, R148)? -/
def hazard (o : OpInfo) (x : Ctx) : Bool :=
  x.c.inflight.any (fun f => (o.cross || x.act.getLsbD f.lane) && o.uses.any (fun u => conflicts x.st f u.2.2 u.2.1))

/-! ## Queue operations of an instruction (R85 to R87) -/

/-- Entries a use of a code takes or gives: pairs two (R30), memory data by size (R186, R187). -/
def entriesOf (st : Strm) : Use → Nat
  | .src wide _ | .dst wide _ _ => if wide && st == .c then 2 else 1
  | .load n | .store n => if n = 8 then 2 else if n = 16 then 4 else 1
  | .lqTwo => 2
  | .lqFour => 4
  | _ => 1

/-- The pops an instruction makes for a lane, in the order A, B, addend: queue and entries (R31). -/
def popsOf (o : OpInfo) (st : Strm) : List (Queue × Nat) :=
  let at1 := o.uses.filter (fun u => u.2.2.reads && u.1 ≠ 1)
  let first := o.uses.filter (fun u => u.2.2.reads && u.1 = 1)
  (at1 ++ first).filterMap (fun u => (readQueue st (codeOf st u.2.1)).map (fun q => (q, entriesOf st u.2.2)))

/-- The pushes an instruction makes for a lane; with W = 1 a result is pushed nowhere (R33). -/
def pushesOf (w : Word) (o : OpInfo) (st : Strm) : List (Queue × Nat) :=
  o.uses.filterMap (fun u =>
    match u.2.2 with
    | .dst _ _ _ | .lwait | .lqTwo =>
      if wordNw w then none else (writeQueue st (codeOf st u.2.1)).map (fun q => (q, entriesOf st u.2.2))
    | .load _ | .lqFour => (writeQueue st (codeOf st u.2.1)).map (fun q => (q, entriesOf st u.2.2))
    | _ => none)

/-- Entries of one queue in a list of operations. -/
def total (q : Queue) (l : List (Queue × Nat)) : Nat :=
  l.foldl (fun n e => if e.1 = q then n + e.2 else n) 0

/-- The queue operations of one lane of a run; an instruction that acts once for its run pops for the lowest active lane
alone (R31, R109). -/
def wantOf (w : Word) (o : OpInfo) (x : Ctx) (lane : Nat) : QWant :=
  { pops := if o.uniform && lane ≠ lowest x.act then [] else popsOf o x.st,
    pushes := if o.quiet && x.c.hmask.getLsbD lane then [] else pushesOf w o x.st }

/-- Can all queue operations of the instruction complete for this lane (R86)? -/
def queueReady (w : Word) (o : OpInfo) (x : Ctx) (lane : Nat) : Bool :=
  let want := wantOf w o x lane
  want.pops.all (fun p =>
      let n := total p.1 want.pops
      let e := x.c.queueOf p.1 lane
      decide (n ≤ e.length) && (e.take n).all (fun y => y.filled))
    && want.pushes.all (fun p => x.c.deaf p.1 lane || decide ((x.c.queueOf p.1 lane).length + p.2 ≤ p.1.depth))

/-- The active lanes for which the instruction can complete now (R86): none while the lane that an instruction acts once
for cannot. -/
def readyLanes (w : Word) (o : OpInfo) (x : Ctx) : Lanes :=
  if popsOf o x.st = [] ∧ pushesOf w o x.st = [] then x.act
  else if o.uniform && !queueReady w o x (lowest x.act) then 0
  else x.act &&& maskWhere (fun l => x.act.getLsbD l && queueReady w o x l)

/-! ## Reading operands (R4, R29, R39) -/

/-- How k is read in a 64-bit position (R39). -/
inductive KRead where
  | int | float | rational
  deriving DecidableEq, Repr

/-- The constant of a pending HINT.CONST with zero low bits (R39). -/
def constOf (x : Ctx) : Word := (x.hints.const.getD 0) ++ (0#10 : BitVec 10)

/-- A v register of a lane. -/
def Consist.v (c : Consist) (n lane : Nat) : Word := tget c.vregs (32 * n + lane)

/-- Value of an operand code for a lane; `off` entries of its queue are taken by sources before it; `kw` is what k
gives in a 64-bit position (R29, R30, R39). The result holds 32 bits, zero-extended, for a 32-bit operand. -/
def opVal (x : Ctx) (code : BitVec 7) (wide : Bool) (off : Nat) (kw : DWord) (lane : Nat) : DWord :=
  let sx := x.c.strm x.st
  let narrow := x.st == .c && !wide
  match codeOf x.st code with
  | .v n => if narrow then (x.c.v n lane).setWidth 64 else x.c.v (n + 1) lane ++ x.c.v n lane
  | .a n => tget x.c.aregs (32 * n + lane)
  | .s n => tget x.c.sregs n
  | .b n => let y := tget sx.latch (32 * n + lane); if narrow then lowBits 32 y else y
  | .z | .bad => 0
  | .ln => BitVec.ofNat 64 lane
  | .ci => BitVec.ofNat 64 x.c.ci
  | .k => if narrow then (constOf x).setWidth 64 else kw
  | cd =>
    match readQueue x.st cd with
    | none => 0
    | some q =>
      let e := (x.c.queueOf q lane).drop off
      let lo := (e.headD default).val
      if wide && x.st == .c then ((e.drop 1).headD default).val ++ lo else lo.setWidth 64

/-- Entries of its queue that sources before this one take (R31). -/
def offsetBefore (st : Strm) (before : List (BitVec 7 × Bool)) (code : BitVec 7) : Nat :=
  match readQueue st (codeOf st code) with
  | none => 0
  | some q => before.foldl (fun n b =>
      if readQueue st (codeOf st b.1) = some q then n + (if b.2 && st == .c then 2 else 1) else n) 0

/-- k in a 64-bit position of an integer operation: sign-extended (R39). -/
def kInt (x : Ctx) : DWord := (constOf x).signExtend 64

/-- Values of the sources of a lane, in the order they are popped: codes with their width. -/
def srcVals (x : Ctx) (kw : DWord) (srcs : List (BitVec 7 × Bool)) (lane : Nat) : List DWord :=
  (List.range srcs.length).map (fun j =>
    match srcs[j]? with
    | some (code, wide) => opVal x code wide (offsetBefore x.st (srcs.take j) code) kw lane
    | none => 0)

/-- A predicate of a lane; p7 reads 1 (R95). -/
def StreamSt.pred (sx : StreamSt) (p lane : Nat) : Bool :=
  if p = 7 then true else (tget sx.preds p).getLsbD lane

/-! ## Writing results (R32, R33) -/

/-- Write a result for lanes: the latch of D always, the register or queue unless W is 1 (R32, R33). With no active lane it
writes nothing, and the latch stays valid or not as it was (DESIGN CHOICE, assumption log 44). -/
def putResult (s : State) (c : Consist) (st : Strm) (d : BitVec 7) (wide nw : Bool) (ls : List Nat) (f : Nat → DWord) :
    Consist :=
  let narrow := st == .c && !wide
  let g := fun l => if narrow then lowBits 32 (f l) else f l
  let c := if ls = [] then c else c.setStrm st ((c.strm st).putLatch (latchOf d) ls g)
  if nw then c else
  match writeQueue st (codeOf st d) with
  | none => c.putReg st d (wide && st == .c) ls g
  | some q =>
    ls.foldl (fun c l => (wordsOf (wide && st == .c) (g l)).foldl (fun c v =>
      c.push q l { val := v, filled := true, id := 0, clk := s.known (laneThread c.uid l st) }) c) c

/-- Write a predicate of lanes; p7 is not written (R95). -/
def StreamSt.putPred (sx : StreamSt) (p : Nat) (act : Lanes) (val : Lanes) : StreamSt :=
  if p = 7 then sx else { sx with preds := tset sx.preds p ((tget sx.preds p &&& ~~~act) ||| (val &&& act)) }

/-! ## Issue -/

/-- What the body of an instruction does. -/
inductive Eff where
  /-- it completes -/
  | ok (s : State)
  /-- it traps and has no effect -/
  | trap (cause : Cause) (value : DWord)
  /-- it traps; the state holds what its translation has done by then (R338, R341) -/
  | trapIn (s : State) (cause : Cause) (value : DWord)
  /-- it waits; the state may note that it does -/
  | wait (s : State)
  /-- it waits and holds its front end, as an access that misses translation does (R195, R196, R302) -/
  | hold (s : State)
  /-- the step ends here: the consist is no longer there to go on (R106, R389) -/
  | stop (s : State)

/-- A step of any kind has been taken. -/
def State.bump (s : State) : State := { s with tick := s.tick + 1 }

/-- The outcome type of every meaning. -/
abbrev Out := Host.Outcome State Fault Refusal

/-- Nothing to issue: a front end held by HINT.SCHED has used one of its cycles (R47). -/
def idle (s : State) : State :=
  match s.consist? s.focus.1 with
  | none => s.bump
  | some c =>
    let x := c.strm s.focus.2
    if x.schedLeft = 0 then s.bump
    else (s.setConsist s.focus.1 (c.setStrm s.focus.2 { x with schedLeft := x.schedLeft - 1 })).bump

/-- The front end of a stream of a consist switches to it: the latches of the consist it last issued for are invalid (R35,
R97). -/
def State.switchTo (s : State) (key : Nat) (st : Strm) : State :=
  let k := coreOf key
  let co := s.core k
  let s := match tget co.last (frontOf key st) with
    | 0 => s
    | j + 1 =>
      if j = key then s else
      match s.consist? j with
      | some c => s.setConsist j (c.setStrm st { c.strm st with latchValid := 0 })
      | none => s
  s.setCore k { co with last := tset co.last (frontOf key st) (key + 1) }

/-- The front end issues an instruction of this consist (R97): the consist it issued last, if that is another, loses the
latches of the stream (R35). -/
def switchIn (x : Ctx) (s : State) : State := s.switchTo x.key x.st

/-- The run stalls: it stays where it is, and may hold its front end. Deferrals end when every other run of the stream is
deferred (R92). -/
def stall (x : Ctx) (s : State) (held : Bool := false) : State :=
  match s.consist? x.key with
  | none => s.bump
  | some c =>
    let sx := c.strm x.st
    let alone := decide (c.alive x.st &&& ~~~sx.deferred &&& ~~~x.run = 0)
    (s.setConsist x.key (c.setStrm x.st
      { sx with stalled := true, held := held, deferred := if alone && !held then 0 else sx.deferred })).bump

/-- The instruction traps: the record, the handler or the end of the consist (R104 to R106). TRAPPC is the address of
the first pending hint, or of the hint that traps (R40). -/
def trapAt (x : Ctx) (hint : Bool) (cause : Cause) (value : DWord) (s : State) : State :=
  match s.consist? x.key with
  | none => s.bump
  | some c =>
    -- a Terminus operation of the A-stream completes before the handler starts (R104, R317)
    if x.st == .c && c.bandOp != 0 && c.handler.isSome && c.saved.isNone then stall x s else
    let first := c.trapPc x.st (lowest x.run) x.pc
    (s.setConsist x.key (c.deliver cause value false x.st x.run (if hint then x.pc else first) first)).bump

/-- The consist of a context with what blocks some of its lanes kept (R86, R89). -/
def noted (w : Word) (o : OpInfo) (x : Ctx) (ls : Lanes) : Consist :=
  let sx := x.c.strm x.st
  x.c.setStrm x.st { sx with wants := setLanes sx.wants (lanesOf ls) (wantOf w o x) }

/-- Keep what blocks the lanes whose queue operations cannot complete. -/
def noteWants (w : Word) (o : OpInfo) (x : Ctx) (ls : Lanes) (s : State) : State := s.setConsist x.key (noted w o x ls)

/-- The lanes an instruction pops for. -/
def popLanes (o : OpInfo) (x : Ctx) : List Nat := if o.uniform then (lanesOf x.act).take 1 else lanesOf x.act

/-- Each lane learns what the producers of the entries it is about to pop had seen: the pop comes after the push (R59). -/
def learnPops (o : OpInfo) (x : Ctx) (s : State) : State :=
  let pops := popsOf o x.st
  if pops = [] then s else
  (popLanes o x).foldl (fun s l => pops.foldl (fun s p =>
    ((x.c.queueOf p.1 l).take (total p.1 pops)).foldl (fun s y => s.take (laneThread x.c.uid l x.st) y.clk) s) s) s

/-- The instruction has popped nothing after all: its lanes know what they knew before (R31). -/
def unlearn (before t : State) : State := { t with clocks := before.clocks, engineClocks := before.engineClocks }

/-- Pop the entries a completed instruction takes for its lanes. -/
def popAll (o : OpInfo) (x : Ctx) (s : State) : State :=
  let pops := popsOf o x.st
  if pops = [] then s else
  (popLanes o x).foldl (fun s l => pops.foldl (fun s p =>
    match s.consist? x.key with
    | none => s
    | some c => s.setConsist x.key (c.setQueue p.1 l ((c.queueOf p.1 l).drop p.2))) s) s

/-- The run's lanes stand four bytes on. -/
def StreamSt.stepOn (sx : StreamSt) (ls : List Nat) : StreamSt :=
  { sx with pc := ls.foldl (fun t l => tset t l (tget t l + 4)) sx.pc }

/-- The run's pending hints are used, and its windows count one instruction less; a transfer closes guard windows (R40,
R42, R43). -/
def StreamSt.useHints (sx : StreamSt) (transfer : Bool) (ls : List Nat) : StreamSt :=
  { sx with hints := ls.foldl (fun t l => tdel l t) sx.hints,
            guardLeft := ls.foldl (fun t l => tset t l (if transfer then 0 else tget t l - 1)) sx.guardLeft,
            hold := sx.hold - 1 }

/-- The run has issued once more as the head run, while another run of the stream existed or not, and nothing keeps it
(R89, R92). -/
def StreamSt.countRun (sx : StreamSt) (run : Lanes) (more : Bool) (ls : List Nat) : StreamSt :=
  { sx with headCount := if !more then 0 else if sx.headLanes = run then sx.headCount + 1 else 1, headLanes := run,
            stalled := false, held := false, wants := ls.foldl (fun t l => tdel l t) sx.wants }

/-- A run is deferred behind the next run; when lanes are deferred already, it is a run that became head, and all deferrals
end (R92). -/
def StreamSt.defer (sx : StreamSt) (alive run : Lanes) : StreamSt :=
  { sx with deferred := if alive &&& sx.deferred &&& ~~~run = 0 then sx.deferred ||| run else 0 }

/-- A pending HINT.SCHED takes effect (R47). -/
def StreamSt.schedule (sx : StreamSt) (alive run : Lanes) (h : BitVec 7) : StreamSt :=
  let sx := { sx with schedLeft := (h.extractLsb' 1 6).toNat }
  if h.getLsbD 0 then sx.defer alive run else sx

/-- Deferrals end when a deferred lane meets another run, or when every lane is deferred (R92). -/
def StreamSt.undefer (sx : StreamSt) (alive : Lanes) : StreamSt :=
  let met := (lanesOf (alive &&& ~~~sx.deferred)).any (fun l =>
    (lanesOf (alive &&& sx.deferred)).any (fun j => tget sx.pc l == tget sx.pc j))
  if met || decide (alive &&& ~~~sx.deferred = 0) then { sx with deferred := 0 } else sx

/-- The stream after its run has completed an instruction: the program counters, pending hints, windows, counts and
deferrals (R40, R42, R43, R47, R92). -/
def StreamSt.retired (sx : StreamSt) (o : OpInfo) (run : Lanes) (hints : Hints) (alive : Lanes) : StreamSt :=
  let ls := lanesOf run
  let more := decide (alive &&& ~~~sx.deferred &&& ~~~run ≠ 0)
  let sx := if o.transfer then sx else sx.stepOn ls
  let sx := (if o.hint then sx else sx.useHints o.transfer ls).countRun run more ls
  let sx := match o.hint, hints.sched with
    | false, some h => sx.schedule alive run h
    | _, _ => sx
  sx.undefer alive

/-- The run has completed the instruction: its pops, and its stream (R31, R40). -/
def complete (o : OpInfo) (x : Ctx) (s : State) : State :=
  let s := popAll o x s
  match s.consist? x.key with
  | none => s
  | some c => s.setConsist x.key (c.setStrm x.st ((c.strm x.st).retired o x.run x.hints (c.alive x.st)))

/-- The step in which the run completes the instruction. -/
def retire (o : OpInfo) (x : Ctx) (s : State) : State := (complete o x s).bump

/-- Issue an instruction word for the front end in focus: the decode checks of R28, the wait for results in flight
(R138), the latch check (R35), the queue split of R86, the effect, and the retirement; or the trap. A turn that issues
nothing switches no front end (R97). -/
def issue (w : Word) (o : OpInfo) (body : Ctx → State → Eff) (s : State) : Out :=
  match findCtx s with
  | none => .next (idle s)
  | some x =>
    match decodeCheck w o x with
    | some (cause, v) => .next (trapAt x o.hint cause v (switchIn x s))
    | none =>
      if hazard o x then .next (stall x s) else
      match invalidLatch o x with
      | some n =>
        .next (trapAt x o.hint .latch (BitVec.ofNat 64 (n + match x.st with | .a => 8 | .c => 0)) (switchIn x s))
      | none =>
        let ready := readyLanes w o x
        if ready = 0 ∧ x.act ≠ 0 then .next (stall x (noteWants w o x x.act s)) else
        let left := x.act &&& ~~~ready
        let s := if left = 0 then s else noteWants w o x left s
        let y := { x with c := if left = 0 then x.c else noted w o x left, run := x.run &&& ~~~left, act := ready }
        match body y (learnPops o y s) with
        | .ok t => .next (retire o y (switchIn x t))
        | .trap cause v => .next (trapAt y o.hint cause v (switchIn x s))
        | .trapIn t cause v => .next (trapAt y o.hint cause v (switchIn x (unlearn s t)))
        | .wait t => .next (stall x (unlearn s t))
        | .hold t => .next (stall x (unlearn s t) true)
        | .stop t => .next (switchIn x t).bump

/-- A word that is no instruction (R28 check 1); one of major 0x7F is a hint all the same (R40, R48). -/
def rejectIllop (w : Word) (s : State) : Out :=
  issue w { illop := true, hint := fld w 25 7 == 0x7F } (fun _ t => .ok t) s

/-- The word of an instruction with a code other than z where the opcode map fixes z (R27, R28 check 4). -/
def rejectOperand (w : Word) (pos : Nat) (s : State) : Out :=
  issue w { illopnd := some pos } (fun _ t => .ok t) s

end Sys2Proof.Machine
end

