-- ==== Sys2Proof/Machine/IntAlu.lean ====
section
/-!
DEFINITION. Majors 0x01 to 0x11: integer arithmetic, logic, shifts, bit fields, comparison, selection, predicates
and LEA (R132 to R147).
-/

namespace Sys2Proof.Machine

open Sys2Proof

/-! ## Shared forms -/

/-- A saturation modifier `sat` is pending (R46). -/
def satOf (x : Ctx) : Bool := (x.hints.mod.getD 0).extractLsb' 5 2 == 1

/-- Apply an operation at the width of the stream: 32 bits in the C-stream, 64 in the A-stream (R110, R132). -/
def atWidth1 (st : Strm) (f : (n : Nat) → BitVec n → BitVec n) (x : DWord) : DWord :=
  match st with
  | .c => (f 32 (x.setWidth 32)).setWidth 64
  | .a => f 64 x

/-- The same for two operands. -/
def atWidth2 (st : Strm) (f : (n : Nat) → BitVec n → BitVec n → BitVec n) (x y : DWord) : DWord :=
  match st with
  | .c => (f 32 (x.setWidth 32) (y.setWidth 32)).setWidth 64
  | .a => f 64 x y

/-- The same for three operands. -/
def atWidth3 (st : Strm) (f : (n : Nat) → BitVec n → BitVec n → BitVec n → BitVec n) (x y z : DWord) : DWord :=
  match st with
  | .c => (f 32 (x.setWidth 32) (y.setWidth 32) (z.setWidth 32)).setWidth 64
  | .a => f 64 x y z

/-- A test at the width of the stream. -/
def testWidth2 (st : Strm) (f : (n : Nat) → BitVec n → BitVec n → Bool) (x y : DWord) : Bool :=
  match st with
  | .c => f 32 (x.setWidth 32) (y.setWidth 32)
  | .a => f 64 x y

/-- The immediate of an integer IMM instruction (R36, R39, R134). -/
def immOf (x : Ctx) (imm : BitVec 10) : DWord :=
  match x.hints.const with
  | some p => (p ++ imm).signExtend 64
  | none => imm.signExtend 64

/-- Write a result of the stream's width for every active lane and complete. -/
def writeLanes (x : Ctx) (d : BitVec 7) (wide nw : Bool) (f : Nat → DWord) (s : State) : Eff :=
  .ok (s.setConsist x.key (putResult s x.c x.st d wide nw (lanesOf x.act) f))

/-- Write a predicate for every active lane and complete. -/
def writePred (x : Ctx) (p : BitVec 7) (f : Nat → Bool) (s : State) : Eff :=
  .ok (s.setConsist x.key (x.c.setStrm x.st ((x.c.strm x.st).putPred p.toNat x.act (maskWhere f))))

/-- Value of one 32- or 64-bit source of a lane, by the stream's width. -/
def src1 (x : Ctx) (a : BitVec 7) (lane : Nat) : DWord := opVal x a false 0 (kInt x) lane

/-- Value of a second source, after the entries the first took from its queue (R31). -/
def src2 (x : Ctx) (a b : BitVec 7) (lane : Nat) : DWord :=
  opVal x b false (offsetBefore x.st [(a, false)] b) (kInt x) lane

/-- Operand fields of a form with one source. -/
def info2 (d a : BitVec 7) : OpInfo := { uses := [(1, d, .dst false false true), (2, a, .src false true)] }

/-- Operand fields of a form with two sources. -/
def info3 (d a b : BitVec 7) : OpInfo :=
  { uses := [(1, d, .dst false false true), (2, a, .src false true), (3, b, .src false true)] }

/-- A REG form with one source and one result. -/
def alu1 (maj : BitVec 7) (fn : BitVec 3) (f : (n : Nat) → BitVec n → BitVec n) (d a : BitVec 7) (w : BitVec 1)
    (s : State) : Out :=
  issue (packReg maj d a 0x78 w fn) (info2 d a)
    (fun x => writeLanes x d false (w == 1) (fun l => atWidth1 x.st f (src1 x a l))) s

/-- A REG form with two sources and one result; the operation is told whether `sat` is pending. -/
def alu2 (maj : BitVec 7) (fn : BitVec 3) (f : Bool → (n : Nat) → BitVec n → BitVec n → BitVec n) (d a b : BitVec 7)
    (w : BitVec 1) (s : State) : Out :=
  issue (packReg maj d a b w fn) (info3 d a b)
    (fun x => writeLanes x d false (w == 1) (fun l => atWidth2 x.st (f (satOf x)) (src1 x a l) (src2 x a b l))) s

/-- An IMM form with one source and one result; `sreg` says an s register is a legal destination (R132). -/
def aluImm (maj : BitVec 7) (sreg : Bool) (f : Bool → (n : Nat) → BitVec n → BitVec n → BitVec n) (d a : BitVec 7)
    (w : BitVec 1) (imm : BitVec 10) (s : State) : Out :=
  issue (packImm maj d a w imm) { uses := [(1, d, .dst false sreg true), (2, a, .src false true)] }
    (fun x => writeLanes x d false (w == 1) (fun l => atWidth2 x.st (f (satOf x)) (src1 x a l) (immOf x imm))) s

/-! ## The operations (R133 to R136) -/

/-- Clamp an exact integer to the signed range of n bits (R46). -/
def clampInt (n : Nat) (x : Int) : BitVec n :=
  BitVec.ofInt n (max (-(2 ^ (n - 1) : Int)) (min x (2 ^ (n - 1) - 1 : Int)))

/-- An exact integer wrapped to n bits, or clamped with `sat`. -/
def wrapOrSat (sat : Bool) (n : Nat) (x : Int) : BitVec n := if sat then clampInt n x else BitVec.ofInt n x

/-- IADD (R133). -/
def intAdd (sat : Bool) (n : Nat) (x y : BitVec n) : BitVec n := wrapOrSat sat n (x.toInt + y.toInt)
/-- ISUB (R133). -/
def intSub (sat : Bool) (n : Nat) (x y : BitVec n) : BitVec n := wrapOrSat sat n (x.toInt - y.toInt)
/-- IMIN (R133). -/
def intMin (n : Nat) (x y : BitVec n) : BitVec n := if x.toInt ≤ y.toInt then x else y
/-- IMAX (R133). -/
def intMax (n : Nat) (x y : BitVec n) : BitVec n := if x.toInt ≤ y.toInt then y else x
/-- UMIN (R133). -/
def uintMin (n : Nat) (x y : BitVec n) : BitVec n := if x.toNat ≤ y.toNat then x else y
/-- UMAX (R133). -/
def uintMax (n : Nat) (x y : BitVec n) : BitVec n := if x.toNat ≤ y.toNat then y else x
/-- IABSD (R133). -/
def intAbsd (n : Nat) (x y : BitVec n) : BitVec n := BitVec.ofNat n (x.toInt - y.toInt).natAbs
/-- IMUL (R136). -/
def intMul (sat : Bool) (n : Nat) (x y : BitVec n) : BitVec n := wrapOrSat sat n (x.toInt * y.toInt)
/-- IMULH: the upper half of the signed product (R136). -/
def intMulh (n : Nat) (x y : BitVec n) : BitVec n := BitVec.ofInt n (Int.fdiv (x.toInt * y.toInt) (2 ^ n))
/-- UMULH: the upper half of the unsigned product (R136). -/
def uintMulh (n : Nat) (x y : BitVec n) : BitVec n := BitVec.ofNat n (x.toNat * y.toNat / 2 ^ n)
/-- IMAD: the product and the addend, exact, then wrapped or clamped (R135). -/
def intMad (sat : Bool) (n : Nat) (x y c : BitVec n) : BitVec n := wrapOrSat sat n (x.toInt * y.toInt + c.toInt)
/-- IDIV: truncated toward zero (R136). -/
def intDiv (n : Nat) (x y : BitVec n) : BitVec n := BitVec.ofInt n (Int.tdiv x.toInt y.toInt)
/-- UDIV (R136). -/
def uintDiv (n : Nat) (x y : BitVec n) : BitVec n := BitVec.ofNat n (x.toNat / y.toNat)
/-- IREM: the sign of x, or 0 (R136). -/
def intRem (n : Nat) (x y : BitVec n) : BitVec n := BitVec.ofInt n (Int.tmod x.toInt y.toInt)
/-- UREM (R136). -/
def uintRem (n : Nat) (x y : BitVec n) : BitVec n := BitVec.ofNat n (x.toNat % y.toNat)

/-! ## Major 0x01, 0x02, 0x0E, 0x0A -/

/-- IADD (R133). -/
def execIadd (d a b : BitVec 7) (w : BitVec 1) (s : State) : Out := alu2 0x01 0 intAdd d a b w s
/-- ISUB (R133). -/
def execIsub (d a b : BitVec 7) (w : BitVec 1) (s : State) : Out := alu2 0x01 1 intSub d a b w s
/-- IMIN (R133). -/
def execImin (d a b : BitVec 7) (w : BitVec 1) (s : State) : Out := alu2 0x01 2 (fun _ => intMin) d a b w s
/-- IMAX (R133). -/
def execImax (d a b : BitVec 7) (w : BitVec 1) (s : State) : Out := alu2 0x01 3 (fun _ => intMax) d a b w s
/-- UMIN (R133). -/
def execUmin (d a b : BitVec 7) (w : BitVec 1) (s : State) : Out := alu2 0x01 4 (fun _ => uintMin) d a b w s
/-- UMAX (R133). -/
def execUmax (d a b : BitVec 7) (w : BitVec 1) (s : State) : Out := alu2 0x01 5 (fun _ => uintMax) d a b w s
/-- IABSD (R133). -/
def execIabsd (d a b : BitVec 7) (w : BitVec 1) (s : State) : Out := alu2 0x01 6 (fun _ => intAbsd) d a b w s
/-- IADDI (R134). -/
def execIaddi (d a : BitVec 7) (w : BitVec 1) (imm : BitVec 10) (s : State) : Out :=
  aluImm 0x02 true intAdd d a w imm s

/-- MOVI (R134). -/
def execMovi (d : BitVec 7) (w : BitVec 1) (imm : BitVec 10) (s : State) : Out :=
  issue (packImm 0x0E d 0x78 w imm) { uses := [(1, d, .dst false true true)] }
    (fun x => writeLanes x d false (w == 1) (fun _ => immOf x imm)) s

/-- The addend of an ACC word: D for C = 0, else latch bC (R34). -/
def addendCode (d : BitVec 7) (c : BitVec 3) : BitVec 7 := if c = 0 then d else 0x70 + c.setWidth 7

/-- Operand fields of an ACC word: C = 0 reads D as the addend, C = 1 to 7 a latch (R34). -/
def infoAcc (wide : Bool) (d a b : BitVec 7) (c : BitVec 3) : OpInfo :=
  { uses := [(1, d, if c = 0 then .place wide else .dst wide false true), (2, a, .src wide true), (3, b, .src wide true)]
      ++ (if c = 0 then [] else [(4, addendCode d c, .src wide true)]) }

/-- IMAD (R135). -/
def execImad (d a b : BitVec 7) (c : BitVec 3) (w : BitVec 1) (s : State) : Out :=
  issue (packAcc 0x0A d a b c w) (infoAcc false d a b c)
    (fun x => writeLanes x d false (w == 1) (fun l =>
      atWidth3 x.st (intMad (satOf x)) (src1 x a l) (src2 x a b l) (src1 x (addendCode d c) l))) s

/-! ## Major 0x09 -/

/-- Send a result of each active lane on its way: the register or queue slots are written when it completes
(R85, R138). -/
def launchResult (kind : Latency) (x : Ctx) (d : BitVec 7) (wide nw : Bool) (f : Nat → DWord) (s : State) : State :=
  let words := fun l => if wide || x.st == .a then [(f l).setWidth 32, (f l).extractLsb' 32 32] else [(f l).setWidth 32]
  let entries := fun l => if wide && x.st == .c then words l else [(f l).setWidth 32]
  let q := if nw then none else writeQueue x.st (codeOf x.st d)
  let dest : Dest := match q with
    | some _ => .queue d true s.nextUid
    | none => .reg d (wide && x.st == .c) (!nw)
  let item := fun l => ({ kind := kind, strm := x.st, lane := l, dest := dest,
                          vals := words l,
                          clk := s.known (laneThread x.c.uid l x.st) } : Inflight)
  let c := (lanesOf x.act).foldl (fun (c : Consist) l =>
    let c := match q with
      | some q => (entries l).foldl (fun (c : Consist) _ =>
          c.push q l { val := 0, filled := false, id := s.nextUid, clk := default }) c
      | none => c
    { c with inflight := c.inflight ++ [item l] }) x.c
  { s.setConsist x.key c with nextUid := s.nextUid + 1 }

/-- The active lanes whose divisor is zero (R137). -/
def zeroLanes (x : Ctx) (f : Nat → Bool) : Lanes := maskWhere (fun l => x.act.getLsbD l && f l)

/-- A division: ZDIV when an active lane divides by zero, else a result of the variable class (R136 to R138). -/
def division (fn : BitVec 3) (f : (n : Nat) → BitVec n → BitVec n → BitVec n) (d a b : BitVec 7) (w : BitVec 1)
    (s : State) : Out :=
  issue (packReg 0x09 d a b w fn) (info3 d a b)
    (fun x s =>
      let zs := zeroLanes x (fun l => src2 x a b l == 0)
      if zs ≠ 0 then .trap .zdiv (zs.setWidth 64)
      else .ok (launchResult .variable x d false (w == 1) (fun l => atWidth2 x.st f (src1 x a l) (src2 x a b l)) s)) s

/-- IMUL (R136). -/
def execImul (d a b : BitVec 7) (w : BitVec 1) (s : State) : Out := alu2 0x09 0 intMul d a b w s
/-- IMULH (R136). -/
def execImulh (d a b : BitVec 7) (w : BitVec 1) (s : State) : Out := alu2 0x09 1 (fun _ => intMulh) d a b w s
/-- UMULH (R136). -/
def execUmulh (d a b : BitVec 7) (w : BitVec 1) (s : State) : Out := alu2 0x09 2 (fun _ => uintMulh) d a b w s
/-- IDIV (R136). -/
def execIdiv (d a b : BitVec 7) (w : BitVec 1) (s : State) : Out := division 3 intDiv d a b w s
/-- UDIV (R136). -/
def execUdiv (d a b : BitVec 7) (w : BitVec 1) (s : State) : Out := division 4 uintDiv d a b w s
/-- IREM (R136). -/
def execIrem (d a b : BitVec 7) (w : BitVec 1) (s : State) : Out := division 5 intRem d a b w s
/-- UREM (R136). -/
def execUrem (d a b : BitVec 7) (w : BitVec 1) (s : State) : Out := division 6 uintRem d a b w s

/-! ## Majors 0x03 to 0x06 (R139) -/

/-- AND (R139). -/
def execAnd (d a b : BitVec 7) (w : BitVec 1) (s : State) : Out :=
  alu2 0x03 0 (fun _ _ p q => p &&& q) d a b w s
/-- OR (R139). -/
def execOr (d a b : BitVec 7) (w : BitVec 1) (s : State) : Out :=
  alu2 0x03 1 (fun _ _ p q => p ||| q) d a b w s
/-- XOR (R139). -/
def execXor (d a b : BitVec 7) (w : BitVec 1) (s : State) : Out :=
  alu2 0x03 2 (fun _ _ p q => p ^^^ q) d a b w s
/-- ANDN (R139). -/
def execAndn (d a b : BitVec 7) (w : BitVec 1) (s : State) : Out :=
  alu2 0x03 3 (fun _ _ p q => p &&& ~~~q) d a b w s
/-- NOT (R139). -/
def execNot (d a : BitVec 7) (w : BitVec 1) (s : State) : Out := alu1 0x03 4 (fun _ p => ~~~p) d a w s
/-- ANDI (R139). -/
def execAndi (d a : BitVec 7) (w : BitVec 1) (imm : BitVec 10) (s : State) : Out :=
  aluImm 0x04 false (fun _ _ p q => p &&& q) d a w imm s
/-- ORI (R139). -/
def execOri (d a : BitVec 7) (w : BitVec 1) (imm : BitVec 10) (s : State) : Out :=
  aluImm 0x05 false (fun _ _ p q => p ||| q) d a w imm s
/-- XORI (R139). -/
def execXori (d a : BitVec 7) (w : BitVec 1) (imm : BitVec 10) (s : State) : Out :=
  aluImm 0x06 false (fun _ _ p q => p ^^^ q) d a w imm s

/-! ## Majors 0x07 and 0x08 (R140 to R142) -/

/-- SHL by an amount (R140). -/
def shiftL (n : Nat) (x : BitVec n) (k : Nat) : BitVec n := if k < n then x <<< k else 0
/-- SHR by an amount (R140). -/
def shiftR (n : Nat) (x : BitVec n) (k : Nat) : BitVec n := if k < n then x >>> k else 0
/-- SAR by an amount (R140). -/
def shiftA (n : Nat) (x : BitVec n) (k : Nat) : BitVec n := x.sshiftRight k
/-- ROR by an amount (R140). -/
def rotR (n : Nat) (x : BitVec n) (k : Nat) : BitVec n := x.rotateRight (k % n)

/-- A register shift: the amount is B[7:0] (R140). -/
def shiftReg (fn : BitVec 3) (f : (n : Nat) → BitVec n → Nat → BitVec n) (d a b : BitVec 7) (w : BitVec 1)
    (s : State) : Out :=
  alu2 0x07 fn (fun _ n x y => f n x (y.toNat % 256)) d a b w s

/-- An immediate shift (R141). -/
def shiftImm (form : BitVec 2) (f : (n : Nat) → BitVec n → Nat → BitVec n) (d a : BitVec 7) (w : BitVec 1)
    (imm : BitVec 6) (s : State) : Out :=
  issue (packImm 0x08 d a w (form ++ (0#2 : BitVec 2) ++ imm))
    (info2 d a)
    (fun x => writeLanes x d false (w == 1) (fun l => atWidth1 x.st (fun n v => f n v imm.toNat) (src1 x a l))) s

/-- SHL (R140). -/
def execShl (d a b : BitVec 7) (w : BitVec 1) (s : State) : Out := shiftReg 0 shiftL d a b w s
/-- SHR (R140). -/
def execShr (d a b : BitVec 7) (w : BitVec 1) (s : State) : Out := shiftReg 1 shiftR d a b w s
/-- SAR (R140). -/
def execSar (d a b : BitVec 7) (w : BitVec 1) (s : State) : Out := shiftReg 2 shiftA d a b w s
/-- ROR (R140). -/
def execRor (d a b : BitVec 7) (w : BitVec 1) (s : State) : Out := shiftReg 3 rotR d a b w s
/-- SHLI (R141). -/
def execShli (d a : BitVec 7) (w : BitVec 1) (imm : BitVec 6) (s : State) : Out := shiftImm 0 shiftL d a w imm s
/-- SHRI (R141). -/
def execShri (d a : BitVec 7) (w : BitVec 1) (imm : BitVec 6) (s : State) : Out := shiftImm 1 shiftR d a w imm s
/-- SARI (R141). -/
def execSari (d a : BitVec 7) (w : BitVec 1) (imm : BitVec 6) (s : State) : Out := shiftImm 2 shiftA d a w imm s
/-- RORI (R141). -/
def execRori (d a : BitVec 7) (w : BitVec 1) (imm : BitVec 6) (s : State) : Out := shiftImm 3 rotR d a w imm s

/-- Position of a field descriptor (R142). -/
def fieldPos (n : Nat) (y : BitVec n) : Nat := y.toNat % 256

/-- Length of a described field: LEN cut off at the width; 0 when the position lies beyond it (R142). -/
def fieldLen (n : Nat) (y : BitVec n) : Nat := min (y.toNat / 256 % 256) (n - fieldPos n y)

/-- BFE (R142). -/
def bfe (n : Nat) (x y : BitVec n) : BitVec n :=
  let len := fieldLen n y
  if len = 0 then 0 else
  let f : BitVec len := x.extractLsb' (fieldPos n y) len
  if y.toNat / 65536 % 2 = 1 then f.signExtend n else f.setWidth n

/-- BFI: the field of D is replaced by the low bits of A (R142). -/
def bfi (n : Nat) (x y d : BitVec n) : BitVec n :=
  let len := fieldLen n y
  let m := (BitVec.ofNat n (2 ^ len - 1)) <<< fieldPos n y
  if len = 0 then d else (d &&& ~~~m) ||| ((x <<< fieldPos n y) &&& m)

/-- BFE (R142). -/
def execBfe (d a b : BitVec 7) (w : BitVec 1) (s : State) : Out := alu2 0x07 4 (fun _ => bfe) d a b w s

/-- BFI (R142): D is read as a source too. -/
def execBfi (d a b : BitVec 7) (w : BitVec 1) (s : State) : Out :=
  issue (packReg 0x07 d a b w 5)
    { uses := [(1, d, .place false), (2, a, .src false true), (3, b, .src false true)] }
    (fun x => writeLanes x d false (w == 1) (fun l =>
      atWidth3 x.st bfi (src1 x a l) (src2 x a b l) (src1 x d l))) s

/-! ## Major 0x0B (R143) -/

/-- POPC (R143). -/
def popCount (n : Nat) (x : BitVec n) : BitVec n :=
  BitVec.ofNat n ((List.range n).filter (fun i => x.getLsbD i)).length
/-- CLZ (R143). -/
def leadingZeros (n : Nat) (x : BitVec n) : BitVec n :=
  BitVec.ofNat n (if x = 0 then n else n - 1 - x.toNat.log2)
/-- CTZ (R143). -/
def trailingZeros (n : Nat) (x : BitVec n) : BitVec n :=
  BitVec.ofNat n (((List.range n).find? (fun i => x.getLsbD i)).getD n)
/-- BREV (R143). -/
def bitReverse (n : Nat) (x : BitVec n) : BitVec n := x.reverse
/-- BSWAP (R143). -/
def byteSwap (n : Nat) (x : BitVec n) : BitVec n :=
  BitVec.ofNat n (leNat (leBytes (n / 8) x.toNat).reverse)
/-- SEXT8 (R143). -/
def sext8 (n : Nat) (x : BitVec n) : BitVec n := (x.setWidth 8).signExtend n
/-- SEXT16 (R143). -/
def sext16 (n : Nat) (x : BitVec n) : BitVec n := (x.setWidth 16).signExtend n

/-- POPC (R143). -/
def execPopc (d a : BitVec 7) (w : BitVec 1) (s : State) : Out := alu1 0x0B 0 popCount d a w s
/-- CLZ (R143). -/
def execClz (d a : BitVec 7) (w : BitVec 1) (s : State) : Out := alu1 0x0B 1 leadingZeros d a w s
/-- CTZ (R143). -/
def execCtz (d a : BitVec 7) (w : BitVec 1) (s : State) : Out := alu1 0x0B 2 trailingZeros d a w s
/-- BREV (R143). -/
def execBrev (d a : BitVec 7) (w : BitVec 1) (s : State) : Out := alu1 0x0B 3 bitReverse d a w s
/-- BSWAP (R143). -/
def execBswap (d a : BitVec 7) (w : BitVec 1) (s : State) : Out := alu1 0x0B 4 byteSwap d a w s
/-- SEXT8 (R143). -/
def execSext8 (d a : BitVec 7) (w : BitVec 1) (s : State) : Out := alu1 0x0B 5 sext8 d a w s
/-- SEXT16 (R143). -/
def execSext16 (d a : BitVec 7) (w : BitVec 1) (s : State) : Out := alu1 0x0B 6 sext16 d a w s

/-! ## Majors 0x0C, 0x0D, 0x0F, 0x10, 0x11 (R144 to R147) -/

/-- The conditions of R144. -/
def condHolds (f : BitVec 3) (n : Nat) (x y : BitVec n) : Bool :=
  match f.toNat with
  | 0 => x == y
  | 1 => x != y
  | 2 => decide (x.toInt < y.toInt)
  | 3 => decide (x.toInt ≤ y.toInt)
  | 4 => decide (y.toInt < x.toInt)
  | 5 => decide (y.toInt ≤ x.toInt)
  | 6 => decide (x.toNat < y.toNat)
  | _ => decide (y.toNat ≤ x.toNat)

/-- ICMP (R144). -/
def execIcmp (d a b : BitVec 7) (f : BitVec 3) (s : State) : Out :=
  issue (packReg 0x0C d a b 0 f) { uses := [(1, d, .pred), (2, a, .src false true), (3, b, .src false true)] }
    (fun x => writePred x d (fun l => testWidth2 x.st (condHolds f) (src1 x a l) (src2 x a b l))) s

/-- ICMPI (R144). -/
def execIcmpi (d a : BitVec 7) (cond : BitVec 3) (imm : BitVec 7) (s : State) : Out :=
  issue (packImm 0x0D d a 0 (cond ++ imm)) { uses := [(1, d, .pred), (2, a, .src false true)] }
    (fun x => writePred x d (fun l => testWidth2 x.st (condHolds cond) (src1 x a l) (imm.signExtend 64))) s

/-- SEL (R145). -/
def execSel (d a b : BitVec 7) (w : BitVec 1) (f : BitVec 3) (s : State) : Out :=
  issue (packReg 0x0F d a b w f) (info3 d a b)
    (fun x => writeLanes x d false (w == 1) (fun l =>
      if (x.c.strm x.st).pred f.toNat l then src1 x a l else src2 x a b l)) s

/-- A predicate combination (R146). -/
def predOp (fn : BitVec 3) (f : Bool → Bool → Bool) (d a b : BitVec 7) (s : State) : Out :=
  issue (packReg 0x10 d a b 0 fn) { uses := [(1, d, .pred), (2, a, .pred), (3, b, .pred)] }
    (fun x => writePred x d (fun l =>
      f ((x.c.strm x.st).pred a.toNat l) ((x.c.strm x.st).pred b.toNat l))) s

/-- PAND (R146). -/
def execPand (d a b : BitVec 7) (s : State) : Out := predOp 0 (fun p q => p && q) d a b s
/-- POR (R146). -/
def execPor (d a b : BitVec 7) (s : State) : Out := predOp 1 (fun p q => p || q) d a b s
/-- PXOR (R146). -/
def execPxor (d a b : BitVec 7) (s : State) : Out := predOp 2 (fun p q => p != q) d a b s
/-- PANDN (R146). -/
def execPandn (d a b : BitVec 7) (s : State) : Out := predOp 3 (fun p q => p && !q) d a b s

/-- PMOV (R146). -/
def execPmov (d a : BitVec 7) (s : State) : Out :=
  issue (packReg 0x10 d a 0 0 4) { uses := [(1, d, .pred), (2, a, .pred)] }
    (fun x => writePred x d (fun l => (x.c.strm x.st).pred a.toNat l)) s

/-- PNZ (R146). -/
def execPnz (d a : BitVec 7) (s : State) : Out :=
  issue (packReg 0x10 d a 0x78 0 5) { uses := [(1, d, .pred), (2, a, .src false true)] }
    (fun x => writePred x d (fun l => src1 x a l != 0)) s

/-- PTOI (R146). -/
def execPtoi (d a : BitVec 7) (w : BitVec 1) (s : State) : Out :=
  issue (packReg 0x10 d a 0 w 6) { uses := [(1, d, .dst false false true), (2, a, .pred)] }
    (fun x => writeLanes x d false (w == 1) (fun l => if (x.c.strm x.st).pred a.toNat l then 1 else 0)) s

/-- LEA (R147). -/
def execLea (d a b : BitVec 7) (w : BitVec 1) (f : BitVec 3) (s : State) : Out :=
  issue (packReg 0x11 d a b w f)
    { uses := [(1, d, .dst false true true), (2, a, .src false true), (3, b, .src false true)] }
    (fun x => writeLanes x d false (w == 1) (fun l => src1 x a l + (src2 x a b l <<< f.toNat))) s

end Sys2Proof.Machine
end

