-- ==== Sys2Proof/Machine/CrossLane.lean ====
section
/-!
DEFINITION. Majors 0x12 to 0x16: permutes, votes, integer reductions and scans, and RAKE (R82, R83, R148 to R152).
-/

namespace Sys2Proof.Machine

open Sys2Proof

/-- log2 of the rake size of the issuing stream: CSW.RAKEA or CSW.RAKEC (R82, R107). -/
def rakeLog (c : Consist) (st : Strm) : Nat :=
  match st with
  | .a => (c.csw.extractLsb' 29 3).toNat
  | .c => (c.csw.extractLsb' 26 3).toNat

/-- The rake size of the issuing stream. -/
def rakeSize (x : Ctx) : Nat := 2 ^ rakeLog x.c x.st

/-- The first lane of the rake of lane i. -/
def rakeBase (x : Ctx) (i : Nat) : Nat := i - i % rakeSize x

/-- The value of source lane j for operand A: 0 for a lane never launched or exited in the stream, else what the operand
gives for j (R148). -/
def laneSource (x : Ctx) (a : BitVec 7) (j : Nat) : DWord :=
  if x.c.lmask.getLsbD j && !(x.c.exitedIn x.st).getLsbD j && !x.c.fmask.getLsbD j then src1 x a j else 0

/-- The active lanes of lane i's rake, ascending (R150). -/
def voters (x : Ctx) (i : Nat) : List Nat :=
  (lanesOf x.act).filter (fun m => m / rakeSize x == i / rakeSize x)

/-- A permute: `pick` gives the position in the rake from the rake size, the lane's position and its amount (R149). -/
def permute (fn : BitVec 3) (pick : Nat → Nat → Nat → Nat) (d a b : BitVec 7) (w : BitVec 1) (s : State) : Out :=
  issue (packReg 0x12 d a b w fn)
    { uses := [(1, d, .dst false false true), (2, a, .src false false), (3, b, .src false true)], cross := true }
    (fun x => writeLanes x d false (w == 1) (fun i =>
      laneSource x a (rakeBase x i + pick (rakeSize x) (i % rakeSize x) (src1 x b i).toNat))) s

/-- SHFLI (R149). -/
def execShfli (d a b : BitVec 7) (w : BitVec 1) (s : State) : Out := permute 0 (fun z _ n => n % z) d a b w s
/-- SHFLU (R149). -/
def execShflu (d a b : BitVec 7) (w : BitVec 1) (s : State) : Out :=
  permute 1 (fun z q n => (q + (z - n % z)) % z) d a b w s
/-- SHFLD (R149). -/
def execShfld (d a b : BitVec 7) (w : BitVec 1) (s : State) : Out := permute 2 (fun z q n => (q + n) % z) d a b w s
/-- SHFLX (R149). -/
def execShflx (d a b : BitVec 7) (w : BitVec 1) (s : State) : Out :=
  permute 3 (fun z q n => (q ^^^ n) % z) d a b w s

/-- SWAPP (R149). -/
def execSwapp (d a : BitVec 7) (w : BitVec 1) (s : State) : Out :=
  issue (packReg 0x12 d a 0x78 w 4)
    { uses := [(1, d, .dst false false true), (2, a, .src false false)], cross := true }
    (fun x => writeLanes x d false (w == 1) (fun i => laneSource x a (i ^^^ 1))) s

/-- BCAST: the index comes from the lowest active lane of the rake (R149). -/
def execBcast (d a b : BitVec 7) (w : BitVec 1) (s : State) : Out :=
  issue (packReg 0x12 d a b w 5)
    { uses := [(1, d, .dst false false true), (2, a, .src false false), (3, b, .src false true)], cross := true }
    (fun x => writeLanes x d false (w == 1) (fun i =>
      laneSource x a (rakeBase x i + (src1 x b ((voters x i).headD i)).toNat % rakeSize x))) s

/-- The mask of the lanes of a list. -/
def maskOf (ls : List Nat) : Lanes := maskWhere (fun l => ls.contains l)

/-- VANY and VALL: a predicate from the votes of the rake (R150). -/
def vote (fn : BitVec 3) (f : List Bool → Bool) (d a : BitVec 7) (s : State) : Out :=
  issue (packReg 0x13 d a 0x78 0 fn) { uses := [(1, d, .pred), (2, a, .pred)] }
    (fun x => writePred x d (fun i => f ((voters x i).map (fun m => (x.c.strm x.st).pred a.toNat m)))) s

/-- VANY (R150). -/
def execVany (d a : BitVec 7) (s : State) : Out := vote 0 (fun l => l.any id) d a s
/-- VALL (R150). -/
def execVall (d a : BitVec 7) (s : State) : Out := vote 1 (fun l => l.all id) d a s

/-- VBAL (R150). -/
def execVbal (d a : BitVec 7) (w : BitVec 1) (s : State) : Out :=
  issue (packReg 0x13 d a 0x78 w 2) { uses := [(1, d, .dst false false true), (2, a, .pred)] }
    (fun x => writeLanes x d false (w == 1) (fun i =>
      (maskOf ((voters x i).filter (fun m => (x.c.strm x.st).pred a.toNat m))).setWidth 64)) s

/-- MATCH (R150). -/
def execMatchLanes (d a : BitVec 7) (w : BitVec 1) (s : State) : Out :=
  issue (packReg 0x13 d a 0x78 w 3) (info2 d a)
    (fun x => writeLanes x d false (w == 1) (fun i =>
      (maskOf ((voters x i).filter (fun m => src1 x a m == src1 x a i))).setWidth 64)) s

/-- A reduction over the active lanes of the rake (R151). -/
def reduce (fn : BitVec 3) (f : (n : Nat) → BitVec n → BitVec n → BitVec n) (d a : BitVec 7) (w : BitVec 1)
    (s : State) : Out :=
  issue (packReg 0x14 d a 0x78 w fn) (info2 d a)
    (fun x => writeLanes x d false (w == 1) (fun i =>
      match voters x i with
      | [] => 0
      | m :: ms => ms.foldl (fun v j => atWidth2 x.st f v (src1 x a j)) (src1 x a m))) s

/-- RDADD (R151). -/
def execRdadd (d a : BitVec 7) (w : BitVec 1) (s : State) : Out := reduce 0 (fun _ p q => p + q) d a w s
/-- RDMIN (R151). -/
def execRdmin (d a : BitVec 7) (w : BitVec 1) (s : State) : Out := reduce 1 intMin d a w s
/-- RDMAX (R151). -/
def execRdmax (d a : BitVec 7) (w : BitVec 1) (s : State) : Out := reduce 2 intMax d a w s
/-- RDAND (R151). -/
def execRdand (d a : BitVec 7) (w : BitVec 1) (s : State) : Out := reduce 3 (fun _ p q => p &&& q) d a w s
/-- RDOR (R151). -/
def execRdor (d a : BitVec 7) (w : BitVec 1) (s : State) : Out := reduce 4 (fun _ p q => p ||| q) d a w s
/-- RDXOR (R151). -/
def execRdxor (d a : BitVec 7) (w : BitVec 1) (s : State) : Out := reduce 5 (fun _ p q => p ^^^ q) d a w s

/-- SCADD: the inclusive prefix sum over the active lanes of the rake (R151). -/
def execScadd (d a : BitVec 7) (w : BitVec 1) (s : State) : Out :=
  issue (packReg 0x15 d a 0x78 w 0) (info2 d a)
    (fun x => writeLanes x d false (w == 1) (fun i =>
      ((voters x i).filter (fun m => decide (m ≤ i))).foldl
        (fun v m => atWidth2 x.st (fun _ p q => p + q) v (src1 x a m)) 0)) s

/-- The CSW with the rake size of a stream set (R83). -/
def withRake (csw : BitVec 32) (st : Strm) (n : Nat) : BitVec 32 :=
  match st with
  | .a => (csw &&& ~~~(0xE0000000#32)) ||| (BitVec.ofNat 32 n <<< 29)
  | .c => (csw &&& ~~~(0x1C000000#32)) ||| (BitVec.ofNat 32 n <<< 26)

/-- RAKE (R83): it acts even when no lane of the run is active. -/
def execRake (imm : BitVec 3) (s : State) : Out :=
  issue (packImm 0x16 0x78 0x78 0 ((0#7 : BitVec 7) ++ imm)) {}
    (fun x s => .ok (s.setConsist x.key { x.c with csw := withRake x.c.csw x.st imm.toNat })) s

end Sys2Proof.Machine
end

