-- ==== Sys2Proof/Machine/Flags.lean ====
section
/-!
DEFINITION. Floating-point numbers and flags: formats (R112, R117), exact values, the one rounding (R124 to R126), the
five flags and FPX (R128, R129).
-/

namespace Sys2Proof.Machine

open Sys2Proof

/-! ## Formats -/

/-- A floating format: exponent width, fraction width, bias, and whether it has codes for ∞ and NaN (R112, R117). -/
structure Fmt where
  ebits : Nat
  fbits : Nat
  bias : Nat
  special : Bool
  deriving DecidableEq, Repr

/-- binary16 (R112). -/
def Fmt.f16 : Fmt := { ebits := 5, fbits := 10, bias := 15, special := true }
/-- BF16 (R112). -/
def Fmt.bf16 : Fmt := { ebits := 8, fbits := 7, bias := 127, special := true }
/-- binary32 (R112). -/
def Fmt.f32 : Fmt := { ebits := 8, fbits := 23, bias := 127, special := true }
/-- binary64 (R112). -/
def Fmt.f64 : Fmt := { ebits := 11, fbits := 52, bias := 1023, special := true }
/-- F10, the immediate (R37). -/
def Fmt.f10 : Fmt := { ebits := 5, fbits := 4, bias := 15, special := true }
/-- E4 (R117). -/
def Fmt.e4 : Fmt := { ebits := 4, fbits := 3, bias := 7, special := false }
/-- E5 (R117). -/
def Fmt.e5 : Fmt := { ebits := 5, fbits := 2, bias := 15, special := false }
/-- E6A (R117). -/
def Fmt.e6a : Fmt := { ebits := 3, fbits := 2, bias := 3, special := false }
/-- E6B (R117). -/
def Fmt.e6b : Fmt := { ebits := 2, fbits := 3, bias := 1, special := false }

/-- Width of a format. -/
def Fmt.width (f : Fmt) : Nat := 1 + f.ebits + f.fbits

/-- Exponent of the smallest normal number. -/
def Fmt.emin (f : Fmt) : Int := 1 - (f.bias : Int)

/-- The magnitude bits of ∞. -/
def Fmt.infMag (f : Fmt) : Nat := (2 ^ f.ebits - 1) * 2 ^ f.fbits

/-- The magnitude bits of the largest finite number (R112, R117). -/
def Fmt.maxMag (f : Fmt) : Nat := if f.special then f.infMag - 1 else 2 ^ (f.ebits + f.fbits) - 1

/-- The bits of the canonical quiet NaN (R112). -/
def Fmt.nanBits (f : Fmt) : Nat := f.infMag + 2 ^ (f.fbits - 1)

/-- The bits of 1.0. -/
def Fmt.oneBits (f : Fmt) : Nat := f.bias * 2 ^ f.fbits

/-- Put a sign on magnitude bits. -/
def Fmt.signed (f : Fmt) (neg : Bool) (mag : Nat) : Nat := (if neg then 2 ^ (f.ebits + f.fbits) else 0) + mag

/-! ## Exact values -/

/-- An exact number: a finite one is (−1)^neg × m × 2^e. -/
inductive Num where
  | nan (signalling : Bool)
  | inf (neg : Bool)
  | fin (neg : Bool) (m : Nat) (e : Int)
  deriving DecidableEq, Repr, Inhabited

/-- Read the bits of a format; `flush` reads a subnormal as a zero of its sign (R115, R117). -/
def Fmt.read (f : Fmt) (flush : Bool) (x : Nat) : Num :=
  let neg := x / 2 ^ (f.ebits + f.fbits) % 2 == 1
  let ex := x / 2 ^ f.fbits % 2 ^ f.ebits
  let fr := x % 2 ^ f.fbits
  if f.special ∧ ex = 2 ^ f.ebits - 1 then
    if fr = 0 then .inf neg else .nan (fr < 2 ^ (f.fbits - 1))
  else if ex = 0 then
    .fin neg (if flush && f.special then 0 else fr) (f.emin - f.fbits)
  else .fin neg (2 ^ f.fbits + fr) ((ex : Int) - f.bias - f.fbits)

/-- Is it a NaN? -/
def Num.isNan : Num → Bool
  | .nan _ => true
  | _ => false

/-- Is it a signalling NaN? -/
def Num.isSignalling : Num → Bool
  | .nan q => q
  | _ => false

/-- Is it a finite zero? -/
def Num.isZero : Num → Bool
  | .fin _ m _ => m == 0
  | _ => false

/-- Its sign. -/
def Num.neg : Num → Bool
  | .nan _ => false
  | .inf n => n
  | .fin n _ _ => n

/-- The number with its sign inverted. -/
def Num.flip : Num → Num
  | .nan q => .nan q
  | .inf n => .inf (!n)
  | .fin n m e => .fin (!n) m e

/-- A finite number's signed mantissa at an exponent no greater than its own. -/
def signedAt (neg : Bool) (m : Nat) (e q : Int) : Int :=
  let v : Int := (m * 2 ^ (e - q).toNat : Nat)
  if neg then -v else v

/-- A positive real, exactly: a fraction, or the square root of one (R124, R209). -/
inductive Exact where
  | ratio (n d : Nat)
  | root (n d : Nat)
  deriving DecidableEq, Repr

/-- m × 2^e as a fraction. -/
def Exact.dyadic (m : Nat) (e : Int) : Exact :=
  if 0 ≤ e then .ratio (m * 2 ^ e.toNat) 1 else .ratio m (2 ^ (-e).toNat)

/-- Floor of the base-2 logarithm of n/d. -/
def ratioLog (n d : Nat) : Int :=
  let k : Int := (n.log2 : Int) - d.log2
  if (if 0 ≤ k then d * 2 ^ k.toNat ≤ n else d ≤ n * 2 ^ (-k).toNat) then k else k - 1

/-- Floor of the base-2 logarithm. -/
def Exact.log : Exact → Int
  | .ratio n d => ratioLog n d
  | .root n d => Int.fdiv (ratioLog n d) 2

/-- n/d ÷ 2^q as a fraction. -/
def scaleRatio (n d : Nat) (q : Int) : Nat × Nat :=
  if 0 ≤ q then (n, d * 2 ^ q.toNat) else (n * 2 ^ (-q).toNat, d)

/-- The integer square root, by bits from the top. -/
def isqrtBits : Nat → Nat → Nat → Nat
  | 0, _, r => r
  | k + 1, n, r =>
    let t := r + 2 ^ k
    isqrtBits k n (if t * t ≤ n then t else r)

/-- The integer square root. -/
def isqrt (n : Nat) : Nat := isqrtBits (n.log2 / 2 + 1) n 0

/-- How many whole units of 2^q a real holds, and how the rest stands to half a unit: 0 none, 1 below, 2 equal,
3 above. -/
def Exact.units (x : Exact) (q : Int) : Nat × Nat :=
  match x with
  | .ratio n d =>
    let r := scaleRatio n d q
    let rem := r.1 % r.2
    (r.1 / r.2, if rem = 0 then 0 else if 2 * rem < r.2 then 1 else if 2 * rem = r.2 then 2 else 3)
  | .root n d =>
    let r := scaleRatio n d (2 * q)
    let t := isqrt (r.1 / r.2)
    let h := (2 * t + 1) * (2 * t + 1) * r.2
    (t, if t * t * r.2 = r.1 then 0 else if 4 * r.1 < h then 1 else if 4 * r.1 = h then 2 else 3)

/-! ## Flags (R128) -/

/-- The five IEEE flags in the order of CSW.FPF: invalid, divide by zero, overflow, underflow, inexact. -/
abbrev Flags := BitVec 5

/-- Invalid. -/
def flagNV : Flags := 16
/-- Divide by zero. -/
def flagDZ : Flags := 8
/-- Overflow. -/
def flagOF : Flags := 4
/-- Underflow. -/
def flagUF : Flags := 2
/-- Inexact. -/
def flagNX : Flags := 1

/-- A result with its flags. -/
abbrev FRes := Nat × Flags

/-! ## Rounding (R116, R124 to R126) -/

/-- Round a count of units by a mode: 0 RN, 1 RZ, 2 RU, 3 RD. -/
def roundUnits (mode : Nat) (neg : Bool) (u : Nat × Nat) : Nat :=
  let up := match mode with
    | 0 => u.2 == 3 || (u.2 == 2 && u.1 % 2 == 1)
    | 2 => u.2 != 0 && !neg
    | 3 => u.2 != 0 && neg
    | _ => false
  if up then u.1 + 1 else u.1

/-- What an instruction asks of a rounding: mode, flushing, and saturation 0 none, 1 `sat`, 2 `sat01` (R46, R115). -/
structure RoundCtl where
  mode : Nat
  flush : Bool
  sat : Nat
  deriving DecidableEq, Repr

/-- Clamp to [+0, 1.0] (R46). -/
def clamp01 (f : Fmt) (neg : Bool) (mag : Nat) : Nat := if neg then 0 else min mag f.oneBits

/-- A finite nonzero result, rounded once to a format: overflow (R125), tininess after rounding (R116), saturation
(R46), then flushing (R115). -/
def roundReal (f : Fmt) (k : RoundCtl) (neg : Bool) (x : Exact) : FRes :=
  let e := x.log
  let q := max e f.emin - f.fbits
  let u := x.units q
  let r := roundUnits k.mode neg u
  let inexact := u.2 != 0
  let full := (x.units (e - f.fbits))
  let tiny := decide (e < f.emin) && !(e == f.emin - 1 && decide (2 ^ (f.fbits + 1) ≤ roundUnits k.mode neg full))
  let mag : Nat := if r < 2 ^ f.fbits then r
    else ((q + f.fbits + f.bias).toNat - 1) * 2 ^ f.fbits + r
  if f.maxMag < mag then
    let fl := flagOF ||| flagNX
    if !f.special || k.sat == 1 then (f.signed neg f.maxMag, fl)
    else if k.sat = 2 then (clamp01 f neg f.infMag, fl)
    else if k.mode == 0 || (k.mode == 2 && !neg) || (k.mode == 3 && neg) then (f.signed neg f.infMag, fl)
    else (f.signed neg f.maxMag, fl)
  else
    let fl := (if inexact then flagNX else 0) ||| (if tiny && inexact then flagUF else 0)
    let sub := decide (mag < 2 ^ f.fbits) && decide (0 < mag)
    if k.sat = 2 then
      let c := clamp01 f neg mag
      if k.flush && f.special && decide (0 < c) && decide (c < 2 ^ f.fbits) then (0, fl ||| flagUF ||| flagNX)
      else (c, fl)
    else if k.flush && f.special && sub then (f.signed neg 0, fl ||| flagUF ||| flagNX)
    else (f.signed neg mag, fl)

/-- The result of an operation in a format, from its exact value (R114, R124). -/
def roundNum (f : Fmt) (k : RoundCtl) (x : Num) : FRes :=
  match x with
  | .nan _ => (if k.sat = 2 then 0 else f.nanBits, 0)
  | .inf neg =>
    (if k.sat = 2 then clamp01 f neg f.infMag else if k.sat = 1 then f.signed neg f.maxMag else f.signed neg f.infMag, 0)
  | .fin neg m e =>
    if m = 0 then (if k.sat = 2 then 0 else f.signed neg 0, 0) else roundReal f k neg (Exact.dyadic m e)

/-- Invalid when an operand is a signalling NaN (R114). -/
def signalling (l : List Num) : Flags := if l.any Num.isSignalling then flagNV else 0

/-! ## Exact arithmetic (R157, R159) -/

/-- The sum of two numbers and its invalid flag; `down` says that the mode is RD (R157). -/
def addNum (down : Bool) (x y : Num) : Num × Flags :=
  match x, y with
  | .nan _, _ => (.nan false, signalling [x, y])
  | _, .nan _ => (.nan false, signalling [x, y])
  | .inf n, .inf m => if n = m then (.inf n, 0) else (.nan false, flagNV)
  | .inf n, _ => (.inf n, 0)
  | _, .inf m => (.inf m, 0)
  | .fin n a e, .fin m b g =>
    let q := min e g
    let v := signedAt n a e q + signedAt m b g q
    if v = 0 then (.fin (if a = 0 ∧ b = 0 ∧ n = m then n else down) 0 0, 0)
    else (.fin (decide (v < 0)) v.natAbs q, 0)

/-- The product of two numbers and its invalid flag. -/
def mulNum (x y : Num) : Num × Flags :=
  match x, y with
  | .nan _, _ => (.nan false, signalling [x, y])
  | _, .nan _ => (.nan false, signalling [x, y])
  | .fin n a e, .fin m b g => (.fin (n != m) (a * b) (e + g), 0)
  | _, _ => if x.isZero || y.isZero then (.nan false, flagNV) else (.inf (x.neg != y.neg), 0)

/-- x × y + c: the product is not rounded (R159). -/
def fmaNum (down : Bool) (x y c : Num) : Num × Flags :=
  let p := mulNum x y
  let r := addNum down p.1 c
  (r.1, p.2 ||| r.2)

/-- x ÷ y, rounded (R157). -/
def divRound (f : Fmt) (k : RoundCtl) (x y : Num) : FRes :=
  match x, y with
  | .nan _, _ => ((roundNum f k (.nan false)).1, signalling [x, y])
  | _, .nan _ => ((roundNum f k (.nan false)).1, signalling [x, y])
  | .inf _, .inf _ => ((roundNum f k (.nan false)).1, flagNV)
  | .inf n, .fin m _ _ => roundNum f k (.inf (n != m))
  | .fin n _ _, .inf m => roundNum f k (.fin (n != m) 0 0)
  | .fin n a e, .fin m b g =>
    if b = 0 then
      if a = 0 then ((roundNum f k (.nan false)).1, flagNV)
      else ((roundNum f k (.inf (n != m))).1, flagDZ)
    else if a = 0 then roundNum f k (.fin (n != m) 0 0)
    else
      let h := e - g
      roundReal f k (n != m) (if 0 ≤ h then .ratio (a * 2 ^ h.toNat) b else .ratio a (b * 2 ^ (-h).toNat))

/-- √x, rounded (R166). -/
def sqrtRound (f : Fmt) (k : RoundCtl) (x : Num) : FRes :=
  match x with
  | .nan q => (f.nanBits, if q then flagNV else 0)
  | .inf n => if n then (f.nanBits, flagNV) else roundNum f k x
  | .fin n m e =>
    if m = 0 then roundNum f k x
    else if n then (f.nanBits, flagNV)
    else roundReal f k false (if 0 ≤ e then .root (m * 2 ^ e.toNat) 1 else .root m (2 ^ (-e).toNat))

/-- Round a number's value with its operation's flags. -/
def finish (f : Fmt) (k : RoundCtl) (r : Num × Flags) : FRes :=
  let t := roundNum f k r.1
  (t.1, t.2 ||| r.2)

/-- Order of two numbers that are no NaN: −1, 0 or 1. -/
def cmpNum (x y : Num) : Int :=
  match x, y with
  | .inf n, .inf m => if n = m then 0 else if n then -1 else 1
  | .inf n, _ => if n then -1 else 1
  | _, .inf m => if m then 1 else -1
  | .fin n a e, .fin m b g =>
    let q := min e g
    let u := signedAt n a e q
    let v := signedAt m b g q
    if u < v then -1 else if v < u then 1 else 0
  | _, _ => 0

/-! ## binary32 sums without flags (R188, R190) -/

/-- RN with subnormals kept and nothing saturated. -/
def plainRN : RoundCtl := { mode := 0, flush := false, sat := 0 }

/-- A sum in a format under AFADD's rules (R188). -/
def plainAdd (f : Fmt) (x y : Nat) : Nat := (finish f plainRN (addNum false (f.read false x) (f.read false y))).1

/-- REDBFADD: two BF16 sums in one granule (R190). -/
def plainAddBf2 (x y : Nat) : Nat :=
  plainAdd .bf16 (x % 65536) (y % 65536) + 65536 * plainAdd .bf16 (x / 65536) (y / 65536)

/-! ## Flags of an instruction (R128, R129) -/

/-- TRAPV of FPX (R129). -/
def fpxValue (lanes : Lanes) (all first : Flags) : DWord :=
  lanes ++ (0#19 : BitVec 19) ++ all ++ (0#3 : BitVec 3) ++ first

/-- The flags that the active lanes raise together. -/
def allFlags (x : Ctx) (fl : Nat → Flags) : Flags := (lanesOf x.act).foldl (fun a l => a ||| fl l) 0

/-- CSW with flags ORed into FPF. -/
def withFlags (csw : BitVec 32) (fl : Flags) : BitVec 32 := csw ||| (fl.setWidth 32 <<< 16)

/-- Retire the flags of an instruction and go on with its effect, or take FPX (R128, R129). -/
def raiseFlags (x : Ctx) (fl : Nat → Flags) (go : Ctx → State → Eff) (s : State) : Eff :=
  let all := allFlags x fl
  let en : Flags := x.c.csw.extractLsb' 11 5
  match (lanesOf x.act).filter (fun l => fl l &&& en != 0) with
  | [] => go { x with c := { x.c with csw := withFlags x.c.csw all } } s
  | l :: ls => .trap .fpx (fpxValue (maskWhere (fun j => (l :: ls).contains j)) all (fl l))

/-! ## The modes in force (R45, R46, R115, R124) -/

/-- The IEEE rounding mode: a pending HINT.ROUND's, else CSW.RM. -/
def ieeeMode (x : Ctx) : Nat :=
  match x.hints.round with
  | some m => m.toNat
  | none => (x.c.csw.extractLsb' 0 2).toNat

/-- Is flushing in force (R115)? -/
def flushOn (x : Ctx) : Bool :=
  match ((x.hints.mod.getD 0).extractLsb' 3 2).toNat with
  | 1 => true
  | 2 => false
  | _ => x.c.csw.getLsbD 5

/-- The saturation of a pending HINT.MOD (R46). -/
def satCode (x : Ctx) : Nat := ((x.hints.mod.getD 0).extractLsb' 5 2).toNat

/-- `nega`, `negb`, `negc` of a pending HINT.MOD (R46). -/
def negA (x : Ctx) : Bool := (x.hints.mod.getD 0).getLsbD 2
/-- See `negA`. -/
def negB (x : Ctx) : Bool := (x.hints.mod.getD 0).getLsbD 1
/-- See `negA`. -/
def negC (x : Ctx) : Bool := (x.hints.mod.getD 0).getLsbD 0

/-- What the instruction in this context asks of its roundings. -/
def roundCtl (x : Ctx) : RoundCtl := { mode := ieeeMode x, flush := flushOn x, sat := satCode x }

end Sys2Proof.Machine
end

