-- ==== Sys2Proof/Machine/Slash.lean ====
section
/-!
DEFINITION. Floating-slash rationals: codes (R203 to R206), exact operations with their special values (R212), the one
rounding (R209 to R211), and the RATZ and RATX rules (R213, R214).
-/

namespace Sys2Proof.Machine

open Sys2Proof

/-! ## Values and codes -/

/-- A rational value: v/d in lowest terms, ±∞, or indeterminate (R205). -/
inductive RNum where
  | fin (v : Int) (d : Nat)
  | inf (neg : Bool)
  | ind
  deriving DecidableEq, Repr, Inhabited

/-- A finite value, reduced. -/
def RNum.mk (v : Int) (d : Nat) : RNum := .fin (v / (Nat.gcd v.natAbs d : Int)) (d / Nat.gcd v.natAbs d)

/-- Bits of a number; 0 for 0 (R204). -/
def bitLen (n : Nat) : Nat := if n = 0 then 0 else n.log2 + 1

/-- Payload width: 26 for RQ32, 57 for RQ64 (R203, R206). -/
def slashBits (wide : Bool) : Nat := if wide then 57 else 26

/-- Is n/d representable (R204, R206)? -/
def fitsSlash (p n d : Nat) : Bool := decide (max 1 (bitLen n) + bitLen d ≤ p)

/-- Read a code: its value, and whether the code is reserved (R205). -/
def readSlash (wide : Bool) (x : Nat) : RNum × Bool :=
  let p := slashBits wide
  let neg := x / (if wide then 2 ^ 63 else 2 ^ 31) % 2 == 1
  let k := x / 2 ^ p % (if wide then 64 else 32)
  let pay := x % 2 ^ p
  if k = 0 then
    if pay = 0 then (.inf neg, false) else if pay = 1 then (.ind, false) else (.ind, true)
  else if p ≤ k then (.ind, true)
  else
    let n := pay / 2 ^ (p - k)
    let d := pay % 2 ^ (p - k)
    if d = 0 then (if n = 0 then .ind else .inf neg, false)
    else (RNum.mk (if neg then -(n : Int) else n) d, false)

/-- The canonical code of a representable value (R204, R205). -/
def writeSlash (wide : Bool) (x : RNum) : Nat :=
  let p := slashBits wide
  let sign := fun (neg : Bool) => if neg then (if wide then 2 ^ 63 else 2 ^ 31) else 0
  match x with
  | .inf neg => sign neg
  | .ind => 1
  | .fin v d =>
    let k := max 1 (bitLen v.natAbs)
    sign (decide (v < 0)) + k * 2 ^ p + v.natAbs * 2 ^ (p - k) + d

/-! ## Rounding (R210, R211) -/

/-- Does p/q lie below the positive real x? 1/0 stands for ∞. -/
def Exact.above (x : Exact) (p q : Nat) : Bool :=
  match x with
  | .ratio n d => decide (p * d < n * q)
  | .root n d => decide (p * p * d < n * (q * q))

/-- The greatest k below 2^bits that satisfies a downward closed test, 0 if none does. -/
def greatest (ok : Nat → Bool) : Nat → Nat → Nat
  | 0, k => k
  | b + 1, k => greatest ok b (if ok (k + 2 ^ b) then k + 2 ^ b else k)

/-- The neighbours of x among the representable fractions: runs of mediants from one side and from the other, until the
mediant is no longer representable (R211). -/
def neighbours (bits : Nat) (x : Exact) : Nat → Nat × Nat → Nat × Nat → (Nat × Nat) × (Nat × Nat)
  | 0, lo, hi => (lo, hi)
  | fuel + 1, lo, hi =>
    let k := greatest (fun k => let p := lo.1 + k * hi.1
                                let q := lo.2 + k * hi.2
                                fitsSlash bits p q && x.above p q) 58 0
    let lo := (lo.1 + k * hi.1, lo.2 + k * hi.2)
    let j := greatest (fun j => let p := hi.1 + j * lo.1
                                let q := hi.2 + j * lo.2
                                fitsSlash bits p q && !x.above p q) 58 0
    let hi := (hi.1 + j * lo.1, hi.2 + j * lo.2)
    if k = 0 ∧ j = 0 then (lo, hi) else neighbours bits x fuel lo hi

/-- A perfect square's root. -/
def squareRoot (n : Nat) : Option Nat := if isqrt n * isqrt n = n then some (isqrt n) else none

/-- The root of a reduced fraction is itself a fraction when both parts are squares. -/
def Exact.settle (x : Exact) : Exact :=
  match x with
  | .ratio n d => .ratio (n / Nat.gcd n d) (d / Nat.gcd n d)
  | .root n d =>
    let g := Nat.gcd n d
    match squareRoot (n / g), squareRoot (d / g) with
    | some a, some b => .ratio a b
    | _, _ => .root (n / g) (d / g)

/-- Does a choice between lo and hi go to hi: x beyond p/q, or at it and the tie rule of R211 prefers hi? -/
def pastPoint (x : Exact) (p q : Nat) (lo hi : Nat × Nat) : Bool :=
  x.above p q ||
    (match x with
     | .ratio n d => p * d == n * q && hi.2 != 0 && decide (hi.2 < lo.2)
     | .root _ _ => false)

/-- RoundQ (R210): the code value for a nonzero result of a sign. -/
def roundSlash (wide : Bool) (mode : Nat) (neg : Bool) (x : Exact) : RNum :=
  let bits := slashBits wide
  let x := x.settle
  let give := fun (f : Nat × Nat) => if f.2 = 0 then RNum.inf neg else RNum.fin (if neg then -(f.1 : Int) else f.1) f.2
  let exactly := match x with
    | .ratio n d => if fitsSlash bits n d then some (n, d) else none
    | .root _ _ => none
  match exactly with
  | some f => give f
  | none =>
    let nb := neighbours bits x 200 (0, 1) (1, 0)
    let lo := nb.1
    let hi := nb.2
    let up := match mode with
      | 0 => hi.2 != 0 && pastPoint x (lo.1 * hi.2 + hi.1 * lo.2) (2 * lo.2 * hi.2) lo hi
      | 1 => false
      | 2 => !neg
      | 3 => neg
      | _ => pastPoint x (lo.1 + hi.1) (lo.2 + hi.2) lo hi
    give (if up then hi else lo)

/-- A result, rounded by R209. -/
def finishSlash (wide : Bool) (mode : Nat) (x : RNum) : RNum :=
  match x with
  | .fin v d => if v = 0 then .fin 0 1 else roundSlash wide mode (decide (v < 0)) (.ratio v.natAbs d)
  | r => r

/-! ## Exact operations (R212) -/

/-- The sign of a value; a zero is positive. -/
def RNum.neg : RNum → Bool
  | .fin v _ => decide (v < 0)
  | .inf n => n
  | .ind => false

/-- The value with its sign inverted. -/
def RNum.flip : RNum → RNum
  | .fin v d => .fin (-v) d
  | .inf n => .inf (!n)
  | .ind => .ind

/-- x + y. -/
def addSlash (x y : RNum) : RNum :=
  match x, y with
  | .ind, _ | _, .ind => .ind
  | .inf n, .inf m => if n = m then .inf n else .ind
  | .inf n, .fin _ _ => .inf n
  | .fin _ _, .inf m => .inf m
  | .fin a b, .fin c d => RNum.mk (a * d + c * b) (b * d)

/-- x × y. -/
def mulSlash (x y : RNum) : RNum :=
  match x, y with
  | .ind, _ | _, .ind => .ind
  | .fin a b, .fin c d => RNum.mk (a * c) (b * d)
  | .fin a _, .inf m => if a = 0 then .ind else .inf (decide (a < 0) != m)
  | .inf n, .fin c _ => if c = 0 then .ind else .inf (n != decide (c < 0))
  | .inf n, .inf m => .inf (n != m)

/-- x ÷ y. -/
def divSlash (x y : RNum) : RNum :=
  match x, y with
  | .ind, _ | _, .ind => .ind
  | .inf _, .inf _ => .ind
  | .inf n, .fin c _ => .inf (n != decide (c < 0))
  | .fin _ _, .inf _ => .fin 0 1
  | .fin a b, .fin c d =>
    if c = 0 then (if a = 0 then .ind else .inf (decide (a < 0)))
    else RNum.mk (if c < 0 then -(a * d) else a * d) (b * c.natAbs)

/-- √x, rounded. -/
def sqrtSlash (wide : Bool) (mode : Nat) (x : RNum) : RNum :=
  match x with
  | .ind => .ind
  | .inf n => if n then .ind else .inf false
  | .fin v d => if v = 0 then .fin 0 1 else if v < 0 then .ind else roundSlash wide mode false (.root v.natAbs d)

/-- 1/√x, rounded. -/
def rsqSlash (mode : Nat) (x : RNum) : RNum :=
  match x with
  | .ind => .ind
  | .inf n => if n then .ind else .fin 0 1
  | .fin v d => if v = 0 then .inf false else if v < 0 then .ind else roundSlash false mode false (.root d v.natAbs)

/-- 1/x. -/
def rcpSlash (x : RNum) : RNum :=
  match x with
  | .ind => .ind
  | .inf _ => .fin 0 1
  | .fin v d => if v = 0 then .inf false else .fin (if v < 0 then -(d : Int) else d) v.natAbs

/-- Order of two values that are not indeterminate. -/
def cmpSlash (x y : RNum) : Int :=
  match x, y with
  | .inf n, .inf m => if n = m then 0 else if n then -1 else 1
  | .inf n, _ => if n then -1 else 1
  | _, .inf m => if m then 1 else -1
  | .fin a b, .fin c d => if a * d < c * b then -1 else if c * b < a * d then 1 else 0
  | _, _ => 0

/-- The integer that a rounding form gives: 0 nearest even, 1 toward zero, 2 upward, 3 downward (R219). -/
def roundInt (mode : Nat) (v : Int) (d : Nat) : Int :=
  let fl := Int.fdiv v d
  let rem := v - fl * d
  if rem = 0 then fl else
  match mode with
  | 0 => if 2 * rem < d then fl else if (d : Int) < 2 * rem then fl + 1 else if fl % 2 = 0 then fl else fl + 1
  | 1 => if v < 0 then fl + 1 else fl
  | 2 => fl + 1
  | _ => fl

/-- A finite number as a rational. -/
def numSlash (x : Num) : RNum :=
  match x with
  | .nan _ => .ind
  | .inf n => .inf n
  | .fin n m e =>
    let v : Int := if n then -(m : Int) else m
    if 0 ≤ e then RNum.mk (v * 2 ^ e.toNat) 1 else RNum.mk v (2 ^ (-e).toNat)

/-! ## Retiring a rational instruction (R213, R214, R221) -/

/-- The rational rounding mode in force: a pending HINT.ROUND's, else CSW.RRM (R209). -/
def slashMode (x : Ctx) : Nat :=
  match x.hints.round with
  | some m => m.toNat
  | none => (x.c.csw.extractLsb' 7 3).toNat

/-- Is a result of the zero-denominator class? -/
def RNum.noDenominator : RNum → Bool
  | .fin _ _ => false
  | _ => true

/-- TRAPV of RATZ (R213). -/
def ratzValue (lanes : Lanes) (first : RNum) : DWord :=
  let neg := first == .inf true
  let ind := first == .ind
  (0#30 : BitVec 30) ++ BitVec.ofBool neg ++ BitVec.ofBool ind ++ lanes

/-- The context after the reserved codes that active lanes read (R214). -/
def readReserved (x : Ctx) (reserved : Nat → Bool) : Ctx :=
  if (lanesOf x.act).any reserved then { x with c := { x.c with csw := x.c.csw ||| 0x400000#32 } } else x

/-- Complete a rational instruction: RATZ when it is enabled and a lane's result has no denominator, else RATX, and the
results go on their way (R213, R214, R221). -/
def retireSlash (x : Ctx) (d : BitVec 7) (wide nw : Bool) (result : Nat → RNum) (reserved : Nat → Bool) (s : State) :
    Eff :=
  match (lanesOf x.act).filter (fun l => x.c.csw.getLsbD 10 && (result l).noDenominator) with
  | l :: ls => .trap .ratz (ratzValue (maskWhere (fun j => (l :: ls).contains j)) (result l))
  | [] =>
    .ok (launchResult .variable (readReserved x reserved) d wide nw
      (fun l => BitVec.ofNat 64 (writeSlash wide (result l))) s)

/-- k in a 64-bit position of a rational operation: RQ32, widened exactly; a reserved code stays one (R39, R206). -/
def kSlash (x : Ctx) : DWord :=
  let r := readSlash false (constOf x).toNat
  if r.2 then 2 else BitVec.ofNat 64 (writeSlash true r.1)

end Sys2Proof.Machine
end

