-- ==== Sys2Proof/Machine/FloatAlu.lean ====
section
/-!
DEFINITION. Majors 0x18 to 0x24 with their rational reading, and the floating cross-lane forms RDFADD, RDFMAX and SCFADD
(R130, R151, R153 to R166, R216 to R219).
-/

namespace Sys2Proof.Machine

open Sys2Proof

/-! ## Reading operands -/

/-- The format of a binary32 or binary64 form. -/
def fmtOf (wide : Bool) : Fmt := if wide then .f64 else .f32

/-- A binary32 value as binary64 bits, exactly; a NaN keeps its fraction (R39). -/
def widen32 (x : Nat) : Nat :=
  match Fmt.f32.read false x with
  | .nan _ => Fmt.f64.signed (x / 2 ^ 31 % 2 == 1) (Fmt.f64.infMag + x % 2 ^ 23 * 2 ^ 29)
  | n => (roundNum .f64 plainRN n).1

/-- k in a 64-bit position of a floating or rational operation (R39). -/
def kWide (x : Ctx) : DWord := if x.c.rat then kSlash x else BitVec.ofNat 64 (widen32 (constOf x).toNat)

/-- The bits of a floating source of a lane, its sign inverted by a negate bit (R46, R154, R220). -/
def fsrc (x : Ctx) (wide : Bool) (before : List (BitVec 7 × Bool)) (code : BitVec 7) (neg : Bool) (lane : Nat) : Nat :=
  let v := (opVal x code wide (offsetBefore x.st before code) (kWide x) lane).toNat
  if neg then Nat.xor v (if wide then 2 ^ 63 else 2 ^ 31) else v

/-- Operand A's bits. -/
def fsrcA (x : Ctx) (wide : Bool) (a : BitVec 7) (lane : Nat) : Nat := fsrc x wide [] a (negA x) lane
/-- Operand B's bits, after A. -/
def fsrcB (x : Ctx) (wide : Bool) (a b : BitVec 7) (lane : Nat) : Nat := fsrc x wide [(a, wide)] b (negB x) lane
/-- The addend's bits, after A and B (R31, R34). -/
def fsrcC (x : Ctx) (wide : Bool) (a b e : BitVec 7) (lane : Nat) : Nat :=
  fsrc x wide [(a, wide), (b, wide)] e (negC x) lane

/-! ## The two readings of an arithmetic form -/

/-- Retire an IEEE result of the stream's 32 bits or a pair: flags, FPX, then the write (R128, R129, R156). -/
def retireFloat (x : Ctx) (d : BitVec 7) (wide late nw : Bool) (r : Nat → FRes) (s : State) : Eff :=
  raiseFlags x (fun l => (r l).2) (fun x s =>
    if late then .ok (launchResult .variable x d wide nw (fun l => BitVec.ofNat 64 (r l).1) s)
    else writeLanes x d wide nw (fun l => BitVec.ofNat 64 (r l).1) s) s

/-- Operand fields of a two-source form. -/
def infoF3 (wide : Bool) (d a b : BitVec 7) : OpInfo :=
  { uses := [(1, d, .dst wide false true), (2, a, .src wide true), (3, b, .src wide true)] }

/-- A two-source form: an IEEE operation, or with CSW.RAT = 1 a rational one (R155, R157, R216). -/
def farith2 (maj : BitVec 7) (fn : BitVec 3) (wide late : Bool) (f : Fmt → RoundCtl → Num → Num → FRes)
    (q : Bool → Nat → RNum → RNum → RNum) (d a b : BitVec 7) (w : BitVec 1) (s : State) : Out :=
  issue (packReg maj d a b w fn) (infoF3 wide d a b)
    (fun x s =>
      let va := fsrcA x wide a
      let vb := fsrcB x wide a b
      if x.c.rat then
        retireSlash x d wide (w == 1)
          (fun l => q wide (slashMode x) (readSlash wide (va l)).1 (readSlash wide (vb l)).1)
          (fun l => (readSlash wide (va l)).2 || (readSlash wide (vb l)).2) s
      else
        let k := roundCtl x
        let m := fmtOf wide
        retireFloat x d wide late (w == 1) (fun l => f m k (m.read k.flush (va l)) (m.read k.flush (vb l))) s) s

/-- A fused form (R159, R216); `sub` subtracts the addend. -/
def ffused (maj : BitVec 7) (wide sub : Bool) (d a b : BitVec 7) (c : BitVec 3) (w : BitVec 1) (s : State) : Out :=
  issue (packAcc maj d a b c w) (infoAcc wide d a b c)
    (fun x s =>
      let va := fsrcA x wide a
      let vb := fsrcB x wide a b
      let vc := fsrcC x wide a b (addendCode d c)
      if x.c.rat then
        let rd := fun v => (readSlash wide v).1
        retireSlash x d wide (w == 1)
          (fun l => finishSlash wide (slashMode x)
            (addSlash (mulSlash (rd (va l)) (rd (vb l))) (if sub then (rd (vc l)).flip else rd (vc l))))
          (fun l => (readSlash wide (va l)).2 || (readSlash wide (vb l)).2 || (readSlash wide (vc l)).2) s
      else
        let k := roundCtl x
        let m := fmtOf wide
        retireFloat x d wide false (w == 1) (fun l =>
          let z := m.read k.flush (vc l)
          finish m k (fmaNum (k.mode == 3) (m.read k.flush (va l)) (m.read k.flush (vb l)) (if sub then z.flip else z))) s)
    s

/-- x + y. -/
def ieeeAdd (m : Fmt) (k : RoundCtl) (x y : Num) : FRes := finish m k (addNum (k.mode == 3) x y)
/-- x − y. -/
def ieeeSub (m : Fmt) (k : RoundCtl) (x y : Num) : FRes := finish m k (addNum (k.mode == 3) x y.flip)
/-- x × y. -/
def ieeeMul (m : Fmt) (k : RoundCtl) (x y : Num) : FRes := finish m k (mulNum x y)

/-- The rational sum, rounded. -/
def slashAdd (wide : Bool) (mode : Nat) (x y : RNum) : RNum := finishSlash wide mode (addSlash x y)
/-- The rational difference, rounded. -/
def slashSub (wide : Bool) (mode : Nat) (x y : RNum) : RNum := finishSlash wide mode (addSlash x y.flip)
/-- The rational product, rounded. -/
def slashMul (wide : Bool) (mode : Nat) (x y : RNum) : RNum := finishSlash wide mode (mulSlash x y)
/-- The rational quotient, rounded. -/
def slashDiv (wide : Bool) (mode : Nat) (x y : RNum) : RNum := finishSlash wide mode (divSlash x y)

/-! ## Major 0x18 (R157, R158, R217, R218) -/

/-- FADD (R157). -/
def execFadd (d a b : BitVec 7) (w : BitVec 1) (s : State) : Out := farith2 0x18 0 false false ieeeAdd slashAdd d a b w s
/-- FSUB (R157). -/
def execFsub (d a b : BitVec 7) (w : BitVec 1) (s : State) : Out := farith2 0x18 1 false false ieeeSub slashSub d a b w s
/-- FMUL (R157). -/
def execFmul (d a b : BitVec 7) (w : BitVec 1) (s : State) : Out := farith2 0x18 2 false false ieeeMul slashMul d a b w s
/-- FDIV (R157). -/
def execFdiv (d a b : BitVec 7) (w : BitVec 1) (s : State) : Out := farith2 0x18 3 false true divRound slashDiv d a b w s

/-- The bits of a number that was read from bits of a format: a flushed subnormal is a zero of its sign (R158). -/
def keptBits (m : Fmt) (n : Num) (bits : Nat) : Nat :=
  match n with
  | .fin neg 0 _ => m.signed neg 0
  | _ => bits

/-- FMIN and FMAX on bits (R158): `greater` chooses the greater. -/
def pickBits (m : Fmt) (flush greater : Bool) (x y : Nat) : FRes :=
  let p := m.read flush x
  let q := m.read flush y
  let fl := signalling [p, q]
  match p.isNan, q.isNan with
  | true, true => (m.nanBits, fl)
  | true, false => (keptBits m q y, fl)
  | false, true => (keptBits m p x, fl)
  | false, false =>
    let c := cmpNum p q
    let first := if c = 0 then (if greater then !p.neg || q.neg else p.neg || !q.neg) else (decide (c < 0) != greater)
    (if first then keptBits m p x else keptBits m q y, fl)

/-- FMIN and FMAX by value (R217). -/
def pickSlash (greater : Bool) (x y : RNum) : RNum :=
  if x == .ind then y else if y == .ind then x
  else if decide (cmpSlash x y ≤ 0) != greater then x else y

/-- A form that chooses one of two binary32 values (R158, R217). -/
def fpick (fn : BitVec 3) (greater : Bool) (d a b : BitVec 7) (w : BitVec 1) (s : State) : Out :=
  issue (packReg 0x18 d a b w fn) (infoF3 false d a b)
    (fun x s =>
      let va := fsrcA x false a
      let vb := fsrcB x false a b
      if x.c.rat then
        retireSlash x d false (w == 1) (fun l => pickSlash greater (readSlash false (va l)).1 (readSlash false (vb l)).1)
          (fun l => (readSlash false (va l)).2 || (readSlash false (vb l)).2) s
      else retireFloat x d false false (w == 1) (fun l => pickBits .f32 (flushOn x) greater (va l) (vb l)) s) s

/-- FMIN (R158). -/
def execFmin (d a b : BitVec 7) (w : BitVec 1) (s : State) : Out := fpick 4 false d a b w s
/-- FMAX (R158). -/
def execFmax (d a b : BitVec 7) (w : BitVec 1) (s : State) : Out := fpick 5 true d a b w s

/-- Write bits that a move of binary32 or RQ32 codes gives: at once, or as a rational instruction does (R154, R218,
R221). -/
def writeMoved (x : Ctx) (d : BitVec 7) (nw : Bool) (f : Nat → Nat) (s : State) : Eff :=
  if x.c.rat then .ok (launchResult .variable x d false nw (fun l => BitVec.ofNat 64 (f l)) s)
  else writeLanes x d false nw (fun l => BitVec.ofNat 64 (f l)) s

/-- FCPSGN: bits [30:0] of x with bit 31 of y (R157). -/
def execFcpsgn (d a b : BitVec 7) (w : BitVec 1) (s : State) : Out :=
  issue (packReg 0x18 d a b w 6) (infoF3 false d a b)
    (fun x => writeMoved x d (w == 1) (fun l =>
      fsrcA x false a l % 2 ^ 31 + fsrcB x false a b l / 2 ^ 31 * 2 ^ 31)) s

/-! ## Majors 0x19, 0x1A, 0x1C -/

/-- FFMA (R159). -/
def execFfma (d a b : BitVec 7) (c : BitVec 3) (w : BitVec 1) (s : State) : Out := ffused 0x19 false false d a b c w s
/-- FFMS (R159). -/
def execFfms (d a b : BitVec 7) (c : BitVec 3) (w : BitVec 1) (s : State) : Out := ffused 0x1A false true d a b c w s

/-- The immediate of FADDI as a number: F10, or the pending constant as binary32 (R37, R39). -/
def faddiImm (x : Ctx) (flush : Bool) (imm : BitVec 10) : Num :=
  match x.hints.const with
  | some p => Fmt.f32.read flush (p ++ imm).toNat
  | none =>
    match Fmt.f10.read false imm.toNat with
    | .nan _ => .nan false
    | n => n

/-- FADDI (R160, R38). -/
def execFaddi (d a : BitVec 7) (w : BitVec 1) (imm : BitVec 10) (s : State) : Out :=
  issue (packImm 0x1C d a w imm) { uses := [(1, d, .dst false false true), (2, a, .src false true)] }
    (fun x s =>
      let va := fsrcA x false a
      if x.c.rat then
        let f := finishSlash false (slashMode x) (numSlash (faddiImm x false imm))
        retireSlash x d false (w == 1) (fun l => slashAdd false (slashMode x) (readSlash false (va l)).1 f)
          (fun l => (readSlash false (va l)).2) s
      else
        let k := roundCtl x
        let f := faddiImm x k.flush imm
        retireFloat x d false false (w == 1) (fun l => ieeeAdd .f32 k (Fmt.f32.read k.flush (va l)) f) s) s

/-! ## Majors 0x1B and 0x24: comparisons (R161, R217) -/

/-- A condition of R161 from an order, or none for an unordered pair. -/
def fcond (f : BitVec 3) (c : Option Int) : Bool :=
  match f.toNat, c with
  | 0, some v => v == 0
  | 1, some v => v != 0
  | 2, some v => decide (v < 0)
  | 3, some v => decide (v ≤ 0)
  | 4, some v => decide (0 < v)
  | 5, some v => decide (0 ≤ v)
  | 6, some _ => true
  | 1, none => true
  | 7, none => true
  | _, _ => false

/-- The order of two numbers, none when one is a NaN. -/
def orderNum (x y : Num) : Option Int := if x.isNan || y.isNan then none else some (cmpNum x y)

/-- The order of two rationals, none when one is indeterminate. -/
def orderSlash (x y : RNum) : Option Int := if x == .ind || y == .ind then none else some (cmpSlash x y)

/-- Invalid of a comparison (R161): a signalling NaN always, a quiet one under LT, LE, GT, GE. -/
def fcmpFlags (f : BitVec 3) (x y : Num) : Flags :=
  if x.isSignalling || y.isSignalling || ((x.isNan || y.isNan) && decide (2 ≤ f.toNat) && decide (f.toNat ≤ 5))
  then flagNV else 0

/-- FCMP and DCMP. -/
def fcompare (maj : BitVec 7) (wide : Bool) (d a b : BitVec 7) (f : BitVec 3) (s : State) : Out :=
  issue (packReg maj d a b 0 f) { uses := [(1, d, .pred), (2, a, .src wide true), (3, b, .src wide true)] }
    (fun x s =>
      let va := fsrcA x wide a
      let vb := fsrcB x wide a b
      if x.c.rat then
        writePred (readReserved x (fun l => (readSlash wide (va l)).2 || (readSlash wide (vb l)).2)) d
          (fun l => fcond f (orderSlash (readSlash wide (va l)).1 (readSlash wide (vb l)).1)) s
      else
        let rd := fun v => (fmtOf wide).read (flushOn x) v
        raiseFlags x (fun l => fcmpFlags f (rd (va l)) (rd (vb l)))
          (fun x s => writePred x d (fun l => fcond f (orderNum (rd (va l)) (rd (vb l)))) s) s) s

/-- FCMP (R161). -/
def execFcmp (d a b : BitVec 7) (f : BitVec 3) (s : State) : Out := fcompare 0x1B false d a b f s
/-- DCMP (R161). -/
def execDcmp (d a b : BitVec 7) (f : BitVec 3) (s : State) : Out := fcompare 0x24 true d a b f s

/-! ## Major 0x1E (R162 to R164, R218, R219) -/

/-- A finite number rounded to an integer by a rounding form's mode, its sign kept (R162). -/
def integral (mode : Nat) (x : Num) : Num :=
  match x with
  | .fin neg m e =>
    if 0 ≤ e then x
    else
      let v := roundInt mode (if neg then -(m : Int) else m) (2 ^ (-e).toNat)
      .fin neg v.natAbs 0
  | n => n

/-- Operand fields of a one-source form. -/
def infoF2 (d a : BitVec 7) : OpInfo := { uses := [(1, d, .dst false false true), (2, a, .src false true)] }

/-- A one-source form of major 0x1E with both readings. -/
def fone (fn : BitVec 3) (f : Bool → Nat → FRes) (q : RNum → RNum) (d a : BitVec 7) (w : BitVec 1) (s : State) : Out :=
  issue (packReg 0x1E d a 0x78 w fn) (infoF2 d a)
    (fun x s =>
      let va := fsrcA x false a
      if x.c.rat then
        retireSlash x d false (w == 1) (fun l => q (readSlash false (va l)).1) (fun l => (readSlash false (va l)).2) s
      else retireFloat x d false false (w == 1) (fun l => f (flushOn x) (va l)) s) s

/-- A rounding form: 0 nearest even, 1 toward zero, 2 upward, 3 downward. -/
def frnd (fn : BitVec 3) (mode : Nat) (d a : BitVec 7) (w : BitVec 1) (s : State) : Out :=
  fone fn (fun flush v =>
      let n := Fmt.f32.read flush v
      finish .f32 plainRN (integral mode n, signalling [n]))
    (fun r => match r with | .fin v e => .fin (roundInt mode v e) 1 | r => r) d a w s

/-- FRNDN (R162). -/
def execFrndn (d a : BitVec 7) (w : BitVec 1) (s : State) : Out := frnd 0 0 d a w s
/-- FRNDZ (R162). -/
def execFrndz (d a : BitVec 7) (w : BitVec 1) (s : State) : Out := frnd 1 1 d a w s
/-- FRNDU (R162). -/
def execFrndu (d a : BitVec 7) (w : BitVec 1) (s : State) : Out := frnd 2 2 d a w s
/-- FRNDD (R162). -/
def execFrndd (d a : BitVec 7) (w : BitVec 1) (s : State) : Out := frnd 3 3 d a w s

/-- x − floor(x), rounded toward zero (R163). -/
def fracNum (flush : Bool) (x : Num) : FRes :=
  match x with
  | .nan q => (Fmt.f32.nanBits, if q then flagNV else 0)
  | .inf _ => (Fmt.f32.nanBits, flagNV)
  | .fin _ _ _ =>
    match addNum false x (integral 3 x).flip with
    | (.fin _ 0 _, _) => (0, 0)
    | r => finish .f32 { mode := 1, flush := flush, sat := 0 } r

/-- FFRAC (R163, R219). -/
def execFfrac (d a : BitVec 7) (w : BitVec 1) (s : State) : Out :=
  fone 4 (fun flush v => fracNum flush (Fmt.f32.read flush v))
    (fun r => match r with | .fin v e => RNum.mk (v - Int.fdiv v e * e) e | _ => .ind) d a w s

/-- A form of major 0x1E that moves bits (R162, R218). -/
def fmove (fn : BitVec 3) (f : Nat → Nat) (d a : BitVec 7) (w : BitVec 1) (s : State) : Out :=
  issue (packReg 0x1E d a 0x78 w fn) (infoF2 d a) (fun x => writeMoved x d (w == 1) (fun l => f (fsrcA x false a l))) s

/-- FABS (R162). -/
def execFabs (d a : BitVec 7) (w : BitVec 1) (s : State) : Out := fmove 5 (fun v => v % 2 ^ 31) d a w s
/-- FNEG (R162). -/
def execFneg (d a : BitVec 7) (w : BitVec 1) (s : State) : Out := fmove 6 (fun v => Nat.xor v (2 ^ 31)) d a w s

/-- The class of a binary32 value (R164). -/
def classF32 (v : Nat) : Nat :=
  match Fmt.f32.read false v with
  | .nan true => 0
  | .nan false => 1
  | .inf neg => if neg then 2 else 9
  | .fin neg m _ =>
    if m = 0 then (if neg then 5 else 6)
    else if m < 2 ^ 23 then (if neg then 4 else 7)
    else if neg then 3 else 8

/-- The class of an RQ32 code (R219). -/
def classSlash (r : RNum × Bool) : Nat :=
  if r.2 then 0 else
  match r.1 with
  | .ind => 1
  | .inf neg => if neg then 2 else 9
  | .fin v _ => if v < 0 then 3 else if v = 0 then 6 else 8

/-- FCLASS (R164, R219). -/
def execFclass (d a : BitVec 7) (w : BitVec 1) (s : State) : Out :=
  issue (packReg 0x1E d a 0x78 w 7) (infoF2 d a)
    (fun x s =>
      let va := fsrcA x false a
      if x.c.rat then
        writeMoved (readReserved x (fun l => (readSlash false (va l)).2)) d (w == 1)
          (fun l => 2 ^ classSlash (readSlash false (va l))) s
      else writeMoved x d (w == 1) (fun l => 2 ^ classF32 (va l)) s) s

/-! ## Majors 0x1F to 0x21: packed 16-bit forms (R113, R165) -/

/-- The element of a packed value: 0 the low half, 1 the high one. -/
def half (v i : Nat) : Nat := v / 2 ^ (16 * i) % 2 ^ 16

/-- Join the results of two elements. -/
def joinHalves (f : Nat → FRes) : FRes := ((f 0).1 + 2 ^ 16 * (f 1).1, (f 0).2 ||| (f 1).2)

/-- The bits of a packed source, both signs inverted by a negate bit (R165). -/
def packedSrc (x : Ctx) (before : List (BitVec 7 × Bool)) (code : BitVec 7) (neg : Bool) (lane : Nat) : Nat :=
  let v := (opVal x code false (offsetBefore x.st before code) 0 lane).toNat
  if neg then Nat.xor v 0x80008000 else v

/-- A packed two-source form. -/
def packed2 (fn : BitVec 3) (m : Fmt) (f : Fmt → RoundCtl → Num → Num → FRes) (d a b : BitVec 7) (w : BitVec 1)
    (s : State) : Out :=
  issue (packReg 0x1F d a b w fn) (infoF3 false d a b)
    (fun x s =>
      let k := roundCtl x
      retireFloat x d false false (w == 1) (fun l => joinHalves (fun i =>
        f m k (m.read k.flush (half (packedSrc x [] a (negA x) l) i))
          (m.read k.flush (half (packedSrc x [(a, false)] b (negB x) l) i)))) s) s

/-- A packed fused form. -/
def packedFma (maj : BitVec 7) (m : Fmt) (d a b : BitVec 7) (c : BitVec 3) (w : BitVec 1) (s : State) : Out :=
  issue (packAcc maj d a b c w) (infoAcc false d a b c)
    (fun x s =>
      let k := roundCtl x
      retireFloat x d false false (w == 1) (fun l => joinHalves (fun i =>
        finish m k (fmaNum (k.mode == 3) (m.read k.flush (half (packedSrc x [] a (negA x) l) i))
          (m.read k.flush (half (packedSrc x [(a, false)] b (negB x) l) i))
          (m.read k.flush (half (packedSrc x [(a, false), (b, false)] (addendCode d c) (negC x) l) i))))) s) s

/-- HADD2 (R165). -/
def execHadd2 (d a b : BitVec 7) (w : BitVec 1) (s : State) : Out := packed2 0 .f16 ieeeAdd d a b w s
/-- HMUL2 (R165). -/
def execHmul2 (d a b : BitVec 7) (w : BitVec 1) (s : State) : Out := packed2 1 .f16 ieeeMul d a b w s
/-- BADD2 (R165). -/
def execBadd2 (d a b : BitVec 7) (w : BitVec 1) (s : State) : Out := packed2 2 .bf16 ieeeAdd d a b w s
/-- BMUL2 (R165). -/
def execBmul2 (d a b : BitVec 7) (w : BitVec 1) (s : State) : Out := packed2 3 .bf16 ieeeMul d a b w s
/-- HFMA2 (R165). -/
def execHfma2 (d a b : BitVec 7) (c : BitVec 3) (w : BitVec 1) (s : State) : Out := packedFma 0x20 .f16 d a b c w s
/-- BFMA2 (R165). -/
def execBfma2 (d a b : BitVec 7) (c : BitVec 3) (w : BitVec 1) (s : State) : Out := packedFma 0x21 .bf16 d a b c w s

/-! ## Majors 0x22 and 0x23: binary64 (R166) -/

/-- DADD (R166). -/
def execDadd (d a b : BitVec 7) (w : BitVec 1) (s : State) : Out := farith2 0x22 0 true false ieeeAdd slashAdd d a b w s
/-- DSUB (R166). -/
def execDsub (d a b : BitVec 7) (w : BitVec 1) (s : State) : Out := farith2 0x22 1 true false ieeeSub slashSub d a b w s
/-- DMUL (R166). -/
def execDmul (d a b : BitVec 7) (w : BitVec 1) (s : State) : Out := farith2 0x22 2 true false ieeeMul slashMul d a b w s
/-- DDIV (R166). -/
def execDdiv (d a b : BitVec 7) (w : BitVec 1) (s : State) : Out := farith2 0x22 3 true true divRound slashDiv d a b w s

/-- DSQRT (R166, R216). -/
def execDsqrt (d a : BitVec 7) (w : BitVec 1) (s : State) : Out :=
  issue (packReg 0x22 d a 0x78 w 4) { uses := [(1, d, .dst true false true), (2, a, .src true true)] }
    (fun x s =>
      let va := fsrcA x true a
      if x.c.rat then
        retireSlash x d true (w == 1) (fun l => sqrtSlash true (slashMode x) (readSlash true (va l)).1)
          (fun l => (readSlash true (va l)).2) s
      else
        let k := roundCtl x
        retireFloat x d true true (w == 1) (fun l => sqrtRound .f64 k (Fmt.f64.read k.flush (va l))) s) s

/-- DFMA (R166). -/
def execDfma (d a b : BitVec 7) (c : BitVec 3) (w : BitVec 1) (s : State) : Out := ffused 0x23 true false d a b c w s

/-! ## RDFADD, RDFMAX, SCFADD (R130, R151) -/

/-- Two operands of the tree, one or both of which may be missing. -/
def treeNode (f : Nat → Nat → FRes) (x y : Option FRes) : Option FRes :=
  match x, y with
  | some p, some q => let r := f p.1 q.1; some (r.1, p.2 ||| q.2 ||| r.2)
  | some p, none => some p
  | none, q => q

/-- The pairwise tree over 2^n lanes from a base, lower lane as the left operand (R130). -/
def sumTree (f : Nat → Nat → FRes) (leaf : Nat → Option FRes) : Nat → Nat → Option FRes
  | 0, base => leaf base
  | n + 1, base => treeNode f (sumTree f leaf n base) (sumTree f leaf n (base + 2 ^ n))

/-- A tree over the active lanes of lane i's rake that pass a test; inputs are read as FADD reads them. -/
def rakeTree (x : Ctx) (a : BitVec 7) (f : Nat → Nat → FRes) (keep : Nat → Bool) (i : Nat) : FRes :=
  (sumTree f (fun l => if x.act.getLsbD l && keep l then some ((src1 x a l).toNat, 0) else none) (rakeLog x.c x.st)
    (rakeBase x i)).getD (0, 0)

/-- One addition of the tree, as an FADD in the mode in force (R130). -/
def treeAdd (k : RoundCtl) (p q : Nat) : FRes := ieeeAdd .f32 k (Fmt.f32.read k.flush p) (Fmt.f32.read k.flush q)

/-- What the trees ask of a rounding: the cross-lane forms take CSW.RM and CSW.FTZ, and no saturation (R45, R46). -/
def treeCtl (x : Ctx) : RoundCtl :=
  { mode := (x.c.csw.extractLsb' 0 2).toNat, flush := x.c.csw.getLsbD 5, sat := 0 }

/-- RDFADD (R130, R151). -/
def execRdfadd (d a : BitVec 7) (w : BitVec 1) (s : State) : Out :=
  issue (packReg 0x14 d a 0x78 w 6) (info2 d a)
    (fun x => retireFloat x d false false (w == 1) (rakeTree x a (treeAdd (treeCtl x)) (fun _ => true))) s

/-- RDFMAX (R151): FMAX over the active lanes of the rake. -/
def execRdfmax (d a : BitVec 7) (w : BitVec 1) (s : State) : Out :=
  issue (packReg 0x14 d a 0x78 w 7) (info2 d a)
    (fun x => retireFloat x d false false (w == 1)
      (rakeTree x a (fun p q => pickBits .f32 (x.c.csw.getLsbD 5) true p q) (fun _ => true))) s

/-- SCFADD (R130, R151): lanes above i are missing. -/
def execScfadd (d a : BitVec 7) (w : BitVec 1) (s : State) : Out :=
  issue (packReg 0x15 d a 0x78 w 1) (info2 d a)
    (fun x => retireFloat x d false false (w == 1)
      (fun i => rakeTree x a (treeAdd (treeCtl x)) (fun l => decide (l ≤ i)) i)) s

end Sys2Proof.Machine
end

