-- ==== Sys2Proof/Machine/Convert.lean ====
section
/-!
DEFINITION. Majors 0x26 to 0x29: conversions, and extraction and packing of narrow elements (R117 to R119, R122, R123,
R126, R127, R169 to R173).
-/

namespace Sys2Proof.Machine

open Sys2Proof

/-! ## Major 0x26 (R169) -/

/-- The bits of source A; k in a 64-bit position is binary32, widened, whatever CSW.RAT holds (R39, R155). -/
def convSrc (x : Ctx) (wide : Bool) (a : BitVec 7) (lane : Nat) : Nat :=
  (opVal x a wide 0 (BitVec.ofNat 64 (widen32 (constOf x).toNat)) lane).toNat

/-- A conversion: from a value of the source's bits to a result with its flags. -/
def convert (fn : BitVec 3) (wideD wideA : Bool) (f : RoundCtl → Nat → FRes) (d a : BitVec 7) (w : BitVec 1)
    (s : State) : Out :=
  issue (packReg 0x26 d a 0x78 w fn) { uses := [(1, d, .dst wideD false true), (2, a, .src wideA true)] }
    (fun x s => retireFloat x d wideD false (w == 1) (fun l => f (roundCtl x) (convSrc x wideA a l)) s) s

/-- An integer as a number. -/
def intNum (v : Int) : Num := .fin (decide (v < 0)) v.natAbs 0

/-- A number rounded into an integer range, in two's complement of 32 bits (R127). -/
def toIntRange (mode : Nat) (lo hi : Int) (x : Num) : FRes :=
  let out := fun (v : Int) => (BitVec.ofInt 32 v).toNat
  match x with
  | .nan _ => (0, flagNV)
  | .inf n => (out (if n then lo else hi), flagNV)
  | .fin n m e =>
    let v : Int := if n then -(m : Int) else m
    let r : Int × Bool := if 0 ≤ e then (v * 2 ^ e.toNat, false)
      else (roundInt mode v (2 ^ (-e).toNat), m % 2 ^ (-e).toNat != 0)
    if r.1 < lo then (out lo, flagNV) else if hi < r.1 then (out hi, flagNV)
    else (out r.1, if r.2 then flagNX else 0)

/-- A number in another format, a signalling NaN with invalid. -/
def reformat (m : Fmt) (k : RoundCtl) (x : Num) : FRes := finish m k (x, signalling [x])

/-- ITOF (R169). -/
def execItof (d a : BitVec 7) (w : BitVec 1) (s : State) : Out :=
  convert 0 false false (fun k v => roundNum .f32 k (intNum (BitVec.ofNat 32 v).toInt)) d a w s
/-- UTOF (R169). -/
def execUtof (d a : BitVec 7) (w : BitVec 1) (s : State) : Out :=
  convert 1 false false (fun k v => roundNum .f32 k (intNum v)) d a w s
/-- FTOI (R169). -/
def execFtoi (d a : BitVec 7) (w : BitVec 1) (s : State) : Out :=
  convert 2 false false (fun k v => toIntRange k.mode (-2 ^ 31) (2 ^ 31 - 1) (Fmt.f32.read k.flush v)) d a w s
/-- FTOU (R169). -/
def execFtou (d a : BitVec 7) (w : BitVec 1) (s : State) : Out :=
  convert 3 false false (fun k v => toIntRange k.mode 0 (2 ^ 32 - 1) (Fmt.f32.read k.flush v)) d a w s
/-- FTOD (R169). -/
def execFtod (d a : BitVec 7) (w : BitVec 1) (s : State) : Out :=
  convert 4 true false (fun k v => reformat .f64 plainRN (Fmt.f32.read k.flush v)) d a w s
/-- DTOF (R169). -/
def execDtof (d a : BitVec 7) (w : BitVec 1) (s : State) : Out :=
  convert 5 false true (fun k v => reformat .f32 k (Fmt.f64.read k.flush v)) d a w s
/-- ITOD (R169). -/
def execItod (d a : BitVec 7) (w : BitVec 1) (s : State) : Out :=
  convert 6 true false (fun _ v => roundNum .f64 plainRN (intNum (BitVec.ofNat 32 v).toInt)) d a w s
/-- DTOI (R169). -/
def execDtoi (d a : BitVec 7) (w : BitVec 1) (s : State) : Out :=
  convert 7 false true (fun k v => toIntRange k.mode (-2 ^ 31) (2 ^ 31 - 1) (Fmt.f64.read k.flush v)) d a w s

/-! ## Major 0x27 (R170) -/

/-- FTOH2 and FTOB2. -/
def packHalves (fn : BitVec 3) (m : Fmt) (d a b : BitVec 7) (w : BitVec 1) (s : State) : Out :=
  issue (packReg 0x27 d a b w fn) (infoF3 false d a b)
    (fun x s =>
      let k := roundCtl x
      let rd := fun v => Fmt.f32.read k.flush v
      let va := fun l => let v := convSrc x false a l; if negA x then Nat.xor v (2 ^ 31) else v
      let vb := fun l =>
        let v := (opVal x b false (offsetBefore x.st [(a, false)] b) 0 l).toNat
        if negB x then Nat.xor v (2 ^ 31) else v
      retireFloat x d false false (w == 1) (fun l =>
        joinHalves (fun i => reformat m k (rd (if i = 0 then va l else vb l)))) s) s

/-- A widening of one element. -/
def widenHalf (fn : BitVec 3) (m : Fmt) (i : Nat) (d a : BitVec 7) (w : BitVec 1) (s : State) : Out :=
  issue (packReg 0x27 d a 0x78 w fn) (infoF2 d a)
    (fun x s => retireFloat x d false false (w == 1) (fun l =>
      reformat .f32 plainRN (m.read (flushOn x) (half (convSrc x false a l) i))) s) s

/-- FTOH2 (R170). -/
def execFtoh2 (d a b : BitVec 7) (w : BitVec 1) (s : State) : Out := packHalves 0 .f16 d a b w s
/-- HTOFL (R170). -/
def execHtofl (d a : BitVec 7) (w : BitVec 1) (s : State) : Out := widenHalf 1 .f16 0 d a w s
/-- HTOFH (R170). -/
def execHtofh (d a : BitVec 7) (w : BitVec 1) (s : State) : Out := widenHalf 2 .f16 1 d a w s
/-- FTOB2 (R170). -/
def execFtob2 (d a b : BitVec 7) (w : BitVec 1) (s : State) : Out := packHalves 3 .bf16 d a b w s
/-- BTOFL (R170). -/
def execBtofl (d a : BitVec 7) (w : BitVec 1) (s : State) : Out := widenHalf 4 .bf16 0 d a w s
/-- BTOFH (R170). -/
def execBtofh (d a : BitVec 7) (w : BitVec 1) (s : State) : Out := widenHalf 5 .bf16 1 d a w s

/-! ## Narrow elements (R117, R118, R122, R126) -/

/-- The element formats of majors 0x28, 0x29 and the matrix engine. -/
inductive Elem where
  | e4 | e5 | e6a | e6b | i4o | i8
  deriving DecidableEq, Repr

/-- Elements in a 128-bit word (R118). -/
def Elem.count : Elem → Nat
  | .e6a | .e6b => 21
  | .i4o => 32
  | _ => 16

/-- Bits of an element (R117). -/
def Elem.width : Elem → Nat
  | .e6a | .e6b => 6
  | .i4o => 4
  | _ => 8

/-- A 6-bit format, with spare bits in a word (R119). -/
def Elem.six : Elem → Bool
  | .e6a | .e6b => true
  | _ => false

/-- The code of element i of a 128-bit word. -/
def Elem.code (f : Elem) (word i : Nat) : Nat := word / 2 ^ (f.width * i) % 2 ^ f.width

/-- A 4-bit code as a number. -/
def nibbleNum (c : Nat) : Num := intNum (BitVec.ofNat 4 c).toInt

/-- The value of element i of a 128-bit word, and whether it is a misplaced outlier mark (R117, R122). -/
def Elem.value (f : Elem) (word i : Nat) : Num × Bool :=
  match f with
  | .e4 => (Fmt.e4.read false (f.code word i), false)
  | .e5 => (Fmt.e5.read false (f.code word i), false)
  | .e6a => (Fmt.e6a.read false (f.code word i), false)
  | .e6b => (Fmt.e6b.read false (f.code word i), false)
  | .i8 => (intNum (BitVec.ofNat 8 (f.code word i)).toInt, false)
  | .i4o =>
    let j := i / 4 * 4
    let c := f.code word i
    if f.code word j = 8 ∧ i ≠ j + 3 then
      if i = j then (Fmt.e4.read false (f.code word (j + 2) * 16 + f.code word (j + 1)), false) else (.fin false 0 0, false)
    else if c = 8 then (.fin false 0 0, true)
    else (nibbleNum c, false)

/-- Round a number to an integer code of a width (R126); the least code is −hi or −hi − 1. -/
def roundIntCode (mode : Nat) (lo hi : Int) (width : Nat) (x : Num) : FRes :=
  let out := fun (v : Int) => (BitVec.ofInt width v).toNat
  match x with
  | .nan _ => (0, flagNV)
  | .inf n => (out (if n then lo else hi), flagOF ||| flagNX)
  | .fin n m e =>
    let v : Int := if n then -(m : Int) else m
    let r : Int × Bool := if 0 ≤ e then (v * 2 ^ e.toNat, false)
      else (roundInt mode v (2 ^ (-e).toNat), m % 2 ^ (-e).toNat != 0)
    if r.1 < lo then (out lo, flagOF ||| flagNX) else if hi < r.1 then (out hi, flagOF ||| flagNX)
    else (out r.1, if r.2 then flagNX else 0)

/-- Round a number to a narrow floating format (R126). -/
def roundNarrow (m : Fmt) (mode : Nat) (x : Num) : FRes :=
  match x with
  | .nan _ => (0, flagNV)
  | .inf n => (m.signed n m.maxMag, flagOF ||| flagNX)
  | n => roundNum m { mode := mode, flush := false, sat := 0 } n

/-- Convert a number to an element code (R126). -/
def Elem.round (f : Elem) (mode : Nat) (x : Num) : FRes :=
  match f with
  | .e4 => roundNarrow .e4 mode x
  | .e5 => roundNarrow .e5 mode x
  | .e6a => roundNarrow .e6a mode x
  | .e6b => roundNarrow .e6b mode x
  | .i8 => roundIntCode mode (-128) 127 8 x
  | .i4o => roundIntCode mode (-7) 7 4 x

/-- The quad of a lane that a code names, as a 128-bit number (R118). -/
def quadOf128 (c : Consist) (code : BitVec 7) (lane : Nat) : Nat :=
  let n := code.toNat
  (c.v n lane).toNat + 2 ^ 32 * (c.v (n + 1) lane).toNat + 2 ^ 64 * (c.v (n + 2) lane).toNat
    + 2 ^ 96 * (c.v (n + 3) lane).toNat

/-- The lanes whose element index is beyond the word (R173). -/
def badIndex (x : Ctx) (f : Elem) (ix : Nat → Nat) : Lanes :=
  maskWhere (fun l => x.act.getLsbD l && decide (f.count ≤ ix l))

/-- An extraction (R171, R173). -/
def extract (fn : BitVec 3) (f : Elem) (d a b : BitVec 7) (w : BitVec 1) (s : State) : Out :=
  issue (packReg 0x28 d a b w fn)
    { uses := [(1, d, .dst false false true), (2, a, .quad), (3, b, .src false true)] }
    (fun x s =>
      let ix := fun l => (src1 x b l).toNat
      let bad := badIndex x f ix
      if bad ≠ 0 then .trap .bounds (bad.setWidth 64)
      else if f.six && (lanesOf x.act).any (fun l => decide (2 ^ 126 ≤ quadOf128 x.c a l)) then .trap .fmt 0x100
      else
        let y := if (lanesOf x.act).any (fun l => (f.value (quadOf128 x.c a l) (ix l)).2)
          then { x with c := { x.c with csw := x.c.csw ||| 0x200000#32 } } else x
        writeLanes y d false (w == 1)
          (fun l => BitVec.ofNat 64 (roundNum .f32 plainRN (f.value (quadOf128 x.c a l) (ix l)).1).1) s) s

/-- A word with one element replaced; a 6-bit word's spare bits become 0 (R172). -/
def Elem.insert (f : Elem) (word i code : Nat) : Nat :=
  let word := if f.six then word % 2 ^ 126 else word
  word - f.code word i * 2 ^ (f.width * i) + code * 2 ^ (f.width * i)

/-- A pack (R172, R173). -/
def pack (fn : BitVec 3) (f : Elem) (d a b : BitVec 7) (s : State) : Out :=
  issue (packReg 0x29 d a b 0 fn) { uses := [(1, d, .quad), (2, a, .src false true), (3, b, .src false true)] }
    (fun x s =>
      let ix := fun l => (src2 x a b l).toNat
      let bad := badIndex x f ix
      if bad ≠ 0 then .trap .bounds (bad.setWidth 64)
      else
        let mode := match x.hints.round with | some m => m.toNat | none => 0
        let r := fun l => f.round mode (Fmt.f32.read (flushOn x) (src1 x a l).toNat)
        raiseFlags x (fun l => (r l).2) (fun x s =>
          let q := fun l => f.insert (quadOf128 x.c d l) (ix l) (r l).1
          let ls := lanesOf x.act
          let c := (List.range 4).foldl (fun (c : Consist) j =>
            c.putReg .c (d + BitVec.ofNat 7 j) false ls (fun l => BitVec.ofNat 64 (q l / 2 ^ (32 * j)))) x.c
          let c := if ls = [] then c
            else c.setStrm x.st ((c.strm x.st).putLatch (latchOf d) ls (fun l => BitVec.ofNat 64 (q l)))
          .ok (s.setConsist x.key c)) s) s

/-- X8E4 (R171). -/
def execX8e4 (d a b : BitVec 7) (w : BitVec 1) (s : State) : Out := extract 0 .e4 d a b w s
/-- X8E5 (R171). -/
def execX8e5 (d a b : BitVec 7) (w : BitVec 1) (s : State) : Out := extract 1 .e5 d a b w s
/-- X6A (R171). -/
def execX6a (d a b : BitVec 7) (w : BitVec 1) (s : State) : Out := extract 2 .e6a d a b w s
/-- X6B (R171). -/
def execX6b (d a b : BitVec 7) (w : BitVec 1) (s : State) : Out := extract 3 .e6b d a b w s
/-- XI4O (R171). -/
def execXi4o (d a b : BitVec 7) (w : BitVec 1) (s : State) : Out := extract 4 .i4o d a b w s
/-- XI8 (R171). -/
def execXi8 (d a b : BitVec 7) (w : BitVec 1) (s : State) : Out := extract 5 .i8 d a b w s
/-- P8E4 (R172). -/
def execP8e4 (d a b : BitVec 7) (s : State) : Out := pack 0 .e4 d a b s
/-- P8E5 (R172). -/
def execP8e5 (d a b : BitVec 7) (s : State) : Out := pack 1 .e5 d a b s
/-- P6A (R172). -/
def execP6a (d a b : BitVec 7) (s : State) : Out := pack 2 .e6a d a b s
/-- P6B (R172). -/
def execP6b (d a b : BitVec 7) (s : State) : Out := pack 3 .e6b d a b s
/-- PI4O (R172). -/
def execPi4o (d a b : BitVec 7) (s : State) : Out := pack 4 .i4o d a b s
/-- PI8 (R172). -/
def execPi8 (d a b : BitVec 7) (s : State) : Out := pack 5 .i8 d a b s

end Sys2Proof.Machine
end

