-- ==== Sys2Proof/Machine/Race.lean ====
section
/-!
DEFINITION. The memory consistency model as the machine keeps it: scopes (R71, R72), releases and acquires (R63, R73),
and the race detector (R65 to R69). Memory itself is sequential (DESIGN CHOICE, assumption log 3).
-/

namespace Sys2Proof.Machine

open Sys2Proof

/-! ## Parties and scopes -/

/-- Class of an agent identifier (R14). -/
def agentClass (a : Nat) : Nat := a / 2 ^ 14 % 16

/-- Die of an agent identifier (R14). -/
def agentDie (a : Nat) : Nat := a / 2 ^ 18

/-- The agent identifier of an engine or requester: die, class, index (R14). -/
def agentId (die cls ix : Nat) : Nat := die * 2 ^ 18 + cls * 2 ^ 14 + ix

/-- The party of a lane of a consist in a stream. -/
def Consist.party (c : Consist) (key : Nat) (st : Strm) (lane : Option Nat) : Party :=
  { agent := consistAgent key, cons := some key, lane := lane,
    rake := 2 ^ (match st with | .a => (c.csw.extractLsb' 29 3).toNat | .c => (c.csw.extractLsb' 26 3).toNat),
    conv := c.convoy + 1, sess := c.sess, title := c.title }

/-- The party of an engine that works for a consist. -/
def Consist.engineParty (c : Consist) (key agent : Nat) : Party :=
  { c.party key .a none with agent := agent }

/-- The party of an engine that works for a session. -/
def sessionParty (s : State) (sess agent : Nat) : Party :=
  { agent := agent, cons := none, lane := none, rake := 1, conv := 0, sess := sess, title := (s.session sess).title }

/-- Are both on one core, or one line core (R71)? -/
def sameCore (x y : Party) : Bool :=
  match x.cons, y.cons with
  | some i, some j => coreOf i == coreOf j
  | _, _ => false

/-- Station of a party: that of its core, or the rasteriser's own (R71). -/
def Party.station (x : Party) : Option Nat :=
  match x.cons with
  | some k => stationOf k
  | none => if agentClass x.agent = 3 then some (agentDie x.agent * 8 + x.agent % 8) else none

/-- Does the scope of this code, stated from x, include y (R71)? -/
def inScope (scope : Nat) (x y : Party) : Bool :=
  let host := agentClass y.agent == 9
  match scope with
  | 1 => x.cons == y.cons && x.cons.isSome && y.agent == x.agent
      && (match x.lane, y.lane with | some i, some j => i / x.rake == j / x.rake | _, _ => false)
  | 2 => x.cons == y.cons && x.cons.isSome
  | 3 => x.conv == y.conv && x.conv != 0 && y.cons.isSome
  | 4 => sameCore x y
  | 5 => sameCore x y || (x.station.isSome && x.station == y.station)
  | 6 => agentDie x.agent == agentDie y.agent && !host
  | 7 => !host
  | 8 => !host || x.sess == y.sess
  | 9 => !host || x.title == y.title
  | 10 | 11 | 12 => true
  | _ => false

/-! ## Edges (R63, R72) -/

/-- May an acquire at this scope by this party take this release (R72, R79)? -/
def pairs (scope : Nat) (p : Party) (r : Release) : Bool :=
  inScope scope p r.party && inScope r.scope r.party p && (!r.moved || r.party.sess == p.sess)

/-- A thread takes the releases its acquiring access pairs with: its later engine operations do not (R73). -/
def State.acquire (s : State) (thread scope : Nat) (p : Party) (rels : List Release) : State :=
  (rels.filter (pairs scope p)).foldl (fun s r => s.learnFor [] thread r.clk) s

/-- A release of this clock by a party at a scope. -/
def Party.release (p : Party) (scope : Nat) (clk : Clock) : Release :=
  { party := p, scope := scope, clk := clk, moved := false }

/-- The release a thread makes now. -/
def State.release (s : State) (thread scope : Nat) (p : Party) : Release := p.release scope (s.seen thread)

/-- What the active lanes of a consist's stream have seen together. -/
def State.seenBy (s : State) (uid : Nat) (st : Strm) (ls : List Nat) : Clock :=
  ls.foldl (fun c l => Clock.join c (s.seen (laneThread uid l st))) []

/-- Every lane of a list learns a clock. -/
def State.learnAll (s : State) (uid : Nat) (st : Strm) (ls : List Nat) (c : Clock) : State :=
  ls.foldl (fun s l => s.learn (laneThread uid l st) c) s

/-! ## Granules (R58) -/

/-- A place an access touches: a granule of machine memory, or of a scratchpad, by convoy key. Nothing is kept for one of
virtual memory: until a logged write is replayed, every other access there waits (R69). -/
inductive Granule where
  | mem (g : Nat)
  | pad (conv g : Nat)
  /-- of virtual memory, while its translation is not known -/
  | virt (sess g : Nat)
  deriving DecidableEq, Repr

/-- The bytes of a granule that an access touches, by their place in it. -/
abbrev Span := Granule × List Nat

/-- What an access of `n` bytes at an address touches. -/
def spansOf (mk : Nat → Granule) (a n : Nat) : List Span :=
  (List.range ((a + n - 1) / 4 + 1 - a / 4)).map (fun j =>
    let g := a / 4 + j
    (mk g, (List.range 4).filter (fun b => decide (a ≤ 4 * g + b) && decide (4 * g + b < a + n))))

/-- The checked accesses kept for a granule, newest first. -/
def State.accessesAt (s : State) : Granule → List Access
  | .mem g => tget s.accesses g
  | .pad c g => tget s.spAccesses (c * 2 ^ 20 + g)
  | .virt _ _ => []

/-- What synchronising writes left at a granule. -/
def State.syncAt (s : State) : Granule → SyncCell
  | .mem g => tget s.syncs g
  | .pad c g => tget s.spSyncs (c * 2 ^ 20 + g)
  | .virt _ _ => default

/-- Write what synchronising writes left at a granule. -/
def State.setSync (s : State) (x : SyncCell) : Granule → State
  | .mem g => { s with syncs := tset s.syncs g x }
  | .pad c g => { s with spSyncs := tset s.spSyncs (c * 2 ^ 20 + g) x }
  | .virt _ _ => s

/-- Keep an access: it takes the place of an earlier one of its thread of the same kind. -/
def State.keepAccess (s : State) (a : Access) (p : Granule) : State :=
  let l := a :: (s.accessesAt p).filter (fun r =>
    !(r.thread == a.thread && r.write == a.write && r.sync == a.sync && r.scope == a.scope))
  match p with
  | .mem g => { s with accesses := tset s.accesses g l }
  | .pad c g => { s with spAccesses := tset s.spAccesses (c * 2 ^ 20 + g) l }
  | .virt _ _ => s

/-! ## Races (R65, R67) -/

/-- Do a kept access and a new one of a thread with this knowledge race (R65)? The two streams of a lane, and the reads
and writes of an engine operation, share a number but for their last bits. -/
def races (clk : Clock) (r me : Access) : Bool :=
  (r.write || me.write) && r.thread / 16 != me.thread / 16 && decide (clk.upTo r.thread < r.time)
    && !(r.sync && me.sync && inScope r.scope r.party me.party && inScope me.scope me.party r.party)
    && (!r.moved || r.party.sess == me.party.sess)

/-- What the accesses of a class happen after: what their thread has seen, and what is kept for the class alone. -/
def State.knows (s : State) (k : Nat) : Clock := Clock.join (tget s.clocks (threadOf k)) (tget s.clocks k)

/-- The kept access that a new one races with, the newest first (R67). -/
def State.raceAt (s : State) (me : Access) (ps : List Granule) : Option Access :=
  let clk := s.knows me.thread
  ps.findSome? (fun p => (s.accessesAt p).find? (fun r => races clk r me))

/-- TRAPV of an MMX: what it says of the other party (R68). -/
def mmxValue (o : Access) : DWord :=
  let isLane := o.party.lane.isSome
  (if isLane then o.pc else 0#32) ++ (0#4 : BitVec 4) ++ BitVec.ofBool o.sync
    ++ (BitVec.ofNat 5 (o.party.lane.getD 0)) ++ BitVec.ofBool isLane ++ BitVec.ofBool o.write
    ++ (BitVec.ofNat 20 o.party.agent)

/-- A checked access passes: it is serialised and kept (R67). -/
def State.serialise (s : State) (me : Access) (ps : List Granule) : State :=
  ps.foldl (fun s p => s.keepAccess me p) s

/-! ## Synchronising reads and writes (R63) -/

/-- The releases that an acquiring read of these bytes of a granule takes: those that go with the values it reads (R63). -/
def SyncCell.visible (x : SyncCell) (bs : List Nat) : List Release := (bs.flatMap (tget x.bytes)).eraseDups

/-- A write of bytes of a granule: a read of its value takes its release if it is one, and every release before it if it is
an atomic (R63). -/
def SyncCell.put (x : SyncCell) (atomic : Bool) (rel : Option Release) (bs : List Nat) : SyncCell :=
  let rels := rel.toList ++ x.rels
  { rels := rels, bytes := bs.foldl (fun t b => tset t b (if atomic then rels else rel.toList)) x.bytes }

/-- A write leaves its mark on what it touches. -/
def State.noteWrite (s : State) (atomic : Bool) (rel : Option Release) (ps : List Span) : State :=
  ps.foldl (fun s p =>
    let x := s.syncAt p.1
    if x.rels = [] ∧ rel.isNone then s else s.setSync (x.put atomic rel p.2) p.1) s

/-- The releases that an acquiring read of these spans takes. -/
def State.visibleAt (s : State) (ps : List Span) : List Release := ps.flatMap (fun p => (s.syncAt p.1).visible p.2)

/-- An acquiring read by a thread at a scope. -/
def State.acquireAt (s : State) (thread scope : Nat) (p : Party) (ps : List Span) : State :=
  s.acquire thread scope p (s.visibleAt ps)

end Sys2Proof.Machine
end

