-- ==== Sys2Proof/Machine/World.lean ====
section
/-!
DEFINITION. Machine memory and the worlds that own it: bytes by machine address, frames and their owners (R339, R347
to R349), completion records (R379), the error log (R391), lost lines (R387 to R390) and the end of a session by
POISON (R389).
-/

namespace Sys2Proof.Machine

open Sys2Proof

/-! ## Bytes by machine address (R331) -/

/-- One byte: LP6 DRAM below 2^40, host memory through a host window from there on. -/
def State.byte (s : State) (a : Nat) : Byte :=
  if a < 2 ^ 40 then tget s.mem a else tget s.hostMem (Config.hostAddress a)

/-- `n` bytes, lowest first. -/
def State.bytes (s : State) (a : Nat) : Nat → List Byte
  | 0 => []
  | n + 1 => s.byte a :: s.bytes (a + 1) n

/-- A little-endian number of `n` bytes. -/
def State.word (s : State) (a n : Nat) : Nat := leNat (s.bytes a n)

/-- Write one byte. -/
def State.setByte (s : State) (a : Nat) (b : Byte) : State :=
  if a < 2 ^ 40 then { s with mem := tset s.mem a b }
  else { s with hostMem := tset s.hostMem (Config.hostAddress a) b }

/-- Write bytes, lowest first. -/
def State.setBytes (s : State) (a : Nat) : List Byte → State
  | [] => s
  | b :: bs => (s.setByte a b).setBytes (a + 1) bs

/-- The entries of a table with a key in [lo, lo + n). -/
def inRange {V : Type} (t : Table V) (lo n : Nat) : Table V := t.filter (fun e => lo ≤ e.1 && e.1 < lo + n)

/-- Make every entry with a key in [lo, lo + n) the default. -/
def clearRange {V : Type} (t : Table V) (lo n : Nat) : Table V := t.filter (fun e => !(lo ≤ e.1 && e.1 < lo + n))

/-- Copy the entries of [src, src + n) to [dst, dst + n). -/
def copyRange {V : Type} (t : Table V) (src dst n : Nat) : Table V :=
  (inRange t src n).foldl (fun u e => tput (dst + (e.1 - src)) e.2 u) (clearRange t dst n)

/-! ## The error log (R391) -/

/-- A log record but for its SEQ. -/
def logBits (cls store : Nat) (owner : Nat) (addr unit out set way : Nat) : BitVec 192 :=
  (BitVec.ofNat 16 set) ++ (BitVec.ofNat 8 way) ++ (0#4 : BitVec 4) ++ (BitVec.ofNat 4 out) ++ (0#20 : BitVec 20)
    ++ (BitVec.ofNat 20 unit) ++ (0#24 : BitVec 24) ++ (0#9 : BitVec 9) ++ (BitVec.ofNat 9 owner) ++ (0#2 : BitVec 2)
    ++ (BitVec.ofNat 4 store) ++ (BitVec.ofNat 8 cls) ++ (0#16 : BitVec 16) ++ (BitVec.ofNat 48 addr)

/-- Log a record on a die; the 1,024 newest are kept, oldest first. -/
def State.logRecord (s : State) (d : Nat) (r : BitVec 192) : State :=
  let x := s.die d
  let l := x.log ++ [r ++ x.logSeq]
  s.setDie d { x with log := l.drop (l.length - 1024), logSeq := x.logSeq + 1 }

/-! ## Owners of frames (R339, R350) -/

/-- KIND of a frame's page-ownership entry. -/
def State.frameKind (s : State) (f : Nat) : Nat := ((tget s.ownership f).extractLsb' 29 3).toNat

/-- OWNER of a frame's page-ownership entry. -/
def State.frameOwner (s : State) (f : Nat) : Nat := ((tget s.ownership f).extractLsb' 21 8).toNat

/-- Key slot of the world that owns a frame: 65 + session, 1 + title, 0 for root (R350). -/
def State.ownerSlot (s : State) (f : Nat) : Nat :=
  match s.frameKind f with
  | 2 => 1 + s.frameOwner f
  | 3 | 4 => 65 + s.frameOwner f
  | _ => 0

/-! ## The injector (R393) -/

/-- The agent identifier of the first consist slot of a core (R14). -/
def coreAgent (core : Nat) : Nat :=
  if core < 256 then agentId (core / 64) 0 (core % 64 * 64) else agentId ((core - 256) / 8) 11 ((core - 256) % 8 * 16)

/-- The station of a SIMT core (R11); a line core has none. -/
def stationOfCore (core : Nat) : Option Nat := if core < 256 then some (core / 8) else none

/-- The core, station or die whose store an INJCTL of die d names (R392). -/
def injectedPlace (d store unit : Nat) : Nat :=
  match store with
  | 1 => d * 64 + unit % 64
  | 2 => d * 8 + unit % 8
  | _ => d

/-- The agent that a record of an injection names: the core whose L1 or stash took the line, else the Signal box (R391;
DEDUCED, assumption log 33). -/
def injectedAgent (store place d : Nat) : Nat := if store = 1 then coreAgent place else agentId d 8 0

/-- The line that the injector of a die names, its store, and the core, station or die of it. -/
def Die.injLine (x : Die) : Nat := x.injAddr.toNat / 128
/-- See `Die.injLine`. -/
def Die.injStore (x : Die) : Nat := (x.injCtl.extractLsb' 4 4).toNat
/-- See `Die.injLine`. -/
def Die.injPlace (x : Die) (d : Nat) : Nat := injectedPlace d x.injStore (x.injCtl.extractLsb' 8 8).toNat

/-- Does the injector of die d wait for one of the lines that `n` bytes of LP6 DRAM lie in? -/
def State.armedFor (s : State) (d a n : Nat) : Bool :=
  let x := s.die d
  x.injCtl.getLsbD 0 && decide (a < 2 ^ 40) && decide (a / 128 ≤ x.injLine) && decide (x.injLine ≤ (a + n - 1) / 128)

/-- Does a write of an address by a lane of core `who`, or with `none` by another agent, enter the store that the injector
of die d names? A lane's enters the L1 or stash of its core where that holds the line, the L2 of its station, and the stores
of the address's die; another agent's the L2s and stores of the address's die (R12, R392; DEDUCED, assumption log 33). -/
def State.writeEnters (s : State) (d a : Nat) (who : Option Nat) : Bool :=
  let x := s.die d
  match x.injStore with
  | 1 => who == some (x.injPlace d) && (tget (tget s.lines (x.injPlace d)) x.injLine).isSome
  | 2 => match who.bind stationOfCore with
    | some g => g == x.injPlace d
    | none => a / 2 ^ 38 == d
  | _ => a / 2 ^ 38 == d

/-- The injector of die d fires (R393): its line's copy is corrupt, ARM is clear, and a record of class 10 is logged. With two
bits wrong the copy's kind is 2, or 3 while the copy is clean: a fill brought it in. -/
def State.fire (s : State) (d : Nat) (clean : Bool) : State :=
  let x := s.die d
  let kind := (x.injCtl.extractLsb' 1 2).toNat + (if clean && (x.injCtl.extractLsb' 1 2).toNat == 2 then 1 else 0)
  let s := s.setDie d { x with injCtl := x.injCtl &&& ~~~(1#16) }
  let s := { s with corrupt := tset s.corrupt x.injLine (x.injStore, kind, x.injPlace d) }
  s.logRecord d (logBits 10 x.injStore (s.ownerSlot (x.injLine / 32)) (x.injLine * 128)
    (injectedAgent x.injStore (x.injPlace d) d) 0 0 0)

/-- The lines that `n` bytes at an address lie in. -/
def linesOf (a n : Nat) : List Nat := (List.range ((a + n - 1) / 128 + 1 - a / 128)).map (fun j => a / 128 + j)

/-- The injectors that a write of `n` bytes meets fire, and a corrupt copy that was clean is dirty (R393). -/
def State.injectAt (s : State) (a n : Nat) (who : Option Nat) : State :=
  let hit := s.corrupt.filter (fun e => e.2.2.1 == 3 && (linesOf a n).contains e.1)
  let s := { s with corrupt := hit.foldl (fun t e => tset t e.1 (e.2.1, 2, e.2.2.2)) s.corrupt }
  (List.range 4).foldl (fun s d => if s.armedFor d a n && s.writeEnters d a who then s.fire d false else s) s

/-! ## Writes that agents make -/

/-- The write-grant and quiet records of the frames a write touches are set (R360, R368). -/
def State.grantAt (s : State) (a n : Nat) : State :=
  let s := { s with grants := tset s.grants (a / 4096) 3 }
  if a / 4096 = (a + n - 1) / 4096 then s else { s with grants := tset s.grants ((a + n - 1) / 4096) 3 }

/-- The copies of lines that every other core's L1, stash and texture cache hold are dropped when `n` bytes are written: they
stay coherent (R184, R185; DEDUCED, assumption log 14). -/
def State.dropCopies (s : State) (a n : Nat) (who : Option Nat) : State :=
  let stale := fun (l : Nat) => decide (a / 128 ≤ l) && decide (l ≤ (a + n - 1) / 128)
  let lines := s.lines.filterMap (fun e =>
    if who = some e.1 then some e
    else let t := e.2.filter (fun l => !stale l.1); if t = [] then none else some (e.1, t))
  let tex := s.texLines.filterMap (fun e => let t := e.2.filter (fun l => !stale l); if t = [] then none else some (e.1, t))
  { s with lines := lines, texLines := tex }

/-- An agent writes bytes at a machine address: a lane of core `who`, or with `none` another agent. -/
def State.write (s : State) (a : Nat) (bs : List Byte) (who : Option Nat := none) : State :=
  if bs = [] then s
  else (((s.setBytes a bs).grantAt a bs.length).dropCopies a bs.length who).injectAt a bs.length who

/-- An agent writes a little-endian number of `n` bytes. -/
def State.writeNat (s : State) (a n x : Nat) (who : Option Nat := none) : State := s.write a (leBytes n x) who

/-- The engines and the walker write bytes that no grant covers: a table entry, a frame map, a copied page (R347). -/
def State.engineWrite (s : State) (a : Nat) (bs : List Byte) : State :=
  if bs = [] then s else ((s.setBytes a bs).dropCopies a bs.length none).injectAt a bs.length none

/-! ## Frames (R347) -/

/-- Write a frame's page-ownership entry. -/
def State.setFrame (s : State) (f kind owner : Nat) : State :=
  { s with ownership := tset s.ownership f (BitVec.ofNat 3 kind ++ BitVec.ofNat 8 owner ++ (0#21 : BitVec 21)) }

/-- Die of a frame. -/
def frameDie (f : Nat) : Nat := f / 2 ^ 26

/-- Fill a frame with zeros; what was lost in it is scrubbed (R347, R352, R390). -/
def State.zeroFrame (s : State) (f : Nat) : State :=
  let s := { s with mem := clearRange s.mem (f * 4096) 4096, poison := clearRange s.poison (f * 32) 32,
                    corrupt := clearRange s.corrupt (f * 32) 32 }
  (s.dropCopies (f * 4096) 4096 none).injectAt (f * 4096) 4096 none

/-- Free a frame: KIND 0, or KIND 5 when it is on its die's retire list (R349, R370). What the race detector kept of it
is dropped. -/
def State.freeFrame (s : State) (f : Nat) : State :=
  let d := frameDie f
  let x := s.die d
  let s := { s.dropCopies (f * 4096) 4096 none with
                    poison := clearRange s.poison (f * 32) 32, corrupt := clearRange s.corrupt (f * 32) 32,
                    accesses := clearRange s.accesses (f * 1024) 1024, syncs := clearRange s.syncs (f * 1024) 1024,
                    grants := tdel f s.grants }
  if x.retire.contains f then (s.setFrame f 5 0).setDie d { x with retire := x.retire.filter (fun g => g != f) }
  else s.setFrame f 0 0

/-- Is every frame of a run free to be allocated (R347, R370)? -/
def State.runFree (s : State) (f n : Nat) : Bool :=
  (List.range n).all (fun j => s.frameKind (f + j) == 0 && !(s.die (frameDie f)).retire.contains (f + j))

/-- The first free aligned run of `n` frames of a die from a start, going round; `fuel` runs are looked at. -/
def State.findRun (s : State) (d n : Nat) : Nat → Nat → Option Nat
  | 0, _ => none
  | fuel + 1, j =>
    let f := d * 2 ^ 26 + j * n % 2 ^ 26
    if s.runFree f n then some f else s.findRun d n fuel (j + 1)

/-- A free aligned run of `n` frames of a die, n a power of two, which one being the engine's own choice (R347). A die has a
free run exactly when one is found: each frame in use hides at most one run. -/
def State.pickRun (s : State) (d n : Nat) : Option Nat :=
  s.findRun d n (min (2 ^ 26 / n) (s.ownership.length + (s.die d).retire.length + 1)) (Config.framePick s.tick)

/-- The frames of a die that no allocation may give, ascending (R347, R370). -/
def State.usedFrames (s : State) (d : Nat) : List Nat :=
  (s.ownership.filter (fun e => frameDie e.1 == d && s.frameKind e.1 != 0)).map (fun e => e.1) ++ (s.die d).retire

/-- A free run of `n` frames of a die that need not be aligned: it starts at the die's first frame or after one in use,
which one being the engine's own choice (R347; DESIGN CHOICE, assumption log 19). -/
def State.pickSpan (s : State) (d n : Nat) : Option Nat :=
  let starts := (d * 2 ^ 26) :: (s.usedFrames d).map (fun f => f + 1)
  let fits := starts.filter (fun f => decide (f + n ≤ (d + 1) * 2 ^ 26) && s.runFree f n)
  fits[Config.framePick s.tick % fits.length]?

/-- Allocate a zeroed frame of a die for a world (R347). -/
def State.allocFrame (s : State) (d kind owner : Nat) : Option (Nat × State) :=
  (s.pickRun d 1).map (fun f => (f, (s.zeroFrame f).setFrame f kind owner))

/-- Allocate `n` zeroed frames that need not follow one another. -/
def State.allocFrames (s : State) (d kind owner : Nat) : Nat → Option (List Nat × State)
  | 0 => some ([], s)
  | n + 1 =>
    match s.allocFrame d kind owner with
    | none => none
    | some (f, t) => (t.allocFrames d kind owner n).map (fun r => (f :: r.1, r.2))

/-- Copy `n` bytes at machine addresses of LP6 DRAM, and nothing else. -/
def State.copyPlain (s : State) (src dst n : Nat) : State :=
  (({ s with mem := copyRange s.mem src dst n } : State).dropCopies dst n none).injectAt dst n none

/-- Copy `n` bytes at machine addresses of LP6 DRAM, with what the race detector keeps of them (R69). -/
def State.copyBytes (s : State) (src dst n : Nat) : State :=
  let s := s.copyPlain src dst n
  { s with accesses := copyRange s.accesses (src / 4) (dst / 4) (n / 4),
           syncs := copyRange s.syncs (src / 4) (dst / 4) (n / 4) }

/-- What the race detector keeps of an access that a merge, a listing or a parking has moved to a shared frame (R69, R79). -/
def Access.move (a : Access) : Access := { a with moved := true }
/-- See `Access.move`. -/
def Release.move (r : Release) : Release := { r with moved := true }
/-- See `Access.move`. -/
def SyncCell.move (x : SyncCell) : SyncCell :=
  { rels := x.rels.map Release.move, bytes := x.bytes.map (fun e => (e.1, e.2.map Release.move)) }

/-- What both of two cells hold. -/
def SyncCell.join (x y : SyncCell) : SyncCell :=
  { rels := x.rels ++ y.rels, bytes := x.bytes.foldl (fun t e => tset t e.1 (e.2 ++ tget t e.1)) y.bytes }

/-- What the race detector keeps of a frame comes to a shared frame, which may be the same one: it stays with the accesses of
its own session (R69, R79). -/
def State.moveRecords (s : State) (src dst : Nat) : State :=
  let at' := fun (g : Nat) => dst * 1024 + (g - src * 1024)
  let ra := (inRange s.accesses (src * 1024) 1024).map (fun e => (at' e.1, e.2.map Access.move))
  let rs := (inRange s.syncs (src * 1024) 1024).map (fun e => (at' e.1, e.2.move))
  let keepA := if src = dst then clearRange s.accesses (src * 1024) 1024 else s.accesses
  let keepS := if src = dst then clearRange s.syncs (src * 1024) 1024 else s.syncs
  { s with accesses := ra.foldl (fun t e => tset t e.1 (e.2 ++ tget t e.1)) keepA,
           syncs := rs.foldl (fun t e => tset t e.1 (e.2.join (tget t e.1))) keepS }

/-- What the race detector keeps in shared frames of a session that is gone is dropped (R69). -/
def State.dropMoved (s : State) (v : Nat) : State :=
  let keep := fun (r : Release) => !(r.moved && r.party.sess == v)
  { s with
    accesses := s.accesses.filterMap (fun e =>
      let l := e.2.filter (fun a => !(a.moved && a.party.sess == v))
      if l = [] then none else some (e.1, l)),
    syncs := s.syncs.filterMap (fun e =>
      let x : SyncCell :=
        { rels := e.2.rels.filter keep,
          bytes := e.2.bytes.filterMap (fun b => let l := b.2.filter keep; if l = [] then none else some (b.1, l)) }
      if x = default then none else some (e.1, x)) }

/-- Copy a frame. -/
def State.copyFrame (s : State) (src dst : Nat) : State := s.copyBytes (src * 4096) (dst * 4096) 4096

/-- The frames that a world holds on a die. -/
def State.framesOf (s : State) (d kind owner : Nat) : List Nat :=
  (s.ownership.filter (fun e => frameDie e.1 == d && s.frameKind e.1 == kind && s.frameOwner e.1 == owner)).map
    (fun e => e.1)

/-! ## Shared-frame records (R348) -/

/-- The die and way index of the directory entry that names a frame (R354). -/
def State.listedAt (s : State) (f : Nat) : Option (Nat × Nat) :=
  (List.range 4).findSome? (fun d => ((s.die d).directory.find? (fun e => e.2.frame == f)).map (fun e => (d, e.1)))

/-- Take a frame's directory entry out. -/
def State.unlist (s : State) (f : Nat) : State :=
  match s.listedAt f with
  | none => s
  | some (d, w) =>
    let x := s.die d
    s.setDie d { x with directory := tdel w x.directory }

/-- REF of a title frame rises by one (R348). -/
def State.raiseRef (s : State) (f : Nat) : State :=
  let r := tget s.refs f
  { s with refs := tset s.refs f { r with ref := r.ref + 1 } }

/-- Does a seal that has compared a page hold the bucket of the way that names this frame (R354, R359)? -/
def State.bucketHeld (s : State) (f : Nat) : Bool :=
  match s.listedAt f with
  | none => false
  | some (_, w) => s.sessions.any (fun e => e.2.seals.any (fun (x : Seal) =>
      x.state == 3 && (x.digest.extractLsb' 0 20).toNat == w / 4))

/-- Take a title frame whose REF is 0 out of the directory and free it (R348). -/
def State.removeTitleFrame (s : State) (f : Nat) : State :=
  (({ s with refs := tdel f s.refs }).unlist f).freeFrame f

/-- REF of a title frame falls by one; at 0 the frame leaves the directory and is freed (R348), once the bucket that
names it is not held (R359). -/
def State.lowerRef (s : State) (f : Nat) : State :=
  let r := tget s.refs f
  if r.ref = 0 then s
  else if r.ref = 1 then
    if s.bucketHeld f then { s with refs := tset s.refs f { r with ref := 0 } } else s.removeTitleFrame f
  else { s with refs := tset s.refs f { r with ref := r.ref - 1 } }

/-- Title frames whose REF has fallen to 0 and whose bucket is no longer held are removed (R359). -/
def State.removeUnused (s : State) : State :=
  (s.refs.filter (fun e => e.2.ref == 0 && e.2.listed)).foldl (fun (s : State) (e : Nat × RefRec) =>
    if s.bucketHeld e.1 then s else s.removeTitleFrame e.1) s

/-! ## Frame maps (R336) -/

/-- A frame-map entry. -/
structure FrameMap where
  sealed : Bool
  v : Bool
  mask : BitVec 4
  pframe : Nat
  sframe : Nat
  deriving DecidableEq, Repr, Inhabited

/-- Read a 16-byte frame-map word (R336); reserved bits must be 0 for it to be well-formed. -/
def FrameMap.ofNat (x : Nat) : FrameMap :=
  { sealed := bitsOf x 77 77 == 1, v := bitsOf x 76 76 == 1, mask := BitVec.ofNat 4 (bitsOf x 75 72),
    pframe := bitsOf x 71 36, sframe := bitsOf x 35 0 }

/-- The 16-byte word of a frame-map entry (R336). -/
def FrameMap.toNat (e : FrameMap) : Nat :=
  (if e.sealed then 2 ^ 77 else 0) + (if e.v then 2 ^ 76 else 0) + e.mask.toNat * 2 ^ 72 + e.pframe * 2 ^ 36 + e.sframe

/-- Entry `i` of a session's frame map. -/
def State.frameMap (s : State) (v i : Nat) : FrameMap := FrameMap.ofNat (s.word ((s.session v).fmBase + 16 * i) 16)

/-- Write entry `i` of a session's frame map: only the Manifest engine does (R336). -/
def State.setFrameMap (s : State) (v i : Nat) (e : FrameMap) : State :=
  s.engineWrite ((s.session v).fmBase + 16 * i) (leBytes 16 e.toNat)

/-- Does frame 0 stand in a session's entry as its private frame? It can be either kind (R347). -/
def State.zeroIsOwn (s : State) (v : Nat) : Bool := s.frameKind 0 == 3 && s.frameOwner 0 == v

/-- Does a valid entry of a session name PFRAME (R337)? With MASK ≠ 0 it names both frames; with MASK = 0 an OWN page's
SFRAME and a SHARED page's PFRAME are written 0. -/
def State.namesPrivate (s : State) (v : Nat) (e : FrameMap) : Bool :=
  e.v && (e.mask != 0 || e.pframe != 0 || (e.sframe == 0 && s.zeroIsOwn v))

/-- Does a valid entry of a session name SFRAME (R337)? See `State.namesPrivate`. -/
def State.namesShared (s : State) (v : Nat) (e : FrameMap) : Bool := e.v && (e.mask != 0 || !s.namesPrivate v e)

/-- A session's entries are given up: each SFRAME that a valid one names loses that reference (R348). -/
def State.dropRefs (s : State) (v : Nat) : State :=
  (List.range (s.session v).fmSize).foldl (fun s i =>
    let e := s.frameMap v i
    if s.namesShared v e then (s.setFrameMap v i default).lowerRef e.sframe else s) s

/-! ## Completion records (R379) -/

/-- Write a completion record into a queue's ring, then CQTAIL, then raise MSI-X vector 0 (R379). -/
def State.post (s : State) (q : Nat) (stamp : BitVec 16) (status kind : Nat) (detail : BitVec 32) (value : DWord) :
    State :=
  let x := s.queue q
  let at' := x.cqBase.toNat + 16 * (x.cqTail.toNat % 2 ^ x.qk)
  let bs := leBytes 2 stamp.toNat ++ leBytes 1 status ++ leBytes 1 kind ++ leBytes 4 detail.toNat ++ leBytes 8 value.toNat
  ({ s with hostMem := writeBytes s.hostMem at' bs }).setQueue q { x with cqTail := x.cqTail + 1, msix := x.msix + 1 }

/-- A command completes: its record is written and its queue is free for the next (R378, R379). -/
def State.reply (s : State) (q : Nat) (stamp : BitVec 16) (status : Nat) (detail : BitVec 32) : State :=
  let s := s.post q stamp status 0 detail 0
  s.setQueue q { s.queue q with busy := false }

/-- Complete the commands in progress that a test gives a status. -/
def State.finishCommands (s : State) (f : Waiting → Option Nat) : State :=
  s.commands.foldl (fun (s : State) (w : Waiting) =>
    match f w with
    | some status => ({ s with commands := s.commands.erase w }).reply w.q w.stamp status 0
    | none => s) s

/-- The session that a command names, when it takes one through its life (R17). -/
def commandSession : Instr → Option Nat
  | .sessMove _ v _ _ | .sessMoveExtend _ v _ _ | .sessEnd _ v | .sessEndPark _ v | .sessEndKill _ v => some v
  | .submit _ v _ _ _ | .streamSetStop _ v _ => some v
  | _ => none

/-- Does a command take a session out of service? -/
def isEnding : Instr → Bool
  | .sessEnd _ _ | .sessEndKill _ _ => true
  | _ => false

/-- The commands in progress of a session that is FREE again: those that end it are done, the others can no longer be
(status Busy), and what came in its own queue goes with the queue. -/
def State.finishSession (s : State) (v : Nat) : State :=
  let s := { s with commands := s.commands.filter (fun w => w.q != v) }
  s.finishCommands (fun w => if commandSession w.what = some v then some (if isEnding w.what then 0 else 1) else none)

/-- A trap report and its trap detail (R379, kinds 3 and 4). -/
def State.postTrap (s : State) (v agent : Nat) (r : TrapRecord) : State :=
  (s.post v 0 0 3 (BitVec.ofNat 32 agent) r.trapc).post v 0 0 4 r.trappc r.trapv

/-! ## Stopping a session's work (R389) -/

/-- The jobs of a session that were not complete are posted as complete (R276). -/
def State.postJobs (s : State) (v : Nat) : State :=
  ((s.session v).jobs.filter (fun e => e.2.count != 0)).foldl (fun s e => s.post v 0 0 1 (BitVec.ofNat 32 e.1) 0) s

/-- Take every consist and convoy of a session off the cores and streams, with all their work in flight (R389). -/
def State.stopWork (s : State) (v : Nat) : State :=
  let x := s.session v
  let keys := (s.consists.filter (fun e => match e.2 with | some c => c.sess == v | none => false)).map (fun e => e.1)
  let convs := (s.convoys.filter (fun e => match e.2 with | some c => c.sess == v | none => false)).map (fun e => e.1)
  let cleanCore := fun (c : Core) =>
    { c with log := c.log.filter (fun e => e.sess != v), rows := c.rows.filter (fun e => !keys.contains e.consist),
             rows1 := c.rows1.filter (fun e => !keys.contains e.consist),
             rowOwner := c.rowOwner.filter (fun k => !keys.contains k),
             rowOwner1 := c.rowOwner1.filter (fun k => !keys.contains k),
             rowWait := c.rowWait.filter (fun e => !keys.contains e.1),
             shadow := c.shadow.filter (fun k => !convs.contains k) }
  let cleanStation := fun (g : Station) =>
    { g with passes := g.passes.filter (fun e => e.2.sess != v),
             flushed := g.flushed.filter (fun j => (tget g.passes j).sess != v || (tget g.passes j).state == 0) }
  let idleSession : Session :=
    { x with sidings := x.sidings.map (fun e => (e.1, [])), launches := [], graphs := [], phases := [], jobs := [],
             joins := [], holds := [],
             freight := x.freight.map (fun e => (e.1, { e.2 with queue := [], started := false })),
             mReqs := [], seals := [], faults := [], unposted := [], breaks := [], saveArea := [] }
  ({ s with
    consists := s.consists.filter (fun e => !keys.contains e.1),
    convoys := s.convoys.filter (fun e => !convs.contains e.1),
    cores := s.cores.map (fun e => (e.1, cleanCore e.2)),
    stations := s.stations.map (fun e => (e.1, cleanStation e.2)),
    sessions := tset s.sessions v idleSession } : State).removeUnused

/-- Scrub and free every frame of a session's world on a die, with what was lost in it (R352). -/
def State.scrubSession (s : State) (d v : Nat) : State :=
  (s.framesOf d 3 v ++ s.framesOf d 4 v).foldl (fun s f => (s.zeroFrame f).freeFrame f) s

/-- Take a session's cores out of a die's partition map. -/
def Die.withoutSession (x : Die) (v : Nat) : Die :=
  { x with bank0 := x.bank0.filter (fun e => e.2 != v + 1), bank1 := x.bank1.filter (fun e => e.2 != v + 1) }

/-- Drop every translation of a session: TLB entries and walk-cache entries on all four dies (R345). -/
def State.dropTranslations (s : State) (v : Nat) : State :=
  { s with
    cores := s.cores.map (fun e => (e.1, { e.2 with tlb := e.2.tlb.filter (fun t => t.sess != v) })),
    engineTlbs := s.engineTlbs.filterMap (fun e =>
      let l := e.2.filter (fun t => t.sess != v); if l = [] then none else some (e.1, l)),
    stations := s.stations.map (fun e => (e.1, { e.2 with walkCache := e.2.walkCache.filter (fun t => t.1 != v) })) }

/-- A title without sessions ends: its frames are freed and its key slots are EMPTY on every die (R18, R348, R350). -/
def State.endTitle (s : State) (t : Nat) : State :=
  if s.sessions.any (fun e => e.2.title == t && (e.2.state != .free || e.2.slipping.isSome)) then s
  else (List.range 4).foldl (fun s d =>
    let fs := s.framesOf d 2 t
    let s := fs.foldl (fun s f => (({ s with refs := tdel f s.refs }).unlist f).freeFrame f) s
    let x := s.die d
    s.setDie d { x with slots := tdel (1 + t) x.slots }) s

/-- Release a session: its cores, streams, raster slots (R288) and queue go, its identifier becomes FREE (R17, R23, R389), and
its title ends with its last session. -/
def State.releaseSession (s : State) (v : Nat) : State :=
  let t := (s.session v).title
  let s := ((s.dropTranslations v).finishSession v).dropMoved v
  State.endTitle (t := t) { s with
    stations := s.stations.map (fun e => (e.1, { e.2 with passes := e.2.passes.filter (fun p => p.2.sess != v) })),
    dies := s.dies.map (fun e => (e.1,
      { (e.2.withoutSession v) with streams := e.2.streams.filter (fun t => t.2.state == 0 || t.2.sess != v) })),
    sessions := tdel v s.sessions, queues := tdel v s.queues }

/-- The dies, a session's home die first. -/
def State.homeFirst (s : State) (v : Nat) : List Nat :=
  let home := (s.session v).home
  home :: (List.range 4).filter (fun d => d != home)

/-- The Terminus streams of a session that are not OFF: die and number (R16, R21). -/
def State.streamsOf (s : State) (v : Nat) : List (Nat × Nat) :=
  (s.homeFirst v).flatMap (fun d => ((List.range 16).filter (fun n =>
    let t := tget (s.die d).streams n
    t.state != 0 && t.sess == v)).map (fun n => (d, n)))

/-- A session ends with cause POISON (R17, R389): its consists stop and its work is discarded, and it is ENDING. What its
end leaves to write comes when it is FREE (`execSessEndComplete`). One that is FREE, or that already ends so, has nothing more
to lose. -/
def State.poisonSession (s : State) (v : Nat) (consumer : Option (Nat × TrapRecord))
    (log : Option (Nat × BitVec 192)) : State :=
  if (s.session v).state = .free ∨ (s.session v).poisoned.isSome = true then
    match log with | some (d, r) => s.logRecord d r | none => s
  else
    let ends : PoisonEnd := { consumer := consumer, log := log, streams := (s.streamsOf v).map (fun e => e.2) }
    let s := s.stopWork v
    s.setSession v { s.session v with state := .ending, ending := 1, forcedEnd := true, poisoned := some ends }

/-- What the Signal box writes once a session that ended by POISON is FREE, in R389's order: the consuming consist's trap
report, the log record, a completion of kind 2 for each stream. -/
def State.writePoisonEnd (s : State) (v : Nat) (e : PoisonEnd) : State :=
  let s := match e.consumer with | some (a, r) => s.postTrap v a r | none => s
  let s := match e.log with | some (d, r) => s.logRecord d r | none => s
  e.streams.foldl (fun (s : State) n => s.post v 0 0 2 (BitVec.ofNat 32 n) 0) s

/-! ## Lost lines (R387 to R390) -/

/-- Retire a frame as MRETIRE does (R370): a free one becomes KIND 5, one in use joins the die's list while it has
room. -/
def State.retireFrame (s : State) (f : Nat) : State :=
  let d := frameDie f
  let x := s.die d
  if s.frameKind f = 5 then s
  else if s.frameKind f = 0 then s.setFrame f 5 0
  else if x.retire.contains f ∨ 1024 ≤ x.retire.length then s
  else s.setDie d { x with retire := f :: x.retire }

/-- Set index of a machine address in a store with ways (R402): L1, L2, stacked-cache slice. -/
def setIndex (store a : Nat) : Nat :=
  match store with
  | 1 => bitsOf a 13 7
  | 2 => bitsOf a 18 7
  | 3 => bitsOf a 24 13
  | _ => 0

/-- Ways of a set that a table of (set, way) holds in quarantine. -/
def waysOut (q : List (Nat × Nat)) (set : Nat) : Nat := (q.filter (fun e => e.1 == set)).length

/-- Quarantine a way (R390, R402): whether it was, and whether the table was full. `unit` is the core, station or die. -/
def State.quarantine (s : State) (store unit a set way : Nat) : State × Bool × Bool :=
  match store with
  | 1 =>
    let x := s.core unit
    if 16 ≤ x.quarantined.length then (s, false, true)
    else if x.quarantined.contains (set, way) || 15 ≤ waysOut x.quarantined set then (s, false, false)
    else (s.setCore unit { x with quarantined := (set, way) :: x.quarantined }, true, false)
  | 2 =>
    let x := s.station unit
    if 64 ≤ x.quarantined.length then (s, false, true)
    else if x.quarantined.contains (set, way) || 15 ≤ waysOut x.quarantined set then (s, false, false)
    else (s.setStation unit { x with quarantined := (set, way) :: x.quarantined }, true, false)
  | 3 =>
    let x := s.die unit
    let slice := bitsOf a 12 7
    let mine := (x.quarantined.filter (fun e => e.1 == slice)).map (fun e => e.2)
    if 64 ≤ mine.length then (s, false, true)
    else if mine.contains (set, way) || 15 ≤ waysOut mine set then (s, false, false)
    else (s.setDie unit { x with quarantined := (slice, set, way) :: x.quarantined }, true, false)
  | _ => (s, false, false)

/-- Count an uncorrectable error of a store on a die (R392). -/
def State.countUe (s : State) (d store : Nat) : State :=
  let x := s.die d
  s.setDie d { x with uecnt := tset x.uecnt store (tget x.uecnt store + 1) }

/-- Count a correctable error, or a refetch, of a store on a die (R387, R392). -/
def State.countCe (s : State) (d store : Nat) : State :=
  let x := s.die d
  s.setDie d { x with cecnt := tset x.cecnt store (tget x.cecnt store + 1) }

/-- End a list of sessions by POISON. The session of the agent that read the lost data, when it is one of them, reports its
consuming consist and writes the log record; else that is written at once (DEDUCED, assumption log 33). -/
def State.poisonAll (s : State) (vs : List Nat) (reader : Option Nat) (consumer : Option (Nat × TrapRecord))
    (log : Option (Nat × BitVec 192)) : State :=
  let mine := match reader with | some v => vs.contains v | none => false
  let s := vs.foldl (fun s v => if mine && reader == some v then s.poisonSession v consumer log
    else s.poisonSession v none none) s
  match mine, log with
  | false, some (d, r) => s.logRecord d r
  | _, _ => s

/-- The sessions with a partition or frames on a die (R388, R382, R398). -/
def State.sessionsOn (s : State) (d : Nat) : List Nat :=
  (s.sessions.map (fun e => e.1)).filter (fun v =>
    let x := s.die d
    let bank := if x.active1 then x.bank1 else x.bank0
    bank.any (fun e => e.2 == v + 1) || s.framesOf d 3 v != [] || s.framesOf d 4 v != [])

/-- The die whose store met an error: that of the core or station `place`, or of the line's address (R391). -/
def storeDie (store place a : Nat) : Nat :=
  match store with
  | 1 => place / 64
  | 2 => place / 8
  | 3 => place
  | _ => a / 2 ^ 38

/-- The data of a line are lost (R387 dirty, R388, R390): the frame is retired and poisoned, the way is quarantined, the
owning world bears the loss, the event is counted and logged. `reader` is the session of the agent that read it and
`consumer` its trap; `unit` is the agent of the record and `place` the core, station or die of the way. -/
def State.loseLine (s : State) (store a unit place set way : Nat) (reader : Option Nat)
    (consumer : Option (Nat × TrapRecord)) : State :=
  let d := a / 2 ^ 38
  let f := a / 4096
  let slot := s.ownerSlot f
  let kind := s.frameKind f
  let ld := storeDie store place a
  let s := s.countUe ld store
  let s := { s with poison := tset s.poison (a / 128) store, corrupt := tdel (a / 128) s.corrupt }
  let s := (List.range 16).foldl (fun s j => s.retireFrame (f / 16 * 16 + j)) s
  let q := s.quarantine store place a set way
  let s := q.1
  let ends := match kind with
    | 3 | 4 => true
    | 2 => reader.isSome
    | 1 => true
    | _ => false
  let out := (if ends then 1 else 0) + 2 + (if q.2.1 then 4 else 0) + 8
  let r := logBits 2 store slot (a / 128 * 128) unit out (if q.2.1 then set else 0) (if q.2.1 then way else 0)
  let s := match kind with
    | 3 | 4 => s.poisonSession (slot - 65) consumer (some (ld, r))
    | 2 =>
      match reader with
      | some v => s.poisonSession v consumer (some (ld, r))
      | none => s.logRecord ld r
    | 1 =>
      let s := s.poisonAll (s.sessionsOn d) reader consumer (some (ld, r))
      s.setDie d { s.die d with limited := true }
    | _ => s.logRecord ld r
  if q.2.2 then s.logRecord ld (logBits 9 store slot (a / 128 * 128) unit 0 0 0) else s

/-- A read of a poisoned line by an agent of a session: that session ends (R388, R389), with a record of class 3. -/
def State.readPoison (s : State) (a agent v : Nat) (consumer : Option (Nat × TrapRecord)) : State :=
  let store := tget s.poison (a / 128)
  s.poisonSession v consumer
    (some (a / 2 ^ 38, logBits 3 store (s.ownerSlot (a / 4096)) (a / 128 * 128) agent 1 0 0))

/-- What reading `n` bytes meets: nothing, a poisoned line, or a line with two bits of an injection wrong. A line with
one wrong bit is corrected and counted (R386, R393). -/
inductive LineState where
  | good
  | poisoned (a : Nat)
  | broken (a store place : Nat)
  deriving DecidableEq, Repr

/-- See `LineState`. -/
def State.lineState (s : State) (a n : Nat) : LineState :=
  match (linesOf a n).find? (fun l => tget s.poison l != 0 || (tget s.corrupt l).2.1 == 2) with
  | none => .good
  | some l => if tget s.poison l ≠ 0 then .poisoned (l * 128)
              else .broken (l * 128) (tget s.corrupt l).1 (tget s.corrupt l).2.2

/-- TRAPV of POISON: the store code and the machine address of the line (R389). -/
def poisonValue (store a : Nat) : DWord := BitVec.ofNat 64 (store * 2 ^ 60 + a / 128 * 128 % 2 ^ 48)

/-- A counter that stays at its greatest value (R399). -/
def addSat (x : DWord) (n : Nat) : DWord := BitVec.ofNat 64 (min (2 ^ 64 - 1) (x.toNat + n))

/-- Change a channel's counters. -/
def State.modChannel (s : State) (d c : Nat) (f : Channel → Channel) : State :=
  let x := s.die d
  s.setDie d { x with channels := tset x.channels c (f (tget x.channels c)) }

/-- A read that fails after its four repeats: each is a transfer repeated, and the failure is a UE of the channel (R399). -/
def Channel.failed (c : Channel) : Channel := { c with linkRty := addSat c.linkRty 4, due := addSat c.due 1 }

/-- An uncorrectable error of LP6 DRAM counts on the channel of its address (R399), which the spec does not give (DESIGN
CHOICE, assumption log 17). -/
def State.countDue (s : State) (store a : Nat) : State :=
  if store = 4 then s.modChannel (a / 2 ^ 38) (Config.dramChannel (a / 128) % 32) Channel.failed else s

/-- The set of a line in the store that met an error (R402): of a stash line, the place the core chose for it (DESIGN
CHOICE, assumption log 14). -/
def State.setAt (s : State) (store place a : Nat) : Nat :=
  match store, tget (tget s.lines place) (a / 128) with
  | 1, some { stash := some _, .. } => s.free.toNat % 128
  | _, _ => setIndex store a

/-- A clean line is fetched again (R387): counted as a CE, its way quarantined, a record of class 1 logged. -/
def State.refetch (s : State) (d store a unit place set way : Nat) : State :=
  let s := s.countCe d store
  let q := s.quarantine store place a set way
  let slot := s.ownerSlot (a / 4096)
  let s := q.1.logRecord d (logBits 1 store slot (a / 128 * 128) unit (if q.2.1 then 4 else 0)
    (if q.2.1 then set else 0) (if q.2.1 then way else 0))
  if q.2.2 then s.logRecord d (logBits 9 store slot (a / 128 * 128) unit 0 0 0) else s

/-- What an error in a line does when it loses no data: a single wrong bit is corrected and counted (R386), a clean line is
fetched again (R387). -/
def State.correctLine (s : State) (l : Nat) : State :=
  let (store, kind, place) := tget s.corrupt l
  let d := storeDie store place (l * 128)
  let s' := { s with corrupt := tdel l s.corrupt }
  if kind = 1 then s'.countCe d store
  else if kind = 3 then
    s'.refetch d store (l * 128) (injectedAgent store place d) place (s.setAt store place (l * 128)) (s.free.toNat % 16)
  else s

/-- `n` bytes of LP6 DRAM have been read, by a lane of core `who` or with `none` by another agent: what the read met is
corrected (R386, R387), and the injectors of an L2 or a stacked cache that the read's lines came into fire, which is a free
choice (R393; DESIGN CHOICE, assumption log 33). -/
def State.readDone (s : State) (a n : Nat) (who : Option Nat := none) : State :=
  let s := (linesOf a n).foldl State.correctLine s
  (List.range 4).foldl (fun s d =>
    let x := s.die d
    if s.armedFor d a n && (x.injStore == 2 || x.injStore == 3) && s.writeEnters d a who && s.free.getLsbD d then
      s.fire d true
    else s) s

/-- An agent of session `v` reads a line that is poisoned or broken; `record` makes the consumer's trap record of a
TRAPV, when a consist consumed it (R388, R389). -/
def State.readBad (s : State) (x : LineState) (agent v : Nat) (record : DWord → Option (Nat × TrapRecord)) : State :=
  match x with
  | .good => s
  | .poisoned a => s.readPoison a agent v (record (poisonValue (tget s.poison (a / 128)) a))
  | .broken a store place =>
    (s.countDue store a).loseLine store a agent place (s.setAt store place a) (s.free.toNat % 16) (some v)
      (record (poisonValue store a))

/-! ## Die links (R382) -/

/-- One direction of a link, by its ends. -/
def State.link (s : State) (a b : Nat) : Link := tget s.links (4 * a + b)

/-- Has one flit of a direction failed three times? The link must resynchronise. -/
def State.mustResync (s : State) (a b : Nat) : Bool := decide (3 ≤ (s.link a b).failures) || decide (3 ≤ (s.link b a).failures)

/-- Does traffic pass between two dies? On a link that resynchronises or is down it waits. -/
def State.linkOpen (s : State) (a b : Nat) : Bool := a == b || !(s.mustResync a b || (s.link a b).down)

/-! ## Lines in L1 and the stash (R13, R184, R185) -/

/-- The ways of a set that L1 may use: neither quarantined nor taken by a stash, of which each set has its share (R185, R402;
DESIGN CHOICE, assumption log 14). -/
def State.l1Ways (s : State) (core set : Nat) : Nat :=
  let kib := (s.convoys.filterMap (fun e => e.2.bind (fun c => if c.core = core ∧ c.parked = false then some c.stashKib
    else none))).sum
  max 1 (16 - waysOut (s.core core).quarantined set - (kib + 15) / 16)

/-- Write the lines of a core. -/
def State.setLines (s : State) (core : Nat) (t : Table (Option CacheLine)) : State := { s with lines := tset s.lines core t }

/-- A line leaves a core's L1 or stash, a dirty one by a write-back: an error in it is met there (R386, R387, R393). -/
def State.evictLine (s : State) (core l : Nat) : State :=
  let t := tget s.lines core
  let (store, kind, place) := tget s.corrupt l
  let s' := s.setLines core (tdel l t)
  if (tget t l).isNone ∨ store ≠ 1 ∨ place ≠ core then s'
  else if kind = 2 then
    (s.loseLine 1 (l * 128) (coreAgent core) core (s.setAt 1 core (l * 128)) (s.free.toNat % 16) none none).setLines core
      (tdel l t)
  else (s.correctLine l).setLines core (tdel l t)

/-- A line comes into a core's L1 or stash: L1 makes room in the line's set by an eviction of its choice (DESIGN
CHOICE, assumption log 14). -/
def State.bringLine (s : State) (core l : Nat) (c : CacheLine) : State :=
  let mates := ((tget s.lines core).filter (fun e => e.1 % 128 == l % 128 && (match e.2 with
    | some c => c.stash.isNone
    | none => false))).map (fun e => e.1)
  let s := if c.stash.isSome ∨ mates.length < s.l1Ways core (l % 128) then s
    else match mates[s.free.toNat % mates.length]? with
      | some m => s.evictLine core m
      | none => s
  let s := s.setLines core (tset (tget s.lines core) l (some c))
  let d := core / 64
  if c.dirty = false ∧ s.armedFor d (l * 128) 128 = true ∧ (s.die d).injStore = 1 ∧ (s.die d).injPlace d = core then
    s.fire d true
  else s

/-- Where the lines of an access may be kept: in L1, for a consist's private words or not, in the stash by convoy and slot, or
in neither (R181, R184, R185). -/
inductive Keep where
  | l1 (priv : Option Nat)
  | stash (conv slot : Nat)
  | no
  deriving DecidableEq, Repr

/-- A lane of a core reads or writes `n` bytes: a line that is there stays, in the stash when a binding covers it, and is dirty
after a write; one that is not comes in where it may be kept (R184, R185). -/
def State.useLines (s : State) (core a n : Nat) (keep : Keep) (wrote : Bool) : State :=
  (linesOf a n).foldl (fun s l =>
    match tget (tget s.lines core) l, keep with
    | some c, .stash v k => s.setLines core (tset (tget s.lines core) l (some { c with stash := some (v, k), dirty := c.dirty || wrote }))
    | some c, _ => s.setLines core (tset (tget s.lines core) l (some { c with dirty := c.dirty || wrote }))
    | none, .l1 p => s.bringLine core l { stash := none, priv := p, dirty := wrote }
    | none, .stash v k => s.bringLine core l { stash := some (v, k), priv := none, dirty := wrote }
    | none, .no => s) s

/-- Lines of a core that pass a test are written back, and dropped or not (R181, R185, R194). -/
def State.flushLines (s : State) (core : Nat) (mine : CacheLine → Bool) (drop : Bool) : State :=
  ((tget s.lines core).filter (fun e => match e.2 with | some c => mine c | none => false)).foldl (fun s e =>
    let t := s.evictLine core e.1
    if drop then t
    else t.setLines core (tset (tget t.lines core) e.1 (e.2.map (fun c => { c with dirty := false })))) s

/-- The lines of a binding, or of every binding, of a convoy's stash. -/
def CacheLine.inStash (c : CacheLine) (conv : Nat) (slot : Option Nat) : Bool :=
  match c.stash with
  | some (v, k) => v == conv && (slot.isNone || slot == some k)
  | none => false

end Sys2Proof.Machine
end

