-- ==== Sys2Proof/Machine/Scan.lean ====
section
/-!
DEFINITION. The scan of a Terminus stream: bands and deadlines (R306), scan time (R307), counters and events (R314, R315)
and the stream register block (R316).
-/

namespace Sys2Proof.Machine

open Sys2Proof

/-! ## Bands and their times (R306) -/

/-- Bands of a frame. -/
def Stream.bandsPerFrame (x : Stream) : Nat := x.vact / 16

/-- The frame and the band of the frame that band number n names. -/
def Stream.place (x : Stream) (n : Nat) : Nat × Nat := ((n - 1) / x.bandsPerFrame, (n - 1) % x.bandsPerFrame)

/-- T(n), the tap time. -/
def Stream.tapTime (x : Stream) (n : Nat) : Nat :=
  (16 * x.lead + 16) * x.lper + ((x.place n).1 * x.vtot + 16 * (x.place n).2) * x.lper

/-- D(n), the deadline; D(0) is 0. -/
def Stream.deadline (x : Stream) (n : Nat) : Nat := if n = 0 then 0 else x.tapTime n - 16 * x.lead * x.lper

/-- O(n), when the band's window opens. -/
def Stream.opens (x : Stream) (n : Nat) : Nat := x.deadline (n - 1)

/-- SETTLED: the number of the last settled band (R314). -/
def Stream.lastSettled (x : Stream) : Nat := (tget x.counters 7).toNat

/-- The band after which a stop takes effect: the last of the frame of the lowest band not yet settled (R305). -/
def Stream.lastOfFrame (x : Stream) : Nat := (x.lastSettled / x.bandsPerFrame + 1) * x.bandsPerFrame

/-- The size of a band image (R308). -/
def Stream.imageSize (x : Stream) : Nat := 48 * x.hact

/-- Bytes of a buffer of band images. -/
def Stream.historySize (x : Stream) : Nat := x.imageSize * x.bandsPerFrame

/-! ## Scan time (R307) -/

/-- How far scan time may run before a step of the stream itself is due: the next band settles exactly at its deadline,
and the encoder takes a settled band at its tap time. -/
def Stream.horizon (x : Stream) : Nat :=
  let d := x.deadline (x.lastSettled + 1)
  if x.tapped < x.lastSettled then min d (x.tapTime (x.tapped + 1)) else d

/-- Scan time runs on to where a step looks at it: how far it has run is not the program's to know (DESIGN CHOICE, assumption log 5). -/
def Stream.run (x : Stream) (tick : Nat) : Stream :=
  { x with t := min (max x.t x.horizon) (x.t + Config.scanAdvance tick) }

/-- A stream of a die. -/
def State.stream (s : State) (d n : Nat) : Stream := tget (s.die d).streams n

/-- Write a stream. -/
def State.setStream (s : State) (d n : Nat) (x : Stream) : State :=
  let y := s.die d
  s.setDie d { y with streams := tset y.streams n x }

/-- The state after a stream's scan time has run on. -/
def State.scan (s : State) (d n : Nat) : State := s.setStream d n ((s.stream d n).run s.tick)

/-! ## Counters and events (R314, R315) -/

/-- Raise a counter by one. -/
def Stream.count (x : Stream) (i : Nat) : Stream := { x with counters := tset x.counters i (tget x.counters i + 1) }

/-- A counter as TMSTAT and the register block read it; LINES is the scan time in line periods. -/
def Stream.counter (x : Stream) (i : Nat) : DWord :=
  if i = 6 then BitVec.ofNat 64 (x.t / x.lper) else if 11 ≤ i then 0 else tget x.counters i

/-- Post a TMISS event (R315). -/
def Stream.postMiss (x : Stream) (level n : Nat) : Stream :=
  if 16 ≤ x.events.length then { (x.count 8) with overflow := true }
  else
    { x with events := x.events ++ [BitVec.ofNat 32 (0x12 * 2 ^ 26 + level * 2 ^ 24 + n % 65536)] }

/-- The oldest event as it is delivered, OVF set when events were dropped since the last delivery; 0 when there is none
(R315, R318). -/
def Stream.nextEvent (x : Stream) : Word :=
  match x.events with
  | [] => 0
  | e :: _ => if x.overflow then e ||| 0x800000#32 else e

/-- The stream once its oldest event has been delivered. -/
def Stream.popEvent (x : Stream) : Stream :=
  match x.events with
  | [] => x
  | _ :: es => { x with events := es, overflow := false }

/-! ## The register block (R316) -/

/-- Read a register by offset. -/
def Stream.readReg (x : Stream) (off : Nat) : DWord :=
  match off with
  | 0x000 => BitVec.ofNat 64 (x.vtot * 2 ^ 32 + x.vact * 2 ^ 16 + x.hact)
  | 0x008 => BitVec.ofNat 64 ((if x.depth then 2 ^ 20 else 0) + x.lead * 2 ^ 16 + x.lper)
  | 0x010 => BitVec.ofNat 64 x.hist
  | 0x018 => BitVec.ofNat 64 x.mfld
  | 0x020 => BitVec.ofNat 64 x.bsBase
  | 0x028 => BitVec.ofNat 64 x.bsSize
  | 0x030 => x.bsWr.setWidth 64
  | 0x038 => x.bsRd.setWidth 64
  | 0x040 => x.fill.setWidth 64
  | 0x048 => x.wph.setWidth 64
  | 0x050 => x.meCur.setWidth 64
  | 0x058 => x.meRef.setWidth 64
  | 0x060 => (x.mePitch ++ x.meH ++ x.meW).setWidth 64
  | 0x068 => x.enc &&& ~~~(2#64)
  | n => if 0x080 ≤ n ∧ n < 0x0D8 ∧ n % 8 = 0 then x.counter ((n - 0x080) / 8) else 0

/-- Write a register by offset; a read-only one, and one that is not listed, ignore it. KEYREQ is write-only. -/
def Stream.writeReg (x : Stream) (off : Nat) (v : DWord) : Stream :=
  match off with
  | 0x038 => { x with bsRd := v.setWidth 32 }
  | 0x040 => { x with fill := v.setWidth 48 }
  | 0x048 => { x with wph := v.setWidth 32 }
  | 0x050 => { x with meCur := v.setWidth 60 }
  | 0x058 => { x with meRef := v.setWidth 60 }
  | 0x060 => { x with mePitch := v.extractLsb' 32 24, meH := v.extractLsb' 16 16, meW := v.extractLsb' 0 16 }
  | 0x068 => { x with enc := v &&& ~~~(2#64), keyReq := x.keyReq || v.getLsbD 1 }
  | _ => x

/-- The stream whose register block a session has at a virtual page, if that is where it has one. -/
def State.streamAt (s : State) (v page : Nat) : Option (Nat × Nat) :=
  (s.streamsOf v).find? (fun e => (s.stream e.1 e.2).page == page)

end Sys2Proof.Machine
end

