-- ==== Sys2Proof/Machine/Blocks.lean ====
section
/-!
DEFINITION. The register blocks: of a stream (R316), the Manifest engine (R356), a command queue (R375) and the Signal box's
RAS block (R392), read and written by eight aligned bytes, by the access codes of R3.
-/

namespace Sys2Proof.Machine

open Sys2Proof

/-! ## The Manifest block (R356) -/

/-- Read a register of the Manifest block. -/
def Die.readManifest (x : Die) (off : Nat) : DWord :=
  match off with
  | 0x00 => if x.mfForce then 1 else 0
  | 0x08 => x.mfDlo
  | 0x10 => x.mfDhi
  | _ => 0

/-- Write a register of the Manifest block. -/
def Die.writeManifest (x : Die) (off : Nat) (v : DWord) : Die :=
  match off with
  | 0x00 => { x with mfForce := v.getLsbD 0 }
  | 0x08 => { x with mfDlo := v }
  | 0x10 => { x with mfDhi := v }
  | _ => x

/-! ## Queue registers (R375) -/

/-- Read a register of a queue: SQTAIL and RESTART are write-only and read 0. -/
def CmdQueue.readReg (x : CmdQueue) (off : Nat) : DWord :=
  match off with
  | 0x00 => x.sqBase
  | 0x08 => x.cqBase
  | 0x18 => x.sqHead.setWidth 64
  | 0x20 => x.cqTail.setWidth 64
  | 0x28 => if x.stopped then 1 else 0
  | 0x30 => BitVec.ofNat 64 x.qk
  | _ => 0

/-- Write a register of a queue: the rings of a management queue while it is STOPPED, SQTAIL and RESTART. -/
def CmdQueue.writeReg (x : CmdQueue) (mgmt : Bool) (off : Nat) (v : DWord) : CmdQueue :=
  let open' := mgmt && x.stopped
  match off with
  | 0x00 => if open' && v.extractLsb' 0 12 == 0 then { x with sqBase := v } else x
  | 0x08 => if open' && v.extractLsb' 0 12 == 0 then { x with cqBase := v } else x
  | 0x10 => { x with sqTail := v.extractLsb' 0 32 }
  | 0x28 => if v.getLsbD 1 then { x with stopped := false } else x
  | 0x30 =>
    let k := (v.extractLsb' 0 5).toNat
    if open' && decide (6 ≤ k) && decide (k ≤ 16) then { x with qk := k } else x
  | _ => x

/-- What a queue block reads and does where no queue is behind it: 0 but for STOPPED, which reads 1 (R374). -/
def closedQueue : CmdQueue := { (default : CmdQueue) with stopped := true }

/-- Do a queue's registers answer: the session's function is there (R372, R373), or it is a management queue? -/
def State.queueThere (s : State) (q : Nat) : Bool :=
  (decide (q < 256) && (s.session q).state != SessState.free && ((s.session q).state != SessState.depot || q == 0))
    || (decide (256 ≤ q) && decide (q < 260))

/-! ## The RAS block (R392) -/

/-- CLR: every counter of the block, and every TMAX and MMIN, is 0. -/
def Die.clear (x : Die) : Die :=
  { x with channels := [], uecnt := [], cecnt := [],
           sensors := (List.range 48).foldl (fun t j => tset t j { tget t j with tmax := some (0, false) }) x.sensors,
           mmin := (List.range 64).foldl (fun t j => tset t j (some (0, false))) x.mmin }

/-- A write of INJCTL (R393): ARM only with INJEN and fields that name a store and a kind. -/
def Die.writeInjctl (x : Die) (v : DWord) : Die :=
  let store := (v.extractLsb' 4 4).toNat
  let kind := (v.extractLsb' 1 2).toNat
  let may := x.injEn && (kind == 1 || kind == 2) && decide (1 ≤ store) && decide (store ≤ 4)
  let arm := if v.getLsbD 0 then may || x.injCtl.getLsbD 0 else false
  { x with injCtl := v.extractLsb' 8 8 ++ v.extractLsb' 4 4 ++ 0#1 ++ v.extractLsb' 1 2 ++ BitVec.ofBool arm }

/-- Is an operating point acceptable as point k (R395)? -/
def Die.pointOk (x : Die) (k mv mhz : Nat) : Bool :=
  mv % 5 == 0 && decide (560 ≤ mv) && decide (mv ≤ 780) && mhz % 25 == 0 && decide (mhz ≤ Config.fusedLimit mv)
    && (k == 0 || (match x.vf[k - 1]? with | some p => decide (p.1 < mv) && decide (p.2 < mhz) | none => false))
    && (match x.vf[k + 1]? with | some p => decide (mv < p.1) && decide (mhz < p.2) | none => true)

/-- A write of VFk (R395). -/
def Die.writeVf (x : Die) (k : Nat) (v : DWord) : Die :=
  let mv := (v.extractLsb' 0 10).toNat
  let mhz := (v.extractLsb' 16 16).toNat
  if k < 16 ∧ x.pointOk k mv mhz = true then { x with vf := x.vf.set k (mv, mhz) } else x

/-- A write of MINPT and MAXPT of a station (R392): its point stays between them (R396). -/
def Station.limits (x : Station) (v : DWord) : Station :=
  let lo : BitVec 4 := v.extractLsb' 16 4
  let hi : BitVec 4 := v.extractLsb' 8 4
  if hi.toNat < lo.toNat then x
  else { x with minPt := lo, maxPt := hi, curPt := min (max x.curPt lo.toNat) hi.toNat }

/-- A write of the RAS block. -/
def State.writeRas (s : State) (d off : Nat) (v : DWord) : State :=
  let x := s.die d
  if off = 0 then
    let x := { x with injEn := v.getLsbD 0 }
    s.setDie d (if v.getLsbD 1 then x.clear else x)
  else if off = 0x8 then
    let p : BitVec 11 := v.extractLsb' 0 11
    if 800 ≤ p.toNat ∧ p.toNat ≤ 1500 then s.setDie d { x with pcap := p } else s
  else if 0x10 ≤ off ∧ off < 0x50 then
    let g := 8 * d + (off - 0x10) / 8
    s.setStation g ((s.station g).limits v)
  else if 0x100 ≤ off ∧ off < 0x180 then s.setDie d (x.writeVf ((off - 0x100) / 8) v)
  else if off = 0x380 then
    let trip : BitVec 16 := v.extractLsb' 16 16
    let thr : BitVec 16 := v.extractLsb' 0 16
    if 800 ≤ trip.toNat ∧ trip.toNat ≤ 960 ∧ 640 ≤ thr.toNat ∧ thr.toNat + 40 ≤ trip.toNat then
      s.setDie d { x with trip := trip, thr := thr }
    else s
  else if off = 0xB00 then s.setDie d { x with injAddr := v.extractLsb' 7 41 ++ 0#7 }
  else if off = 0xB08 then s.setDie d (x.writeInjctl v)
  else if 0xC00 ≤ off ∧ off < 0xE00 then
    let k := (off - 0xC00) / 8
    s.setDie d { x with routers := tset x.routers k { tget x.routers k with lim := some (v.extractLsb' 16 16) } }
  else s

/-- The canary limit of a router: as written, or its fuse. -/
def State.canaryLimit (s : State) (d v : Nat) : BitVec 16 := (tget (s.die d).routers v).lim.getD (Config.canaryLimit d v)

/-- Two 16-bit fields of a register. -/
def twoFields (hi lo : BitVec 16) : DWord := (hi ++ lo).setWidth 64

/-- A channel's four counters, by their order in the block. -/
def Channel.counter (x : Channel) (j : Nat) : DWord :=
  match j with
  | 0 => x.linkRty
  | 1 => x.odec
  | 2 => x.wrRty
  | _ => x.due

/-- A read of the RAS block. -/
def State.readRas (s : State) (d off : Nat) : DWord :=
  let x := s.die d
  let at' := fun (lo size n : Nat) => decide (lo ≤ off) && decide (off < lo + size * n)
  if off = 0 then if x.injEn then 1 else 0
  else if off = 0x8 then x.pcap.setWidth 64
  else if at' 0x10 8 8 then
    let g := s.station (8 * d + (off - 0x10) / 8)
    BitVec.ofNat 64 (g.minPt.toNat * 2 ^ 16 + g.maxPt.toNat * 2 ^ 8 + g.curPt % 16)
  else if at' 0x100 8 16 then
    let p := (x.vf[(off - 0x100) / 8]?).getD (0, 0)
    twoFields (BitVec.ofNat 16 p.2) (BitVec.ofNat 16 (p.1 % 2 ^ 10))
  else if at' 0x200 8 48 then
    let t := tget x.sensors ((off - 0x200) / 8)
    twoFields ((t.tmax.map (fun m => m.1)).getD 0x8000) t.temp
  else if off = 0x380 then twoFields x.trip x.thr
  else if at' 0x400 32 32 then (tget x.channels ((off - 0x400) / 32)).counter ((off - 0x400) / 8 % 4)
  else if at' 0x800 8 64 then
    let i := (off - 0x800) / 8
    twoFields (((tget x.mmin i).map (fun m => m.1)).getD 0xFFFF) (tget x.margins i)
  else if at' 0xA08 8 9 then tget x.uecnt ((off - 0xA00) / 8) ++ tget x.cecnt ((off - 0xA00) / 8)
  else if off = 0xB00 then x.injAddr.setWidth 64
  else if off = 0xB08 then x.injCtl.setWidth 64
  else if at' 0xC00 8 64 then
    let v := (off - 0xC00) / 8
    let r := tget x.routers v
    (if r.state = 3 then 0x100000000 else 0) + twoFields (s.canaryLimit d v) r.res
  else 0

/-- What a register shows has run on by itself since it was last read: the timing margin of a core, with the least since
CLR; the errors that the stores corrected; the transfers that the LP6 DRAM controllers repeated. How far is not the
program's to know (R386, R392, R399; DESIGN CHOICE, assumption log 5). -/
def State.sampleRas (s : State) (d off : Nat) : State :=
  let x := s.die d
  if 0x800 ≤ off ∧ off < 0xA00 then
    let i := (off - 0x800) / 8
    let m := Config.margin s.tick i
    let least := match tget x.mmin i with
      | some (l, true) => if m.toNat < l.toNat then m else l
      | _ => m
    s.setDie d { x with margins := tset x.margins i m, mmin := tset x.mmin i (some (least, true)) }
  else if 0xA08 ≤ off ∧ off < 0xA50 then
    let u := (off - 0xA00) / 8
    s.setDie d { x with cecnt := tset x.cecnt u (tget x.cecnt u + Config.naturalErrors s.tick u) }
  else if 0x400 ≤ off ∧ off < 0x800 then
    let c := (off - 0x400) / 32
    let n := (Config.linkRetries s.tick c).toNat
    match (off - 0x400) / 8 % 4 with
    | 0 => s.modChannel d c (fun c => { c with linkRty := addSat c.linkRty n })
    | 2 => s.modChannel d c (fun c => { c with wrRty := addSat c.wrRty n })
    | _ => s
  else s

/-! ## Every block -/

/-- Stream n of die d as a unit of its block. -/
def streamUnit (d n : Nat) : Nat := 16 * d + n

/-- What the registers of a block that `n` bytes at an offset lie in have run on to when they are read. -/
def State.sampleBlock (s : State) (block : RegBlock) (unit off n : Nat) : State :=
  match block with
  | .stream => s.scan (unit / 16) (unit % 16)
  | .ras => (List.range ((off + n - 1) / 8 + 1 - off / 8)).foldl (fun s j => s.sampleRas unit (off / 8 * 8 + 8 * j)) s
  | .manifest | .queue => s

/-- Read eight aligned bytes of a block. -/
def State.readBlock (s : State) (block : RegBlock) (unit off : Nat) : DWord :=
  match block with
  | .stream => (s.stream (unit / 16) (unit % 16)).readReg off
  | .manifest => (s.die unit).readManifest off
  | .ras => s.readRas unit off
  | .queue => if s.queueThere unit then (s.queue unit).readReg off else closedQueue.readReg off

/-- Read `n` bytes of a block as memory would give them (R316). -/
def State.readBytesOf (s : State) (block : RegBlock) (unit off n : Nat) : Nat :=
  leNat ((List.range n).map (fun j =>
    (s.readBlock block unit ((off + j) / 8 * 8)).extractLsb' (8 * ((off + j) % 8)) 8))

/-- Write eight aligned bytes of a block; a write of any other size or place is ignored (R316). -/
def State.writeBlock (s : State) (block : RegBlock) (unit off n : Nat) (v : DWord) : State :=
  if n ≠ 8 ∨ off % 8 ≠ 0 then s
  else match block with
    | .stream =>
      if unit < 64 ∧ (s.stream (unit / 16) (unit % 16)).state ≠ 0 then
        let s := s.scan (unit / 16) (unit % 16)
        s.setStream (unit / 16) (unit % 16) ((s.stream (unit / 16) (unit % 16)).writeReg off v)
      else s
    | .manifest => if unit < 4 then s.setDie unit ((s.die unit).writeManifest off v) else s
    | .ras => if unit < 4 then s.writeRas unit off v else s
    | .queue =>
      if s.queueThere unit then s.setQueue unit ((s.queue unit).writeReg (decide (256 ≤ unit)) off v) else s

/-- The block that an I/O access of a session reaches at a virtual page, its unit, and the page's offset in it: a stream of
the session; for a root-level consist of maintenance mode the RAS and Manifest blocks of the four dies (R356, R392), at
pages the spec does not give (DESIGN CHOICE, assumption log 43). -/
def State.blockAt (s : State) (v level page : Nat) : Option (RegBlock × Nat × Nat) :=
  match s.streamAt v page with
  | some (d, n) => some (.stream, streamUnit d n, 0)
  | none =>
    if level = 2 ∧ (s.session v).maintenance = true then
      (List.range 4).findSome? (fun d =>
        if Config.rasPage d ≤ page ∧ page < Config.rasPage d + 16 then some (.ras, d, 4096 * (page - Config.rasPage d))
        else if page = Config.manifestPage d then some (.manifest, d, 0)
        else none)
    else none

end Sys2Proof.Machine
end

