-- ==== Sys2Proof/Machine/Translate.lean ====
section
/-!
DEFINITION. Address translation (R331 to R346): the walk, the fill checks, the TLBs with their probes, the faults that
software resolves, TLBINV and TLBINVA, and the events TLB_PROBE, PAGE_WALK and FAULT_RECORD_POST.
-/

namespace Sys2Proof.Machine

open Sys2Proof

/-- Who asks for a translation: the core whose TLB serves it (none for an engine, which keeps its own entries by agent), the
session, the level, the agent, and the name under which it waits on a posted fault. -/
structure Asker where
  core : Option Nat
  sess : Nat
  level : Nat
  agent : Nat
  waiter : Waiter
  deriving DecidableEq, Repr

/-- The kinds of access of R338. -/
inductive AccKind where
  | read | write | fetch
  deriving DecidableEq, Repr

/-- What a walk ends in (R341). -/
inductive Walk where
  | fill (e : TlbEntry)
  /-- PAGE: an entry with V = 0 and PEND = 0, or a malformed one -/
  | page
  /-- PROT: a frame the fill checks refuse -/
  | prot
  /-- an entry with V = 0 and PEND = 1 -/
  | pend
  /-- a frame in transit (R364) -/
  | transit
  deriving DecidableEq, Repr

/-! ## Reading the tables (R332 to R337) -/

/-- Level shift: VA bits below the index of a level. -/
def levelShift (level : Nat) : Nat := 12 + 9 * level

/-- Index of a virtual address at a level (R332). -/
def levelIndex (va level : Nat) : Nat := if level = 4 then bitsOf va 59 48 else va / 2 ^ levelShift level % 512

/-- May a session's table entry lie in this frame (R339)? -/
def State.tableFrameOk (s : State) (v f : Nat) : Bool :=
  if f < 2 ^ 28 then s.frameKind f == 3 && s.frameOwner f == v
  else (s.session v).windows.any (fun w => decide (w.1 ≤ f * 4096) && decide (f * 4096 + 4096 ≤ w.1 + w.2.1))

/-- The fill check of one data frame (R339): `shared` for SFRAME, `ro` for a DIRECT leaf with W = 0. -/
def State.frameOk (s : State) (v f : Nat) (shared ro : Bool) : Bool :=
  s.tableFrameOk v f
    || (decide (f < 2 ^ 28) && s.frameKind f == 2 && s.frameOwner f == (s.session v).title && (shared || ro))

/-- A table entry with V = 1 whose fields other than V and FRAME are all 0 (R333). -/
def isTableEntry (e : DWord) : Bool := (e &&& ~~~(0x8000FFFFFFFFF000#64)) == 0

/-- FRAME of an entry (R333). -/
def entryFrame (e : DWord) : Nat := (e.extractLsb' 12 36).toNat

/-- COW of a leaf (R333). -/
def leafCow (e : DWord) : Nat := (e.extractLsb' 60 2).toNat

/-- S of a leaf (R333). -/
def leafSpan (e : DWord) : Bool := e.getLsbD 58

/-- H of a leaf (R333). -/
def leafHash (e : DWord) : Bool := e.getLsbD 59

/-- Is a leaf with V = 1 malformed at its level (R333, R334)? -/
def leafMalformed (level : Nat) (e : DWord) : Bool :=
  e.getLsbD 62 || (e.extractLsb' 48 8) != 0 || (e.extractLsb' 0 8) != 0 || !e.getLsbD 11
    || (level == 1 && entryFrame e % 512 != 0) || (level == 2 && entryFrame e % 2 ^ 18 != 0)
    || (leafCow e != 0 && (level != 0 || leafSpan e)) || (leafHash e && leafCow e == 0)
    || (leafSpan e && (leafCow e != 0 || leafHash e))

/-- A frame-map word with a reserved bit set, or an entry that is not in use or disagrees with its leaf in its MASK or in
the worlds of its frames (R336, R337). -/
def State.mapMalformed (s : State) (cow x : Nat) : Bool :=
  let e := FrameMap.ofNat x
  let own := s.frameKind e.pframe == 3
  let shared := s.frameKind e.sframe == 2
  decide (2 ^ 78 ≤ x) || !e.v || (cow == 1 && (e.mask != 0 || !own)) || (cow == 2 && (e.mask != 0 || !shared))
    || (cow == 3 && (e.mask == 0 || !own || !shared))

/-- A leaf that a walk has found: its level, the machine address of its entry, and its bits. -/
structure Leaf where
  level : Nat
  addr : Nat
  bits : DWord
  deriving DecidableEq, Repr

/-- Where a descent through the tables ends. -/
inductive Descent where
  | leaf (l : Leaf)
  | stop (w : Walk)
  deriving DecidableEq, Repr

/-- A table entry that the walker of a core holds (R344): its station's; a line core's walks keep none. -/
def State.cachedEntry (s : State) (core : Option Nat) (v level va : Nat) : Option DWord :=
  match core.bind stationOfCore with
  | none => none
  | some g => ((s.station g).walkCache.find? (fun e =>
      e.1 == v && e.2.1 == level && e.2.2.1 == va / 2 ^ levelShift level)).map (fun e => e.2.2.2)

/-- Keep a table entry in the walk cache. -/
def State.cacheEntry (s : State) (core : Option Nat) (v level va : Nat) (e : DWord) : State :=
  match core.bind stationOfCore with
  | none => s
  | some g =>
    let x := s.station g
    let others := x.walkCache.filter (fun t => !(t.1 == v && t.2.1 == level && t.2.2.1 == va / 2 ^ levelShift level))
    s.setStation g { x with walkCache := (v, level, va / 2 ^ levelShift level, e) :: others }

/-- The base entry of the span group of a level-0 entry (R335). -/
def spanBase (va a : Nat) : Nat := a - levelIndex va 0 % 16 * 8

/-- What a level-0 entry at an address ends a descent in (R332, R335). One with S = 1 stands for its group's base entry
alone, which must be a valid span entry with an aligned frame: of the entry that was hit S is all that is read (R335). -/
def State.lastEntry (s : State) (va a : Nat) : Descent :=
  let e := BitVec.ofNat 64 (s.word a 8)
  if leafSpan e then
    let b := BitVec.ofNat 64 (s.word (spanBase va a) 8)
    if b.getLsbD 63 && leafSpan b && entryFrame b % 16 == 0 then .leaf { level := 0, addr := spanBase va a, bits := b }
    else .stop .page
  else if !e.getLsbD 63 then .stop (if e.getLsbD 62 then .pend else .page)
  else .leaf { level := 0, addr := a, bits := e }

/-- May a walk read the entry at an address: where the walk ends when it may not (R339, R364), or lost data (R388). -/
def State.entryBar (s : State) (core : Option Nat) (quiet : Bool) (v a : Nat) : Option (Walk × State) :=
  if !quiet && (s.session v).transit.contains (a / 4096) then some (.transit, s)
  else if !s.tableFrameOk v (a / 4096) then some (.prot, s)
  else if quiet || decide (2 ^ 40 ≤ a) then none
  else match s.lineState a 8 with
    | .good => none
    | bad => some (.transit, s.readBad bad (match core with | some c => coreAgent c | none => agentId (a / 2 ^ 38) 8 0) v
        (fun _ => none))

/-- Go down the tables from a level whose table lies at a machine address (R332): to a leaf, or to where the walk ends.
`quiet` reads the tables as they stand, without the walk cache (R369). -/
def State.descend (s : State) (core : Option Nat) (quiet : Bool) (v va : Nat) : Nat → Nat → Descent × State
  | 0, table =>
    let a := table + 8 * levelIndex va 0
    match s.entryBar core quiet v a with
    | some (w, s) => (.stop w, s)
    | none => (s.lastEntry va a, s)
  | level + 1, table =>
    let a := table + 8 * levelIndex va (level + 1)
    match if quiet then none else s.cachedEntry core v (level + 1) va with
    | some e => s.descend core quiet v va level (entryFrame e * 4096)
    | none =>
      match s.entryBar core quiet v a with
      | some (w, s) => (.stop w, s)
      | none =>
        let e := BitVec.ofNat 64 (s.word a 8)
        if !e.getLsbD 63 then (.stop (if e.getLsbD 62 then .pend else .page), s)
        else if level + 1 ≤ 2 ∧ e.getLsbD 11 = true then
          (.leaf { level := level + 1, addr := a, bits := e }, s)
        else if !isTableEntry e then (.stop .page, s)
        else
          let s := if quiet then s else s.cacheEntry core v (level + 1) va e
          s.descend core quiet v va level (entryFrame e * 4096)

/-- Bytes that a leaf maps (R332, R335). -/
def leafSize (level : Nat) (span : Bool) : Nat :=
  match level with
  | 0 => if span then 65536 else 4096
  | 1 => 2 ^ 21
  | _ => 2 ^ 30

/-- The TLB entry of a leaf, before the fill checks (R335, R343). -/
def leafEntry (v va : Nat) (l : Leaf) (m : FrameMap) : TlbEntry :=
  let span := l.level == 0 && leafSpan l.bits
  let size := leafSize l.level span
  { sess := v, va := va / size * size, size := size, frame := entryFrame l.bits, cow := leafCow l.bits,
    w := l.bits.getLsbD 10, x := l.bits.getLsbD 9, supo := l.bits.getLsbD 8,
    mask := m.mask, sframe := m.sframe, pframe := m.pframe, fmSealed := m.sealed }

/-- Do the frames of an entry pass (R339)? Frames in transit wait (R364). -/
def State.checkEntry (s : State) (e : TlbEntry) : Walk :=
  let v := e.sess
  let moving := fun f => (s.session v).transit.contains f
  if e.cow = 0 then
    let fs := (List.range (e.size / 4096)).map (fun j => e.frame + j)
    if fs.any moving then .transit
    else if fs.all (fun f => s.frameOk v f false (!e.w)) then .fill e else .prot
  else
    let useS := e.cow == 2 || e.cow == 3
    let useP := e.cow == 1 || e.cow == 3
    if (useS && moving e.sframe) || (useP && moving e.pframe) then .transit
    else if (!useS || s.frameOk v e.sframe true false) && (!useP || s.frameOk v e.pframe false false) then .fill e
    else .prot

/-- A page is known to name a frame-map entry (R349). -/
def Session.notePage (x : Session) (i page : Nat) : Session :=
  if (tget x.fmPages i).contains page then x else { x with fmPages := tset x.fmPages i (page :: tget x.fmPages i) }

/-- A walk (R332 to R342): it sets the A bit of the leaf, or of the base entry of a span group, when it fills. -/
def State.walk (s : State) (core : Option Nat) (v va : Nat) : Walk × State :=
  match s.descend core false v va 4 (s.session v).root with
  | (.stop w, s) => (w, s)
  | (.leaf l, s) =>
    let x := s.session v
    if leafMalformed l.level l.bits then (.page, s)
    else
      let cow := leafCow l.bits
      let index := entryFrame l.bits
      let fm := s.word (x.fmBase + 16 * index) 16
      if cow ≠ 0 ∧ (x.fmSize ≤ index ∨ s.mapMalformed cow fm = true) then (.page, s)
      else
        let e := leafEntry v va l (if cow = 0 then default else FrameMap.ofNat fm)
        match s.checkEntry e with
        | .fill e =>
          let s := s.engineWrite (l.addr + 7) [s.byte (l.addr + 7) ||| 2]
          (.fill e, if cow = 0 then s else s.setSession v (x.notePage index (va / 4096)))
        | w => (w, s)

/-! ## TLBs (R343, R344) -/

/-- Does an entry serve an address of a session? -/
def TlbEntry.covers (e : TlbEntry) (v va : Nat) : Bool :=
  e.sess == v && decide (e.va ≤ va) && decide (va < e.va + e.size)

/-- The entry a core's TLB holds for an address. -/
def State.tlbHit (s : State) (core v va : Nat) : Option TlbEntry := (s.core core).tlb.find? (fun e => e.covers v va)

/-- Put an entry into a core's TLB, the newest first, at most 256 (R343). -/
def State.tlbFill (s : State) (core : Nat) (e : TlbEntry) : State :=
  let x := s.core core
  let others := x.tlb.filter (fun t => !(t.sess == e.sess && t.va == e.va && t.size == e.size))
  s.setCore core { x with tlb := (e :: others).take 256 }

/-- The other cores a core probes: its station's, or the die's other line cores (R344). -/
def probeTargets (core : Nat) : List Nat :=
  ((List.range 8).map (fun j => core / 8 * 8 + j)).filter (fun k => k != core)

/-- A probe of the other cores: a hit copies the entry (R344). -/
def State.probe (s : State) (core v va : Nat) : Option TlbEntry :=
  (probeTargets core).findSome? (fun k => s.tlbHit k v va)

/-- The entry an engine's own TLB holds for an address (R343). -/
def State.engineHit (s : State) (agent v va : Nat) : Option TlbEntry :=
  (tget s.engineTlbs agent).find? (fun e => e.covers v va)

/-- The translation of an address for a session: TLB, probe, then a walk whose fill the TLB keeps (R338, R344). An
engine has entries of its own, and asks no core (R343). -/
def State.lookup (s : State) (who : Asker) (va : Nat) : Walk × State :=
  let v := who.sess
  match who.core with
  | none =>
    match s.engineHit who.agent v va with
    | some e => (.fill e, s)
    | none =>
      match s.walk none v va with
      | (.fill e, s) =>
        let others := (tget s.engineTlbs who.agent).filter (fun t => !(t.sess == e.sess && t.va == e.va && t.size == e.size))
        (.fill e, { s with engineTlbs := tset s.engineTlbs who.agent ((e :: others).take 256) })
      | r => r
  | some k =>
    match s.tlbHit k v va with
    | some e => (.fill e, s)
    | none =>
      match s.probe k v va with
      | some e => (.fill e, s.tlbFill k e)
      | none =>
        match s.walk (some k) v va with
        | (.fill e, s) => (.fill e, s.tlbFill k e)
        | r => r

/-! ## Faults that software resolves (R341, R346) -/

/-- Does this asker wait on a posted fault of the page: `some true` when TLBINV ended the wait with PAGE. -/
def State.faultOf (s : State) (v page : Nat) (waiter : Waiter) : Option Bool :=
  ((s.session v).faults.find? (fun f => f.1 == page && f.2.1 == waiter)).map (fun f => f.2.2.2)

/-- The asker begins to wait on a fault of the page; one record is posted while a fault on the page is outstanding
(R341). -/
def State.postFault (s : State) (who : Asker) (va : Nat) (write : Bool) : State :=
  let x := s.session who.sess
  let page := va / 4096
  let posted := x.faults.any (fun f => f.1 == page && !f.2.2.2) || x.unposted.any (fun f => f.1 / 4096 == page)
  let x := { x with faults := x.faults ++ [(page, who.waiter, write, false)] }
  s.setSession who.sess (if posted then x else { x with unposted := x.unposted ++ [(va, write, who.agent)] })

/-- The asker takes the end of its wait. -/
def State.takeFault (s : State) (v page : Nat) (waiter : Waiter) : State :=
  let x := s.session v
  s.setSession v { x with faults := x.faults.filter (fun f => !(f.1 == page && f.2.1 == waiter && f.2.2.2)) }

/-! ## Translating an access (R338) -/

/-- The outcome of a translation. -/
inductive Trans where
  | to (a : Nat)
  | final (cause : Cause)
  /-- a resolvable fault: the access waits -/
  | waits
  /-- a write to a patch that is not private: a break is asked for and the access waits (R340) -/
  | breaks
  /-- a write to a page whose seal is in progress: the seal aborts and the access waits (R357, R359) -/
  | seals
  deriving DecidableEq, Repr

/-- The machine address an entry gives an access, with the checks of R338. -/
def TlbEntry.resolve (e : TlbEntry) (level : Nat) (k : AccKind) (va : Nat) : Trans :=
  let g := bitsOf va 11 10
  if e.supo && level == 0 then .final .prot
  else if k = .fetch ∧ e.x = false then .final .prot
  else if k = .write ∧ e.w = false then .final .prot
  else if e.cow = 0 then .to (e.frame * 4096 + (va - e.va))
  else if k = .write ∧ e.fmSealed = true then .seals
  else if e.cow = 1 then .to (e.pframe * 4096 + va % 4096)
  else if e.mask.getLsbD g then .to (e.pframe * 4096 + va % 4096)
  else if k = .write then .breaks
  else .to (e.sframe * 4096 + va % 4096)

/-- Ask the Manifest engine for a break of the patch (R340). -/
def State.askBreak (s : State) (v va : Nat) : State :=
  let x := s.session v
  if x.breaks.contains (va / 1024) then s else s.setSession v { x with breaks := x.breaks ++ [va / 1024] }

/-- A write waits on a page whose seal is in progress (R359). -/
def State.wantSeal (s : State) (v va : Nat) : State :=
  let x := s.session v
  s.setSession v { x with seals := x.seals.map (fun (e : Seal) => if e.va = va / 4096 * 4096 then { e with wanted := true } else e) }

/-- Is the key slot of the world that owns a machine address being revoked (R352)? -/
def State.sweeping (s : State) (a : Nat) : Bool :=
  decide (a < 2 ^ 40) && (tget (s.die (a / 2 ^ 38)).slots (s.ownerSlot (a / 4096))).state == 2

/-- Is the Manifest engine copying this patch for the session? Accesses to it wait (R340, R79). -/
def State.breaking (s : State) (v va : Nat) : Bool := (s.session v).breaks.contains (va / 1024)

/-- Must an agent's walk wait: a transfer copies the session's tables (R363), or no traffic passes to the die that holds
them (R382)? -/
def State.walksHeld (s : State) (v agent : Nat) : Bool :=
  let x := s.session v
  (x.state == .moving && x.moveFrom.isSome && !x.tablesMoved) || !s.linkOpen (agentDie agent) x.home

/-- Does an access of an agent to a machine address wait: the world of the address is being revoked (R352), or no traffic
passes to its die (R382)? -/
def State.barred (s : State) (agent a : Nat) : Bool :=
  s.sweeping a || (decide (a < 2 ^ 40) && !s.linkOpen (agentDie agent) (a / 2 ^ 38))

/-- Translate an access of a session (R338, R341). -/
def State.translate (s : State) (who : Asker) (k : AccKind) (va : Nat) : Trans × State :=
  let v := who.sess
  match s.faultOf v (va / 4096) who.waiter with
  | some true => (.final .page, s.takeFault v (va / 4096) who.waiter)
  | some false => (.waits, s)
  | none =>
    if s.breaking v va then (.waits, s)
    else if s.walksHeld v who.agent && (match who.core with
        | some c => (s.tlbHit c v va).isNone && (s.probe c v va).isNone
        | none => (s.engineHit who.agent v va).isNone) then (.waits, s)
    else
      match s.lookup who va with
      | (.fill e, s) =>
        match e.resolve who.level k va with
        | .breaks => (.breaks, s.askBreak v va)
        | .seals => (.seals, s.wantSeal v va)
        | .to a => if s.barred who.agent a then (.waits, s) else (.to a, s)
        | r => (r, s)
      | (.page, s) => (.final .page, s)
      | (.prot, s) => (.final .prot, s)
      | (.pend, s) => (.waits, s.postFault who va (decide (k = .write)))
      | (.transit, s) => (.waits, s)

/-- The asker of a stream of a consist. -/
def Consist.asker (c : Consist) (key : Nat) (st : Strm) : Asker :=
  { core := some (coreOf key), sess := c.sess, level := c.level, agent := consistAgent key,
    waiter := .front c.uid (st == .a && c.saved.isSome) st }

/-- The asker of an engine that works for a session at a level. -/
def engineAsker (v level agent : Nat) : Asker :=
  { core := none, sess := v, level := level, agent := agent, waiter := .engine agent }

/-! ## Invalidation (R345, R346) -/

/-- Drop every translation of the session that covers an address, and every walk-cache entry on its path, on all four
dies (R346). -/
def State.invalidate (s : State) (v va : Nat) : State :=
  { s with
    cores := s.cores.map (fun e => (e.1, { e.2 with tlb := e.2.tlb.filter (fun t => !t.covers v va) })),
    engineTlbs := s.engineTlbs.filterMap (fun e =>
      let l := e.2.filter (fun t => !t.covers v va); if l = [] then none else some (e.1, l)),
    stations := s.stations.map (fun e => (e.1, { e.2 with walkCache := e.2.walkCache.filter (fun t =>
      !(t.1 == v && t.2.2.1 == va / 2 ^ levelShift t.2.1)) })) }

/-- Apply ACT to the walks that wait on a posted fault (R346): 1 retries them, 2 ends them with PAGE, which a walk that no
access asked for does not outlive. A fault whose record is not yet posted stays. -/
def State.actOnFaults (s : State) (v : Nat) (act : Nat) (mine : Nat → Bool) : State :=
  let x := s.session v
  let hit := fun (f : Nat × Waiter × Bool × Bool) =>
    mine f.1 && !f.2.2.2 && !x.unposted.any (fun u => u.1 / 4096 == f.1)
  match act with
  | 1 => s.setSession v { x with faults := x.faults.filter (fun f => !hit f) }
  | 2 =>
    let walks := fun (f : Nat × Waiter × Bool × Bool) => match f.2.1 with | .walk _ => true | _ => false
    s.setSession v { x with faults := (x.faults.filter (fun f => !(hit f && walks f))).map (fun f =>
      if hit f then (f.1, f.2.1, f.2.2.1, true) else f) }
  | _ => s

/-- Side-log entries of a consist that wait. -/
def State.logged (s : State) (key : Nat) : Bool := (s.core (coreOf key)).log.any (fun e => e.consist == key)

/-- The leaf of a page as the tables stand, read quietly (R369). -/
def State.quietLeaf (s : State) (v va : Nat) : Option Leaf :=
  match (s.descend none true v va 4 (s.session v).root).1 with
  | .leaf l => some l
  | .stop _ => none

/-- The leaves under a table of a level, by virtual address: the tables as they stand in memory. -/
def State.leavesAt (s : State) : Nat → Nat → Nat → List (Nat × Leaf)
  | 0, table, va =>
    (List.range 512).filterMap (fun i =>
      let e := BitVec.ofNat 64 (s.word (table + 8 * i) 8)
      if e.getLsbD 63 then some (va + 4096 * i, { level := 0, addr := table + 8 * i, bits := e }) else none)
  | level + 1, table, va =>
    (List.range (if level + 1 = 4 then 4096 else 512)).flatMap (fun i =>
      let e := BitVec.ofNat 64 (s.word (table + 8 * i) 8)
      let va := va + 2 ^ levelShift (level + 1) * i
      if !e.getLsbD 63 then []
      else if level + 1 ≤ 2 ∧ e.getLsbD 11 = true then [(va, { level := level + 1, addr := table + 8 * i, bits := e })]
      else if isTableEntry e then s.leavesAt level (entryFrame e * 4096) va
      else [])

/-- Every leaf of a session, by ascending virtual address. -/
def State.leaves (s : State) (v : Nat) : List (Nat × Leaf) := s.leavesAt 4 (s.session v).root 0

/-- The pages whose leaves name frame-map entries, with the entries. -/
def State.namers (s : State) (v : Nat) : List (Nat × Nat) :=
  ((s.leaves v).filter (fun l => l.2.level == 0 && leafCow l.2.bits != 0)).map (fun l => (l.1 / 4096, entryFrame l.2.bits))

/-- A frame-map entry that no leaf names any more is released: PFRAME is freed and REF of SFRAME falls (R349). -/
def State.releaseEntry (s : State) (v i : Nat) : State :=
  let m := s.frameMap v i
  if !m.v then s
  else
    let mine := s.namesPrivate v m && s.frameKind m.pframe == 3 && s.frameOwner m.pframe == v
    let shared := s.namesShared v m
    let s := s.setFrameMap v i default
    let s := if mine then s.freeFrame m.pframe else s
    if shared then s.lowerRef m.sframe else s

/-- What TLBINV and TLBINVA do for the frame map (R349): a page they cover whose leaf no longer names an entry is no longer
known to, and an entry that is left without a page is released. -/
def State.releaseEntries (s : State) (v : Nat) (mine : Nat → Bool) : State :=
  if (s.session v).fmSize = 0 then s else
  let names := s.namers v
  let x := names.foldl (fun x e => x.notePage e.2 e.1) (s.session v)
  x.fmPages.foldl (fun s e =>
    let left := e.2.filter (fun p => !mine p || names.contains (p, e.1))
    let s := s.setSession v { s.session v with fmPages := tset (s.session v).fmPages e.1 left }
    if left = [] then s.releaseEntry v e.1 else s) (s.setSession v x)

/-- TLBINV and TLBINVA share all but what they cover (R346). -/
def tlbControl (w : Word) (o : OpInfo) (b : BitVec 7) (whole : Bool) (a : BitVec 7) (s : State) : Out :=
  issue w o
    (fun x s =>
      if x.act = 0 then .ok s else
      let m := lowest x.act
      let ctl := src1 x b m
      let va := (src1 x a m).toNat
      let v := x.c.sess
      if ctl.toNat ≥ 3 then .trap .illop (decodeValue w 0)
      else if !whole && decide (2 ^ 60 ≤ va) then .trap .bounds (BitVec.ofNat 64 va)
      else if s.logged x.key then .wait s
      else
        let s := if whole then s.dropTranslations v else s.invalidate v va
        let mine := fun p => whole || p == va / 4096
        .ok ((s.releaseEntries v mine).actOnFaults v ctl.toNat mine)) s

/-- TLBINV (R346). -/
def execTlbinv (a b : BitVec 7) (s : State) : Out :=
  tlbControl (packReg 0x62 0x78 a b 0 0)
    { uses := [(2, a, .src false false), (3, b, .src false false)], uniform := true } b false a s

/-- TLBINVA (R346). -/
def execTlbinva (b : BitVec 7) (s : State) : Out :=
  tlbControl (packReg 0x62 0x78 0x78 b 0 1) { uses := [(3, b, .src false false)], uniform := true } b true 0x78 s

/-! ## Events -/

/-- TLB_PROBE (R344): a core without an entry copies the one another core holds. -/
def execTlbProbe (core sess va : Nat) (s : State) : Out :=
  .next (match s.tlbHit core sess va, s.probe core sess va with
    | none, some e => s.tlbFill core e
    | _, _ => s).bump

/-- PAGE_WALK (R341): the walk of a core that holds no entry fills its TLB, or posts a fault record; a final fault
leaves the state and reaches the access that asks. -/
def execPageWalk (core sess va : Nat) (write : Bool) (s : State) : Out :=
  .next (match s.tlbHit core sess va with
    | some _ => s
    | none =>
      if s.walksHeld sess (coreAgent core) then s else
      match s.walk (some core) sess va with
      | (.fill e, t) => t.tlbFill core e
      | (.pend, t) =>
        let who : Asker := { core := some core, sess := sess, level := 0, agent := coreAgent core,
                             waiter := .walk core }
        if (t.session sess).faults.any (fun f => f.1 == va / 4096 && f.2.1 == who.waiter) then t
        else t.postFault who va write
      | (_, t) => t).bump

/-- FAULT_RECORD_POST (R341): the oldest record is written to the session's fault ring if it has room, and the posted
count advances as a release at session scope. -/
def execFaultRecordPost (sess : Nat) (s : State) : Out :=
  let x := s.session sess
  match x.unposted with
  | [] => .next s.bump
  | (va, write, agent) :: rest =>
    let count := s.word x.frBase 8
    let read := s.word (x.frBase + 8) 8
    if x.frSize = 0 ∨ x.frSize ≤ count - read then .next s.bump
    else
      let a := x.frBase + 64 + 16 * (count % x.frSize)
      let bs := leBytes 8 (va + (if write then 2 ^ 61 else 0)) ++ leBytes 4 agent ++ leBytes 4 0
      let s := s.write a bs
      let s := s.writeNat x.frBase 8 (count + 1)
      let p := sessionParty s sess (agentId x.home 6 0)
      let s := s.noteWrite false (some (p.release 8 [])) (spansOf .mem x.frBase 8)
      .next (s.setSession sess { s.session sess with unposted := rest }).bump

end Sys2Proof.Machine
end

