-- ==== Sys2Proof/Machine/Access.lean ====
section
/-!
DEFINITION. Majors 0x40 to 0x46: handles (R174 to R176), the checks of R177 and their traps, private memory and
scratchpads, the access itself with its synchronisation (R63, R73) and race check (R67), the side log (R196), and the
memory-control instructions (R194).
-/

namespace Sys2Proof.Machine

open Sys2Proof

/-- Change a consist that is still there. -/
def State.modConsist (s : State) (k : Nat) (f : Consist → Consist) : State :=
  match s.consist? k with
  | some c => s.setConsist k (f c)
  | none => s

/-- Change a convoy that is still there. -/
def State.modConvoy (s : State) (k : Nat) (f : Convoy → Convoy) : State :=
  match s.convoy? k with
  | some v => s.setConvoy k (f v)
  | none => s

/-- A value with the state it was found in, or the end of the instruction. -/
inductive Got (α : Type) where
  | val (a : α) (s : State)
  | out (e : Eff)

/-- Go on with a value. -/
def Got.andThen {α : Type} (g : Got α) (f : α → State → Eff) : Eff :=
  match g with
  | .val a s => f a s
  | .out e => e

/-- Go on with a value to another. -/
def Got.bind {α β : Type} (g : Got α) (f : α → State → Got β) : Got β :=
  match g with
  | .val a s => f a s
  | .out e => .out e

/-- TRAPV of BOUNDS, ALIGN and STACK (R178). -/
def boundsValue (reason : Nat) (value : Nat) : DWord := BitVec.ofNat 64 (reason * 2 ^ 61 + value % 2 ^ 60)

/-! ## Handles (R174, R175) -/

/-- The kinds of object a handle names (R174). -/
inductive Space where
  | flat | priv | pad | train | entry
  deriving DecidableEq, Repr

/-- What a handle stands for: where it begins, its bound, writable, checked, default scope, address space (0 device, 1 host,
2 I/O) and cache policy (0 normal, 1 streaming, 2 stash, 3 uncached). -/
structure Window where
  kind : Space
  base : Nat
  bound : Nat
  wr : Bool
  chk : Bool
  scope : Nat
  space : Nat
  pol : Nat
  deriving DecidableEq, Repr

/-- The window of a handle-table entry, none for an invalid one (R175). -/
def entryWindow (e : BitVec 256) : Option Window :=
  let base := (e.extractLsb' 0 60).toNat
  let bound := (e.extractLsb' 64 64).toNat
  let scope := (e.extractLsb' 134 4).toNat
  let space := (e.extractLsb' 128 2).toNat
  if !e.getLsbD 138 || (e.extractLsb' 139 117) != 0 || (e.extractLsb' 60 4) != 0 || base % 16 != 0 || space == 3
      || scope == 0 || decide (12 < scope) || decide (2 ^ 60 < base + bound) then none
  else some { kind := .entry, base := base, bound := bound, wr := e.getLsbD 133, chk := e.getLsbD 132, scope := scope,
              space := space, pol := (e.extractLsb' 130 2).toNat }

/-- The convoy of a consist. -/
def State.convoyOf (s : State) (c : Consist) : Convoy := (s.convoy? c.convoy).getD default

/-- The windows of h0 to h3 (R174). -/
def fixedWindow (s : State) (c : Consist) (h : Nat) : Window :=
  let sp := (s.convoyOf c).spCheck
  match h with
  | 0 => { kind := .flat, base := 0, bound := 2 ^ 60, wr := true, chk := false, scope := 7, space := 0, pol := 0 }
  | 1 => { kind := .priv, base := 0, bound := 2 ^ 32, wr := true, chk := false, scope := 2, space := 0, pol := 0 }
  | 2 => { kind := .pad, base := 0, bound := 2 ^ 20, wr := true, chk := sp, scope := 3, space := 0, pol := 3 }
  | _ => { kind := .train, base := 0, bound := 2 ^ 23, wr := true, chk := sp, scope := 5, space := 0, pol := 3 }

/-! ## Private memory (R179, R180) -/

/-- The end of a launch's private region (R179). -/
def Consist.regionEnd (c : Consist) : Nat := min (c.pbase + 128 * c.privWords * c.perConvoy * 2 ^ 32) (2 ^ 60)

/-- Does a range touch the launch's own private region? -/
def Consist.touchesRegion (c : Consist) (lo n : Nat) : Bool :=
  decide (0 < n) && decide (lo < c.regionEnd) && decide (c.pbase < lo + n) && decide (c.pbase < c.regionEnd)

/-- Base of the consist's block (R179). -/
def Consist.block (c : Consist) : Nat := c.pbase + 128 * c.privWords * (c.cvid.toNat * c.perConvoy + c.ci)

/-- The virtual address of a byte of a lane's private words (R179, R180). -/
def Consist.privVa (c : Consist) (lane o : Nat) : Nat := c.block + 128 * (o / 4) + 4 * lane + o % 4

/-! ## Range checks (R177 step 3) -/

/-- Does an access beyond the object trap, for a window that is translated: its cause and TRAPV. -/
def Window.outside (w : Window) (c : Consist) (lane off size : Nat) : Option (Cause × DWord) :=
  match w.kind with
  | .flat =>
    if 2 ^ 60 < off + size ∨ c.touchesRegion off size = true then some (.bounds, boundsValue 0 off) else none
  | .entry =>
    if w.bound < off + size ∨ c.touchesRegion w.base w.bound = true then some (.bounds, boundsValue 0 off) else none
  | .priv =>
    if c.stklim.toNat ≤ (off + size - 1) / 4 ∨ 2 ^ 32 ≤ off ∨ 2 ^ 60 ≤ c.privVa lane ((off + size - 1) / 4 * 4) then
      some (.stack, boundsValue 0 off)
    else none
  | _ => none

/-- The scratchpad and offset that an offset of h2 or h3 names, when it is in range (R182, R183). -/
def Window.inPad (w : Window) (s : State) (c : Consist) (off size : Nat) : Option (Nat × Nat) :=
  let v := s.convoyOf c
  match w.kind with
  | .pad => if off + size ≤ v.spSize then some (c.convoy, off) else none
  | .train =>
    let m := off / 2 ^ 20 % 8
    let keys := if v.train ≤ 1 then [c.convoy] else v.trainKeys
    match keys[m]? with
    | some k => if off < 2 ^ 23 ∧ off % 2 ^ 20 + size ≤ v.spSize then some (k, off % 2 ^ 20) else none
    | none => none
  | _ => none

/-! ## Bytes an access reaches -/

/-- Where a piece of an access stands after its checks: at a machine address, in a scratchpad, in a register block; or its translation is not there yet, and the race detector's address for it may be. -/
inductive Spot where
  | mem (a : Nat)
  | pad (conv off : Nat)
  | reg (block : RegBlock) (unit off : Nat)
  | late (raceAddr : Option Nat)
  deriving DecidableEq, Repr

/-- A piece of a lane's access: its byte position in the access, its virtual address, its length and where it stands. -/
structure Piece where
  lane : Nat
  pos : Nat
  va : Nat
  len : Nat
  spot : Spot
  deriving DecidableEq, Repr

/-- The pieces of virtual memory of an access: position, address, length. A private access has one for each word. -/
def Window.vas (w : Window) (c : Consist) (lane off size : Nat) : List (Nat × Nat × Nat) :=
  match w.kind with
  | .priv =>
    if size ≤ 4 then [(0, c.privVa lane off, size)]
    else (List.range (size / 4)).map (fun j => (4 * j, c.privVa lane (off + 4 * j), 4))
  | _ => [(0, w.base + off, size)]

/-- The entry that a page's leaf gives as the tables stand, read quietly; one whose page is being sealed too. -/
def State.quietEntry (s : State) (v va : Nat) : Option TlbEntry :=
  match s.quietLeaf v va with
  | none => none
  | some l =>
    let x := s.session v
    let cow := leafCow l.bits
    let fm := s.word (x.fmBase + 16 * entryFrame l.bits) 16
    if leafMalformed l.level l.bits || (cow != 0 && (decide (x.fmSize ≤ entryFrame l.bits) || s.mapMalformed cow fm)) then none
    else some { leafEntry v va l (if cow = 0 then default else FrameMap.ofNat fm) with fmSealed := false }

/-- Where an access of a session to an address would go, as the tables stand. -/
def State.placeOf (s : State) (v : Nat) (k : AccKind) (va : Nat) : Option Nat :=
  (s.quietEntry v va).bind (fun e => match e.resolve 2 k va with
    | .to a => some a
    | _ => none)

/-- The side-log entries of every core, and of the parked convoys. -/
def State.allLogs (s : State) : List SideLog :=
  s.cores.flatMap (fun e => e.2.log) ++ s.convoys.flatMap (fun e => match e.2 with | some c => c.savedLog | none => [])

/-- Does a side log hold a write to one of the granules that `n` bytes lie in (R69)? They are named by session and virtual
address, by machine address, or by both; a logged write of the same session is where a read of its address would go, another
session's where the write itself will. -/
def State.inLog (s : State) (who : Option (Nat × Nat)) (addr : Option Nat) (n : Nat) : Bool :=
  let meets := fun (a b m : Nat) => decide (b / 4 ≤ (a + n - 1) / 4) && decide (a / 4 ≤ (b + m - 1) / 4)
  s.allLogs.any (fun l => l.writes.any (fun x =>
    (match who with
      | some (v, va) => l.sess == v && meets va x.va x.size
      | none => false)
    || (match addr with
      | some a =>
        let mine := match who with | some (v, _) => l.sess == v | none => false
        (match s.placeOf l.sess (if mine then .read else .write) x.va with
          | some b => meets a b x.size
          | none => false)
      | none => false)))

/-- The address the race detector has for a write that waits for its translation (R69). -/
def State.raceAddr (s : State) (who : Asker) (va : Nat) : Option Nat :=
  match (s.lookup who va).1 with
  | .fill e => match e.resolve who.level .read va with
    | .to a => some a
    | _ => none
  | _ => none

/-- Translation of the pieces of an access that has passed its other checks (R177 step 4). `buffered` says that a write
that misses goes to the side log (R196); else any miss holds the access and its front end (R195). -/
def reach (who : Asker) (k : AccKind) (buffered : Bool) (space : Nat) : List Piece → State → Got (List Piece)
  | [], s => .val [] s
  | p :: ps, s =>
    match p.spot with
    | .pad _ _ => (reach who k buffered space ps s).bind (fun l s => .val (p :: l) s)
    | _ =>
      if s.inLog (some (who.sess, p.va)) none p.len then .out (.wait s)
      else
        match if space = 2 then s.blockAt who.sess who.level (p.va / 4096) else none with
        | some (block, unit, base) =>
          (reach who k buffered space ps s).bind (fun l s =>
            .val ({ p with spot := .reg block unit (base + p.va % 4096) } :: l) s)
        | none =>
          match s.translate who k p.va with
          | (.to a, s) =>
            if s.inLog (some (who.sess, p.va)) (some a) p.len then .out (.wait s)
            else (reach who k buffered space ps s).bind (fun l s => .val ({ p with spot := .mem a } :: l) s)
          | (t, s) =>
            if buffered then
              (reach who k buffered space ps s).bind (fun l t =>
                .val ({ p with spot := .late (s.raceAddr who p.va) } :: l) t)
            else
              match t with
              | .final cause =>
                .out (.trapIn s cause (BitVec.ofNat 64 (p.va % 2 ^ 60 + (if k = .write then 2 ^ 61 else 0))))
              | _ =>
                -- a final fault of a later piece is reported at once; else the access waits
                match reach who k buffered space ps s with
                | .out (.trapIn s cause v) => .out (.trapIn s cause v)
                | .out (.wait s) | .out (.hold s) => .out (.hold s)
                | .out e => .out e
                | .val _ s => .out (.hold s)

/-- Scratchpad bytes of a convoy, lowest first. -/
def State.padBytes (s : State) (conv off n : Nat) : List Byte := readBytes ((s.convoy? conv).getD default).scratch off n

/-- Change the barrier waits of a consist, those set aside with a trapped context too. -/
def Consist.mapWaits (c : Consist) (f : BarWait → BarWait) : Consist :=
  let g := fun (x : StreamSt) => if x.barWaits = [] then x else { x with barWaits := x.barWaits.map f }
  { c with a := g c.a, c := g c.c, saved := c.saved.map (fun v => { v with a := g v.a, c := g v.c }) }

/-- Change the barrier waits of every consist of a convoy. -/
def State.mapWaits (s : State) (conv : Nat) (f : BarWait → BarWait) : State :=
  match s.convoy? conv with
  | none => s
  | some v => v.members.foldl (fun s k => s.modConsist k (fun c => c.mapWaits f)) s

/-- The waiters of a lost barrier slot learn it (R198). -/
def State.loseWaiters (s : State) (conv slot : Nat) : State :=
  s.mapWaits conv (fun w => if w.slot = slot ∧ w.released.isNone = true then { w with lost := true } else w)

/-- A write of scratchpad bytes unbinds the barrier slots whose words it touches (R198). -/
def State.breakBarriers (s : State) (conv off n : Nat) : State :=
  match s.convoy? conv with
  | none => s
  | some v =>
    let hit := (v.bars.filter (fun b => decide (b.2.word < off + n) && decide (off < b.2.word + 4))).map (fun b => b.1)
    if hit = [] then s else
    hit.foldl (fun s i => s.loseWaiters conv i)
      (s.setConvoy conv { v with bars := v.bars.filter (fun b => !hit.contains b.1) })

/-- Write scratchpad bytes. -/
def State.padWrite (s : State) (conv off : Nat) (bs : List Byte) : State :=
  if bs = [] then s else
  (s.modConvoy conv (fun v => { v with scratch := writeBytes v.scratch off bs })).breakBarriers conv off bs.length

/-- What a piece reads. I/O outside the part answers with a free value (DESIGN CHOICE, assumption log 20). -/
def Piece.read (s : State) (space : Nat) (p : Piece) : Nat :=
  match p.spot with
  | .mem a =>
    if space = 2 ∧ 2 ^ 40 ≤ a then leNat ((List.range p.len).map (fun j => Config.freeByte s.tick (64 * p.lane + p.pos + j)))
    else s.word a p.len
  | .pad conv off => leNat (s.padBytes conv off p.len)
  | .reg block unit off => s.readBytesOf block unit off p.len
  | .late _ => 0

/-- The registers that a piece is about to read have run on (R307, R392). -/
def Piece.sample (s : State) (p : Piece) : State :=
  match p.spot with
  | .reg block unit off => s.sampleBlock block unit off p.len
  | _ => s

/-- Write a piece of a value, for a lane of core `who` or with `none` another agent. An I/O write leaves whole (R184). -/
def Piece.write (s : State) (space : Nat) (p : Piece) (x : Nat) (who : Option Nat := none) : State :=
  match p.spot with
  | .mem a =>
    if space = 2 ∧ 2 ^ 40 ≤ a then
      { s with ioOut := (Config.hostAddress a, p.len, BitVec.ofNat 128 (x % 2 ^ (8 * p.len))) :: s.ioOut }
    else s.writeNat a p.len x who
  | .pad conv off => s.padWrite conv off (leBytes p.len x)
  | .reg block unit off => s.writeBlock block unit off p.len (BitVec.ofNat 64 x)
  | .late _ => s

/-- What a piece touches, as the race detector and synchronisation name it. -/
def Piece.spans (p : Piece) : List Span :=
  match p.spot with
  | .mem a | .late (some a) => spansOf .mem a p.len
  | .pad conv off => spansOf (.pad conv) off p.len
  | _ => []

/-- The granules a piece touches. -/
def Piece.granules (p : Piece) : List Granule := p.spans.map (fun e => e.1)

/-- Does a piece wait for its translation? -/
def Piece.isLate (p : Piece) : Bool := match p.spot with | .late _ => true | _ => false

/-- The granules by which the lanes of one instruction are told apart: of a piece whose translation is not there yet those of
virtual memory too (R191). -/
def Piece.places (sess : Nat) (p : Piece) : List Granule :=
  (if p.isLate then (spansOf (.virt sess) p.va p.len).map (fun e => e.1) else []) ++ p.granules

/-! ## The access instructions -/

/-- What an access instruction does. -/
inductive AccOp where
  | load (signed : Bool)
  | store
  | atomic (f : Nat)
  | cas
  | reduce (f : Nat)
  deriving DecidableEq, Repr

/-- Is it a write for the checks of R177? -/
def AccOp.isWrite : AccOp → Bool
  | .load _ => false
  | _ => true

/-- Does a write that misses translation go to the side log (R196)? -/
def AccOp.buffered : AccOp → Bool
  | .store | .reduce _ => true
  | _ => false

/-- f(m, x) of an atomic or a reduction (R188, R190): 0 add, 1 min, 2 max, 3 unsigned min, 4 and, 5 or, 6 xor,
7 exchange, 8 binary32 add, 9 two BF16 adds. -/
def rmw (f bits m x : Nat) : Nat :=
  let a := BitVec.ofNat bits m
  let b := BitVec.ofNat bits x
  match f with
  | 0 => (a + b).toNat
  | 1 => (if b.toInt < a.toInt then b else a).toNat
  | 2 => (if a.toInt < b.toInt then b else a).toNat
  | 3 => (if b.toNat < a.toNat then b else a).toNat
  | 4 => (a &&& b).toNat
  | 5 => (a ||| b).toNat
  | 6 => (a ^^^ b).toNat
  | 7 => b.toNat
  | 8 => plainAdd .f32 a.toNat b.toNat
  | _ => plainAddBf2 a.toNat b.toNat

/-- What the access writes when memory holds m, with operand x and compare value c; none when it writes nothing. -/
def AccOp.newValue (op : AccOp) (size m x c : Nat) : Option Nat :=
  let q := 2 ^ (8 * size)
  match op with
  | .load _ => none
  | .store => some (x % q)
  | .atomic f | .reduce f => some (rmw f (8 * size) m x)
  | .cas => if m = c % q then some (x % q) else none

/-- The ordering in force: the override of a pending HINT.SCOPE when it is not 0, else the O field (R44, R51). -/
def orderOf (x : Ctx) (o : BitVec 2) : Nat :=
  match x.hints.scope with
  | some (_, ord) => if ord = 0 then o.toNat else ord.toNat
  | none => o.toNat

/-- The scope in force (R192). -/
def scopeOf (x : Ctx) (w : Window) : Nat :=
  match x.hints.scope with
  | some (sc, _) => sc.toNat
  | none => w.scope

/-- Is this ordering not allowed on this access (R51)? -/
def orderBad (op : AccOp) (ord : Nat) : Bool :=
  match op with
  | .store => ord == 1 || ord == 3
  | .load _ => ord == 2 || ord == 3
  | .reduce _ => ord == 3
  | _ => false

/-- An access in progress: its window, operation, size, ordering, scope; its lines are marked streaming (R186, R187). -/
structure AccReq where
  win : Window
  op : AccOp
  size : Nat
  ord : Nat
  scope : Nat
  nt : Bool
  deriving DecidableEq, Repr

/-- The class of R74 that an access of a window is in, as `classThread` numbers them. -/
def Window.cls (w : Window) (op : AccOp) : Nat :=
  let device := decide (w.space = 0)
  match op with
  | .load _ => if device then 0 else 2
  | .store | .reduce _ => if device then 1 else 3
  | .atomic _ | .cas => if device then 4 else 5

/-- What the race detector keeps of a lane's access. -/
def AccReq.record (r : AccReq) (x : Ctx) (s : State) (lane : Nat) (write : Bool) : Access :=
  { thread := classThread (laneThread x.c.uid lane x.st) (r.win.cls r.op), time := s.tick + 1,
    party := x.c.party x.key x.st (some lane), pc := x.pc,
    write := write, sync := (match r.op with | .load _ | .store => r.ord != 0 | _ => true), scope := r.scope,
    moved := false }

/-- Is the access checked (R67)? None from a line core is (R304). -/
def AccReq.checked (r : AccReq) (x : Ctx) : Bool := r.win.chk && !isLine x.key

/-- Where the lines of a piece of an access may be kept (R181, R184, R185): a stash binding of the convoy covers every
access to it. -/
def AccReq.keep (r : AccReq) (x : Ctx) (s : State) (p : Piece) : Keep :=
  match (s.convoyOf x.c).binds.find? (fun b => b.2.kib != 0 && decide (b.2.va ≤ p.va) && decide (p.va < b.2.va + 1024 * b.2.kib)) with
  | some b => .stash x.c.convoy b.1
  | none =>
    if r.win.kind = .priv then .l1 (some x.key)
    else if r.win.space = 0 ∧ r.win.pol = 0 ∧ r.nt = false then .l1 none
    else .no

/-- The lines that the pieces of a lane's access use (R184). -/
def AccReq.lines (r : AccReq) (x : Ctx) (ps : List Piece) (wrote : Bool) (s : State) : State :=
  ps.foldl (fun s p => match p.spot with
    | .mem a => if a < 2 ^ 40 then s.useLines (coreOf x.key) a p.len (r.keep x s p) wrote else s
    | _ => s) s

/-- A lane's access: race check, read, write, synchronisation (R63, R67, R73, R191). It gives the value read, or the
other party of a race. A piece that waits for its translation writes nothing yet; `late` holds what the lanes before have
kept of theirs, with this lane's added. -/
def AccReq.lane (r : AccReq) (x : Ctx) (s : State) (lane operand compare : Nat) (ps : List Piece)
    (late : List (Granule × Access)) : Except Access (Nat × State × List (Granule × Access)) :=
  let s := ps.foldl Piece.sample s
  let m := match r.op with
    | .store => 0
    | _ => ps.foldl (fun n p => n + p.read s r.win.space * 2 ^ (8 * p.pos)) 0
  let new := r.op.newValue r.size m operand compare
  let me := r.record x s lane new.isSome
  let thread := threadOf me.thread
  let gs := ps.flatMap (Piece.places x.c.sess)
  let now := (ps.filter (fun p => !p.isLate)).flatMap Piece.spans
  let clk := s.knows me.thread
  let other := if r.checked x then
      (s.raceAt me gs).orElse (fun _ => (late.find? (fun e => gs.contains e.1 && races clk e.2 me)).map (fun e => e.2))
    else none
  match other with
  | some other => .error other
  | none =>
    let s := if r.checked x then s.serialise me (now.map (fun e => e.1)) else s
    let late := ((ps.filter Piece.isLate).flatMap (Piece.places x.c.sess)).map (fun g => (g, me)) ++ late
    let acq := match r.op with | .load _ | .atomic _ | .cas => r.ord % 2 == 1 | _ => false
    let s := if acq then s.acquireAt thread r.scope me.party now else s
    let s := r.lines x ps new.isSome s
    match new with
    | none => .ok (m, s, late)
    | some v =>
      let s := ps.foldl (fun s p => p.write s r.win.space (v / 2 ^ (8 * p.pos)) (some (coreOf x.key))) s
      let rel := if 2 ≤ r.ord then some (s.release thread r.scope me.party) else none
      let atomic := match r.op with | .store => false | _ => true
      .ok (m, s.noteWrite atomic rel now, late)

/-- The accesses of the lanes, one after another in ascending order (R191): the values read, or the first race. -/
def AccReq.lanes (r : AccReq) (x : Ctx) (operand compare : Nat → Nat) (pieces : List Piece) (late : List (Granule × Access)) :
    List Nat → State → Except Access (List (Nat × Nat) × State)
  | [], s => .ok ([], s)
  | l :: ls, s =>
    match r.lane x s l (operand l) (compare l) (pieces.filter (fun p => p.lane == l)) late with
    | .error o => .error o
    | .ok (m, s, late) =>
      match r.lanes x operand compare pieces late ls s with
      | .error o => .error o
      | .ok (l', s) => .ok ((l, m) :: l', s)

/-- The first piece whose line cannot be read (R387, R388). -/
def badLine (s : State) (pieces : List Piece) : LineState :=
  match pieces.find? (fun p => match p.spot with
      | .mem a => decide (a < 2 ^ 40) && s.lineState a p.len != .good
      | _ => false) with
  | some p => match p.spot with
    | .mem a => s.lineState a p.len
    | _ => .good
  | none => .good

/-- The pieces have been read: what their reads met is corrected (R386). -/
def correctPieces (s : State) (pieces : List Piece) (who : Option Nat := none) : State :=
  pieces.foldl (fun s p => match p.spot with
    | .mem a => if a < 2 ^ 40 then s.readDone a p.len who else s
    | _ => s) s

/-- The end of a session whose consist read a lost line (R389). -/
def consumePoison (x : Ctx) (bad : LineState) (s : State) : Eff :=
  .stop (s.readBad bad (consistAgent x.key) x.c.sess (fun v =>
    some (consistAgent x.key, { trapc := trapcOf .poison false x.st x.run, trapv := v, trappc := x.c.trapPc x.st (lowest x.run) x.pc })))

/-- The side-log entries of an instruction: one for each page that its late writes touch (R196). -/
def AccReq.logEntries (r : AccReq) (x : Ctx) (s : State) (operand : Nat → Nat) (pieces : List Piece) : List SideLog :=
  let late := pieces.filter Piece.isLate
  let pages := (late.map (fun p => p.va / 4096)).eraseDups
  let red := match r.op with | .reduce f => some f | _ => none
  pages.map (fun g =>
    { consist := x.key, handler := x.c.saved.isSome, sess := x.c.sess, level := x.c.level, page := g, id := s.nextUid,
      writes := (late.filter (fun p => p.va / 4096 == g)).map (fun p =>
        let me := r.record x s p.lane true
        { va := p.va, space := r.win.space, red := red, size := p.len, data := operand p.lane / 2 ^ (8 * p.pos) % 2 ^ (8 * p.len),
          access := if r.checked x then some me else none,
          rel := if 2 ≤ r.ord then some (s.release (threadOf me.thread) r.scope me.party) else none }) })

/-- Has every launched lane left both streams (R102, R182)? -/
def Consist.allGone (c : Consist) : Bool := decide (c.lmask &&& ~~~c.fmask &&& ~~~(c.a.exited &&& c.c.exited) = 0)

/-- After lanes have left: the queue entries of lanes gone from both streams are discarded (R87), and a consist whose
lanes all have drains (R102). -/
def Consist.afterExit (c : Consist) : Consist :=
  let gone := lanesOf ((c.a.exited &&& c.c.exited) ||| c.fmask)
  let clear := fun (t : Table (List QEntry)) => gone.foldl (fun t l => tdel l t) t
  { c with lq := clear c.lq, xqAC := clear c.xqAC, xqCA := clear c.xqCA, sq := clear c.sq,
           status := if c.status = Status.running ∧ c.allGone = true then .draining else c.status }

/-- Lanes switched off by a scratchpad access out of range count as exited in both streams (R182). -/
def Consist.switchOff (c : Consist) (off : Lanes) : Consist :=
  if off = 0 then c else { c with fmask := c.fmask ||| off }.afterExit

/-- Read a handle-table entry of a consist that its convoy has not kept (R176): a supervisor read through h0, which waits for
a logged write of it (R69). `lost` is what a line that cannot be read does. -/
def readEntry (who : Asker) (lost : LineState → State → Eff) (c : Consist) (h : Nat) (s : State) : Got (BitVec 256) :=
  let va := c.htbl.toNat + 32 * (h - 4)
  if 2 ^ 60 < va + 32 ∨ c.touchesRegion va 32 = true then .out (.trap .bounds (boundsValue 0 va))
  else
    match s.translate { who with level := max who.level 1 } .read va with
    | (.to a, s) =>
      if s.inLog (some (c.sess, va)) (some a) 32 then .out (.wait s)
      else match s.lineState a 32 with
      | .good =>
        let e := BitVec.ofNat 256 (s.word a 32)
        .val e ((s.readDone a 32 who.core).modConvoy c.convoy (fun v => { v with handles := tset v.handles h (some e) }))
      | bad => .out (lost bad s)
    | (.final cause, s) => .out (.trapIn s cause (BitVec.ofNat 64 (va % 2 ^ 60)))
    | (_, s) => .out (.hold s)

/-- The window of a handle of a consist (R174, R176), or BOUNDS with reason 1 for an invalid entry, with the offending
offset. -/
def windowBy (who : Asker) (lost : LineState → State → Eff) (c : Consist) (h : Nat) (off : Nat) (s : State) : Got Window :=
  if h < 4 then .val (fixedWindow s c h) s
  else
    let kept := tget (s.convoyOf c).handles h
    let e : Got (BitVec 256) := match kept with
      | some e => .val e s
      | none => readEntry who lost c h s
    e.bind (fun e s =>
      match entryWindow e with
      | some w => .val w s
      | none => .out (.trapIn s .bounds (boundsValue 1 off)))

/-- The window of a handle for an instruction. -/
def windowOf (x : Ctx) (h : Nat) (off : Nat) (s : State) : Got Window :=
  windowBy (x.c.asker x.key x.st) (consumePoison x) x.c h off s

/-- The pieces of the lanes' accesses before translation; a lane out of range of a scratchpad has none. -/
def startPieces (w : Window) (x : Ctx) (s : State) (size : Nat) (off : Nat → Nat) (ls : List Nat) : List Piece :=
  ls.flatMap (fun l =>
    match w.kind with
    | .pad | .train =>
      match w.inPad s x.c (off l) size with
      | some (conv, o) => [{ lane := l, pos := 0, va := 0, len := size, spot := .pad conv o }]
      | none => []
    | _ => (w.vas x.c l (off l) size).map (fun p =>
        { lane := l, pos := p.1, va := p.2.1, len := p.2.2, spot := .late none }))

/-- Is the window one whose lanes are switched off when out of range (R182)? -/
def Window.switches (w : Window) : Bool := w.kind == .pad || w.kind == .train

/-- Entry, alignment and range of an access (R177 steps 1 to 3): the window, or the trap. -/
def checkAccess (x : Ctx) (h : Nat) (write : Bool) (size : Nat) (off : Nat → Nat) (ls : List Nat) (s : State) :
    Got Window :=
  (windowOf x h (off (ls.headD 0)) s).bind (fun w s =>
    if write && !w.wr then .out (.trapIn s .bounds (boundsValue 2 (off (ls.headD 0))))
    else
      match ls.find? (fun l => off l % size != 0) with
      | some l => .out (.trapIn s .align (boundsValue 0 (off l)))
      | none =>
        match ls.findSome? (fun l => w.outside x.c l (off l) size) with
        | some (cause, v) => .out (.trapIn s cause v)
        | none => .val w s)

/-- The offset of a lane's access (R193). -/
def offOf (x : Ctx) (a : BitVec 7) (lane : Nat) : Nat := (opVal x a false 0 0 lane).toNat

/-- The value V supplies to a store, atomic, CAS or reduction of this size (R187, R188, R190). -/
def dataOf (x : Ctx) (v : BitVec 7) (size lane : Nat) : Nat :=
  match codeOf x.st v with
  | .sq => leNat (((x.c.queueOf .sq lane).take ((size + 3) / 4)).flatMap (fun e => leBytes 4 e.val.toNat))
  | _ =>
    let lo := (opVal x v false 0 (kInt x) lane).toNat
    if size = 16 then lo + 2 ^ 64 * (opVal x (v + 1) false 0 0 lane).toNat else lo

/-- The words a load or atomic gives V for a value read (R186, R188). -/
def deliverWords (op : AccOp) (size : Nat) (toQueue : Bool) (m : Nat) : List Word :=
  let v : Nat := match op with
    | .load true => if toQueue then ((BitVec.ofNat (8 * size) m).signExtend 32).toNat
      else ((BitVec.ofNat (8 * size) m).signExtend 64).toNat
    | _ => m
  let n := if toQueue then (size + 3) / 4 else if size = 16 then 4 else 2
  (List.range n).map (fun j => BitVec.ofNat 32 (v / 2 ^ (32 * j)))

/-- Put the results of an access on their way to V (R85, R186, R188, R189); each is there when its data return. -/
def deliverAccess (x : Ctx) (v : BitVec 7) (op : AccOp) (size : Nat) (got : List (Nat × Nat)) (s : State) : State :=
  let q := writeQueue x.st (codeOf x.st v)
  let dest : Dest := match q with
    | some _ => .queue v true s.nextUid
    | none => .reg v (size == 16) true
  let s := s.modConsist x.key (fun c => got.foldl (fun (c : Consist) e =>
    let ws := deliverWords op size q.isSome e.2
    let c := match q with
      | some q => ws.foldl (fun (c : Consist) _ =>
          c.push q e.1 { val := 0, filled := false, id := s.nextUid, clk := default }) c
      | none => c
    { c with inflight := c.inflight ++ [{ kind := .load, strm := x.st, lane := e.1, dest := dest, vals := ws,
                                          clk := s.known (laneThread c.uid e.1 x.st) }] }) c)
  { s with nextUid := s.nextUid + 1 }

/-- The body of an instruction of majors 0x40 to 0x45 (R177, R186 to R193, R195, R196). -/
def accessBody (op : AccOp) (size : Nat) (nt : Bool) (v a : BitVec 7) (h : BitVec 6) (o : BitVec 2) (x : Ctx) (s : State) :
    Eff :=
  let act := lanesOf x.act
  let helper := fun l => op.isWrite && x.c.hmask.getLsbD l
  let ls := act.filter (fun l => !helper l)
  let helped := match op with
    | .atomic _ | .cas => (act.filter helper).map (fun l => (l, 0))
    | _ => []
  let off := offOf x a
  let operand := dataOf x v size
  let compare := fun l => (opVal x 0x70 false 0 0 l).toNat
  let finishUp := fun (got : List (Nat × Nat)) (s : State) =>
    match op with
    | .store | .reduce _ => s
    | _ => if got ++ helped = [] then s else deliverAccess x v op size (got ++ helped) s
  if ls = [] then .ok (finishUp [] s)
  else
    (checkAccess x h.toNat op.isWrite size off ls s).andThen (fun w s =>
      let r : AccReq := { win := w, op := op, size := size, ord := orderOf x o, scope := scopeOf x w, nt := nt }
      let buffered := op.buffered && w.space != 2
      if decide (2 ≤ r.ord) && s.logged x.key then .wait s
      else
        let pieces := startPieces w x s size off ls
        let going := ls.filter (fun l => pieces.any (fun p => p.lane == l))
        let switched := maskWhere (fun l => ls.contains l && !going.contains l)
        let asker := x.c.asker x.key x.st
        let who := if buffered then { asker with waiter := .logged s.nextUid } else asker
        (reach who (if op.isWrite then .write else .read) buffered w.space pieces s).andThen (fun pieces s =>
          match r.lanes x operand compare pieces [] going s with
          | .error other => .trapIn s .mmx (mmxValue other)
          | .ok (got, t) =>
            let reads := match op with | .store => [] | _ => pieces
            match badLine s reads with
            | .good =>
              let entries := r.logEntries x s operand pieces
              let core := coreOf x.key
              let log := (s.core core).log
              if entries ≠ [] ∧ 64 < log.length + entries.length then .hold s
              else
                let t := correctPieces t reads (some core)
                let co := t.core core
                let t := if entries = [] then t
                  else
                  { (t.setCore core { co with log := co.log ++ entries }) with nextUid := t.nextUid + 1 }
                .ok ((finishUp got t).modConsist x.key (fun c => c.switchOff switched))
            | bad => consumePoison x bad s))

/-- The operand fields of an access: A, V, and b0 for CAS. -/
def accessInfo (op : AccOp) (size : Nat) (v a : BitVec 7) (o : BitVec 2) (s : State) : OpInfo :=
  let uv : Use := match op with
    | .load _ => .load size
    | .atomic _ | .cas => .atomic
    | .store | .reduce _ => .store size
  { uses := [(1, v, uv), (2, a, .offset)] ++ (if op = .cas then [(4, 0x70, .src false false)] else []),
    illop := match findCtx s with
      | some x => orderBad op (orderOf x o)
      | none => false }

/-- An access instruction. -/
def access (maj : BitVec 7) (fn : BitVec 3) (op : AccOp) (size : Nat) (v a : BitVec 7) (h : BitVec 6) (o : BitVec 2)
    (s : State) : Out :=
  let nt := (maj == 0x40 && fn == 7) || (maj == 0x41 && fn == 5)
  issue (packMem maj v a h o fn) (accessInfo op size v a o s) (accessBody op size nt v a h o) s

/-! ### Major 0x40 (R186) -/

/-- LD8 (R186). -/
def execLd8 (v a : BitVec 7) (h : BitVec 6) (o : BitVec 2) (s : State) : Out := access 0x40 0 (.load false) 1 v a h o s
/-- LD8S (R186). -/
def execLd8s (v a : BitVec 7) (h : BitVec 6) (o : BitVec 2) (s : State) : Out := access 0x40 1 (.load true) 1 v a h o s
/-- LD16 (R186). -/
def execLd16 (v a : BitVec 7) (h : BitVec 6) (o : BitVec 2) (s : State) : Out := access 0x40 2 (.load false) 2 v a h o s
/-- LD16S (R186). -/
def execLd16s (v a : BitVec 7) (h : BitVec 6) (o : BitVec 2) (s : State) : Out := access 0x40 3 (.load true) 2 v a h o s
/-- LD32 (R186). -/
def execLd32 (v a : BitVec 7) (h : BitVec 6) (o : BitVec 2) (s : State) : Out := access 0x40 4 (.load false) 4 v a h o s
/-- LD64 (R186). -/
def execLd64 (v a : BitVec 7) (h : BitVec 6) (o : BitVec 2) (s : State) : Out := access 0x40 5 (.load false) 8 v a h o s
/-- LD128 (R186). -/
def execLd128 (v a : BitVec 7) (h : BitVec 6) (o : BitVec 2) (s : State) : Out := access 0x40 6 (.load false) 16 v a h o s
/-- LDNT (R186): LD128 with its lines marked streaming. -/
def execLdnt (v a : BitVec 7) (h : BitVec 6) (o : BitVec 2) (s : State) : Out := access 0x40 7 (.load false) 16 v a h o s

/-! ### Major 0x41 (R187) -/

/-- ST8 (R187). -/
def execSt8 (v a : BitVec 7) (h : BitVec 6) (o : BitVec 2) (s : State) : Out := access 0x41 0 .store 1 v a h o s
/-- ST16 (R187). -/
def execSt16 (v a : BitVec 7) (h : BitVec 6) (o : BitVec 2) (s : State) : Out := access 0x41 1 .store 2 v a h o s
/-- ST32 (R187). -/
def execSt32 (v a : BitVec 7) (h : BitVec 6) (o : BitVec 2) (s : State) : Out := access 0x41 2 .store 4 v a h o s
/-- ST64 (R187). -/
def execSt64 (v a : BitVec 7) (h : BitVec 6) (o : BitVec 2) (s : State) : Out := access 0x41 3 .store 8 v a h o s
/-- ST128 (R187). -/
def execSt128 (v a : BitVec 7) (h : BitVec 6) (o : BitVec 2) (s : State) : Out := access 0x41 4 .store 16 v a h o s
/-- STNT (R187): ST128 with its lines marked streaming. -/
def execStnt (v a : BitVec 7) (h : BitVec 6) (o : BitVec 2) (s : State) : Out := access 0x41 5 .store 16 v a h o s

/-! ### Majors 0x42, 0x43 (R188) -/

/-- AADD (R188). -/
def execAadd (v a : BitVec 7) (h : BitVec 6) (o : BitVec 2) (s : State) : Out := access 0x42 0 (.atomic 0) 4 v a h o s
/-- AMIN (R188). -/
def execAmin (v a : BitVec 7) (h : BitVec 6) (o : BitVec 2) (s : State) : Out := access 0x42 1 (.atomic 1) 4 v a h o s
/-- AMAX (R188). -/
def execAmax (v a : BitVec 7) (h : BitVec 6) (o : BitVec 2) (s : State) : Out := access 0x42 2 (.atomic 2) 4 v a h o s
/-- AUMIN (R188). -/
def execAumin (v a : BitVec 7) (h : BitVec 6) (o : BitVec 2) (s : State) : Out := access 0x42 3 (.atomic 3) 4 v a h o s
/-- AAND (R188). -/
def execAand (v a : BitVec 7) (h : BitVec 6) (o : BitVec 2) (s : State) : Out := access 0x42 4 (.atomic 4) 4 v a h o s
/-- AOR (R188). -/
def execAor (v a : BitVec 7) (h : BitVec 6) (o : BitVec 2) (s : State) : Out := access 0x42 5 (.atomic 5) 4 v a h o s
/-- AXOR (R188). -/
def execAxor (v a : BitVec 7) (h : BitVec 6) (o : BitVec 2) (s : State) : Out := access 0x42 6 (.atomic 6) 4 v a h o s
/-- AXCH (R188). -/
def execAxch (v a : BitVec 7) (h : BitVec 6) (o : BitVec 2) (s : State) : Out := access 0x42 7 (.atomic 7) 4 v a h o s
/-- AADD64 (R188). -/
def execAadd64 (v a : BitVec 7) (h : BitVec 6) (o : BitVec 2) (s : State) : Out := access 0x43 0 (.atomic 0) 8 v a h o s
/-- AMIN64 (R188). -/
def execAmin64 (v a : BitVec 7) (h : BitVec 6) (o : BitVec 2) (s : State) : Out := access 0x43 1 (.atomic 1) 8 v a h o s
/-- AMAX64 (R188). -/
def execAmax64 (v a : BitVec 7) (h : BitVec 6) (o : BitVec 2) (s : State) : Out := access 0x43 2 (.atomic 2) 8 v a h o s
/-- AAND64 (R188). -/
def execAand64 (v a : BitVec 7) (h : BitVec 6) (o : BitVec 2) (s : State) : Out := access 0x43 3 (.atomic 4) 8 v a h o s
/-- AOR64 (R188). -/
def execAor64 (v a : BitVec 7) (h : BitVec 6) (o : BitVec 2) (s : State) : Out := access 0x43 4 (.atomic 5) 8 v a h o s
/-- AXOR64 (R188). -/
def execAxor64 (v a : BitVec 7) (h : BitVec 6) (o : BitVec 2) (s : State) : Out := access 0x43 5 (.atomic 6) 8 v a h o s
/-- AXCH64 (R188). -/
def execAxch64 (v a : BitVec 7) (h : BitVec 6) (o : BitVec 2) (s : State) : Out := access 0x43 6 (.atomic 7) 8 v a h o s
/-- AFADD (R188). -/
def execAfadd (v a : BitVec 7) (h : BitVec 6) (o : BitVec 2) (s : State) : Out := access 0x43 7 (.atomic 8) 4 v a h o s

/-! ### Major 0x44 (R189) -/

/-- CAS32 (R189). -/
def execCas32 (v a : BitVec 7) (h : BitVec 6) (o : BitVec 2) (s : State) : Out := access 0x44 0 .cas 4 v a h o s
/-- CAS64 (R189). -/
def execCas64 (v a : BitVec 7) (h : BitVec 6) (o : BitVec 2) (s : State) : Out := access 0x44 1 .cas 8 v a h o s

/-! ### Major 0x45 (R190) -/

/-- REDADD (R190). -/
def execRedadd (v a : BitVec 7) (h : BitVec 6) (o : BitVec 2) (s : State) : Out := access 0x45 0 (.reduce 0) 4 v a h o s
/-- REDMIN (R190). -/
def execRedmin (v a : BitVec 7) (h : BitVec 6) (o : BitVec 2) (s : State) : Out := access 0x45 1 (.reduce 1) 4 v a h o s
/-- REDMAX (R190). -/
def execRedmax (v a : BitVec 7) (h : BitVec 6) (o : BitVec 2) (s : State) : Out := access 0x45 2 (.reduce 2) 4 v a h o s
/-- REDAND (R190). -/
def execRedand (v a : BitVec 7) (h : BitVec 6) (o : BitVec 2) (s : State) : Out := access 0x45 3 (.reduce 4) 4 v a h o s
/-- REDOR (R190). -/
def execRedor (v a : BitVec 7) (h : BitVec 6) (o : BitVec 2) (s : State) : Out := access 0x45 4 (.reduce 5) 4 v a h o s
/-- REDXOR (R190). -/
def execRedxor (v a : BitVec 7) (h : BitVec 6) (o : BitVec 2) (s : State) : Out := access 0x45 5 (.reduce 6) 4 v a h o s
/-- REDFADD (R190). -/
def execRedfadd (v a : BitVec 7) (h : BitVec 6) (o : BitVec 2) (s : State) : Out := access 0x45 6 (.reduce 8) 4 v a h o s
/-- REDBFADD (R190). -/
def execRedbfadd (v a : BitVec 7) (h : BitVec 6) (o : BitVec 2) (s : State) : Out := access 0x45 7 (.reduce 9) 4 v a h o s

/-! ## Major 0x46 (R194) -/

/-- Do two ranges overlap? -/
def overlaps (a n b m : Nat) : Bool := decide (a < b + m) && decide (b < a + n)

/-- SBIND (R194). -/
def execSbind (v a : BitVec 7) (h : BitVec 6) (s : State) : Out :=
  issue (packMem 0x46 v a h 0 0)
    { uses := [(1, v, .src false true), (2, a, .offset)], uniform := true }
    (fun x s =>
      match lanesOf x.act with
      | [] => .ok s
      | m :: _ =>
        let desc := (src1 x v m).toNat
        let off := offOf x a m
        let len := bitsOf desc 23 16
        let start := bitsOf desc 15 8
        let slot := desc % 8
        let n := 1024 * len
        if h = 1 ∨ h = 2 ∨ h = 3 then .trap .bounds (boundsValue 3 desc)
        else
          (windowOf x h.toNat off s).andThen (fun w s =>
            let cv := s.convoyOf x.c
            let va := w.base + off
            let others := cv.binds.filter (fun b => b.1 != slot && b.2.kib != 0)
            let clash := others.any (fun b => overlaps b.2.start b.2.kib start len || overlaps b.2.va (1024 * b.2.kib) va n)
            if desc / 2 ^ 24 ≠ 0 ∨ bitsOf desc 7 3 ≠ 0 ∨ len = 0 ∨ cv.stashKib < start + len ∨ off % 1024 ≠ 0
                ∨ w.bound < off + n ∨ clash = true then .trapIn s .bounds (boundsValue 3 desc)
            else
              match w.outside x.c m off n with
              | some (cause, tv) => .trapIn s cause tv
              | none =>
                let s := s.flushLines (coreOf x.key) (fun c => c.inStash x.c.convoy (some slot)) true
                .ok (s.modConvoy x.c.convoy (fun y =>
                  { y with binds := tset y.binds slot { start := start, kib := len, va := va } })))) s

/-- SFLUSH (R194): the slot's dirty lines are written back. -/
def execSflush (v : BitVec 7) (s : State) : Out :=
  issue (packMem 0x46 v 0x78 0 0 1) { uses := [(1, v, .src false true)], uniform := true }
    (fun x s =>
      match lanesOf x.act with
      | [] => .ok s
      | m :: _ =>
        let slot := (src1 x v m).toNat % 8
        .ok (s.flushLines (coreOf x.key) (fun c => c.inStash x.c.convoy (some slot)) false)) s

/-- SDROP (R194): the slot's dirty lines are written back, and its binding is released. -/
def execSdrop (v : BitVec 7) (s : State) : Out :=
  issue (packMem 0x46 v 0x78 0 0 2) { uses := [(1, v, .src false true)], uniform := true }
    (fun x s =>
      match lanesOf x.act with
      | [] => .ok s
      | m :: _ =>
        let slot := (src1 x v m).toNat % 8
        let s := s.flushLines (coreOf x.key) (fun c => c.inStash x.c.convoy (some slot)) true
        .ok (s.modConvoy x.c.convoy (fun y => { y with binds := tdel slot y.binds }))) s

/-- The piece that a lane's prefetch reads, where every check of R177 passes at once; none where it would fail or wait. -/
def prefetchPiece (w : Window) (x : Ctx) (s : State) (off : Nat → Nat) (lane : Nat) : Option (Piece × Nat × State) :=
  if (w.outside x.c lane (off lane) 1).isSome then none
  else match startPieces w x s 1 off [lane] with
    | [p] =>
      if p.spot ≠ .late none ∨ s.inLog (some (x.c.sess, p.va)) none 1 = true ∨ w.space = 2 ∨ s.breaking x.c.sess p.va = true
          ∨ s.walksHeld x.c.sess (consistAgent x.key) = true then none
      else match s.lookup (x.c.asker x.key x.st) p.va with
        | (.fill e, s) => (match e.resolve x.c.level .read p.va with
          | .to a => if s.barred (consistAgent x.key) a = true ∨ s.inLog (some (x.c.sess, p.va)) (some a) 1 = true
              ∨ 2 ^ 40 ≤ a ∨ s.lineState a 1 ≠ .good then none else some (p, a, s)
          | _ => none)
        | _ => none
    | _ => none

/-- PREF (R194): each lane's line comes into L1, or into the stash if bound; it never traps, and one that would fail a check
of R177, or wait, is dropped, that of the handle entry too (R176). -/
def execPref (a : BitVec 7) (h : BitVec 6) (s : State) : Out :=
  issue (packMem 0x46 0x78 a h 0 3) { uses := [(2, a, .offset)] }
    (fun x s =>
      match windowOf x h.toNat 0 s with
      | .out _ => .ok s
      | .val w t =>
        let r : AccReq := { win := w, op := .load false, size := 1, ord := 0, scope := w.scope, nt := false }
        .ok ((lanesOf x.act).foldl (fun s l =>
          match prefetchPiece w x s (offOf x a) l with
          | none => s
          | some (p, m, s) =>
            let keep := match r.keep x s p with | .no => .l1 none | k => k
            (s.useLines (coreOf x.key) m 1 keep false).readDone m 1 (some (coreOf x.key))) (if x.act = 0 then s else t))) s

/-- CFLUSH (R194): the checks of R177 as a load of one byte makes them; each line is written back, and L1's copy dropped. -/
def execCflush (a : BitVec 7) (h : BitVec 6) (s : State) : Out :=
  issue (packMem 0x46 0x78 a h 0 4) { uses := [(2, a, .offset)] }
    (fun x s =>
      match lanesOf x.act with
      | [] => .ok s
      | l :: ls =>
        (checkAccess x h.toNat false 1 (offOf x a) (l :: ls) s).andThen (fun w s =>
          let pieces := startPieces w x s 1 (offOf x a) (l :: ls)
          let switched := maskWhere (fun j => (l :: ls).contains j && !pieces.any (fun p => p.lane == j))
          (reach (x.c.asker x.key x.st) .read false w.space pieces s).andThen (fun ps s =>
            let core := coreOf x.key
            let s := ps.foldl (fun (s : State) p => match p.spot with
              | .mem m =>
                (match tget (tget s.lines core) (m / 128) with
                 | none => s
                 | some c =>
                   let t := s.evictLine core (m / 128)
                   if c.stash.isNone then t
                   else t.setLines core (tset (tget t.lines core) (m / 128) (some { c with dirty := false })))
              | _ => s) s
            .ok (s.modConsist x.key (fun c => c.switchOff switched))))) s

/-! ## Events -/

/-- The asker of a side-log entry's replay: it acts for the lane (R179). -/
def SideLog.asker (e : SideLog) : Asker :=
  { core := some (coreOf e.consist), sess := e.sess, level := e.level, agent := consistAgent e.consist,
    waiter := .logged e.id }

/-- Translate the writes of a side-log entry: all of them, or the first final fault, or it waits. -/
def SideLog.resolve (e : SideLog) : List LogWrite → State → Got (List (Nat × LogWrite))
  | [], s => .val [] s
  | w :: ws, s =>
    match s.translate e.asker .write w.va with
    | (.to a, s) => (e.resolve ws s).bind (fun l s => .val ((a, w) :: l) s)
    | (.final cause, s) =>
      let first := (e.writes.headD w).va
      .out (.trapIn s cause (BitVec.ofNat 64 (first % 2 ^ 60 + 2 ^ 61 + 2 ^ 62)))
    | (_, s) => .out (.wait s)

/-- Perform a logged write at its machine address, for a lane of a core (R69, R196). -/
def performLogged (s : State) (core a : Nat) (w : LogWrite) : State :=
  let v := match w.red with
    | some f => rmw f (8 * w.size) (s.word a w.size) w.data
    | none => w.data
  let sp := spansOf .mem a w.size
  let s := s.writeNat a w.size v (some core)
  let s := match w.access with
    | some me => s.serialise me (sp.map (fun (e : Span) => e.1))
    | none => s
  s.noteWrite w.red.isSome w.rel sp

/-- SIDE_LOG_REPLAY (R196): the oldest entry of a core is performed once its page resolves, or discarded with an
asynchronous PAGE or PROT for its consist. -/
def execSideLogReplay (core : Nat) (s : State) : Out :=
  match (s.core core).log with
  | [] => .next s.bump
  | e :: _ =>
    let pop := fun (s : State) => let co := s.core core; s.setCore core { co with log := co.log.drop 1 }
    match e.resolve e.writes s with
    | .val l s => .next (pop (l.foldl (fun s p => performLogged s core p.1 p.2) s)).bump
    | .out (.trapIn s cause v) =>
      .next ((pop s).modConsist e.consist (fun c => c.giveFault cause v 0 (c.holds .a && !e.handler))).bump
    | .out (.wait s) => .next s.bump
    | .out _ => .next s.bump

/-- LOAD_DATA_RETURN (R85): the oldest load of a lane returns, `n` before it having none to wait for: the n-th load in
flight of the lane lands. -/
def execLoadDataReturn (consist lane n : Nat) (s : State) : Out :=
  .next (s.modConsist consist (fun c =>
    match (c.inflight.filter (fun f => f.kind == .load && f.lane == lane))[n]? with
    | some f => { c.land f with inflight := c.inflight.erase f }
    | none => c)).bump

/-- VARIABLE_LATENCY_COMPLETE (R138): the n-th variable-latency result in flight is written, and its readers go on. -/
def execVariableLatencyComplete (consist n : Nat) (s : State) : Out :=
  .next (s.modConsist consist (fun c =>
    match (c.inflight.filter (fun f => f.kind == .variable))[n]? with
    | some f => { c.land f with inflight := c.inflight.erase f }
    | none => c)).bump

end Sys2Proof.Machine
end

