-- ==== Sys2Proof/Machine/Control.lean ====
section
/-!
DEFINITION. Majors 0x30 to 0x37 and 0x60: branches, calls and the return stack (R98 to R101), EXIT, YIELD and NOP, the
special registers (R107, R108) and the system instructions (R109); and the events of a core's own: QLOCK_DETECT,
RUN_DEFERRAL, REGISTER_TIER_MOVE, REGISTER_TIER_RECALL and ASYNC_TRAP_DELIVERY.
-/

namespace Sys2Proof.Machine

open Sys2Proof

/-- Change the stream of a context's consist. -/
def State.modStrm (s : State) (x : Ctx) (f : StreamSt → StreamSt) : State :=
  s.modConsist x.key (fun c => c.setStrm x.st (f (c.strm x.st)))

/-! ## The return stack (R98) -/

/-- Word of the private block that holds spilled entry `j` of a stream; none where the block has no such word. -/
def spillWord (c : Consist) (st : Strm) (j : Nat) : Option Nat :=
  let back := 2 * j + (match st with | .a => 1 | .c => 2)
  if back ≤ c.privWords then some (c.privWords - back) else none

/-- The word a push of a lane spills to: `some none` when it spills nothing, none when the spill would lie below
STKLIM. -/
def pushSpill (x : Ctx) (lane : Nat) : Option (Option Nat) :=
  let sx := x.c.strm x.st
  if (tget sx.rets lane).length < 8 then some none
  else match spillWord x.c x.st (tget sx.spilled lane) with
    | some w => if w < x.c.stklim.toNat then none else some (some w)
    | none => none

/-- Pieces of private memory for words of lanes, translated as a blocking access is (R195). -/
def privWordsAt (x : Ctx) (k : AccKind) (ws : List (Nat × Nat)) (s : State) : Got (List Piece) :=
  reach (x.c.asker x.key x.st) k false 0
    (ws.map (fun e => { lane := e.1, pos := 0, va := x.c.privVa e.1 (4 * e.2), len := 4, spot := .late none })) s

/-- A piece of the consist's private words is read or written through L1 (R181). -/
def Piece.usePriv (p : Piece) (x : Ctx) (s : State) (wrote : Bool) : State :=
  match p.spot with
  | .mem a => s.useLines (coreOf x.key) a p.len (.l1 (some x.key)) wrote
  | _ => s

/-- Push a return address for lanes, with the spills; RSTACK with TRAPV[0] = 0 when one does not fit (R98). -/
def pushReturn (x : Ctx) (ls : List Nat) (s : State) : Got Unit :=
  if ls.any (fun l => (pushSpill x l).isNone) then .out (.trap .rstack 0)
  else
    let sx := x.c.strm x.st
    let spills := ls.filterMap (fun l => match pushSpill x l with | some (some w) => some (l, w) | _ => none)
    (privWordsAt x .write spills s).bind (fun ps s =>
      let core := coreOf x.key
      let s := ps.foldl (fun s p =>
        p.write (p.usePriv x s true) 0 (((tget sx.rets p.lane).getLast?.getD 0).toNat) (some core)) s
      .val () (s.modStrm x (fun sx =>
        { sx with rets := setLanes sx.rets ls (fun l => (x.pc + 4) :: (tget sx.rets l).take 7),
                  spilled := setLanes sx.spilled (spills.map (fun e => e.1)) (fun l => tget sx.spilled l + 1) })))

/-- The word a lane's pop reloads when its core entries are empty. -/
def popSpill (x : Ctx) (lane : Nat) : Option Nat :=
  let sx := x.c.strm x.st
  if tget sx.rets lane = [] ∧ tget sx.spilled lane ≠ 0 then spillWord x.c x.st (tget sx.spilled lane - 1) else none

/-- Has a lane an entry to pop? -/
def canPop (x : Ctx) (lane : Nat) : Bool :=
  let sx := x.c.strm x.st
  tget sx.rets lane != [] || tget sx.spilled lane != 0

/-! ## Control transfers (R99, R101) -/

/-- Check the targets of lanes: the code size, then the low two bits (R101, R25). -/
def badTarget (c : Consist) (ls : List Nat) (target : Nat → Nat) : Option (Cause × DWord) :=
  match ls.find? (fun l => decide (c.csize ≤ target l)) with
  | some l => some (.bounds, BitVec.ofNat 64 (target l))
  | none =>
    match ls.find? (fun l => decide (target l % 4 ≠ 0)) with
    | some l => some (.align, BitVec.ofNat 64 (target l))
    | none => none

/-- The lanes of a list jump; the others of the run go on. -/
def jump (x : Ctx) (ls : List Nat) (target : Nat → Nat) (s : State) : State :=
  let next := fun l => if ls.contains l then BitVec.ofNat 32 (target l) else x.pc + 4
  s.modStrm x (fun sx => { sx with pc := setLanes sx.pc (lanesOf x.run) next })

/-- BRA and CALL (R99): the lanes whose predicate is 1 − S branch. -/
def branch (maj : BitVec 7) (isCall : Bool) (p : BitVec 3) (x : BitVec 1) (d : BitVec 21) (s : State) : Out :=
  issue (packBrn maj p x d) { transfer := true }
    (fun y s =>
      let ls := (lanesOf y.act).filter (fun l => (y.c.strm y.st).pred p.toNat l == (x == 0))
      let t := (y.pc + 4 + (d.signExtend 32 <<< 2)).toNat
      match badTarget y.c ls (fun _ => t) with
      | some (cause, v) => .trap cause v
      | none =>
        if isCall then (pushReturn y ls s).andThen (fun _ s => .ok (jump y ls (fun _ => t) s))
        else .ok (jump y ls (fun _ => t) s)) s

/-- BRA (R99). -/
def execBra (p : BitVec 3) (x : BitVec 1) (d : BitVec 21) (s : State) : Out := branch 0x30 false p x d s
/-- CALL (R99). -/
def execCall (p : BitVec 3) (x : BitVec 1) (d : BitVec 21) (s : State) : Out := branch 0x32 true p x d s

/-- BRX and CALLX (R101): the target may be any readable source of one value (DESIGN CHOICE, assumption log 44). -/
def branchTo (maj : BitVec 7) (isCall : Bool) (a : BitVec 7) (s : State) : Out :=
  issue (packReg maj 0x78 a 0x78 0 0) { uses := [(2, a, .src false true)], transfer := true }
    (fun x s =>
      let ls := lanesOf x.act
      let t := fun l => (src1 x a l).toNat
      match badTarget x.c ls t with
      | some (cause, v) => .trap cause v
      | none =>
        if isCall then (pushReturn x ls s).andThen (fun _ s => .ok (jump x ls t s)) else .ok (jump x ls t s)) s

/-- BRX (R101). -/
def execBrx (a : BitVec 7) (s : State) : Out := branchTo 0x31 false a s
/-- CALLX (R101). -/
def execCallx (a : BitVec 7) (s : State) : Out := branchTo 0x33 true a s

/-- RET (R98, R101): the newest entry, reloaded when it was spilled; RSTACK with TRAPV[0] = 1 where there is none. -/
def execRet (s : State) : Out :=
  issue (packReg 0x34 0x78 0x78 0x78 0 0) { transfer := true }
    (fun x s =>
      let ls := lanesOf x.act
      let sx := x.c.strm x.st
      let reload := ls.filterMap (fun l => (popSpill x l).map (fun w => (l, w)))
      (privWordsAt x .read reload s).andThen (fun ps s =>
        match badLine s ps with
        | .good =>
          let s := correctPieces (ps.foldl (fun s p => p.usePriv x s false) s) ps (some (coreOf x.key))
          let target := fun l => match tget sx.rets l with
            | r :: _ => r.toNat
            | [] => ((ps.find? (fun p => p.lane == l)).map (fun p => p.read s 0)).getD 0
          match badTarget x.c (ls.filter (canPop x)) target with
          | some (cause, v) => .trapIn s cause v
          | none =>
            if ls.any (fun l => !canPop x l) then .trapIn s .rstack 1
            else
              .ok (jump x ls target (s.modStrm x (fun sx =>
                { sx with rets := setLanes sx.rets ls (fun l => (tget sx.rets l).drop 1),
                          spilled := setLanes sx.spilled (reload.map (fun e => e.1)) (fun l => tget sx.spilled l - 1) })))
        | bad => consumePoison x bad s)) s

/-! ## EXIT, YIELD, NOP (R93, R100, R102) -/

/-- EXIT (R102). -/
def execExit (s : State) : Out :=
  issue (packReg 0x35 0x78 0x78 0x78 0 0) { transfer := true }
    (fun x s =>
      .ok ((jump x [] (fun _ => 0) s).modConsist x.key (fun c =>
        let sx := c.strm x.st
        (c.setStrm x.st { sx with exited := sx.exited ||| x.act }).afterExit))) s

/-- YIELD (R93): the run is deferred; a guard does not restrict it. -/
def execYield (s : State) : Out :=
  issue (packReg 0x36 0x78 0x78 0x78 0 0) {}
    (fun x s => .ok (s.modStrm x (fun sx => sx.defer (x.c.alive x.st) x.run))) s

/-- NOP (R102). -/
def execNop (s : State) : Out := issue (packReg 0x37 0 0 0 0 0) {} (fun _ s => .ok s) s

/-! ## Special registers (R107, R108) -/

/-- Is this special register 64 bits wide? -/
def specialWide (b : BitVec 7) : Bool := b == 3 || b == 4 || b == 0x0A

/-- Read a special register. -/
def Consist.special (c : Consist) (b : BitVec 7) : DWord :=
  match b.toNat with
  | 0x00 => c.csw.setWidth 64
  | 0x01 => c.fmask.setWidth 64
  | 0x02 => c.stklim.setWidth 64
  | 0x03 => c.trapc
  | 0x04 => c.trapv
  | 0x05 => c.trappc.setWidth 64
  | 0x06 => c.cvid.setWidth 64
  | 0x07 => c.lnch.setWidth 64
  | 0x08 => BitVec.ofNat 64 (c.title % 64 * 256 + c.sess % 256)
  | 0x09 => c.lmask.setWidth 64
  | 0x0A => c.htbl
  | 0x0B => c.cid.setWidth 64
  | 0x0C => c.hmask.setWidth 64
  | _ => 0

/-- Is this register read-only? -/
def specialFixed (b : BitVec 7) : Bool := b == 1 || b == 6 || b == 7 || b == 8 || b == 9 || b == 0x0B || b == 0x0C

/-- The writable bits of CSW (R107). -/
def cswMask : BitVec 32 := 0xFC7FFFE3

/-- The writable bits of TRAPC (R108). -/
def trapcMask : DWord := 0xFFFFFFFF0000033F

/-- Is this value of CSW refused (R108)? -/
def cswBad (v : BitVec 32) : Bool :=
  let bad := fun (r : BitVec 3) => r == 0 || decide (5 < r.toNat)
  bad (v.extractLsb' 29 3) || bad (v.extractLsb' 26 3) || decide (4 < (v.extractLsb' 7 3).toNat)

/-- Write a special register, with its checks (R107, R108): the consist, or the value BOUNDS reports. -/
def Consist.putSpecial (c : Consist) (b : BitVec 7) (v : DWord) : Except DWord Consist :=
  let lo : BitVec 32 := v.setWidth 32
  match b.toNat with
  | 0x00 => if cswBad lo then .error (lo.setWidth 64) else .ok { c with csw := lo &&& cswMask }
  | 0x02 => if c.privWords < lo.toNat then .error (lo.setWidth 64) else .ok { c with stklim := lo }
  | 0x03 => .ok { c with trapc := v &&& trapcMask }
  | 0x04 => .ok { c with trapv := v }
  | 0x05 => .ok { c with trappc := lo }
  | 0x0A => if v.toNat % 32 ≠ 0 then .error v else .ok { c with htbl := v }
  | _ => .ok c

/-! ## System instructions (R109) -/

/-- RDSR (R109). -/
def execRdsr (d b : BitVec 7) (w : BitVec 1) (s : State) : Out :=
  issue (packReg 0x60 d 0x78 b w 1) { uses := [(1, d, .dst (specialWide b) true true), (3, b, .special)] }
    (fun x s => .ok (s.setConsist x.key
      (putResult s x.c x.st d (specialWide b) (w == 1) (lanesOf x.act) (fun _ => x.c.special b)))) s

/-- WRSR (R107, R108, R109). A write of HTBL discards the entries its convoy keeps (R176). -/
def execWrsr (a b : BitVec 7) (s : State) : Out :=
  issue (packReg 0x60 0x78 a b 0 2)
    { uses := [(2, a, .src (specialWide b) true), (3, b, .special)], uniform := true,
      illopnd := if specialFixed b then some 3 else none }
    (fun x s =>
      if x.act = 0 then .ok s else
      let v := opVal x a (specialWide b) 0 (kInt x) (lowest x.act)
      match x.c.putSpecial b v with
      | .error bad => .trap .bounds bad
      | .ok c =>
        let s := s.setConsist x.key c
        .ok (if b == 0x0A then s.modConvoy c.convoy (fun v => { v with handles := [] }) else s)) s

/-- CYC (R109): the cycles that have passed since the last read are the core's own (DESIGN CHOICE, assumption log 5). -/
def execCyc (d : BitVec 7) (w : BitVec 1) (s : State) : Out :=
  issue (packReg 0x60 d 0x78 0x78 w 3) { uses := [(1, d, .dst true true true)] }
    (fun x s =>
      if x.act = 0 then .ok s else
      let k := coreOf x.key
      let now := (s.core k).cyc + BitVec.ofNat 64 (Config.cycAdvance s.tick)
      let s := s.setCore k { s.core k with cyc := now }
      .ok (s.setConsist x.key (putResult s x.c x.st d true (w == 1) (lanesOf x.act) (fun _ => now)))) s

/-- A trap that is taken after its instruction has completed (R104): TRAPPC is the address that follows. A run with no
active lane executes nothing. -/
def trapAfter (o : OpInfo) (x : Ctx) (cause : Cause) (value : DWord) (s : State) : Eff :=
  if x.act = 0 then .ok s
  else .stop ((complete o x s).modConsist x.key (fun c =>
    c.deliver cause value false x.st x.run (x.pc + 4) (x.pc + 4)))

/-- TRAP and SCALL (R109). -/
def swtrap (f : BitVec 3) (top : DWord) (a : BitVec 7) (s : State) : Out :=
  let o : OpInfo := { uses := [(2, a, .src false true)], uniform := true, transfer := true }
  issue (packReg 0x60 0x78 a 0x78 0 f) o
    (fun x s =>
      let s := s.modStrm x (fun sx => { sx with pc := setLanes sx.pc (lanesOf x.run) (fun _ => x.pc + 4) })
      trapAfter o x .swtrap (((src1 x a (lowest x.act)).setWidth 32).setWidth 64 ||| top) s) s

/-- TRAP (R109). -/
def execTrap (a : BitVec 7) (s : State) : Out := swtrap 0 0 a s
/-- SCALL (R109). -/
def execScall (a : BitVec 7) (s : State) : Out := swtrap 6 0x8000000000000000 a s
/-- BRK (R109). -/
def execBrk (s : State) : Out :=
  issue (packReg 0x60 0x78 0x78 0x78 0 5) {} (fun x s => trapAfter {} x .brk 0 s) s

/-- ERET (R105, R106, R109): outside a handler it raises ILLOP; TRAPPC is checked as a branch target (R107). -/
def execEret (s : State) : Out :=
  issue (packReg 0x60 0x78 0x78 0x78 0 4) { transfer := true }
    (fun x s =>
      match x.c.saved with
      | none => .ok s
      | some v =>
        match if x.c.cancelled then none else badTarget x.c [0] (fun _ => x.c.trappc.toNat) with
        | some (cause, t) => .trap cause t
        | none => .stop (s.modConsist x.key (fun c => c.leaveHandler v))) s

/-- HALT (R109): both streams stop at once, and the work in flight drains. -/
def execHalt (s : State) : Out :=
  issue (packReg 0x60 0x78 0x78 0x78 0 7) {}
    (fun x s => .stop (s.modConsist x.key (fun c =>
      { c.settle with status := .halted ((0#31 : BitVec 31) ++ BitVec.ofBool (x.st == .a) ++ x.pc) }))) s

/-! ## QLOCK (R87 to R89) -/

/-- The stream that feeds a queue (R85). -/
def Queue.producer (q : Queue) : Strm :=
  match q.consumer with
  | .a => .c
  | .c => .a

/-- Code of a queue in TRAPV (R89). -/
def Queue.num : Queue → Nat
  | .lq => 0
  | .ac => 1
  | .ca => 2
  | .sq => 3

/-- How a lane of a stream is blocked on a queue operation. -/
inductive Block where
  | free
  /-- only the other stream can complete it -/
  | other (q : Queue)
  /-- a pop whose producer has exited -/
  | orphan (q : Queue)
  /-- a texture request without its four slots -/
  | self
  deriving DecidableEq, Repr

/-- What blocks a lane of a stream now (R87, R89). -/
def Consist.blockOf (c : Consist) (st : Strm) (lane : Nat) : Block :=
  let sx := c.strm st
  if !(c.alive st).getLsbD lane then .free
  else match tfind lane sx.wants with
    | none => .free
    | some w =>
      match w.pops.find? (fun p => decide ((c.queueOf p.1 lane).length < total p.1 w.pops)) with
      | some (q, _) => if (c.alive q.producer).getLsbD lane then .other q else .orphan q
      | none =>
        match w.pushes.find? (fun p => !c.deaf p.1 lane && decide (p.1.depth < (c.queueOf p.1 lane).length + p.2)) with
        | some (q, _) => if q.consumer = st then .self else .other q
        | none => .free

/-- Is a lane queue-locked (R89)? -/
def Consist.locked (c : Consist) (lane : Nat) : Bool :=
  match c.blockOf .a lane, c.blockOf .c lane with
  | _, .self => true
  | .orphan _, _ => true
  | _, .orphan _ => true
  | .other _, .other _ => true
  | _, _ => false

/-- TRAPV of QLOCK for a lane (R89). -/
def Consist.qlockValue (c : Consist) (lane : Nat) : DWord :=
  let a := c.blockOf .a lane
  let b := c.blockOf .c lane
  let num := fun (y : Block) => match y with | .other q | .orphan q => q.num | _ => 0
  let isSelf := b == .self
  let xit := match a, b with | .orphan _, _ => true | _, .orphan _ => true | _, _ => false
  BitVec.ofNat 64 ((if isSelf then 1024 else 0) + (if xit && !isSelf then 512 else 0) + num b * 128
    + (if isSelf then 0 else num a * 32) + lane)

/-- QLOCK_DETECT (R89): a consist with a queue-locked lane takes QLOCK, at the blocked A-stream instruction unless every
locked lane has left the A-stream or waits on itself. -/
def execQlockDetect (consist : Nat) (s : State) : Out :=
  .next (match s.consist? consist with
    | none => s
    | some c =>
      let lanes := if c.status = Status.running ∧ c.saved.isNone = true then (List.range 32).filter c.locked else []
      match lanes with
      | [] => s
      | low :: _ =>
        let inC := fun l => !(c.alive .a).getLsbD l || c.blockOf .c l == Block.self
        let st : Strm := if lanes.all inC then .c else .a
        let there := if lanes.all inC then low else (lanes.find? (fun l => !inC l)).getD low
        let pc := c.trapPc st there (tget (c.strm st).pc there)
        s.setConsist consist (c.deliver .qlock (c.qlockValue low) false st (maskWhere (fun l => lanes.contains l))
          pc pc)).bump

/-! ## Deferral and tiers (R92, R96) -/

/-- RUN_DEFERRAL (R92): the head run of a stream is deferred when it has issued 256 times, or when it cannot issue while
another run waits. -/
def execRunDeferral (consist : Nat) (aStream blocked : Bool) (s : State) : Out :=
  let st : Strm := if aStream then .a else .c
  .next (match s.consist? consist with
    | none => s
    | some c =>
      let sx := c.strm st
      let run := headRun sx (c.eligible st)
      let more := decide (c.eligible st &&& ~~~run ≠ 0)
      if c.status = Status.running ∧ more = true ∧ sx.held = false ∧ (dueDeferral c st run || (blocked && sx.stalled)) = true then
        s.setConsist consist (c.setStrm st
          { sx.defer (c.alive st) run with headCount := 0, headLanes := 0, stalled := false, held := false })
      else s).bump

/-- Does either stream of a consist stand in a hold window? -/
def Consist.inHold (c : Consist) : Bool := decide (c.a.hold ≠ 0) || decide (c.c.hold ≠ 0)

/-- Can no run of a stream issue? -/
def Consist.idleStrm (c : Consist) (st : Strm) : Bool := (c.strm st).stalled || decide (c.alive st = 0)

/-- REGISTER_TIER_MOVE (R96): the registers of a consist that waits in both streams move to the lower tier, which counts
as a group switch of both front ends (R97). No consist of a line core moves (R303). -/
def execRegisterTierMove (consist : Nat) (s : State) : Out :=
  .next (match s.consist? consist with
    | none => s
    | some c =>
      if isLine consist = false ∧ c.status = Status.running ∧ c.lowTier = false ∧ c.inHold = false ∧ c.idleStrm .a = true ∧ c.idleStrm .c = true then
        s.setConsist consist { c with lowTier := true, a := { c.a with latchValid := 0 },
                                      c := { c.c with latchValid := 0 } }
      else s).bump

/-- REGISTER_TIER_RECALL (R96). -/
def execRegisterTierRecall (consist : Nat) (s : State) : Out :=
  .next (match s.consist? consist with
    | none => s
    | some c => if c.lowTier then s.setConsist consist { c with lowTier := false } else s).bump

/-! ## Faults that engines deliver (R104) -/

/-- Take the oldest fault an engine has delivered: at the head run of the A-stream, else of the C-stream; a draining
consist is terminated with it (R104), and so is one whose handler runs (R106). A band operation finishes first (R320). -/
def execAsyncTrapDelivery (consist : Nat) (s : State) : Out :=
  .next (match s.consist? consist with
    | none => s
    | some c =>
      match c.dueFault with
      | none => s
      | some f =>
        if c.parked then s else
        let taken := { c with async := c.async.erase f, tokens := c.tokens &&& ~~~f.tokens }
        match c.status with
        | .running =>
          if c.bandOp ≠ 0 then s
          else
            let st : Strm := if c.alive .a ≠ 0 then .a else .c
            let run := headRun (c.strm st) (c.eligible st)
            let pc := c.trapPc st (lowest run) (tget (c.strm st).pc (lowest run))
            s.setConsist consist (taken.deliver f.cause f.value true st run pc pc)
        | .draining =>
          let r : TrapRecord := { trapc := trapcOf f.cause true .a 0, trapv := f.value, trappc := 0 }
          s.setConsist consist { taken with trapc := r.trapc, trapv := r.trapv, trappc := 0, status := .terminated r }
        | _ => s.setConsist consist taken).bump

end Sys2Proof.Machine
end

