-- ==== Sys2Proof/Machine/Sync.lean ====
section
/-!
DEFINITION. Majors 0x38 to 0x3B: the named barriers (R197 to R202), FENCE (R74), the timelines (R75 to R77) and the tokens
(R265, R266).
-/

namespace Sys2Proof.Machine

open Sys2Proof

/-- The scope of a synchronising instruction: a pending HINT.SCOPE, or its default (R44). -/
def scopeOr (x : Ctx) (dflt : Nat) : Nat :=
  match x.hints.scope with
  | some (sc, _) => sc.toNat
  | none => dflt

/-- The release that the active lanes of a run make together. -/
def Ctx.release (x : Ctx) (s : State) (scope : Nat) : Release :=
  (x.c.party x.key x.st none).release scope (s.seenBy x.c.uid x.st (lanesOf x.act))

/-- The active lanes of a run take the releases that pair with them (R72). -/
def Ctx.acquire (x : Ctx) (s : State) (scope : Nat) (rels : List Release) : State :=
  let p := x.c.party x.key x.st none
  (rels.filter (pairs scope p)).foldl (fun s r => s.learnAll x.c.uid x.st (lanesOf x.act) r.clk) s

/-! ## Named barriers (R197 to R201) -/

/-- Write a convoy's slot. -/
def State.setBar (s : State) (conv i : Nat) (b : Barrier) : State :=
  s.modConvoy conv (fun v => { v with bars := tput i b v.bars })

/-- The slot's own write of its bound word: no access, and it never breaks the binding; a read of its value orders nothing
(R198). -/
def State.barWord (s : State) (conv word : Nat) (phase : BitVec 32) : State :=
  { s.modConvoy conv (fun v => { v with scratch := writeLE v.scratch word 4 phase.toNat }) with
    spSyncs := tdel (conv * 2 ^ 20 + word / 4) s.spSyncs }

/-- Has phase t completed when the count is n (R199)? -/
def phaseDone (n t : BitVec 32) : Bool := n != t && decide ((n - t).toNat < 2 ^ 31)

/-- Releases of the arrivals at a phase. -/
def Barrier.relsOf (b : Barrier) (t : BitVec 32) : List Release := (b.rels.filter (fun r => r.1 == t)).map (fun r => r.2)

/-- A phase completes (R198): the count rises, the word is written, waiters of it are released; at E = 0 the slot is
unbound and the waiters that are left lose it. -/
def State.completePhase (s : State) (conv i : Nat) (b : Barrier) : State :=
  let n := b.phase + 1
  let b := { b with phase := n, arrived := 0, expect := b.expect - b.drops, drops := 0 }
  let s := s.barWord conv b.word n
  let s := s.mapWaits conv (fun w =>
    if w.slot = i ∧ w.lost = false ∧ w.released.isNone = true ∧ phaseDone n w.phase = true then
      { w with released := some (n, b.relsOf w.phase) }
    else w)
  if b.expect = 0 then (s.modConvoy conv (fun v => { v with bars := tdel i v.bars })).loseWaiters conv i
  else s.setBar conv i b

/-- An arrival at a slot (R198): `drops` is 1 for BARDROP. -/
def State.arrive (s : State) (conv i : Nat) (b : Barrier) (rel : Release) (drops : Nat) : State :=
  let b := { b with arrived := b.arrived + 1, drops := b.drops + drops, rels := (b.phase, rel) :: b.rels }
  if b.expect ≤ b.arrived then s.completePhase conv i b else s.setBar conv i b

/-- TRAPV of BARLOST (R202). -/
def lostValue (i : Nat) (waiting : Bool) : DWord := BitVec.ofNat 64 (i + if waiting then 256 else 0)

/-- The barrier wait that the run of a context is in. -/
def Ctx.barWait (x : Ctx) : Option BarWait :=
  (x.c.strm x.st).barWaits.find? (fun w => w.pc == x.pc && w.lanes &&& x.run != 0)

/-- The run of a context leaves its barrier wait. -/
def State.leaveWait (s : State) (x : Ctx) : State :=
  let out := fun (w : BarWait) => { w with lanes := w.lanes &&& ~~~x.run }
  s.modStrm x (fun sx => { sx with barWaits := (sx.barWaits.map out).filter (fun w => w.lanes != 0) })

/-- Lanes that have reached the address of a wait are of its run, and wait with it (R91). -/
def State.joinWait (s : State) (x : Ctx) (y : BarWait) : State :=
  s.modStrm x (fun sx => { sx with barWaits := sx.barWaits.map (fun w =>
    if w = y then { w with lanes := w.lanes ||| x.run } else w) })

/-- The run of a context begins to wait. -/
def State.enterWait (s : State) (x : Ctx) (i : Nat) (phase : BitVec 32) : State :=
  let w : BarWait := { pc := x.pc, lanes := x.run, slot := i, phase := phase, lost := false, released := none }
  s.modStrm x (fun sx => { sx with barWaits := w :: sx.barWaits })

/-- A barrier instruction on a bound slot, its slot operand checked (R197 to R199). A run in a wait gets its outcome:
BARLOST, or `released` with the phase count. -/
def barrier (w : Word) (o : OpInfo) (a : BitVec 7) (body : Ctx → Nat → Nat → Barrier → State → Eff)
    (released : Ctx → BitVec 32 → State → Eff) (s : State) : Out :=
  issue w o
    (fun x s =>
      if x.act = 0 then .ok s else
      let slot := (src1 x a (lowest x.act)).toNat
      let conv := x.c.convoy
      match x.barWait with
      | some y =>
        if y.lost then .trapIn (s.leaveWait x) .barlost (lostValue y.slot true)
        else match y.released with
          | some (n, rels) => released x n (x.acquire (s.leaveWait x) (scopeOr x 4) rels)
          | none => .wait (s.joinWait x y)
      | none =>
        if (s.convoyOf x.c).bcnt ≤ slot then .trap .bounds (boundsValue 4 slot)
        else match tfind slot (s.convoyOf x.c).bars with
          | none => .trap .barlost (lostValue slot false)
          | some b => body x conv slot b s) s

/-- A result of a barrier instruction for every active lane. -/
def barResult (x : Ctx) (d : BitVec 7) (w : BitVec 1) (n : BitVec 32) (s : State) : Eff :=
  .ok (s.modConsist x.key (fun c => putResult s c x.st d false (w == 1) (lanesOf x.act) (fun _ => n.setWidth 64)))

/-- Operand fields of a barrier instruction. -/
def barInfo (uses : List (Nat × BitVec 7 × Use)) : OpInfo := { uses := uses, uniform := true }

/-- The descriptor of BARINIT (R200): word and expected count, none when it breaks a rule for this slot. -/
def barDescriptor (v : Convoy) (i : Nat) (d : DWord) : Option (Nat × Nat) :=
  let word := (d.extractLsb' 0 18).toNat
  let taken := v.bars.any (fun b => b.1 != i && b.2.word == word)
  if d.extractLsb' 32 32 ≠ 0 ∨ d.extractLsb' 18 4 ≠ 0 ∨ word % 4 ≠ 0 ∨ v.spSize ≤ word ∨ taken = true then none
  else some (word, (d.extractLsb' 22 10).toNat + 1)

/-- Bind a slot (R198): arrivals 0, phase 0, the word 0. -/
def State.bindBar (s : State) (conv i word expect : Nat) : State :=
  ((s.loseWaiters conv i).setBar conv i
    { word := word, expect := expect, arrived := 0, phase := 0, drops := 0, rels := [] }).barWord conv word 0

/-- BARINIT (R199, R200). -/
def execBarinit (a b : BitVec 7) (s : State) : Out :=
  issue (packReg 0x38 0x78 a b 0 0) (barInfo [(2, a, .src false true), (3, b, .src false true)])
    (fun x s =>
      if x.act = 0 then .ok s else
      let slot := (src1 x a (lowest x.act)).toNat
      let d := src2 x a b (lowest x.act)
      let v := s.convoyOf x.c
      if v.bcnt ≤ slot then .trap .bounds (boundsValue 4 slot)
      else match barDescriptor v slot d with
        | none => .trap .bounds (boundsValue 3 d.toNat)
        | some (word, e) => .ok (s.bindBar x.c.convoy slot word e)) s

/-- BARARR (R199): a release at the barrier's scope (R201), so it waits for the consist's logged writes (R196). -/
def execBararr (d a : BitVec 7) (w : BitVec 1) (s : State) : Out :=
  barrier (packReg 0x38 d a 0x78 w 1) (barInfo [(1, d, .dst false true true), (2, a, .src false true)]) a
    (fun x conv i b s =>
      if s.logged x.key then .wait s
      else barResult x d w b.phase (s.arrive conv i b (x.release s (scopeOr x 4)) 0))
    (fun _ _ s => .ok s) s

/-- BARWAIT (R199). -/
def execBarwait (a b : BitVec 7) (s : State) : Out :=
  barrier (packReg 0x38 0x78 a b 0 2) (barInfo [(2, a, .src false true), (3, b, .src false true)]) a
    (fun x _ i bar s =>
      let t := (src2 x a b (lowest x.act)).setWidth 32
      if phaseDone bar.phase t then .ok (x.acquire s (scopeOr x 4) (bar.relsOf t)) else .wait (s.enterWait x i t))
    (fun _ _ s => .ok s) s

/-- BARARW (R199): it arrives once, then waits for that phase. -/
def execBararw (d a : BitVec 7) (w : BitVec 1) (s : State) : Out :=
  barrier (packReg 0x38 d a 0x78 w 3) (barInfo [(1, d, .dst false true true), (2, a, .src false true)]) a
    (fun x conv i b s =>
      if s.logged x.key then .wait s
      else
        let rel := x.release s (scopeOr x 4)
        let s := (s.enterWait x i b.phase).arrive conv i b rel 0
        -- the last arrival is released at once
        match s.consist? x.key with
        | none => .stop s
        | some c =>
          match ({ x with c := c } : Ctx).barWait with
          | some { released := some (n, rels), .. } =>
            barResult x d w n (x.acquire (s.leaveWait x) (scopeOr x 4) rels)
          | _ => .wait s)
    (fun x n s => barResult x d w n s) s

/-- BARTEST (R199, R201): parity only. -/
def execBartest (p a b : BitVec 7) (s : State) : Out :=
  barrier (packReg 0x38 p a b 0 4) (barInfo [(1, p, .pred), (2, a, .src false true), (3, b, .src false true)]) a
    (fun x _ _ bar s =>
      let t := (src2 x a b (lowest x.act)).setWidth 32
      let yes := bar.phase.getLsbD 0 != t.getLsbD 0
      let s := if yes then x.acquire s (scopeOr x 4) (bar.relsOf t) else s
      .ok (s.modStrm x (fun sx => sx.putPred p.toNat x.act (if yes then BitVec.allOnes 32 else 0))))
    (fun _ _ s => .ok s) s

/-- BARDROP (R198, R199). -/
def execBardrop (a : BitVec 7) (s : State) : Out :=
  barrier (packReg 0x38 0x78 a 0x78 0 5) (barInfo [(2, a, .src false true)]) a
    (fun x conv i b s =>
      if s.logged x.key then .wait s else .ok (s.arrive conv i b (x.release s (scopeOr x 4)) 1))
    (fun _ _ s => .ok s) s

/-- BARINV (R198, R199). -/
def execBarinv (a : BitVec 7) (s : State) : Out :=
  barrier (packReg 0x38 0x78 a 0x78 0 6) (barInfo [(2, a, .src false true)]) a
    (fun _ conv i _ s =>
      .ok ((s.modConvoy conv (fun v => { v with bars := tdel i v.bars })).loseWaiters conv i))
    (fun _ _ s => .ok s) s

/-- BARPH (R199). -/
def execBarph (d a : BitVec 7) (w : BitVec 1) (s : State) : Out :=
  barrier (packReg 0x38 d a 0x78 w 7) (barInfo [(1, d, .dst false true true), (2, a, .src false true)]) a
    (fun x _ _ b s => barResult x d w b.phase s) (fun _ _ s => .ok s) s

/-! ## FENCE (R74) -/

/-- Does an event of a stream at a step precede, in consist order, the instruction that a lane of a context executes now
(R59)? -/
def Ctx.follows (x : Ctx) (s : State) (st : Strm) (time lane : Nat) : Bool :=
  st == x.st || decide (time ≤ tget (tget s.clocks (laneThread x.c.uid lane x.st)) (laneThread x.c.uid lane st))

/-- A BUSY token whose slice precedes the fence in the order of an active lane. -/
def Ctx.tokensBefore (x : Ctx) (s : State) : Bool :=
  (List.range 8).any (fun t => x.c.tokens.getLsbD t &&
    (let e := tget x.c.tokenAt t
     (lanesOf (e.2 &&& x.act)).any (x.follows s .a e.1)))

/-- A tile instruction not yet complete that precedes the fence. -/
def Ctx.tilesBefore (x : Ctx) (s : State) : Bool :=
  x.c.matrix.queue.any (fun t => (lanesOf (t.lanes &&& x.act)).any (x.follows s .c t.time))

/-- The part of a completion that a FENCE takes: of the accesses of the engine operations with these threads only its reads,
its writes or both. -/
def Release.classes (r : Release) (threads : List Nat) (reads writes : Bool) : Release :=
  let classes := (if reads then [0] else []) ++ (if writes then [1] else [])
  { r with clk := r.clk.fenced (fun k => threads.contains (threadOf k)) classes true }

/-- What a FENCE takes of the completed Freight operations that precede it in a lane's order. -/
def Ctx.copiesDone (x : Ctx) (s : State) (reads writes : Bool) (lane : Nat) : List Release :=
  (x.c.freightRels.filter (fun e => e.2.1.getLsbD lane && x.follows s .a e.1 lane)).map (fun e =>
    e.2.2.2.classes [e.2.2.1] reads writes)

/-- What it takes of the last completed tile instruction that precedes it in a lane's order, with all below it. -/
def Ctx.tilesDone (x : Ctx) (s : State) (reads writes : Bool) (lane : Nat) : List Release :=
  let m := x.c.matrix
  (((m.ends.zip m.sent).find? (fun e => e.2.2.1.getLsbD lane && x.follows s .c e.2.1 lane)).map (fun e =>
    e.1.2.classes (m.sent.map (fun t => t.2.2)) reads writes)).toList

/-- The completed texture requests of a lane that precede the fence. -/
def Ctx.texelsDone (x : Ctx) (s : State) (lane : Nat) : List Release :=
  (x.c.texRels.filter (fun e => e.2.1 == lane && x.follows s .c e.1 lane)).map (fun e => e.2.2)

/-- A texture request whose texels are not yet read and that precedes the fence. -/
def Ctx.textureBefore (x : Ctx) (s : State) : Bool :=
  x.c.inflight.any (fun f => f.kind == .texture && x.act.getLsbD f.lane
    && x.follows s f.strm (tget f.clk.clk (laneThread x.c.uid f.lane f.strm)) f.lane)

/-- Does a scope take in the consist's own Freight contexts, which its home die has (R72, R257)? -/
def Ctx.reachesFreight (x : Ctx) (s : State) (scope : Nat) : Bool :=
  inScope scope (x.c.party x.key x.st none) (sessionParty s x.c.sess (agentId (s.session x.c.sess).home 4 (x.c.sess * 16)))

/-- Does a scope take in the consist's matrix sequence? -/
def Ctx.reachesMatrix (x : Ctx) (scope : Nat) : Bool :=
  inScope scope (x.c.party x.key x.st none) (x.c.party x.key .c none)

/-- Does a side log hold writes of the consist through handles of the host or I/O space? -/
def State.loggedOut (s : State) (key : Nat) : Bool :=
  (s.core (coreOf key)).log.any (fun e => e.consist == key && e.writes.any (fun w => w.space != 0))

/-- The classes of lane accesses that a set names, as `classThread` numbers them (R74). -/
def fenceClasses (p : BitVec 8) : List Nat :=
  (if p.getLsbD 7 then [0, 4] else []) ++ (if p.getLsbD 6 then [1, 4] else [])
    ++ (if p.getLsbD 5 then [2, 5] else []) ++ (if p.getLsbD 4 then [3, 5] else [])

/-- The kinds of engine accesses that a set names at a scope, as `Known` numbers them (R74): cr, cw, mr, mw, and the sampler
reads of r. -/
def Ctx.fenceKinds (y : Ctx) (s : State) (scope : Nat) (q : BitVec 8) : List Nat :=
  let freight := y.reachesFreight s scope
  let matrix := y.reachesMatrix scope
  (if q.getLsbD 3 && freight then [0] else []) ++ (if q.getLsbD 2 && freight then [3] else [])
    ++ (if q.getLsbD 1 && matrix then [1] else []) ++ (if q.getLsbD 0 && matrix then [4] else [])
    ++ (if q.getLsbD 7 && matrix then [2] else [])

/-- Must a FENCE wait for an access of a class in PRED (R74, R196)? -/
def Ctx.fenceWaits (y : Ctx) (s : State) (p : BitVec 8) : Bool :=
  (p.getLsbD 6 && s.logged y.key) || (p.getLsbD 4 && s.loggedOut y.key)
    || ((p.getLsbD 3 || p.getLsbD 2) && y.tokensBefore s) || ((p.getLsbD 1 || p.getLsbD 0) && y.tilesBefore s)
    || (p.getLsbD 7 && y.textureBefore s)

/-- A FENCE of one lane: the completions it takes reach the lane, and the engine accesses of SUCC with them; of what the lane
itself has done, and has seen others do, its accesses of the classes of PRED reach those alone (R63, R74, R267). -/
def Ctx.fenceLane (y : Ctx) (scope : Nat) (p q : BitVec 8) (s : State) (lane : Nat) : State :=
  let t := laneThread y.c.uid lane y.st
  let later := y.fenceKinds s scope q
  let rels := (if p.getLsbD 3 || p.getLsbD 2 then y.copiesDone s (p.getLsbD 3) (p.getLsbD 2) lane else [])
    ++ (if p.getLsbD 1 || p.getLsbD 0 then y.tilesDone s (p.getLsbD 1) (p.getLsbD 0) lane else [])
    ++ (if p.getLsbD 7 then y.texelsDone s lane else [])
  let s := (rels.filter (pairs scope (y.c.party y.key y.st none))).foldl (fun s r => s.learnFor later t r.clk) s
  let mine := fun k => threadOf k == laneThread y.c.uid lane .a || threadOf k == laneThread y.c.uid lane .c
  let handed := (s.seen t).fenced mine (fenceClasses p) (p.getLsbD 7 || p.getLsbD 6)
  { s with engineClocks := tset s.engineClocks t (joinEngines later (tget s.engineClocks t) handed) }

/-- FENCE (R74): it waits for the accesses of PRED that are not performed, and orders each active lane's. Memory itself is
sequential (DESIGN CHOICE, assumption log 3). -/
def execFence (p x : BitVec 8) (c : BitVec 4) (s : State) : Out :=
  issue (packFen 0x39 p x c) {}
    (fun y s =>
      if y.act = 0 then .ok s
      else if y.fenceWaits s p then .wait s
      else .ok ((lanesOf y.act).foldl (y.fenceLane c.toNat p x) s)) s

/-! ## Timelines (R75 to R77) -/

/-- A timeline as an instruction finds it: its counter, whether its owner has ended (a higher value will not come), the
key of an owner that may end (`endKey`), and what a wait for a value acquires. -/
structure Timeline where
  counter : DWord
  closed : Bool
  owner : Option Nat
  rels : DWord → List Release

/-- Owner key of the matrix sequence of a consist. -/
def matrixOwner (key : Nat) : Nat := 2 * 2 ^ 24 + key

/-- Owner key of a raster pass slot. -/
def passOwner (station slot : Nat) : Nat := 4 * 2 ^ 24 + station * 512 + slot

/-- What a wait for value n takes from completions by number (R63): those numbered n or below. -/
def endsUpTo (ends : List (Nat × Release)) (n : DWord) : List Release :=
  ((ends.find? (fun e => e.1 ≤ n.toNat)).map (fun e => e.2)).toList

/-- The consist that a class-2 identifier names: on the die of the issuer, or in its quadrant of a line core (R76,
R304). -/
def matrixKey (key index : Nat) : Nat :=
  if isLine key then (key - lineBase) / 8 * 8 + lineBase + index % 8 else dieOf key * 4096 + index

/-- The consist whose matrix sequence has this key: the one in place, or a parked one of the session (R286). -/
def State.sequenceAt (s : State) (v k : Nat) : Option Consist :=
  let gone := (s.consists.find? (fun e => decide (parkedBase ≤ e.1) && seatOf e.1 == k
    && (match e.2 with | some c => c.sess == v | none => false))).bind (fun e => e.2)
  match s.consist? k with
  | some c => if c.sess = v then some c else gone.orElse (fun _ => some c)
  | none => gone

/-- The die whose Terminus has, or had last, a session's stream of this number: the home die, or one that the stream has
not left yet (R16, R22). -/
def State.streamDie (s : State) (v index : Nat) : Nat :=
  match (s.streamsOf v).find? (fun e => e.2 == index) with
  | some e => e.1
  | none => ((s.homeFirst v).find? (fun d => match tfind index (s.die d).streams with
      | some t => t.sess == v
      | none => false)).getD (s.session v).home

/-- The timeline of an identifier (R76), or the cause of the trap (R77). -/
def timelineOf (s : State) (x : Ctx) (id : BitVec 16) : Except Cause Timeline :=
  let v := x.c.sess
  let ss := s.session v
  let index := (id.extractLsb' 0 12).toNat
  match (id.extractLsb' 12 4).toNat with
  | 0 =>
    let t := tget ss.soft index
    .ok { counter := t.count, closed := false, owner := none,
          rels := fun n => (t.sigs.filter (fun e => n.toNat ≤ e.1.toNat)).map (fun e => e.2) }
  | 1 =>
    if index / 16 ≠ v then .error .prot
    else
      let f := tget ss.freight (index % 16)
      .ok { counter := f.counter, closed := f.halted, owner := none, rels := endsUpTo f.ends }
  | 2 =>
    if isLine x.key ∧ 8 ≤ index then .error .bounds
    else
      let k := matrixKey x.key index
      match s.sequenceAt v k with
      | some c =>
        if c.sess ≠ v then .error .prot
        else .ok { counter := c.matrix.counter, closed := false, owner := some (matrixOwner k), rels := endsUpTo c.matrix.ends }
      | none => .error .prot
  | 3 =>
    if 16 ≤ index then .error .bounds
    else match tfind index (s.die (s.streamDie v index)).streams with
      | some t =>
        if t.sess ≠ v then .error .prot
        else .ok { counter := t.timeline, closed := t.state == 0, owner := none, rels := endsUpTo t.ends }
      | none => .error .prot
  | 4 =>
    let g := dieOf x.key * 8 + index / 512
    match tfind (index % 512) (s.station g).passes with
    | some t =>
      if t.sess ≠ v then .error .prot
      else .ok { counter := t.counter, closed := t.state == 0, owner := some (passOwner g (index % 512)),
                 rels := endsUpTo t.ends }
    | none => .error .prot
  | 5 =>
    if 256 ≤ index then .error .bounds
    else if index ≠ v then .error .prot
    else .ok { counter := ss.mCounter, closed := false, owner := none, rels := endsUpTo ss.mEnds }
  | _ => .error .bounds

/-- TRAPV of a timeline trap (R77). -/
def timelineValue (id : BitVec 16) (closed : Bool) : DWord := (0#47 : BitVec 47) ++ BitVec.ofBool closed ++ id

/-- A timeline instruction of a run with active lanes, its identifier resolved (R77). -/
def timelineOp (w : Word) (o : OpInfo) (a : BitVec 7) (body : Ctx → BitVec 16 → Timeline → State → Eff) (s : State) :
    Out :=
  issue w { o with uniform := true }
    (fun x s =>
      if x.act = 0 then .ok s else
      let y := src1 x a (lowest x.act)
      let id : BitVec 16 := y.extractLsb' 0 16
      let waited := (x.c.strm x.st).tlWaits.any (fun t => t.closed && t.pc == x.pc && t.id == id && t.lanes &&& x.run != 0)
      if y.extractLsb' 16 16 ≠ 0 then .trap .bounds (timelineValue id false)
      else if waited then
        .trapIn (s.modStrm x (fun sx => { sx with tlWaits := sx.tlWaits.filter (fun t => t.lanes &&& x.run == 0) }))
          .prot (timelineValue id true)
      else match timelineOf s x id with
        | .error cause => .trap cause (timelineValue id false)
        | .ok t => body x id t s) s

/-- Value of operand B, 64 bits wide, after A's queue entry. -/
def wideB (x : Ctx) (a b : BitVec 7) : DWord :=
  opVal x b true (offsetBefore x.st [(a, false)] b) (kInt x) (lowest x.act)

/-- Forget the TLWAITs of a run. -/
def State.leaveTl (s : State) (x : Ctx) : State :=
  s.modStrm x (fun sx =>
    if sx.tlWaits = [] then sx else { sx with tlWaits := sx.tlWaits.filter (fun t => t.lanes &&& x.run == 0) })

/-- TLWAIT (R77): a value that will not come any more raises PROT with TRAPV[16] = 1. -/
def execTlwait (a b : BitVec 7) (s : State) : Out :=
  timelineOp (packReg 0x3A 0x78 a b 0 0) { uses := [(2, a, .src false true), (3, b, .src true true)] } a
    (fun x id t s =>
      let n := wideB x a b
      let s := s.leaveTl x
      if n.toNat ≤ t.counter.toNat then .ok (x.acquire s (scopeOr x 7) (t.rels n))
      else if t.closed then .trapIn s .prot (timelineValue id true)
      else .wait (match t.owner with
        | none => s
        | some k =>
          let w : TlWait := { pc := x.pc, lanes := x.run, id := id, owner := k, value := n, closed := false }
          s.modStrm x (fun sx => { sx with tlWaits := w :: sx.tlWaits }))) s

/-- TLREAD (R77). -/
def execTlread (d a : BitVec 7) (w : BitVec 1) (s : State) : Out :=
  timelineOp (packReg 0x3A d a 0x78 w 1) { uses := [(1, d, .dst true true true), (2, a, .src false true)] } a
    (fun x _ t s => .ok (s.setConsist x.key
      (putResult s x.c x.st d true (w == 1) (lanesOf x.act) (fun _ => t.counter)))) s

/-- TLPOLL (R77). -/
def execTlpoll (p a b : BitVec 7) (s : State) : Out :=
  timelineOp (packReg 0x3A p a b 0 2) { uses := [(1, p, .pred), (2, a, .src false true), (3, b, .src true true)] } a
    (fun x _ t s =>
      let n := wideB x a b
      let yes := decide (n.toNat ≤ t.counter.toNat)
      let s := if yes then x.acquire s (scopeOr x 7) (t.rels n) else s
      .ok (s.modStrm x (fun sx => sx.putPred p.toNat x.act (if yes then BitVec.allOnes 32 else 0)))) s

/-- TLSIG (R77): on class 0 only; a release that keeps its scope. -/
def execTlsig (a b : BitVec 7) (s : State) : Out :=
  timelineOp (packReg 0x3A 0x78 a b 0 3) { uses := [(2, a, .src false true), (3, b, .src true true)] } a
    (fun x id _ s =>
      let n := wideB x a b
      if id.extractLsb' 12 4 ≠ 0 then .trap .prot (timelineValue id false)
      else if s.logged x.key then .wait s
      else
        let index := (id.extractLsb' 0 12).toNat
        let ss := s.session x.c.sess
        let t := tget ss.soft index
        let t := { count := if t.count.toNat < n.toNat then n else t.count,
                   sigs := (n, x.release s (scopeOr x 7)) :: t.sigs }
        .ok (s.setSession x.c.sess { ss with soft := tset ss.soft index t })) s

/-- The owner of a timeline has ended with a final count: a TLWAIT of any consist for a higher value learns it (R77). -/
def State.endTimeline (s : State) (owner : Nat) (final : DWord) : State :=
  let f := fun (x : StreamSt) =>
    if x.tlWaits = [] then x else
    { x with tlWaits := x.tlWaits.map (fun t =>
        if t.owner = owner ∧ final.toNat < t.value.toNat then { t with closed := true } else t) }
  { s with consists := s.consists.map (fun e => (e.1, e.2.map (fun c =>
      { c with a := f c.a, c := f c.c, saved := c.saved.map (fun v => { v with a := f v.a, c := f v.c }) }))) }

/-! ## Tokens (R265, R266) -/

/-- The lanes of a run take what the operations that released tokens have done (R266). -/
def Ctx.takeTokens (x : Ctx) (mask : BitVec 8) (s : State) : State :=
  (List.range 8).foldl (fun s t =>
    if mask.getLsbD t then
      (tget x.c.tokenRels t).foldl (fun s r => s.learnAll x.c.uid x.st (lanesOf x.act) r.clk) s
    else s) s

/-- TKWAIT (R266). -/
def execTkwait (m : BitVec 8) (s : State) : Out :=
  issue (packImm 0x3B 0x78 0x78 0 (0#2 ++ m)) {}
    (fun x s =>
      if x.act = 0 then .ok s
      else if x.c.tokens &&& m ≠ 0 then .wait s
      else .ok (x.takeTokens m s)) s

/-- TKANY (R266): mask 0 raises ILLOP. -/
def execTkany (d : BitVec 7) (w : BitVec 1) (m : BitVec 8) (s : State) : Out :=
  issue (packImm 0x3B d 0x78 w (1#2 ++ m)) { uses := [(1, d, .lanesReg)] }
    (fun x s =>
      let free := m &&& ~~~x.c.tokens
      if x.act = 0 then .ok s
      else if free = 0 then .wait s
      else .ok ((x.takeTokens free s).setConsist x.key
        (putResult s x.c x.st d false (w == 1) (lanesOf x.act) (fun _ => free.setWidth 64)))) s

/-- TKTEST (R266). -/
def execTktest (p : BitVec 7) (m : BitVec 8) (s : State) : Out :=
  issue (packImm 0x3B p 0x78 0 (2#2 ++ m)) { uses := [(1, p, .pred)] }
    (fun x s =>
      if x.act = 0 then .ok s else
      let yes := x.c.tokens &&& m == 0
      let s := if yes then x.takeTokens m s else s
      .ok (s.modStrm x (fun sx => sx.putPred p.toNat x.act (if yes then BitVec.allOnes 32 else 0)))) s

end Sys2Proof.Machine
end

