-- ==== Sys2Proof/Machine/Engine.lean ====
section
/-!
DEFINITION. What the engines share when they access memory for a consist: handles (R174, R243, R268), ranges, translation
as R195 gives for a load, race checks (R67), and their threads of accesses (R64).
-/

namespace Sys2Proof.Machine

open Sys2Proof

/-- How a part of an engine's work ends: with a value; it waits; it fails, with cause and TRAPV; or the session it
works for is gone (R389). -/
inductive Doing (α : Type) where
  | ok (a : α) (s : State)
  | wait (s : State)
  | fail (cause : Cause) (value : DWord) (s : State)
  | gone (s : State)

/-- Go on with a value. -/
def Doing.bind {α β : Type} (x : Doing α) (f : α → State → Doing β) : Doing β :=
  match x with
  | .ok a s => f a s
  | .wait s => .wait s
  | .fail c v s => .fail c v s
  | .gone s => .gone s

/-- What an instruction's check comes to for an engine. -/
def Got.doing {α : Type} (g : Got α) (s : State) : Doing α :=
  match g with
  | .val a s => .ok a s
  | .out (.trap c v) => .fail c v s
  | .out (.trapIn s c v) => .fail c v s
  | .out (.wait s) | .out (.hold s) => .wait s
  | .out (.ok s) => .wait s
  | .out (.stop s) => .gone s

/-- The level a consist runs at, its handler set apart (R105). -/
def Consist.ownLevel (c : Consist) : Nat :=
  match c.saved with
  | some v => v.level.toNat
  | none => c.level

/-- An engine that works for a consist at its level. -/
def Consist.engine (c : Consist) (agent : Nat) : Asker := engineAsker c.sess c.ownLevel agent

/-- The window of a handle for an engine's read or write: an invalid entry is BOUNDS with reason 1, a write through a
read-only one BOUNDS with reason 2 (R243). -/
def engineWindow (agent : Nat) (c : Consist) (h : Nat) (write : Bool) (off : Nat) (s : State) : Doing Window :=
  ((windowBy (c.engine agent) (fun bad s => .stop (s.readBad bad agent c.sess (fun _ => none))) c h off s).doing s).bind (fun w s =>
    if write && !w.wr then .fail .bounds (boundsValue 2 off) s else .ok w s)

/-- The offset of the first byte of a range that lies outside a window's object, if any does (R177, R182, R183, R243). -/
def Window.firstOutside (w : Window) (s : State) (c : Consist) (off len : Nat) : Option Nat :=
  let v := s.convoyOf c
  match w.kind with
  | .flat =>
    if 2 ^ 60 < off + len then some (max off (2 ^ 60))
    else if c.touchesRegion off len then some (max off c.pbase) else none
  | .entry =>
    if w.bound < off + len then some (max off w.bound) else if c.touchesRegion w.base w.bound then some off else none
  | .pad => if v.spSize < off + len then some (max off v.spSize) else none
  | .train =>
    if (w.inPad s c off len).isSome then none
    else if off < 2 ^ 23 ∧ off / 2 ^ 20 < max v.train 1 then some (off / 2 ^ 20 * 2 ^ 20 + max (off % 2 ^ 20) v.spSize)
    else some off
  | .priv => some off

/-- Cut a range at the borders of 1 KiB patches: position, address, length. -/
def cutPatches (pos va : Nat) : Nat → Nat → List (Nat × Nat × Nat)
  | 0, _ => []
  | fuel + 1, len =>
    let n := min len (1024 - va % 1024)
    if len = 0 then [] else (pos, va, n) :: cutPatches (pos + n) (va + n) fuel (len - n)

/-- The pieces of a range of a window, not yet translated; `row` tags them. -/
def Window.pieces (w : Window) (s : State) (c : Consist) (row off len : Nat) : List Piece :=
  match w.kind with
  | .pad | .train =>
    match w.inPad s c off len with
    | some (conv, o) => [{ lane := row, pos := 0, va := 0, len := len, spot := .pad conv o }]
    | none => []
  | _ => (cutPatches 0 (w.base + off) (len / 1024 + 2) len).map (fun p =>
      { lane := row, pos := p.1, va := p.2.1, len := p.2.2, spot := .late none })

/-- Translate an engine's pieces: a resolvable fault makes it wait, a final one fails (R195). -/
def engineReach (who : Asker) (k : AccKind) (space : Nat) (ps : List Piece) (s : State) : Doing (List Piece) :=
  (reach who k false space ps s).doing s

/-- The race check of an engine's accesses, and their record (R67). -/
def engineRace (checked : Bool) (me : Access) (ps : List Piece) (s : State) : Doing Unit :=
  if !checked then .ok () s
  else
    let gs := ps.flatMap Piece.granules
    match s.raceAt me gs with
    | some other => .fail .mmx (mmxValue other) s
    | none => .ok () (s.serialise me gs)

/-- Read what an engine's pieces hold, as one number for each tag; lost lines end the session (R388). -/
def engineRead (agent v space : Nat) (ps : List Piece) (s : State) : Doing (Nat → Nat) :=
  match badLine s ps with
  | .good =>
    let s := ps.foldl Piece.sample (correctPieces s ps)
    .ok (fun row => (ps.filter (fun p => p.lane == row)).foldl (fun n p => n + p.read s space * 2 ^ (8 * p.pos)) 0) s
  | bad => .gone (s.readBad bad agent v (fun _ => none))

/-- Write a value for each tag through an engine's pieces. -/
def engineWrite (space : Nat) (ps : List Piece) (f : Nat → Nat) (s : State) : State :=
  (ps.foldl (fun s p => p.write s space (f p.lane / 2 ^ (8 * p.pos))) s).noteWrite false none (ps.flatMap Piece.spans)

/-- What the race detector keeps of an engine's access: its reads and its writes are classes of its thread (R74). -/
def engineAccess (s : State) (uid : Nat) (p : Party) (write sync : Bool) : Access :=
  { thread := classThread (engineThread uid) (if write then 1 else 0), time := s.tick + 1, party := p, pc := 0,
    write := write, sync := sync, scope := 12, moved := false }

/-- A new engine operation begins, its reads after what one clock holds and its writes after another (R64, R74): its
number. -/
def State.beginOp (s : State) (reads writes : Clock) : Nat × State :=
  let t := engineThread s.nextUid
  (s.nextUid, { s with nextUid := s.nextUid + 1,
                       clocks := tset (tset s.clocks (classThread t 0) reads) (classThread t 1) writes })

/-- The completion of an engine operation: a release that every scope takes in (R63, R72). -/
def State.endOp (s : State) (uid : Nat) (p : Party) : Release × State :=
  let t := engineThread uid
  let clk := Clock.join (Clock.join (s.seen t) (tget s.clocks (classThread t 0))) (tget s.clocks (classThread t 1))
  (p.release 12 clk, { s with clocks := tdel (classThread t 1) (tdel (classThread t 0) (tdel t s.clocks)) })

/-- A number's completion with all below it joined (R75). -/
def addEnd (ends : List (Nat × Release)) (n : Nat) (r : Release) : List (Nat × Release) :=
  match ends with
  | (_, q) :: _ => (n, { r with clk := Clock.join r.clk q.clk }) :: ends
  | [] => [(n, r)]

end Sys2Proof.Machine
end

