-- ==== Sys2Proof/Machine/Matrix.lean ====
section
/-!
DEFINITION. Majors 0x50 to 0x53: the tile instructions and MPOP (R229 to R255), on a core's matrix engine or on the
Terminus matrix unit (R324), and the events TILE_EXECUTE, TILE_COMPLETE, ROW_QUEUE_GRANT and MROW_PUSH.
-/

namespace Sys2Proof.Machine

open Sys2Proof

/-! ## Panel geometry (R231) -/

/-- The element format of a format code; none for BF16 and F16. -/
def tileElem : Nat → Option Elem
  | 2 => some .e4
  | 3 => some .e5
  | 4 => some .e6a
  | 5 => some .e6b
  | 6 => some .i8
  | 7 => some .i4o
  | _ => none

/-- Elements in a 128-bit word of a format. -/
def tilePerWord (f : Nat) : Nat :=
  match tileElem f with
  | some e => e.count
  | none => 8

/-- Panel depth P. -/
def panelDepth (f : Nat) : Nat := 8 * tilePerWord f

/-- Blocks of a row or column. -/
def tileBlocks : Nat → Nat
  | 2 | 3 | 6 => 2
  | 4 | 5 => 1
  | 7 => 4
  | _ => 0

/-- Scale registers R. -/
def scaleRegs (f : Nat) : Nat := 2 * tileBlocks f

/-- Elements in a block. -/
def blockSize (f : Nat) : Nat := panelDepth f / tileBlocks f

/-- K values in a chunk. -/
def chunkSize (f : Nat) : Nat := if f ≤ 1 then 16 else 32

/-- Element i of a 128-bit word of a format, and whether it is a misplaced outlier mark (R118, R122). -/
def tileValue (f word i : Nat) : Num × Bool :=
  match tileElem f with
  | some e => e.value word i
  | none => ((if f = 0 then Fmt.bf16 else Fmt.f16).read false (word / 2 ^ (16 * i) % 65536), false)

/-- An element with its block scale (R120, R121). -/
def scaled (f : Nat) (x : Num) (scale : Word) : Num :=
  if tileBlocks f = 0 then x else (mulNum x (Fmt.f32.read false scale.toNat)).1

/-! ## Issue (R235, R237, R238) -/

/-- Is the oldest tile instruction of a consist an MROW that has not pushed its last entry? -/
def Consist.pushing (c : Consist) : Bool :=
  match c.matrix.queue with
  | op :: _ => op.op == 7 && !c.matrix.done
  | [] => false

/-- TRAPV of MATRIX (R238). -/
def matrixValue (pc : BitVec 32) (unit reason : Nat) : DWord :=
  pc ++ (0#19 : BitVec 19) ++ (BitVec.ofNat 5 unit) ++ (BitVec.ofNat 8 reason)

/-- Does a configuration register hold a valid value (R239)? -/
def cfgOk (r v : Nat) : Bool :=
  match r with
  | 0 => decide (1 ≤ v) && decide (v ≤ 4096)
  | 2 | 4 | 5 => v != 1
  | 3 => v != 0 && v % 16 == 0
  | 6 => v % 16 == 0 && decide (256 ≤ v)
  | _ => true

/-- Bits of a configuration register (R239). -/
def cfgBits : Nat → Nat
  | 0 => 13
  | 1 => 3
  | 3 | 6 => 20
  | _ => 6

/-- The value a tile instruction reads of a register for a lane: that of a lane that is gone is 0 (R148, R234). -/
def tileSource (x : Ctx) (n lane : Nat) : Word :=
  if (x.c.lmask &&& ~~~x.c.fmask &&& ~~~x.c.c.exited).getLsbD lane then x.c.v n lane else 0

/-- `n` registers from one on, of all lanes: 32 j + lane. -/
def tileRegs (x : Ctx) (base n : Nat) : Table Word := tableOf (32 * n) (fun i => tileSource x (base + i / 32) (i % 32))

/-- Issue-time checks: each reason with its unit when it fails, in the order they are reported (R238). -/
def firstFail (l : List (Bool × Nat × Nat)) : Option (Nat × Nat) := (l.find? (fun e => e.1)).map (fun e => e.2)

/-- A tile instruction that the checks let into the queue. -/
def emptyOp (x : Ctx) (s : State) (op : Nat) : TileOp :=
  { op := op, ipc := x.pc, unit := 0, z := false, fmt := 0, sel := 0, val := 0, kcnt := 0, handle := 0, stride := 0,
    regs := [], clk := s.engineSeen 1 x.c.uid x.st (lanesOf x.act), wclk := s.engineSeen 4 x.c.uid x.st (lanesOf x.act), time := s.tick + 1, lanes := x.act }

/-- The oldest tile instruction of a consist waits for the row queue from now on, when it is an MROW that has come to the head
of the sequence (R250). -/
def State.queueRows (s : State) (key : Nat) : State :=
  match s.consist? key with
  | none => s
  | some c =>
    let co := s.core (coreOf key)
    if c.pushing = true ∧ co.rowWait.any (fun e => e.1 == key) = false then
      s.setCore (coreOf key) { co with rowWait := co.rowWait ++ [(key, s.tick)] }
    else s

/-- Issue a tile instruction: its checks on the value of A, then the queue of 8 (R235). -/
def tileIssue (w : Word) (o : OpInfo) (a : BitVec 7) (mk : Ctx → Nat → State → Except (Nat × Nat) TileOp) (s : State) :
    Out :=
  issue w { o with uniform := true }
    (fun x s =>
      if x.act = 0 then .ok s
      else if 8 ≤ x.c.matrix.queue.length then .wait s
      else match mk x (lowBits 32 (src1 x a (lowest x.act))).toNat s with
        | .error (reason, unit) => .trap .matrix (matrixValue x.pc unit reason)
        | .ok op =>
          let s := s.modConsist x.key (fun c =>
            let m := c.matrix
            { c with matrix :=
                { m with queue := m.queue ++ [op], issued := m.issued + 1,
                         rowsPending := if op.op = 7 then m.rowsPending + 1 else m.rowsPending,
                         cfg := if op.op = 8 then tset m.cfg op.unit op.val.toNat else m.cfg } })
          .ok (if x.c.matrix.queue = [] then s.queueRows x.key else s)) s

/-- The configuration of the consist in focus (R241: the checks of MLDA's fields use it). -/
def focusFormat (s : State) : Nat :=
  match findCtx s with
  | some x => tget x.c.matrix.cfg 1
  | none => 0

/-- The checks of an MMA or MMAS at issue (R238, R247, R249): panels of A and B it needs are `na` and `nb`. UNIT is T for 0x04,
0x03 and T's own 0x01, which comes before that of the A tiles; of those and of the slots it is the first one beyond the
allotment (DESIGN CHOICE, assumption log 44). -/
def mmaChecks (x : Ctx) (t d na nb k : Nat) : List (Bool × Nat × Nat) :=
  let m := x.c.matrix
  let ta := d % 32
  let ws := d / 256 % 32
  let nt := (na + 1) / 2
  [(d != ta + 256 * ws, 0x04, t), (!cfgOk 0 k, 0x03, t), (decide (m.ntiles ≤ t), 0x01, t),
   (decide (m.ntiles < ta + nt), 0x01, max ta m.ntiles), (decide (m.nslots < ws + nb), 0x02, max ws m.nslots),
   (decide (ta ≤ t) && decide (t < ta + nt), 0x08, t)]

/-- MMA (R247). -/
def execMma (t : BitVec 5) (a : BitVec 7) (z : BitVec 1) (f : BitVec 3) (s : State) : Out :=
  tileIssue (packTil 0x50 t a 0x78 0 z f) { uses := [(2, a, .src false false)] } a
    (fun x d s =>
      let k := tget x.c.matrix.cfg 0
      let n := (k + panelDepth f.toNat - 1) / panelDepth f.toNat
      match firstFail (mmaChecks x t.toNat d n n k) with
      | some e => .error e
      | none => .ok { emptyOp x s 0 with unit := t.toNat, z := z == 1, fmt := f.toNat, val := BitVec.ofNat 64 d, kcnt := k })
    s

/-- The pattern of row r of A panel q in an index register (R248). -/
def sparsePattern (regs : Table Word) (sel q r : Nat) : Nat :=
  (tget regs (8 * ((sel + q) % 4) + r / 8)).toNat / 2 ^ (4 * (r % 8)) % 16

/-- MMAS (R248). -/
def execMmas (t : BitVec 5) (a b : BitVec 7) (x : BitVec 2) (z : BitVec 1) (f : BitVec 3) (s : State) : Out :=
  tileIssue (packTil 0x51 t a b x z f) { uses := [(2, a, .src false false), (3, b, .group 1 1)], cross := true } a
    (fun y d s =>
      let k := tget y.c.matrix.cfg 0
      let p := panelDepth f.toNat
      let na := (k + 2 * p - 1) / (2 * p)
      let regs := tileRegs y b.toNat 1
      let bad := (List.range na).any (fun q => (List.range 64).any (fun r =>
        let v := sparsePattern regs x.toNat q r
        decide (v / 4 ≤ v % 4)))
      match firstFail (mmaChecks y t.toNat d na ((k + p - 1) / p) k ++ [(bad, 0x0C, 0)]) with
      | some e => .error e
      | none => .ok { emptyOp y s 1 with unit := t.toNat, z := z == 1, fmt := f.toNat, sel := x.toNat,
                                         val := BitVec.ofNat 64 d, kcnt := k, regs := regs }) s

/-- Operand fields of MLDA and MLDW: the scale registers of the format in force (R241). -/
def loadTileInfo (a b : BitVec 7) (x : BitVec 2) (s : State) : OpInfo :=
  let r := scaleRegs (focusFormat s)
  let isV := match codeOf .c b with | .v n => n % 4 == 0 | _ => false
  if r = 0 then { uses := [(2, a, .src false false)], illop := x != 0, illopnd := if b = 0x78 then none else some 3 }
  else { uses := [(2, a, .src false false)] ++ (if isV then [(3, b + x.setWidth 7, .group 1 r)] else []), cross := true,
         illopnd := if isV then none else some 3 }

/-- MLDA (R245). -/
def execMlda (t : BitVec 5) (a b : BitVec 7) (x : BitVec 2) (z : BitVec 1) (s : State) : Out :=
  tileIssue (packTil 0x52 t a b x z 0) (loadTileInfo a b x s) a
    (fun y off s =>
      let m := y.c.matrix
      let f := tget m.cfg 1
      match firstFail [(!cfgOk 2 (tget m.cfg 2) || !cfgOk 3 (tget m.cfg 3), 0x03, t.toNat),
          (decide (m.ntiles ≤ t.toNat), 0x01, t.toNat)] with
      | some e => .error e
      | none => .ok { emptyOp y s 2 with unit := t.toNat, z := z == 1, fmt := f, val := BitVec.ofNat 64 off,
                                         handle := BitVec.ofNat 6 (tget m.cfg 2), stride := tget m.cfg 3,
                                         regs := tileRegs y (b.toNat + x.toNat) (scaleRegs f) }) s

/-- MLDW (R245). -/
def execMldw (t : BitVec 5) (a b : BitVec 7) (x : BitVec 2) (s : State) : Out :=
  tileIssue (packTil 0x52 t a b x 0 1) (loadTileInfo a b x s) a
    (fun y off s =>
      let m := y.c.matrix
      let f := tget m.cfg 1
      match firstFail [(!cfgOk 4 (tget m.cfg 4), 0x03, t.toNat), (decide (m.nslots ≤ t.toNat), 0x02, t.toNat)] with
      | some e => .error e
      | none => .ok { emptyOp y s 3 with unit := t.toNat, fmt := f, val := BitVec.ofNat 64 off,
                                         handle := BitVec.ofNat 6 (tget m.cfg 4),
                                         regs := tileRegs y (b.toNat + x.toNat) (scaleRegs f) }) s

/-- MACZ (R246). -/
def execMacz (t : BitVec 5) (s : State) : Out :=
  tileIssue (packTil 0x52 t 0x78 0x78 0 0 2) {} 0x78
    (fun y _ s =>
      if y.c.matrix.ntiles ≤ t.toNat then .error (0x01, t.toNat) else .ok { emptyOp y s 4 with unit := t.toNat }) s

/-- MACLD and MACST. -/
def tileMove (op : Nat) (fn : BitVec 3) (t : BitVec 5) (a : BitVec 7) (s : State) : Out :=
  tileIssue (packTil 0x52 t a 0x78 0 0 fn) { uses := [(2, a, .src false false)] } a
    (fun y off s =>
      let m := y.c.matrix
      match firstFail [(!cfgOk 5 (tget m.cfg 5) || !cfgOk 6 (tget m.cfg 6), 0x03, t.toNat),
          (decide (m.ntiles ≤ t.toNat), 0x01, t.toNat)] with
      | some e => .error e
      | none => .ok { emptyOp y s op with unit := t.toNat, val := BitVec.ofNat 64 off,
                                          handle := BitVec.ofNat 6 (tget m.cfg 5), stride := tget m.cfg 6 }) s

/-- MACLD (R246). -/
def execMacld (t : BitVec 5) (a : BitVec 7) (s : State) : Out := tileMove 5 3 t a s
/-- MACST (R246). -/
def execMacst (t : BitVec 5) (a : BitVec 7) (s : State) : Out := tileMove 6 4 t a s

/-- MROW (R251). -/
def execMrow (t : BitVec 5) (a : BitVec 7) (s : State) : Out :=
  tileIssue (packTil 0x52 t a 0x78 0 0 5) { uses := [(2, a, .src false false)] } a
    (fun y d s =>
      let count := d % 128
      let first := d / 256 % 64
      match firstFail [(d != count + 256 * first, 0x04, t.toNat),
          (count == 0 || decide (64 < count) || decide (64 < first + count), 0x09, t.toNat),
          (decide (y.c.matrix.ntiles ≤ t.toNat), 0x01, t.toNat)] with
      | some e => .error e
      | none => .ok { emptyOp y s 7 with unit := t.toNat, val := BitVec.ofNat 64 d }) s

/-- MCFG (R239, R240). -/
def execMcfg (t : BitVec 5) (a : BitVec 7) (s : State) : Out :=
  tileIssue (packTil 0x52 t a 0x78 0 0 7) { uses := [(1, t.setWidth 7, .config), (2, a, .src false false)] } a
    (fun y d s =>
      if 2 ^ cfgBits t.toNat ≤ d then .error (0x04, 0)
      else .ok { emptyOp y s 8 with unit := t.toNat, val := BitVec.ofNat 64 d }) s

/-- The tile instructions that an MSYNC of a run waits for: those that its consist had issued when it began to wait. -/
def Ctx.syncTarget (x : Ctx) : Nat :=
  match x.c.matrix.syncs.find? (fun e => e.1 == x.pc && x.run &&& ~~~e.2.1 == 0) with
  | some e => e.2.2
  | none => x.c.matrix.issued

/-- The waits that are left when those of some lanes end. -/
def MatrixSeq.unsync (m : MatrixSeq) (run : Lanes) : MatrixSeq :=
  if m.syncs = [] then m else { m with syncs := m.syncs.filter (fun e => e.2.1 &&& run == 0) }

/-- MSYNC (R253). -/
def execMsync (s : State) : Out :=
  issue (packTil 0x52 0 0x78 0x78 0 0 6) {}
    (fun x s =>
      if x.act = 0 then .ok s
      else
        let n := x.syncTarget
        let s := s.modConsist x.key (fun c => { c with matrix := c.matrix.unsync x.run })
        if x.c.matrix.counter.toNat < n then
          .wait (s.modConsist x.key (fun c =>
            { c with matrix := { c.matrix with syncs := (x.pc, x.run, n) :: c.matrix.syncs } }))
        else .ok ((endsUpTo x.c.matrix.ends (BitVec.ofNat 64 n)).foldl (fun s r => s.learnAll x.c.uid x.st (lanesOf x.act) r.clk) s)) s

/-! ## The row queue (R250 to R252, R324) -/

/-- Does a consist use the second row queue of its line core? -/
def secondQueue (key : Nat) : Bool := isLine key && quadOf key == 1

/-- The row queue of a consist. -/
def Core.rowsOf (c : Core) (key : Nat) : List RowEntry := if secondQueue key then c.rows1 else c.rows

/-- Write the row queue of a consist. -/
def Core.setRows (c : Core) (key : Nat) (r : List RowEntry) : Core :=
  if secondQueue key then { c with rows1 := r } else { c with rows := r }

/-- The owner of the row queue of a consist. -/
def Core.ownerOf (c : Core) (key : Nat) : Option Nat := if secondQueue key then c.rowOwner1 else c.rowOwner

/-- Write the owner of the row queue of a consist. -/
def Core.setOwner (c : Core) (key : Nat) (o : Option Nat) : Core :=
  if secondQueue key then { c with rowOwner1 := o } else { c with rowOwner := o }

/-- The owner releases the row queue when its entries are gone and no MROW of it pushes (R250). -/
def State.releaseRows (s : State) (key : Nat) : State :=
  let k := coreOf key
  let co := s.core k
  let busy := match s.consist? key with
    | some c => c.pushing && !co.rowWait.any (fun e => e.1 == key)
    | none => false
  if co.ownerOf key = some key ∧ (co.rowsOf key).any (fun e => e.consist == key) = false ∧ busy = false then
    s.setCore k (co.setOwner key none)
  else s

/-- A row queue without the oldest `n` entries of a consist. -/
def dropRows (key : Nat) : Nat → List RowEntry → List RowEntry
  | 0, l => l
  | _, [] => []
  | n + 1, e :: l => if e.consist = key then dropRows key n l else e :: dropRows key (n + 1) l

/-- MPOP and MPOPB (R252). -/
def popRows (fn : BitVec 3) (both : Bool) (d : BitVec 7) (w : BitVec 1) (s : State) : Out :=
  issue (packReg 0x53 d 0x78 0x78 w fn) { uses := [(1, d, .dst false true true)], quiet := true }
    (fun x s =>
      if x.act = 0 then .ok s
      else
        let k := coreOf x.key
        let co := s.core k
        let mine := (co.rowsOf x.key).filter (fun e => e.consist == x.key)
        let take := fun (n : Nat) (s : State) =>
          (s.setCore k (co.setRows x.key (dropRows x.key n (co.rowsOf x.key)))).releaseRows x.key
        let ls := (lanesOf x.act).filter (fun l => !x.c.hmask.getLsbD l)
        let put := fun (f : Nat → DWord) (s : State) =>
          s.modConsist x.key (fun c => putResult s c x.st d false (w == 1) ls f)
        match mine with
        | [] => if x.c.matrix.rowsPending = 0 then .trap .matrix (matrixValue x.pc 0 0x0A) else .wait s
        | e :: rest =>
          if !both then .ok (put (fun l => ((e.vals[l]?).getD 0).setWidth 64) (take 1 s))
          else if e.seg = 1 then .trap .matrix (matrixValue x.pc 0 0x0B)
          else match rest with
            | [] => .wait s
            | e2 :: _ =>
              let el := fun (i : Nat) => ((e.vals ++ e2.vals)[i]?).getD 0
              let half := fun (i : Nat) => (roundNum .bf16 plainRN (Fmt.f32.read false (el i).toNat)).1
              .ok (put (fun l => BitVec.ofNat 64 (half (2 * l) + 65536 * half (2 * l + 1))) (take 2 s))) s

/-- MPOP (R252). -/
def execMpop (d : BitVec 7) (w : BitVec 1) (s : State) : Out := popRows 0 false d w s
/-- MPOPB (R252). -/
def execMpopb (d : BitVec 7) (w : BitVec 1) (s : State) : Out := popRows 1 true d w s

/-! ## Execution (R243 to R249) -/

/-- What a tile instruction's work on its sequence needs: the consist, its engine's party and agent. -/
structure TileCtx where
  key : Nat
  c : Consist
  op : TileOp
  party : Party
  agent : Nat

/-- The matrix engine of a consist (R14, R71). R14 gives the Terminus matrix unit no class: it has class 1 with the number of its
line core (DESIGN CHOICE, assumption log 44). -/
def tileCtx (key : Nat) (c : Consist) (op : TileOp) : TileCtx :=
  let agent := agentId (dieOf key) 1 (coreOf key % 64)
  { key := key, c := c, op := op, party := c.engineParty key agent, agent := agent }

/-- Entry, alignment and range of rows (R243 steps 1 to 3): the window. -/
def TileCtx.window (t : TileCtx) (write : Bool) (rows : List Nat) (len : Nat) (s : State) : Doing Window :=
  let off := rows.headD 0
  (engineWindow t.agent t.c t.op.handle.toNat write off s).bind (fun w s =>
    if off % 16 ≠ 0 then .fail .align (boundsValue 0 off) s
    else match rows.findSome? (fun o => w.firstOutside s t.c o len) with
      | some bad => .fail .bounds (boundsValue 0 bad) s
      | none => .ok w s)

/-- Is an access of the sequence checked (R78, R304)? -/
def TileCtx.checked (t : TileCtx) (w : Window) : Bool := w.chk && !isLine t.key

/-- What the race detector keeps of the sequence's accesses. -/
def TileCtx.access (t : TileCtx) (s : State) (write : Bool) : Access :=
  engineAccess s t.c.matrix.thread t.party write false

/-- Translate rows of a window (R243 step 4): each row's pieces carry its number. -/
def TileCtx.reach (t : TileCtx) (w : Window) (k : AccKind) (rows : List (Nat × Nat)) (len : Nat) (s : State) :
    Doing (List Piece) :=
  engineReach (t.c.engine t.agent) k w.space (rows.flatMap (fun r => w.pieces s t.c r.1 r.2 len)) s

/-- Read rows whole, after all their checks (R243): each row as a number; `race` for step 5. -/
def TileCtx.readRows (t : TileCtx) (race : Bool) (rows : List Nat) (len : Nat) (s : State) : Doing (Nat → Nat) :=
  (t.window false rows len s).bind (fun w s =>
    (t.reach w .read ((List.range rows.length).zip rows) len s).bind (fun ps s =>
      (engineRace (race && t.checked w) (t.access s false) ps s).bind (fun _ s =>
        engineRead t.agent t.c.sess w.space ps s)))

/-- The 128-bit words of a row, or of a subtile. -/
def wordAt (row i : Nat) : Nat := row / 2 ^ (128 * i) % 2 ^ 128

/-- The first word of a row with a spare bit set, for a 6-bit format (R119). -/
def spareWord (f row : Nat) : Option Nat :=
  match tileElem f with
  | some e => if e.six then (List.range 8).find? (fun i => decide (2 ^ 126 ≤ wordAt row i)) else none
  | none => none

/-- Does a row hold a misplaced outlier mark (R122)? -/
def strayMark (f row : Nat) : Bool :=
  f == 7 && (List.range 256).any (fun k => (tileValue f (wordAt row (k / 32)) (k % 32)).2)

/-- Change the sequence of a consist. -/
def State.modMatrix (s : State) (key : Nat) (f : MatrixSeq → MatrixSeq) : State :=
  s.modConsist key (fun c => { c with matrix := f c.matrix })

/-- Sticky CSW.FMTX (R122). -/
def State.markFmtx (s : State) (key : Nat) (yes : Bool) : State :=
  if yes then s.modConsist key (fun c => { c with csw := c.csw ||| 0x200000#32 }) else s

/-- MLDA's work (R232, R245). -/
def doMlda (t : TileCtx) (s : State) : Doing Unit :=
  let f := t.op.fmt
  let h := if t.op.z then 1 else 0
  (t.readRows true ((List.range 64).map (fun r => t.op.val.toNat + r * t.op.stride)) 128 s).bind (fun row s =>
    match (List.range 64).findSome? (fun r => spareWord f (row r)) with
    | some i => .fail .fmt (BitVec.ofNat 64 (256 + i)) s
    | none =>
      let stray := (List.range 64).any (fun r => strayMark f (row r))
      let half := tableOf 1024 (fun i => BitVec.ofNat 64 (row (i / 16) / 2 ^ (64 * (i % 16))))
      let scales := tableOf 512 (fun i => tget t.op.regs (32 * (2 * (i / 64) + i % 64 / 32) + i % 32))
      let shift := fun {V : Type} (n : Nat) (l : Table V) => l.map (fun e => (n * h + e.1, e.2))
      .ok () ((s.modMatrix t.key (fun m =>
        let old := match tget m.tiles t.op.unit with
          | .panel g h0 h1 words sc => if g = f then (h0, h1, words, sc) else (false, false, [], [])
          | _ => (false, false, [], [])
        let keep := fun {V : Type} (n : Nat) (l : Table V) => if h = 0 then inRange l n n else inRange l 0 n
        let join := fun {V : Type} (n : Nat) (a b : Table V) => if h = 0 then a ++ keep n b else keep n b ++ shift n a
        let panel := Tile.panel f (old.1 || h == 0) (old.2.1 || h == 1) (join 1024 half old.2.2.1)
          (join 512 scales old.2.2.2)
        { m with tiles := tset m.tiles t.op.unit panel })).markFmtx t.key stray))

/-- MLDW's work (R233, R245): the header and its check first (R243). -/
def doMldw (t : TileCtx) (s : State) : Doing Unit :=
  let f := t.op.fmt
  let off := t.op.val.toNat
  (t.readRows false [off] 16 s).bind (fun head s =>
    if head 0 / 2 ^ 64 % 2 ^ 64 ≠ 0 then .fail .matrix (matrixValue t.op.ipc t.op.unit 0x0D) s
    else
      let map := head 0 % 2 ^ 64
      let subs := (List.range 64).filter (fun i => map / 2 ^ i % 2 == 1)
      (t.readRows true [off] (16 + 128 * subs.length) s).bind (fun row s =>
        let sub := fun (j : Nat) => row 0 / 2 ^ (128 + 1024 * j) % 2 ^ 1024
        match (List.range subs.length).findSome? (fun j => spareWord f (sub j)) with
        | some i => .fail .fmt (BitVec.ofNat 64 (256 + i)) s
        | none =>
          let stray := (List.range subs.length).any (fun j => strayMark f (sub j))
          let words := ((List.range subs.length).zip subs).flatMap (fun e =>
            (tableOf 16 (fun i => BitVec.ofNat 64 (sub e.1 / 2 ^ (64 * i)))).map (fun y => (16 * e.2 + y.1, y.2)))
          let scales := tableOf 256 (fun i => tget t.op.regs (32 * (2 * (i / 64) + i % 64 / 32) + i % 32))
          let slot := some { map := BitVec.ofNat 64 map, fmt := f, words := words, scales := scales }
          .ok () ((s.modMatrix t.key (fun m => { m with slots := tset m.slots t.op.unit slot })).markFmtx t.key stray)))

/-- MACLD's work (R246). -/
def doMacld (t : TileCtx) (s : State) : Doing Unit :=
  (t.readRows true ((List.range 64).map (fun r => t.op.val.toNat + r * t.op.stride)) 256 s).bind (fun row s =>
    let acc := Tile.acc (tableOf 4096 (fun i => BitVec.ofNat 32 (row (i / 64) / 2 ^ (32 * (i % 64)))))
    .ok () (s.modMatrix t.key (fun m => { m with tiles := tset m.tiles t.op.unit acc })))

/-- MACST's rows from one on (R246): a row is translated whole before any byte of it is written, and a row that waits or
fails leaves those before it written (R243, R255). -/
def storeRows (t : TileCtx) (w : Window) (acc : Table Word) : Nat → Nat → State → Doing Unit
  | 0, _, s => .ok () s
  | fuel + 1, r, s =>
    match t.reach w .write [(r, t.op.val.toNat + r * t.op.stride)] 256 s with
    | .ok ps s =>
      (engineRace (t.checked w) (t.access s true) ps s).bind (fun _ s =>
        let row := (List.range 64).foldl (fun n i => n + (tget acc (64 * r + i)).toNat * 2 ^ (32 * i)) 0
        let s := engineWrite w.space ps (fun _ => row) s
        storeRows t w acc fuel (r + 1) (s.modMatrix t.key (fun m => { m with progress := r + 1 })))
    | .wait s => .wait s
    | .fail c v s => .fail c v s
    | .gone s => .gone s

/-- MACST's work (R246). -/
def doMacst (t : TileCtx) (s : State) : Doing Unit :=
  match tget t.c.matrix.tiles t.op.unit with
  | .acc e =>
    (t.window true ((List.range 64).map (fun r => t.op.val.toNat + r * t.op.stride)) 256 s).bind (fun w s =>
      storeRows t w e (64 - t.c.matrix.progress) t.c.matrix.progress s)
  | _ => .fail .matrix (matrixValue t.op.ipc t.op.unit 0x07) s

/-- An A panel: whether it is there, and element k of row r with its scale (R232, R247). -/
def aPanel (m : MatrixSeq) (f ta q : Nat) : Option (Nat → Nat → Num) :=
  match tget m.tiles (ta + q / 2) with
  | .panel g h0 h1 words scales =>
    let h := q % 2
    if g = f ∧ (if h = 0 then h0 else h1) = true then
      some (fun r k =>
        let i := k / tilePerWord f
        let at1 := fun (j : Nat) => (tget words (1024 * h + 16 * r + j)).toNat
        scaled f (tileValue f (at1 (2 * i) + 2 ^ 64 * at1 (2 * i + 1)) (k % tilePerWord f)).1
          (tget scales (512 * h + 64 * (k / blockSize f) + r)))
    else none
  | _ => none

/-- A B panel: element at depth k of column n with its scale (R233, R247); an absent subtile is zero elements. -/
def bPanel (m : MatrixSeq) (f i : Nat) : Option (Nat → Nat → Num) :=
  match tget m.slots i with
  | some w =>
    if w.fmt = f then
      some (fun k n =>
        let e := tilePerWord f
        let sub := 8 * (k / e) + n / 8
        let at1 := fun (j : Nat) => (tget w.words (16 * sub + j)).toNat
        let word := at1 (2 * (n % 8)) + 2 ^ 64 * at1 (2 * (n % 8) + 1)
        let x := if w.map.getLsbD sub then (tileValue f word (k % e)).1 else .fin false 0 0
        scaled f x (tget w.scales (64 * (k / blockSize f) + n)))
    else none
  | none => none

/-- The exact sum of products (R131): −0 only when every product is −0. -/
def exactSum : List Num → Option Num
  | [] => none
  | [x] => some x
  | x :: xs => (exactSum xs).map (fun y => (addNum false x y).1)

/-- Add chunks of products to an accumulator, each with one rounding (R131, R247). -/
def addChunks (h : Nat) : Nat → List Num → Nat → Nat
  | 0, _, acc => acc
  | fuel + 1, ps, acc =>
    match exactSum (ps.take h) with
    | none => acc
    | some x => addChunks h fuel (ps.drop h) (finish .f32 plainRN (addNum false (Fmt.f32.read false acc) x)).1

/-- Row r of A along K: dense, or spread by its 2-of-4 pattern (R247, R248). -/
def aRow (op : TileOp) (panels : List (Nat → Nat → Num)) (r : Nat) : List Num :=
  let p := panelDepth op.fmt
  let rows := (List.range panels.length).zip panels |>.flatMap (fun e =>
    if op.op = 0 then (List.range p).map (e.2 r)
    else
      let v := sparsePattern op.regs op.sel e.1 r
      (List.range (2 * p)).map (fun k =>
        if k % 4 = v % 4 then e.2 r (k / 4 * 2) else if k % 4 = v / 4 then e.2 r (k / 4 * 2 + 1) else .fin false 0 0))
  rows.take op.kcnt

/-- MMA's and MMAS's work (R247 to R249). -/
def doMma (t : TileCtx) (s : State) : Doing Unit :=
  let m := t.c.matrix
  let op := t.op
  let f := op.fmt
  let p := panelDepth f
  let ta := op.val.toNat % 32
  let ws := op.val.toNat / 256 % 32
  let na := if op.op = 0 then (op.kcnt + p - 1) / p else (op.kcnt + 2 * p - 1) / (2 * p)
  let nb := (op.kcnt + p - 1) / p
  match (List.range na).find? (fun q => (aPanel m f ta q).isNone) with
  | some q => .fail .matrix (matrixValue op.ipc (ta + q / 2) 0x05) s
  | none =>
    match (List.range nb).find? (fun q => (bPanel m f (ws + q)).isNone) with
    | some q => .fail .matrix (matrixValue op.ipc (ws + q) 0x06) s
    | none =>
      let start := if op.z then some [] else match tget m.tiles op.unit with | .acc e => some e | _ => none
      match start with
      | none => .fail .matrix (matrixValue op.ipc op.unit 0x07) s
      | some acc =>
        let as := (List.range na).filterMap (aPanel m f ta)
        let bs := (List.range nb).filterMap (fun q => bPanel m f (ws + q))
        let rows := (List.range 64).map (aRow op as)
        let cols := (List.range 64).map (fun n => (bs.flatMap (fun b => (List.range p).map (fun k => b k n))).take op.kcnt)
        let h := chunkSize f
        let out := fun (i : Nat) =>
          let ps := ((rows[i / 64]?).getD []).zipWith (fun a b => (mulNum a b).1) ((cols[i % 64]?).getD [])
          BitVec.ofNat 32 (addChunks h (op.kcnt / h + 1) ps (tget acc i).toNat)
        .ok () (s.modMatrix t.key (fun m => { m with tiles := tset m.tiles op.unit (.acc (tableOf 4096 out)) }))

/-- The work of the oldest tile instruction; MROW's pushes are MROW_PUSH's. -/
def tileWork (t : TileCtx) (s : State) : Doing Unit :=
  match t.op.op with
  | 0 | 1 => doMma t s
  | 2 => doMlda t s
  | 3 => doMldw t s
  | 4 => .ok () (s.modMatrix t.key (fun m => { m with tiles := tset m.tiles t.op.unit (.acc []) }))
  | 5 => doMacld t s
  | 6 => doMacst t s
  | 7 =>
    match tget t.c.matrix.tiles t.op.unit with
    | .acc _ => .ok () s
    | _ => .fail .matrix (matrixValue t.op.ipc t.op.unit 0x07) s
  | _ => .ok () s

/-- The MSYNCs that wait behind a tile instruction that failed return, and acquire nothing (R253): their lanes go on. No
instruction of the stream comes between this and the delivery of the trap. -/
def Consist.returnSyncs (c : Consist) : Consist :=
  let go := fun (x : StreamSt) => c.matrix.syncs.foldl (fun (x : StreamSt) e =>
    let run := maskWhere (fun l => e.2.1.getLsbD l && tget x.pc l == e.1)
    if run = 0 then x
    else x.retired {} run ((tfind (lowest run) x.hints).getD Hints.none) (c.alive .c)) x
  { c with c := go c.c, saved := c.saved.map (fun v => { v with c := go v.c }), matrix := { c.matrix with syncs := [] } }

/-- A failure at execution (R237): the instruction and all behind it leave the queue, their numbers are given again, and
the trap is delivered. -/
def tileFail (key : Nat) (cause : Cause) (value : DWord) (s : State) : State :=
  let co := s.core (coreOf key)
  let s := s.setCore (coreOf key) { co with rowWait := co.rowWait.filter (fun e => e.1 != key) }
  (s.modConsist key (fun c =>
    let m := c.matrix
    let c := c.returnSyncs
    { (c.giveFault cause value 0 (c.holds .c && cause != .mmx)) with
        matrix := { m with queue := [], issued := m.counter.toNat, started := false, done := false, progress := 0,
                           rowsPending := 0, syncs := [] } })).releaseRows key

/-- May the engine of a consist work (R255, R389)? -/
def Consist.engineOn (c : Consist) : Bool :=
  !c.parked

/-- TILE_EXECUTE (R235): the oldest tile instruction of a consist is executed, or waits for a translation. -/
def execTileExecute (consist : Nat) (s : State) : Out :=
  .next (match s.consist? consist with
    | none => s
    | some c =>
      match c.matrix.queue with
      | [] => s
      | op :: _ =>
        if !c.engineOn || c.matrix.done || (op.op == 7 && c.matrix.started) then s
        else
          let s := if c.matrix.started then s
            else
              let after := fun (k : Clock) => ((c.matrix.ends.take 1).map (fun (e : Nat × Release) => e.2.clk)).foldl Clock.join k
              let b := s.beginOp (after op.clk) (after op.wclk)
              b.2.modMatrix consist (fun m => { m with started := true, thread := b.1, progress := 0 })
          match s.consist? consist with
          | none => s
          | some c =>
            match tileWork (tileCtx consist c op) s with
            | .ok _ s => if op.op = 7 then s else s.modMatrix consist (fun m => { m with done := true })
            | .wait s => s
            | .fail cause v s => tileFail consist cause v s
            | .gone s => s).bump

/-- The one that came first, of equals the lowest. -/
def firstCome : List (Nat × Nat) → Option (Nat × Nat)
  | [] => none
  | e :: es =>
    match firstCome es with
    | none => some e
    | some f => if f.2 < e.2 ∨ (f.2 = e.2 ∧ f.1 < e.1) then some f else some e

/-- ROW_QUEUE_GRANT (R250): of the consists that may push, the one whose MROW came to the head first gets the row queue. -/
def execRowQueueGrant (core : Nat) (s : State) : Out :=
  let co := s.core core
  let free := fun (k : Nat) => (co.ownerOf k == none || co.ownerOf k == some k)
    && (co.rowsOf k).all (fun (e : RowEntry) => e.consist == k)
  .next (match firstCome (co.rowWait.filter (fun e => free e.1)) with
    | some (k, _) => s.setCore core ({ co with rowWait := co.rowWait.filter (fun e => e.1 != k) }.setOwner k (some k))
    | none => s).bump

/-- MROW_PUSH (R251): the next entry of an MROW that owns the row queue, while there is room. -/
def execMrowPush (consist : Nat) (s : State) : Out :=
  .next (match s.consist? consist with
    | none => s
    | some c =>
      let k := coreOf consist
      let co := s.core k
      match c.matrix.queue with
      | op :: _ =>
        if c.engineOn && c.matrix.started && c.pushing && co.ownerOf consist == some consist && !co.rowWait.any (fun e => e.1 == consist)
            && decide ((co.rowsOf consist).length < 64) then
          match tget c.matrix.tiles op.unit with
          | .acc e =>
            let i := c.matrix.progress
            let row := op.val.toNat / 256 % 64 + i / 2
            let entry : RowEntry := { consist := consist, row := row, seg := i % 2,
                                      vals := (List.range 32).map (fun l => tget e (64 * row + 32 * (i % 2) + l)) }
            let last := decide (2 * (op.val.toNat % 128) ≤ i + 1)
            (s.setCore k (co.setRows consist (co.rowsOf consist ++ [entry]))).modMatrix consist (fun m =>
              { m with progress := i + 1, done := last, rowsPending := if last then m.rowsPending - 1 else m.rowsPending })
          | _ => s
        else s
      | [] => s).bump

/-- TILE_COMPLETE (R236): the oldest tile instruction is complete, and the class-2 counter advances. -/
def execTileComplete (consist : Nat) (s : State) : Out :=
  .next (match s.consist? consist with
    | none => s
    | some c =>
      match c.matrix.queue with
      | [] => s
      | op :: rest =>
        if !c.matrix.done then s
        else
          let r := s.endOp c.matrix.thread (tileCtx consist c op).party
          ((r.2.modMatrix consist (fun m =>
            { m with queue := rest, started := false, done := false, progress := 0, counter := m.counter + 1,
                     ends := addEnd m.ends (m.counter.toNat + 1) r.1,
                     sent := (op.time, op.lanes, engineThread m.thread) :: m.sent })).releaseRows consist).queueRows consist).bump

end Sys2Proof.Machine
end

