-- ==== Sys2Proof/Machine/Freight.lean ====
section
/-!
DEFINITION. Major 0x54 (R257 to R269): layout records, the checks and slices of the Freight instructions, the operations of
a context, their completion and their faults.
-/

namespace Sys2Proof.Machine

open Sys2Proof

/-! ## Layout records (R259, R260) -/

/-- Bits [hi:lo] of a layout record. -/
def layField (r : BitVec 512) (hi lo : Nat) : Nat := (r.extractLsb' lo (hi + 1 - lo)).toNat

/-- Extent j. -/
def layExtent (r : BitVec 512) (j : Nat) : Nat := layField r (16 * j + 15) (16 * j)

/-- Bytes of an element. -/
def layBytes (r : BitVec 512) : Nat := 2 ^ layField r 436 434

/-- Source stride of dimension j, 1 to 3. -/
def laySrc (r : BitVec 512) (j : Nat) : Nat := layField r (32 * j + 63) (32 * j + 32)

/-- Destination stride of dimension j, 1 to 3. -/
def layDst (r : BitVec 512) (j : Nat) : Nat := layField r (32 * j + 159) (32 * j + 128)

/-- Slice count S. -/
def laySlices (r : BitVec 512) : Nat := layField r 443 439 + 1

/-- Source handle, destination handle, handle of the index list. -/
def layHs (r : BitVec 512) : Nat := layField r 421 416
/-- See `layHs`. -/
def layHd (r : BitVec 512) : Nat := layField r 427 422
/-- See `layHs`. -/
def layHi (r : BitVec 512) : Nat := layField r 433 428

/-- Number of rows. -/
def layRows (r : BitVec 512) : Nat := layExtent r 1 * layExtent r 2 * layExtent r 3

/-- Is this a valid record (R262, reason 1)? -/
def layValid (r : BitVec 512) : Bool :=
  r.getLsbD 456 && layField r 511 457 == 0 && decide (layField r 436 434 ≤ 4)
    && (List.range 4).all (fun j => layExtent r j != 0) && decide (layExtent r 0 * layRows r ≤ 2 ^ 32)

/-- Handles that a form uses (R264). -/
def layHandles (form : Nat) (r : BitVec 512) : List Nat :=
  match form with
  | 1 => [layHd r]
  | 2 | 3 => [layHs r, layHd r, layHi r]
  | 5 => [layHs r]
  | _ => [layHs r, layHd r]

/-- Offset of a row's first element in the source (`src`) or the destination (R260). -/
def layRowOffset (r : BitVec 512) (src : Bool) (row : Nat) : Nat :=
  let i1 := row % layExtent r 1
  let i2 := row / layExtent r 1 % layExtent r 2
  let i3 := row / (layExtent r 1 * layExtent r 2)
  if src then layField r 303 256 + i1 * laySrc r 1 + i2 * laySrc r 2 + i3 * laySrc r 3
  else layField r 351 304 + i1 * layDst r 1 + i2 * layDst r 2 + i3 * layDst r 3

/-! ## The instructions (R261 to R263) -/

/-- The reason LAYOUT is raised for, the first that holds (R262). -/
def layoutReason (s : State) (v : Nat) (form : Nat) (copy : DWord) : Option Nat :=
  let ctx := (copy.extractLsb' 16 4).toNat
  let r := tget (tget (s.session v).freight ctx).layouts (copy.extractLsb' 0 16).toNat
  let rt := layField r 438 437
  if copy.extractLsb' 20 44 ≠ 0 then some 0
  else if layValid r = false then some 1
  else if layField r 455 448 ≠ v ∨ layField r 447 444 ≠ ctx then some 2
  else if (layHandles form r).contains 1 = true then some 3
  else if form = 4 ∧ (rt ≤ 2 ∧ layBytes r ≠ 4 ∨ rt = 3 ∧ layBytes r ≠ 8) then some 4
  else none

/-- TRAPV of FREIGHT (R268). -/
def freightValue (elem reason ctx : Nat) : DWord := BitVec.ofNat 64 (elem * 2 ^ 32 + reason * 2 ^ 28 + ctx * 2 ^ 24)

/-- Is an assembly pending? -/
def Assembly.pending (a : Assembly) : Bool := a.slices != []

/-- The reason a slice is refused for, the first that holds (R262 step 3). -/
def sliceReason (s : State) (c : Consist) (form : Nat) (copy word : DWord) : Option Nat :=
  let ctx := (copy.extractLsb' 16 4).toNat
  let f := tget (s.session c.sess).freight ctx
  let lh := (copy.extractLsb' 0 16).toNat
  let slice := (word.extractLsb' 0 5).toNat
  let a := tget (s.convoyOf c).assemblies ctx
  if f.halted then some 0xC
  else if laySlices (tget f.layouts lh) ≤ slice ∨ word.extractLsb' 5 27 ≠ 0 then some 0x1
  else if a.pending = true ∧ (a.form ≠ form ∨ a.layout ≠ lh) then some 0x3
  else if a.slices.any (fun e => e.1 == slice) = true then some 0x2
  else none

/-- Change a context of a session. -/
def State.modFreight (s : State) (v ctx : Nat) (f : FreightCtx → FreightCtx) : State :=
  let x := s.session v
  s.setSession v { x with freight := tset x.freight ctx (f (tget x.freight ctx)) }

/-- A slice arrives (R263): the token becomes BUSY, and the last slice makes the context accept the operation (R258). -/
def State.arriveSlice (s : State) (x : Ctx) (form token : Nat) (copy word : DWord) : State :=
  let ctx := (copy.extractLsb' 16 4).toNat
  let lh := (copy.extractLsb' 0 16).toNat
  let slice := (word.extractLsb' 0 5).toNat
  let r := tget (tget (s.session x.c.sess).freight ctx).layouts lh
  let old := tget (s.convoyOf x.c).assemblies ctx
  let a : Assembly :=
    { form := form, layout := lh, fill := if slice = 0 then word.extractLsb' 32 32 else old.fill,
      slices := (slice, x.key, token) :: old.slices,
      clk := Clock.join old.clk (s.engineSeen 0 x.c.uid x.st (lanesOf x.act)),
      wclk := Clock.join old.wclk (s.engineSeen 3 x.c.uid x.st (lanesOf x.act)) }
  let s := s.modConsist x.key (fun c =>
    { c with tokens := c.tokens ||| (1#8 <<< token), tokenRels := tdel token c.tokenRels,
             tokenAt := tset c.tokenAt token (s.tick + 1, x.act) })
  if a.slices.length < laySlices r then
    s.modConvoy x.c.convoy (fun v => { v with assemblies := tset v.assemblies ctx a })
  else
    (s.modConvoy x.c.convoy (fun v => { v with assemblies := tdel ctx v.assemblies })).modFreight x.c.sess ctx (fun f =>
      let op : FreightOp := { number := f.accepted + 1, form := form, layout := r, fill := a.fill, convoy := x.c.convoy,
                              tokens := a.slices.map (fun e => e.2), clk := a.clk, wclk := a.wclk }
      { f with accepted := f.accepted + 1, queue := f.queue ++ [op] })

/-- A Freight instruction (R261, R262). -/
def freightIssue (form : Nat) (k : BitVec 3) (a b : BitVec 7) (s : State) : Out :=
  issue (packCpy 0x54 k a b (BitVec.ofNat 3 form))
    { uses := [(2, a, .src false false), (3, b, .src false false)], uniform := true }
    (fun x s =>
      if x.act = 0 then .ok s else
      let m := lowest x.act
      let copy := src1 x a m
      let word := src2 x a b m
      match layoutReason s x.c.sess form copy with
      | some n => .trap .layout (BitVec.ofNat 64 (n * 2 ^ 20 + copy.toNat % 2 ^ 20))
      | none =>
        if x.c.tokens.getLsbD k.toNat then .trap .token (k.setWidth 64)
        else match sliceReason s x.c form copy word with
          | some n => .trap .freight (freightValue 0 n (copy.extractLsb' 16 4).toNat)
          | none => .ok (s.arriveSlice x form k.toNat copy word)) s

/-- FRCOPY (R261). -/
def execFrcopy (k : BitVec 3) (a b : BitVec 7) (s : State) : Out := freightIssue 0 k a b s
/-- FRFILL (R261). -/
def execFrfill (k : BitVec 3) (a b : BitVec 7) (s : State) : Out := freightIssue 1 k a b s
/-- FRGATH (R261). -/
def execFrgath (k : BitVec 3) (a b : BitVec 7) (s : State) : Out := freightIssue 2 k a b s
/-- FRSCAT (R261). -/
def execFrscat (k : BitVec 3) (a b : BitVec 7) (s : State) : Out := freightIssue 3 k a b s
/-- FRRED (R261). -/
def execFrred (k : BitVec 3) (a b : BitVec 7) (s : State) : Out := freightIssue 4 k a b s
/-- FRPF (R261). -/
def execFrpf (k : BitVec 3) (a b : BitVec 7) (s : State) : Out := freightIssue 5 k a b s

/-! ## Execution (R264, R267, R268) -/

/-- What an operation's work needs: a consist of the issuing convoy, the operation, its thread, its agent. -/
structure FreightRun where
  c : Consist
  op : FreightOp
  thread : Nat
  agent : Nat

/-- The part of TRAPV that a failing access gives: reason, other party, SRC (R268). -/
def freightPart (reason agent : Nat) (src : Bool) : DWord :=
  BitVec.ofNat 64 (reason * 2 ^ 28 + agent * 2 ^ 4 + if src then 1 else 0)

/-- A failed check as FREIGHT: reasons 0x4 and 0x7 to 0x9 (R268). -/
def Doing.asFreight {α : Type} (x : Doing α) (src : Bool) : Doing α :=
  match x with
  | .fail .page _ s => .fail .freight (freightPart 7 0 src) s
  | .fail .prot _ s => .fail .freight (freightPart 8 0 src) s
  | .fail .mmx v s => .fail .freight (freightPart 9 (v.extractLsb' 0 20).toNat src) s
  | .fail _ _ s => .fail .freight (freightPart 4 0 src) s
  | y => y

/-- What the race detector keeps of an access: those of FRRED synchronise at system scope (R264). The context is an agent of
its session, which no scope below die takes in (R71). -/
def FreightRun.access (r : FreightRun) (s : State) (write : Bool) : Access :=
  { engineAccess s r.thread (sessionParty s r.c.sess r.agent) write (r.op.form == 4) with scope := 7 }

/-- The checks of one access in R177's order, with FREIGHT's reasons (R267, R268): its address space and its pieces. -/
def FreightRun.place (r : FreightRun) (h : Nat) (k : AccKind) (src : Bool) (off size : Nat) (s : State) :
    Doing (Nat × List Piece) :=
  ((engineWindow r.agent r.c h (k == .write) off s).asFreight src).bind (fun w s =>
    if off % size ≠ 0 then .fail .freight (freightPart 6 0 src) s
    else match w.firstOutside s r.c off size with
      | some _ => .fail .freight (freightPart 5 0 src) s
      | none =>
        ((engineReach (r.c.engine r.agent) k w.space (w.pieces s r.c 0 off size) s).asFreight src).bind (fun ps s =>
          ((engineRace w.chk (r.access s (k == .write)) ps s).asFreight src).bind (fun _ s => .ok (w.space, ps) s)))

/-- Read one element or index. -/
def FreightRun.get (r : FreightRun) (h off size : Nat) (s : State) : Doing Nat :=
  (r.place h .read true off size s).bind (fun p s =>
    (engineRead r.agent r.c.sess p.1 p.2 s).bind (fun f s => .ok (f 0) s))

/-- A write whose checks have passed: space, pieces, value. -/
abbrev Staged := Nat × List Piece × Nat

/-- Perform a staged write. -/
def Staged.perform (w : Staged) (atomic : Bool) (s : State) : State :=
  (w.2.1.foldl (fun s p => p.write s w.1 (w.2.2 / 2 ^ (8 * p.pos))) s).noteWrite atomic none
    (w.2.1.flatMap Piece.spans)

/-- FILL replicated to an element (R264). -/
def fillPattern (fill : Word) (size : Nat) : Nat :=
  (fill.toNat * (1 + 2 ^ 32 + 2 ^ 64 + 2 ^ 96)) % 2 ^ (8 * size)

/-- D(e) + S(e) of FRRED by type (R264). -/
def redSum (rt d x : Nat) : Nat :=
  match rt with
  | 0 => rmw 0 32 d x
  | 1 => rmw 8 32 d x
  | 2 => rmw 9 32 d x
  | _ => rmw 0 64 d x

/-- Read the source elements of FRPF, one after another: an element whose check fails is skipped (R264). -/
def FreightRun.touch (r : FreightRun) (so : Nat) : List Nat → State → Doing (List Staged)
  | [], s => .ok [] s
  | i :: is, s =>
    match r.get (layHs r.op.layout) (so + i * layBytes r.op.layout) (layBytes r.op.layout) s with
    | .ok _ t => r.touch so is t
    | .fail _ _ t => r.touch so is { t with accesses := s.accesses, spAccesses := s.spAccesses }
    | .wait t => .wait t
    | .gone t => .gone t

/-- One element of source offset `so` and destination offset `dst`: its checks and reads, and the write they allow. -/
def FreightRun.element (r : FreightRun) (so dst : Nat) (s : State) : Doing Staged :=
  let l := r.op.layout
  let n := layBytes l
  let put := fun (x : Nat) (s : State) =>
    (r.place (layHd l) .write false dst n s).bind (fun p s => Doing.ok (p.1, p.2, x) s)
  match r.op.form with
  | 1 => put (fillPattern r.op.fill n) s
  | 4 =>
    (r.get (layHs l) so n s).bind (fun x s =>
      (r.place (layHd l) .write false dst n s).bind (fun p s =>
        (engineRead r.agent r.c.sess p.1 p.2 s).bind (fun f s =>
          .ok (p.1, p.2, redSum (layField l 438 437) (f 0) x) s)))
  | _ => (r.get (layHs l) so n s).bind put

/-- The elements of a row, all their checks and reads before any write (R264). -/
def FreightRun.elements (r : FreightRun) (so dst : Nat) : List Nat → State → Doing (List Staged)
  | [], s => .ok [] s
  | i :: is, s =>
    let n := layBytes r.op.layout
    (r.element (so + i * n) (dst + i * n) s).bind (fun w s => (r.elements so dst is s).bind (fun ws s => .ok (w :: ws) s))

/-- The checks and reads of one unit, and the writes they allow: an element, or a row of FRGATH and FRSCAT (R264). -/
def FreightRun.unit (r : FreightRun) (j : Nat) (s : State) : Doing (List Staged) :=
  let l := r.op.layout
  let e0 := layExtent l 0
  let n := layBytes l
  if r.op.form = 2 ∨ r.op.form = 3 then
    (r.get (layHi l) (layField l 415 384 + 4 * j) 4 s).bind (fun x s =>
      if layField l 383 352 ≤ x then .fail .freight (freightPart 0xA 0 true) s
      else
        let so := if r.op.form = 2 then layField l 303 256 + x * laySrc l 1 else layRowOffset l true j
        let dst := if r.op.form = 3 then layField l 351 304 + x * layDst l 1 else layRowOffset l false j
        r.elements so dst (List.range e0) s)
  else if r.op.form = 5 then r.touch (layRowOffset l true (j / e0) + j % e0 * n) [0] s
  else
    r.elements (layRowOffset l true (j / e0) + j % e0 * n) (layRowOffset l false (j / e0) + j % e0 * n) [0] s

/-- Number of units of an operation. -/
def FreightOp.units (op : FreightOp) : Nat :=
  match op.form with
  | 2 | 3 => layRows op.layout
  | _ => layExtent op.layout 0 * layRows op.layout

/-- A unit that did not pass leaves no record of accesses. -/
def State.withoutAccesses (s before : State) : State :=
  { s with accesses := before.accesses, spAccesses := before.spAccesses }

/-- The units from one on, in ascending order (R264, R268). -/
def FreightRun.go (r : FreightRun) (ctx : Nat) : Nat → Nat → State → Doing Unit
  | 0, _, s => .ok () s
  | fuel + 1, j, s =>
    match r.unit j s with
    | .ok ws t =>
      let t := ws.foldl (fun t w => Staged.perform w (r.op.form == 4) t) t
      r.go ctx fuel (j + 1) (t.modFreight r.c.sess ctx (fun f => { f with progress := j + 1 }))
    | .wait t => .wait (t.withoutAccesses s)
    | .fail cause v t =>
      let e := if r.op.form = 2 ∨ r.op.form = 3 then j * layExtent r.op.layout 0 else j
      .fail cause (v + freightValue e 0 ctx) (t.withoutAccesses s)
    | .gone t => .gone t

/-- The agent identifier of a context (R14): its home die's. -/
def freightAgent (s : State) (v ctx : Nat) : Nat := agentId (s.session v).home 4 (16 * v + ctx)

/-- FREIGHT_OPERATION_START (R258): the oldest operation of a context starts, or goes on after a wait. -/
def execFreightOperationStart (sess ctx : Nat) (s : State) : Out :=
  .next (
    let f := tget (s.session sess).freight ctx
    match f.queue with
    | [] => s
    | op :: _ =>
      if f.halted || f.written || f.failure.isSome then s
      else
        let s := if f.started then s
          else
            let after := fun (c : Clock) => ((f.ends.take 1).map (fun (e : Nat × Release) => e.2.clk)).foldl Clock.join c
            let b := s.beginOp (after op.clk) (after op.wclk)
            b.2.modFreight sess ctx (fun f => { f with started := true, thread := b.1, progress := 0 })
        let f := tget (s.session sess).freight ctx
        let key := ((op.tokens.map (fun (e : Nat × Nat) => e.1)).find? (fun k => (s.consist? k).isSome)).getD 0
        match s.consist? key with
        | none => s
        | some c =>
          let r : FreightRun := { c := c, op := op, thread := f.thread, agent := freightAgent s sess ctx }
          match r.go ctx (op.units - f.progress) f.progress s with
          | .ok _ s => s.modFreight sess ctx (fun f => { f with written := true })
          | .wait s => s
          | .fail _ v s => s.modFreight sess ctx (fun f => { f with failure := some v })
          | .gone s => s).bump

/-- The operation that heads a context leaves it. -/
def FreightCtx.next (f : FreightCtx) : FreightCtx :=
  { f with queue := f.queue.drop 1, started := false, thread := 0, progress := 0, written := false, failure := none }

/-- FREIGHT_OPERATION_COMPLETE (R258): the tokens are FREE, the counter takes its number. -/
def execFreightOperationComplete (sess ctx : Nat) (s : State) : Out :=
  .next (
    let f := tget (s.session sess).freight ctx
    match f.queue with
    | [] => s
    | op :: _ =>
      if !f.written then s
      else
        let e := s.endOp f.thread (sessionParty s sess (freightAgent s sess ctx))
        let s := e.2.modFreight sess ctx (fun f =>
          { f.next with counter := BitVec.ofNat 64 op.number, ends := addEnd f.ends op.number e.1 })
        op.tokens.foldl (fun (s : State) (t : Nat × Nat) => s.modConsist t.1 (fun c =>
          { c with tokens := c.tokens &&& ~~~(1#8 <<< t.2), tokenRels := tset c.tokenRels t.2 [e.1],
                   freightRels := ((tget c.tokenAt t.2).1, (tget c.tokenAt t.2).2, engineThread f.thread, e.1) :: c.freightRels })) s).bump

/-- Deliver a Freight fault to every consist of a convoy whose exit is not reported, releasing these tokens (R268). -/
def State.deliverFreight (s : State) (conv : Nat) (tokens : List (Nat × Nat)) (v : DWord) : State :=
  match s.convoy? conv with
  | none => s
  | some y => y.members.foldl (fun s k => s.modConsist k (fun c =>
      let mine := (tokens.filter (fun t => t.1 == k)).foldl (fun m t => m ||| (1#8 <<< t.2)) 0#8
      c.giveFault .freight v mine false)) s

/-- FREIGHT_FAULT (R268): the context is HALTED, and the failed operation and all behind it deliver their faults. -/
def execFreightFault (sess ctx : Nat) (s : State) : Out :=
  .next (
    let f := tget (s.session sess).freight ctx
    match f.failure, f.queue with
    | some v, op :: rest =>
      let e := s.endOp f.thread (sessionParty s sess (freightAgent s sess ctx))
      let s := e.2.modFreight sess ctx (fun f =>
        { f.next with queue := [], halted := true, accepted := op.number - 1 })
      rest.foldl (fun (s : State) (o : FreightOp) => s.deliverFreight o.convoy o.tokens (freightValue 0 0xD ctx))
        (s.deliverFreight op.convoy op.tokens v)
    | _, _ => s).bump

/-- Does a consist wait in its exit, or has it ended (R269)? -/
def State.atExit (s : State) (k : Nat) : Bool :=
  match s.consist? k with
  | some c => match c.status with
    | .running => false
    | _ => true
  | none => true

/-- FREIGHT_ASSEMBLY_ABANDON (R269): a pending assembly of a convoy all of whose consists wait in exit or have ended is
discarded with reason 0xB. -/
def execFreightAssemblyAbandon (convoy ctx : Nat) (s : State) : Out :=
  .next (match s.convoy? convoy with
    | none => s
    | some v =>
      let a := tget v.assemblies ctx
      if !a.pending || !v.members.all s.atExit then s
      else (s.modConvoy convoy (fun v => { v with assemblies := tdel ctx v.assemblies })).deliverFreight convoy
        (a.slices.map (fun (e : Nat × Nat × Nat) => e.2)) (freightValue 0 0xB ctx)).bump

/-- The pending assemblies of a cancelled convoy are discarded, and their tokens with them (R269). -/
def State.dropAssemblies (s : State) (conv : Nat) : State :=
  match s.convoy? conv with
  | none => s
  | some v =>
    (v.assemblies.flatMap (fun e => e.2.slices)).foldl (fun s t => s.modConsist t.2.1 (fun c =>
      { c with tokens := c.tokens &&& ~~~(1#8 <<< t.2.2) })) (s.setConvoy conv { v with assemblies := [] })

end Sys2Proof.Machine
end

