-- ==== Sys2Proof/Machine/Waybill.lean ====
section
/-!
DEFINITION. Launch headers, waybills, sidings, completion counts and join records (R270 to R281), and the Dispatch
instructions of major 0x56 (R282 to R284).
-/

namespace Sys2Proof.Machine

open Sys2Proof

/-! ## Launch headers (R270, R271) -/

/-- Bits [hi:lo] of a launch header. -/
def hdrField (h : BitVec 1024) (hi lo : Nat) : Nat := (h.extractLsb' lo (hi + 1 - lo)).toNat

/-- Consists per convoy. -/
def hdrConsists (h : BitVec 1024) : Nat := hdrField h 516 512 + 1
/-- Convoys per train, 0 for none. -/
def hdrTrain (h : BitVec 1024) : Nat := hdrField h 520 517
/-- Convoys that start together. -/
def hdrGroup (h : BitVec 1024) : Nat := max 1 (hdrTrain h)
/-- SUP. -/
def hdrSup (h : BitVec 1024) : Bool := h.getLsbD 521
/-- Argument words and barrier descriptors. -/
def hdrArgs (h : BitVec 1024) : Nat := hdrField h 527 523
/-- See `hdrArgs`. -/
def hdrBars (h : BitVec 1024) : Nat := hdrField h 532 528
/-- Tiles and weight slots of a consist. -/
def hdrTiles (h : BitVec 1024) : Nat := hdrField h 491 486
/-- See `hdrTiles`. -/
def hdrSlots (h : BitVec 1024) : Nat := hdrField h 497 492
/-- Barrier slots, stash KiB and scratchpad bytes. -/
def hdrBcnt (h : BitVec 1024) : Nat := hdrField h 485 477
/-- See `hdrBcnt`. -/
def hdrStash (h : BitVec 1024) : Nat := hdrField h 476 469
/-- See `hdrBcnt`. -/
def hdrPad (h : BitVec 1024) : Nat := hdrField h 467 448
/-- Graph, phase and job. -/
def hdrLevels (h : BitVec 1024) : Nat × Nat × Nat := (hdrField h 540 533, hdrField h 546 541, hdrField h 550 547)

/-- Is a header valid, the question who may give SUP apart (R271)? -/
def hdrValid (h : BitVec 1024) : Bool :=
  let f := hdrField h
  let size := f 95 64
  let entry := fun (e : Nat) => e % 4 == 0 && decide (e < size)
  f 1023 570 == 0 && f 319 316 == 0 && f 255 252 == 0 && f 63 60 == 0
    && decide (f 569 567 ≤ 5) && decide (f 566 564 ≤ 5) && decide (f 557 555 ≤ 4) && decide (hdrBars h ≤ 16)
    && hdrTrain h != 1 && decide (hdrTrain h ≤ 8)
    && decide (1 ≤ f 511 505) && decide (f 511 505 ≤ 64) && decide (1 ≤ f 504 498) && decide (f 504 498 ≤ 112)
    && decide (hdrSlots h ≤ 32) && decide (hdrTiles h ≤ 32) && decide (hdrBcnt h ≤ 256) && decide (hdrStash h ≤ 224)
    && hdrPad h % 256 == 0 && decide (hdrPad h ≤ 262144) && decide (f 447 416 ≤ f 415 384)
    && f 351 320 != 0 && (h.extractLsb' 352 32 &&& ~~~(h.extractLsb' 320 32)) == 0
    && f 315 256 % 128 == 0 && f 251 192 % 32 == 0 && size != 0 && size % 4 == 0 && f 59 0 % 256 == 0
    && entry (f 127 96) && entry (f 159 128) && (!h.getLsbD 522 || entry (f 191 160))
    && (hdrTrain h == 0 || (decide (hdrConsists h * hdrTiles h ≤ 32) && decide (hdrConsists h * hdrSlots h ≤ 32)))

/-- A header as it was read: its bits, argument words and barrier descriptors. -/
structure Header where
  bits : BitVec 1024
  args : List DWord
  bars : List DWord
  deriving DecidableEq, Repr

/-- The slots that the descriptors bind, none when one is refused (R200, R272). -/
def Header.binds (h : Header) : Option (Table Barrier) :=
  (h.bars.foldl (fun (v : Option Convoy) (d : DWord) =>
    match v with
    | none => none
    | some v =>
      let i := (d.extractLsb' 32 8).toNat
      if d.extractLsb' 40 24 ≠ 0 ∨ hdrBcnt h.bits ≤ i then none
      else (barDescriptor v i ((d.extractLsb' 0 32).setWidth 64)).map (fun e =>
        { v with bars := tput i { word := e.1, expect := e.2, arrived := 0, phase := 0, drops := 0, rels := [] } v.bars }))
    (some { (default : Convoy) with spSize := hdrPad h.bits })).map (fun v => v.bars)

/-! ## Waybills (R273) -/

/-- HDR, FRAME, JOINP, convoy count and FIRST of a waybill. -/
def wbHdr (w : BitVec 256) : Nat := (w.extractLsb' 0 60).toNat
/-- See `wbHdr`. -/
def wbFrame (w : BitVec 256) : DWord := w.extractLsb' 64 64
/-- See `wbHdr`. -/
def wbJoinp (w : BitVec 256) : Nat := (w.extractLsb' 128 60).toNat
/-- See `wbHdr`. -/
def wbCount (w : BitVec 256) : Nat := (w.extractLsb' 192 32).toNat + 1
/-- See `wbHdr`. -/
def wbFirst (w : BitVec 256) : Nat := (w.extractLsb' 224 32).toNat

/-- Is a waybill valid? -/
def wbValid (w : BitVec 256) : Bool :=
  w.extractLsb' 60 4 == 0 && w.extractLsb' 188 4 == 0 && wbHdr w % 128 == 0 && wbJoinp w % 8 == 0
    && decide (wbFirst w + (wbCount w - 1) ≤ 2 ^ 32 - 1)

/-- A waybill of these fields. -/
def mkWaybill (hdr : Nat) (frame : DWord) (joinp count first : Nat) : BitVec 256 :=
  BitVec.ofNat 32 first ++ BitVec.ofNat 32 (count - 1) ++ BitVec.ofNat 64 joinp ++ frame ++ BitVec.ofNat 64 hdr

/-- A waybill after `n` of its convoys have been expanded (R275). -/
def wbAfter (w : BitVec 256) (n : Nat) : BitVec 256 :=
  mkWaybill (wbHdr w) (wbFrame w) (wbJoinp w) (wbCount w - n) (wbFirst w + n)

/-! ## Who asks the engine -/

/-- Who enqueues or joins: how its addresses are translated, its session, the private region that h0 does not reach
(R179), its rank (R280), whether it may give a supervisor header (R271), the convoy whose reservation it may use (R274),
what it has seen, and what a lost line does to it. -/
structure Issuer where
  who : Asker
  sess : Nat
  region : Nat → Nat → Bool
  rank : Nat
  sup : Bool
  conv : Option Nat
  clk : Clock
  lost : LineState → State → Eff

/-- TRAPV of SIDING (R284). -/
def sidingValue (reason at1 : Nat) : DWord := BitVec.ofNat 64 (at1 / 16 * 16 + reason)

/-- A SIDING. -/
def sidingTrap {α : Type} (s : State) (reason at1 : Nat) : Got α := .out (.trapIn s .siding (sidingValue reason at1))

/-- The pieces of a range of h0, translated for a read or a write (R177 steps 3 and 4, R195). -/
def Issuer.pieces (e : Issuer) (k : AccKind) (va n : Nat) (s : State) : Got (List Piece) :=
  if 2 ^ 60 < va + n ∨ e.region va n = true then .out (.trapIn s .bounds (boundsValue 0 va))
  else reach e.who k false 0 ((cutPatches 0 va (n / 1024 + 2) n).map (fun p =>
    { lane := 0, pos := p.1, va := p.2.1, len := p.2.2, spot := .late none })) s

/-- Read a range of h0. -/
def Issuer.read (e : Issuer) (va n : Nat) (s : State) : Got Nat :=
  (e.pieces .read va n s).bind (fun ps s =>
    match badLine s ps with
    | .good => .val (ps.foldl (fun x p => x + p.read s 0 * 2 ^ (8 * p.pos)) 0) (correctPieces s ps)
    | bad => .out (e.lost bad s))

/-- Read and check the header of a launch (R271, R272); a fault of it is SIDING with this reason and address, and PRIV
when its issuer may not give SUP. -/
def Issuer.header (e : Issuer) (w : BitVec 256) (reason at1 : Nat) (s : State) : Got Header :=
  (e.read (wbHdr w) 128 s).bind (fun x s =>
    let h := BitVec.ofNat 1024 x
    if !hdrValid h then sidingTrap s reason at1
    else if hdrSup h && !e.sup then (if reason = 2 then .out (.trapIn s .priv 0) else sidingTrap s reason at1)
    else if hdrTrain h ≠ 0 ∧ wbCount w % hdrTrain h ≠ 0 then sidingTrap s reason at1
    else
      (e.read (wbHdr w + 128) (8 * (hdrArgs h + hdrBars h)) s).bind (fun y s =>
        let word := fun (i : Nat) => BitVec.ofNat 64 (y / 2 ^ (64 * i))
        let r : Header := { bits := h, args := (List.range (hdrArgs h)).map word,
                            bars := (List.range (hdrBars h)).map (fun j => word (hdrArgs h + j)) }
        if r.binds.isNone then sidingTrap s reason at1 else .val r s))

/-- The arming of a record (R279): its control word's pieces, the word armed, and what it will hold. -/
structure Arming where
  spot : List Piece
  ctl : Nat
  levels : Nat × Nat × Nat
  deriving DecidableEq, Repr

/-- A launch that has passed its checks. -/
structure Plan where
  wb : BitVec 256
  hdr : Header
  rank : Nat
  arm : Option Arming
  deriving DecidableEq, Repr

/-- Check the join record that a new launch names; none when there is nothing to arm (R279, R280). -/
def Issuer.arming (e : Issuer) (record : Nat) (s : State) : Got (Option Arming) :=
  if record = 0 then .val none s
  else
    (e.read record 40 s).bind (fun x s =>
      let ctl := bitsOf x 63 32
      let cont := BitVec.ofNat 256 (x / 2 ^ 64)
      if 2 ^ 31 ≤ ctl then .val none s
      else if 16 ≤ ctl then sidingTrap s 5 record
      else if ctl < e.rank then sidingTrap s 0 record
      else if !wbValid cont then sidingTrap s 5 record
      else (e.header cont 5 record s).bind (fun h s =>
        (e.pieces .write (record + 4) 4 s).bind (fun ps s =>
          .val (some { spot := ps, ctl := ctl + 2 ^ 31, levels := hdrLevels h.bits }) s)))

/-- Check a waybill as a new launch at a rank (R271, R273, R279). -/
def Issuer.plan (e : Issuer) (w : BitVec 256) (rank at1 : Nat) (s : State) : Got Plan :=
  if !wbValid w then sidingTrap s 2 at1
  else (e.header w 2 at1 s).bind (fun h s =>
    (e.arming (wbJoinp w) s).bind (fun a s => .val { wb := w, hdr := h, rank := rank, arm := a } s))

/-! ## Slots and sidings (R274, R276) -/

/-- Is a convoy one of the session's resident ones, which hold reservations: not a band program's, and not all ended? -/
def Convoy.holds (c : Convoy) (v : Nat) : Bool := c.sess == v && !c.line && decide (c.ended < c.size)

/-- Slots of a siding that are neither occupied nor reserved (R274). -/
def State.sidingFree (s : State) (v r : Nat) : Nat :=
  let x := s.session v
  let q := tget x.sidings r
  let reserved := (s.convoys.filter (fun e => match e.2 with
    | some c => c.holds v && !q.any (fun w => w.reserved == some e.1)
    | none => false)).length
  x.depths.getD r 0 - (q.length + reserved)

/-- A slot of a siding for an issuer: an unreserved one, or its convoy's reservation when there is none (R274). -/
def State.sidingSpace (s : State) (v r : Nat) (conv : Option Nat) : Option (Option Nat) :=
  if s.sidingFree v r ≠ 0 then some none
  else match conv with
    | none => none
    | some k =>
      if (tget (s.session v).sidings r).any (fun w => w.reserved == some k) then none else some (some k)

/-- A free launch slot, which one being the engine's own choice (R276). -/
def State.freeLaunch (s : State) (v : Nat) : Option Nat :=
  ((List.range 1024).map (fun j => (Config.corePick s.tick + j) % 1024)).find? (fun j =>
    (tget (s.session v).launches j).count == 0)

/-- Change a session. -/
def State.modSession (s : State) (v : Nat) (f : Session → Session) : State := s.setSession v (f (s.session v))

/-- Add to the count of a level's slot. -/
def raiseLevel (t : Table Level) (i n : Nat) : Table Level :=
  let l := tget t i
  tset t i { l with count := l.count + BitVec.ofNat 64 n }

/-- Lower the count of a level's slot by n exits that have released a clock; at 0 it is complete, and CANCELLED clears
(R276, R284). -/
def lowerLevel (t : Table Level) (i n : Nat) (clk : Clock) : Table Level :=
  let l := tget t i
  let c := l.count - BitVec.ofNat 64 n
  tset t i { count := c, cancelled := l.cancelled && c != 0, exitClk := Clock.join l.exitClk clk }

/-- Raise the counts of a graph, phase and job. -/
def State.raiseLevels (s : State) (v : Nat) (g : Nat × Nat × Nat) (n : Nat) : State :=
  s.modSession v (fun x => { x with graphs := raiseLevel x.graphs g.1 n, phases := raiseLevel x.phases g.2.1 n,
                                    jobs := raiseLevel x.jobs g.2.2 n })

/-- Lower the counts of a graph, phase and job; a job that completes is posted (R276). -/
def State.lowerLevels (s : State) (v : Nat) (g : Nat × Nat × Nat) (n : Nat) (clk : Clock) : State :=
  let s := s.modSession v (fun x => { x with graphs := lowerLevel x.graphs g.1 n clk,
                                             phases := lowerLevel x.phases g.2.1 n clk,
                                             jobs := lowerLevel x.jobs g.2.2 n clk })
  if n ≠ 0 ∧ (tget (s.session v).jobs g.2.2).count = 0 then s.post v 0 0 1 (BitVec.ofNat 32 g.2.2) 0 else s

/-- Convoys of a launch have exited, or leave unexpanded (R276, R283, R284): at 0 the slot is free, and the engine owes a
JOIN on the launch's record. -/
def State.lowerLaunch (s : State) (v slot n : Nat) (clk : Clock) : State :=
  let l := tget (s.session v).launches slot
  let c := l.count - BitVec.ofNat 64 n
  let l := { l with count := c, cancelled := l.cancelled && c != 0, exitClk := Clock.join l.exitClk clk }
  let s := s.modSession v (fun x =>
    let owed := if n ≠ 0 ∧ c = 0 ∧ l.joinp ≠ 0 then [{ slot := slot, record := l.joinp, launch := l }] else []
    { x with launches := tset x.launches slot l, joins := x.joins ++ owed })
  s.lowerLevels v (hdrLevels l.header) n clk

/-- Release the hold of an armed record (R279, R283). -/
def State.dropHold (s : State) (v record : Nat) : State :=
  match tfind record (s.session v).holds with
  | none => s
  | some g => (s.modSession v (fun x => { x with holds := tdel record x.holds })).lowerLevels v g 1 []

/-- Put a waybill into a siding. -/
def State.pushSiding (s : State) (v r : Nat) (q : Queued) : State :=
  s.modSession v (fun x => { x with sidings := tset x.sidings r (tget x.sidings r ++ [q]) })

/-- A launch is accepted in a slot (R276, R279, R282): its counts, its record armed, its waybill in its siding. -/
def State.acceptLaunch (s : State) (v : Nat) (p : Plan) (slot : Nat) (reserved : Option Nat) (sup : Bool) (clk : Clock) :
    State :=
  let n := wbCount p.wb
  let old := tget (s.session v).launches slot
  let l : Launch :=
    { uid := s.nextUid, count := BitVec.ofNat 64 n, cancelled := false, rank := p.rank, sup := sup, header := p.hdr.bits,
      hdrAddr := wbHdr p.wb, next := wbFirst p.wb + n, joinp := wbJoinp p.wb, args := p.hdr.args, bars := p.hdr.bars,
      exitClk := [], pastClk := Clock.join old.pastClk old.exitClk, reports := [] }
  let s := { s with nextUid := s.nextUid + 1 }
  let s := (s.modSession v (fun x => { x with launches := tset x.launches slot l })).raiseLevels v
    (hdrLevels p.hdr.bits) n
  let s := match p.arm with
    | none => s
    | some a =>
      let s := a.spot.foldl (fun (s : State) (q : Piece) => q.write s 0 (a.ctl / 2 ^ (8 * q.pos))) s
      (s.modSession v (fun x => { x with holds := tput (wbJoinp p.wb) a.levels x.holds })).raiseLevels v a.levels 1
  s.pushSiding v p.rank { bits := p.wb, slot := slot, reserved := reserved, clk := clk }

/-- Does a launch slot lie within a level (R284): 0 launch, 1 graph, 2 phase, 3 job? -/
def withinLevel (l : Launch) (slot lvl i : Nat) : Bool :=
  match lvl with
  | 0 => slot == i
  | 1 => (hdrLevels l.header).1 == i
  | 2 => (hdrLevels l.header).2.1 == i
  | _ => (hdrLevels l.header).2.2 == i

/-- Is a level that a header names cancelled (R284 step 3)? -/
def State.levelsCancelled (s : State) (v : Nat) (g : Nat × Nat × Nat) : Bool :=
  let x := s.session v
  (tget x.graphs g.1).cancelled || (tget x.phases g.2.1).cancelled || (tget x.jobs g.2.2).cancelled

/-! ## JOIN (R278, R279, R283) -/

/-- What a JOIN finds: the counter's place and value, and the continuation with its control word and that word's place when
it reaches 0. -/
structure Joining where
  spot : List Piece
  count : Nat
  cont : Option (Plan × Nat × List Piece)
  deriving DecidableEq, Repr

/-- The checks of a continuation as a new launch: a supervisor header its joiner may not give is invalid (R271). -/
def Issuer.contPlan (e : Issuer) (w : BitVec 256) (rank record : Nat) (s : State) : Got Plan :=
  match e.plan w rank record s with
  | .out (.trapIn t .priv _) => sidingTrap t 2 record
  | g => g

/-- The checks of a JOIN on a record by b (R283). -/
def Issuer.join (e : Issuer) (record b : Nat) (s : State) : Got Joining :=
  (e.pieces .write record 4 s).bind (fun ps s =>
    match badLine s ps with
    | .good =>
      let s := correctPieces s ps
      let c := ps.foldl (fun x p => x + p.read s 0 * 2 ^ (8 * p.pos)) 0
      if c < b then sidingTrap s 4 record
      else if c ≠ b then .val { spot := ps, count := c, cont := none } s
      else
        (e.read record 40 s).bind (fun x s =>
          let ctl := bitsOf x 63 32
          if ctl % 16 < e.rank then sidingTrap s 0 record
          else (e.contPlan (BitVec.ofNat 256 (x / 2 ^ 64)) (ctl % 16) record s).bind (fun p s =>
            (e.pieces .write (record + 4) 4 s).bind (fun qs s =>
              .val { spot := ps, count := c, cont := some (p, ctl, qs) } s)))
    | bad => .out (e.lost bad s))

/-- The slots a continuation takes: launch slot, and siding slot; none where it must wait (R281). A continuation of a
cancelled level is dropped and takes none (R284). -/
def State.joinRoom (s : State) (e : Issuer) (j : Joining) : Option (Nat × Option Nat) :=
  match j.cont with
  | none => some (0, none)
  | some (p, _, _) =>
    if s.levelsCancelled e.sess (hdrLevels p.hdr.bits) then some (0, none)
    else match s.freeLaunch e.sess, s.sidingSpace e.sess p.rank e.conv with
      | some slot, some r => some (slot, r)
      | _, _ => none

/-- The releases left at a record's counter that a JOIN's scope pairs with (R63, R283). -/
def joinSeen (s : State) (j : Joining) (scope : Nat) (p : Party) (clk : Clock) : Clock :=
  ((s.visibleAt (j.spot.flatMap Piece.spans)).filter (pairs scope p)).foldl (fun c r => Clock.join c r.clk) clk

/-- A JOIN takes effect (R283): the counter falls; at 0 the continuation is accepted, or dropped in a cancelled level, and
the hold passes. -/
def State.performJoin (s : State) (e : Issuer) (record b : Nat) (j : Joining) (slot : Nat) (reserved : Option Nat)
    (rel : Release) (clk : Clock) : State :=
  let s := j.spot.foldl (fun s q => q.write s 0 ((j.count - b) / 2 ^ (8 * q.pos))) s
  let s := s.noteWrite true (some rel) (j.spot.flatMap Piece.spans)
  match j.cont with
  | none => s
  | some (p, ctl, qs) =>
    let s := qs.foldl (fun (s : State) (q : Piece) => q.write s 0 (ctl % 2 ^ 31 / 2 ^ (8 * q.pos))) s
    let s := if s.levelsCancelled e.sess (hdrLevels p.hdr.bits) then s
      else s.acceptLaunch e.sess p slot reserved e.sup clk
    s.dropHold e.sess record

/-! ## The instructions (R282 to R284) -/

/-- The value that says nothing was accepted (R281). -/
def dispatchFull : DWord := 0x8000000000000000#64

/-- Is the session of a consist in maintenance mode (R281)? -/
def Ctx.maintenance (x : Ctx) (s : State) : Bool := (s.session x.c.sess).maintenance

/-- The issuer that a run's consist is. -/
def Ctx.issuer (x : Ctx) (s : State) : Issuer :=
  { who := x.c.asker x.key x.st, sess := x.c.sess, region := fun lo n => x.c.touchesRegion lo n, rank := (s.convoyOf x.c).rank,
    sup := decide (1 ≤ x.c.level), conv := some x.c.convoy, clk := s.seenBy x.c.uid x.st (lanesOf x.act),
    lost := consumePoison x }

/-- The launch of a run's convoy. -/
def Ctx.launch (x : Ctx) (s : State) : Launch := tget (s.session x.c.sess).launches (s.convoyOf x.c).slot

/-- A Dispatch instruction with active lanes: `d` receives the value for every active lane. -/
def dispatchOp (fn : BitVec 3) (d a b : BitVec 7) (w : BitVec 1) (hasD hasB rel : Bool)
    (body : Ctx → Nat → Nat → State → Got (Option DWord)) (s : State) : Out :=
  issue (packReg 0x56 d a b w fn)
    { uses := (if hasD then [(1, d, .dst false true false)] else []) ++ [(2, a, .src false false)]
        ++ (if hasB then [(3, b, .src false false)] else []), uniform := true }
    (fun x s =>
      if x.act = 0 then .ok s
      else if rel && s.logged x.key then .wait s
      else
        let m := lowest x.act
        (body x (src1 x a m).toNat (src2 x a b m).toNat s).andThen (fun v s =>
          match v with
          | none => .ok s
          | some v => .ok (s.modConsist x.key (fun c => putResult s c x.st d false (w == 1) (lanesOf x.act) (fun _ => v))))) s

/-- The end of an enqueue that finds no slot (R281). -/
def enqueueFull (x : Ctx) (s : State) : Got (Option DWord) :=
  if x.maintenance s then .val (some dispatchFull) s else .out (.wait s)

/-- Put a waybill into the issuer's launch (R282). -/
def enqueueOwn (x : Ctx) (r : Nat) (w : BitVec 256) (result : DWord) (s : State) : Got (Option DWord) :=
  let v := x.c.sess
  let slot := (s.convoyOf x.c).slot
  match s.sidingSpace v r (some x.c.convoy) with
  | none => enqueueFull x s
  | some res =>
    let l := x.launch s
    let n := wbCount w
    let l := { l with count := l.count + BitVec.ofNat 64 n, next := max l.next (wbFirst w + n) }
    let s := (s.modSession v (fun y => { y with launches := tset y.launches slot l })).raiseLevels v (hdrLevels l.header) n
    .val (some result) (s.pushSiding v r
      { bits := w, slot := slot, reserved := res, clk := (x.release s 8).clk })

/-- SPAWN (R282). -/
def execSpawn (d a b : BitVec 7) (w : BitVec 1) (s : State) : Out :=
  dispatchOp 0 d a b w true true true (fun x frame n s =>
    let l := x.launch s
    if n = 0 ∨ 2 ^ 32 - l.next < n ∨ n % hdrGroup l.header ≠ 0 then sidingTrap s 2 n
    else enqueueOwn x (s.convoyOf x.c).rank (mkWaybill l.hdrAddr (BitVec.ofNat 64 frame) 0 n l.next)
      (BitVec.ofNat 64 l.next) s) s

/-- JOIN (R283). -/
def execJoin (d a b : BitVec 7) (w : BitVec 1) (s : State) : Out :=
  dispatchOp 1 d a b w true true true (fun x rec b s =>
    if rec % 8 ≠ 0 ∨ rec = 0 ∨ b = 0 ∨ 2 ^ 32 ≤ b then sidingTrap s 3 rec
    else
      let e := x.issuer s
      (e.join rec b s).bind (fun j s =>
        match s.joinRoom e j with
        | none => enqueueFull x s
        | some (slot, res) =>
          let scope := scopeOr x 8
          let rel := x.release s scope
          let rels := s.visibleAt (j.spot.flatMap Piece.spans)
          let clk := joinSeen s j scope (x.c.party x.key x.st none) rel.clk
          .val (some (BitVec.ofNat 64 j.count))
            ((x.acquire s scope rels).performJoin e rec b j slot res rel clk))) s

/-- ENQ (R282). -/
def execEnq (d a b : BitVec 7) (w : BitVec 1) (s : State) : Out :=
  dispatchOp 2 d a b w true true true (fun x at1 r s =>
    let e := x.issuer s
    let l := x.launch s
    if 15 < r then sidingTrap s 1 r
    else if r < e.rank then sidingTrap s 0 at1
    else if at1 % 32 ≠ 0 then sidingTrap s 2 at1
    else (e.read at1 32 s).bind (fun y s =>
      let wb := BitVec.ofNat 256 y
      if !wbValid wb || wbHdr wb != l.hdrAddr || wbJoinp wb != 0 || wbCount wb % hdrGroup l.header != 0 then
        sidingTrap s 2 at1
      else enqueueOwn x r wb (BitVec.ofNat 64 (s.convoyOf x.c).slot) s)) s

/-- DEQ (R282). -/
def execDeq (d a b : BitVec 7) (w : BitVec 1) (s : State) : Out :=
  dispatchOp 3 d a b w true true false (fun x at1 r s =>
    let e := x.issuer s
    if 15 < r then sidingTrap s 1 r
    else if at1 % 32 ≠ 0 then sidingTrap s 2 at1
    else match tget (s.session x.c.sess).sidings r with
      | [] => .val (some 0) s
      | q :: rest =>
        (e.pieces .write at1 32 s).bind (fun ps s =>
          let s := ps.foldl (fun s p => p.write s 0 (q.bits.toNat / 2 ^ (8 * p.pos))) s
          let s := s.noteWrite false none (ps.flatMap Piece.spans)
          let s := s.modSession x.c.sess (fun y => { y with sidings := tset y.sidings r rest })
          .val (some 1) (s.lowerLaunch x.c.sess q.slot (wbCount q.bits) []))) s

/-- LAUNCH (R282). -/
def execLaunch (d a b : BitVec 7) (w : BitVec 1) (s : State) : Out :=
  dispatchOp 4 d a b w true true true (fun x at1 r s =>
    let e := x.issuer s
    if 15 < r then sidingTrap s 1 r
    else if r < e.rank then sidingTrap s 0 at1
    else if at1 % 32 ≠ 0 then sidingTrap s 2 at1
    else
      let planned := (e.read at1 32 s).bind (fun y s => e.plan (BitVec.ofNat 256 y) r at1 s)
      match planned with
      | .out (.trapIn t .priv _) => .out (.trapIn t .priv (decodeValue (packReg 0x56 d a b w 4) 0))
      | .out o => .out o
      | .val p s =>
        match s.freeLaunch e.sess, s.sidingSpace e.sess r e.conv with
        | some slot, some res =>
          .val (some (BitVec.ofNat 64 slot)) (s.acceptLaunch e.sess p slot res e.sup (x.release s 8).clk)
        | _, _ => enqueueFull x s) s

/-- The level and index of a level identifier (R276). -/
def levelOf (id : Nat) : Option (Nat × Nat) :=
  let lvl := bitsOf id 63 62
  let i := bitsOf id 9 0
  let slots := match lvl with | 0 => 1024 | 1 => 256 | 2 => 64 | _ => 16
  if bitsOf id 61 10 ≠ 0 ∨ slots ≤ i then none else some (lvl, i)

/-- Count and CANCELLED of a level's slot, and what its exits have released. -/
def State.levelAt (s : State) (v lvl i : Nat) : Level :=
  let x := s.session v
  match lvl with
  | 0 => let l := tget x.launches i; { count := l.count, cancelled := l.cancelled,
                                          exitClk := Clock.join l.pastClk l.exitClk }
  | 1 => tget x.graphs i
  | 2 => tget x.phases i
  | _ => tget x.jobs i

/-- Set CANCELLED of a level's slot. -/
def State.markCancelled (s : State) (v lvl i : Nat) : State :=
  s.modSession v (fun x =>
    match lvl with
    | 0 => { x with launches := tset x.launches i { tget x.launches i with cancelled := true } }
    | 1 => { x with graphs := tset x.graphs i { tget x.graphs i with cancelled := true } }
    | 2 => { x with phases := tset x.phases i { tget x.phases i with cancelled := true } }
    | _ => { x with jobs := tset x.jobs i { tget x.jobs i with cancelled := true } })

/-- Take the waybills that a test picks out of a session's sidings, lowering their launches' counts. -/
def State.dropWaybills (s : State) (v : Nat) (p : Queued → Bool) : State :=
  let out := (s.session v).sidings.flatMap (fun e => e.2.filter p)
  let s := s.modSession v (fun x => { x with sidings := x.sidings.filterMap (fun e =>
    let l := e.2.filter (fun q => !p q)
    if l = [] then none else some (e.1, l)) })
  out.foldl (fun s q => s.lowerLaunch v q.slot (wbCount q.bits) []) s

/-- Deliver CANCEL to the consists of a convoy that run, parked or not, and end its pending assemblies (R106, R269). -/
def State.cancelConvoy (s : State) (conv : Nat) : State :=
  match s.convoy? conv with
  | none => s
  | some y => (y.members.foldl (fun s k => s.modConsist k (fun c =>
      if c.status = .running then c.giveFault .cancel 0 0 false else c))
      s).dropAssemblies conv

/-- Cancel a level (R284): a level whose count is 0 stays as it is. -/
def State.cancelLevel (s : State) (v lvl i : Nat) : State :=
  if (s.levelAt v lvl i).count = 0 then s
  else
    let within := fun (slot : Nat) => withinLevel (tget (s.session v).launches slot) slot lvl i
    let convs := (s.convoys.filter (fun e => match e.2 with
      | some c => c.holds v && within c.slot
      | none => false)).map (fun e => e.1)
    convs.foldl State.cancelConvoy ((s.markCancelled v lvl i).dropWaybills v (fun q => within q.slot))

/-- CANCEL (R284). -/
def execCancel (a : BitVec 7) (w : BitVec 1) (s : State) : Out :=
  dispatchOp 5 0x78 a 0x78 w false false false (fun x id _ s =>
    match levelOf id with
    | none => sidingTrap s 1 id
    | some (lvl, i) => .val none (s.cancelLevel x.c.sess lvl i)) s

/-- CNTRD (R282): a read of 0 acquires the exits. -/
def execCntrd (d a : BitVec 7) (w : BitVec 1) (s : State) : Out :=
  dispatchOp 6 d a 0x78 w true false false (fun x id _ s =>
    match levelOf id with
    | none => sidingTrap s 1 id
    | some (lvl, i) =>
      let l := s.levelAt x.c.sess lvl i
      .val (some l.count) (if l.count = 0 then s.learnAll x.c.uid x.st (lanesOf x.act) l.exitClk else s)) s

end Sys2Proof.Machine
end

