-- ==== Sys2Proof/Machine/Convoys.lean ====
section
/-!
DEFINITION. Convoys: how they start (R272, R275), end (R102, R276) and are swapped (R285 to R287), and the events
CONVOY_EXPAND, CONSIST_EXIT_REPORT, ENGINE_JOIN, PARTITION_FLIP, CONTEXT_SWAP and CONVOY_RESUME.
-/

namespace Sys2Proof.Machine

open Sys2Proof

/-! ## Starting (R272, R275) -/

/-- What a starting convoy has: its header, session, launch slot or stream, rank, index, FRAME, LNCH and level, whether it
is a band program's, and what its start happens after. -/
structure Start where
  hdr : Header
  sess : Nat
  slot : Nat
  rank : Nat
  cvid : Nat
  frame : DWord
  lnch : BitVec 32
  level : Nat
  line : Bool
  clk : Clock

/-- CID of a consist at a place (R107, R304). -/
def cidOf (key ci level : Nat) : BitVec 32 :=
  if isLine key then
    BitVec.ofNat 32 (2 ^ 18 + level * 2 ^ 16 + (dieOf key * 64 + coreOf key % 8) * 2 ^ 8 + quadOf key * 2 ^ 6 + ci)
  else BitVec.ofNat 32 (level * 2 ^ 16 + coreOf key * 2 ^ 8 + quadOf key * 2 ^ 6 + key % 64)

/-- The level of a launch's consists (R272). -/
def launchLevel (maintenance sup : Bool) : Nat := if maintenance then 3 else if sup then 1 else 0

/-- CSW of a starting consist (R272). -/
def startCsw (h : BitVec 1024) : BitVec 32 :=
  let rake := fun (n : Nat) => if n = 0 then 5 else n
  BitVec.ofNat 32 (rake (hdrField h 566 564) * 2 ^ 29 + rake (hdrField h 569 567) * 2 ^ 26 + hdrField h 563 559 * 2 ^ 11
    + hdrField h 558 558 * 2 ^ 10 + hdrField h 557 555 * 2 ^ 7 + hdrField h 554 554 * 2 ^ 6 + hdrField h 553 553 * 2 ^ 5
    + hdrField h 552 551)

/-- A starting consist (R272), with its registers in the lower tier or not (R96). -/
def startConsist (x : Start) (uid conv key ci title : Nat) (low : Bool) : Consist :=
  let h := x.hdr.bits
  let lmask : Lanes := h.extractLsb' 320 32
  let args := (List.range x.hdr.args.length).zip x.hdr.args
  { uid := uid, convoy := conv, ci := ci, status := .running, parked := false, sess := x.sess, title := title,
    code := hdrField h 59 0, csize := hdrField h 95 64,
    handler := if h.getLsbD 522 then some (h.extractLsb' 160 32) else none,
    privWords := hdrField h 415 384, pbase := hdrField h 315 256, perConvoy := hdrConsists h,
    nv := hdrField h 504 498, na := hdrField h 511 505, csw := startCsw h, fmask := 0, stklim := h.extractLsb' 416 32,
    trapc := 0, trapv := 0, trappc := 0, cvid := BitVec.ofNat 32 x.cvid, lnch := x.lnch, lmask := lmask,
    htbl := (h.extractLsb' 192 60).setWidth 64, cid := cidOf key ci x.level, hmask := h.extractLsb' 352 32,
    vregs := [], aregs := [],
    sregs := tset (args.foldl (fun t e => tset t e.1 e.2) []) 31 x.frame,
    a := StreamSt.start (h.extractLsb' 96 32) lmask, c := StreamSt.start (h.extractLsb' 128 32) lmask,
    lq := [], xqAC := [], xqCA := [], sq := [], tokens := 0, tokenRels := [], tokenAt := [], freightRels := [], texRels := [],
    inflight := [], async := [], saved := none, cancelled := false,
    matrix := { (default : MatrixSeq) with ntiles := hdrTiles h, nslots := hdrSlots h },
    lowTier := low, bandOp := 0 }

/-- Bytes of v registers, and of a and s registers, of a consist with these counts (R10, R95). -/
def tierBytes (nv na : Nat) : Nat × Nat := (128 * nv, 256 * na + 256)

/-- Has the top tier of a core no room for the registers of one more consist (R10, R96)? -/
def State.topTierFull (s : State) (core nv na : Nat) : Bool :=
  let there := s.consists.filterMap (fun e => e.2.bind (fun c =>
    if e.1 < parkedBase ∧ coreOf e.1 = core ∧ c.lowTier = false then some (tierBytes c.nv c.na) else none))
  let need := tierBytes nv na
  decide (524288 < (there.map (fun e => e.1)).sum + need.1) || decide (131072 < (there.map (fun e => e.2)).sum + need.2)

/-- A convoy starts in the places given (R272, R275): its slots are bound, its scratchpad reads 0 (DESIGN CHOICE, assumption
log 44), and its consists start after `x.clk` (R63). A consist that finds the top tier of a SIMT core full starts in the lower
one (R96, R303). -/
def State.startConvoy (s : State) (x : Start) (core conv : Nat) (keys : List Nat) (train member : Nat)
    (trainKeys : List Nat) : State :=
  let h := x.hdr.bits
  let title := (s.session x.sess).title
  let v : Convoy :=
    { (default : Convoy) with
      core := core, sess := x.sess, slot := x.slot, line := x.line, cvid := BitVec.ofNat 32 x.cvid, rank := x.rank,
      size := keys.length, members := keys, train := train, member := member, trainKeys := trainKeys,
      spSize := hdrPad h, spCheck := h.getLsbD 468, bars := x.hdr.binds.getD [], bcnt := hdrBcnt h, stashKib := hdrStash h,
      tiles := hdrTiles h, slots := hdrSlots h }
  let s := s.setConvoy conv v
  ((List.range keys.length).zip keys).foldl (fun s e =>
    let uid := s.nextUid
    let s := { s with nextUid := s.nextUid + 1 }
    let low := !x.line && s.topTierFull core (hdrField h 504 498) (hdrField h 511 505)
    let s := s.setConsist e.2 (startConsist x uid conv e.2 e.1 title low)
    (s.learnAll uid .a (List.range 32) x.clk).learnAll uid .c (List.range 32) x.clk) s

/-! ## Room on a core (R229, R275) -/

/-- The session of a SIMT core in its die's partition map. -/
def State.coreSession (s : State) (core : Nat) : Option Nat :=
  let d := s.die (core / 64)
  match tget (if d.active1 then d.bank1 else d.bank0) (core % 64) with
  | 0 => none
  | v + 1 => some v

/-- The convoys whose context is on a core. -/
def State.convoysOn (s : State) (core : Nat) : List (Nat × Convoy) :=
  s.convoys.filterMap (fun e => e.2.bind (fun c => if c.core = core ∧ c.parked = false then some (e.1, c) else none))

/-- The consists in place on a core. -/
def State.consistsOn (s : State) (core : Nat) : List (Nat × Consist) :=
  s.consists.filterMap (fun e => e.2.bind (fun c => if e.1 < parkedBase ∧ coreOf e.1 = core then some (e.1, c) else none))

/-- Are tiles, weight slots, barrier slots, scratchpad and stash free on a core for a convoy? -/
def State.storesFree (s : State) (core : Nat) (h : BitVec 1024) : Bool :=
  let cs := s.consistsOn core
  let vs := s.convoysOn core
  let sumC := fun (f : Consist → Nat) => (cs.map (fun e => f e.2)).foldl (· + ·) 0
  let sumV := fun (f : Convoy → Nat) => (vs.map (fun e => f e.2)).foldl (· + ·) 0
  decide (sumC (fun c => c.matrix.ntiles) + hdrConsists h * hdrTiles h ≤ 32)
    && decide (sumC (fun c => c.matrix.nslots) + hdrConsists h * hdrSlots h ≤ 32)
    && decide (sumV (fun v => v.bcnt) + hdrBcnt h ≤ 256)
    && decide (sumV (fun v => v.spSize) + hdrPad h ≤ 262144)
    && decide (sumV (fun v => v.stashKib) + hdrStash h ≤ 224)

/-- Places for n consists on a core, each in its quadrant (R80); which free slot of a quadrant is the engine's choice. -/
def State.pickSlots (s : State) (core n : Nat) : Option (List Nat) :=
  let taken := (s.consistsOn core).map (fun e => e.1)
  (List.range n).foldl (fun (r : Option (List Nat)) ci =>
    match r with
    | none => none
    | some l =>
      (((List.range 16).map (fun j => simtKey core (4 * ((Config.corePick s.tick + j) % 16) + ci % 4))).find? (fun k =>
        !taken.contains k && !l.contains k)).map (fun k => l ++ [k])) (some [])

/-- The places a convoy of a header would take on a core, when the core has room (R275). -/
def State.roomOn (s : State) (core : Nat) (h : BitVec 1024) : Option (List Nat) :=
  if (s.core core).halting || !s.storesFree core h then none else s.pickSlots core (hdrConsists h)

/-- The cores, this one first, on which the convoys at the head of a siding start together, with their places; none when
it cannot be placed on this core (R274, R275, R277). -/
def State.placement (s : State) (v core r : Nat) : Option (List (Nat × List Nat)) :=
  match tget (s.session v).sidings r with
  | [] => none
  | q :: _ =>
    let h := (tget (s.session v).launches q.slot).header
    let n := hdrGroup h
    if (List.range 16).any (fun i => decide (s.sidingFree v i < n)) then none
    else match s.roomOn core h with
      | none => none
      | some ks =>
        let others := ((List.range 8).map (fun j => core / 8 * 8 + (Config.corePick s.tick + j) % 8)).filterMap (fun k =>
          if k ≠ core ∧ s.coreSession k = some v then (s.roomOn k h).map (fun ks => (k, ks)) else none)
        if others.length < n - 1 then none else some ((core, ks) :: others.take (n - 1))

/-- The rank whose head a core takes: the lowest class, then the highest rank (R277). -/
def State.nextRank (s : State) (v core : Nat) : Option Nat :=
  let x := s.session v
  ((List.range 16).filter (fun r => (s.placement v core r).isSome)).foldl (fun (b : Option Nat) r =>
    match b with
    | none => some r
    | some j => if x.classes.getD r 0 ≤ x.classes.getD j 0 then some r else some j) none

/-- The session whose waybills a core takes: those of one that moves bind on its destination only (R22). -/
def State.bindSession (s : State) (core : Nat) : Option Nat :=
  (if core < 256 then s.coreSession core else none).filter (fun v =>
    (s.session v).moveFrom.isNone || (s.session v).moveTo == core / 64)

/-- CONVOY_EXPAND (R275): a core with room takes the next waybill of its session and starts a convoy, or a train. -/
def execConvoyExpand (core : Nat) (s : State) : Out :=
  .next (
    match s.bindSession core with
    | none => s
    | some v =>
      match s.nextRank v core with
      | none => s
      | some r =>
        match tget (s.session v).sidings r, s.placement v core r with
        | q :: rest, some places =>
          let l := tget (s.session v).launches q.slot
          let n := places.length
          let keys := (List.range n).map (fun j => s.nextUid + j)
          let s := { s with nextUid := s.nextUid + n }
          let train := if hdrTrain l.header = 0 then 0 else n
          let s := ((List.range n).zip places).foldl (fun (s : State) (e : Nat × Nat × List Nat) =>
            let x : Start :=
              { hdr := { bits := l.header, args := l.args, bars := l.bars }, sess := v, slot := q.slot, rank := r,
                cvid := wbFirst q.bits + e.1, frame := wbFrame q.bits, lnch := BitVec.ofNat 32 q.slot,
                level := launchLevel (s.session v).maintenance (hdrSup l.header), line := false, clk := q.clk }
            s.startConvoy x e.2.1 (keys.getD e.1 0) e.2.2 train e.1 (if train = 0 then [] else keys)) s
          let left := if wbCount q.bits ≤ n then rest else { q with bits := wbAfter q.bits n } :: rest
          s.modSession v (fun y => { y with sidings := tset y.sidings r left })
        | _, _ => s).bump

/-! ## Ending (R102, R276) -/

/-- Has a consist's work drained (R102), its pending RFLUSH too (R295)? -/
def State.drained (s : State) (key : Nat) (c : Consist) : Bool :=
  c.matrix.queue == [] && c.tokens == 0 && c.bandOp != 2 && !s.logged key
    && !s.stations.any (fun g => g.2.passes.any (fun p => p.2.state == 2 && p.2.flusher == some (key, c.uid)))
    && !c.inflight.any (fun f => f.kind == .texture || f.kind == .search)

/-- What the end of a consist releases (R63, R102). -/
def State.consistClock (s : State) (c : Consist) : Clock :=
  let own := Clock.join (s.seenBy c.uid .a (List.range 32)) (s.seenBy c.uid .c (List.range 32))
  ((c.matrix.ends.take 1).map (fun (e : Nat × Release) => e.2.clk) ++ c.freightRels.map (fun (r : Nat × Lanes × Nat × Release) => r.2.2.2.clk)
    ++ c.texRels.map (fun (r : Nat × Nat × Release) => r.2.2.clk)).foldl
    Clock.join own

/-- A core without what is left of a consist: its row-queue entries and places. -/
def Core.without (c : Core) (key : Nat) : Core :=
  { c with rows := c.rows.filter (fun e => e.consist != key), rows1 := c.rows1.filter (fun e => e.consist != key),
           rowOwner := c.rowOwner.filter (fun k => k != key), rowOwner1 := c.rowOwner1.filter (fun k => k != key),
           rowWait := c.rowWait.filter (fun e => e.1 != key) }

/-- Every consist of a band program has ended (R305): its stream is ORPHAN, and the Signal box reports it. -/
def State.orphan (s : State) (conv : Nat) (v : Convoy) : State :=
  let d := v.core / 8 % 32
  let x := s.die d
  let t := tget x.streams v.slot
  if t.state = 1 ∧ t.convoy = conv then
    (s.setDie d { x with streams := tset x.streams v.slot { t with state := 2 } }).post v.sess 0 0 2
      (BitVec.ofNat 32 v.slot) 0
  else s

/-- A convoy's exit report reaches its launch: its index and the FMASKs of its consists (R182). -/
def State.reportExit (s : State) (v : Convoy) : State :=
  if v.line then s
  else s.modSession v.sess (fun x =>
    let l := tget x.launches v.slot
    { x with launches := tset x.launches v.slot { l with reports := (v.cvid, v.exitMasks) :: l.reports } })

/-- A convoy's last consist has been reported (R276): its slots are released, its stash is written back, and a train keeps its
scratchpads until its last member exits (R183). A line lost by a write-back may have ended the session (R388). -/
def State.endConvoy (s : State) (conv : Nat) (v : Convoy) : State :=
  let s := (s.reportExit v).flushLines v.core (fun c => c.inStash conv none) true
  if (s.convoy? conv).isNone then s else
  let husk : Convoy := { v with bars := [], bcnt := 0, binds := [], stashKib := 0, handles := [], assemblies := [] }
  let s := s.setConvoy conv husk
  let allEnded := v.trainKeys.all (fun k => match s.convoy? k with
    | some y => decide (y.size ≤ y.ended)
    | none => true)
  let gone := if v.train ≤ 1 then [conv] else if allEnded then v.trainKeys else []
  let s := { s with convoys := s.convoys.filter (fun e => !gone.contains e.1) }
  if v.line then s.orphan conv v else s.lowerLaunch v.sess v.slot 1 v.exitClk

/-- CONSIST_EXIT_REPORT (R102, R105, R109): an ended consist whose work has drained is reported, and what it held is
released. -/
def execConsistExitReport (consist : Nat) (s : State) : Out :=
  .next (match s.consist? consist with
    | none => s
    | some c =>
      let gone := match c.status with
        | .running => false
        | .draining => c.async.isEmpty
        | _ => true
      if c.parked || !gone || !s.drained consist c then s
      else
        let agent := consistAgent consist
        let s := match c.status with
          | .terminated r => s.postTrap c.sess agent r
          | .halted x => s.post c.sess 0 0 5 (BitVec.ofNat 32 agent) x
          | _ => s
        let clk := s.consistClock c
        let s := s.endTimeline (matrixOwner (seatOf consist)) c.matrix.counter
        let s := { s with consists := tdel consist s.consists }
        let s := s.flushLines (coreOf consist) (fun l => l.priv == some consist) true
        let s := s.setCore (coreOf consist) ((s.core (coreOf consist)).without consist)
        match s.convoy? c.convoy with
        | none => s
        | some v =>
          let v := { v with members := v.members.filter (fun k => k != consist), ended := v.ended + 1,
                            exitMasks := tset v.exitMasks c.ci c.fmask,
                            exitClk := Clock.join v.exitClk clk }
          if v.size ≤ v.ended then s.endConvoy c.convoy v else s.setConvoy c.convoy v).bump

/-! ## The engine's JOIN (R283) -/

/-- The Dispatch engine as the issuer of a JOIN that it owes. -/
def State.engineIssuer (s : State) (v : Nat) (j : PendingJoin) : Issuer :=
  let x := s.session v
  let agent := agentId x.home 7 0
  let h := j.launch.header
  let c : Consist := { (default : Consist) with privWords := hdrField h 415 384, pbase := hdrField h 315 256,
                                                perConvoy := hdrConsists h }
  { who := engineAsker v (launchLevel x.maintenance (hdrSup h)) agent, sess := v, region := fun lo n => c.touchesRegion lo n,
    rank := j.launch.rank, sup := j.launch.sup, conv := none, clk := j.launch.exitClk,
    lost := fun bad s => .stop (s.readBad bad agent v (fun _ => none)) }

/-- ENGINE_JOIN (R283): the JOIN with decrement 1 that a launch's end owes its record. -/
def execEngineJoin (sess slot : Nat) (s : State) : Out :=
  .next (
    match (s.session sess).joins.find? (fun (j : PendingJoin) => j.slot == slot) with
    | none => s
    | some j =>
      let e := s.engineIssuer sess j
      let done := fun (s : State) => s.modSession sess (fun x => { x with joins := x.joins.erase j })
      match e.join j.record 1 s with
      | .val g t =>
        (match t.joinRoom e g with
        | none => if (s.session sess).maintenance then done t else t
        | some (launch, res) =>
          let p := sessionParty t sess e.who.agent
          (done t).performJoin e j.record 1 g launch res (p.release 8 e.clk)
            (joinSeen t g 8 p e.clk))
      | .out (.trapIn t cause v) =>
        ((done t).dropHold sess j.record).postTrap sess e.who.agent
          { trapc := cause.code.setWidth 64, trapv := v, trappc := 0 }
      | .out (.stop t) => t
      | .out (.wait t) => t
      | .out _ => s).bump

/-! ## Partitions and context swap (R285 to R287) -/

/-- Does a command wait for a flip of this die alone: it gives or takes cores there and moves nothing, or has made a session
whose cores the flip gives (R285, R379, R380)? -/
def State.flipEnds (s : State) (die : Nat) (i : Instr) : Bool :=
  match i with
  | .sessNew _ o => o.die == die
  | .sessSlip _ _ v d _ => d == die && (s.session v).slipping.isNone
  | .sessMoveExtend _ _ d _ => d == die
  | .sessMove _ v d _ => d == die && (s.session v).moveFrom.isNone
  | _ => false

/-- PARTITION_FLIP (R285, R286): the banks change places, and every core whose session changes halts, with the cores of
its trains. The commands that asked for no more than that are complete. -/
def execPartitionFlip (die : Nat) (s : State) : Out :=
  .next (
    let d := s.die die
    if !d.flip || (List.range 64).any (fun i => (s.core (64 * die + i)).halting) then s
    else
      let changed := (List.range 64).filter (fun i => tget d.bank0 i != tget d.bank1 i)
      let d := if d.active1 then { d with active1 := false, bank1 := d.bank0, flip := false }
        else { d with active1 := true, bank0 := d.bank1, flip := false }
      let s := s.setDie die d
      let leaving := (changed.map (fun i => 64 * die + i)).flatMap s.convoysOn
      let mates := leaving.flatMap (fun e => e.2.trainKeys.filterMap (fun k => (s.convoy? k).bind (fun c =>
        if c.parked then none else some c.core)))
      let s := (leaving.map (fun e => e.2.core) ++ mates).foldl (fun (s : State) k =>
        s.setCore k { s.core k with halting := true }) s
      s.finishCommands (fun w => if s.flipEnds die w.what then some 0 else none)).bump

/-- Give consists other keys wherever the machine names them. -/
def State.rekey (s : State) (keys : List Nat) (f : Nat → Nat) : State :=
  let g := fun (k : Nat) => if keys.contains k then f k else k
  let moved := keys.filterMap (fun k => (s.consist? k).map (fun c => (f k, c)))
  let convoy := fun (c : Convoy) =>
    { c with members := c.members.map g,
             assemblies := c.assemblies.map (fun e =>
               (e.1, { e.2 with slices := e.2.slices.map (fun t => (t.1, g t.2.1, t.2.2)) })) }
  let session := fun (x : Session) =>
    { x with freight := x.freight.map (fun e =>
        (e.1, { e.2 with queue := e.2.queue.map (fun o => { o with tokens := o.tokens.map (fun t => (g t.1, t.2)) }) })) }
  let pass := fun (p : RasterPass) =>
    { p with opener := (g p.opener.1, p.opener.2), draws := p.draws.map (fun d => (d.1, g d.2.1, d.2.2)),
             flusher := p.flusher.map (fun e => (g e.1, e.2)), drawer := p.drawer.map (fun e => (g e.1, e.2)) }
  { s with
    consists := moved.foldl (fun t e => tput e.1 (some e.2) t) (keys.foldl (fun t k => tdel k t) s.consists),
    convoys := s.convoys.map (fun e => (e.1, e.2.map convoy)),
    sessions := s.sessions.map (fun e => (e.1, session e.2)),
    stations := s.stations.map (fun e => (e.1, { e.2 with passes := e.2.passes.map (fun p => (p.1, pass p.2)) })) }

/-- May a convoy's context be saved: no accepted Freight operation touches its h2 or h3 (R269)? -/
def State.swappable (s : State) (conv : Nat) (v : Convoy) : Bool :=
  !(s.session v.sess).freight.any (fun e => e.2.queue.any (fun o =>
    o.convoy == conv && (layHandles o.form o.layout).any (fun h => h == 2 || h == 3)))

/-- The shadow storage of a core takes a context: an older one goes to the save area of its session (R287). -/
def State.toShadow (s : State) (core conv : Nat) : State :=
  let co := s.core core
  let s := match co.shadow.bind (fun k => (s.convoy? k).map (fun v => (k, v.sess))) with
    | some (k, v) => s.modSession v (fun x => { x with saveArea := k :: x.saveArea })
    | none => s
  s.setCore core { co with shadow := some conv }

/-- A context leaves shadow storage or the save area. -/
def State.fromShadow (s : State) (core conv v : Nat) : State :=
  let co := s.core core
  (s.setCore core { co with shadow := co.shadow.filter (fun k => k != conv) }).modSession v (fun x =>
    { x with saveArea := x.saveArea.filter (fun k => k != conv) })

/-- The parked convoys of a core: the one in its shadow storage, then those in the sessions' save areas. -/
def State.parkedOn (s : State) (core : Nat) : List Nat :=
  (s.core core).shadow.toList ++ (s.sessions.flatMap (fun e => e.2.saveArea)).filter (fun k =>
    match s.convoy? k with
    | some v => v.core == core
    | none => false)

/-- Park a convoy (R286): its results in flight are written, its lines are written back, which
may lose one and end its session (R388), and its parts leave the core. -/
def State.park (s : State) (conv : Nat) (v : Convoy) : State :=
  let ks := v.members
  let mine := fun (k : Nat) => ks.contains k
  let s := s.flushLines v.core (fun c => c.inStash conv none || (match c.priv with | some k => mine k | none => false)) true
  if (s.convoy? conv).isNone then s else
  let co := s.core v.core
  let v := { v with
    parked := true, savedLog := co.log.filter (fun e => mine e.consist), savedRows := co.rows.filter (fun e => mine e.consist),
    savedOwner := co.rowOwner.filter mine, savedWait := co.rowWait.filter (fun e => mine e.1),
    savedLast := co.last.filter (fun e => mine (e.2 - 1)) }
  let co := { co with
    log := co.log.filter (fun e => !mine e.consist), rows := co.rows.filter (fun e => !mine e.consist),
    rowOwner := co.rowOwner.filter (fun k => !mine k), rowWait := co.rowWait.filter (fun e => !mine e.1),
    last := co.last.filter (fun e => !mine (e.2 - 1)) }
  let s := ((s.setConvoy conv v).setCore v.core co).toShadow v.core conv
  let s := ks.foldl (fun s k => s.modConsist k (fun c => { c.settle with parked := true })) s
  s.rekey ks (fun k => parkedBase * (conv + 1) + k)

/-- CONTEXT_SWAP (R286): the convoys of a halted core that leave it, or whose train does, are parked, the members of a
train together. -/
def execContextSwap (core : Nat) (s : State) : Out :=
  .next (
    if !(s.core core).halting then s
    else
      let leaves := fun (c : Convoy) => s.coreSession c.core != some c.sess
      let mates := fun (c : Convoy) => c.trainKeys.filterMap (fun k => (s.convoy? k).bind (fun y =>
        if y.parked || y.size ≤ y.ended then none else some (k, y)))
      let out := (s.convoysOn core).filter (fun e => leaves e.2 || (mates e.2).any (fun m => leaves m.2))
      let all := (out ++ out.flatMap (fun e => mates e.2)).eraseDups
      if !all.all (fun e => s.swappable e.1 e.2 && (s.core e.2.core).halting) then s
      else
        let s := all.foldl (fun (s : State) e => s.park e.1 e.2) s
        s.setCore core { s.core core with halting := false }).bump

/-- Can a parked convoy come back to its core now (R287)? -/
def State.resumable (s : State) (v : Convoy) : Bool :=
  let co := s.core v.core
  s.coreSession v.core == some v.sess && !co.halting && (s.session v.sess).state != .ending
    && s.storesFree v.core (tget (s.session v.sess).launches v.slot).header
    && v.members.all (fun k => (s.consist? (seatOf k)).isNone)
    && (v.savedOwner.isNone || co.rowOwner.isNone) && decide (co.rows.length + v.savedRows.length ≤ 64)
    && decide (co.log.length + v.savedLog.length ≤ 64)

/-- A front end is a consist's again in whose hold window it was swapped out, unless another's hold window keeps it (R43). -/
def State.holdAgain (s : State) (e : Nat × Nat) : State :=
  let key := e.2 - 1
  let st : Strm := if e.1 % 2 = 1 then .a else .c
  match s.consist? key with
  | some c => if (c.strm st).hold = 0 ∨ heldByOther s key st = true then s else s.switchTo key st
  | none => s

/-- A parked convoy comes back (R287). -/
def State.unpark (s : State) (conv : Nat) (v : Convoy) : State :=
  let s := (s.rekey v.members seatOf).fromShadow v.core conv v.sess
  let co := s.core v.core
  let s := s.setCore v.core { co with
    log := co.log ++ v.savedLog, rows := co.rows ++ v.savedRows, rowOwner := co.rowOwner.orElse (fun _ => v.savedOwner),
    rowWait := co.rowWait ++ v.savedWait }
  let s := s.modConvoy conv (fun y =>
    { y with parked := false, savedLog := [], savedRows := [], savedOwner := none, savedWait := [], savedLast := [] })
  let s := v.members.foldl (fun s k => s.modConsist (seatOf k) (fun c => { c with parked := false })) s
  v.savedLast.foldl State.holdAgain s

/-- A moving session needs a core of the die it leaves for a convoy that is parked there, and no session has it: the Signal box
gives it back (R22, R287; DEDUCED, assumption log 37). -/
def State.reclaim (s : State) (core : Nat) : State :=
  let d := core / 64
  let x := s.die d
  let want := (s.parkedOn core).filterMap (fun k => (s.convoy? k).bind (fun v =>
    if (s.session v.sess).moveFrom = some d then some v.sess else none))
  let bank := if x.active1 then x.bank0 else x.bank1
  match want with
  | [] => s
  | v :: _ =>
    if core < 256 ∧ (s.coreSession core).isNone = true ∧ tget bank (core % 64) = 0 then
      let b := tput (core % 64) (v + 1) bank
      s.setDie d (if x.active1 then { x with bank0 := b, flip := true } else { x with bank1 := b, flip := true })
    else s

/-- CONVOY_RESUME (R287): the first parked convoy that can come back to a core does, with the parked members of its
train. -/
def execConvoyResume (core : Nat) (s : State) : Out :=
  .next (
    let group := fun (k : Nat) => match s.convoy? k with
      | none => []
      | some v =>
        if v.train ≤ 1 then [(k, v)]
        else v.trainKeys.filterMap (fun j => (s.convoy? j).bind (fun y => if y.parked then some (j, y) else none))
    let ready := (s.parkedOn core).find? (fun k => group k != [] && (group k).all (fun e => s.resumable e.2))
    match ready with
    | none => s.reclaim core
    | some k => (group k).foldl (fun (s : State) (e : Nat × Convoy) => s.unpark e.1 e.2) s).bump

end Sys2Proof.Machine
end

