-- ==== Sys2Proof/Machine/Fetch.lean ====
section
/-!
DEFINITION. Fetching an instruction (R84, R99, R338), and the bench on which a machine with no program runs one
instruction (DESIGN CHOICE, assumption log 15).
-/

namespace Sys2Proof.Machine

open Sys2Proof

/-- What fetching for a context gives: a word and the state the fetch left, or the step is over. -/
inductive Fetched where
  | word (w : Word) (s : State)
  | spent (s : State)

/-- The virtual address a run fetches from (R84). -/
def Ctx.fetchVa (x : Ctx) : Nat := x.c.code + x.pc.toNat

/-- Fetch the word at the program counter of the run: BOUNDS at or beyond the code size (R48, R99), then a translation
of kind fetch (R338), then the four bytes, lowest address first (R25). -/
def fetch (x : Ctx) (s : State) : Fetched :=
  if x.c.csize ≤ x.pc.toNat then .spent (trapAt x false .bounds (x.pc.setWidth 64) s)
  else
    match s.translate (x.c.asker x.key x.st) .fetch x.fetchVa with
    | (.to a, s) =>
      match s.lineState a 4 with
      | .good => .word (wordOfBytes (s.bytes a 4)) (s.readDone a 4 (some (coreOf x.key)))
      | bad => .spent (s.readBad bad (consistAgent x.key) x.c.sess (fun v =>
          some (consistAgent x.key, { trapc := trapcOf .poison false x.st x.run, trapv := v, trappc := x.pc }))).bump
    | (.final cause, s) => .spent (trapAt x false cause (BitVec.ofNat 64 (x.fetchVa % 2 ^ 60)) s)
    | (_, s) => .spent (stall x s)

/-! ## The bench -/

/-- Frames of the bench: its root table, four tables and the code page follow one another from here. -/
def benchFrame : Nat := 16

/-- A table entry, or a leaf that is writable and executable, for a frame (R333). -/
def benchEntry (leaf : Bool) (f : Nat) : Nat := 2 ^ 63 + f * 4096 + (if leaf then 2 ^ 11 + 2 ^ 10 + 2 ^ 9 else 0)

/-- The bench's tables, mapping virtual page 0 to its code page, and the word. -/
def benchMemory (w : Word) : List (Nat × Nat) :=
  [(benchFrame, benchEntry false (benchFrame + 8)), (benchFrame + 8, benchEntry false (benchFrame + 9)),
   (benchFrame + 9, benchEntry false (benchFrame + 10)), (benchFrame + 10, benchEntry false (benchFrame + 11)),
   (benchFrame + 11, benchEntry true (benchFrame + 12)), (benchFrame + 12, w.toNat)]

/-- A consist of the given lanes that runs at root level from virtual address 0, in the state R272 gives a starting one. -/
def benchConsist (line : Bool) (lanes : Lanes := 0xFFFFFFFF) : Consist :=
  { uid := 0, convoy := 0, ci := 0, status := .running, parked := false, sess := 0, title := 0, code := 0, csize := 4096,
    handler := none, privWords := 0, pbase := 0, perConvoy := 1, nv := 112, na := 64, csw := 0xB4000000, fmask := 0,
    stklim := 0, trapc := 0, trapv := 0, trappc := 0, cvid := 0, lnch := 0, lmask := lanes, htbl := 0,
    cid := (if line then 0x70000 else 0x30000), hmask := 0, vregs := [], aregs := [], sregs := [],
    a := StreamSt.start 0 lanes, c := StreamSt.start 0 lanes, lq := [], xqAC := [], xqCA := [], sq := [],
    tokens := 0, tokenRels := [], tokenAt := [], freightRels := [], texRels := [], inflight := [], async := [],
    saved := none, cancelled := false,
    matrix := default, lowTier := false, bandOp := 0 }

/-- The place of the bench's consist: a line core's for a word only line cores have, else core 0 (R50). -/
def benchKey (w : Word) : Nat := if (fld w 25 7).toNat = 0x58 then lineKey 0 0 0 0 else 0

/-- The stream the bench issues a word in: the A-stream where it is legal (R49). -/
def benchStrm (w : Word) : Strm := if wordStreams w = 1 then .c else .a

/-- Put the bench into a machine: tables, code page, their owner, a session and a consist. -/
def State.withBench (s : State) (w : Word) (lanes : Lanes := 0xFFFFFFFF) : State :=
  let s := (benchMemory w).foldl (fun s e => { s with mem := writeLE s.mem (e.1 * 4096) 8 e.2 }) s
  let s := (List.range 13).foldl (fun s j => s.setFrame (benchFrame + j) 3 0) s
  let s := s.setSession 0 { s.session 0 with state := .live, root := benchFrame * 4096 }
  s.setConsist (benchKey w) (benchConsist (isLine (benchKey w)) lanes)

/-- The machine address the next fetch of a front end reads, when it reaches memory. -/
def State.fetchAddr (s : State) (f : Nat × Strm) : Option Nat :=
  match findCtx { s with focus := f } with
  | none => none
  | some x =>
    if x.c.csize ≤ x.pc.toNat then none else
    match (s.translate (x.c.asker x.key x.st) .fetch x.fetchVa).1 with
    | .to a => if s.lineState a 4 = .good then some a else none
    | _ => none

/-- The front end whose turn is next: the agenda's when it has one, else the one in focus. -/
def State.nextFront (s : State) : Nat × Strm :=
  match s.agenda with
  | .front k st :: _ => (k, st)
  | _ => s.focus

end Sys2Proof.Machine
end

