-- ==== Sys2Proof/Machine/Agenda.lean ====
section
/-!
DEFINITION. Whose turn it is. The agenda is plain data and may hold any order of front ends and other agents; when it is
empty a default order holds (DESIGN CHOICE, assumption log 2).
-/

namespace Sys2Proof.Machine

open Sys2Proof

/-- The front ends with a consist: both streams of each. -/
def State.fronts (s : State) : List (Nat × Strm) :=
  s.consists.flatMap (fun e => match e.2 with
    | some c => if c.status = .running then [(e.1, .a), (e.1, .c)] else []
    | none => [])

/-- An event, when it may have something to do. -/
def offer (may : Bool) (i : Instr) : List Instr := if may then [i] else []

/-- What the agents around a consist might do next: results that land, the core's own steps, its matrix sequence. A run
that cannot issue is deferred late, after R92's long wait: not while a result is on its way, and in few of the turns. -/
def consistSteps (tick k : Nat) (c : Consist) : List Instr :=
  let flies := fun (kind : Latency) => c.inflight.filter (fun f => f.kind == kind)
  let strm := fun (st : Strm) (isA : Bool) =>
    offer (decide (256 ≤ (c.strm st).headCount) || (c.strm st).stalled && c.inflight.isEmpty && decide (960 ≤ tick % 1024))
      (.runDeferral k isA (c.strm st).stalled)
  let m := c.matrix
  ((flies .load).take 1).map (fun f => .loadDataReturn k f.lane 0)
    ++ offer (flies .variable != []) (.variableLatencyComplete k 0)
    ++ ((flies .texture).take 1).map (fun f => .textureResult k f.lane 0)
    ++ offer c.lowTier (.registerTierRecall k)
    ++ offer (!c.async.isEmpty) (.asyncTrapDelivery k)
    ++ offer (c.a.stalled || c.c.stalled) (.qlockDetect k)
    ++ strm .a true ++ strm .c false
    ++ offer (c.inflight.isEmpty && (c.status != .running || decide (c.alive .a ||| c.alive .c = 0))) (.consistExitReport k)
    ++ offer (!m.queue.isEmpty && !m.done) (.tileExecute k)
    ++ offer (decide (m.rowsPending ≠ 0)) (.mrowPush k)
    ++ offer m.done (.tileComplete k)

/-- What a core might do next. -/
def coreSteps (k : Nat) (c : Core) : List Instr :=
  offer (!c.log.isEmpty) (.sideLogReplay k) ++ offer (!c.rowWait.isEmpty) (.rowQueueGrant k)
    ++ offer c.halting (.contextSwap k)

/-- What the agents that work for a session might do next. -/
def State.sessionSteps (s : State) (v : Nat) (x : Session) : List Instr :=
  let waybills := x.sidings.any (fun e => !e.2.isEmpty)
  let drifting := match x.moveFrom with
    | some d => ((s.framesOf d 3 v ++ s.framesOf d 4 v).take 1).map (fun f => Instr.frameDrift v f)
    | none => []
  let pages := x.fmPages.flatMap (fun e => e.2)
  offer (!x.unposted.isEmpty) (.faultRecordPost v) ++ (x.breaks.take 1).map (fun p => .cowBreak v (p * 1024))
    ++ x.freight.flatMap (fun e =>
        offer (!e.2.written && !e.2.queue.isEmpty) (.freightOperationStart v e.1)
          ++ offer e.2.written (.freightOperationComplete v e.1)
          ++ offer e.2.failure.isSome (.freightFault v e.1))
    ++ (if waybills then (List.range 256).flatMap (fun k => offer (s.bindSession k == some v) (.convoyExpand k)) else [])
    ++ (x.joins.take 1).map (fun j => .engineJoin v j.slot)
    ++ (List.range x.seals.length).flatMap (fun n => [.sealAbort v n, .sealHash v n, .sealLookup v n, .sealCommit v n])
    ++ offer (!x.mReqs.isEmpty) (.manifestRequestComplete v)
    ++ (match pages[s.tick % pages.length]? with
        | some p => offer x.quiescence (.quiescenceVisit v (p * 4096))
        | none => [])
    ++ (if x.state == .moving then .transferTablesMoved v :: drifting ++ [.transferComplete v] else [])
    ++ offer x.slipping.isSome (.slipComplete v) ++ offer (x.state == .build) (.sessParkComplete v)
    ++ offer (x.state == .depot) (.depotEndProceed v) ++ offer (x.state == .ending) (.sessEndComplete v)

/-- What the rasteriser of a station might do next. -/
def stationSteps (g : Nat) (x : Station) : List Instr :=
  if x.passes.isEmpty then [] else
  [.rasterDrawBin g, .rasterFault g, .rasterPassComplete g] ++ x.passes.map (fun e => .rasterPassAbandon g e.1)

/-- What a Terminus stream might do next. -/
def streamSteps (d n : Nat) (x : Stream) : List Instr :=
  if x.state = 0 then [] else
  (match x.op with
   | some o => [match o.kind with
      | 0 => .lemitCopyComplete d n
      | 1 => .fbsetCopyComplete d n
      | 2 => .warpbComplete d n
      | _ => .mesrchResult d n]
   | none => [])
    ++ [.bandWindowOpen d n, .preparedImageReady d n, .bandSettle d n, .tapHistoryWrite d n, .encoderTap d n,
        .encoderTileRow d n, .streamStopEffect d n, .streamMove d n]

/-- What the Signal box of a die might do next. -/
def dieSteps (d : Nat) (x : Die) : List Instr :=
  offer x.flip (.partitionFlip d) ++ offer (!x.forwarded.isEmpty) (.forwardedCommand d)
    ++ x.slots.flatMap (fun e => offer (e.2.state == 2) (.keyRevokeComplete d e.1))
    ++ x.routers.flatMap (fun e => offer (e.2.state == 1) (.routerRetireMark d e.1)
        ++ offer (e.2.state == 2) (.routerRetired d e.1))
    ++ x.streams.flatMap (fun e => streamSteps d e.1 e.2)

/-- The steps other agents of the part might take now; one of them may turn out to have nothing to do. -/
def State.pendingSteps (s : State) : List Instr :=
  s.consists.flatMap (fun e => match e.2 with | some c => consistSteps s.tick e.1 c | none => [])
    ++ s.cores.flatMap (fun e => coreSteps e.1 e.2 ++ offer (s.parkedOn e.1 != []) (.convoyResume e.1))
    ++ s.convoys.flatMap (fun e => match e.2 with
        | some c => c.assemblies.map (fun a => .freightAssemblyAbandon e.1 a.1)
        | none => [])
    ++ s.sessions.flatMap (fun e => s.sessionSteps e.1 e.2)
    ++ s.stations.flatMap (fun e => stationSteps e.1 e.2)
    ++ s.dies.flatMap (fun e => dieSteps e.1 e.2)
    ++ s.queues.flatMap (fun e => offer (!e.2.stopped && e.2.sqTail != e.2.sqHead) (.commandFetch e.1)
        ++ offer e.2.busy (.submitResume e.1))

/-- A core that can take a waybill now (R277), sought first: what an ended convoy gives back goes to the next one before
an enqueue that waits for it. -/
def State.idleCore (s : State) : Option Nat :=
  s.sessions.findSome? (fun e =>
    if e.2.sidings.all (fun q => q.2.isEmpty) then none
    else (List.range 256).find? (fun k => s.bindSession k == some e.1 && (s.nextRank e.1 k).isSome))

/-- The default turn: a core that can take a waybill takes it; every other step the front end in focus has its turn, when
it has a run that is not stalled; else the front ends and the other agents in rotation, so that each has a turn again and
again. -/
def State.defaultTurn (s : State) : Turn :=
  match s.idleCore with
  | some k => .event (.convoyExpand k)
  | none =>
  let ready := match findCtx s with
    | some x => !(x.c.strm x.st).stalled
    | none => false
  if ready && s.tick % 2 == 0 then .front s.focus.1 s.focus.2
  else
    let fs := s.fronts
    let es := s.pendingSteps
    let j := s.tick / 2 % (fs.length + es.length)
    match fs[j]?, es[j - fs.length]? with
    | some f, _ => .front f.1 f.2
    | none, some e => .event e
    | none, none => .front s.focus.1 s.focus.2

/-- Take the next turn off the agenda, or the default one. -/
def State.takeTurn (s : State) : Turn × State :=
  match s.agenda with
  | t :: rest => (t, { s with agenda := rest })
  | [] => (s.defaultTurn, s)

end Sys2Proof.Machine
end

