-- ==== Sys2Proof/Machine/Keccak.lean ====
section
/-!
DEFINITION. SHAKE256 of FIPS 202, which R355 and R385 name: the permutation Keccak-f[1600] on 25 lanes of 64 bits, lane
x + 5 y at that place of the list.
-/

namespace Sys2Proof.Machine

open Sys2Proof

/-- Lane (x, y), indices modulo 5. -/
def lane (a : List DWord) (x y : Nat) : DWord := a.getD (x % 5 + 5 * (y % 5)) 0

/-- The lanes of a function of (x, y). -/
def lanesBy (f : Nat → Nat → DWord) : List DWord := (List.range 25).map (fun k => f (k % 5) (k / 5))

/-- The walk of ρ: from lane (1, 0) on, the t-th lane turns by the t-th triangular number, and the next lane of (x, y) is
(y, 2x + 3y). -/
def rhoWalk : Nat → Nat → Nat × Nat → List (Nat × Nat)
  | 0, _, _ => []
  | n + 1, t, p => (p.1 + 5 * p.2, (t + 1) * (t + 2) / 2 % 64) :: rhoWalk n (t + 1) (p.2, (2 * p.1 + 3 * p.2) % 5)

/-- How far ρ turns a lane; lane (0, 0) stays. -/
def rhoTurn (k : Nat) : Nat := (((rhoWalk 24 0 (1, 0)).find? (fun e => e.1 == k)).map (fun e => e.2)).getD 0

/-- `n` states of the shift register of ι, whose polynomial is x^8 + x^6 + x^5 + x^4 + 1. -/
def iotaStates : Nat → Nat → List Nat
  | 0, _ => []
  | n + 1, r => r :: iotaStates n (if 128 ≤ r then 2 * r ^^^ 0x171 else 2 * r)

/-- The round constants of ι: round i takes seven bits of the register, which stand at the places 2^j − 1. -/
def iotaConstants : List DWord :=
  let bits := (iotaStates 168 1).map (fun r => r % 2)
  (List.range 24).map (fun i =>
    (List.range 7).foldl (fun w j => w + BitVec.ofNat 64 (bits.getD (7 * i + j) 0 * 2 ^ (2 ^ j - 1))) 0)

/-- One round: θ, ρ and π, χ, ι. -/
def keccakRound (a : List DWord) (rc : DWord) : List DWord :=
  let c := (List.range 5).map (fun x => lane a x 0 ^^^ lane a x 1 ^^^ lane a x 2 ^^^ lane a x 3 ^^^ lane a x 4)
  let d := (List.range 5).map (fun x => c.getD ((x + 4) % 5) 0 ^^^ (c.getD ((x + 1) % 5) 0).rotateLeft 1)
  let t := lanesBy (fun x y => (lane a x y ^^^ d.getD x 0).rotateLeft (rhoTurn (x + 5 * y)))
  let b := lanesBy (fun x y => lane t (x + 3 * y) x)
  let e := lanesBy (fun x y => lane b x y ^^^ (~~~(lane b (x + 1) y) &&& lane b (x + 2) y))
  e.set 0 (e.getD 0 0 ^^^ rc)

/-- Keccak-f[1600]. -/
def keccakF (a : List DWord) : List DWord := iotaConstants.foldl keccakRound a

/-- Little-endian bytes as a lane. -/
def laneOfBytes (l : List Byte) : DWord := l.foldr (fun b w => w <<< 8 ||| b.setWidth 64) 0

/-- Absorb a message whose length is a multiple of the rate, 136 bytes. -/
def absorb : Nat → List Byte → List DWord → List DWord
  | 0, _, a => a
  | n + 1, m, a =>
    let blk := (List.range 17).map (fun j => laneOfBytes ((m.drop (8 * j)).take 8))
    absorb n (m.drop 136) (keccakF ((List.range 25).map (fun k => a.getD k 0 ^^^ blk.getD k 0)))

/-- The message with SHAKE's padding. -/
def shakePad (m : List Byte) : List Byte :=
  let n := 136 - m.length % 136
  if n = 1 then m ++ [0x9F] else m ++ [0x1F] ++ List.replicate (n - 2) 0 ++ [0x80]

/-- The first four lanes, 32 bytes, of SHAKE256 of a message. -/
def shake256 (m : List Byte) : List DWord :=
  let p := shakePad m
  (absorb (p.length / 136) p (List.replicate 25 0)).take 4

end Sys2Proof.Machine
end

