-- ==== Sys2Proof/Machine/Raster.lean ====
section
/-!
DEFINITION. Major 0x49 and the rasteriser (R288 to R295): passes, binning, coverage, rendering, and the events
RASTER_DRAW_BIN, RASTER_PASS_COMPLETE, RASTER_FAULT and RASTER_PASS_ABANDON.
-/

namespace Sys2Proof.Machine

open Sys2Proof

/-! ## Descriptors and records (R289, R290) -/

/-- Bits [hi:lo] of a pass descriptor. -/
def passField (d : BitVec 512) (hi lo : Nat) : Nat := (d.extractLsb' lo (hi + 1 - lo)).toNat
/-- Width and height in samples. -/
def passW (d : BitVec 512) : Nat := passField d 47 32
/-- See `passW`. -/
def passH (d : BitVec 512) : Nat := passField d 63 48
/-- Tiles of a row, and of the target. -/
def passCols (d : BitVec 512) : Nat := (passW d + 63) / 64
/-- See `passCols`. -/
def passTiles (d : BitVec 512) : Nat := passCols d * ((passH d + 63) / 64)

/-- Is a descriptor valid, PBSZ's least size apart? -/
def passValid (d : BitVec 512) : Bool :=
  let f := passField d
  f 511 320 == 0 && f 31 21 == 0 && decide (f 19 18 ≤ 2) && decide (1 ≤ passW d) && decide (passW d ≤ 16384)
    && decide (1 ≤ passH d) && decide (passH d ≤ 16384) && f 5 0 != 1 && f 11 6 != 1 && f 17 12 != 1
    && f 127 64 % 8 == 0 && f 191 128 % 4 == 0 && f 255 192 % 64 == 0 && f 319 256 % 2 ^ 32 % 64 == 0

/-- Bits [hi:lo] of a draw record. -/
def drawField (d : BitVec 256) (hi lo : Nat) : Nat := (d.extractLsb' lo (hi + 1 - lo)).toNat

/-- Is a draw record valid? -/
def drawValid (d : BitVec 256) : Bool :=
  let f := drawField d
  f 127 111 == 0 && f 110 109 != 3 && f 63 32 != 0 && decide (f 95 64 + f 63 32 ≤ 2 ^ 32)
    && f 255 192 % 4 == 0 && f 191 128 % 4 == 0

/-! ## Instructions (R293, R294) -/

/-- A failure value of the raster instructions (R293). -/
def rasterFail (reason : Nat) : DWord := BitVec.ofNat 64 (2 ^ 63 + reason)

/-- The rasteriser's agent identifier of a station of the module (R14). -/
def rasterAgent (g : Nat) : Nat := agentId (g / 8) 3 (g % 8)

/-- What the handles of a pass or draw need of the consist that gave it (R260). -/
def Consist.forHandles (c : Consist) : Consist :=
  { (default : Consist) with
    uid := c.uid, convoy := c.convoy, ci := c.ci, sess := c.sess, title := c.title, privWords := c.privWords,
    pbase := c.pbase, perConvoy := c.perConvoy, htbl := c.htbl, cvid := c.cvid,
    cid := (c.cid &&& ~~~(0x30000#32)) ||| (BitVec.ofNat 32 (c.ownLevel * 2 ^ 16)) }

/-- Change a pass slot of a station. -/
def State.modPass (s : State) (g j : Nat) (f : RasterPass → RasterPass) : State :=
  let x := s.station g
  s.setStation g { x with passes := tput j (f (tget x.passes j)) x.passes }

/-- Everything the lanes of a consist have seen in its A-stream (R294). -/
def Ctx.allSeen (x : Ctx) (s : State) : Clock := s.seenBy x.c.uid .a (List.range 32)

/-- A raster instruction of a run with active lanes; `read` bytes are read at A through h0, as an access of the lowest
active lane (R293). -/
def rasterOp (w : Word) (d a b : BitVec 7) (nw : BitVec 1) (hasB : Bool) (read : Nat) (line : DWord)
    (body : Ctx → Nat → Nat → Nat → State → Got DWord) (s : State) : Out :=
  issue w
    { uses := [(1, d, .dst false true false), (2, a, .src false false)]
        ++ (if hasB then [(3, b, .src false false)] else []), uniform := true }
    (fun x s =>
      if x.act = 0 then .ok s
      else
        let m := lowest x.act
        let at1 := (src1 x a m).toNat
        let result : Got DWord :=
          if isLine x.key then .val line s
          else if read = 0 then body x at1 at1 0 s
          else if at1 % read ≠ 0 then .out (.trapIn s .align (boundsValue 0 at1))
          else ((x.issuer s).read at1 read s).bind (fun y s => body x at1 (src2 x a b m).toNat y s)
        result.andThen (fun v s =>
          .ok (s.modConsist x.key (fun c => putResult s c x.st d false (nw == 1) (lanesOf x.act) (fun _ => v))))) s

/-- A FREE slot of a station that may be given, which one being the engine's own choice (R288). -/
def State.freePass (s : State) (g : Nat) : Option Nat :=
  ((List.range 512).map (fun j => (Config.corePick s.tick + j) % 512)).find? (fun j =>
    (tget (s.station g).passes j).state == 0)

/-- RBEGIN (R289, R293). -/
def execRbegin (d a : BitVec 7) (w : BitVec 1) (s : State) : Out :=
  rasterOp (packReg 0x49 d a 0x78 w 0) d a 0x78 w false 64 (rasterFail 2)
    (fun x _ _ y s =>
      let desc := BitVec.ofNat 512 y
      let g := (stationOf x.key).getD 0
      if !passValid desc then .val (rasterFail 1) s
      else match s.freePass g with
        | none => .val (rasterFail 2) s
        | some j =>
          if passField desc 287 256 < 64 + 8 * passTiles desc then .val (rasterFail 4) s
          else
            let b := s.beginOp (x.allSeen s) (x.allSeen s)
            let old := tget (s.station g).passes j
            let same := old.sess == x.c.sess
            let n := if same then old.counter else 0
            let p : RasterPass :=
              { (default : RasterPass) with
                sess := x.c.sess, state := 1, counter := n, numbered := n, launch := (x.launch s).uid, thread := b.1,
                desc := desc, opener := (x.key, some x.c.forHandles), ends := if same then old.ends else [] }
            .val (BitVec.ofNat 64 (0x4000 + g % 8 * 512 + j)) (b.2.modPass g j (fun _ => p))) s

/-- The slot that a pass identifier names, when it is an OPEN pass of the session on the issuer's station (R293). -/
def Ctx.openPass (x : Ctx) (id : Nat) (s : State) : Option (Nat × Nat) :=
  let g := (stationOf x.key).getD 0
  let j := id % 512
  let p := tget (s.station g).passes j
  if id = 0x4000 + g % 8 * 512 + j ∧ p.state = 1 ∧ p.sess = x.c.sess then some (g, j) else none

/-- The accesses of a pass come after what a consist that draws or flushes has seen (R294). -/
def State.passSees (s : State) (p : RasterPass) (clk : Clock) : State :=
  let t := engineThread p.thread
  (s.learnFor [] (classThread t 0) clk).learnFor [] (classThread t 1) clk

/-- RDRAW (R290, R293, R294): it waits for the consist's logged writes. -/
def execRdraw (d a b : BitVec 7) (w : BitVec 1) (s : State) : Out :=
  rasterOp (packReg 0x49 d a b w 1) d a b w true 32 (rasterFail 3)
    (fun x _ id y s =>
      let r := BitVec.ofNat 256 y
      if !drawValid r then .val (rasterFail 1) s
      else match x.openPass id s with
        | none => .val (rasterFail 3) s
        | some (g, j) =>
          if s.logged x.key then .out (.wait s)
          else
            let p := tget (s.station g).passes j
            let s := s.passSees p (x.allSeen s)
            .val (p.numbered + 1) (s.modPass g j (fun p =>
              { p with numbered := p.numbered + 1, draws := p.draws ++ [(r, x.key, some x.c.forHandles)] }))) s

/-- RFLUSH (R293, R294). -/
def execRflush (d a : BitVec 7) (w : BitVec 1) (s : State) : Out :=
  rasterOp (packReg 0x49 d a 0x78 w 2) d a 0x78 w false 0 (rasterFail 3)
    (fun x id _ _ s =>
      match x.openPass id s with
      | none => .val (rasterFail 3) s
      | some (g, j) =>
        if s.logged x.key then .out (.wait s)
        else
          let p := tget (s.station g).passes j
          let s := s.passSees p (x.allSeen s)
          let s := s.modPass g j (fun p => { p with numbered := p.numbered + 1, state := 2, flusher := some (x.key, x.c.uid) })
          let q := s.station g
          .val (p.numbered + 1) (s.setStation g { q with flushed := q.flushed ++ [j] })) s

/-! ## Primitives (R291) -/

/-- A corner: snapped x and y in units of 2^-8, and z. -/
structure Corner where
  x : Int
  y : Int
  z : Num
  deriving DecidableEq, Repr, Inhabited

/-- A coordinate snapped to 2^-8 by RN, none when it is not finite or its size is 16,384 or more. -/
def snapCoord (bits : Nat) : Option Int :=
  match Fmt.f32.read false bits with
  | .fin neg m e =>
    if cmpNum (.fin false m e) (intNum 16384) ≥ 0 then none
    else
      let r := roundUnits 0 neg ((Exact.dyadic m e).units (-8))
      some (if neg then -(r : Int) else r)
  | _ => none

/-- Twice the signed area of three corners, in units of 2^-16. -/
def cross (a b p : Corner) : Int := (b.x - a.x) * (p.y - a.y) - (p.x - a.x) * (b.y - a.y)

/-- The corners of three vertices given as 9 words, none when the primitive is dropped by R291's first step. -/
def cornersOf (cull : Nat) (w : List Nat) : Option (List Corner) :=
  let corner := fun (i : Nat) => match snapCoord (w.getD (3 * i) 0), snapCoord (w.getD (3 * i + 1) 0),
      Fmt.f32.read false (w.getD (3 * i + 2) 0) with
    | some x, some y, .fin n m e => some ({ x := x, y := y, z := .fin n m e } : Corner)
    | _, _, _ => none
  match corner 0, corner 1, corner 2 with
  | some a, some b, some c =>
    let area := cross a b c
    if area = 0 ∨ (cull = 1 ∧ area < 0) ∨ (cull = 2 ∧ 0 < area) then none else some [a, b, c]
  | _, _, _ => none

/-- Does the half-open bounding box of corners meet tile t of a target (R291)? -/
def meetsTile (d : BitVec 512) (cs : List Corner) (t : Nat) : Bool :=
  let lo := fun (f : Corner → Int) => (cs.map f).foldl min (f (cs.headD default))
  let hi := fun (f : Corner → Int) => (cs.map f).foldl max (f (cs.headD default))
  let x0 : Int := t % passCols d * 64 * 256
  let y0 : Int := t / passCols d * 64 * 256
  let x1 : Int := min (x0 + 64 * 256) (passW d * 256)
  let y1 : Int := min (y0 + 64 * 256) (passH d * 256)
  decide (max (lo Corner.x) x0 < min (hi Corner.x) x1) && decide (max (lo Corner.y) y0 < min (hi Corner.y) y1)

/-- The tiles a primitive is binned into. -/
def tilesOf (d : BitVec 512) (cs : List Corner) : List Nat := (List.range (passTiles d)).filter (meetsTile d cs)

/-- The words kept of a binned primitive's corners, and the corners again. -/
def cornerWords (cs : List Corner) : List Word :=
  cs.flatMap (fun c => [BitVec.ofInt 32 c.x, BitVec.ofInt 32 c.y, BitVec.ofNat 32 (roundNum .f32 plainRN c.z).1])
/-- See `cornerWords`. -/
def cornersBack (w : List Word) : List Corner :=
  (List.range 3).map (fun i =>
    { x := (w.getD (3 * i) 0).toInt, y := (w.getD (3 * i + 1) 0).toInt,
      z := Fmt.f32.read false (w.getD (3 * i + 2) 0).toNat })

/-- Is the point inside the edge from a to b of a primitive with area of this sign? A point on the edge is inside for a
top edge or a left edge, y growing downwards (R291). -/
def insideEdge (sign : Int) (a b p : Corner) : Bool :=
  let e := sign * cross a b p
  decide (0 < e) || (e == 0 &&
    (decide (0 < sign * (a.y - b.y)) || (a.y == b.y && decide (0 < sign * (b.x - a.x)))))

/-- The depth a primitive has at the centre of a sample that it covers, as binary32 (R291); none when the sample is not
covered, or is discarded. -/
def sampleDepth (cs : List Corner) (x y : Nat) : Option Nat :=
  match cs with
  | [a, b, c] =>
    let p : Corner := { x := x * 256 + 128, y := y * 256 + 128, z := .fin false 0 0 }
    let area := cross a b c
    let sign : Int := if area < 0 then -1 else 1
    if insideEdge sign a b p && insideEdge sign b c p && insideEdge sign c a p then
      let part := fun (q r : Corner) (z : Num) => (mulNum (intNum (sign * cross q r p)) z).1
      let sum := (addNum false (addNum false (part b c a.z) (part c a b.z)).1 (part a b c.z)).1
      let z := (divRound .f32 plainRN sum (intNum (sign * area))).1
      match Fmt.f32.read false z with
      | .fin n m e =>
        if (n = true ∧ m ≠ 0) ∨ cmpNum (.fin false m e) (intNum 1) > 0 then none else some z
      | _ => none
    else none
  | _ => none

/-- Does a new depth pass against the stored one (R289, R291)? -/
def depthPasses (zmode new old : Nat) : Bool :=
  let c := match Fmt.f32.read false old with
    | .fin n m e => some (cmpNum (Fmt.f32.read false new) (.fin n m e))
    | .inf n => some (cmpNum (Fmt.f32.read false new) (.inf n))
    | _ => none
  match zmode with
  | 0 => c.any (fun o => decide (o < 0))
  | 1 => c.any (fun o => decide (o ≤ 0))
  | _ => true

/-! ## The rasteriser's accesses -/

/-- A pass at work: station, slot, and the pass. -/
structure Raster where
  g : Nat
  j : Nat
  p : RasterPass

/-- The checks of an access of the pass through a handle of a consist (R295), of single accesses of `unit` bytes: BOUNDS reports
the offset of the first that lies outside (R178). The rasteriser is an agent of the session, which no scope below station takes
in (R71). -/
def Raster.place (r : Raster) (o : Nat × Option Consist) (h : Nat) (k : AccKind) (row off len unit align : Nat) (s : State) :
    Doing (Nat × List Piece) :=
  let c := o.2.getD default
  let agent := rasterAgent r.g
  (engineWindow agent c h (k == .write) off s).bind (fun w s =>
    if off % align ≠ 0 then .fail .align (boundsValue 0 off) s
    else match w.firstOutside s c off len with
      | some bad => .fail .bounds (boundsValue 0 (off + (bad - off) / unit * unit)) s
      | none =>
        (engineReach (c.engine agent) k w.space (w.pieces s c row off len) s).bind (fun ps s =>
          (engineRace w.chk (engineAccess s r.p.thread (sessionParty s r.p.sess agent) (k == .write) false) ps s).bind
            (fun _ s => .ok (w.space, ps) s)))

/-- Read bytes through a handle. -/
def Raster.get (r : Raster) (o : Nat × Option Consist) (h off len unit align : Nat) (s : State) : Doing Nat :=
  (r.place o h .read 0 off len unit align s).bind (fun p s =>
    (engineRead (rasterAgent r.g) r.p.sess p.1 p.2 s).bind (fun f s => .ok (f 0) s))

/-- The checks of several writes of the same handle, before any is made. -/
def Raster.stage (r : Raster) (o : Nat × Option Consist) (h align : Nat) :
    List (Nat × Nat × Nat) → State → Doing (List Staged)
  | [], s => .ok [] s
  | (off, len, v) :: ws, s =>
    (r.place o h .write 0 off len len align s).bind (fun p s =>
      (r.stage o h align ws s).bind (fun l s => .ok ((p.1, p.2, v) :: l) s))

/-- Perform staged writes. -/
def performAll (ws : List Staged) (s : State) : State := ws.foldl (fun s w => Staged.perform w false s) s

/-! ## Rendering (R292) -/

/-- A sample of a tile as a render leaves it: identifier, depth, written. -/
abbrev Sample := Nat × Nat × Bool

/-- A sample after the binned primitives of its tile have met it in order. -/
def renderSample (zmode : Nat) (prims : List (Nat × List Corner)) (x y : Nat) (start : Sample) : Sample :=
  prims.foldl (fun v p =>
    match sampleDepth p.2 x y with
    | some z => if depthPasses zmode z v.2.1 then (p.1, z, true) else v
    | none => v) start

/-- Render a tile: load or clear it, meet its primitives, write the samples that changed. -/
def Raster.renderTile (r : Raster) (t : Nat) (s : State) : Doing Unit :=
  let d := r.p.desc
  let x0 := t % passCols d * 64
  let y0 := t / passCols d * 64
  let w := min 64 (passW d - x0)
  let h := min 64 (passH d - y0)
  let index := fun (x y : Nat) => (y0 + y) * passW d + x0 + x
  let ids := fun (i : Nat) => passField d 127 64 + 8 * i
  let deps := fun (i : Nat) => passField d 191 128 + 4 * i
  let hv := passField d 5 0
  let hd := passField d 11 6
  let clear := d.getLsbD 20 && tget r.p.tilesDone t == 0
  let prims := (r.p.binned.map (fun b => (b.1.toNat, cornersBack b.2))).filter (fun b => meetsTile d b.2 t)
  let rec load : List Nat → State → Doing (List Nat)
    | [], s => .ok [] s
    | y :: ys, s =>
      (r.get r.p.opener hv (ids (index 0 y)) (8 * w) 8 8 s).bind (fun _ s =>
        (r.get r.p.opener hd (deps (index 0 y)) (4 * w) 4 4 s).bind (fun b s =>
          (load ys s).bind (fun l s => .ok (b :: l) s)))
  let start := if clear then Doing.ok [] s else load (List.range h) s
  start.bind (fun rows s =>
    let samples := (List.range h).flatMap (fun y => (List.range w).filterMap (fun x =>
      let v : Sample := if clear then (2 ^ 64 - 1, passField d 319 288, true)
        else (0, rows.getD y 0 / 2 ^ (32 * x) % 2 ^ 32, false)
      let v := renderSample (passField d 19 18) prims (x0 + x) (y0 + y) v
      if v.2.2 then some (index x y, v) else none))
    (r.stage r.p.opener hv 8 (samples.map (fun e => (ids e.1, 8, e.2.1))) s).bind (fun a s =>
      (r.stage r.p.opener hd 4 (samples.map (fun e => (deps e.1, 4, e.2.2.1))) s).bind (fun b s =>
        .ok () (performAll (a ++ b) s))))

/-- A part that waits or fails leaves no record of accesses. -/
def Doing.undo {α : Type} (x : Doing α) (before : State) : Doing α :=
  match x with
  | .wait u => .wait (u.withoutAccesses before)
  | .fail c v u => .fail c v (u.withoutAccesses before)
  | y => y

/-- Render tiles one after another; those rendered are noted, so that a wait does not render them again. -/
def Raster.renderTiles (g j : Nat) : List Nat → State → Doing Unit
  | [], s => .ok () s
  | t :: ts, s =>
    let p := tget (s.station g).passes j
    if tget p.tilesNow t ≠ 0 then Raster.renderTiles g j ts s
    else ((({ g := g, j := j, p := p } : Raster).renderTile t s).undo s).bind (fun _ s =>
      Raster.renderTiles g j ts (s.modPass g j (fun p =>
        { p with tilesDone := tset p.tilesDone t 1, tilesNow := tset p.tilesNow t 1 })))

/-- A partial or final render (R292): the tiles, and the parameter buffer is empty after it. -/
def renderPass (g j : Nat) (tiles : List Nat) (s : State) : Doing Unit :=
  (Raster.renderTiles g j tiles s).bind (fun _ s =>
    .ok () (s.modPass g j (fun p => { p with binned := [], used := 0, tilesNow := [] })))

/-- The tiles that hold binned primitives. -/
def RasterPass.holding (p : RasterPass) : List Nat :=
  (List.range (passTiles p.desc)).filter (fun t => p.binned.any (fun b => meetsTile p.desc (cornersBack b.2) t))

/-! ## Binning (R291) -/

/-- Read the 9 words of a primitive's corners (R290). -/
def Raster.vertices (r : Raster) (o : Nat × Option Consist) (d : BitVec 256) (prim : Nat) :
    List Nat → State → Doing (List Nat)
  | [], s => .ok [] s
  | c :: cs, s =>
    let hv := drawField d 101 96
    let number := if d.getLsbD 108 then r.get o (drawField d 107 102) (drawField d 255 192 + 4 * (3 * prim + c)) 4 4 4 s
      else .ok (3 * prim + c) s
    number.bind (fun v s =>
      (r.get o hv (drawField d 191 128 + 12 * v) 12 12 4 s).bind (fun x s =>
        (r.vertices o d prim cs s).bind (fun l s => .ok ([x % 2 ^ 32, x / 2 ^ 32 % 2 ^ 32, x / 2 ^ 64] ++ l) s)))

/-- Bin one primitive of a draw: a partial render first when its cost does not fit (R292). What the parameter buffer then
holds is not stated: its bytes are free (DESIGN CHOICE, assumption log 28). -/
def Raster.binOne (r : Raster) (o : Nat × Option Consist) (d : BitVec 256) (prim : Nat) (s : State) : Doing Unit :=
  ((r.vertices o d prim [0, 1, 2] s).undo s).bind (fun w s =>
    match cornersOf (drawField d 110 109) w with
    | none => .ok () s
    | some cs =>
      let cost := 64 + 8 * (tilesOf r.p.desc cs).length
      let room := if passField r.p.desc 287 256 < r.p.used + cost then renderPass r.g r.j r.p.holding s else .ok () s
      room.bind (fun _ s =>
        let p := tget (s.station r.g).passes r.j
        let bytes := leNat ((List.range cost).map (fun i => Config.freeByte s.tick (prim * 2 ^ 20 + i)))
        let put := r.stage p.opener (passField p.desc 17 12) 8 [(passField p.desc 255 192 + p.used, cost, bytes)] s
        (put.undo s).bind (fun ws s =>
          let id := BitVec.ofNat 64 (drawField d 23 0 * 2 ^ 40 + drawField d 31 24 * 2 ^ 32 + prim)
          .ok () ((performAll ws s).modPass r.g r.j (fun p =>
            { p with binned := p.binned ++ [(id, cornerWords cs)], used := p.used + cost })))))

/-- Bin the rest of the oldest draw of a pass, one primitive after another; the record keeps what is left. -/
def binDraw (g j : Nat) : Nat → State → Doing Unit
  | 0, s => .ok () s
  | fuel + 1, s =>
    let p := tget (s.station g).passes j
    match p.draws with
    | [] => .ok () s
    | (d, o) :: rest =>
      let first := drawField d 95 64
      let n := drawField d 63 32
      match ({ g := g, j := j, p := p } : Raster).binOne o d first s with
      | .ok _ t =>
        let left : BitVec 256 := (d &&& ~~~(0xFFFFFFFFFFFFFFFF#256 <<< 32))
          ||| (BitVec.ofNat 256 ((first + 1) % 2 ^ 32 * 2 ^ 64 + (n - 1) * 2 ^ 32))
        binDraw g j fuel (t.modPass g j (fun p => { p with draws := if n ≤ 1 then rest else (left, o) :: rest }))
      | .wait t => .wait t
      | .fail c v t => .fail c v t
      | .gone t => .gone t

/-! ## Events -/

/-- A pass fails, to be delivered (R295). -/
def State.failPass (s : State) (g j : Nat) (cause : Cause) (v : DWord) : State :=
  s.modPass g j (fun p => { p with failure := some (cause, v) })

/-- A slot is FREE again, with a final count: its work is discarded, and waits for more learn it (R77, R288). -/
def State.endPass (s : State) (g j : Nat) (counter : DWord) (ends : List (Nat × Release)) : State :=
  let p := tget (s.station g).passes j
  let t := engineThread p.thread
  let s := { s with clocks := tdel (classThread t 1) (tdel (classThread t 0) (tdel t s.clocks)) }
  let s := s.modPass g j (fun p =>
    { (default : RasterPass) with sess := p.sess, counter := counter, numbered := counter, ends := ends })
  let x := s.station g
  (s.setStation g { x with flushed := x.flushed.filter (fun i => i != j) }).endTimeline (passOwner g j) counter

/-- RASTER_DRAW_BIN (R291): the oldest draw of one of a station's passes is binned. -/
def execRasterDrawBin (station : Nat) (s : State) : Out :=
  .next (
    let ready := (s.station station).passes.filter (fun (e : Nat × RasterPass) => e.2.state != 0 && e.2.draws != [] && e.2.failure.isNone)
    match ready[s.tick % ready.length]? with
    | none => s
    | some (j, p) =>
      match p.draws with
      | [] => s
      | (d, k, o) :: _ =>
        match binDraw station j (drawField d 63 32) (s.modPass station j (fun p =>
            { p with drawer := o.map (fun (c : Consist) => (k, c.uid)) })) with
        | .ok _ s => s
        | .wait s => s
        | .fail cause v s => s.failPass station j cause v
        | .gone s => s).bump

/-- RASTER_PASS_COMPLETE (R288): the oldest flushed pass, all its draws binned, is rendered to its end, every tile of the
target once at least, and its counter takes the RFLUSH number. The completion is that of each of its draws too (R293). -/
def execRasterPassComplete (station : Nat) (s : State) : Out :=
  .next (
    match (s.station station).flushed with
    | [] => s
    | j :: _ =>
      let p := tget (s.station station).passes j
      if p.draws != [] || p.failure.isSome then s
      else
        let tiles := (List.range (passTiles p.desc)).filter (fun t => tget p.tilesDone t == 0 || p.holding.contains t)
        match renderPass station j tiles s with
        | .ok _ s =>
          let e := s.endOp p.thread (sessionParty s p.sess (rasterAgent station))
          e.2.endPass station j p.numbered (addEnd p.ends (p.counter.toNat + 1) e.1)
        | .wait s => s
        | .fail cause v s => s.failPass station j cause v
        | .gone s => s).bump

/-- RASTER_FAULT (R295): a failed pass ends, and its fault goes to the consist of its RFLUSH, else of the RDRAW being
binned. -/
def execRasterFault (station : Nat) (s : State) : Out :=
  .next (match (s.station station).passes.find? (fun (e : Nat × RasterPass) => e.2.failure.isSome) with
    | some (j, p) =>
      (match p.failure, p.flusher.orElse (fun _ => p.drawer) with
      | some (cause, v), some k =>
        (s.endPass station j p.counter p.ends).modConsist k.1 (fun c =>
          if c.uid = k.2 then c.giveFault cause v 0 (c.holds .a && cause != Cause.mmx) else c)
      | _, _ => s.endPass station j p.counter p.ends)
    | none => s).bump

/-- RASTER_PASS_ABANDON (R288): an OPEN pass whose opening launch has ended is discarded. -/
def execRasterPassAbandon (station slot : Nat) (s : State) : Out :=
  .next (
    let p := tget (s.station station).passes slot
    if p.state = 1 ∧ (s.session p.sess).launches.any (fun l => l.2.uid == p.launch && l.2.count != 0) = false then
      s.endPass station slot p.counter p.ends
    else s).bump

end Sys2Proof.Machine
end

