-- ==== Sys2Proof/Machine/Functions.lean ====
section
/-!
DEFINITION. Major 0x25: the special functions (R167, R168). Where R167 gives a bound and not a value, the result is a free
value within the bound, the same for equal arguments (DESIGN CHOICE, assumption log 7): the function's exact value is enclosed between
two dyadic numbers, and `Config.functionChoice` picks one of the binary32 values that the bound allows.
-/

namespace Sys2Proof.Machine

open Sys2Proof

/-! ## Fixed point with 96 fraction bits -/

/-- Fraction bits of the fixed-point numbers below. -/
def fxBits : Nat := 96

/-- ln 2, rounded down. -/
def fxLn2 : Nat := 54916777467707473351141471128
/-- 1 / ln 2, rounded down. -/
def fxLog2e : Nat := 114302077158074026402637675936
/-- 2 π, rounded down. -/
def fxTwoPi : Nat := 497805226624462170461043889244

/-- The error that every fixed-point series below stays under, in units of 2^−96. -/
def fxError : Nat := 2 ^ 16

/-- The product of two fixed-point numbers. -/
def fxMul (x y : Nat) : Nat := x * y / 2 ^ fxBits

/-- Σ t_k with t_{k+1} = t_k × y ÷ div k: `n` terms from term `k`. -/
def fxSeries (y : Nat) (div : Nat → Nat) : Nat → Nat → Nat → Nat
  | 0, _, _ => 0
  | n + 1, k, t => t + fxSeries y div n (k + 1) (fxMul t y / div k)

/-- The same with signs that alternate: the sum of its even terms and of its odd ones. -/
def fxAlternating (y : Nat) (div : Nat → Nat) : Nat → Nat → Nat → Int
  | 0, _, _ => 0
  | n + 1, k, t => (t : Int) - fxAlternating y div n (k + 1) (fxMul t y / div k)

/-- 2^r for a fraction r. -/
def fxExp2 (r : Nat) : Nat := fxSeries (fxMul r fxLn2) (fun k => k + 1) 36 0 (2 ^ fxBits)

/-- log2 m for m in [1, 2): 2 artanh((m − 1)/(m + 1)) ÷ ln 2. -/
def fxLog2 (m : Nat) : Nat :=
  let z := (m - 2 ^ fxBits) * 2 ^ fxBits / (m + 2 ^ fxBits)
  let y := fxMul z z
  let terms := (List.range 34).foldl (fun (st : Nat × Nat) k => (st.1 + st.2 / (2 * k + 1), fxMul st.2 y)) (0, z)
  2 * terms.1 * 2 ^ fxBits / fxLn2

/-- sin t ÷ t for t up to 1. -/
def fxSinc (t : Nat) : Int := fxAlternating (fxMul t t) (fun k => (2 * k + 2) * (2 * k + 3)) 16 0 (2 ^ fxBits)

/-- cos t for t up to 1. -/
def fxCos (t : Nat) : Int := fxAlternating (fxMul t t) (fun k => (2 * k + 1) * (2 * k + 2)) 16 0 (2 ^ fxBits)

/-! ## Dyadic numbers and the binary32 values near them -/

/-- v × 2^e. -/
structure Dyadic where
  v : Int
  e : Int
  deriving DecidableEq, Repr

/-- The sum of two. -/
def Dyadic.add (x y : Dyadic) : Dyadic :=
  let q := min x.e y.e
  { v := x.v * 2 ^ (x.e - q).toNat + y.v * 2 ^ (y.e - q).toNat, e := q }

/-- The negative. -/
def Dyadic.neg (x : Dyadic) : Dyadic := { x with v := -x.v }

/-- Order number of the greatest finite binary32 value at or below a positive dyadic, or the least at or above one: the
magnitude bits. Above the greatest finite value stands infinity. -/
def ordinalOf (up : Bool) (m : Nat) (e : Int) : Nat :=
  if m = 0 then 0
  else (roundReal .f32 { mode := if up then 2 else 1, flush := false, sat := 0 } false (Exact.dyadic m e)).1

/-- Order number of the greatest binary32 value not above a dyadic (`up` false), or of the least not below it. -/
def Dyadic.ordinal (up : Bool) (x : Dyadic) : Int :=
  if x.v < 0 then -(ordinalOf (!up) x.v.natAbs x.e : Int) else ordinalOf up x.v.natAbs x.e

/-- The bits of the value with an order number. -/
def ordinalBits (o : Int) : Nat := Fmt.f32.signed (decide (o < 0)) o.natAbs

/-- The exponent of an ulp of an exact result that is no dyadic number and lies just below one in magnitude (R167). -/
def ulpExp (x : Dyadic) : Int :=
  if x.v = 0 then -149 else max (((x.v.natAbs * 2 ^ 100 - 1).log2 : Int) + x.e - 100) (-126) - 23

/-- An enclosure of an exact value that is no dyadic number: lo < value < hi. -/
structure Enclosed where
  lo : Dyadic
  hi : Dyadic
  deriving DecidableEq, Repr

/-- The enclosure of the negative. -/
def Enclosed.flip (x : Enclosed) : Enclosed := { lo := x.hi.neg, hi := x.lo.neg }

/-- What an accuracy bound of R167 allows: the values that bracket the exact one, those within two ulps, or those within
2^−22. -/
inductive Bound where
  | faithful | twoUlp | absolute
  deriving DecidableEq, Repr

/-- The order numbers of the least and the greatest value that the bound allows for every exact value in the enclosure: the
last below hi and the first above lo, or those no further than the bound from either end (UNVERIFIED, assumption log 7). -/
def Bound.range (b : Bound) (x : Enclosed) : Int × Int :=
  let within := fun (e : Int) => ((x.hi.add { v := -1, e := e }).ordinal true, (x.lo.add { v := 1, e := e }).ordinal false)
  match b with
  | .faithful => (x.hi.ordinal true - 1, x.lo.ordinal false + 1)
  | .twoUlp => within (max (ulpExp x.lo) (ulpExp x.hi) + 1)
  | .absolute => within (-22)

/-- A result that is not exact: flags, and flushing of a subnormal (R115, R167). A zero that the bound lets stand for a value
that is not zero raises underflow as a subnormal does (DESIGN CHOICE, assumption log 44). -/
def inexactResult (flush : Bool) (bits : Nat) : FRes :=
  let mag := bits % 2 ^ 31
  let tiny := decide (mag < 2 ^ 23)
  (if flush && tiny then bits - mag else bits, flagNX ||| (if tiny then flagUF else 0))

/-- The result of function `fn` at the argument `arg`, picked within the bound. -/
def pickWithin (fn arg : Nat) (flush : Bool) (b : Bound) (x : Enclosed) : FRes :=
  let r := b.range x
  inexactResult flush (ordinalBits (r.1 + (Config.functionChoice fn (BitVec.ofNat 32 arg) % ((r.2 - r.1).toNat + 1) : Nat)))

/-- A result beyond the range of binary32 (R167). -/
def beyondRange (neg : Bool) : FRes := (Fmt.f32.signed neg Fmt.f32.infMag, flagOF ||| flagNX)

/-- A faithful result whose exact value is a quotient or a root: one of its two neighbours, or itself (R167). -/
def faithfulExact (fn arg : Nat) (flush neg : Bool) (x : Exact) : FRes :=
  let down := roundReal .f32 { mode := 1, flush := false, sat := 0 } false x
  let up := roundReal .f32 { mode := 2, flush := false, sat := 0 } false x
  if up.2 &&& flagOF ≠ 0 then beyondRange neg
  else if down.1 = up.1 then roundReal .f32 { mode := 0, flush := flush, sat := 0 } neg x
  else
    inexactResult flush (Fmt.f32.signed neg
      (if Config.functionChoice fn (BitVec.ofNat 32 arg) % 2 = 0 then down.1 else up.1))

/-! ## The functions (R167, R168) -/

/-- The canonical NaN, with invalid or not. -/
def nanResult (invalid : Bool) : FRes := (Fmt.f32.nanBits, if invalid then flagNV else 0)

/-- An exact finite result, flushed where it is subnormal. -/
def exactResult (flush neg : Bool) (m : Nat) (e : Int) : FRes :=
  roundNum .f32 { mode := 0, flush := flush, sat := 0 } (.fin neg m e)

/-- RCP. -/
def fnRcp (flush : Bool) (arg : Nat) (x : Num) : FRes :=
  match x with
  | .nan q => nanResult q
  | .inf n => (Fmt.f32.signed n 0, 0)
  | .fin n m e =>
    if m = 0 then (Fmt.f32.signed n Fmt.f32.infMag, flagDZ)
    else faithfulExact 0 arg flush n (if 0 ≤ e then .ratio 1 (m * 2 ^ e.toNat) else .ratio (2 ^ (-e).toNat) m)

/-- RSQ. -/
def fnRsq (flush : Bool) (arg : Nat) (x : Num) : FRes :=
  match x with
  | .nan q => nanResult q
  | .inf n => if n then nanResult true else (0, 0)
  | .fin n m e =>
    if m = 0 then (Fmt.f32.signed n Fmt.f32.infMag, flagDZ)
    else if n then nanResult true
    else faithfulExact 1 arg flush false (if 0 ≤ e then .root 1 (m * 2 ^ e.toNat) else .root (2 ^ (-e).toNat) m)

/-- SQRT. -/
def fnSqrt (flush : Bool) (arg : Nat) (x : Num) : FRes :=
  match x with
  | .nan q => nanResult q
  | .inf n => if n then nanResult true else (Fmt.f32.infMag, 0)
  | .fin n m e =>
    if m = 0 then (Fmt.f32.signed n 0, 0)
    else if n then nanResult true
    else faithfulExact 2 arg flush false (if 0 ≤ e then .root (m * 2 ^ e.toNat) 1 else .root m (2 ^ (-e).toNat))

/-- The whole part of v × 2^e and its fraction in fixed point, cut off; whether it is whole. -/
def splitFixed (v e : Int) : Int × Nat × Bool :=
  if 0 ≤ e then (v * 2 ^ e.toNat, 0, true)
  else
    let d : Int := 2 ^ (-e).toNat
    let w := Int.fdiv v d
    let rem := (v - w * d).toNat
    (w, rem * 2 ^ fxBits / 2 ^ (-e).toNat, rem == 0)

/-- An enclosure of 2^(w + r), with r in fixed point and 0 < r < 1. -/
def encloseExp2 (w : Int) (r : Nat) : Enclosed :=
  if w < -400 then { lo := { v := 0, e := 0 }, hi := { v := 1, e := -400 } }
  else
    let y := fxExp2 r
    { lo := { v := max ((y : Int) - fxError) (2 ^ fxBits), e := w - fxBits },
      hi := { v := min ((y : Int) + fxError) (2 ^ (fxBits + 1)), e := w - fxBits } }

/-- EX2. -/
def fnEx2 (flush : Bool) (arg : Nat) (x : Num) : FRes :=
  match x with
  | .nan q => nanResult q
  | .inf n => (if n then 0 else Fmt.f32.infMag, 0)
  | .fin n m e =>
    let p := splitFixed (if n then -(m : Int) else m) e
    if 128 ≤ p.1 then beyondRange false
    else if p.2.2 = true ∧ -149 ≤ p.1 then exactResult flush false 1 p.1
    else pickWithin 3 arg flush .twoUlp (encloseExp2 p.1 p.2.1)

/-- LG2. -/
def fnLg2 (flush : Bool) (arg : Nat) (x : Num) : FRes :=
  match x with
  | .nan q => nanResult q
  | .inf n => if n then nanResult true else (Fmt.f32.infMag, 0)
  | .fin n m e =>
    if m = 0 then (Fmt.f32.signed true Fmt.f32.infMag, flagDZ)
    else if n then nanResult true
    else
      let lg := m.log2
      let w : Int := (lg : Int) + e
      if m = 2 ^ lg then exactResult flush (decide (w < 0)) w.natAbs 0
      else
        let y : Int := w * 2 ^ fxBits + fxLog2 (m * 2 ^ fxBits / 2 ^ lg)
        pickWithin 4 arg flush (if w = 0 ∨ w = -1 then .absolute else .twoUlp)
          { lo := { v := y - fxError, e := -(fxBits : Int) }, hi := { v := y + fxError, e := -(fxBits : Int) } }

/-- An enclosure of sin(2π m 2^e) for an angle of at most an eighth of a turn. -/
def encloseSin (m : Nat) (e : Int) : Enclosed :=
  let t := m * fxTwoPi
  let fx := if 0 ≤ e then 0 else t / 2 ^ (-e).toNat
  let c := fxSinc fx
  { lo := { v := t * (c - fxError), e := e - 2 * fxBits },
    hi := { v := (t + m) * (c + fxError), e := e - 2 * fxBits } }

/-- An enclosure of cos(2π m 2^e) for an angle of at most an eighth of a turn. -/
def encloseCos (m : Nat) (e : Int) : Enclosed :=
  let fx := if 0 ≤ e then 0 else m * fxTwoPi / 2 ^ (-e).toNat
  let c := fxCos fx
  { lo := { v := c - fxError, e := -(fxBits : Int) }, hi := { v := min (c + fxError) (2 ^ fxBits), e := -(fxBits : Int) } }

/-- Four times a finite argument as an integer, if it is one (R168). -/
def quarterTurns (n : Bool) (m : Nat) (e : Int) : Option Int :=
  let v : Int := if n then -(m : Int) else m
  if -2 ≤ e then some (v * 2 ^ (e + 2).toNat)
  else if m % 2 ^ (-e - 2).toNat = 0 then some (v / 2 ^ (-e - 2).toNat)
  else none

/-- The angle reduced to half a turn at most (R168), as a signed count of 2^e with e negative. -/
def reduceTurns (n : Bool) (m : Nat) (e : Int) : Int :=
  let d : Int := 2 ^ (-e).toNat
  let v : Int := (if n then -(m : Int) else m) % d
  if d < 2 * v then v - d else v

/-- An enclosure of the sine, or of the cosine, at an angle r × 2^e turns, |r| × 2^e below one half. -/
def encloseTurn (cosine : Bool) (r : Int) (e : Int) : Enclosed :=
  let eighth : Nat := 2 ^ (-e - 3).toNat
  let u := r.natAbs
  let back := fun (y : Enclosed) => if r < 0 then y.flip else y
  if e > -3 then (if cosine then encloseCos 0 0 else encloseSin 0 0)
  else if cosine then
    if u ≤ eighth then encloseCos u e
    else if u ≤ 2 * eighth then encloseSin (2 * eighth - u) e
    else if u ≤ 3 * eighth then (encloseSin (u - 2 * eighth) e).flip
    else (encloseCos (4 * eighth - u) e).flip
  else
    if u ≤ eighth then back (encloseSin u e)
    else if u ≤ 2 * eighth then back (encloseCos (2 * eighth - u) e)
    else if u ≤ 3 * eighth then back (encloseCos (u - 2 * eighth) e)
    else back (encloseSin (4 * eighth - u) e)

/-- SINT and COST. -/
def fnTurn (cosine flush : Bool) (arg : Nat) (x : Num) : FRes :=
  match x with
  | .nan q => nanResult q
  | .inf _ => nanResult true
  | .fin n m e =>
    match quarterTurns n m e with
    | some k =>
      let j := ((if cosine then k + 1 else k) % 4).toNat
      if j = 1 then (Fmt.f32.oneBits, 0)
      else if j = 3 then (Fmt.f32.signed true Fmt.f32.oneBits, 0)
      else if !cosine && m == 0 then (Fmt.f32.signed n 0, 0)
      else (0, 0)
    | none => pickWithin (if cosine then 6 else 5) arg flush .faithful (encloseTurn cosine (reduceTurns n m e) e)

/-- An enclosure of tanh of a positive m × 2^e: x − x³/3 to x − x³/3 + 2x⁵/15 for small x, else through e^(−2x). -/
def encloseTanh (m : Nat) (e : Int) : Enclosed :=
  if (m.log2 : Int) + e < -10 then
    let m3 : Int := (m : Int) * m * m
    let x : Dyadic := { v := 15 * m, e := e }
    let y : Dyadic := { v := -5 * m3, e := 3 * e }
    let z : Dyadic := { v := 2 * m3 * m * m, e := 5 * e }
    -- fifteenths, divided with one more unit on the outside
    let lo := x.add y
    let hi := lo.add z
    { lo := { v := Int.fdiv (lo.v * 2 ^ 80) 15, e := lo.e - 80 },
      hi := { v := Int.fdiv (hi.v * 2 ^ 80) 15 + 1, e := hi.e - 80 } }
  else if 6 ≤ (m.log2 : Int) + e then
    { lo := { v := 2 ^ 90 - 1, e := -90 }, hi := { v := 1, e := 0 } }
  else
    -- −2x log2 e, as a whole part and a fraction
    let t := m * fxLog2e
    let sh : Int := e + 1
    let fx : Int := if 0 ≤ sh then (t * 2 ^ sh.toNat : Nat) else (t / 2 ^ (-sh).toNat : Nat)
    let p := splitFixed (-fx) (-(fxBits : Int))
    let q := encloseExp2 p.1 p.2.1
    -- q, at 2^−200, outward by what the cut-off angle adds
    let scale := fun (d : Dyadic) => (scaleRatio d.v.natAbs 1 (-(d.e + 200)))
    let ql : Nat := (scale q.lo).1 / (scale q.lo).2
    let qh : Nat := (scale q.hi).1 / (scale q.hi).2 + 2 ^ 130
    let one := 2 ^ 200
    { lo := { v := (((one - qh) * 2 ^ 100 / (one + qh) : Nat) : Int) - 1, e := -100 },
      hi := { v := min ((((one - (ql - 2 ^ 130)) * 2 ^ 100 / (one + (ql - 2 ^ 130)) : Nat) : Int) + 1) (2 ^ 100), e := -100 } }

/-- TANH. -/
def fnTanh (flush : Bool) (arg : Nat) (x : Num) : FRes :=
  match x with
  | .nan q => nanResult q
  | .inf n => (Fmt.f32.signed n Fmt.f32.oneBits, 0)
  | .fin n m e =>
    if m = 0 then (Fmt.f32.signed n 0, 0)
    else pickWithin 7 arg flush .twoUlp (if n then (encloseTanh m e).flip else encloseTanh m e)

/-! ## The instructions -/

/-- A special function outside rational mode; `q` is its rational reading, none where it has none (R155). -/
def special (fn : BitVec 3) (f : Bool → Nat → Num → FRes) (q : Option (Nat → RNum → RNum)) (d a : BitVec 7)
    (w : BitVec 1) (s : State) : Out :=
  issue (packReg 0x25 d a 0x78 w fn) (infoF2 d a)
    (fun x s =>
      let va := fsrcA x false a
      match q, x.c.rat with
      | some q, true =>
        retireSlash x d false (w == 1) (fun l => q (slashMode x) (readSlash false (va l)).1)
          (fun l => (readSlash false (va l)).2) s
      | _, _ =>
        let flush := flushOn x
        retireFloat x d false false (w == 1) (fun l => f flush (va l) (Fmt.f32.read flush (va l))) s) s

/-- RCP (R167, R212). -/
def execRcp (d a : BitVec 7) (w : BitVec 1) (s : State) : Out := special 0 fnRcp (some (fun _ => rcpSlash)) d a w s
/-- RSQ (R167, R216). -/
def execRsq (d a : BitVec 7) (w : BitVec 1) (s : State) : Out := special 1 fnRsq (some rsqSlash) d a w s
/-- SQRT (R167, R216). -/
def execSqrt (d a : BitVec 7) (w : BitVec 1) (s : State) : Out := special 2 fnSqrt (some (sqrtSlash false)) d a w s
/-- EX2 (R167). -/
def execEx2 (d a : BitVec 7) (w : BitVec 1) (s : State) : Out := special 3 fnEx2 none d a w s
/-- LG2 (R167). -/
def execLg2 (d a : BitVec 7) (w : BitVec 1) (s : State) : Out := special 4 fnLg2 none d a w s
/-- SINT (R168). -/
def execSint (d a : BitVec 7) (w : BitVec 1) (s : State) : Out := special 5 (fnTurn false) none d a w s
/-- COST (R168). -/
def execCost (d a : BitVec 7) (w : BitVec 1) (s : State) : Out := special 6 (fnTurn true) none d a w s
/-- TANH (R167). -/
def execTanh (d a : BitVec 7) (w : BitVec 1) (s : State) : Out := special 7 fnTanh none d a w s

end Sys2Proof.Machine
end

