-- ==== Sys2Proof/Machine/TexBlocks.lean ====
section
/-!
DEFINITION. The block-compressed texel formats that R297 takes from the Khronos Data Format Specification, version 1.3: BC6H,
BC7 and ASTC in the LDR profile. Their tables and their layouts are that document's and not this spec's (PRESUMED, assumption
log 8).
-/

namespace Sys2Proof.Machine

open Sys2Proof

/-- `n` bits of a number from bit `lo` on. -/
def takeBits (x lo n : Nat) : Nat := x / 2 ^ lo % 2 ^ n

/-! ## Partitions and indices of BC6H and BC7 -/

/-- The partitions into two subsets: the subset of texel t is bits [2t + 1 : 2t]. -/
def halves : List Nat :=
  [0x50505050, 0x40404040, 0x54545454, 0x54505040, 0x50404000, 0x55545450, 0x55545040, 0x54504000]
    ++ [0x50400000, 0x55555450, 0x55544000, 0x54400000, 0x55555440, 0x55550000, 0x55555500, 0x55000000]
    ++ [0x55150100, 0x00004054, 0x15010000, 0x00405054, 0x00004050, 0x15050100, 0x05010000, 0x40505054]
    ++ [0x00404050, 0x05010100, 0x14141414, 0x05141450, 0x01155440, 0x00555500, 0x15014054, 0x05414150]
    ++ [0x44444444, 0x55005500, 0x11441144, 0x05055050, 0x05500550, 0x11114444, 0x41144114, 0x44111144]
    ++ [0x15055054, 0x01055040, 0x05041050, 0x05455150, 0x14414114, 0x50050550, 0x41411414, 0x00141400]
    ++ [0x00041504, 0x00105410, 0x10541000, 0x04150400, 0x50410514, 0x41051450, 0x05415014, 0x14054150]
    ++ [0x41050514, 0x41505014, 0x40011554, 0x54150140, 0x50505500, 0x00555050, 0x15151010, 0x54540404]

/-- The partitions into three subsets. -/
def thirds : List Nat :=
  [0xAA685050, 0x6A5A5040, 0x5A5A4200, 0x5450A0A8, 0xA5A50000, 0xA0A05050, 0x5555A0A0, 0x5A5A5050]
    ++ [0xAA550000, 0xAA555500, 0xAAAA5500, 0x90909090, 0x94949494, 0xA4A4A4A4, 0xA9A59450, 0x2A0A4250]
    ++ [0xA5945040, 0x0A425054, 0xA5A5A500, 0x55A0A0A0, 0xA8A85454, 0x6A6A4040, 0xA4A45000, 0x1A1A0500]
    ++ [0x0050A4A4, 0xAAA59090, 0x14696914, 0x69691400, 0xA08585A0, 0xAA821414, 0x50A4A450, 0x6A5A0200]
    ++ [0xA9A58000, 0x5090A0A8, 0xA8A09050, 0x24242424, 0x00AA5500, 0x24924924, 0x24499224, 0x50A50A50]
    ++ [0x500AA550, 0xAAAA4444, 0x66660000, 0xA5A0A5A0, 0x50A050A0, 0x69286928, 0x44AAAA44, 0x66666600]
    ++ [0xAA444444, 0x54A854A8, 0x95809580, 0x96969600, 0xA85454A8, 0x80959580, 0xAA141414, 0x96960000]
    ++ [0xAAAA1414, 0xA05050A0, 0xA0A5A5A0, 0x96000000, 0x40804080, 0xA9A8A9A8, 0xAAAAAA44, 0x2A4A5254]

/-- The texel of the second subset whose index has one bit less, for two subsets and for three; and that of the third. -/
def anchorOfTwo : List Nat :=
  [15, 15, 15, 15, 15, 15, 15, 15, 15, 15, 15, 15, 15, 15, 15, 15]
    ++ [15, 2, 8, 2, 2, 8, 8, 15, 2, 8, 2, 2, 8, 8, 2, 2]
    ++ [15, 15, 6, 8, 2, 8, 15, 15, 2, 8, 2, 2, 2, 15, 15, 6]
    ++ [6, 2, 6, 8, 15, 15, 2, 2, 15, 15, 15, 15, 15, 2, 2, 15]
/-- See `anchorOfTwo`. -/
def anchorOfThree : List Nat :=
  [3, 3, 15, 15, 8, 3, 15, 15, 8, 8, 6, 6, 6, 5, 3, 3]
    ++ [3, 3, 8, 15, 3, 3, 6, 10, 5, 8, 8, 6, 8, 5, 15, 15]
    ++ [8, 15, 3, 5, 6, 10, 8, 15, 15, 3, 15, 5, 15, 15, 15, 15]
    ++ [3, 15, 5, 5, 5, 8, 5, 10, 5, 10, 8, 13, 15, 12, 3, 3]
/-- See `anchorOfTwo`. -/
def lastAnchorOfThree : List Nat :=
  [15, 8, 8, 3, 15, 15, 3, 8, 15, 15, 15, 15, 15, 15, 15, 8]
    ++ [15, 8, 15, 3, 15, 8, 15, 8, 3, 15, 6, 10, 15, 15, 10, 8]
    ++ [15, 3, 15, 10, 10, 8, 9, 10, 6, 15, 8, 15, 3, 6, 6, 8]
    ++ [15, 3, 15, 15, 15, 15, 15, 15, 15, 15, 15, 15, 3, 15, 15, 8]

/-- The subset of texel t in a partition. -/
def subsetOf (ns part t : Nat) : Nat :=
  match ns with
  | 2 => takeBits (halves.getD part 0) (2 * t) 2
  | 3 => takeBits (thirds.getD part 0) (2 * t) 2
  | _ => 0

/-- The anchor texels of a partition. -/
def anchorsOf (ns part : Nat) : List Nat :=
  match ns with
  | 2 => [0, anchorOfTwo.getD part 0]
  | 3 => [0, anchorOfThree.getD part 0, lastAnchorOfThree.getD part 0]
  | _ => [0]

/-- The index of texel t among indices of `n` bits that begin at a bit of a block. -/
def indexOfTexel (blk lo n : Nat) (anchors : List Nat) (t : Nat) : Nat :=
  takeBits blk (lo + t * n - (anchors.filter (fun a => a < t)).length) (if anchors.contains t then n - 1 else n)

/-- The weight out of 64 that an index of `n` bits names. -/
def indexWeight (n ix : Nat) : Nat :=
  match n with
  | 2 => [0, 21, 43, 64].getD ix 0
  | 3 => [0, 9, 18, 27, 37, 46, 55, 64].getD ix 0
  | _ => [0, 4, 9, 13, 17, 21, 26, 30, 34, 38, 43, 47, 51, 55, 60, 64].getD ix 0

/-- The weighted mean of two endpoints. -/
def blend (w x y : Nat) : Nat := ((64 - w) * x + w * y + 32) / 64

/-! ## BC6H, unsigned -/

/-- A mode: the bits that name it, the width of the first endpoint and of the others by channel, whether it has two subsets, and
its fields in order: endpoint and channel as 3 * endpoint + channel, lowest bit, count. -/
structure Bc6Mode where
  header : Nat
  width : Nat
  delta : List Nat
  two : Bool
  fields : List (Nat × Nat × Nat)

/-- The modes, by the value that names them. -/
def bc6Modes : List (Nat × Bc6Mode) :=
  [(0, { header := 2, width := 10, delta := [5, 5, 5], two := true, fields :=
      [(7, 4, 1), (8, 4, 1), (11, 4, 1), (0, 0, 10), (1, 0, 10), (2, 0, 10), (3, 0, 5), (10, 4, 1), (7, 0, 4), (4, 0, 5),
       (11, 0, 1), (10, 0, 4), (5, 0, 5), (11, 1, 1), (8, 0, 4), (6, 0, 5), (11, 2, 1), (9, 0, 5), (11, 3, 1)] }),
 (1, { header := 2, width := 7, delta := [6, 6, 6], two := true, fields :=
      [(7, 5, 1), (10, 4, 1), (10, 5, 1), (0, 0, 7), (11, 0, 1), (11, 1, 1), (8, 4, 1), (1, 0, 7), (8, 5, 1), (11, 2, 1),
       (7, 4, 1), (2, 0, 7), (11, 3, 1), (11, 5, 1), (11, 4, 1), (3, 0, 6), (7, 0, 4), (4, 0, 6), (10, 0, 4), (5, 0, 6),
       (8, 0, 4), (6, 0, 6), (9, 0, 6)] }),
 (2, { header := 5, width := 11, delta := [5, 4, 4], two := true, fields :=
      [(0, 0, 10), (1, 0, 10), (2, 0, 10), (3, 0, 5), (0, 10, 1), (7, 0, 4), (4, 0, 4), (1, 10, 1), (11, 0, 1),
       (10, 0, 4), (5, 0, 4), (2, 10, 1), (11, 1, 1), (8, 0, 4), (6, 0, 5), (11, 2, 1), (9, 0, 5), (11, 3, 1)] }),
 (6, { header := 5, width := 11, delta := [4, 5, 4], two := true, fields :=
      [(0, 0, 10), (1, 0, 10), (2, 0, 10), (3, 0, 4), (0, 10, 1), (10, 4, 1), (7, 0, 4), (4, 0, 5), (1, 10, 1),
       (10, 0, 4), (5, 0, 4), (2, 10, 1), (11, 1, 1), (8, 0, 4), (6, 0, 4), (11, 0, 1), (11, 2, 1), (9, 0, 4), (7, 4, 1),
       (11, 3, 1)] }),
 (10, { header := 5, width := 11, delta := [4, 4, 5], two := true, fields :=
      [(0, 0, 10), (1, 0, 10), (2, 0, 10), (3, 0, 4), (0, 10, 1), (8, 4, 1), (7, 0, 4), (4, 0, 4), (1, 10, 1), (11, 0, 1),
       (10, 0, 4), (5, 0, 5), (2, 10, 1), (8, 0, 4), (6, 0, 4), (11, 1, 1), (11, 2, 1), (9, 0, 4), (11, 4, 1), (11, 3, 1)] })]
  ++ [(14, { header := 5, width := 9, delta := [5, 5, 5], two := true, fields :=
      [(0, 0, 9), (8, 4, 1), (1, 0, 9), (7, 4, 1), (2, 0, 9), (11, 4, 1), (3, 0, 5), (10, 4, 1), (7, 0, 4), (4, 0, 5),
       (11, 0, 1), (10, 0, 4), (5, 0, 5), (11, 1, 1), (8, 0, 4), (6, 0, 5), (11, 2, 1), (9, 0, 5), (11, 3, 1)] }),
 (18, { header := 5, width := 8, delta := [6, 5, 5], two := true, fields :=
      [(0, 0, 8), (10, 4, 1), (8, 4, 1), (1, 0, 8), (11, 2, 1), (7, 4, 1), (2, 0, 8), (11, 3, 1), (11, 4, 1), (3, 0, 6),
       (7, 0, 4), (4, 0, 5), (11, 0, 1), (10, 0, 4), (5, 0, 5), (11, 1, 1), (8, 0, 4), (6, 0, 6), (9, 0, 6)] }),
 (22, { header := 5, width := 8, delta := [5, 6, 5], two := true, fields :=
      [(0, 0, 8), (11, 0, 1), (8, 4, 1), (1, 0, 8), (7, 5, 1), (7, 4, 1), (2, 0, 8), (10, 5, 1), (11, 4, 1), (3, 0, 5),
       (10, 4, 1), (7, 0, 4), (4, 0, 6), (10, 0, 4), (5, 0, 5), (11, 1, 1), (8, 0, 4), (6, 0, 5), (11, 2, 1), (9, 0, 5),
       (11, 3, 1)] }),
 (26, { header := 5, width := 8, delta := [5, 5, 6], two := true, fields :=
      [(0, 0, 8), (11, 1, 1), (8, 4, 1), (1, 0, 8), (8, 5, 1), (7, 4, 1), (2, 0, 8), (11, 5, 1), (11, 4, 1), (3, 0, 5),
       (10, 4, 1), (7, 0, 4), (4, 0, 5), (11, 0, 1), (10, 0, 4), (5, 0, 6), (8, 0, 4), (6, 0, 5), (11, 2, 1), (9, 0, 5),
       (11, 3, 1)] }),
 (30, { header := 5, width := 6, delta := [6, 6, 6], two := true, fields :=
      [(0, 0, 6), (10, 4, 1), (11, 0, 1), (11, 1, 1), (8, 4, 1), (1, 0, 6), (7, 5, 1), (8, 5, 1), (11, 2, 1), (7, 4, 1),
       (2, 0, 6), (10, 5, 1), (11, 3, 1), (11, 5, 1), (11, 4, 1), (3, 0, 6), (7, 0, 4), (4, 0, 6), (10, 0, 4), (5, 0, 6),
       (8, 0, 4), (6, 0, 6), (9, 0, 6)] })]
  ++ [(3, { header := 5, width := 10, delta := [10, 10, 10], two := false, fields :=
      [(0, 0, 10), (1, 0, 10), (2, 0, 10), (3, 0, 10), (4, 0, 10), (5, 0, 10)] }),
 (7, { header := 5, width := 11, delta := [9, 9, 9], two := false, fields :=
      [(0, 0, 10), (1, 0, 10), (2, 0, 10), (3, 0, 9), (0, 10, 1), (4, 0, 9), (1, 10, 1), (5, 0, 9), (2, 10, 1)] }),
 (11, { header := 5, width := 12, delta := [8, 8, 8], two := false, fields :=
      [(0, 0, 10), (1, 0, 10), (2, 0, 10), (3, 0, 8), (0, 11, 1), (0, 10, 1), (4, 0, 8), (1, 11, 1), (1, 10, 1),
       (5, 0, 8), (2, 11, 1), (2, 10, 1)] }),
 (15, { header := 5, width := 16, delta := [4, 4, 4], two := false, fields :=
      [(0, 0, 10), (1, 0, 10), (2, 0, 10), (3, 0, 4), (0, 15, 1), (0, 14, 1), (0, 13, 1), (0, 12, 1), (0, 11, 1),
       (0, 10, 1), (4, 0, 4), (1, 15, 1), (1, 14, 1), (1, 13, 1), (1, 12, 1), (1, 11, 1), (1, 10, 1), (5, 0, 4),
       (2, 15, 1), (2, 14, 1), (2, 13, 1), (2, 12, 1), (2, 11, 1), (2, 10, 1)] })]

/-- The bits of one endpoint's channel. -/
def bc6Raw (blk k : Nat) : Nat → List (Nat × Nat × Nat) → Nat
  | _, [] => 0
  | pos, (c, lo, n) :: fs => (if c = k then takeBits blk pos n * 2 ^ lo else 0) + bc6Raw blk k (pos + n) fs

/-- An endpoint's channel: as it stands, or as a signed difference from the first endpoint's. -/
def bc6Endpoint (code : Nat) (m : Bc6Mode) (blk e c : Nat) : Nat :=
  let raw := fun (k : Nat) => bc6Raw blk k m.header m.fields
  let x := raw (3 * e + c)
  if e = 0 ∨ code = 0x1E ∨ code = 3 then x
  else
    let n := m.delta.getD c 0
    let d : Int := if 2 ^ (n - 1) ≤ x then (x : Int) - 2 ^ n else x
    ((raw c + d) % 2 ^ m.width).toNat

/-- An endpoint's channel on 16 bits. -/
def bc6Widen (w x : Nat) : Nat :=
  if 15 ≤ w ∨ x = 0 then x else if x = 2 ^ w - 1 then 65535 else (x * 65536 + 32768) / 2 ^ w

/-- R, G and B of texel t of a block, as binary16; a block of no mode is black. -/
def bc6Texel (blk t : Nat) : List Nat :=
  let code := if blk % 4 < 2 then blk % 4 else blk % 32
  match bc6Modes.find? (fun m => m.1 == code) with
  | none => [0, 0, 0]
  | some (_, m) =>
    let part := if m.two then takeBits blk 77 5 else 0
    let ns := if m.two then 2 else 1
    let sub := subsetOf ns part t
    let w := if m.two then indexWeight 3 (indexOfTexel blk 82 3 (anchorsOf 2 part) t)
      else indexWeight 4 (indexOfTexel blk 65 4 [0] t)
    (List.range 3).map (fun c =>
      let e := fun (j : Nat) => bc6Widen m.width (bc6Endpoint code m blk (2 * sub + j) c)
      blend w (e 0) (e 1) * 31 / 64)

/-! ## BC7 -/

/-- A mode: subsets; bits of the partition, the rotation and the index selection; bits of a colour and an alpha endpoint;
p-bits per endpoint and per subset; bits of an index and of a second index. -/
structure Bc7Mode where
  ns : Nat
  pb : Nat
  rb : Nat
  isb : Nat
  cb : Nat
  ab : Nat
  epb : Nat
  spb : Nat
  ib : Nat
  ib2 : Nat

/-- The eight modes. -/
def bc7Modes : List Bc7Mode :=
  [{ ns := 3, pb := 4, rb := 0, isb := 0, cb := 4, ab := 0, epb := 1, spb := 0, ib := 3, ib2 := 0 },
   { ns := 2, pb := 6, rb := 0, isb := 0, cb := 6, ab := 0, epb := 0, spb := 1, ib := 3, ib2 := 0 },
   { ns := 3, pb := 6, rb := 0, isb := 0, cb := 5, ab := 0, epb := 0, spb := 0, ib := 2, ib2 := 0 },
   { ns := 2, pb := 6, rb := 0, isb := 0, cb := 7, ab := 0, epb := 1, spb := 0, ib := 2, ib2 := 0 }]
  ++ [{ ns := 1, pb := 0, rb := 2, isb := 1, cb := 5, ab := 6, epb := 0, spb := 0, ib := 2, ib2 := 3 },
   { ns := 1, pb := 0, rb := 2, isb := 0, cb := 7, ab := 8, epb := 0, spb := 0, ib := 2, ib2 := 2 },
   { ns := 1, pb := 0, rb := 0, isb := 0, cb := 7, ab := 7, epb := 1, spb := 0, ib := 4, ib2 := 0 },
   { ns := 2, pb := 6, rb := 0, isb := 0, cb := 5, ab := 5, epb := 1, spb := 0, ib := 2, ib2 := 0 }]

/-- A value of n bits on eight. -/
def spread8 (n x : Nat) : Nat := let y := x * 2 ^ (8 - n); y + y / 2 ^ n

/-- Channel c of endpoint e of a block whose endpoints begin at a bit. -/
def Bc7Mode.endpoint (m : Bc7Mode) (blk lo e c : Nat) : Nat :=
  let n := 2 * m.ns
  let alpha := lo + 3 * n * m.cb
  let ps := alpha + n * m.ab
  let raw := if c < 3 then takeBits blk (lo + (c * n + e) * m.cb) m.cb else takeBits blk (alpha + e * m.ab) m.ab
  let bits := if c < 3 then m.cb else m.ab
  if bits = 0 then 255
  else if m.epb = 1 then spread8 (bits + 1) (2 * raw + takeBits blk (ps + e) 1)
  else if m.spb = 1 then spread8 (bits + 1) (2 * raw + takeBits blk (ps + e / 2) 1)
  else spread8 bits raw

/-- R, G, B and A of texel t of a block on eight bits; a block whose mode field is all zeros is transparent black (R297). -/
def bc7Texel (blk t : Nat) : List Nat :=
  match (List.range 8).find? (fun k => takeBits blk k 1 == 1) with
  | none => [0, 0, 0, 0]
  | some k =>
    match bc7Modes[k]? with
    | none => [0, 0, 0, 0]
    | some m =>
      let part := takeBits blk (k + 1) m.pb
      let rot := takeBits blk (k + 1 + m.pb) m.rb
      let sel := takeBits blk (k + 1 + m.pb + m.rb) m.isb
      let lo := k + 1 + m.pb + m.rb + m.isb
      let ixs := lo + 2 * m.ns * (3 * m.cb + m.ab + m.epb) + m.ns * m.spb
      let anchors := anchorsOf m.ns part
      let w1 := indexWeight m.ib (indexOfTexel blk ixs m.ib anchors t)
      let w2 := if m.ib2 = 0 then w1
        else indexWeight m.ib2 (indexOfTexel blk (ixs + 16 * m.ib - anchors.length) m.ib2 [0] t)
      let sub := subsetOf m.ns part t
      let ch := fun (c : Nat) =>
        let w := if (decide (c < 3)) == (sel == 0) then w1 else w2
        blend w (m.endpoint blk lo (2 * sub) c) (m.endpoint blk lo (2 * sub + 1) c)
      (List.range 4).map (fun c => if rot = 0 then ch c else if c = 3 then ch (rot - 1) else if c + 1 = rot then ch 3 else ch c)

/-! ## ASTC: integer sequences -/

/-- A range of integers: a trit (1), a quint (2) or neither (0) over a number of bits. -/
abbrev IseRange := Nat × Nat

/-- Bits that `n` integers take. -/
def iseLength (r : IseRange) (n : Nat) : Nat :=
  n * r.2 + (match r.1 with | 1 => (8 * n + 4) / 5 | 2 => (7 * n + 2) / 3 | _ => 0)

/-- The five trits of a block of eight bits. -/
def tritsOf (b : Nat) : List Nat :=
  let c := if takeBits b 2 3 = 7 then takeBits b 5 3 * 4 + takeBits b 0 2 else takeBits b 0 5
  let high := if takeBits b 2 3 = 7 then [2, 2]
    else if takeBits b 5 2 = 3 then [takeBits b 7 1, 2] else [takeBits b 5 2, takeBits b 7 1]
  let mixed := fun (hi lo : Nat) => 2 * hi + lo * (1 - hi)
  (if takeBits c 0 2 = 3 then [mixed (takeBits c 3 1) (takeBits c 2 1), takeBits c 4 1, 2]
    else if takeBits c 2 2 = 3 then [takeBits c 0 2, 2, 2]
    else [mixed (takeBits c 1 1) (takeBits c 0 1), takeBits c 2 2, takeBits c 4 1]) ++ high

/-- The three quints of a block of seven bits. -/
def quintsOf (b : Nat) : List Nat :=
  let b0 := takeBits b 0 1
  if takeBits b 1 2 = 3 ∧ takeBits b 5 2 = 0 then
    [4, 4, 4 * b0 + (1 - b0) * takeBits b 3 2]
  else
    let c := if takeBits b 1 2 = 3 then takeBits b 3 2 * 8 + (3 - takeBits b 5 2) * 2 + b0 else takeBits b 0 5
    let q2 := if takeBits b 1 2 = 3 then 4 else takeBits b 5 2
    if takeBits c 0 3 = 5 then [takeBits c 3 2, 4, q2] else [takeBits c 0 3, takeBits c 3 2, q2]

/-- Integer i of a sequence that begins at bit 0 of a number: its digit and its bits. -/
def iseAt (r : IseRange) (src i : Nat) : Nat × Nat :=
  let n := r.2
  match r.1 with
  | 1 =>
    let b := src / 2 ^ (i / 5 * (5 * n + 8))
    let pack := takeBits b n 2 + takeBits b (2 * n + 2) 2 * 4 + takeBits b (3 * n + 4) 1 * 16 + takeBits b (4 * n + 5) 2 * 32
      + takeBits b (5 * n + 7) 1 * 128
    let k := i % 5
    ((tritsOf pack).getD k 0, takeBits b (k * n + [0, 2, 4, 5, 7].getD k 0) n)
  | 2 =>
    let b := src / 2 ^ (i / 3 * (3 * n + 7))
    let pack := takeBits b n 3 + takeBits b (2 * n + 3) 2 * 8 + takeBits b (3 * n + 5) 2 * 32
    let k := i % 3
    ((quintsOf pack).getD k 0, takeBits b (k * n + [0, 3, 5].getD k 0) n)
  | _ => (0, takeBits src (i * n) n)

/-- A number of `n` bits repeated from the top of `m`. -/
def repeatBits (n m x : Nat) : Nat :=
  ((List.range m).map (fun j => takeBits x (n - 1 - j % n) 1 * 2 ^ (m - 1 - j))).sum

/-- Bits named from the most significant, each by its place in x or as 0. -/
def spell (x : Nat) (places : List (Option Nat)) : Nat :=
  places.foldl (fun v p => 2 * v + (match p with | some k => takeBits x k 1 | none => 0)) 0

/-- The step B + C * digit of a range for colours: which bits B repeats, and C. -/
def colourStep (r : IseRange) : List (Option Nat) × Nat :=
  let o : Option Nat := none
  match r with
  | (1, 1) => ([], 204)
  | (2, 1) => ([], 113)
  | (1, 2) => ([some 1, o, o, o, some 1, o, some 1, some 1, o], 93)
  | (2, 2) => ([some 1, o, o, o, o, some 1, some 1, o, o], 54)
  | (1, 3) => ([some 2, some 1, o, o, o, some 2, some 1, some 2, some 1], 44)
  | (2, 3) => ([some 2, some 1, o, o, o, o, some 2, some 1, some 2], 26)
  | (1, 4) => ([some 3, some 2, some 1, o, o, o, some 3, some 2, some 1], 22)
  | (2, 4) => ([some 3, some 2, some 1, o, o, o, o, some 3, some 2], 13)
  | (1, 5) => ([some 4, some 3, some 2, some 1, o, o, o, some 4, some 3], 11)
  | (2, 5) => ([some 4, some 3, some 2, some 1, o, o, o, o, some 4], 6)
  | _ => ([some 5, some 4, some 3, some 2, some 1, o, o, o, some 5], 5)

/-- A colour integer on eight bits. -/
def colourValue (r : IseRange) (v : Nat × Nat) : Nat :=
  if r.1 = 0 then repeatBits r.2 8 v.2
  else
    let s := colourStep r
    let flip := if v.2 % 2 = 1 then 511 else 0
    let t := (v.1 * s.2 + spell v.2 s.1) ^^^ flip
    (flip &&& 0x80) ||| (t / 4)

/-- The step of a range for weights. -/
def weightStep (r : IseRange) : List (Option Nat) × Nat :=
  let o : Option Nat := none
  match r with
  | (1, 1) => ([], 50)
  | (2, 1) => ([], 28)
  | (1, 2) => ([some 1, o, o, o, some 1, o, some 1], 23)
  | (2, 2) => ([some 1, o, o, o, o, some 1, o], 13)
  | _ => ([some 2, some 1, o, o, o, some 2, some 1], 11)

/-- A weight integer on 0 to 64. -/
def weightValue (r : IseRange) (v : Nat × Nat) : Nat :=
  let t :=
    if r.1 = 0 then repeatBits r.2 6 v.2
    else if r.2 = 0 then (if r.1 = 1 then [0, 32, 63] else [0, 16, 32, 47, 63]).getD v.1 0
    else
      let s := weightStep r
      let flip := if v.2 % 2 = 1 then 127 else 0
      let t := (v.1 * s.2 + spell v.2 s.1) ^^^ flip
      (flip &&& 0x20) ||| (t / 4)
  if 32 < t then t + 1 else t

/-! ## ASTC: the block -/

/-- What a block's mode says: the weight grid, two planes or one, and the range of its weights. -/
structure AstcMode where
  w : Nat
  h : Nat
  dual : Bool
  range : IseRange

/-- The range of weights by precision bit and range number. -/
def weightRange (high : Bool) (n : Nat) : Option IseRange :=
  if n < 2 then none
  else (if high then [(2, 1), (1, 2), (0, 4), (2, 2), (1, 3), (0, 5)]
    else [(0, 1), (1, 0), (0, 2), (2, 0), (1, 1), (0, 3)])[n - 2]?

/-- The block mode. -/
def astcMode (blk : Nat) : Option AstcMode :=
  let f := takeBits blk
  let a := f 5 2
  let low := f 0 2
  let grid : Option (Nat × Nat × Bool) :=
    if low ≠ 0 then
      match f 2 2 with
      | 0 => some (f 7 2 + 4, a + 2, true)
      | 1 => some (f 7 2 + 8, a + 2, true)
      | 2 => some (a + 2, f 7 2 + 8, true)
      | _ => some (if f 8 1 = 0 then (a + 2, f 7 1 + 6, true) else (f 7 1 + 2, a + 2, true))
    else
      match f 7 2 with
      | 0 => some (12, a + 2, true)
      | 1 => some (a + 2, 12, true)
      | 2 => some (a + 6, f 9 2 + 6, false)
      | _ => if a = 0 then some (6, 10, true) else if a = 1 then some (10, 6, true) else none
  let n := (if low ≠ 0 then low else f 2 2) * 2 + f 4 1
  match grid with
  | none => none
  | some (w, h, free) =>
    (weightRange (free && f 9 1 == 1) n).map (fun r => { w := w, h := h, dual := free && f 10 1 == 1, range := r })

/-- A scramble of 32 bits. -/
def astcScramble (p : Nat) : Nat :=
  let x : Word := BitVec.ofNat 32 p
  let x := x ^^^ (x >>> 15)
  let x := x - (x <<< 17)
  let x := x + (x <<< 7)
  let x := x + (x <<< 4)
  let x := x ^^^ (x >>> 5)
  let x := x + (x <<< 16)
  let x := x ^^^ (x >>> 7)
  let x := x ^^^ (x >>> 3)
  let x := x ^^^ (x <<< 6)
  (x ^^^ (x >>> 17)).toNat

/-- The partition that a texel at (x, y) lies in. -/
def astcPartition (seed x y n : Nat) (small : Bool) : Nat :=
  if n = 1 then 0
  else
    let x := if small then 2 * x else x
    let y := if small then 2 * y else y
    let seed := seed + 1024 * (n - 1)
    let r := astcScramble seed
    let even := if seed / 2 % 2 = 1 then 4 else 5
    let odd := if n = 3 then 6 else 5
    let sh1 := if seed % 2 = 1 then even else odd
    let sh2 := if seed % 2 = 1 then odd else even
    let s := fun (lo sh : Nat) => (r / 2 ^ lo % 16) ^ 2 / 2 ^ sh
    let side := fun (sx sy off : Nat) => (sx * x + sy * y + r / 2 ^ off) % 64
    let a := side (s 0 sh1) (s 4 sh2) 14
    let b := side (s 8 sh1) (s 12 sh2) 10
    let c := if n < 3 then 0 else side (s 16 sh1) (s 20 sh2) 6
    let d := if n < 4 then 0 else side (s 24 sh1) (s 28 sh2) 2
    if b ≤ a ∧ c ≤ a ∧ d ≤ a then 0 else if c ≤ b ∧ d ≤ b then 1 else if d ≤ c then 2 else 3

/-- A colour of four channels held to 0 to 255. -/
def clampColour (c : List Int) : List Nat := c.map (fun v => (max 0 (min 255 v)).toNat)

/-- A colour with its red and green drawn to its blue. -/
def blueContract (c : List Int) : List Int :=
  let b := c.getD 2 0
  [Int.fdiv (c.getD 0 0 + b) 2, Int.fdiv (c.getD 1 0 + b) 2, b, c.getD 3 0]

/-- An offset of six bits with its sign, and a base that takes the offset's top bit. -/
def offsetAndBase (off base : Nat) : Int × Int :=
  let o : Int := (off / 2 % 64 : Nat)
  (if 32 ≤ o then o - 64 else o, (base / 2 + off / 128 * 128 : Nat))

/-- The two endpoint colours of an endpoint mode of the LDR profile, from its integers; none for an HDR mode. -/
def astcEndpoints (mode : Nat) (v : List Nat) : Option (List Nat × List Nat) :=
  let g := fun (k : Nat) => v.getD k 0
  let i := fun (k : Nat) => ((g k : Nat) : Int)
  let scaled := fun (k : Nat) => ((g k * g 3 / 256 : Nat) : Int)
  let both := fun (e f : List Int) => some (clampColour e, clampColour f)
  let direct := fun (a0 a1 : Int) =>
    if g 0 + g 2 + g 4 ≤ g 1 + g 3 + g 5 then both [i 0, i 2, i 4, a0] [i 1, i 3, i 5, a1]
    else both (blueContract [i 1, i 3, i 5, a1]) (blueContract [i 0, i 2, i 4, a0])
  let pair := fun (k : Nat) => offsetAndBase (g (k + 1)) (g k)
  let offset := fun (a0 a1 : Int) =>
    let e := [(pair 0).2, (pair 2).2, (pair 4).2, a0]
    let f := [(pair 0).2 + (pair 0).1, (pair 2).2 + (pair 2).1, (pair 4).2 + (pair 4).1, a1]
    if 0 ≤ (pair 0).1 + (pair 2).1 + (pair 4).1 then both e f else both (blueContract f) (blueContract e)
  match mode with
  | 0 => both [i 0, i 0, i 0, 255] [i 1, i 1, i 1, 255]
  | 1 =>
    let l := g 0 / 4 + g 1 / 64 * 64
    let m := l + g 1 % 64
    both [l, l, l, 255] [m, m, m, 255]
  | 4 => both [i 0, i 0, i 0, i 2] [i 1, i 1, i 1, i 3]
  | 5 =>
    let l := pair 0
    let a := pair 2
    both [l.2, l.2, l.2, a.2] [l.2 + l.1, l.2 + l.1, l.2 + l.1, a.2 + a.1]
  | 6 => both [scaled 0, scaled 1, scaled 2, 255] [i 0, i 1, i 2, 255]
  | 8 => direct 255 255
  | 9 => offset 255 255
  | 10 => both [scaled 0, scaled 1, scaled 2, i 4] [i 0, i 1, i 2, i 5]
  | 12 => direct (i 6) (i 7)
  | 13 => offset (pair 6).2 ((pair 6).2 + (pair 6).1)
  | _ => none

/-- Integers that an endpoint mode takes. -/
def modeCount (mode : Nat) : Nat := 2 * (mode / 4) + 2

/-- The endpoint modes of the partitions, with the bits below the weights that they take and the bit after the block's
header. -/
def astcModes (blk n weightBits : Nat) : List Nat × Nat × Nat :=
  if n = 1 then ([takeBits blk 13 4], 0, 17)
  else if takeBits blk 23 2 = 0 then (List.replicate n (takeBits blk 25 4), 0, 29)
  else
    let extra := 3 * n - 4
    let x := takeBits blk 23 6 + takeBits blk (128 - weightBits - extra) extra * 64
    ((List.range n).map (fun j => (takeBits x 0 2 - 1 + takeBits x (2 + j) 1) * 4 + takeBits x (2 + n + 2 * j) 2), extra, 29)

/-- The ranges that colours may have, the smallest first. -/
def colourRanges : List IseRange :=
  [(1, 1), (0, 3), (2, 1), (1, 2), (0, 4), (2, 2), (1, 3), (0, 5), (2, 3), (1, 4), (0, 6), (2, 4), (1, 5), (0, 7), (2, 5),
   (1, 6), (0, 8)]

/-- The weight of a texel at (x, y), from a grid's weights. -/
def gridWeight (w h bw bh x y : Nat) (at' : Nat → Nat) : Nat :=
  let place := fun (size n p : Nat) => ((1024 + size / 2) / (size - 1) * p * (n - 1) + 32) / 64
  let gs := place bw w x
  let gt := place bh h y
  let fs := gs % 16
  let ft := gt % 16
  let w11 := (fs * ft + 8) / 16
  let v0 := gs / 16 + gt / 16 * w
  (at' v0 * (16 + w11 - fs - ft) + at' (v0 + 1) * (fs - w11) + at' (v0 + w) * (ft - w11) + at' (v0 + w + 1) * w11 + 8) / 16

/-- A block backwards: the weights begin at its last bit. -/
def backwards (blk : Nat) : Nat := ((List.range 128).map (fun j => takeBits blk (127 - j) 1 * 2 ^ j)).sum

/-- A block of one colour: its four channels of 16 bits, where it is well-formed and not HDR. -/
def astcConstant (blk : Nat) : Option (List Nat) :=
  let f := fun (k : Nat) => takeBits blk (12 + 13 * k) 13
  let whole := (List.range 4).all (fun k => f k == 8191)
  if takeBits blk 9 1 = 1 ∨ takeBits blk 10 2 ≠ 3 then none
  else if whole ∨ (f 0 < f 1 ∧ f 2 < f 3) then some ((List.range 4).map (fun k => takeBits blk (64 + 16 * k) 16))
  else none

/-- R, G, B and A, each of 16 bits, of the texel at (x, y) of a block of bw by bh texels; none where the block decodes as the
error colour. -/
def astcTexel (srgb : Bool) (bw bh blk x y : Nat) : Option (List Nat) :=
  if takeBits blk 0 9 = 0x1FC then astcConstant blk
  else match astcMode blk with
    | none => none
    | some m =>
      let n := takeBits blk 11 2 + 1
      let count := m.w * m.h * (if m.dual then 2 else 1)
      let bits := iseLength m.range count
      let (modes, extra, start) := astcModes blk n bits
      let below := 128 - bits - extra - (if m.dual then 2 else 0)
      let ints := (modes.map modeCount).sum
      let fits := (colourRanges.filter (fun r => decide (iseLength r ints ≤ below - start))).getLast?
      if bw < m.w ∨ bh < m.h ∨ 64 < count ∨ bits < 24 ∨ 96 < bits ∨ (m.dual = true ∧ n = 4) ∨ 18 < ints then none
      else match fits with
        | none => none
        | some r =>
          let part := astcPartition (takeBits blk 13 10) x y n (decide (bw * bh < 31))
          let src := takeBits blk start (iseLength r ints)
          let first := ((modes.take part).map modeCount).sum
          let values := (List.range 8).map (fun k => colourValue r (iseAt r src (first + k)))
          let all := modes.all (fun e => (astcEndpoints e values).isSome)
          match (if all then astcEndpoints (modes.getD part 2) values else none) with
          | none => none
          | some (e, f) =>
            let ws := takeBits (backwards blk) 0 bits
            let plane := fun (p : Nat) => gridWeight m.w m.h bw bh x y (fun k =>
              weightValue m.range (iseAt m.range ws (if m.dual then 2 * k + p else k)))
            let second := takeBits blk below 2
            some ((List.range 4).map (fun c =>
              let widen := fun (v : Nat) => v * 256 + (if srgb && decide (c < 3) then 0x80 else v)
              blend (if m.dual && c == second then plane 1 else plane 0) (widen (e.getD c 0)) (widen (f.getD c 0))))

end Sys2Proof.Machine
end

