-- ==== Sys2Proof/Machine/Sampler.lean ====
section
/-!
DEFINITION. Major 0x48: texture requests (R296 to R302), and the event TEXTURE_RESULT. The checks are made, and the texels
read, when the instruction completes; the results wait in the reserved queue slots until they return.
-/

namespace Sys2Proof.Machine

open Sys2Proof

/-! ## Formats (R297) -/

/-- Block width, block height and bytes per block of a format code. -/
def texBlock (fmt : Nat) : Option (Nat × Nat × Nat) :=
  match fmt with
  | 0x01 => some (1, 1, 1) | 0x02 => some (1, 1, 2) | 0x03 => some (1, 1, 4) | 0x04 => some (1, 1, 4)
  | 0x05 => some (1, 1, 2) | 0x06 => some (1, 1, 8) | 0x07 => some (1, 1, 4) | 0x08 => some (1, 1, 16)
  | 0x10 => some (4, 4, 8) | 0x11 => some (4, 4, 16) | 0x12 => some (4, 4, 16) | 0x13 => some (4, 4, 8)
  | 0x14 => some (4, 4, 16) | 0x15 => some (4, 4, 16) | 0x16 => some (4, 4, 16)
  | 0x20 => some (4, 4, 16) | 0x21 => some (5, 4, 16) | 0x22 => some (5, 5, 16) | 0x23 => some (6, 5, 16)
  | 0x24 => some (6, 6, 16) | 0x25 => some (8, 5, 16) | 0x26 => some (8, 6, 16) | 0x27 => some (8, 8, 16)
  | 0x28 => some (10, 5, 16) | 0x29 => some (10, 6, 16) | 0x2A => some (10, 8, 16) | 0x2B => some (10, 10, 16)
  | 0x2C => some (12, 10, 16) | 0x2D => some (12, 12, 16)
  | _ => none

/-- May a format be sRGB (R296)? -/
def texMaySrgb (fmt : Nat) : Bool :=
  fmt == 0x03 || (decide (0x10 ≤ fmt) && decide (fmt ≤ 0x12)) || fmt == 0x16
    || (decide (0x20 ≤ fmt) && decide (fmt ≤ 0x2D))

/-- A quotient as binary32, rounded by RN. -/
def ratioBits (v : Int) (d : Nat) : Nat :=
  if v = 0 then 0 else (roundReal .f32 plainRN (decide (v < 0)) (.ratio v.natAbs d)).1

/-- 1.0 in binary32. -/
def oneF32 : Nat := 0x3F800000

/-- Bits of another format converted to binary32. -/
def toF32 (f : Fmt) (x : Nat) : Nat := (roundNum .f32 plainRN (f.read false x)).1

/-- The integer fifth root, by bits from the top. -/
def fifthRoot : Nat → Nat → Nat → Nat
  | 0, _, r => r
  | k + 1, n, r =>
    let t := r + 2 ^ k
    fifthRoot k n (if t ^ 5 ≤ n then t else r)

/-- (p/q)^(12/5) for p/q in (0, 1], rounded by RN to binary32 (R297). -/
def powTwelveFifths (p q : Nat) : Nat :=
  let n := p ^ 12
  let d := q ^ 12
  let e := Int.fdiv (ratioLog n d) 5
  let r := scaleRatio n d (5 * (e - 23))
  let t := fifthRoot 24 (r.1 / r.2) 0
  let h := (2 * t + 1) ^ 5 * r.2
  let up := decide (h < 32 * r.1) || (h == 32 * r.1 && t % 2 == 1)
  (e + 126).toNat * 2 ^ 23 + (if up then t + 1 else t)

/-- The IEC 61966-2-1 decoding of a channel value v/d in [0, 1], rounded by RN (R297). -/
def srgbDecode (v d : Nat) : Nat :=
  if 100000 * v ≤ 4045 * d then ratioBits (100 * v) (1292 * d)
  else powTwelveFifths (1000 * v + 55 * d) (1055 * d)

/-- A binary32 value in [0, 1], decoded as an sRGB channel. -/
def srgbOfBits (x : Nat) : Nat :=
  match Fmt.f32.read false x with
  | .fin _ m e => if 0 ≤ e then srgbDecode (m * 2 ^ e.toNat) 1 else srgbDecode m (2 ^ (-e).toNat)
  | _ => x

/-- A UNORM channel of n bits, or its sRGB decoding. -/
def unormBits (srgb : Bool) (n k : Nat) : Nat := if srgb then srgbDecode k (2 ^ n - 1) else ratioBits k (2 ^ n - 1)

/-- R, G, B of a 5:6:5 colour as quotients. -/
def rgb565 (c : Nat) : List (Nat × Nat) := [(c / 2048, 31), (c / 32 % 64, 63), (c % 32, 31)]

/-- A channel of the weighted mean (a x + b y) / (a + b) of two endpoints of one denominator, rounded (R297). -/
def mix (srgb : Bool) (a b : Nat) (x y : Nat × Nat) : Nat :=
  let r := ratioBits (a * x.1 + b * y.1) ((a + b) * x.2)
  if srgb then srgbOfBits r else r

/-- Colour of texel t of a BC1 colour block: `four` has four colours always (BC2, BC3). The layout is that of the Khronos
Data Format Specification (PRESUMED, assumption log 8). -/
def bcColour (srgb four : Bool) (blk t : Nat) : List Nat :=
  let c0 := bitsOf blk 15 0
  let c1 := bitsOf blk 31 16
  let ix := blk / 2 ^ (32 + 2 * t) % 4
  let pair := (rgb565 c0).zip (rgb565 c1)
  let by' := fun (a b : Nat) => pair.map (fun p => mix srgb a b p.1 p.2) ++ [oneF32]
  match ix with
  | 0 => by' 1 0
  | 1 => by' 0 1
  | 2 => if four || decide (c1 < c0) then by' 2 1 else by' 1 1
  | _ => if four || decide (c1 < c0) then by' 1 2 else [0, 0, 0, 0]

/-- Texel t of a BC4 channel block (PRESUMED, assumption log 8). -/
def bcChannel (blk t : Nat) : Nat :=
  let r0 := bitsOf blk 7 0
  let r1 := bitsOf blk 15 8
  let ix := blk / 2 ^ (16 + 3 * t) % 8
  if ix = 0 then ratioBits r0 255
  else if ix = 1 then ratioBits r1 255
  else if r1 < r0 then ratioBits ((8 - ix) * r0 + (ix - 1) * r1 : Nat) (7 * 255)
  else if ix = 6 then 0
  else if ix = 7 then oneF32
  else ratioBits ((6 - ix) * r0 + (ix - 1) * r1 : Nat) (5 * 255)

/-- R, G, B and A of texel t of an ASTC block of bw by bh texels, as binary32: 16-bit values over 2^16, cut to eleven bits,
and 1.0 for the greatest; sRGB colours by their upper byte; or the error colour (R297; PRESUMED, assumption log 8). -/
def astcBits (srgb : Bool) (bw bh blk t : Nat) : List Nat :=
  match astcTexel srgb bw bh blk (t % bw) (t / bw) with
  | none => [oneF32, 0, oneF32, oneF32]
  | some cs =>
    (List.range 4).map (fun c =>
      let v := cs.getD c 0
      let cut := v.log2 - 10
      if srgb && decide (c < 3) then srgbDecode (v / 256) 255
      else if v = 65535 then oneF32
      else ratioBits (v / 2 ^ cut * 2 ^ cut : Nat) 65536)

/-- R, G, B and A of texel t of a block, as binary32 (R297). -/
def texelBits (fmt : Nat) (srgb : Bool) (blk t : Nat) : List Nat :=
  let byte := fun (k : Nat) => blk / 2 ^ (8 * k) % 256
  let half := fun (k : Nat) => toF32 .f16 (blk / 2 ^ (16 * k) % 65536)
  let word := fun (k : Nat) => blk / 2 ^ (32 * k) % 2 ^ 32
  let snorm := fun (k : Nat) => ratioBits (BitVec.ofNat 8 (byte k)).toInt 127
  let low := blk % 2 ^ 64
  let high := blk / 2 ^ 64
  match fmt with
  | 0x01 => [unormBits false 8 (byte 0), 0, 0, oneF32]
  | 0x02 => [unormBits false 8 (byte 0), unormBits false 8 (byte 1), 0, oneF32]
  | 0x03 => [unormBits srgb 8 (byte 0), unormBits srgb 8 (byte 1), unormBits srgb 8 (byte 2), unormBits false 8 (byte 3)]
  | 0x04 => [snorm 0, snorm 1, snorm 2, snorm 3]
  | 0x05 => [half 0, 0, 0, oneF32]
  | 0x06 => [half 0, half 1, half 2, half 3]
  | 0x07 => [word 0, 0, 0, oneF32]
  | 0x08 => [word 0, word 1, word 2, word 3]
  | 0x10 => bcColour srgb false low t
  | 0x11 => (bcColour srgb true high t).take 3 ++ [ratioBits (low / 2 ^ (4 * t) % 16 : Nat) 15]
  | 0x12 => (bcColour srgb true high t).take 3 ++ [bcChannel low t]
  | 0x13 => [bcChannel low t, 0, 0, oneF32]
  | 0x14 => [bcChannel low t, bcChannel high t, 0, oneF32]
  | 0x15 => (bc6Texel blk t).map (toF32 .f16) ++ [oneF32]
  | 0x16 => (List.range 4).map (fun c => unormBits (srgb && decide (c < 3)) 8 ((bc7Texel blk t).getD c 0))
  | _ => match texBlock fmt with
    | some (bw, bh, _) => astcBits srgb bw bh blk t
    | none => [0, 0, 0, 0]

/-! ## Descriptors (R296, R298) -/

/-- A field of a descriptor. -/
def texField (e : BitVec 512) (hi lo : Nat) : Nat := (e.extractLsb' lo (hi + 1 - lo)).toNat

/-- Format code. -/
def texFmt (e : BitVec 512) : Nat := texField e 123 116
/-- SRGB. -/
def texSrgb (e : BitVec 512) : Bool := e.getLsbD 124
/-- Levels − 1. -/
def texLevels (e : BitVec 512) : Nat := texField e 115 112
/-- BIAS. -/
def texBias (e : BitVec 512) : Num := Fmt.f32.read false (texField e 191 160)

/-- Is it finite? -/
def Num.isFin : Num → Bool
  | .fin _ _ _ => true
  | _ => false

/-- Is a descriptor valid (R296, R297)? -/
def texValid (e : BitVec 512) : Bool :=
  texField e 511 384 == 0 && texField e 255 192 == 0 && texField e 159 133 == 0 && texField e 72 60 == 0
    && (texBias e).isFin && (texBlock (texFmt e)).isSome && (!texSrgb e || texMaySrgb (texFmt e))
    && texField e 7 0 == 0 && decide (texLevels e ≤ 14)

/-- Width of a level. -/
def texW (e : BitVec 512) (j : Nat) : Nat := max 1 ((texField e 86 73 + 1) / 2 ^ j)
/-- Height of a level. -/
def texH (e : BitVec 512) (j : Nat) : Nat := max 1 ((texField e 100 87 + 1) / 2 ^ j)

/-- Quotient rounded up. -/
def ceilDiv (a b : Nat) : Nat := (a + b - 1) / b

/-- Bytes of one layer of a level. -/
def texLayerBytes (e : BitVec 512) (j : Nat) : Nat :=
  match texBlock (texFmt e) with
  | some (bx, by', bb) => ceilDiv (ceilDiv (texW e j) bx * ceilDiv (texH e j) by' * bb) 256 * 256
  | none => 0

/-- Where layer l of level j begins. -/
def texLayerAt (e : BitVec 512) (j l : Nat) : Nat :=
  texField e 59 0 + ((List.range j).foldl (fun n i => n + texLayerBytes e i) 0) * (texField e 111 101 + 1)
    + texLayerBytes e j * l

/-- The address of the block that holds a texel, and the texel's number in the block. -/
def texelAt (e : BitVec 512) (j l x y : Nat) : Nat × Nat :=
  match texBlock (texFmt e) with
  | some (bx, by', bb) =>
    (texLayerAt e j l + (y / by' * ceilDiv (texW e j) bx + x / bx) * bb, y % by' * bx + x % bx)
  | none => (0, 0)

/-! ## Level of detail (R300) -/

/-- The difference of two numbers, exactly. -/
def subNum (x y : Num) : Num := (addNum false x y.flip).1

/-- A finite number times 2^k, rounded by RN to an integer; 0 for any other. -/
def roundScaled (k : Int) : Num → Int
  | .fin n m e =>
    let r := roundUnits 0 n ((Exact.dyadic m e).units (-k))
    if n then -(r : Int) else r
  | _ => 0

/-- The floor of a finite number; 0 for any other. -/
def floorNum : Num → Int
  | .fin n m e =>
    if 0 ≤ e then signedAt n m e 0 else Int.fdiv (if n then -(m : Int) else m) (2 ^ (-e).toNat)
  | _ => 0

/-- The square of ρ from W, H and the four derivatives; none when it is 0 or not finite. -/
def rhoSquared (w h : Nat) (d : List Num) : Option (Nat × Int) :=
  match d with
  | [ux, vx, uy, vy] =>
    let term := fun (n : Nat) (x : Num) => let p := (mulNum (.fin false n 0) x).1; (mulNum p p).1
    let r1 := (addNum false (term w ux) (term h vx)).1
    let r2 := (addNum false (term w uy) (term h vy)).1
    match r1, r2 with
    | .fin _ _ _, .fin _ _ _ =>
      (match if cmpNum r1 r2 < 0 then r2 else r1 with
       | .fin _ m e => if m = 0 then none else some (m, e)
       | _ => none)
    | _, _ => none
  | _ => none

/-- Is 128 log2 (m × 2^e) + c above h + 1/2, exactly: is (m × 2^e)^(256 d) above 2^(d (2h + 1) - 2 d c) for the least power of
two d that makes the exponent an integer? -/
def logAbove (m : Nat) (e c : Int) (q : Nat) (h : Int) : Bool :=
  let d : Int := 2 ^ q
  let t := d * (2 * h + 1) - 2 * c - 256 * d * e
  decide (2 ^ t.toNat < m ^ (256 * 2 ^ q))

/-- 256 λ before clamping, from ρ² = m × 2^e and the exact bias, rounded by RN (R300): at once where ρ² is a power of two; else
from the logarithm's enclosure, and by powers of ρ² where that holds a point halfway between two integers. It is irrational,
so that no tie arises. -/
def lambdaOf (m : Nat) (e : Int) (bias : Num) : Int :=
  let k := m.log2
  if m = 2 ^ k then
    roundScaled 8 (addNum false (.fin (decide ((k : Int) + e < 0)) ((k : Int) + e).natAbs (-1)) bias).1
  else
    let l := fxLog2 (m * 2 ^ fxBits / 2 ^ k)
    -- 256 log2 ρ = 128 log2 ρ², in units of 2^-fxBits
    let base : Int := 128 * (((k : Int) + e) * 2 ^ fxBits + l)
    let c := floorNum (match bias with | .fin n b g => .fin n b (g + 8 + fxBits) | y => y)
    let lo := base + c - 128 * (fxError : Int)
    let hi := base + c + 128 * (fxError : Int) + 1
    let rn := fun (v : Int) => Int.fdiv (v + 2 ^ (fxBits - 1)) (2 ^ fxBits)
    if rn lo = rn hi then rn lo
    else
      match bias with
      | .fin n b g =>
        let q := (-(g + 8)).toNat
        if logAbove m e (signedAt n b (g + 8) (-(q : Int))) q (rn lo) then rn hi else rn lo
      | _ => rn lo

/-- 256 λ, clamped to the levels. -/
def clampLambda (e : BitVec 512) (x : Int) : Nat := min x.toNat (256 * texLevels e)

/-! ## Filtering (R301) -/

/-- A texel that a request uses: its weight in units of 2^-24, and where it is; none for the border. -/
structure Tap where
  weight : Nat
  place : Option (Nat × Nat)
  deriving DecidableEq, Repr, Inhabited

/-- The texel index an address mode gives: 0 wrap, 1 mirror, 2 clamp, 3 border. -/
def texIndex (mode n : Nat) (i : Int) : Option Nat :=
  if 0 ≤ i ∧ i < n then some i.toNat
  else
    match mode with
    | 0 => some (Int.emod i n).toNat
    | 1 => let t := (Int.emod i (2 * n)).toNat; some (if t < n then t else 2 * n - 1 - t)
    | 2 => some (if i < 0 then 0 else n - 1)
    | _ => none

/-- The positions along one axis that a coordinate uses, with weights of 256ths. -/
def axisTaps (linear : Bool) (n : Nat) (u : Num) : List (Int × Nat) :=
  let x := (mulNum u (.fin false n 0)).1
  if linear then
    let y := subNum x (.fin false 1 (-1))
    let i := floorNum y
    let f := (roundScaled 8 y - 256 * i).toNat
    [(i, 256 - f), (i + 1, f)]
  else [(floorNum x, 256)]

/-- A coordinate; NaN and infinities read as 0. -/
def texCoord (x : Nat) : Num :=
  match Fmt.f32.read false x with
  | .fin n m e => .fin n m e
  | _ => .fin false 0 0

/-- The texels of one level. -/
def levelTaps (e : BitVec 512) (linear : Bool) (j l : Nat) (u v : Num) (lw : Nat) : List Tap :=
  (axisTaps linear (texH e j) v).flatMap (fun y =>
    (axisTaps linear (texW e j) u).map (fun x =>
      { weight := lw * x.2 * y.2,
        place := match texIndex (texField e 130 129) (texW e j) x.1, texIndex (texField e 132 131) (texH e j) y.1 with
          | some i, some k => some (texelAt e j l i k)
          | _, _ => none }))

/-- The texels of a request at 256 λ. -/
def requestTaps (e : BitVec 512) (lam layer : Nat) (u v : Num) : List Tap :=
  let l := min layer (texField e 111 101)
  let linear := if lam = 0 then e.getLsbD 126 else e.getLsbD 127
  let at' := fun (j w : Nat) => levelTaps e linear j l u v w
  if e.getLsbD 128 then
    let f := lam / 256
    if lam = 256 * texLevels e then at' f 256 else at' f (256 - lam % 256) ++ at' (f + 1) (lam % 256)
  else at' ((lam + 128) / 256) 256

/-- The exact weighted sum of a channel, rounded once by RN. -/
def weighted (l : List (Nat × Nat)) : Word :=
  match l.filter (fun (t : Nat × Nat) => t.1 != 0) with
  | [] => 0
  | t :: ts =>
    let term := fun (t : Nat × Nat) => (mulNum (.fin false t.1 (-24)) (Fmt.f32.read false t.2)).1
    BitVec.ofNat 32 (roundNum .f32 plainRN (ts.foldl (fun a t => (addNum false a (term t)).1) (term t))).1

/-- BORDER as four binary32 values. -/
def texBorder (e : BitVec 512) : List Nat := (List.range 4).map (fun c => texField e (287 + 32 * c) (256 + 32 * c))

/-! ## Requests (R299, R302) -/

/-- The four forms. -/
inductive TexForm where
  | sample | level | gradient | query
  deriving DecidableEq, Repr

/-- A register of the group that A names. -/
def texReg (x : Ctx) (a : BitVec 7) (k lane : Nat) : Nat := (src1 x (a + BitVec.ofNat 7 k) lane).toNat

/-- The agent identifier of the sampler under a consist's core (R14). -/
def samplerAgent (key : Nat) : Nat := agentId (dieOf key) 2 (coreOf key % 64)

/-- Who translates texels: the sampler, for the consist (R195, R343). -/
def samplerAsker (x : Ctx) : Asker :=
  { core := none, sess := x.c.sess, level := x.c.level, agent := samplerAgent x.key, waiter := .unit (samplerAgent x.key) x.c.uid }

/-- The exact derivatives and bias of TEXS: those of the quad; none when a lane of it is gone (R300). -/
def quadDerivs (x : Ctx) (a : BitVec 7) (lane : Nat) : Option (List Num) :=
  let q := lane - lane % 4
  let there := (List.range 4).all (fun j => x.c.lmask.getLsbD (q + j) && !x.c.c.exited.getLsbD (q + j)
    && !x.c.fmask.getLsbD (q + j))
  let d := fun (k j : Nat) => subNum (Fmt.f32.read false (texReg x a k (q + j))) (Fmt.f32.read false (texReg x a k q))
  if there then some [d 0 1, d 1 1, d 0 2, d 1 2] else none

/-- 256 λ of a request (R300). -/
def texLambda (x : Ctx) (f : TexForm) (a : BitVec 7) (e : BitVec 512) (lane : Nat) : Nat :=
  let reg := fun k => Fmt.f32.read false (texReg x a k lane)
  let fromRho := fun (d : Option (List Num)) (bias : Num) =>
    match d.bind (rhoSquared (texW e 0) (texH e 0)), bias with
    | some (m, g), .fin _ _ _ => clampLambda e (lambdaOf m g bias)
    | _, _ => 0
  match f with
  | .sample => fromRho (quadDerivs x a lane) (addNum false (texBias e) (reg 3)).1
  | .gradient => fromRho (some [reg 4, reg 5, reg 6, reg 7]) (texBias e)
  | .level => clampLambda e (roundScaled 8 (addNum false (reg 3) (texBias e)).1)
  | .query => 0

/-- The descriptor a lane's selector names (R296): the checks of a load of 64 bytes through its handle. -/
def readDescriptor (x : Ctx) (lane sel : Nat) (s : State) : Got (BitVec 512) :=
  if sel / 2 ^ 26 < 4 then .out (.trapIn s .bounds (boundsValue 5 sel))
  else
    let off := 64 * (sel % 2 ^ 26)
    (checkAccess x (sel / 2 ^ 26) false 64 (fun _ => off) [lane] s).bind (fun w s =>
      (reach (x.c.asker x.key x.st) .read false w.space (w.pieces s x.c lane off 64) s).bind (fun ps s =>
        match badLine s ps with
        | .good =>
          let s := correctPieces (ps.foldl Piece.sample s) ps (some (coreOf x.key))
          .val (BitVec.ofNat 512 (ps.foldl (fun n p => n + p.read s w.space * 2 ^ (8 * p.pos)) 0)) s
        | bad => .out (consumePoison x bad s)))

/-- The descriptors of the lanes, in ascending order. -/
def readDescriptors (x : Ctx) (b : BitVec 7) : List Nat → State → Got (List (Nat × BitVec 512))
  | [], s => .val [] s
  | l :: ls, s =>
    (readDescriptor x l (src1 x b l).toNat s).bind (fun e s =>
      (readDescriptors x b ls s).bind (fun r s => .val ((l, e) :: r) s))

/-- A lane's request once its descriptor is known: the texels it uses. -/
structure TexReq where
  lane : Nat
  desc : BitVec 512
  taps : List Tap
  deriving Repr

/-- The blocks of a request, each once, as pieces tagged by their place in the list. -/
def TexReq.blocks (r : TexReq) : List Nat := (r.taps.filterMap (fun t => t.place.map (fun p => p.1))).eraseDups

/-- The pieces that read a request's blocks. -/
def TexReq.pieces (r : TexReq) : List Piece :=
  let bb := match texBlock (texFmt r.desc) with | some b => b.2.2 | none => 0
  (List.range r.blocks.length).map (fun j =>
    { lane := j, pos := 0, va := tget (r.blocks.mapIdx (fun i v => (i, v))) j, len := bb, spot := .late none })

/-- Translate the blocks of the requests, lanes in ascending order. -/
def reachTexels (x : Ctx) : List TexReq → State → Got (List (TexReq × List Piece))
  | [], s => .val [] s
  | r :: rs, s =>
    match r.pieces.find? (fun p => decide (2 ^ 60 < p.va + p.len)) with
    | some p => .out (.trapIn s .bounds (boundsValue 0 p.va))
    | none =>
      (reach (samplerAsker x) .read false 0 r.pieces s).bind (fun ps s =>
        (reachTexels x rs s).bind (fun l s => .val ((r, ps) :: l) s))

/-- A request whose texels have been read: its lane, its values, and its completion (R74). -/
structure TexDone where
  lane : Nat
  vals : List Word
  rel : Option Release
  deriving Repr

/-- The lines of texels that have been read are in the texture cache of the core's sampler (R13, R302; log 14). -/
def State.useTexLines (s : State) (core : Nat) (ps : List Piece) : State :=
  let ls := ps.flatMap (fun p => match p.spot with | .mem a => linesOf a p.len | _ => [])
  let old := tget s.texLines core
  { s with texLines := tset s.texLines core (old ++ (ls.eraseDups.filter (fun l => !old.contains l))) }

/-- Make the race checks of the requests (R67, R78) and read their texels (R301). -/
def readTexels (x : Ctx) : List (TexReq × List Piece) → State → Got (List TexDone)
  | [], s => .val [] s
  | (r, ps) :: rs, s =>
    let (uid, s) := s.beginOp (s.engineSeen 2 x.c.uid .c [r.lane]) []
    let p := x.c.engineParty x.key (samplerAgent x.key)
    let me := engineAccess s uid p false false
    match engineRace (r.desc.getLsbD 125 && !isLine x.key) me ps s with
    | .fail c v s => .out (.trapIn s c v)
    | .wait s => .out (.wait s)
    | .gone s => .out (.stop s)
    | .ok _ s =>
      match badLine s ps with
      | .good =>
        let s := (correctPieces s ps).useTexLines (coreOf x.key) ps
        let blk := fun (j : Nat) => (ps.filter (fun p => p.lane == j)).foldl (fun n p => n + p.read s 0 * 2 ^ (8 * p.pos)) 0
        let texel := fun (t : Tap) => match t.place with
          | some (va, k) => texelBits (texFmt r.desc) (texSrgb r.desc) (blk (r.blocks.idxOf va)) k
          | none => texBorder r.desc
        let got := r.taps.map (fun t => (t.weight, texel t))
        let vals := (List.range 4).map (fun c => weighted (got.map (fun g => (g.1, g.2.getD c 0))))
        let (rel, s) := s.endOp uid p
        (readTexels x rs s).bind (fun l s => .val ({ lane := r.lane, vals := vals, rel := some rel } :: l) s)
      | bad => .out (consumePoison x bad s)

/-- Reserve the four slots of each lane and put its results on their way (R85, R302); the completion of its reads is kept for a
FENCE, which waits for the results (R74). -/
def launchTexels (x : Ctx) (l : List TexDone) (s : State) : State :=
  let s := s.modConsist x.key (fun c => l.foldl (fun (c : Consist) r =>
    let k := laneThread c.uid r.lane .c
    let clk := s.known k
    let c := r.vals.foldl (fun (c : Consist) _ =>
      c.push .lq r.lane { val := 0, filled := false, id := s.nextUid, clk := default }) c
    { c with inflight := c.inflight ++ [{ kind := .texture, strm := .c, lane := r.lane,
                                          dest := .queue 0x7A false s.nextUid, vals := r.vals, clk := clk }],
             texRels := (r.rel.map (fun q => (tget clk.clk k, r.lane, q))).toList ++ c.texRels }) c)
  { s with nextUid := s.nextUid + 1 }

/-- What TEXQ gives (R299). -/
def texQuery (e : BitVec 512) (j : Nat) : List Word :=
  if texLevels e < j then [0, 0, 0, 0]
  else [BitVec.ofNat 32 (texW e j), BitVec.ofNat 32 (texH e j), BitVec.ofNat 32 (texField e 111 101 + 1),
        BitVec.ofNat 32 (texLevels e + 1)]

/-- A wait that holds the front end. -/
def Eff.held : Eff → Eff
  | .wait s => .hold s
  | e => e

/-- The body of a texture instruction: the descriptors, their validity, translation, races; a wait holds the C-front
(R302). -/
def textureBody (f : TexForm) (a b : BitVec 7) (x : Ctx) (s : State) : Eff :=
  let ls := lanesOf x.act
  if ls = [] then .ok s
  else
    ((readDescriptors x b ls s).andThen (fun ds s =>
      match ds.find? (fun d => !texValid d.2) with
      | some d => .trapIn s .bounds (boundsValue 5 (src1 x b d.1).toNat)
      | none =>
        if f = .query then
          .ok (launchTexels x (ds.map (fun d => { lane := d.1, vals := texQuery d.2 (texReg x a 0 d.1), rel := none })) s)
        else
          let reqs := ds.map (fun d =>
            { lane := d.1, desc := d.2,
              taps := requestTaps d.2 (texLambda x f a d.2 d.1) (texReg x a 2 d.1) (texCoord (texReg x a 0 d.1))
                (texCoord (texReg x a 1 d.1)) : TexReq })
          (reachTexels x reqs s).andThen (fun rs t =>
            match readTexels x rs t with
            | .val l u => .ok (launchTexels x l u)
            -- a race leaves no access of the instruction behind
            | .out (.trapIn _ c v) => .trapIn t c v
            | .out e => e))).held

/-- A texture instruction. -/
def texture (fn : BitVec 3) (f : TexForm) (m n : Nat) (a b : BitVec 7) (s : State) : Out :=
  issue (packReg 0x48 0x78 a b 0 fn)
    { uses := [(1, 0x7A, .lqFour), (2, a, .group m n), (3, b, .group 1 1)], cross := f == .sample }
    (textureBody f a b) s

/-- TEXS (R299). -/
def execTexs (a b : BitVec 7) (s : State) : Out := texture 0 .sample 4 4 a b s
/-- TEXL (R299). -/
def execTexl (a b : BitVec 7) (s : State) : Out := texture 1 .level 4 4 a b s
/-- TEXG (R299). -/
def execTexg (a b : BitVec 7) (s : State) : Out := texture 2 .gradient 4 8 a b s
/-- TEXQ (R299). -/
def execTexq (a b : BitVec 7) (s : State) : Out := texture 3 .query 1 1 a b s

/-- TEXTURE_RESULT (R302): the n-th texture result of a lane in flight fills its slots. -/
def execTextureResult (consist lane n : Nat) (s : State) : Out :=
  .next (s.modConsist consist (fun c =>
    match (c.inflight.filter (fun f => f.kind == .texture && f.lane == lane))[n]? with
    | some f => { c.land f with inflight := c.inflight.erase f }
    | none => c)).bump

end Sys2Proof.Machine
end

