-- ==== Sys2Proof/Machine/Terminus.lean ====
section
/-!
DEFINITION. The Terminus: major 0x58 (R317 to R323), how bands settle (R310 to R315), the encoder (R326 to R328), the end
of a stream (R305), and its events. An operation that a consist has sent reads its source when it is sent, and takes
effect when its completion event comes.
-/

namespace Sys2Proof.Machine

open Sys2Proof

/-! ## Streams and who asks for them -/

/-- Change a stream. -/
def State.modStream (s : State) (d n : Nat) (f : Stream → Stream) : State := s.setStream d n (f (s.stream d n))

/-- The die and the stream of a band program's consist (R303, R305). -/
def Ctx.band (x : Ctx) (s : State) : Nat × Nat := (dieOf x.key, (s.convoyOf x.c).slot)

/-- Who translates an operation of a consist: the stream's engine, at the consist's level (R319). -/
def Ctx.terminusAsker (x : Ctx) (s : State) : Asker :=
  { core := none, sess := x.c.sess, level := x.c.level, agent := agentId (dieOf x.key) 5 (s.convoyOf x.c).slot,
    waiter := .unit (agentId (dieOf x.key) 5 (s.convoyOf x.c).slot) x.c.uid }

/-- Who translates what the Terminus reads and writes for itself: at supervisor level (DEDUCED, assumption log 30). -/
def streamAsker (sess d n : Nat) : Asker := engineAsker sess 1 (agentId d 5 n)

/-- The bytes a piece holds. -/
def Piece.bytes (s : State) (space : Nat) (p : Piece) : List Byte :=
  match p.spot with
  | .mem a => if space = 2 ∧ 2 ^ 40 ≤ a then leBytes p.len (p.read s space) else s.bytes a p.len
  | .pad conv off => s.padBytes conv off p.len
  | _ => leBytes p.len (p.read s space)

/-- Write bytes through a piece of device memory or of a scratchpad; a register block takes 8 bytes (R316). -/
def Piece.put (s : State) (space : Nat) (p : Piece) (bs : List Byte) : State :=
  match p.spot with
  | .mem a => if space = 2 ∧ 2 ^ 40 ≤ a then p.write s space (leNat bs) else s.write a bs
  | .pad conv off => s.padWrite conv off bs
  | _ => p.write s space (leNat bs)

/-- Write an image through its pieces. -/
def putImage (space : Nat) (ps : List Piece) (img : List Byte) (s : State) : State :=
  (ps.foldl (fun s p => p.put s space ((img.drop p.pos).take p.len)) s).noteWrite false none (ps.flatMap Piece.spans)

/-- The pieces of a range of virtual memory. -/
def vaPieces (row va len : Nat) : List Piece :=
  (cutPatches 0 va (len / 1024 + 2) len).map (fun p => { lane := row, pos := p.1, va := p.2.1, len := p.2.2, spot := .late none })

/-- The lines of 128 bytes in a range of virtual memory that a test picks, as pieces. -/
def linePieces (va len : Nat) (used : Nat → Bool) : List Piece :=
  (linesOf va len).filterMap (fun l =>
    let lo := max va (l * 128)
    let hi := min (va + len) (l * 128 + 128)
    if used l then some { lane := 0, pos := 0, va := lo, len := hi - lo, spot := .late none } else none)

/-- The machine byte that pieces give a virtual address. -/
def byteAt (s : State) (ps : List Piece) (va : Nat) : Byte :=
  match ps.find? (fun p => decide (p.va ≤ va) && decide (va < p.va + p.len)) with
  | some p => match p.spot with
    | .mem a => s.byte (a + (va - p.va))
    | _ => 0
  | none => 0

/-- The binary16 value that pieces give a virtual address. -/
def halfAt (s : State) (ps : List Piece) (va : Nat) : Nat := (byteAt s ps va).toNat + 256 * (byteAt s ps (va + 1)).toNat

/-! ## Band address words (R309) -/

/-- The window and the offset of the image a band address word names, with steps 1 to 3 of R177 for the whole image. -/
def imageWindow (x : Ctx) (word : DWord) (size : Nat) (write : Bool) (s : State) : Got (Window × Nat) :=
  let h := word.toNat / 2 ^ 58
  let off := word.toNat % 2 ^ 58
  if h = 1 ∨ h = 3 ∨ off % 64 ≠ 0 then .out (.trapIn s .bounds (boundsValue 6 word.toNat))
  else
    (windowOf x h off s).bind (fun w s =>
      if write && !w.wr then .out (.trapIn s .bounds (boundsValue 2 off))
      else if w.kind == .pad && (w.inPad s x.c off size).isNone then .out (.trapIn s .bounds (boundsValue 0 off))
      else match w.outside x.c 0 off size with
        | some (cause, v) => .out (.trapIn s cause v)
        | none => .val (w, off) s)

/-! ## Reprojection (R320) -/

/-- Entry (bx, by) of the motion field, as signed quarter pixels. -/
def motionAt (s : State) (t : Stream) (ps : List Piece) (bx by' : Nat) : Int × Int :=
  let va := t.mfld + 4 * (by' * (t.hact / 8) + bx)
  ((BitVec.ofNat 16 (halfAt s ps va)).toInt, (BitVec.ofNat 16 (halfAt s ps (va + 2))).toInt)

/-- A plane of the stream's frame: 0 Y, 1 Cb, 2 Cr. -/
structure Plane where
  k : Nat
  deriving DecidableEq, Repr

/-- Width of a plane. -/
def Plane.width (p : Plane) (t : Stream) : Nat := if p.k = 0 then t.hact else t.hact / 2
/-- Height of a plane. -/
def Plane.height (p : Plane) (t : Stream) : Nat := if p.k = 0 then t.vact else t.vact / 2
/-- Rows of a plane in one band. -/
def Plane.rows (p : Plane) : Nat := if p.k = 0 then 16 else 8
/-- Offset of element (x, y) of a plane in the history buffer (R308). -/
def Plane.offset (p : Plane) (t : Stream) (x y : Nat) : Nat :=
  t.imageSize * (y / p.rows) + (match p.k with | 0 => 0 | 1 => 32 * t.hact | _ => 40 * t.hact)
    + (if p.k = 0 then 2 * t.hact else t.hact) * (y % p.rows) + 2 * x
/-- The fill value of a plane (R316). -/
def Plane.fill (p : Plane) (t : Stream) : Nat := (t.fill.extractLsb' (16 * p.k) 16).toNat

/-- The position along one axis in 256ths: at − p × d / q, rounded by RN and clamped to [0, n − 1]. -/
def warpPos (phase : Num) (at' : Nat) (d : Int) (q : Int) (n : Nat) : Nat :=
  let move := (mulNum phase (.fin (decide (d < 0)) d.natAbs (-q))).1
  min (roundScaled 8 (subNum (.fin false at' 0) move)).toNat (256 * (n - 1))

/-- The texels of a position, with their weights in 65536ths; those of weight 0 take no part. -/
def warpTaps (px py : Nat) : List (Nat × Nat × Nat) :=
  let i := px / 256
  let j := py / 256
  let f := px % 256
  let g := py % 256
  [((256 - f) * (256 - g), i, j), (f * (256 - g), i + 1, j), ((256 - f) * g, i, j + 1), (f * g, i + 1, j + 1)].filter
    (fun e => e.1 != 0)

/-- The pixels of band b of a plane, rows first. -/
def Plane.pixels (p : Plane) (t : Stream) (b : Nat) : List (Nat × Nat) :=
  (List.range p.rows).flatMap (fun r => (List.range (p.width t)).map (fun x => (x, p.rows * b + r)))

/-- The texels a pixel of a plane uses. -/
def Plane.taps (p : Plane) (s : State) (t : Stream) (mf : List Piece) (x y : Nat) : List (Nat × Nat × Nat) :=
  let phase := match Fmt.f32.read false t.wph.toNat with | .fin n m e => Num.fin n m e | _ => .fin false 0 0
  let scale := if p.k = 0 then 1 else 2
  let d := motionAt s t mf (scale * x / 8) (scale * y / 8)
  let q : Int := if p.k = 0 then 2 else 3
  warpTaps (warpPos phase x d.1 q (p.width t)) (warpPos phase y d.2 q (p.height t))

/-- Has the band of a history element ever settled? -/
def Stream.hasSettled (t : Stream) (b : Nat) : Bool := decide (b + 1 ≤ t.lastSettled)

/-- A reprojected value: the exact weighted sum, rounded once to binary16. -/
def warpValue (p : Plane) (s : State) (t : Stream) (hist : List Piece) (taps : List (Nat × Nat × Nat)) : Nat :=
  let val := fun (e : Nat × Nat × Nat) =>
    let bits := if t.hasSettled (e.2.2 / p.rows) then halfAt s hist (t.hist + p.offset t e.2.1 e.2.2) else p.fill t
    (mulNum (.fin false e.1 (-16)) (Fmt.f16.read false bits)).1
  match taps with
  | [] => 0
  | e :: es => (roundNum .f16 plainRN (es.foldl (fun a e => (addNum false a (val e)).1) (val e))).1

/-- The three planes. -/
def planes : List Plane := [⟨0⟩, ⟨1⟩, ⟨2⟩]

/-- The pieces of the motion field that band b uses. -/
def warpField (t : Stream) (b : Nat) : List Piece := vaPieces 0 (t.mfld + 8 * b * (t.hact / 8)) (8 * (t.hact / 8))

/-- The pieces of the history buffer that band b's reprojection reads. -/
def warpHistory (s : State) (t : Stream) (mf : List Piece) (b : Nat) : List Piece :=
  let lines := planes.flatMap (fun p => (p.pixels t b).flatMap (fun xy => (p.taps s t mf xy.1 xy.2).filterMap (fun e =>
    if t.hasSettled (e.2.2 / p.rows) then some ((t.hist + p.offset t e.2.1 e.2.2) / 128) else none)))
  linePieces t.hist t.historySize (fun l => lines.contains l)

/-- The reprojected image of band b. -/
def warpImage (s : State) (t : Stream) (mf hist : List Piece) (b : Nat) : List Byte :=
  planes.flatMap (fun p => (p.pixels t b).flatMap (fun xy =>
    leBytes 2 (warpValue p s t hist (p.taps s t mf xy.1 xy.2))))

/-! ## Motion search (R321, R328) -/

/-- A tap value quantised to d bits (R328). -/
def quantise (d bits : Nat) : Nat :=
  let top := 2 ^ d - 1
  match Fmt.f16.read false bits with
  | .nan _ => 0
  | .inf n => if n then 0 else top
  | .fin n m e => min (roundScaled 0 (.fin n (m * top) e)).toNat top

/-- The rows and columns of the reference plane that a search of range g around [lo, lo + 8) reads: first and count. -/
def searchSpan (lo g n : Nat) : Nat × Nat :=
  let first := lo - g
  (first, min (n - 1) (lo + 7 + g) + 1 - first)

/-- The pieces a lane's search reads: the block, and the area around it. -/
def searchPieces (t : Stream) (bx by' g : Nat) : List Piece :=
  let pitch := t.mePitch.toNat
  let xs := searchSpan (8 * bx) g t.meW.toNat
  let ys := searchSpan (8 * by') g t.meH.toNat
  (List.range 8).flatMap (fun j => vaPieces 0 (t.meCur.toNat + pitch * (8 * by' + j) + 16 * bx) 16)
    ++ (List.range ys.2).flatMap (fun j => vaPieces 0 (t.meRef.toNat + pitch * (ys.1 + j) + 2 * xs.1) (2 * xs.2))

/-- A code of the reference plane at a position clamped to it. -/
def refCode (s : State) (t : Stream) (ps : List Piece) (x y : Int) : Nat :=
  let cx := min x.toNat (t.meW.toNat - 1)
  let cy := min y.toNat (t.meH.toNat - 1)
  quantise 10 (halfAt s ps (t.meRef.toNat + t.mePitch.toNat * cy + 2 * cx))

/-- The cost of an offset in quarter pixels. -/
def searchCost (s : State) (t : Stream) (ps : List Piece) (bx by' : Nat) (dx dy : Int) : Nat :=
  ((List.range 64).map (fun k =>
    let x := 8 * bx + k % 8
    let y := 8 * by' + k / 8
    let c := quantise 10 (halfAt s ps (t.meCur.toNat + t.mePitch.toNat * y + 2 * x))
    let px : Int := 4 * x + dx
    let py : Int := 4 * y + dy
    let i := Int.fdiv px 4
    let j := Int.fdiv py 4
    let f := (px - 4 * i).toNat
    let g := (py - 4 * j).toNat
    let sum := (4 - f) * (4 - g) * refCode s t ps i j + f * (4 - g) * refCode s t ps (i + 1) j
      + (4 - f) * g * refCode s t ps i (j + 1) + f * g * refCode s t ps (i + 1) (j + 1)
    ((16 * c : Nat) - (sum : Int)).natAbs)).foldl (· + ·) 0

/-- Does a candidate come before another: cost, then |dx| + |dy|, then dy, then dx? -/
def searchBefore (p q : Nat × Int × Int) : Bool :=
  let m := fun (e : Nat × Int × Int) => e.2.1.natAbs + e.2.2.natAbs
  decide (p.1 < q.1) || (p.1 == q.1 && (decide (m p < m q) || (m p == m q &&
    (decide (p.2.2 < q.2.2) || (p.2.2 == q.2.2 && decide (p.2.1 < q.2.1))))))

/-- The best offset of a search of range g: cost, dx, dy. -/
def searchBest (s : State) (t : Stream) (ps : List Piece) (bx by' g : Nat) : Nat × Int × Int :=
  let side := (List.range (8 * g + 1)).map (fun (k : Nat) => (k : Int) - 4 * g)
  side.foldl (fun b dy => side.foldl (fun b dx =>
    let e := (searchCost s t ps bx by' dx dy, dx, dy)
    if searchBefore e b then e else b) b) (searchCost s t ps bx by' 0 0, 0, 0)

/-! ## The instructions (R317 to R322) -/

/-- Is a band number out of range (R317)? -/
def Stream.badBand (t : Stream) (n : Nat) : Bool := n == 0 || decide (t.lastSettled + 2 * t.bandsPerFrame < n)

/-- Operand A as a band number of the lowest active lane: 64 bits, an even pair in the C-stream (R317). -/
def bandNumber (x : Ctx) (a : BitVec 7) : Nat := (opVal x a true 0 (kInt x) (lowest x.act)).toNat

/-- An instruction that reads a band number and looks at the stream (R317): `f` gives its effect. -/
def bandRead (w : Word) (o : OpInfo) (a : BitVec 7) (f : Ctx → Nat → Nat → Nat → Stream → State → Eff) (s : State) : Out :=
  issue w o (fun x s =>
    if x.act = 0 then .ok s
    else
      let (d, k) := x.band s
      let s := s.scan d k
      let t := s.stream d k
      let n := bandNumber x a
      if t.badBand n then .trapIn s .bounds (boundsValue 6 n) else f x d k n t s) s

/-- LWAIT (R318). -/
def execLwait (d a : BitVec 7) (w : BitVec 1) (s : State) : Out :=
  bandRead (packReg 0x58 d a 0x78 w 0) { uses := [(1, d, .lwait), (2, a, .src true false)], uniform := true } a
    (fun x die k n t s =>
      if t.lastSettled < n ∧ t.t < t.opens n then .wait s
      else if d = 0x78 then .ok s
      else
        .ok ((s.setStream die k t.popEvent).modConsist x.key (fun c =>
          putResult s c x.st d false (w == 1) (lanesOf x.act) (fun _ => t.nextEvent.setWidth 64)))) s

/-- DLREAD (R322). -/
def execDlread (d a : BitVec 7) (w : BitVec 1) (s : State) : Out :=
  bandRead (packReg 0x58 d a 0x78 w 6) { uses := [(1, d, .dst false true false), (2, a, .src true false)], uniform := true } a
    (fun x _ _ n t s =>
      let v := Int.fdiv ((t.deadline n : Int) - t.t) t.lper
      let v := if x.st = .c then max (-2 ^ 31) (min (2 ^ 31 - 1) v) else v
      .ok (s.modConsist x.key (fun c =>
        putResult s c x.st d false (w == 1) (lanesOf x.act) (fun _ => BitVec.ofInt 64 v)))) s

/-- TMSTAT (R322). -/
def execTmstat (d a : BitVec 7) (w : BitVec 1) (s : State) : Out :=
  issue (packReg 0x58 d a 0x78 w 5) { uses := [(1, d, .dst true true false), (2, a, .src false false)], uniform := true }
    (fun x s =>
      if x.act = 0 then .ok s
      else
        let (die, k) := x.band s
        let s := s.scan die k
        let v := (s.stream die k).counter ((src1 x a (lowest x.act)).toNat % 16)
        .ok (s.modConsist x.key (fun c => putResult s c x.st d true (w == 1) (lanesOf x.act) (fun _ => v)))) s

/-- Note how far a consist's Terminus operation is (R317). -/
def State.setBandOp (s : State) (key n : Nat) : State := s.modConsist key (fun c => { c with bandOp := n })

/-- The end of an attempt at an operation: while it waits, asynchronous traps wait too (R317). -/
def bandEff (key : Nat) (s : State) : Eff → Eff
  | .ok t => .ok (t.setBandOp key 0)
  | .trap c v => .trapIn (s.setBandOp key 0) c v
  | .trapIn t c v => .trapIn (t.setBandOp key 0) c v
  | .wait t => .wait (t.modConsist key (fun c => { c with bandOp := max c.bandOp 1 }))
  | .hold t => .hold (t.modConsist key (fun c => { c with bandOp := max c.bandOp 1 }))
  | .stop t => .stop t

/-- Send an operation to the Terminus: the A-front is held until it completes (R319, R323). -/
def sendBand (x : Ctx) (d k : Nat) (o : BandOp) (s : State) : Eff :=
  .wait ((s.modStream d k (fun t => { t with op := some o })).setBandOp x.key 2)

/-- What an operation of a consist happens after (R323): what its active lanes have seen, and all that any lane of the consist
has acquired, in either stream. -/
def Ctx.bandClock (x : Ctx) (s : State) : Clock :=
  let mine := fun (k : Nat) => decide (laneThread x.c.uid 0 .a ≤ k) && decide (k < laneThread (x.c.uid + 1) 0 .a)
  let got := fun (st : Strm) (c : Clock) (l : Nat) =>
    Clock.join c ((s.seen (laneThread x.c.uid l st)).filter (fun e => !mine e.1))
  (List.range 32).foldl (got .c) ((List.range 32).foldl (got .a) (s.seenBy x.c.uid .a (lanesOf x.act)))

/-- LEMIT, FBSET and WARPB (R319, R320): kinds 0, 1 and 2. -/
def bandBody (kind : Nat) (dst a b : BitVec 7) (nw : Bool) (x : Ctx) (s : State) : Eff :=
  if x.act = 0 then .ok s
  else
    bandEff x.key s (
      let (d, k) := x.band s
      let s := s.scan d k
      let t := s.stream d k
      let m := lowest x.act
      let n := (src1 x a m).toNat
      let word := src1 x b m
      if t.badBand n then .trapIn s .bounds (boundsValue 6 n)
      else
        (imageWindow x word t.imageSize (kind == 2) s).andThen (fun wo s =>
          if kind ≠ 2 ∧ t.lastSettled < n ∧ t.t < t.opens n then .wait s
          else if kind ≠ 2 ∧ n ≤ t.lastSettled then
            let s := if kind = 0 then s.modStream d k (fun t => t.count 2) else s
            .ok (s.modConsist x.key (fun c => putResult s c x.st dst false nw (lanesOf x.act) (fun _ => 1)))
          else if s.logged x.key || t.op.isSome then .wait s
          else
            let op : BandOp :=
              { kind := kind, consist := x.key, run := x.run, act := x.act, d := dst, nw := nw, band := n, image := [],
                clk := x.bandClock s, word := word }
            let who := x.terminusAsker s
            let ps := wo.1.pieces s x.c 0 wo.2 t.imageSize
            if kind ≠ 2 then
              (reach who .read false wo.1.space ps s).andThen (fun ps s =>
                match badLine s ps with
                | .good =>
                  let s := correctPieces (ps.foldl Piece.sample s) ps
                  sendBand x d k { op with image := ps.flatMap (Piece.bytes s wo.1.space) } s
                | bad => consumePoison x bad s)
            else
              let bandIx := (t.place n).2
              (reach who .write false wo.1.space ps s).andThen (fun _ s =>
                (reach who .read false 0 (warpField t bandIx) s).andThen (fun mf s =>
                  (reach who .read false 0 (warpHistory s t mf bandIx) s).andThen (fun hist s =>
                    match badLine s (mf ++ hist) with
                    | .good =>
                      let s := correctPieces s (mf ++ hist)
                      sendBand x d k { op with image := warpImage s t mf hist bandIx } s
                    | bad => consumePoison x bad s)))))

/-- LEMIT (R319). -/
def execLemit (d a b : BitVec 7) (w : BitVec 1) (s : State) : Out :=
  issue (packReg 0x58 d a b w 1)
    { uses := [(1, d, .dst false true false), (2, a, .src false false), (3, b, .src false false)], uniform := true }
    (bandBody 0 d a b (w == 1)) s

/-- FBSET (R319). -/
def execFbset (d a b : BitVec 7) (w : BitVec 1) (s : State) : Out :=
  issue (packReg 0x58 d a b w 4)
    { uses := [(1, d, .dst false true false), (2, a, .src false false), (3, b, .src false false)], uniform := true }
    (bandBody 1 d a b (w == 1)) s

/-- WARPB (R320). -/
def execWarpb (a b : BitVec 7) (s : State) : Out :=
  issue (packReg 0x58 0x78 a b 0 3)
    { uses := [(2, a, .src false false), (3, b, .src false false)], uniform := true }
    (bandBody 2 0x78 a b false) s

/-- MESRCH (R321): the searches of the lanes are made when it is sent, and their results wait in the reserved slots. -/
def execMesrch (a b : BitVec 7) (s : State) : Out :=
  issue (packReg 0x58 0x7A a b 0 2) { uses := [(1, 0x7A, .lqTwo), (2, a, .src false false), (3, b, .src false false)] }
    (fun x s =>
      if x.act = 0 then .ok s
      else
        let (d, k) := x.band s
        let t := s.stream d k
        let ls := lanesOf x.act
        let search := src1 x b (lowest x.act)
        let g := (search.extractLsb' 0 9).toNat
        let block := fun l => src1 x a l
        let bx := fun l => ((block l).extractLsb' 0 16).toNat
        let by' := fun l => ((block l).extractLsb' 16 16).toNat
        if search.toNat / 2 ^ 9 ≠ 0 ∨ g = 0 ∨ 256 < g then .trapIn s .bounds (boundsValue 6 search.toNat)
        else match ls.find? (fun l => decide (2 ^ 32 ≤ (block l).toNat) || decide (t.meW.toNat < 8 * bx l + 8)
            || decide (t.meH.toNat < 8 * by' l + 8)) with
          | some l => .trapIn s .bounds (boundsValue 6 (block l).toNat)
          | none =>
            if s.logged x.key || t.op.isSome then .wait s
            else
              let ps := ls.flatMap (fun l => searchPieces t (bx l) (by' l) g)
              match ps.find? (fun p => decide (2 ^ 60 < p.va + p.len)) with
              | some p => .trapIn s .bounds (boundsValue 0 p.va)
              | none =>
                (reach (x.terminusAsker s) .read false 0 ps s).andThen (fun ps s =>
                  match badLine s ps with
                  | .good =>
                    let s := correctPieces s ps
                    let found := ls.map (fun l => (l, searchBest s t ps (bx l) (by' l) g))
                    let id := s.nextUid
                    let op : BandOp := { (default : BandOp) with kind := 3, consist := x.key }
                    let s := s.modConsist x.key (fun c => found.foldl (fun (c : Consist) e =>
                      let vals := [BitVec.ofInt 16 e.2.2.2 ++ BitVec.ofInt 16 e.2.2.1, BitVec.ofNat 32 e.2.1]
                      let c := vals.foldl (fun (c : Consist) _ =>
                        c.push .lq e.1 { val := 0, filled := false, id := id, clk := default }) c
                      { c with inflight := c.inflight ++ [{ kind := .search, strm := .a, lane := e.1,
                                                            dest := .queue 0x7A false id, vals := vals,
                                                            clk := s.known (laneThread c.uid e.1 .a) }] }) c)
                    .ok { (s.modStream d k (fun t => { t with op := some op })) with nextUid := id + 1 }
                  | bad => consumePoison x bad s)) s

/-! ## Events of the operations -/

/-- The context of the run that waits for an operation. -/
def BandOp.ctx (o : BandOp) (c : Consist) : Ctx :=
  { key := o.consist, st := .a, c := c, run := o.run, act := o.act, pc := tget c.a.pc (lowest o.run),
    hints := (tfind (lowest o.run) c.a.hints).getD Hints.none }

/-- An operation completes: its instruction writes its status and retires (R319, R320), and the consist acquires what the
operation did (R323). -/
def State.endBand (s : State) (d k : Nat) (o : BandOp) (status : Option Nat) : State :=
  let s := s.modStream d k (fun t => { t with op := none })
  match s.consist? o.consist with
  | none => s
  | some c =>
    let c := { c with bandOp := 0 }
    let c := match status with
      | some v => putResult s c .a o.d false o.nw (lanesOf o.act) (fun _ => BitVec.ofNat 64 v)
      | none => c
    let s := (s.learnAll c.uid .a (List.range 32) o.clk).learnAll c.uid .c (List.range 32) o.clk
    complete { uses := [] } (o.ctx c) (s.setConsist o.consist c)

/-- The consist of an operation goes on, or is gone or ended: then the operation is abandoned (R313). -/
def State.bandAlive (s : State) (o : BandOp) : Bool :=
  match s.consist? o.consist with
  | some c => c.status == .running && c.bandOp == 2
  | none => false

/-- An abandoned operation (R313, R314). -/
def State.dropBand (s : State) (d k : Nat) (o : BandOp) : State :=
  let s := s.modStream d k (fun t => let t := { t with op := none }; if o.kind = 0 then t.count 2 else t)
  s.setBandOp o.consist 0

/-- A copy of LEMIT or FBSET completes, below D(n) or too late (R313, R319). -/
def finishCopy (kind d k : Nat) (s : State) : State :=
  let s := s.scan d k
  let t := s.stream d k
  match t.op with
  | none => s
  | some o =>
    if o.kind ≠ kind then s
    else if !s.bandAlive o then s.dropBand d k o
    else if o.band ≤ t.lastSettled ∨ t.deadline o.band ≤ t.t then
      (if kind = 0 then s.modStream d k (fun t => t.count 2) else s).endBand d k o (some 1)
    else
      let slot := tget t.bands o.band
      let img := some (o.image, o.clk)
      let slot := if kind = 0 then { slot with emit := img } else { slot with armed := img }
      (s.modStream d k (fun t => { t with bands := tset t.bands o.band slot })).endBand d k o (some 0)

/-- LEMIT_COPY_COMPLETE (R319). -/
def execLemitCopyComplete (die stream : Nat) (s : State) : Out := .next (finishCopy 0 die stream s).bump

/-- FBSET_COPY_COMPLETE (R319). -/
def execFbsetCopyComplete (die stream : Nat) (s : State) : Out := .next (finishCopy 1 die stream s).bump

/-- WARPB_COMPLETE (R320): the image is written, and the instruction retires. A destination that no longer translates
sends the instruction back to its start, where it traps. -/
def execWarpbComplete (die stream : Nat) (s : State) : Out :=
  .next (
    let s := s.scan die stream
    match (s.stream die stream).op with
    | none => s
    | some o =>
      if o.kind ≠ 2 then s
      else if !s.bandAlive o then s.dropBand die stream o
      else match s.consist? o.consist with
        | none => s
        | some c =>
          let x := o.ctx c
          let size := (s.stream die stream).imageSize
          let back := fun (s : State) => (s.modStream die stream (fun t => { t with op := none })).setBandOp o.consist 0
          match (imageWindow x o.word size true s).bind (fun wo s =>
              (reach (x.terminusAsker s) .write false wo.1.space (wo.1.pieces s c 0 wo.2 size) s).bind (fun ps s =>
                .val (wo.1.space, ps) s)) with
          | .val (space, ps) s => (putImage space ps o.image s).endBand die stream o none
          | .out (.wait s) | .out (.hold s) => s
          | .out (.trapIn s _ _) => back s
          | .out (.stop s) => s
          | .out _ => back s).bump

/-- MESRCH_RESULT (R321): the vectors and costs fill their slots. -/
def execMesrchResult (die stream : Nat) (s : State) : Out :=
  .next (match (s.stream die stream).op with
    | none => s
    | some o =>
      if o.kind ≠ 3 then s
      else
        (s.modStream die stream (fun t => { t with op := none })).modConsist o.consist (fun (c : Consist) =>
          let mine := c.inflight.filter (fun (f : Inflight) => f.kind == Latency.search)
          { mine.foldl Consist.land c with inflight := c.inflight.filter (fun (f : Inflight) => f.kind != Latency.search) })).bump

/-! ## Bands settle (R310 to R315) -/

/-- Read the pieces of a history band that have not been read: one whose read waits stays so, and a final fault ends the copy
(R310); lost lines end the session (R388). -/
def readHistory (who : Asker) :
    List (Nat × Nat × Option (List Byte)) → State → Doing (Option (List (Nat × Nat × Option (List Byte))))
  | [], s => .ok (some []) s
  | (va, n, got) :: ps, s =>
    let first : Doing (Option (Option (List Byte))) :=
      match got with
      | some bs => .ok (some (some bs)) s
      | none =>
        match (reach who .read false 0 [{ lane := 0, pos := 0, va := va, len := n, spot := .late none }] s).doing s with
        | .ok qs s =>
          (match badLine s qs with
           | .good => let s := correctPieces s qs; .ok (some (some (qs.flatMap (Piece.bytes s 0)))) s
           | bad => .gone (s.readBad bad who.agent who.sess (fun _ => none)))
        | .gone s => .gone s
        | .wait s => .ok (some none) s
        | .fail _ _ s => .ok none s
    first.bind (fun q s =>
      match q with
      | none => .ok none s
      | some q => (readHistory who ps s).bind (fun r s => .ok (r.map (fun r => (va, n, q) :: r)) s))

/-- A history band, not yet read (R310); none where it lies beyond the address space. -/
def Stream.historyPieces (t : Stream) (b : Nat) : Option (List (Nat × Nat × Option (List Byte))) :=
  let va := t.hist + t.imageSize * b
  if 2 ^ 60 < va + t.imageSize then none
  else some ((cutPatches 0 va (t.imageSize / 1024 + 2) t.imageSize).map (fun p => (p.2.1, p.2.2, none)))

/-- BAND_WINDOW_OPEN (R310): band n's window is open, and once the tap has written band n − 1 the copy of its fallback
goes on: it reads what it could not read at O(n), and is in progress when it has all. There is nothing to copy once the copy is
made, or where the history cannot be read. -/
def execBandWindowOpen (die stream : Nat) (s : State) : Out :=
  .next (
    let s := s.scan die stream
    let t := s.stream die stream
    let n := t.lastSettled + 1
    let slot := tget t.bands n
    if t.state = 0 ∨ t.settled.any (fun e => e.1 == n - 1) = true ∨ slot.copying = true then s
    else match slot.snap with
      | none => s
      | some ps =>
        match readHistory (streamAsker t.sess die stream) ps s with
        | .ok got s => s.modStream die stream (fun t =>
            { t with bands := tset t.bands n { slot with
                snap := got, copying := (got.map (fun l => l.all (fun p => p.2.2.isSome))).getD false } })
        | .gone s | .wait s | .fail _ _ s => s).bump

/-- PREPARED_IMAGE_READY (R310): the copy is complete; the prepared image is available when it was below D(n), its reads
did not fault and band b of an earlier frame has settled. -/
def execPreparedImageReady (die stream : Nat) (s : State) : Out :=
  .next (
    let s := s.scan die stream
    let t := s.stream die stream
    let n := t.lastSettled + 1
    let slot := tget t.bands n
    if t.state = 0 ∨ slot.copying = false then s
    else
      let ok := t.t < t.deadline n && t.bandsPerFrame < n
      let img := slot.snap.map (fun l => l.flatMap (fun p => p.2.2.getD []))
      s.setStream die stream
        { t with bands := tset t.bands n { slot with copying := false, snap := none,
                                                     prepared := if ok then img else none } }).bump

/-- A constant band of the fill registers (R311). -/
def Stream.fillImage (t : Stream) : List Byte :=
  let rep := fun (n k : Nat) => (List.replicate n (leBytes 2 (Plane.fill ⟨k⟩ t))).flatten
  rep (16 * t.hact) 0 ++ rep (4 * t.hact) 1 ++ rep (4 * t.hact) 2

/-- What a band's content is, and from which source: 0 emitted, then the fallback levels (R311). -/
def Stream.choose (t : Stream) (slot : BandSlot) : Nat × List Byte × Clock :=
  match slot.emit, slot.armed, slot.prepared with
  | some e, _, _ => (0, e)
  | none, some e, _ => (1, e)
  | none, none, some e => (2, e, [])
  | none, none, none => (3, t.fillImage, [])

/-- The stream once its next band has settled (R311, R314, R315): scan time is D(n) at least, the band has its content, and
a miss is counted and posted. -/
def Stream.settle (t : Stream) : Stream :=
  let n := t.lastSettled + 1
  let t := { t with t := max t.t (t.deadline n) }
  let (level, img, clk) := t.choose (tget t.bands n)
  let t := if level = 0 then t.count 0 else ((t.count 1).count (2 + level)).postMiss level n
  { t with counters := tset t.counters 7 (BitVec.ofNat 64 n), bands := tdel n t.bands,
           settled := t.settled ++ [(n, img, clk)], untapped := t.untapped ++ [img] }

/-- BAND_SETTLE (R311): scan time runs to D(n), and the band takes its content; the history band that the next window's
copy will hold is read as it stands at this cycle, and what its tap writes still make of it is put over it later (R310). A tap
that is due first comes first (R307). -/
def execBandSettle (die stream : Nat) (s : State) : Out :=
  .next (
    let t := s.stream die stream
    let n := t.lastSettled + 1
    if t.state = 0 then s
    else if t.horizon < t.deadline n then s
    else
      let s := s.setStream die stream t.settle
      match t.historyPieces (t.place (n + 1)).2 with
      | none => s
      | some ps =>
        match readHistory (streamAsker t.sess die stream) ps s with
        | .ok got s => s.modStream die stream (fun t =>
            { t with bands := tset t.bands (n + 1) { tget t.bands (n + 1) with snap := got } })
        | .gone s | .wait s | .fail _ _ s => s).bump

/-- TAP_HISTORY_WRITE (R312): the oldest settled image is written into the history buffer, or is lost when the write
faults; the class-3 timeline advances. -/
def execTapHistoryWrite (die stream : Nat) (s : State) : Out :=
  .next (
    let t := s.stream die stream
    match t.settled with
    | [] => s
    | (n, img, clk) :: rest =>
      let va := t.hist + t.imageSize * (t.place n).2
      let who := streamAsker t.sess die stream
      let advance := fun (good : Bool) (s : State) =>
        let rel := (sessionParty s t.sess who.agent).release 12 clk
        s.modStream die stream (fun t =>
          let t := { t with settled := rest, timeline := BitVec.ofNat 64 n, ends := addEnd t.ends n rel }
          let t := if good then t else t.count 10
          -- the copy for the next window holds what the tap has written of its band before (R310)
          let m := t.lastSettled + 1
          if good && (t.place n).2 == (t.place m).2 then
            { t with bands := tset t.bands m { tget t.bands m with snap := some [(va, t.imageSize, some img)] } }
          else t)
      if 2 ^ 60 < va + t.imageSize then advance false s
      else match (reach who .write false 0 (vaPieces 0 va t.imageSize) s).doing s with
        | .ok ps s => advance true (putImage 0 ps img s)
        | .fail _ _ s => advance false s
        | .wait s => s
        | .gone s => s).bump

/-! ## The encoder (R326, R327) -/

/-- Tile rows of a frame. -/
def Stream.tileRowCount (t : Stream) : Nat := (t.bandsPerFrame + 3) / 4

/-- Has the encoder coded, or dropped, every tile row of the frame it latched last? -/
def Stream.frameCoded (t : Stream) : Bool :=
  t.tapped == 0 || !t.encLatched.getLsbD 0 || t.dropped || decide (t.tileRowCount ≤ t.tileRows)

/-- The codes of a band image (R328): every value quantised to the stream's depth. -/
def Stream.codes (t : Stream) (img : List Byte) : List Nat :=
  (List.range (img.length / 2)).map (fun j =>
    quantise (if t.depth then 10 else 8) (leNat ((img.drop (2 * j)).take 2)))

/-- Does the encoder code the frame in progress? -/
def Stream.encodes (t : Stream) : Bool := t.encLatched.getLsbD 0 && !t.dropped

/-- The encoder takes its next band: where it codes the frame, it quantises the band (R326, R328). -/
def Stream.takeBand (t : Stream) : Stream :=
  { t with t := max t.t (t.tapTime (t.tapped + 1)), tapped := t.tapped + 1, untapped := t.untapped.drop 1,
           coding := if t.encodes then t.coding ++ [t.codes (t.untapped.headD [])] else [] }

/-- At band 0 of a frame the encoder latches ENC, settles whether the frame is a key frame, and chooses its qindex in [QMIN,
QMAX] (R316, R326, R327); which one is its own (DESIGN CHOICE, assumption log 9). -/
def Stream.latchFrame (t : Stream) (pick : Nat) : Stream :=
  let qmin := (t.enc.extractLsb' 2 8).toNat
  let qmax := (t.enc.extractLsb' 10 8).toNat
  let kint := (t.enc.extractLsb' 18 14).toNat
  let key := t.keyNext || t.keyReq || !t.encLatched.getLsbD 0 || (kint != 0 && decide (kint ≤ t.sinceKey))
  let t := { t with encLatched := t.enc, tileRows := 0, dropped := false, coding := [], qindex := qmin + pick % (qmax - qmin + 1) }
  if !t.enc.getLsbD 0 then t
  else if key then { t with keyFrame := true, keyNext := false, keyReq := false, sinceKey := 1 }
  else { t with keyFrame := false, sinceKey := t.sinceKey + 1 }

/-- ENCODER_TAP (R316, R326): scan time runs to T(n), once the tap has written band n (R312), and the encoder takes it; a frame
begins once the one before is coded. -/
def execEncoderTap (die stream : Nat) (s : State) : Out :=
  .next (
    let t := s.stream die stream
    let n := t.tapped + 1
    if t.state = 0 ∨ t.lastSettled < n ∨ t.settled.any (fun e => decide (e.1 ≤ n)) = true
        ∨ t.deadline (t.lastSettled + 1) < t.tapTime n then s
    else if (t.place n).2 ≠ 0 then s.setStream die stream t.takeBand
    else if !t.frameCoded then s
    else s.setStream die stream (t.latchFrame s.free.toNat).takeBand).bump

/-- A number in LEB128, as an OBU's size (PRESUMED, assumption log 9). -/
def leb128 : Nat → Nat → List Byte
  | 0, _ => []
  | fuel + 1, n => if n < 128 then [BitVec.ofNat 8 n] else BitVec.ofNat 8 (n % 128 + 128) :: leb128 fuel (n / 128)

/-- An OBU with its header and size (PRESUMED, assumption log 9): types 1 sequence header, 2 temporal delimiter, 3 frame header,
4 tile group. -/
def obu (type : Nat) (payload : List Byte) : List Byte :=
  BitVec.ofNat 8 (8 * type + 2) :: leb128 8 payload.length ++ payload

/-- What an OBU of a frame codes (R326): the picture's size and depth, key frame or not, qindex, TBITS; and for a tile group
its number, the motion candidates, and the codes of its bands. -/
def Stream.codingOf (t : Stream) (type : Nat) (motion : List Byte) (codes : List Nat) : List Nat :=
  [type, t.hact, t.vact, if t.depth then 10 else 8, if t.keyFrame then 1 else 0, t.qindex, (t.encLatched.extractLsb' 32 32).toNat,
    t.tileRows] ++ motion.map BitVec.toNat ++ codes

/-- The OBUs that the next tile row comes in (R326): a frame's begin with the temporal delimiter, the sequence header of a key
frame, and the frame header. -/
def Stream.obus (t : Stream) (tick : Nat) (motion : List Byte) (codes : List Nat) : List Byte :=
  let make := fun (type : Nat) (m : List Byte) (c : List Nat) => obu type (Config.codeBytes tick (t.codingOf type m c))
  (if t.tileRows ≠ 0 then []
    else obu 2 [] ++ (if t.keyFrame then make 1 [] [] else []) ++ make 3 [] [])
    ++ make 4 motion codes

/-- The pieces of the motion field that a tile row uses: its 8 rows of blocks, or fewer in the last (R326). -/
def Stream.tileMotion (t : Stream) (bands : Nat) : List Piece :=
  vaPieces 0 (t.mfld + 4 * (t.hact / 8) * (8 * t.tileRows)) (4 * (t.hact / 8) * (2 * bands))

/-- The bytes of the motion field as they stand, for the encoder; a field that cannot be read gives it no candidate (DESIGN
CHOICE, assumption log 9). -/
def readMotion (who : Asker) (ps : List Piece) (s : State) : Doing (List Byte) :=
  match (reach who .read false 0 ps s).doing s with
  | .ok qs s =>
    (match badLine s qs with
     | .good => let s := correctPieces s qs; .ok (qs.flatMap (Piece.bytes s 0)) s
     | bad => .gone (s.readBad bad who.agent who.sess (fun _ => none)))
  | .fail _ _ s => .ok [] s
  | .wait s => .wait s
  | .gone s => .gone s

/-- ENCODER_TILE_ROW (R326, R327): a tile row whose last band the encoder has taken is coded into the ring, or ends the frame
when it does not fit. -/
def execEncoderTileRow (die stream : Nat) (s : State) : Out :=
  .next (
    let t := s.stream die stream
    let who := streamAsker t.sess die stream
    let bands := min 4 (t.bandsPerFrame - 4 * t.tileRows)
    if t.state = 0 ∨ t.frameCoded = true ∨ t.coding.length < bands then s
    else
      match readMotion who (t.tileMotion bands) s with
      | .ok motion s =>
        let img := t.obus s.tick motion (t.coding.take bands).flatten
        let len := img.length
        let free := (t.bsRd.toNat + t.bsSize - t.bsWr.toNat - 1) % t.bsSize
        if free < len then
          s.setStream die stream { (t.count 9) with dropped := true, keyNext := true, coding := [] }
        else
          let first := min len (t.bsSize - t.bsWr.toNat)
          let ps := vaPieces 0 (t.bsBase + t.bsWr.toNat) first
            ++ (vaPieces 0 t.bsBase (len - first)).map (fun p => { p with pos := p.pos + first })
          let coded := fun (s : State) => s.modStream die stream (fun t =>
            { t with bsWr := BitVec.ofNat 32 ((t.bsWr.toNat + len) % t.bsSize), tileRows := t.tileRows + 1,
                     coding := t.coding.drop bands })
          (match (reach who .write false 0 ps s).doing s with
          | .ok ps s => coded (putImage 0 ps img s)
          | .fail _ _ s => coded s
          | .wait s => s
          | .gone s => s)
      | .gone s | .wait s | .fail _ _ s => s).bump

/-! ## The end of a stream (R305) -/

/-- A stream turns OFF: its program is cancelled (R106, R305), and the commands that asked for it are done. -/
def State.stopStream (s : State) (d k : Nat) : State :=
  let t := s.stream d k
  let s := s.modStream d k (fun t => { t with state := 0, stopAt := none })
  let s := if t.state = 1 then s.cancelConvoy t.convoy else s
  s.finishCommands (fun w => match w.what with
    | .streamSetStop _ v n => if v = t.sess ∧ n = k then some 0 else none
    | _ => none)

/-- STREAM_STOP_EFFECT (R305): a stop takes effect once the last band of its frame has settled. -/
def execStreamStopEffect (die stream : Nat) (s : State) : Out :=
  .next (
    let t := s.stream die stream
    match t.stopAt with
    | some n => if t.state ≠ 0 ∧ n ≤ t.lastSettled ∧ t.settled = [] then s.stopStream die stream else s
    | none => s).bump

end Sys2Proof.Machine
end

