-- ==== Sys2Proof/Machine/Manifest.lean ====
section
/-!
DEFINITION. The Manifest engine: copy-on-write breaks (R340), hashable pages and their seals (R353 to R360), the requests
of major 0x61 (R365 to R370), key revocation (R352), and their events.
-/

namespace Sys2Proof.Machine

open Sys2Proof

/-! ## Leaves and frame-map entries -/

/-- Write the 64 bits of a leaf. -/
def State.setLeaf (s : State) (l : Leaf) (e : DWord) : State := s.engineWrite l.addr (leBytes 8 e.toNat)

/-- A leaf's bits with another COW. -/
def withCow (e : DWord) (cow : Nat) : DWord := (e &&& ~~~(0x3000000000000000#64)) ||| (BitVec.ofNat 64 cow <<< 60)

/-- The level-0, S = 0 leaf of a page with the frame-map entry that serves it, both well-formed; none otherwise. -/
def State.mappedPage (s : State) (v va : Nat) : Option (Leaf × FrameMap) :=
  match s.quietLeaf v va with
  | some l =>
    let x := s.session v
    let i := entryFrame l.bits
    let m := s.word (x.fmBase + 16 * i) 16
    if l.level = 0 ∧ leafMalformed 0 l.bits = false ∧ leafCow l.bits ≠ 0 ∧ i < x.fmSize
        ∧ s.mapMalformed (leafCow l.bits) m = false then some (l, FrameMap.ofNat m)
    else none
  | none => none

/-- Drop every translation of a page, as TLBINV does (R345). -/
def State.shootdown (s : State) (v va : Nat) : State := s.invalidate v va

/-- The agent that works on a session's pages (R14): the Manifest engine of its home die. -/
def State.manifestAgent (s : State) (v : Nat) : Nat := agentId (s.session v).home 6 0

/-- The Manifest engine reads bytes of LP6 DRAM for a session: lost lines end it (R387, R388). -/
def State.manifestRead (s : State) (v a n : Nat) : Doing Unit :=
  match s.lineState a n with
  | .good => .ok () (s.readDone a n)
  | bad => .gone (s.readBad bad (s.manifestAgent v) v (fun _ => none))

/-- The state that a part of the engine's work leaves. -/
def Doing.state {α : Type} (x : Doing α) : State :=
  match x with
  | .ok _ s | .wait s | .fail _ _ s | .gone s => s

/-- A part of the engine's work for each element of a list. -/
def forEach {α : Type} (l : List α) (f : α → State → Doing Unit) (s : State) : Doing Unit :=
  l.foldl (fun x a => x.bind (fun _ s => f a s)) (.ok () s)

/-- The engine reads whole frames for a session; host memory has no lines of the part. -/
def State.readFrames (s : State) (v : Nat) (fs : List Nat) : Doing Unit :=
  forEach (fs.filter (fun f => decide (f < 2 ^ 28))) (fun f s => s.manifestRead v (f * 4096) 4096) s

/-- Copy bytes as the engine does: what the race detector keeps of the session's own accesses comes with them; another
session's do not (R69, R79). -/
def State.copyFor (s : State) (v src dst n : Nat) : Doing Unit :=
  (s.manifestRead v src n).bind (fun _ s =>
    let mine := fun (r : Release) => r.party.sess == v
    let place := fun (g : Nat) => dst / 4 + (g - src / 4)
    let own := (inRange s.accesses (src / 4) (n / 4)).filterMap (fun e =>
      let l := e.2.filter (fun (a : Access) => a.party.sess == v)
      if l = [] then none else some (place e.1, l))
    let rels := (inRange s.syncs (src / 4) (n / 4)).map (fun e =>
      (place e.1, ({ rels := e.2.rels.filter mine,
                     bytes := e.2.bytes.filterMap (fun b => let l := b.2.filter mine; if l = [] then none else some (b.1, l)) } :
        SyncCell)))
    .ok () { s.copyPlain src dst n with
          accesses := own.foldl (fun t e => tput e.1 e.2 t) (clearRange s.accesses (dst / 4) (n / 4)),
          syncs := rels.foldl (fun t e => tset t e.1 e.2) (clearRange s.syncs (dst / 4) (n / 4)) })

/-! ## Copy-on-write breaks (R340) -/

/-- The break of a patch: private frame, copy, mask, leaf, invalidation, release of what waits. None while no frame is
free. -/
def State.breakPatch (s : State) (v va : Nat) (l : Leaf) (m : FrameMap) : Option (Doing Unit) :=
  let g := bitsOf va 11 10
  let frame := if m.mask = 0 then s.allocFrame (s.session v).home 3 v else some (m.pframe, s)
  frame.map (fun fs =>
    (fs.2.copyFor v (m.sframe * 4096 + 1024 * g) (fs.1 * 4096 + 1024 * g) 1024).bind (fun _ s =>
      let s := s.setFrameMap v (entryFrame l.bits) { m with pframe := fs.1, mask := m.mask ||| (1#4 <<< g) }
      let s := if leafCow l.bits = 2 then s.setLeaf l (withCow l.bits 3) else s
      .ok () (s.shootdown v va)))

/-- COW_BREAK (R340): the patch of an address for which a break was asked. -/
def execCowBreak (sess va : Nat) (s : State) : Out :=
  .next (
    if (s.session sess).breaks.contains (va / 1024) then
      let release := fun (s : State) => s.modSession sess (fun x => { x with breaks := x.breaks.filter (fun p => p != va / 1024) })
      match s.mappedPage sess va with
      | some (l, m) =>
        if leafCow l.bits = 1 ∨ m.mask.getLsbD (bitsOf va 11 10) = true then release s
        else
          (match s.breakPatch sess va l m with
           | some (.ok _ t) => release t
           | some t => t.state
           | none => s)
      | none => release s
    else s).bump

/-! ## Hashable pages (R353) -/

/-- The lowest frame-map index that is not in use. -/
def State.freeIndex (s : State) (v : Nat) : Option Nat := (List.range (s.session v).fmSize).find? (fun i => !(s.frameMap v i).v)

/-- The DIRECT leaf that adoption applies to. -/
def State.adoptable (s : State) (v va : Nat) : Option Leaf :=
  match s.quietLeaf v va with
  | some l =>
    let f := entryFrame l.bits
    if l.level = 0 ∧ leafMalformed 0 l.bits = false ∧ leafCow l.bits = 0 ∧ leafSpan l.bits = false ∧ l.bits.getLsbD 10 = true
        ∧ f < 2 ^ 28 ∧ s.frameKind f = 3 ∧ s.frameOwner f = v then some l
    else none
  | none => none

/-- A leaf's page gets a frame-map entry: index, entry, leaf with COW 1 and H set or kept (R353, R361). -/
def State.adoptLeaf (s : State) (v va : Nat) (l : Leaf) (setH : Bool) : Option State :=
  (s.freeIndex v).map (fun i =>
    let s := s.setFrameMap v i { (default : FrameMap) with v := true, pframe := entryFrame l.bits }
    let e := (l.bits &&& ~~~(0x0000FFFFFFFFF000#64)) ||| (BitVec.ofNat 64 i <<< 12)
    let s := s.setLeaf l (withCow (if setH then e ||| (1#64 <<< 59) else e) 1)
    let s := s.modSession v (fun x => x.notePage i (va / 4096))
    s.shootdown v va)

/-- Adoption of a page, where R353 allows it. -/
def State.adopt (s : State) (v va : Nat) : State :=
  match s.adoptable v va with
  | some l => (s.adoptLeaf v va l true).getD s
  | none => s

/-! ## Seals (R357 to R359) -/

/-- May a page be sealed now: OWN or PATCHED, hashable, and no seal of it in progress? -/
def State.sealable (s : State) (v va : Nat) : Option (Leaf × FrameMap) :=
  match s.mappedPage v va with
  | some (l, m) =>
    if leafHash l.bits && leafCow l.bits != 2 && !m.sealed && !(s.session v).seals.any (fun (e : Seal) => e.va == va) then
      some (l, m)
    else none
  | none => none

/-- A seal starts: SEALED, and the shootdown (R357). -/
def State.startSeal (s : State) (v va : Nat) (req : Option Nat) : Option State :=
  (s.sealable v va).map (fun lm =>
    let i := entryFrame lm.1.bits
    let s := s.setFrameMap v i { lm.2 with sealed := true }
    let e : Seal := { va := va, index := i, leaf := lm.1.bits, state := 1, digest := 0, way := none, merge := false, req := req, wanted := false }
    (s.modSession v (fun x => { x with seals := x.seals ++ [e] })).shootdown v va)

/-- Consolidate a PATCHED page: the unbroken patches of SFRAME come into PFRAME, and the page becomes OWN (R357). -/
def State.consolidate (s : State) (v va : Nat) (l : Leaf) (m : FrameMap) : Doing Unit :=
  if leafCow l.bits ≠ 3 then .ok () s
  else
    (forEach ((List.range 4).filter (fun g => !m.mask.getLsbD g)) (fun g s =>
        s.copyFor v (m.sframe * 4096 + 1024 * g) (m.pframe * 4096 + 1024 * g) 1024) s).bind (fun _ s =>
        let s := s.setFrameMap v (entryFrame l.bits) { m with mask := 0, sframe := 0 }
        let s := s.setLeaf l (withCow l.bits 1)
        .ok () ((s.lowerRef m.sframe).shootdown v va))

/-- The digest of a frame's page, hashed on a die (R355). -/
def State.digestOf (s : State) (d title f : Nat) : BitVec 128 :=
  let x := s.die d
  if x.mfForce then x.mfDhi ++ x.mfDlo
  else
    match shake256 (BitVec.ofNat 8 title :: readBytes s.mem (f * 4096) 4096) with
    | lo :: hi :: _ => hi ++ lo
    | _ => 0

/-- The bucket of a digest (R355). -/
def bucketOf (digest : BitVec 128) : Nat := (digest.extractLsb' 0 20).toNat

/-- Way w of a bucket, at its home die (R354). -/
def State.wayAt (s : State) (bucket w : Nat) : Option DirEntry := tfind (4 * bucket + w) (s.die (bucket / 2 ^ 18)).directory

/-- The frames that a lookup compares a page with: those of the bucket's ways of its title and digest (R357). -/
def State.candidates (s : State) (title : Nat) (digest : BitVec 128) : List Nat :=
  (List.range 4).filterMap (fun w => (s.wayAt (bucketOf digest) w).bind (fun e =>
    if e.title = title ∧ e.digest = digest then some e.frame else none))

/-- The first way of a bucket that passes a test of its frame and holds an equal page (R357). -/
def State.equalWay (s : State) (title : Nat) (digest : BitVec 128) (f : Nat) (test : Nat → Bool) : Option Nat :=
  (List.range 4).find? (fun w =>
    match s.wayAt (bucketOf digest) w with
    | some e => e.title == title && e.digest == digest && test e.frame
        && readBytes s.mem (e.frame * 4096) 4096 == readBytes s.mem (f * 4096) 4096
    | none => false)

/-- The first free way of a bucket. -/
def State.freeWay (s : State) (bucket : Nat) : Option Nat := (List.range 4).find? (fun w => (s.wayAt bucket w).isNone)

/-- Change seal n of a session. -/
def State.modSeal (s : State) (v n : Nat) (f : Seal → Seal) : State :=
  s.modSession v (fun x => { x with seals := x.seals.mapIdx (fun j e => if j = n then f e else e) })

/-- Take seal n of a session out; a bucket it held is released. -/
def State.dropSeal (s : State) (v n : Nat) : State :=
  (s.modSession v (fun x => { x with seals := x.seals.eraseIdx n })).removeUnused

/-- Has software written a leaf: is anything changed but COW, which the engine writes, and A and D, which it and the walk
set (R359)? -/
def leafTouched (was now : DWord) : Bool :=
  ((was ^^^ now) &&& ~~~(0x3300000000000000#64)) != 0 || (was &&& ~~~now &&& 0x0300000000000000#64) != 0

/-- The page of a seal as the tables now stand, when software has not written the leaf and it still names the entry as an OWN
or PATCHED page. -/
def State.sealPage (s : State) (v : Nat) (e : Seal) : Option (Leaf × FrameMap) :=
  match s.mappedPage v e.va with
  | some (l, m) => if leafTouched e.leaf l.bits = false ∧ leafCow l.bits ≠ 2 ∧ m.sealed = true then some (l, m) else none
  | none => none

/-- The entry of a seal is UNSEALED again; the leaf stays as it is (R357, R359). -/
def State.unseal (s : State) (v : Nat) (e : Seal) : State :=
  let m := s.frameMap v e.index
  (if m.v && m.sealed then s.setFrameMap v e.index { m with sealed := false } else s).shootdown v e.va

/-- A page takes a title frame in the place of its own: entry, leaf, invalidation (R358). -/
def State.shareAs (s : State) (v va : Nat) (l : Leaf) (f : Nat) : State :=
  let s := s.setFrameMap v (entryFrame l.bits) { (default : FrameMap) with v := true, sframe := f }
  (s.setLeaf l (withCow l.bits 2)).shootdown v va

/-- A session's frame becomes a title's, with a count of 1 (R358, R361). -/
def State.giveToTitle (s : State) (t f : Nat) (listed : Bool) : State :=
  let s := (s.setFrame f 2 t).moveRecords f f
  { s with refs := tset s.refs f { ref := 1, listed := listed } }

/-! ## Requests (R366 to R368) -/

/-- The session's frame that a write at an address would use, with the leaf, or the base entry of a span group, whose D bit
reports it (R368). -/
def State.harvestFrame (s : State) (v va : Nat) : Option (Nat × Leaf) :=
  let mine := fun (f : Nat) => decide (f < 2 ^ 28) && s.frameKind f == 3 && s.frameOwner f == v
  (match s.quietLeaf v va with
  | none => none
  | some l =>
    if leafMalformed l.level l.bits then none
    else if leafCow l.bits = 0 then
      some (entryFrame l.bits + va / 4096 % (leafSize l.level (l.level == 0 && leafSpan l.bits) / 4096), l)
    else match s.mappedPage v va with
      | some (_, m) =>
        if leafCow l.bits = 1 ∨ (leafCow l.bits = 3 ∧ m.mask.getLsbD (bitsOf va 11 10) = true) then some (m.pframe, l)
        else none
      | none => none).filter (fun e => mine e.1)

/-- MHARV's visit of one page (R368). -/
def State.harvest (s : State) (v va : Nat) : State :=
  match s.harvestFrame v va with
  | none => s
  | some (f, l) =>
    let g := tget s.grants f
    let s := { s with grants := tset s.grants f (g &&& ~~~(1#2)) }
    if g.getLsbD 0 then s.engineWrite (l.addr + 7) [s.byte (l.addr + 7) ||| 1] else s

/-- The pages of a request, from its next one on, until a seal of one starts (R367, R368). -/
def State.visitPages (s : State) (v : Nat) (r : ManifestReq) : Nat → Nat → State × Nat
  | 0, k => (s, k)
  | fuel + 1, k =>
    if r.count ≤ k then (s, k)
    else
      let va := r.va + 4096 * k
      if !r.isSeal then (s.harvest v va).visitPages v r fuel (k + 1)
      else
        let s := s.adopt v va
        if r.keep then s.visitPages v r fuel (k + 1)
        else match s.startSeal v va (some r.number) with
          | some t => (t, k + 1)
          | none => s.visitPages v r fuel (k + 1)

/-- The oldest request of a session goes on, unless a seal of it is in progress; an MSEAL waits while the session moves
(R359, R366). -/
def State.advanceRequests (s : State) (v : Nat) : State :=
  let x := s.session v
  match x.mReqs with
  | [] => s
  | r :: rest =>
    if x.seals.any (fun (e : Seal) => e.req == some r.number) || (r.isSeal && x.state == .moving) then s
    else
      let (s, k) := s.visitPages v r (r.count - r.next) r.next
      s.modSession v (fun x => { x with mReqs := { r with next := k } :: rest })

/-- MANIFEST_REQUEST_COMPLETE (R366): the oldest request has reached the end of its range: the class-5 counter advances. -/
def execManifestRequestComplete (sess : Nat) (s : State) : Out :=
  .next (
    let s := s.advanceRequests sess
    let x := s.session sess
    match x.mReqs with
    | [] => s
    | r :: rest =>
      if r.next < r.count ∨ x.seals.any (fun (e : Seal) => e.req == some r.number) = true then s
      else
        let rel := (sessionParty s sess (s.manifestAgent sess)).release 12 r.clk
        (s.setSession sess { x with mReqs := rest, mCounter := BitVec.ofNat 64 r.number,
                                    mEnds := addEnd x.mEnds r.number rel }).advanceRequests sess).bump

/-! ## Events of a seal -/

/-- SEAL_HASH (R357): the page is consolidated if it is PATCHED, and hashed. -/
def execSealHash (sess n : Nat) (s : State) : Out :=
  .next (match (s.session sess).seals[n]? with
    | none => s
    | some e =>
      if e.state ≠ 1 ∨ e.wanted = true then s
      else match s.sealPage sess e with
        | none => ((s.unseal sess e).dropSeal sess n).advanceRequests sess
        | some (l, m) =>
          (((s.consolidate sess e.va l m).bind (fun _ s => s.manifestRead sess (m.pframe * 4096) 4096)).bind (fun _ s =>
            let digest := s.digestOf (s.session sess).home (s.session sess).title m.pframe
            .ok () (s.modSeal sess n (fun e => { e with state := 2, digest := digest })))).state).bump

/-- SEAL_LOOKUP (R357): the bucket's home die holds the bucket and compares the page with its ways. -/
def execSealLookup (sess n : Nat) (s : State) : Out :=
  .next (match (s.session sess).seals[n]? with
    | none => s
    | some e =>
      let bucket := bucketOf e.digest
      let held := s.sessions.any (fun x => x.2.seals.any (fun (y : Seal) => y.state == 3 && bucketOf y.digest == bucket))
      if e.state ≠ 2 ∨ e.wanted = true ∨ held = true then s
      else
        let f := (s.frameMap sess e.index).pframe
        let title := (s.session sess).title
        ((s.readFrames sess (f :: s.candidates title e.digest)).bind (fun _ s =>
            let eq := s.equalWay title e.digest f (fun _ => true)
            .ok () (s.modSeal sess n (fun e =>
              { e with state := 3, way := eq.orElse (fun _ => s.freeWay bucket), merge := eq.isSome })))).state).bump

/-- What a commit does with the page (R358). -/
def State.commitSeal (s : State) (v : Nat) (e : Seal) (l : Leaf) (m : FrameMap) : State :=
  let title := (s.session v).title
  let bucket := bucketOf e.digest
  match e.way with
  | none => s.unseal v e
  | some w =>
    if e.merge then
      match s.wayAt bucket w with
      | some d => (((s.raiseRef d.frame).moveRecords m.pframe d.frame).shareAs v e.va l d.frame).freeFrame m.pframe
      | none => s.unseal v e
    else
      let s := s.giveToTitle title m.pframe true
      let d := bucket / 2 ^ 18
      let x := s.die d
      let listed : DirEntry := { title := title, frame := m.pframe, digest := e.digest }
      let s := s.setDie d { x with directory := tput (4 * bucket + w) listed x.directory }
      s.shareAs v e.va l m.pframe

/-- SEAL_COMMIT (R358): the page merges, is listed or stays unlisted; a leaf that software has rewritten stays as it is
(R359). -/
def execSealCommit (sess n : Nat) (s : State) : Out :=
  .next (match (s.session sess).seals[n]? with
    | none => s
    | some e =>
      if e.state ≠ 3 ∨ e.wanted = true then s
      else
        let s := match s.sealPage sess e with
          | some (l, m) => s.commitSeal sess e l m
          | none => s.unseal sess e
        (s.dropSeal sess n).advanceRequests sess).bump

/-- SEAL_ABORT (R359): a write to the page waits; the entry returns to UNSEALED, and the write goes on. -/
def execSealAbort (sess n : Nat) (s : State) : Out :=
  .next (match (s.session sess).seals[n]? with
    | none => s
    | some e =>
      if e.wanted then ((s.unseal sess e).dropSeal sess n).advanceRequests sess else s).bump

/-- QUIESCENCE_VISIT (R360): the detector visits a page of a session with the quiescence option. -/
def execQuiescenceVisit (sess va : Nat) (s : State) : Out :=
  .next (
    let x := s.session sess
    let page := va / 4096 * 4096
    if x.quiescence = false ∨ (x.state ≠ .live ∧ x.state ≠ .build) then s
    else match s.sealable sess page with
      | none => s
      | some (_, m) =>
        let g := tget s.grants m.pframe
        if g.getLsbD 1 then { s with grants := tset s.grants m.pframe (g &&& ~~~(2#2)) }
        else (s.startSeal sess page none).getD s).bump

/-! ## Major 0x61 (R365 to R370) -/

/-- The first operand that R365 refuses, in its order: A's low bits, B's fields, the range. -/
def manifestFault (a b : Nat) (badB : Bool) (range : Bool) : Option Nat :=
  if a % 4096 ≠ 0 then some a else if badB then some b else if range then some a else none

/-- An instruction of major 0x61 (R365). -/
def manifestOp (fn : BitVec 3) (d a b : BitVec 7) (body : Ctx → Nat → Nat → State → Eff) (s : State) : Out :=
  issue (packReg 0x61 d a b 0 fn)
    { uses := [(1, d, .dst false true false), (2, a, .src false false), (3, b, .src false false)], uniform := true }
    (fun x s =>
      if x.act = 0 then .ok s
      else body x (src1 x a (lowest x.act)).toNat (src1 x b (lowest x.act)).toNat s) s

/-- Write D for every active lane. -/
def manifestResult (x : Ctx) (d : BitVec 7) (v : DWord) (s : State) : State :=
  s.modConsist x.key (fun c => putResult s c x.st d false false (lanesOf x.act) (fun _ => v))

/-- MSEAL and MHARV share all but the width of the count and what they ask for. -/
def manifestRequest (fn : BitVec 3) (isSeal : Bool) (d a b : BitVec 7) (s : State) : Out :=
  manifestOp fn d a b (fun x va ctl s =>
    let bits := if isSeal then 10 else 20
    let count := ctl % 2 ^ bits + 1
    match manifestFault va ctl (decide ((if isSeal then 2048 else 2 ^ 20) ≤ ctl)) (decide (2 ^ 60 < va + 4096 * count)) with
    | some bad => .trapIn s .bounds (boundsValue 7 bad)
    | none =>
      let v := x.c.sess
      let y := s.session v
      if s.logged x.key || decide (64 ≤ y.mReqs.length) then .wait s
      else
        let n := y.mIssued + 1
        let r : ManifestReq := { number := n, isSeal := isSeal, va := va, count := count,
                                 keep := isSeal && ctl / 1024 % 2 == 1, next := 0,
                                 clk := s.seenBy x.c.uid .a (lanesOf x.act) }
        let s := s.setSession v { y with mIssued := n, mReqs := y.mReqs ++ [r] }
        let s := if y.mReqs = [] then s.advanceRequests v else s
        .ok (manifestResult x d (BitVec.ofNat 64 n) s)) s

/-- MSEAL (R366, R367). -/
def execMseal (d a b : BitVec 7) (s : State) : Out := manifestRequest 0 true d a b s

/-- MHARV (R366, R368). -/
def execMharv (d a b : BitVec 7) (s : State) : Out := manifestRequest 1 false d a b s

/-- MQUERY's value of a selector (R369). -/
def State.query (s : State) (v va sel : Nat) : Nat :=
  let leaf := (s.quietLeaf v va).filter (fun l => !leafMalformed l.level l.bits)
  let m := s.mappedPage v va
  match sel with
  | 1 => (m.map (fun e => e.2.sframe)).getD 0
  | 2 => (m.map (fun e => e.2.pframe)).getD 0
  | _ =>
    match leaf with
    | none => 0
    | some l =>
      let h := if leafHash l.bits then 2 ^ 12 else 0
      2 ^ 10 + h + leafCow l.bits * 2 ^ 14 +
        (match m with
         | some (_, e) =>
           let ref := if s.namesShared v e then min (tget s.refs e.sframe).ref.toNat 65535 else 0
           ref * 2 ^ 24 + e.mask.toNat * 2 ^ 16 + (if e.sealed then 2 ^ 13 else 0) + 2 ^ 11
         | none => 0)

/-- MQUERY (R369). -/
def execMquery (d a b : BitVec 7) (s : State) : Out :=
  manifestOp 2 d a b (fun x va sel s =>
    match manifestFault va sel (decide (2 < sel)) (decide (2 ^ 60 < va + 4096)) with
    | some bad => .trapIn s .bounds (boundsValue 7 bad)
    | none => .ok (manifestResult x d (BitVec.ofNat 64 (s.query x.c.sess va sel)) s)) s

/-- MRETIRE's result: the frames that are KIND 5, and those on the list (R370). -/
def State.retireMask (s : State) (f n : Nat) : Nat :=
  (List.range n).foldl (fun m j =>
    m + (if s.frameKind (f + j) = 5 then 2 ^ j else 0)
      + (if (s.die (frameDie (f + j))).retire.contains (f + j) then 2 ^ (16 + j) else 0)) 0

/-- MRETIRE (R370). -/
def execMretire (d a b : BitVec 7) (s : State) : Out :=
  manifestOp 3 d a b (fun x f ctl s =>
    let n := ctl + 1
    let bad := if 16 ≤ ctl then some ctl else if 2 ^ 28 < f + n then some f else none
    match bad with
    | some v => .trapIn s .bounds (boundsValue 7 v)
    | none =>
      let s := (List.range n).foldl (fun (s : State) j => s.retireFrame (f + j)) s
      .ok (manifestResult x d (BitVec.ofNat 64 (s.retireMask f n)) s)) s

/-! ## Key slots (R350, R352) -/

/-- State of a key slot of a die: 0 EMPTY, 1 LOADED, 2 REVOKING. -/
def State.slotState (s : State) (d k : Nat) : Nat := (tget (s.die d).slots k).state

/-- The frames that the world of a slot holds on a die. -/
def State.worldFrames (s : State) (d k : Nat) : List Nat :=
  if k = 0 then s.framesOf d 1 0
  else if k ≤ 64 then s.framesOf d 2 (k - 1)
  else s.framesOf d 3 (k - 65) ++ s.framesOf d 4 (k - 65)

/-- A revocation of a LOADED slot starts (R352): forced, its world's frames on the die are poisoned and scrubbed. -/
def State.revoke (s : State) (d k : Nat) (forced : Bool) : State :=
  if s.slotState d k ≠ 1 then s
  else
    let x := s.die d
    let s := s.setDie d { x with slots := tset x.slots k { tget x.slots k with state := 2, forced := forced } }
    if forced then (s.worldFrames d k).foldl (fun (s : State) f => s.zeroFrame f) s else s

/-- Memory of a frame whose key is gone: no byte is known (DESIGN CHOICE, assumption log 31). -/
def State.scramble (s : State) (f : Nat) : State :=
  { s with mem := writeBytes s.mem (f * 4096) ((List.range 4096).map (fun j => Config.freeByte s.tick (f * 4096 + j))) }

/-- KEY_REVOKE_COMPLETE (R352): the sweep ends, the slot is EMPTY and its key erased. Frames that its world still holds on
the die, after a KEY_DROP, can no longer be opened. -/
def execKeyRevokeComplete (die slot : Nat) (s : State) : Out :=
  .next (if s.slotState die slot ≠ 2 then s
    else
      let x := s.die die
      let s' := (s.setDie die { x with slots := tdel slot x.slots }).finishCommands (fun w => match w.what with
        | .keyDrop _ k d => if k = slot ∧ d = die then some 0 else none
        | _ => none)
      if (tget x.slots slot).forced || (65 ≤ slot && (s.session (slot - 65)).state == .ending) then s'
      else (s.worldFrames die slot).foldl State.scramble s').bump

end Sys2Proof.Machine
end

