-- ==== Sys2Proof/Machine/Session.lean ====
section
/-!
DEFINITION. The life of a session (R16 to R23): partitions (R285), SESS_NEW, slips (R362), parking (R361), transfers (R363,
R364) and SESS_END (R23), with the events that complete them.
-/

namespace Sys2Proof.Machine

open Sys2Proof

/-- What a command answers: a status, or none while it is in progress. -/
abbrev Answer := State × Option Nat

/-! ## Partitions (R285, R380) -/

/-- The bank in use and the inactive bank. -/
def Die.activeBank (x : Die) : Table Nat := if x.active1 then x.bank1 else x.bank0
/-- See `Die.activeBank`. -/
def Die.nextBank (x : Die) : Table Nat := if x.active1 then x.bank0 else x.bank1

/-- Write the inactive bank; a flip is due when it differs from the one in use (R285). -/
def Die.plan (x : Die) (b : Table Nat) : Die :=
  let due := decide (b ≠ x.activeBank)
  if x.active1 then { x with bank0 := b, flip := due } else { x with bank1 := b, flip := due }

/-- Is a router of the die retired (R394)? -/
def Die.routerGone (x : Die) (v : Nat) : Bool := (tget x.routers v).state == 3

/-- Is a core cut off from the units beneath it (R394)? -/
def Die.cutOff (x : Die) (i : Nat) : Bool := x.routerGone i && x.routerGone (i ^^^ 1)

/-- Cores of a die that no session has or will have, in the order the Signal box gives them (R380: its choice). -/
def State.freeCores (s : State) (d : Nat) : List Nat :=
  let x := s.die d
  ((List.range 64).map (fun j => (Config.corePick s.tick + j) % 64)).filter (fun i =>
    tget x.activeBank i == 0 && tget x.nextBank i == 0 && !x.cutOff i)

/-- Give a session n cores of a die in all, in the inactive bank; none when too few are free (R285, R380). -/
def State.grant (s : State) (d v n : Nat) : Option State :=
  let x := s.die d
  let mine := (x.nextBank.filter (fun e => e.2 == v + 1)).map (fun e => e.1)
  if n ≤ mine.length then
    some (s.setDie d (x.plan ((mine.drop n).foldl (fun t i => tdel i t) x.nextBank)))
  else
    let more := (s.freeCores d).take (n - mine.length)
    if more.length < n - mine.length then none
    else some (s.setDie d (x.plan (more.foldl (fun t i => tput i (v + 1) t) x.nextBank)))

/-! ## Frames of a session (R347) -/

/-- Allocate a run of n zeroed frames of a die, aligned where n is a power of two; a run of none takes none. -/
def State.allocRun (s : State) (d n kind owner : Nat) : Option (Nat × State) :=
  if n = 0 then some (0, s)
  else (if n = 2 ^ n.log2 then s.pickRun d n else s.pickSpan d n).map (fun f =>
    (f, (List.range n).foldl (fun (s : State) j => (s.zeroFrame (f + j)).setFrame (f + j) kind owner) s))

/-- Frames that a number of bytes take. -/
def framesFor (n : Nat) : Nat := (n + 4095) / 4096

/-- Frames of a frame map and of a fault ring (R336, R341). -/
def mapFrames (fmSize : Nat) : Nat := framesFor (16 * fmSize)
/-- See `mapFrames`. -/
def ringFrames (frSize : Nat) : Nat := framesFor (64 + 16 * frSize)

/-- Allocate the frames that hold the sidings (R274). -/
def State.allocSidings (s : State) (d v : Nat) (depths : List Nat) : Option State :=
  (s.allocFrames d 3 v (depths.map (fun n => framesFor (32 * n))).sum).map (fun r => r.2)

/-- Load the slots of a title on all four dies, where they are EMPTY (R350). -/
def State.loadTitle (s : State) (t : Nat) : State :=
  (List.range 4).foldl (fun (s : State) d =>
    if s.slotState d (1 + t) ≠ 0 then s
    else
      let x := s.die d
      let slot : KeySlot := { state := 1, forced := false, key := 0 }
      s.setDie d { x with slots := tput (1 + t) slot x.slots }) s

/-! ## SESS_NEW (R17, R380) -/

/-- Are the operands in range (R16, R274, R277, R331, R341, R375, R380)? -/
def sessNewValid (o : SessNewOps) : Bool :=
  decide (o.sess ≤ 255) && decide (o.title ≤ 63) && decide (o.die ≤ 3) && decide (1 ≤ o.cores) && decide (o.cores ≤ 64)
    && decide (6 ≤ o.qk) && decide (o.qk ≤ 16) && o.sqBase.extractLsb' 0 12 == 0 && o.cqBase.extractLsb' 0 12 == 0
    && o.depths.length == 16 && o.depths.all (fun n => decide (64 ≤ n) && decide (n ≤ 65536))
    && o.classes.length == 16 && o.classes.all (fun n => decide (n ≤ 3))
    && decide (1 ≤ o.weight) && decide (o.weight ≤ 255) && decide (o.fmSize ≤ 2 ^ 36)
    && decide (1 ≤ o.frSize) && decide (o.frSize ≤ 65536) && decide (o.windows.length ≤ 16)
    && o.windows.all (fun w => w.1 % 4096 == 0 && w.2.1 % 4096 == 0)

/-- A session identifier is taken: not FREE, or a slip into it is in progress. -/
def Session.taken (x : Session) : Bool := x.state != .free || x.slipping.isSome

/-- SESS_NEW: done once the session has its cores, which a flip gives it (R285, R379). -/
def doSessNew (o : SessNewOps) (s : State) : Answer :=
  if !sessNewValid o then (s, some 2)
  else if (s.session o.sess).taken then (s, some 1)
  else if s.slotState o.die (65 + o.sess) ≠ 1 then (s, some 2)
  else
    let made := (s.grant o.die o.sess o.cores).bind (fun s =>
      (s.allocRun o.die 8 3 o.sess).bind (fun root =>
        (root.2.allocRun o.die (mapFrames o.fmSize) 4 o.sess).bind (fun fm =>
          (fm.2.allocRun o.die (ringFrames o.frSize) 3 o.sess).bind (fun fr =>
            (fr.2.allocSidings o.die o.sess o.depths).map (fun s => (s, root.1, fm.1, fr.1))))))
    match made with
    | none => (s, some 3)
    | some (t, root, fm, fr) =>
      let x : Session :=
        { (default : Session) with
          state := if o.depot then .build else .live, title := o.title, home := o.die, depotOpt := o.depot,
          quiescence := o.quiescence, maintenance := o.maintenance, weight := o.weight, root := root * 4096,
          fmBase := fm * 4096, fmSize := o.fmSize, frBase := fr * 4096, frSize := o.frSize, windows := o.windows,
          depths := o.depths, classes := o.classes }
      let queue : CmdQueue :=
        { sqBase := o.sqBase, cqBase := o.cqBase, sqTail := 0, sqHead := 0, cqTail := 0, stopped := false, qk := o.qk,
          torn := 0, msix := 0, busy := false }
      let t := ((t.setSession o.sess x).setQueue o.sess queue).loadTitle o.title
      (t, if (t.die o.die).flip then none else some 0)

/-! ## Copies of a session's tables (R362, R363) -/

/-- The tables of a session under one of a level, each as its level and first frame. -/
def State.tablesUnder (s : State) (v : Nat) : Nat → Nat → List (Nat × Nat)
  | 0, f => [(0, f)]
  | level + 1, f =>
    (level + 1, f) :: (List.range (if level + 1 = 4 then 4096 else 512)).flatMap (fun i =>
      let e := BitVec.ofNat 64 (s.word (f * 4096 + 8 * i) 8)
      let g := entryFrame e
      if e.getLsbD 63 && !(decide (level + 1 ≤ 2) && e.getLsbD 11) && isTableEntry e && decide (g < 2 ^ 28)
          && s.tableFrameOk v g then s.tablesUnder v level g else [])

/-- Every table of a session. -/
def State.tables (s : State) (v : Nat) : List (Nat × Nat) := (s.tablesUnder v 4 ((s.session v).root / 4096)).eraseDups

/-- Frames and entries of a table of a level (R332). -/
def tableFrames (level : Nat) : Nat := if level = 4 then 8 else 1

/-- Copy a run of frames into new ones; what the race detector keeps comes along when they stay the session's own. -/
def State.cloneRun (s : State) (own : Bool) (d kind v f n : Nat) : Option (Nat × State) :=
  (s.allocRun d n kind v).map (fun r =>
    (r.1, if own then r.2.copyBytes (f * 4096) (r.1 * 4096) (4096 * n) else r.2.copyPlain (f * 4096) (r.1 * 4096) (4096 * n)))

/-- Copy tables, with the list of the copies' frames by the frames they are copies of. -/
def State.cloneTables (s : State) (own : Bool) (d v : Nat) :
    List (Nat × Nat) → List (Nat × Nat) → Option (List (Nat × Nat) × State)
  | [], map => some (map, s)
  | (level, f) :: ts, map =>
    match s.cloneRun own d 3 v f (tableFrames level) with
    | none => none
    | some (g, s) => s.cloneTables own d v ts (map ++ (List.range (tableFrames level)).map (fun j => (f + j, g + j)))

/-- An entry with another FRAME. -/
def withFrame (e : DWord) (f : Nat) : DWord := (e &&& ~~~(0x0000FFFFFFFFF000#64)) ||| (BitVec.ofNat 64 f <<< 12)

/-- The copy of a frame. -/
def copyOf (map : List (Nat × Nat)) (f : Nat) : Option Nat := (map.find? (fun e => e.1 == f)).map (fun e => e.2)

/-- In a copied table, every entry that names a copied frame names the copy: table entries, and DIRECT leaves of 4 KiB
through which software reaches its own tables. -/
def State.renameTable (s : State) (map : List (Nat × Nat)) (level f : Nat) : State :=
  (List.range (512 * tableFrames level)).foldl (fun (s : State) i =>
    let a := f * 4096 + 8 * i
    let e := BitVec.ofNat 64 (s.word a 8)
    let table := decide (1 ≤ level) && !(decide (level ≤ 2) && e.getLsbD 11)
    let page := level == 0 && leafCow e == 0 && !leafSpan e
    match copyOf map (entryFrame e) with
    | some g => if e.getLsbD 63 && (table || page) then s.engineWrite a (leBytes 8 (withFrame e g).toNat) else s
    | none => s) s

/-- The frames of a session's tables, frame map and fault ring. -/
def State.tableRun (s : State) (v : Nat) : List Nat :=
  let x := s.session v
  let run := fun (a n : Nat) => (List.range n).map (fun j => a / 4096 + j)
  (s.tables v).flatMap (fun e => (List.range (tableFrames e.1)).map (fun j => e.2 + j))
    ++ run x.fmBase (mapFrames x.fmSize) ++ run x.frBase (ringFrames x.frSize)

/-- Copy the tables, frame map and fault ring of a session for a session on a die: the copies' places. -/
def State.cloneSession (s : State) (own : Bool) (src v d : Nat) : Option (State × Nat × Nat × Nat) :=
  let x := s.session src
  let ts := s.tables src
  (s.cloneTables own d v ts []).bind (fun t =>
    (t.2.cloneRun own d 4 v (x.fmBase / 4096) (mapFrames x.fmSize)).bind (fun fm =>
      (fm.2.cloneRun own d 3 v (x.frBase / 4096) (ringFrames x.frSize)).map (fun fr =>
        let map := t.1 ++ (List.range (ringFrames x.frSize)).map (fun j => (x.frBase / 4096 + j, fr.1 + j))
        let s := ts.foldl (fun (s : State) e => s.renameTable map e.1 ((copyOf map e.2).getD 0)) fr.2
        (s, (copyOf map (x.root / 4096)).getD 0, fm.1, fr.1))))

/-! ## Slips (R19, R362) -/

/-- Is a slip from a depot in progress? -/
def State.slipping (s : State) (depot : Nat) : Bool :=
  s.sessions.any (fun e => e.2.slipping.isSome && e.2.slipOf == some depot)

/-- SESS_SLIP. -/
def doSessSlip (source sess die cores : Nat) (s : State) : Answer :=
  if 255 < source ∨ 255 < sess ∨ 3 < die ∨ cores = 0 ∨ 64 < cores then (s, some 2)
  else if (s.session source).state ≠ SessState.depot ∨ (s.session sess).taken = true
      ∨ s.commands.any (fun w => isEnding w.what && commandSession w.what == some source) = true then (s, some 1)
  else if s.slotState die (65 + sess) ≠ 1 then (s, some 2)
  else if (s.grant die sess cores).isNone then (s, some 3)
  else
    let x := s.session source
    (s.setSession sess { (default : Session) with title := x.title, slipOf := some source, slipping := some (die, cores) },
      none)

/-- The new session of a slip (R19, R362). -/
def State.slip (s : State) (source sess die cores : Nat) : Option State :=
  let x := s.session source
  (s.grant die sess cores).bind (fun s =>
    (s.cloneSession false source sess die).bind (fun c =>
      (c.1.allocSidings die sess x.depths).map (fun s =>
        let layouts := x.freight.filterMap (fun e =>
          if e.2.layouts = [] then none else some (e.1, { (default : FreightCtx) with layouts := e.2.layouts }))
        let y : Session :=
          { (default : Session) with
            state := .live, title := x.title, home := die, quiescence := x.quiescence, maintenance := x.maintenance,
            weight := x.weight, root := c.2.1 * 4096, fmBase := c.2.2.1 * 4096, fmSize := x.fmSize,
            frBase := c.2.2.2 * 4096, frSize := x.frSize, fmPages := x.fmPages, windows := x.windows,
            sidings := x.sidings, depths := x.depths, classes := x.classes, freight := layouts, measured := x.measured,
            soft := x.soft.map (fun e => (e.1, { e.2 with sigs := [] })), slipOf := some source }
        let s := ((s.setSession sess y).setQueue sess { s.queue source with busy := false }).engineWrite y.frBase
          (List.replicate 16 0)
        (List.range y.fmSize).foldl (fun (s : State) i =>
          let e := s.frameMap sess i
          if s.namesShared sess e then s.raiseRef e.sframe else s) s)))

/-- SLIP_COMPLETE (R362): the copies are made and the new session is LIVE, its command done once it has its cores (R285, R379);
or the slip is refused. -/
def execSlipComplete (sess : Nat) (s : State) : Out :=
  .next (
    let x := s.session sess
    match x.slipping, x.slipOf with
    | some (die, cores), some source =>
      let done := fun (status : Nat) (s : State) => s.finishCommands (fun w => match w.what with
        | .sessSlip _ _ n _ _ => if n = sess then some status else none
        | _ => none)
      let off := { s with sessions := tdel sess s.sessions }
      if (s.session source).state ≠ SessState.depot then done 1 off
      else if s.slotState die (65 + sess) ≠ 1 then done 2 off
      else match s.readFrames source (s.tableRun source) with
        | .ok _ s =>
          (match s.slip source sess die cores with
          | some t => if (t.die die).flip then t else done 0 t
          | none => done 3 { s with sessions := tdel sess s.sessions })
        | lost => lost.state
    | _, _ => s).bump

/-! ## Parking (R18, R361) -/

/-- SESS_END with the park option (R17): only in BUILD. -/
def doSessEndPark (v : Nat) (s : State) : Answer :=
  if 255 < v then (s, some 2)
  else if (s.session v).state ≠ .build then (s, some 1)
  else (s, none)

/-- Do side logs hold stores of a session? -/
def State.loggedFor (s : State) (v : Nat) : Bool := s.cores.any (fun e => e.2.log.any (fun l => l.sess == v))

/-- Has a session no work: no convoy, band program's either, launch, owed JOIN, Freight operation, Manifest request, seal, break
or logged store (DESIGN CHOICE, assumption log 44, where it is more than the spec names)? -/
def State.quiet (s : State) (v : Nat) : Bool :=
  let x := s.session v
  !s.convoys.any (fun e => match e.2 with | some c => c.sess == v | none => false)
    && !s.consists.any (fun e => match e.2 with | some c => c.sess == v | none => false)
    && x.launches.all (fun e => e.2.count == 0) && x.joins.isEmpty
    && x.freight.all (fun e => e.2.queue.isEmpty) && x.mReqs.isEmpty && x.seals.isEmpty && x.breaks.isEmpty
    && !s.loggedFor v

/-- The machine frames that a leaf covers: the first and their number; of a span leaf, its group's. -/
def State.leafRun (s : State) (va : Nat) (l : Leaf) : Nat × Nat :=
  if l.level = 0 ∧ leafSpan l.bits = true then
    (entryFrame (BitVec.ofNat 64 (s.word (spanBase va l.addr) 8)), 16)
  else (entryFrame l.bits, leafSize l.level false / 4096)

/-- Frames that stay a depot's own, among those its leaves may map (R18): tables and fault ring. -/
def State.keptFrames (s : State) (v : Nat) : List Nat :=
  let x := s.session v
  (s.tables v).flatMap (fun e => (List.range (tableFrames e.1)).map (fun j => e.2 + j))
    ++ (List.range (ringFrames x.frSize)).map (fun j => x.frBase / 4096 + j)

/-- Is a frame a data frame of a session's world? -/
def State.dataFrame (s : State) (v : Nat) (kept : List Nat) (f : Nat) : Bool :=
  decide (f < 2 ^ 28) && s.frameKind f == 3 && s.frameOwner f == v && !kept.contains f

/-- Step 2: a DIRECT page of a session frame gets a frame-map entry, H as it stands. -/
def State.parkDirect (s : State) (v : Nat) (kept : List Nat) (va : Nat) (l : Leaf) : State :=
  if l.level = 0 ∧ leafSpan l.bits = false ∧ leafMalformed 0 l.bits = false ∧ leafCow l.bits = 0
      ∧ s.dataFrame v kept (entryFrame l.bits) = true then (s.adoptLeaf v va l false).getD s
  else s

/-- Step 3: every OWN entry becomes SHARED, its frame the title's, with each leaf that names it. -/
def State.parkOwn (s : State) (v : Nat) : State :=
  let own := (s.leaves v).filterMap (fun e => (s.mappedPage v e.1).bind (fun p =>
    if leafCow p.1.bits = 1 then some p else none))
  let entries := (own.map (fun p => (entryFrame p.1.bits, p.2.pframe))).eraseDups
  let s := entries.foldl (fun (s : State) e =>
    let s := if s.frameKind e.2 = 3 then s.giveToTitle (s.session v).title e.2 false else s.raiseRef e.2
    s.setFrameMap v e.1 { (default : FrameMap) with v := true, sframe := e.2 }) s
  own.foldl (fun (s : State) p => s.setLeaf p.1 (withCow p.1.bits 2)) s

/-- Step 4: a large or span leaf of session frames is read-only, and its frames go to the title with no count. -/
def State.parkLarge (s : State) (v : Nat) (run : Nat × Nat) (mine : List Nat) (l : Leaf) : State :=
  if mine = [] then s
  else
    let s := s.setLeaf l (l.bits &&& ~~~(0x400#64))
    mine.foldl (fun (s : State) f =>
      if run.1 ≤ f ∧ f < run.1 + run.2 then (s.setFrame f 2 (s.session v).title).moveRecords f f else s) s

/-- The machine frame of the 4 KiB page of a level-0 leaf. -/
def State.pageFrame (s : State) (v va : Nat) (l : Leaf) : Nat :=
  if leafCow l.bits = 0 then
    (s.leafRun va l).1 + (if leafSpan l.bits then levelIndex va 0 % 16 else 0)
  else (s.frameMap v (entryFrame l.bits)).sframe

/-- The level-0 leaves of a session, each with its page's frame. -/
def State.measured (s : State) (v : Nat) : List (Leaf × Nat) :=
  ((s.leaves v).filter (fun e => e.2.level == 0)).map (fun e => (e.2, s.pageFrame v e.1 e.2))

/-- The measurement of a depot (R385): its level-0 leaves in ascending address, each with its page. -/
def State.measure (s : State) (v : Nat) : BitVec 256 :=
  match shake256 ((s.measured v).flatMap (fun e => leBytes 8 e.1.bits.toNat ++ s.bytes (e.2 * 4096) 4096)) with
  | a :: b :: c :: d :: _ => d ++ c ++ b ++ a
  | _ => 0

/-- The pages of a depot convert (R361): its patches are consolidated, its DIRECT pages adopted, its OWN pages shared, its large
and span leaves made read-only; then it is measured (R385). Lost lines that the engine meets end the session (R388). -/
def State.convert (s : State) (v : Nat) : Doing Unit :=
  (forEach (s.leaves v) (fun (e : Nat × Leaf) s =>
    match s.mappedPage v e.1 with
    | some (l, m) => s.consolidate v e.1 l m
    | none => .ok () s) s).bind (fun _ s =>
      let kept := s.keptFrames v
      let s := (s.leaves v).foldl (fun (s : State) (e : Nat × Leaf) => s.parkDirect v kept e.1 e.2) s
      let s := s.parkOwn v
      let large := ((s.leaves v).filter (fun e => decide (1 ≤ e.2.level) || leafSpan e.2.bits)).map (fun e =>
        let r := s.leafRun e.1 e.2
        (r, ((List.range r.2).map (fun j => r.1 + j)).filter (s.dataFrame v kept), e.2))
      let s := large.foldl (fun (s : State) (e : (Nat × Nat) × List Nat × Leaf) => s.parkLarge v e.1 e.2.1 e.2.2) s
      let s := s.dropTranslations v
      (s.readFrames v ((s.measured v).map (fun e => e.2))).bind (fun _ s =>
        let m := s.measure v
        .ok () (s.modSession v (fun x => { x with state := .depot, measured := m }))))

/-- SESS_PARK_COMPLETE (R17, R361): once every launch has completed, the pages convert and the session is a DEPOT. It waits for
band programs, Freight operations, owed JOINs, Manifest requests, seals, breaks and logged stores of the session too (DESIGN
CHOICE, assumption log 44). -/
def execSessParkComplete (sess : Nat) (s : State) : Out :=
  .next (
    let asked := s.commands.any (fun w => match w.what with | .sessEndPark _ v => v == sess | _ => false)
    if !asked || (s.session sess).state != .build || !s.quiet sess then s
    else match s.convert sess with
      | .ok _ s => s.finishCommands (fun w => match w.what with
        | .sessEndPark _ v => if v = sess then some 0 else none
        | _ => none)
      | lost => lost.state).bump

/-! ## Transfers (R22, R363, R364) -/

/-- The runs of frames that the large and span leaves of a session cover, the longest first, each once. -/
def State.largeRuns (s : State) (v : Nat) : List (Nat × Nat) :=
  let at' := fun (level : Nat) (span : Bool) =>
    ((s.leaves v).filter (fun e => e.2.level == level && (decide (1 ≤ level) || leafSpan e.2.bits == span)
      && !leafMalformed e.2.level e.2.bits)).map (fun e => s.leafRun e.1 e.2)
  let all := (at' 2 false ++ at' 1 false ++ (at' 0 true).filter (fun r => r.1 % 16 == 0)).eraseDups
  all.foldl (fun (l : List (Nat × Nat)) r =>
    if l.any (fun q => decide (q.1 ≤ r.1) && decide (r.1 + r.2 ≤ q.1 + q.2)) then l else l ++ [r]) []

/-- Does a run hold only session frames of a die, only others, or both? -/
def State.runMix (s : State) (v d : Nat) (r : Nat × Nat) : Bool × Bool :=
  let mine := fun (j : Nat) => decide (r.1 + j < 2 ^ 28) && frameDie (r.1 + j) == d && s.frameKind (r.1 + j) == 3
    && s.frameOwner (r.1 + j) == v
  ((List.range r.2).any mine, (List.range r.2).any (fun j => !mine j))

/-- Reserve runs on the destination (R363 step 1). -/
def State.reserveRuns (s : State) (v d : Nat) :
    List (Nat × Nat) → List (Nat × Nat × Nat) → Option (List (Nat × Nat × Nat) × State)
  | [], out => some (out, s)
  | (f, n) :: rs, out =>
    match s.allocRun d n 3 v with
    | none => none
    | some (g, s) => s.reserveRuns v d rs (out ++ [(f, g, n)])

/-- Change a session's cores on its home die or, with the extend option, on another; complete at the flip (R285). -/
def repartition (v die cores : Nat) (s : State) : Answer :=
  match s.grant die v cores with
  | none => (s, some 3)
  | some s => (s, if (s.die die).flip then none else some 0)

/-- SESS_MOVE (R22, R363). -/
def doSessMove (v die cores : Nat) (s : State) : Answer :=
  let x := s.session v
  if 255 < v ∨ 3 < die ∨ cores = 0 ∨ 64 < cores then (s, some 2)
  else if x.state ≠ .live then (s, some 1)
  else if die = x.home then repartition v die cores s
  else if s.slotState die (65 + v) ≠ 1 then (s, some 2)
  else
    let busy := (s.streamsOf v).any (fun e => (s.stream die e.2).state != 0)
    let runs := (s.largeRuns v).map (fun r => (r, s.runMix v x.home r))
    if busy then (s, some 3)
    else if runs.any (fun r => r.2.1 && r.2.2) then (s, some 2)
    else
      let own := (runs.filter (fun r => r.2.1)).map (fun r => r.1)
      match (s.grant die v cores).bind (fun s => s.reserveRuns v die own []) with
      | none => (s, some 3)
      | some (rs, s) =>
        (s.setSession v { x with state := .moving, moveFrom := some x.home, moveTo := die, tablesMoved := false,
                                 transit := [], runs := rs }, none)

/-- SESS_MOVE with the extend option (R285, R380). -/
def doSessMoveExtend (v die cores : Nat) (s : State) : Answer :=
  let x := s.session v
  if 255 < v ∨ 3 < die ∨ 64 < cores then (s, some 2)
  else if x.state ≠ .live then (s, some 1)
  else if die = x.home then (s, some 2)
  else repartition v die cores s

/-- Free frames. -/
def State.freeFrames (s : State) (fs : List Nat) : State := fs.foldl State.freeFrame s

/-- TRANSFER_TABLES_MOVED (R363 step 2): tables, frame map and fault ring are copied to the destination, which is the
session's home from now on; its Freight contexts have no operation left (R269), and no seal is in progress (R359). -/
def execTransferTablesMoved (sess : Nat) (s : State) : Out :=
  .next (
    let x := s.session sess
    if x.state != .moving || x.moveFrom.all (fun a => !s.linkOpen a x.moveTo) || x.tablesMoved || !x.seals.isEmpty || !x.breaks.isEmpty
        || x.freight.any (fun e => !e.2.queue.isEmpty) then s
    else
      let old := s.keptFrames sess ++ (List.range (mapFrames x.fmSize)).map (fun j => x.fmBase / 4096 + j)
      match s.readFrames sess (s.tableRun sess) with
      | .ok _ s =>
        (match s.cloneSession true sess sess x.moveTo with
        | none => s
        | some (s, root, fm, fr) =>
          ((s.freeFrames old).modSession sess (fun x =>
            { x with home := x.moveTo, tablesMoved := true, root := root * 4096, fmBase := fm * 4096,
                     frBase := fr * 4096 })).dropTranslations sess)
      | lost => lost.state).bump

/-- The run that drifts with a frame, and the run reserved for it; a frame of none drifts alone. -/
def Session.runOf (x : Session) (f : Nat) : Nat × Option Nat × Nat :=
  match x.runs.find? (fun r => decide (r.1 ≤ f) && decide (f < r.1 + r.2.2)) with
  | some (src, dst, n) => (src, some dst, n)
  | none => (f, none, 1)

/-- Every leaf FRAME and frame-map PFRAME that names a frame of a run names the run's new place (R364). -/
def State.renameFrames (s : State) (v src dst n : Nat) : State :=
  let inRun := fun (f : Nat) => decide (src ≤ f) && decide (f < src + n)
  let s := (s.leaves v).foldl (fun (s : State) (e : Nat × Leaf) =>
    let f := entryFrame e.2.bits
    if leafCow e.2.bits = 0 ∧ inRun f = true then s.setLeaf e.2 (withFrame e.2.bits (dst + (f - src))) else s) s
  (List.range (s.session v).fmSize).foldl (fun (s : State) i =>
    let m := s.frameMap v i
    if s.namesPrivate v m && inRun m.pframe then s.setFrameMap v i { m with pframe := dst + (m.pframe - src) } else s) s

/-- The page of an OWN, hashable, unsealed frame: its address and leaf (R364). -/
def State.driftPage (s : State) (v f : Nat) : Option (Nat × Leaf) :=
  (s.leaves v).find? (fun e => e.2.level == 0 && leafCow e.2.bits == 1 && leafHash e.2.bits &&
    (match s.mappedPage v e.1 with
     | some (_, m) => m.pframe == f && !m.sealed
     | none => false))

/-- A run is copied to its new place, and the old one is freed (R364). -/
def State.driftCopy (s : State) (v src dst n : Nat) : State :=
  let s := (List.range n).foldl (fun (s : State) j =>
    let s := s.setFrame (dst + j) (s.frameKind (src + j)) v
    let s := s.copyFrame (src + j) (dst + j)
    { s with grants := tset s.grants (dst + j) (tget s.grants (src + j)) }) s
  let s := (s.renameFrames v src dst n).freeFrames ((List.range n).map (fun j => src + j))
  let s := s.dropTranslations v
  s.modSession v (fun x => { x with transit := x.transit.filter (fun f => !(decide (src ≤ f) && decide (f < src + n))),
                                    runs := x.runs.filter (fun r => r.1 != src) })

/-- The frames on the destination that a drifting frame is compared with (R364). -/
def State.driftMates (s : State) (v f : Nat) : List Nat :=
  let x := s.session v
  if (s.driftPage v f).isNone then []
  else (s.candidates x.title (s.digestOf x.home x.title f)).filter (fun g => frameDie g == x.moveTo)

/-- A frame merges with an equal page whose frame lies on the destination (R364). -/
def State.driftMerge (s : State) (v f : Nat) : Option State :=
  match s.driftPage v f with
  | none => none
  | some (va, l) =>
    let x := s.session v
    let digest := s.digestOf x.home x.title f
    match s.equalWay x.title digest f (fun g => frameDie g == x.moveTo) with
    | none => none
    | some w => (s.wayAt (bucketOf digest) w).map (fun d =>
        ((((s.raiseRef d.frame).moveRecords f d.frame).shareAs v va l d.frame).freeFrame f).modSession v (fun x =>
          { x with transit := x.transit.filter (fun g => g != f) }))

/-- FRAME_DRIFT (R364): a session frame at the source goes IN TRANSIT, with its run; one in transit reaches its
destination, by merge or by copy. -/
def execFrameDrift (sess frame : Nat) (s : State) : Out :=
  .next (
    let x := s.session sess
    let here := s.frameKind frame == 3 || s.frameKind frame == 4
    if x.state != .moving || !x.tablesMoved || some (frameDie frame) != x.moveFrom || !here || s.frameOwner frame != sess then s
    else
      let (src, dst, n) := x.runOf frame
      if !x.transit.contains frame then
        (s.modSession sess (fun x => { x with transit := x.transit ++ (List.range n).map (fun j => src + j) })).dropTranslations
          sess
      else if !s.linkOpen (frameDie src) x.moveTo then s
      else match (s.readFrames sess ((List.range n).map (fun j => src + j))).bind (fun _ s =>
          if dst.isSome then .ok () s else s.readFrames sess (s.driftMates sess src)) with
        | .ok _ s =>
          (match dst with
           | some g => s.driftCopy sess src g n
           | none =>
             match s.driftMerge sess src with
             | some t => t
             | none => match s.pickRun x.moveTo 1 with
               | some g => s.driftCopy sess src g 1
               | none => s)
        | lost => lost.state).bump

/-- TRANSFER_COMPLETE (R22, R363): nothing of the session is left at the source: its slot is revoked and its partition there
ends by a flip; once the slot is EMPTY and no core is its own there the session is LIVE again. -/
def execTransferComplete (sess : Nat) (s : State) : Out :=
  .next (
    let x := s.session sess
    match x.moveFrom with
    | none => s
    | some a =>
      let convoys := s.convoys.any (fun e => match e.2 with
        | some c => c.sess == sess && (if c.core < 256 then c.core / 64 else (c.core - 256) / 8) == a
        | none => false)
      let stream := (s.streamsOf sess).any (fun e => e.1 == a)
      if x.state != SessState.moving || !x.tablesMoved || convoys || stream || s.framesOf a 3 sess != [] || s.framesOf a 4 sess != [] then s
      else if s.slotState a (65 + sess) = 1 then s.revoke a (65 + sess) false
      else if s.slotState a (65 + sess) = 2 then s
      else if (s.die a).activeBank.any (fun e => e.2 == sess + 1) then (s.grant a sess 0).getD s
      else
        let s := s.modSession sess (fun x => { x with state := .live, moveFrom := none, tablesMoved := false, transit := [],
                                                      runs := [], tdiRun := false })
        (s.advanceRequests sess).finishCommands (fun w => match w.what with
          | .sessMove _ v d _ => if v = sess ∧ d = x.moveTo then some 0 else none
          | _ => none)).bump

/-! ## SESS_END (R17, R23) -/

/-- The parked convoys of a session with no accepted Freight operation left are dropped as though they were cancelled (R269,
R287): their logged stores replay, and the ends of their consists count (R63, R77, R182). -/
def State.dropParked (s : State) (v : Nat) : State :=
  let works := fun (k : Nat) => (s.session v).freight.any (fun e => e.2.queue.any (fun o => o.convoy == k))
  (s.convoys.filter (fun e => match e.2 with | some c => c.sess == v && c.parked && !works e.1 | none => false)).foldl
    (fun (s : State) (e : Nat × Option Convoy) =>
      match e.2 with
      | none => s
      | some c =>
        let s := s.fromShadow c.core e.1 v
        let s := s.setCore c.core { s.core c.core with log := (s.core c.core).log ++ c.savedLog }
        let ended := c.members.filterMap (fun k => (s.consist? k).map (fun y => (k, y)))
        let s := ended.foldl (fun (s : State) (y : Nat × Consist) => s.endTimeline (matrixOwner (seatOf y.1)) y.2.matrix.counter) s
        let c := { c with members := [], ended := c.size, parked := false, savedLog := [], savedRows := [],
                          savedOwner := none, savedWait := [], savedLast := [],
                          exitMasks := ended.foldl (fun t (y : Nat × Consist) => tset t y.2.ci y.2.fmask) c.exitMasks,
                          exitClk := ended.foldl (fun t (y : Nat × Consist) => Clock.join t (s.consistClock y.2)) c.exitClk }
        { s with consists := ended.foldl (fun t (y : Nat × Consist) => tdel y.1 t) s.consists }.endConvoy e.1 c) s

/-- A transfer is abandoned (R17); the command that asked for it can no longer complete. -/
def State.abandonMove (s : State) (v : Nat) : State :=
  let s := s.modSession v (fun x => { x with moveFrom := none, transit := [], runs := [] })
  s.finishCommands (fun w => match w.what with
    | .sessMove _ u _ _ => if u = v then some 1 else none
    | _ => none)

/-- A session's streams stop after the frame in progress (R305); `orphan` says that their band programs are gone. -/
def State.endStreams (s : State) (v : Nat) (orphan : Bool) : State :=
  (s.streamsOf v).foldl (fun (s : State) e => s.modStream e.1 e.2 (fun t =>
    { t with stopAt := if t.stopAt.isSome then t.stopAt else some t.lastOfFrame,
             state := if orphan && t.state == 1 then 2 else t.state })) s

/-- The first step of an end (R23): the session's jobs are cancelled, parked convoys are dropped, and its streams stop
after the frame in progress (R305). -/
def State.beginEnd (s : State) (v : Nat) : State :=
  let x := s.session v
  let forced := x.state == .moving
  let s := if forced then s.abandonMove v else s
  let s := s.modSession v (fun x => { x with state := .ending, ending := 1, forcedEnd := forced })
  let s := (x.jobs.filter (fun e => e.2.count != 0)).foldl (fun (s : State) e => s.cancelLevel v 3 e.1) s
  (s.dropParked v).endStreams v false

/-- SESS_END. -/
def doSessEnd (v : Nat) (s : State) : Answer :=
  if 255 < v then (s, some 2)
  else match (s.session v).state with
    | .free | .ending => (s, some 1)
    | .depot => if s.slipping v then (s, none) else (s.beginEnd v, none)
    | _ => (s.beginEnd v, none)

/-- DEPOT_END_PROCEED (R17): a SESS_END of a depot that waited goes on once no slip from it is in progress. -/
def execDepotEndProceed (sess : Nat) (s : State) : Out :=
  .next (
    let asked := s.commands.any (fun w => isEnding w.what && commandSession w.what == some sess)
    let kill := s.commands.any (fun w => match w.what with | .sessEndKill _ v => v == sess | _ => false)
    if asked && (s.session sess).state == .depot && !s.slipping sess then
      (s.beginEnd sess).modSession sess (fun x => { x with forcedEnd := kill })
    else s).bump

/-- SESS_END with the kill option (R23): every consist stops, work in flight is discarded, and the slots will be revoked
by force. -/
def doSessEndKill (v : Nat) (s : State) : Answer :=
  if 255 < v then (s, some 2)
  else match (s.session v).state with
    | .free | .ending => (s, some 1)
    | .depot => if s.slipping v then (s, none) else ((s.beginEnd v).modSession v (fun x => { x with forcedEnd := true }), none)
    | _ =>
      let x := s.session v
      let s := if x.state == .moving then s.abandonMove v else s
      let live := (s.streamsOf v).filter (fun e => (s.stream e.1 e.2).state == 1)
      let s := (s.postJobs v).stopWork v
      let s := live.foldl (fun (s : State) e => s.post v 0 0 2 (BitVec.ofNat 32 e.2) 0) (s.endStreams v true)
      (s.modSession v (fun x => { x with state := .ending, ending := 1, forcedEnd := true }), none)

/-- What an ending session waits for (R23): its work has drained, and its streams are OFF (R389; for other ends DEDUCED,
assumption log 27). -/
def State.ended (s : State) (v : Nat) : Bool := s.quiet v && s.streamsOf v == []

/-- SESS_END_COMPLETE (R23, R389): an ending session whose work has drained gives up its references, and its slots are revoked
on every die where they are loaded (DEDUCED, assumption log 27); once they are EMPTY its frames are freed and it is FREE. After
an end by POISON the Signal box writes its records. -/
def execSessEndComplete (sess : Nat) (s : State) : Out :=
  .next (
    let x := s.session sess
    if x.state ≠ .ending then s
    else if x.ending = 1 then
      let s := if x.poisoned.isSome then s.endStreams sess true else s.dropParked sess
      if !s.ended sess then s
      else
        let s := s.dropRefs sess
        let s := (List.range 4).foldl (fun (s : State) d => s.revoke d (65 + sess) x.forcedEnd) s
        s.modSession sess (fun x => { x with ending := 2 })
    else if (List.range 4).any (fun d => s.slotState d (65 + sess) != 0) then s
    else
      let queue := s.queue sess
      let s := (List.range 4).foldl (fun (s : State) d => s.freeFrames (s.framesOf d 3 sess ++ s.framesOf d 4 sess)) s
      let s := s.releaseSession sess
      match x.poisoned with
      | none => s
      | some e =>
        let s := (s.setQueue sess queue).writePoisonEnd sess e
        { s with queues := tdel sess s.queues }).bump

end Sys2Proof.Machine
end

