-- ==== Sys2Proof/Machine/Firmware.lean ====
section
/-!
DEFINITION. The Signal box's command queues and command set (R372 to R380): SQTAIL, RESTART, COMMAND_FETCH,
FORWARDED_COMMAND and the commands themselves, with KEY_LOAD and KEY_DROP (R350), LAYOUT_PUT (R259, R268), SUBMIT (R281),
STREAM_SET (R305), ATTEST (R385), CAPS_READ (R384) and RAS_LOG (R391), and STREAM_MOVE (R22).
-/

namespace Sys2Proof.Machine

open Sys2Proof

/-! ## Host memory -/

/-- Bytes of host memory, lowest first. -/
def State.hostBytes (s : State) (a n : Nat) : List Byte := readBytes s.hostMem a n

/-- The Signal box writes bytes to host memory. -/
def State.putHost (s : State) (a : Nat) (bs : List Byte) : State := { s with hostMem := writeBytes s.hostMem a bs }

/-! ## Keys (R350, R352) -/

/-- KEY_LOAD: the blob comes over the link of the die that carries the command out. -/
def doKeyLoad (slot die blob d : Nat) (s : State) : Answer :=
  if 3 < die ∨ 320 < slot then (s, some 2)
  else if s.slotState die slot ≠ 0 then (s, some 1)
  else if (s.die d).ide = [] then (s, some 4)
  else
    let x := s.die die
    let key : KeySlot := { state := 1, forced := false, key := BitVec.ofNat 512 (leNat (s.hostBytes blob 64)) }
    (s.setDie die { x with slots := tput slot key x.slots }, some 0)

/-- KEY_DROP: complete when the sweep is. -/
def doKeyDrop (slot die : Nat) (s : State) : Answer :=
  if 3 < die ∨ 511 < slot then (s, some 2)
  else if s.slotState die slot ≠ 1 then (s, some 1)
  else (s.revoke die slot false, none)

/-! ## LAYOUT_PUT (R259, R268) -/

/-- Does a session take work: BUILD, LIVE or MOVING (R17)? -/
def Session.works (x : Session) : Bool := x.state == .build || x.state == .live || x.state == .moving

/-- LAYOUT_PUT: the record goes into the context's table. -/
def doLayoutPut (v ctx layout record : Nat) (s : State) : Answer :=
  if 255 < v ∨ 15 < ctx ∨ 65535 < layout then (s, some 2)
  else if !(s.session v).works then (s, some 1)
  else
    let r := BitVec.ofNat 512 (leNat (s.hostBytes record 64))
    (s.modFreight v ctx (fun f => { f with layouts := tset f.layouts layout r }), some 0)

/-- LAYOUT_PUT with reset: a HALTED context is RUNNING again, its next operation the one that failed by number. -/
def doLayoutReset (v ctx : Nat) (s : State) : Answer :=
  if 255 < v ∨ 15 < ctx then (s, some 2)
  else if !(s.session v).works then (s, some 1)
  else (s.modFreight v ctx (fun f => if f.halted then { f with halted := false, accepted := f.counter.toNat } else f), some 0)

/-! ## SUBMIT (R271, R280, R281) -/

/-- The host as an issuer, at a rank, through the Signal box of the session's home die. -/
def State.hostIssuer (s : State) (v rank : Nat) (sup : Bool) : Issuer :=
  let agent := agentId (s.session v).home 8 0
  { who := engineAsker v 2 agent, sess := v, region := fun _ _ => false, rank := rank, sup := sup, conv := none, clk := [],
    lost := fun bad s => .stop (s.readBad bad agent v (fun _ => none)) }

/-- SUBMIT: in service mode it waits for a siding slot and a launch slot. -/
def doSubmit (v waybill rank : Nat) (sup : Bool) (s : State) : Answer :=
  if 255 < v ∨ 15 < rank ∨ waybill % 32 ≠ 0 then (s, some 2)
  else if !(s.session v).works then (s, some 1)
  else
    let w := BitVec.ofNat 256 (leNat (s.hostBytes waybill 32))
    match (s.hostIssuer v rank sup).plan w rank 0 s with
    | .out (.trapIn t .priv _) => (t, some 4)
    | .out (.trapIn t _ _) => (t, some 2)
    | .out (.wait t) | .out (.hold t) => (t, none)
    | .out (.stop t) => (t, some 1)
    | .out _ => (s, some 2)
    | .val p t =>
      match t.freeLaunch v, t.sidingSpace v rank none with
      | some slot, some r => (t.acceptLaunch v p slot r sup [], some 0)
      | _, _ => if (t.session v).maintenance then (t, some 3) else (t, none)

/-! ## STREAM_SET (R305, R306, R316) -/

/-- Is the scan timing in range (R306), and are the buffers placed as R316 says? -/
def streamOpsValid (o : StreamOps) : Bool :=
  decide (o.stream ≤ 15) && decide (64 ≤ o.hact) && decide (o.hact ≤ 7680) && o.hact % 16 == 0 && decide (16 ≤ o.vact)
    && decide (o.vact ≤ 4320) && o.vact % 16 == 0 && decide (o.vact ≤ o.vtot) && decide (o.vtot ≤ 65535)
    && decide (64 ≤ o.lper) && decide (o.lper ≤ 65535) && decide (1 ≤ o.lead) && decide (o.lead ≤ 8)
    && o.hist % 256 == 0 && decide (o.hist < 2 ^ 60) && o.mfld % 64 == 0 && decide (o.mfld < 2 ^ 60)
    && o.bsBase % 4096 == 0 && decide (o.bsBase < 2 ^ 60) && o.bsSize % 4096 == 0 && decide (o.bsSize < 2 ^ 32)
    && decide (o.page < 2 ^ 48)

/-- May a header be a band program's (R305)? -/
def bandHeader (h : BitVec 1024) : Bool :=
  hdrTrain h == 0 && decide (hdrConsists h ≤ 8) && decide (hdrBcnt h ≤ 64) && decide (hdrPad h ≤ 131072)
    && decide (hdrStash h ≤ 64) && decide (hdrConsists h * hdrTiles h ≤ 32) && decide (hdrConsists h * hdrSlots h ≤ 32)

/-- Does a band program's allotment fit beside those of the die's other streams (R324)? -/
def State.allotmentFits (s : State) (d : Nat) (h : BitVec 1024) : Bool :=
  let cs := (List.range 8).flatMap (fun l => s.consistsOn (256 + 8 * d + l))
  let sum := fun (f : Consist → Nat) => (cs.map (fun e => f e.2)).foldl (· + ·) 0
  decide (sum (fun c => c.matrix.ntiles) + hdrConsists h * hdrTiles h ≤ 128)
    && decide (sum (fun c => c.matrix.nslots) + hdrConsists h * hdrSlots h ≤ 128)

/-- Start the band program of a stream on its quadrant, or the status of a refusal (R303, R305). `go` makes the stream
LIVE, with the key of the convoy. -/
def State.startBand (s : State) (v d n header : Nat) (frame : DWord) (go : Nat → State → State) : Answer :=
  let w := mkWaybill header frame 0 1 0
  match (s.hostIssuer v 0 true).header w 2 0 s with
  | .out (.wait t) | .out (.hold t) => (t, none)
  | .out (.trapIn t _ _) => (t, some 2)
  | .out (.stop t) => (t, some 1)
  | .out _ => (s, some 2)
  | .val h t =>
    let keys := (List.range (hdrConsists h.bits)).map (fun ci => lineKey d (n / 2) (n % 2) ci)
    let core := 256 + 8 * d + n / 2
    if header % 128 ≠ 0 ∨ 2 ^ 60 ≤ header ∨ bandHeader h.bits = false then (t, some 2)
    else if t.consistsOn core |>.any (fun e => quadOf e.1 == n % 2) then (t, some 1)
    else if !t.allotmentFits d h.bits then (t, some 3)
    else
      let conv := t.nextUid
      let t := { t with nextUid := t.nextUid + 1 }
      let x : Start :=
        { hdr := h, sess := v, slot := n, rank := 0, cvid := 0, frame := frame, lnch := BitVec.ofNat 32 (2 ^ 31 + n),
          level := if hdrSup h.bits then 1 else 0, line := true, clk := [] }
      ((go conv t).startConvoy x core conv keys 0 0 [], some 0)

/-- The stream of a session with this number, when it is not OFF. -/
def State.ownStream (s : State) (v n : Nat) : Option (Nat × Stream) :=
  ((s.streamsOf v).find? (fun e => e.2 == n)).map (fun e => (e.1, s.stream e.1 n))

/-- STREAM_SET with start. -/
def doStreamStart (o : StreamOps) (s : State) : Answer :=
  let x := s.session o.sess
  if 255 < o.sess ∨ streamOpsValid o = false then (s, some 2)
  else if !x.works then (s, some 1)
  else
    let d := x.home
    if (s.stream d o.stream).state != 0 then (s, some 1)
    else s.startBand o.sess d o.stream o.header o.frame (fun conv s =>
      let t : Stream :=
        { (default : Stream) with
          state := 1, sess := o.sess, convoy := conv, hact := o.hact, vact := o.vact, vtot := o.vtot, lper := o.lper,
          lead := o.lead, depth := o.depth, hist := o.hist, mfld := o.mfld, bsBase := o.bsBase, bsSize := o.bsSize,
          fill := 0x380038000000#48, wph := 0x3F800000#32, enc := 0x3FC00#64, page := o.page }
      s.setStream d o.stream t)

/-- STREAM_SET with stop: it is done once the stream is OFF (R305, R379). -/
def doStreamStop (v n : Nat) (s : State) : Answer :=
  if 255 < v ∨ 15 < n then (s, some 2)
  else match s.ownStream v n with
    | none => (s, some 1)
    | some (d, _) => (s.modStream d n (fun t => if t.stopAt.isSome then t else { t with stopAt := some t.lastOfFrame }), none)

/-- STREAM_SET with restart: only an ORPHAN stream. -/
def doStreamRestart (v n header : Nat) (frame : DWord) (s : State) : Answer :=
  if 255 < v ∨ 15 < n then (s, some 2)
  else match s.ownStream v n with
    | none => (s, some 1)
    | some (d, t) =>
      if t.state ≠ 2 then (s, some 1)
      else s.startBand v d n header frame (fun conv s => s.modStream d n (fun t => { t with state := 1, convoy := conv }))

/-! ## What the Signal box writes to the host (R384, R385, R391) -/

/-- The part number of the module, in eight bytes of text. -/
def partNumber : List Byte := [0x54, 0x52, 0x56, 0x2D, 0x34, 0x41, 0, 0]

/-- The ROM measurement of a die: the first 32 bytes of SHAKE256 over its ROM (R384, R385). -/
def romHash (d : Nat) : List Byte := (shake256 (Config.rom d)).flatMap (fun w => leBytes 8 w.toNat)

/-- The cores of a die that are there: a core cut off from the units beneath it is absent (R394). -/
def Die.coreMask (x : Die) : Nat := ((List.range 64).map (fun i => if x.cutOff i then 0 else 2 ^ i)).sum

/-- The capability records of a die, each without its header. R384 lists what they hold; the widths and the order within a
record are the model's (DESIGN CHOICE, assumption log 18). -/
def State.capRecords (s : State) (d : Nat) : List (List Byte) :=
  [ leBytes 8 Config.moduleSerial.toNat ++ leBytes 8 d ++ partNumber,
    leBytes 8 (s.die d).coreMask ++ leBytes 8 (2 ^ 26) ++ leBytes 8 (2 ^ 29) ++ leBytes 8 (2 ^ 38),
    leBytes 4 256 ++ leBytes 4 64 ++ leBytes 4 16 ++ leBytes 4 512,
    leBytes 4 160 ++ leBytes 4 (Config.certificates d).length,
    leBytes 8 (Config.firmwareVersion d).toNat ++ (romHash d ++ List.replicate 32 0).take 32 ]

/-- Records with their headers, from identifier `id` on, laid out from an offset of BAR0 (R384). -/
def capChain : Nat → Nat → List (List Byte) → List Byte
  | _, _, [] => []
  | id, off, r :: rs =>
    let next := off + 8 + r.length
    leBytes 2 id ++ leBytes 1 1 ++ leBytes 1 (1 + r.length / 8) ++ leBytes 4 (if rs = [] then 0 else next) ++ r
      ++ capChain (id + 1) next rs

/-- The capability list of a die (R384). -/
def State.capList (s : State) (d : Nat) : List Byte := capChain 1 0 (s.capRecords d)

/-- CAPS_READ: the list goes to a host buffer, as much as fits. -/
def doCapsRead (buffer len d : Nat) (s : State) : Answer := (s.putHost buffer ((s.capList d).take len), some 0)

/-- RAS_LOG: the log goes to a host buffer, the oldest record first. -/
def doRasLog (buffer len : Nat) (clear : Bool) (d : Nat) (s : State) : Answer :=
  let x := s.die d
  let s := s.putHost buffer ((x.log.flatMap (fun r => leBytes 32 r.toNat)).take len)
  (if clear then s.setDie d { x with log := [] } else s, some 0)

/-- The head of a CBOR item: its major type and its argument in the shortest form. -/
def cborHead (major n : Nat) : List Byte :=
  let head := fun (k : Nat) => leBytes 1 (32 * major + k)
  if n < 24 then head n
  else if n < 2 ^ 8 then head 24 ++ leBytes 1 n
  else if n < 2 ^ 16 then head 25 ++ (leBytes 2 n).reverse
  else head 26 ++ (leBytes 4 n).reverse

/-- A CBOR byte string. -/
def cborBytes (bs : List Byte) : List Byte := cborHead 2 bs.length ++ bs

/-- The claims of a token of die d, as a CBOR map (R385): nonce, identity of the die and module serial, ROM hash, fuse state,
and the measurement of the depot that a named session was slipped from. The labels are the model's (PRESUMED, assumption
log 10). -/
def State.claims (s : State) (v : Option Nat) (nonce : BitVec 256) (d : Nat) : List Byte :=
  let depot := v.bind (fun v => if (s.session v).slipOf.isSome then some (s.session v).measured else none)
  let items : List (Nat × List Byte) :=
    [ (10, leBytes 32 nonce.toNat), (256, leBytes 32 (Config.dieIdentity d).toNat), (257, leBytes 8 Config.moduleSerial.toNat),
      (273, romHash d), (263, leBytes 8 (Config.fuseState d).toNat) ]
      ++ (match depot with | some m => [(274, leBytes 32 m.toNat)] | none => [])
  cborHead 5 items.length ++ items.flatMap (fun e => cborHead 0 e.1 ++ cborBytes e.2)

/-- A token of die d: a COSE_Sign1 of the claims, with 29,792 bytes of signature, whose values are free (PRESUMED, assumption
log 10). -/
def State.token (s : State) (v : Option Nat) (nonce : BitVec 256) (d : Nat) : List Byte :=
  let payload := cborBytes (s.claims v nonce d)
  cborHead 6 18 ++ cborHead 4 4 ++ cborBytes [] ++ cborHead 5 0 ++ payload
    ++ cborBytes ((List.range 29792).map (Config.signatureByte s.tick d payload))

/-- ATTEST (R385): a token goes to a host buffer. -/
def doAttest (v : Option Nat) (nonce : BitVec 256) (buffer d : Nat) (s : State) : Answer :=
  let status := match v with
    | none => 0
    | some v => if 255 < v then 2 else if (s.session v).state = .free then 1 else 0
  (if status = 0 then s.putHost buffer (s.token v nonce d) else s, some status)

/-! ## Carrying out a command (R373, R378, R388) -/

/-- What a command carried by the Signal box of die `d` does. -/
def perform (i : Instr) (d : Nat) (s : State) : Answer :=
  match i with
  | .sessNew _ o => doSessNew o s
  | .sessSlip _ source v die cores => doSessSlip source v die cores s
  | .sessMove _ v die cores => doSessMove v die cores s
  | .sessMoveExtend _ v die cores => doSessMoveExtend v die cores s
  | .sessEnd _ v => doSessEnd v s
  | .sessEndPark _ v => doSessEndPark v s
  | .sessEndKill _ v => doSessEndKill v s
  | .keyLoad _ slot die blob => doKeyLoad slot die blob d s
  | .keyDrop _ slot die => doKeyDrop slot die s
  | .layoutPut _ v ctx layout record => doLayoutPut v ctx layout record s
  | .layoutPutReset _ v ctx => doLayoutReset v ctx s
  | .submit _ v waybill rank sup => doSubmit v waybill rank sup s
  | .streamSetStart _ o => doStreamStart o s
  | .streamSetStop _ v n => doStreamStop v n s
  | .streamSetRestart _ v n header frame => doStreamRestart v n header frame s
  | .attest _ v nonce buffer => doAttest v nonce buffer d s
  | .capsRead _ buffer len => doCapsRead buffer len d s
  | .rasLog _ buffer len clear => doRasLog buffer len clear d s
  | _ => (s, some 2)

/-- The session a command names, as R373 means it: SESS_NEW makes one, a slip names its depot. -/
def namedSession : Instr → Option Nat
  | .sessSlip _ source _ _ _ => some source
  | .layoutPut _ v _ _ _ | .layoutPutReset _ v _ | .streamSetStop _ v _ | .streamSetRestart _ v _ _ _ => some v
  | .streamSetStart _ o => some o.sess
  | .attest _ v _ _ => v
  | i => commandSession i

/-- The dies whose Signal box a command needs beside the one that carries it out. -/
def namedDies : Instr → List Nat
  | .sessNew _ o => [o.die]
  | .sessSlip _ _ _ die _ | .sessMove _ _ die _ | .sessMoveExtend _ _ die _ | .keyLoad _ _ die _ | .keyDrop _ _ die => [die]
  | _ => []

/-- Does the own queue of session q accept it (R373)? -/
def ownQueueTakes (q : Nat) (i : Instr) : Bool :=
  match i with
  | .submit _ _ _ _ _ | .layoutPut _ _ _ _ _ | .layoutPutReset _ _ _ | .streamSetStart _ _ | .streamSetStop _ _ _
  | .streamSetRestart _ _ _ _ _ | .attest _ _ _ _ => namedSession i == some q
  | .capsRead _ _ _ => true
  | _ => false

/-- Does a function whose TDI is not in RUN carry it (R373)? -/
def anyTdi : Instr → Bool
  | .attest _ _ _ _ | .capsRead _ _ _ => true
  | _ => false

/-- Does a die in maintenance accept it (R388, R398)? -/
def limitedTakes : Instr → Bool
  | .rasLog _ _ _ _ => true
  | i => anyTdi i

/-- Is a command Denied in this queue, carried out by the Signal box of die d (R373, R388, R398)? -/
def State.denied (s : State) (q d : Nat) (i : Instr) : Bool :=
  (!limitedTakes i && (d :: namedDies i).any (fun e => (s.die e).limited))
    || (decide (q < 256) && (!ownQueueTakes q i || (q != 0 && !(s.session q).tdiRun && !anyTdi i)))

/-- Die whose Signal box serves a queue: a session's home die, or the management queue's (R373). -/
def State.queueDie (s : State) (q : Nat) : Nat := if q < 256 then (s.session q).home else q - 256

/-- Can the queue carry commands: its registers are there, its function is not disabled (R373), it is not STOPPED, and
no command of it is in progress (R378)? -/
def State.queueOpen (s : State) (q : Nat) : Bool :=
  let x := s.queue q
  s.queueThere q && !x.stopped && !x.busy

/-- The end of a command: its record, or its place among those in progress. A queue that is gone takes none. -/
def State.settleCommand (q : Nat) (stamp : BitVec 16) (i : Instr) (a : Answer) : State :=
  match a.2 with
  | some status => if q < 256 ∧ (a.1.session q).state = .free then a.1 else a.1.reply q stamp status 0
  | none => { a.1 with commands := a.1.commands ++ [{ q := q, stamp := stamp, what := i }] }

/-- Is a command a SESS_END with the park option of a session whose own ring holds a command not yet fetched (R17)? -/
def State.unfetched (s : State) (i : Instr) : Bool :=
  match i with
  | .sessEndPark _ v => decide (v < 256) && (s.queue v).sqHead != (s.queue v).sqTail
  | _ => false

/-- The next command of a queue is carried out: where it is not Denied, by the Signal box of the queue's die, or forwarded
to that of the home die of the session it names (R373). -/
def State.carry (s : State) (q : Nat) (i : Instr) : State :=
  if !s.queueOpen q then s
  else
    let x := s.queue q
    let stamp : BitVec 16 := x.sqHead.setWidth 16
    let s := s.setQueue q { x with sqHead := x.sqHead + 1, busy := true, torn := 0 }
    let d := s.queueDie q
    let home := match namedSession i with
      | some v => if (s.session v).state = .free then d else (s.session v).home
      | none => d
    if s.denied q d i then s.reply q stamp 4 0
    else if s.unfetched i then s.reply q stamp 1 0
    else if 256 ≤ q ∧ home ≠ d then
      let y := s.die home
      s.setDie home { y with forwarded := y.forwarded ++ [{ q := q, stamp := stamp, what := i }] }
    else State.settleCommand q stamp i (perform i d s)

/-- FORWARDED_COMMAND (R373): the Signal box of a die carries out the oldest command forwarded to it, once the link it comes
over carries traffic (R382). -/
def execForwardedCommand (die : Nat) (s : State) : Out :=
  .next (
    let x := s.die die
    match x.forwarded with
    | [] => s
    | w :: rest =>
      if !s.linkOpen (s.queueDie w.q) die then s
      else
      let s := s.setDie die { x with forwarded := rest }
      if s.denied w.q die w.what then s.reply w.q w.stamp 4 0
      else State.settleCommand w.q w.stamp w.what (perform w.what die s)).bump

/-- SESS_NEW (R380). -/
def execSessNew (q : Nat) (ops : SessNewOps) (s : State) : Out := .next (s.carry q (.sessNew q ops)).bump

/-- SESS_SLIP (R19, R362). -/
def execSessSlip (q source sess die cores : Nat) (s : State) : Out := .next (s.carry q (.sessSlip q source sess die cores)).bump

/-- SESS_MOVE (R22, R363). -/
def execSessMove (q sess die cores : Nat) (s : State) : Out := .next (s.carry q (.sessMove q sess die cores)).bump

/-- SESS_MOVE with extend (R285). -/
def execSessMoveExtend (q sess die cores : Nat) (s : State) : Out := .next (s.carry q (.sessMoveExtend q sess die cores)).bump

/-- SESS_END (R23). -/
def execSessEnd (q sess : Nat) (s : State) : Out := .next (s.carry q (.sessEnd q sess)).bump

/-- SESS_END with park (R17). -/
def execSessEndPark (q sess : Nat) (s : State) : Out := .next (s.carry q (.sessEndPark q sess)).bump

/-- SESS_END with kill (R23). -/
def execSessEndKill (q sess : Nat) (s : State) : Out := .next (s.carry q (.sessEndKill q sess)).bump

/-- KEY_LOAD (R350). -/
def execKeyLoad (q slot die blob : Nat) (s : State) : Out := .next (s.carry q (.keyLoad q slot die blob)).bump

/-- KEY_DROP (R352). -/
def execKeyDrop (q slot die : Nat) (s : State) : Out := .next (s.carry q (.keyDrop q slot die)).bump

/-- LAYOUT_PUT (R259). -/
def execLayoutPut (q sess ctx layout record : Nat) (s : State) : Out :=
  .next (s.carry q (.layoutPut q sess ctx layout record)).bump

/-- LAYOUT_PUT with reset (R268). -/
def execLayoutPutReset (q sess ctx : Nat) (s : State) : Out := .next (s.carry q (.layoutPutReset q sess ctx)).bump

/-- SUBMIT (R380). -/
def execSubmit (q sess waybill rank : Nat) (sup : Bool) (s : State) : Out :=
  .next (s.carry q (.submit q sess waybill rank sup)).bump

/-- STREAM_SET with start (R305). -/
def execStreamSetStart (q : Nat) (ops : StreamOps) (s : State) : Out := .next (s.carry q (.streamSetStart q ops)).bump

/-- STREAM_SET with stop (R305). -/
def execStreamSetStop (q sess stream : Nat) (s : State) : Out := .next (s.carry q (.streamSetStop q sess stream)).bump

/-- STREAM_SET with restart (R305). -/
def execStreamSetRestart (q sess stream header : Nat) (frame : DWord) (s : State) : Out :=
  .next (s.carry q (.streamSetRestart q sess stream header frame)).bump

/-- ATTEST (R385). -/
def execAttest (q : Nat) (sess : Option Nat) (nonce : BitVec 256) (buffer : Nat) (s : State) : Out :=
  .next (s.carry q (.attest q sess nonce buffer)).bump

/-- CAPS_READ (R384). -/
def execCapsRead (q buffer len : Nat) (s : State) : Out := .next (s.carry q (.capsRead q buffer len)).bump

/-- RAS_LOG (R391). -/
def execRasLog (q buffer len : Nat) (clear : Bool) (s : State) : Out := .next (s.carry q (.rasLog q buffer len clear)).bump

/-- SUBMIT_RESUME (R281): the SUBMIT that a queue waits on is tried again. -/
def execSubmitResume (q : Nat) (s : State) : Out :=
  .next (
    match s.commands.find? (fun (w : Waiting) => w.q == q && (match w.what with
      | .submit _ _ _ _ _ | .streamSetStart _ _ | .streamSetRestart _ _ _ _ _ => true
      | _ => false)) with
    | none => s
    | some w =>
      let s := { s with commands := s.commands.erase w }
      State.settleCommand q w.stamp w.what (perform w.what (s.queueDie q) s)).bump

/-! ## The rings (R375 to R378) -/

/-- SQTAIL (R377): the host names new commands. -/
def execSqtail (q : Nat) (value : BitVec 32) (s : State) : Out :=
  .next (if s.queueThere q then
    s.setQueue q { s.queue q with sqTail := value } else s).bump

/-- RESTART (R378). -/
def execRestart (q : Nat) (s : State) : Out :=
  .next (if s.queueThere q then
    s.setQueue q { s.queue q with stopped := false } else s).bump

/-- The command of OPCODE, FLAGS and BODY (R380); none for any other opcode or a reserved flag. The spec gives the
operands' order and not their places (DESIGN CHOICE, assumption log 11). -/
def readCommand (q op flags : Nat) (body : BitVec 448) : Option Instr :=
  let f := fun (k : Nat) => Config.operand op k body
  let opt := fun (ok : Bool) (i : Instr) => if ok then some i else none
  match op with
  | 0x01 => opt (decide (flags < 4)) (.sessNew q
      { title := f 0, sess := f 1, die := f 2, cores := f 3, sqBase := BitVec.ofNat 64 (f 4), cqBase := BitVec.ofNat 64 (f 5),
        qk := f 6, depths := (List.range 16).map (fun j => f (16 + j)), classes := (List.range 16).map (fun j => f (32 + j)),
        weight := f 7, fmSize := f 8, frSize := f 9,
        windows := (List.range (min (f 10) 17)).map (fun j => (f (48 + 3 * j), f (49 + 3 * j), f (50 + 3 * j) % 2 == 1)),
        depot := flags % 2 == 1, quiescence := flags / 2 % 2 == 1, maintenance := f 11 % 2 == 1 })
  | 0x02 => opt (flags == 0) (.sessSlip q (f 0) (f 1) (f 2) (f 3))
  | 0x03 => opt (decide (flags < 2)) (if flags = 1 then .sessMoveExtend q (f 0) (f 1) (f 2) else .sessMove q (f 0) (f 1) (f 2))
  | 0x04 => opt (decide (flags < 3)) (match flags with
      | 1 => .sessEndPark q (f 0)
      | 2 => .sessEndKill q (f 0)
      | _ => .sessEnd q (f 0))
  | 0x05 => opt (flags == 0) (.keyLoad q (f 0) (f 1) (f 2))
  | 0x06 => opt (flags == 0) (.keyDrop q (f 0) (f 1))
  | 0x07 => opt (decide (flags < 2)) (if flags = 1 then .layoutPutReset q (f 0) (f 1) else .layoutPut q (f 0) (f 1) (f 2) (f 3))
  | 0x08 => opt (decide (flags < 2)) (.submit q (f 0) (f 1) (f 2) (flags == 1))
  | 0x09 => match flags with
      | 0 => some (.streamSetStart q
          { sess := f 0, stream := f 1, hact := f 2, vact := f 3, vtot := f 4, lper := f 5, lead := f 6, depth := f 7 % 2 == 1,
            hist := f 8, mfld := f 9, bsBase := f 10, bsSize := f 11, page := f 12, header := f 13,
            frame := BitVec.ofNat 64 (f 14) })
      | 1 => some (.streamSetStop q (f 0) (f 1))
      | 2 => some (.streamSetRestart q (f 0) (f 1) (f 13) (BitVec.ofNat 64 (f 14)))
      | _ => none
  | 0x0A => opt (flags == 0) (.attest q (if f 0 < 256 then some (f 0) else none) (BitVec.ofNat 256 (f 1)) (f 2))
  | 0x0B => opt (flags == 0) (.capsRead q (f 0) (f 1))
  | 0x0C => opt (decide (flags < 2)) (.rasLog q (f 0) (f 1) (flags == 1))
  | _ => none

/-- COMMAND_FETCH (R376, R377): a fetch whose two stamps are the expected one is accepted and the command carried out;
after nine torn fetches the queue stops with COMMAND_TORN. -/
def execCommandFetch (q : Nat) (s : State) : Out :=
  .next (
    let x := s.queue q
    if !s.queueOpen q || x.sqHead == x.sqTail then s
    else
      let w := BitVec.ofNat 512 (leNat (s.hostBytes (x.sqBase.toNat + 64 * (x.sqHead.toNat % 2 ^ x.qk)) 64))
      let stampF : BitVec 16 := w.extractLsb' 16 16
      let stampL : BitVec 16 := w.extractLsb' 496 16
      let want : BitVec 16 := x.sqHead.setWidth 16
      if stampF = want ∧ stampL = want then
        match (if w.extractLsb' 480 16 = 0 then
            readCommand q (w.extractLsb' 0 8).toNat (w.extractLsb' 8 8).toNat (w.extractLsb' 32 448) else none) with
        | some i => s.carry q i
        | none => (s.setQueue q { x with sqHead := x.sqHead + 1, busy := true, torn := 0 }).reply q want 2 0
      else if x.torn < 8 then s.setQueue q { x with torn := x.torn + 1 }
      else
        let s := s.reply q want 0x1D (stampF ++ stampL)
        s.setQueue q { s.queue q with torn := 0, stopped := true }).bump

/-! ## STREAM_MOVE (R22, R305) -/

/-- The core of a stream's quadrant, with what its consists have there taken out, or brought in under their new keys. -/
def Core.leave (c : Core) (mine : Nat → Bool) : Core :=
  { c with log := c.log.filter (fun e => !mine e.consist), rows := c.rows.filter (fun e => !mine e.consist),
           rows1 := c.rows1.filter (fun e => !mine e.consist), rowOwner := c.rowOwner.filter (fun k => !mine k),
           rowOwner1 := c.rowOwner1.filter (fun k => !mine k), rowWait := c.rowWait.filter (fun e => !mine e.1),
           last := c.last.filter (fun e => !mine (e.2 - 1)) }
/-- See `Core.leave`. -/
def Core.enter (c from' : Core) (mine : Nat → Bool) (f : Nat → Nat) : Core :=
  let row := fun (e : RowEntry) => { e with consist := f e.consist }
  { c with log := c.log ++ (from'.log.filter (fun e => mine e.consist)).map (fun e => { e with consist := f e.consist }),
           rows := c.rows ++ (from'.rows.filter (fun e => mine e.consist)).map row,
           rows1 := c.rows1 ++ (from'.rows1.filter (fun e => mine e.consist)).map row,
           rowOwner := c.rowOwner.orElse (fun _ => (from'.rowOwner.filter mine).map f),
           rowOwner1 := c.rowOwner1.orElse (fun _ => (from'.rowOwner1.filter mine).map f),
           rowWait := c.rowWait ++ (from'.rowWait.filter (fun e => mine e.1)).map (fun e => (f e.1, e.2)),
           last := (from'.last.filter (fun e => mine (e.2 - 1))).foldl (fun t e => tset t e.1 (f (e.2 - 1) + 1)) c.last }

/-- A consist of a moved stream: CID names its new core, and its waits on a sibling's class-2 timeline follow it. -/
def Consist.moved (c : Consist) (key : Nat) (keys : List Nat) (f : Nat → Nat) : Consist :=
  let owner := fun (o : Nat) => match keys.find? (fun k => matrixOwner k == o) with | some k => matrixOwner (f k) | none => o
  let strm := fun (x : StreamSt) => { x with tlWaits := x.tlWaits.map (fun t => { t with owner := owner t.owner }) }
  { c with cid := cidOf key c.ci c.level, a := strm c.a, c := strm c.c,
           saved := c.saved.map (fun v => { v with a := strm v.a, c := strm v.c }) }

/-- STREAM_MOVE (R22, R305): at an output-frame boundary, with the history written and no operation in progress, the
stream passes to the Terminus of its session's new home die, with its number, numbering, counters and band program. -/
def execStreamMove (die stream : Nat) (s : State) : Out :=
  .next (
    let t := s.stream die stream
    let x := s.session t.sess
    let dst := x.home
    if t.state = 0 ∨ dst = die ∨ (s.stream dst stream).state ≠ 0
        ∨ s.linkOpen die dst = false ∨ t.lastSettled % t.bandsPerFrame ≠ 0 ∨ t.settled ≠ [] ∨ t.op.isSome = true then s
    else
      let core := 256 + 8 * die + stream / 2
      let core' := 256 + 8 * dst + stream / 2
      let keys := ((s.consistsOn core).filter (fun e => quadOf e.1 == stream % 2)).map (fun e => e.1)
      let f := fun (k : Nat) => k - 128 * die + 128 * dst
      let mine := fun (k : Nat) => keys.contains k
      let s := s.setCore core' ((s.core core').enter (s.core core) mine f)
      let s := s.setCore core ((s.core core).leave mine)
      let s := s.rekey keys f
      let s := keys.foldl (fun (s : State) k => s.modConsist (f k) (fun c => c.moved (f k) keys f)) s
      let s := s.modConvoy t.convoy (fun v => { v with core := core' })
      (s.setStream dst stream t).setStream die stream default).bump

end Sys2Proof.Machine
end

