-- ==== Sys2Proof/Machine/Hints.lean ====
section
/-!
DEFINITION. Major 0x7F: the hints (R40 to R47). A hint acts on every lane of its run; a lane that fails a guard stays in
the run (R40).
-/

namespace Sys2Proof.Machine

open Sys2Proof

/-- A hint word that changes the stream of its run; `bad` is an ILLOP that `ownIllop` does not give. -/
def hint (w : Word) (bad : Bool) (f : Ctx → StreamSt → StreamSt) (s : State) : Out :=
  issue w { hint := true, illop := bad }
    (fun x s =>
      match s.consist? x.key with
      | none => .stop s
      | some c => .ok (s.setConsist x.key (c.setStrm x.st (f x (c.strm x.st))))) s

/-- A hint that becomes pending for the lanes of its run; a second one of its kind raises ILLOP (R40). -/
def pend (w : Word) (has : Hints → Bool) (put : Hints → Hints) (s : State) : Out :=
  let again := match findCtx s with
    | some x => has x.hints
    | none => false
  hint w again
    (fun x sx =>
      let first := match tfind (lowest x.run) sx.hints with
        | some h => h.first
        | none => x.pc
      let h := { put x.hints with first := first }
      { sx with hints := (lanesOf x.run).foldl (fun t l => tput l h t) sx.hints }) s

/-- HINT.CONST (R41). -/
def execHintConst (k : BitVec 22) (s : State) : Out :=
  pend (packHnt 0 k) (fun h => h.const.isSome) (fun h => { h with const := some k }) s

/-- HINT.GUARD (R42): a window over the next n + 1 instructions, which the lanes whose predicate is 1 − sense pass. -/
def execHintGuard (p : BitVec 3) (x : BitVec 1) (n : BitVec 4) (s : State) : Out :=
  hint (packHnt 1 (p ++ x ++ n ++ 0#14)) false
    (fun y sx =>
      let pass := maskWhere (fun l => y.run.getLsbD l && (sx.pred p.toNat l == (x == 0)))
      { sx with guardLeft := setLanes sx.guardLeft (lanesOf y.run) (fun _ => n.toNat + 1),
                guardPass := (sx.guardPass &&& ~~~y.run) ||| pass }) s

/-- HINT.HOLD (R43): counts 1 to 8. -/
def execHintHold (n : BitVec 4) (s : State) : Out :=
  hint (packHnt 2 (0#18 ++ n)) false (fun _ sx => { sx with hold := n.toNat }) s

/-- HINT.SCOPE (R44): scopes 1 to 12. -/
def execHintScope (x : BitVec 4) (o : BitVec 2) (s : State) : Out :=
  pend (packHnt 3 (x ++ o ++ 0#16)) (fun h => h.scope.isSome)
    (fun h => { h with scope := some (x, o) }) s

/-- HINT.ROUND (R45). -/
def execHintRound (m : BitVec 3) (s : State) : Out :=
  pend (packHnt 4 (m ++ 0#19)) (fun h => h.round.isSome) (fun h => { h with round := some m }) s

/-- HINT.MOD (R46). -/
def execHintMod (t f : BitVec 2) (a b c : BitVec 1) (s : State) : Out :=
  pend (packHnt 5 (t ++ f ++ a ++ b ++ c ++ 0#15)) (fun h => h.mod.isSome)
    (fun h => { h with mod := some (t ++ f ++ a ++ b ++ c) }) s

/-- HINT.SCHED (R47). -/
def execHintSched (n : BitVec 6) (y : BitVec 1) (s : State) : Out :=
  pend (packHnt 6 (n ++ y ++ 0#15)) (fun h => h.sched.isSome) (fun h => { h with sched := some (n ++ y) }) s

end Sys2Proof.Machine
end

