-- ==== Sys2Proof/Machine/Ras.lean ====
section
/-!
DEFINITION. The outside of the part: host accesses (R383), TDISP and IDE (R372, R373), the die links (R381, R382), register
writes (R316, R356, R375, R392), die reset (R350), errors (R387 to R393, R399), routers (R394), operating points (R395 to
R397), temperature (R398) and the thermal columns (R400).
-/

namespace Sys2Proof.Machine

open Sys2Proof

/-! ## The host (R372 to R374, R383) -/

/-- The function number of a host request: numbers from 256 on name the physical functions of dies 1 to 3, whose function
number is 0 like that of die 0 (R373). -/
def functionNumber (func : Nat) : Nat := func % 256

/-- The die whose PCIe link a function stands on: its session's home die (R373). -/
def State.functionDie (s : State) (func : Nat) : Nat :=
  if functionNumber func = 0 then func / 256 % 4 else (s.session (functionNumber func)).home

/-- Is a function there: a VF is disabled while its session is FREE or DEPOT (R373)? -/
def State.functionThere (s : State) (func : Nat) : Bool :=
  functionNumber func == 0 || s.queueThere (functionNumber func)

/-- The bytes of BAR0 of a function (R374). -/
def barSize (func : Nat) : Nat := if functionNumber func = 0 then 2 ^ 24 else 2 ^ 16

/-- The register block at an offset of BAR0, its unit and the offset in it (R374, R392). Unit 260 is the queue of session 0
on a die that it does not live on. -/
def State.barBlock (s : State) (func off : Nat) : Option (RegBlock × Nat × Nat) :=
  let d := s.functionDie func
  if functionNumber func ≠ 0 then some (.queue, functionNumber func, off)
  else if 0x100000 ≤ off ∧ off < 0x101000 then some (.queue, 256 + d, off - 0x100000)
  else if 0x101000 ≤ off ∧ off < 0x102000 then some (.queue, if (s.session 0).home = d then 0 else 260, off - 0x101000)
  else if 0x200000 ≤ off ∧ off < 0x210000 then some (.ras, d, off - 0x200000)
  else none

/-- A byte of BAR0: of a register block, of the capability list and the certificates after it (R384), else 0. -/
def State.barByte (s : State) (func off : Nat) : Byte :=
  match s.barBlock func off with
  | some (b, u, o) => (s.readBlock b u (o / 8 * 8)).extractLsb' (8 * (o % 8)) 8
  | none => let d := s.functionDie func; (s.capList d ++ Config.certificates d).getD off 0

/-- A host request reads BAR0. -/
def State.readBar (s : State) (func off size : Nat) : State :=
  let s := match s.barBlock func off with
    | some (b, u, o) => s.sampleBlock b u o size
    | none => s
  { s with hostRead := BitVec.ofNat 64 (leNat ((List.range size).map (fun j => s.barByte func (off + j)))) }

/-- A host request writes BAR0. -/
def State.writeBar (s : State) (func off size : Nat) (v : DWord) : State :=
  match s.barBlock func off with
  | some (b, u, o) => s.writeBlock b u o size v
  | none => s

/-- The pages of a session whose seal is in progress and whose private frame is f (R359). -/
def State.sealsOf (s : State) (v f : Nat) : List Nat :=
  ((s.session v).seals.filter (fun e => match s.mappedPage v e.va with | some (_, m) => m.pframe == f | none => false)).map
    (fun e => e.va)

/-- Is a frame one of a page whose copy-on-write break is in progress (R340)? -/
def State.breakingFrame (s : State) (f : Nat) : Bool :=
  s.sessions.any (fun e => e.2.breaks.any (fun p => match s.mappedPage e.1 (p * 1024) with
    | some (_, m) => m.pframe == f || m.sframe == f
    | none => false))

/-- Does a host request for device memory wait: for a logged store to the granule (R69), for a frame in transit (R364), a
break, a sweep or a link (R79, R352, R382)? -/
def State.hostWaits (s : State) (agent a n : Nat) : Bool :=
  s.barred agent a || s.barred agent (a + n - 1) || s.inLog none (some a) n
    || [a / 4096, (a + n - 1) / 4096].any (fun f => s.sessions.any (fun e => e.2.transit.contains f) || s.breakingFrame f)

/-- A host write of a page that is being sealed makes the seal abort, and waits for that (R359, R79). -/
def State.abortSeals (s : State) (a n : Nat) : Option State :=
  let pages := s.sessions.flatMap (fun e =>
    [a / 4096, (a + n - 1) / 4096].flatMap (fun f => (s.sealsOf e.1 f).map (fun va => (e.1, va))))
  if pages = [] then none else some (pages.foldl (fun s p => s.wantSeal p.1 p.2) s)

/-- HOST_ACCESS (R15, R374, R383): a host requester reads or writes up to eight bytes of device memory or, at addresses from
2^40 on, of BAR0 of its function (DESIGN CHOICE, assumption log 20). Data that were lost read as a free value; a loss met
here ends no session of its own (R388). A disabled function answers a read with a free value. -/
def execHostAccess (func addr size : Nat) (write : Bool) (data : BitVec 64) (s : State) : Out :=
  if (addr < 2 ^ 40 ∧ 2 ^ 40 < addr + size) ∨ (2 ^ 40 ≤ addr ∧ 2 ^ 40 + barSize func < addr + size) then .fault .noDeviceAddress
  else .next (
    let agent := agentId (s.functionDie func) 9 (functionNumber func)
    if size = 0 ∨ 8 < size then s
    else if !s.functionThere func then if write then s else { s with hostRead := s.free }
    else if 2 ^ 40 ≤ addr then
      if write then s.writeBar func (addr - 2 ^ 40) size data else s.readBar func (addr - 2 ^ 40) size
    else if s.hostWaits agent addr size then s
    else if write then
      match s.abortSeals addr size with
      | some t => t
      | none => (s.writeNat addr size data.toNat).noteWrite false none (spansOf .mem addr size)
    else match s.lineState addr size with
      | .good => { (s.readDone addr size) with hostRead := BitVec.ofNat 64 (s.word addr size) }
      | .poisoned _ => { s with hostRead := s.free }
      | .broken a store place =>
        { ((s.countDue store a).loseLine store a agent place (s.setAt store place a) (s.free.toNat % 16) none none) with
            hostRead := s.free }).bump

/-- TDISP_REQUEST (R373): the TDI of a virtual function, on its session's home die, enters or leaves RUN. -/
def execTdispRequest (func die : Nat) (run : Bool) (s : State) : Out :=
  .next (
    let x := s.session func
    if func = 0 ∨ 255 < func ∨ x.state = .free ∨ x.state = .depot ∨ x.home ≠ die then s
    else s.setSession func { x with tdiRun := run }).bump

/-- IDE_STREAM_ACTIVATION (R372): the link stream is number 0, the selective ones 1 to 16. -/
def execIdeStreamActivation (die stream : Nat) (active : Bool) (s : State) : Out :=
  .next (
    if 3 < die ∨ 16 < stream then s
    else
      let x := s.die die
      let others := x.ide.filter (fun k => k != stream)
      s.setDie die { x with ide := if active then stream :: others else others }).bump

/-! ## Die links (R381, R382) -/

/-- Change both directions of a link. -/
def State.modLinks (s : State) (a b : Nat) (f : Link → Link) : State :=
  let l := tset s.links (4 * a + b) (f (s.link a b))
  { s with links := tset l (4 * b + a) (f (s.link b a)) }

/-- Two different dies of the module. -/
def linkOk (a b : Nat) : Bool := decide (a < 4) && decide (b < 4) && a != b

/-- DIE_LINK_FLIT (R381, R382): a good flit is delivered and the counter advances; a bad one is discarded and replayed. A
link that must resynchronise, or rekey before its counter reaches 2^48, carries none. -/
def execDieLinkFlit (src dst : Nat) (good : Bool) (s : State) : Out :=
  .next (
    let l := s.link src dst
    if !linkOk src dst || l.down || decide (3 ≤ l.failures) || decide (2 ^ 48 ≤ l.counter.toNat + 1) then s
    else
      let l := if good then { l with counter := l.counter + 1, delivered := l.delivered + 1, failures := 0 }
        else { l with failures := l.failures + 1 }
      { s with links := tset s.links (4 * src + dst) l }).bump

/-- Both directions of a link have new keys, and their counters start at 0. -/
def Link.rekey (l : Link) : Link := { l with counter := 0, epoch := l.epoch + 1 }

/-- LINK_RESYNC (R382). -/
def execLinkResync (src dst : Nat) (s : State) : Out :=
  .next (
    if linkOk src dst && s.mustResync src dst && !(s.link src dst).down then
      s.modLinks src dst (fun l => { l.rekey with failures := 0 })
    else s).bump

/-- LINK_DOWN (R382): retraining has failed: every session with frames or a partition on either die ends by POISON. -/
def execLinkDown (src dst : Nat) (s : State) : Out :=
  .next (
    if linkOk src dst && s.mustResync src dst && !(s.link src dst).down then
      let s := s.modLinks src dst (fun l => { l with down := true })
      let s := s.poisonAll ((s.sessionsOn src ++ s.sessionsOn dst).eraseDups) none none none
      let s := s.logRecord src (logBits 8 7 0 0 (agentId src 10 dst) 0 0 0)
      s.logRecord dst (logBits 8 7 0 0 (agentId dst 10 src) 0 0 0)
    else s).bump

/-- LINK_REKEY (R381). -/
def execLinkRekey (src dst : Nat) (s : State) : Out :=
  .next (if linkOk src dst && !(s.link src dst).down then s.modLinks src dst Link.rekey else s).bump

/-! ## Die reset (R17, R350, R381) -/

/-- A session is gone with the die that held it. -/
def State.vanish (s : State) (v : Nat) : State :=
  let s := (s.stopWork v).dropRefs v
  let s := (List.range 4).foldl (fun (s : State) d =>
    let s := s.scrubSession d v
    let x := s.die d
    s.setDie d { x with slots := tdel (65 + v) x.slots }) s
  s.releaseSession v

/-- The sessions with anything on a die. -/
def State.sessionsAt (s : State) (d : Nat) : List Nat :=
  let homed := (s.sessions.filter (fun e => e.2.state != .free && e.2.home == d)).map (fun e => e.1)
  let run := s.consists.filterMap (fun e => e.2.bind (fun c => if dieOf e.1 = d then some c.sess else none))
  let streams := ((s.die d).streams.filter (fun t => t.2.state != 0)).map (fun t => t.2.sess)
  (homed ++ s.sessionsOn d ++ streams ++ run).eraseDups

/-- DIE_RESET (R350): the die is as after reset: its sessions are gone, its memory and its engines' state too; key slot 0
and the slots of the titles that exist are loaded, and its links have new keys. -/
def execDieReset (die : Nat) (s : State) : Out :=
  .next (
    if 3 < die then s
    else
      let s := (s.sessionsAt die).foldl State.vanish s
      let s := (s.die die).forwarded.foldl (fun (s : State) w => if w.q = 256 + die then s else s.reply w.q w.stamp 1 0) s
      let f := die * 2 ^ 26
      let onDie := fun (l : Nat) => l * 128 / 2 ^ 38 == die
      let s : State := { s with
        lines := s.lines.filterMap (fun e =>
          let l := if (e.1 < 256 ∧ e.1 / 64 = die) ∨ (256 ≤ e.1 ∧ (e.1 - 256) / 8 = die) then []
            else e.2.filter (fun x => !onDie x.1)
          if l = [] then none else some (e.1, l)),
        texLines := s.texLines.filterMap (fun e =>
          let l := if e.1 / 64 = die then [] else e.2.filter (fun x => !onDie x)
          if l = [] then none else some (e.1, l)),
        dies := s.dies.map (fun e => (e.1, { e.2 with directory := e.2.directory.filter (fun w => frameDie w.2.frame != die) })),
        mem := clearRange s.mem (die * 2 ^ 38) (2 ^ 38), ownership := clearRange s.ownership f (2 ^ 26),
        refs := clearRange s.refs f (2 ^ 26), grants := clearRange s.grants f (2 ^ 26),
        poison := clearRange s.poison (f * 32) (2 ^ 31),
        corrupt := (clearRange s.corrupt (f * 32) (2 ^ 31)).filter (fun e => storeDie e.2.1 e.2.2.2 (e.1 * 128) != die),
        accesses := clearRange s.accesses (f * 1024) (2 ^ 36), syncs := clearRange s.syncs (f * 1024) (2 ^ 36),
        cores := clearRange (clearRange s.cores (64 * die) 64) (256 + 8 * die) 8,
        stations := (List.range 8).foldl (fun t j => tset t (8 * die + j) Station.reset) s.stations,
        engineTlbs := clearRange s.engineTlbs (die * 2 ^ 18) (2 ^ 18),
        commands := s.commands.filter (fun w => w.q != 256 + die) }
      let s := (s.setDie die Die.reset).setQueue (256 + die) CmdQueue.resetMgmt
      let s := ((List.range 4).filter (fun d => d != die)).foldl (fun (s : State) d =>
        s.modLinks die d (fun l => { l.rekey with failures := 0, down := false })) s
      ((s.sessions.filter (fun e => e.2.state != .free)).map (fun e => e.2.title)).foldl State.loadTitle s).bump

/-! ## Errors (R387 to R391, R399) -/

/-- The trap record of a consist that consumed lost data at the instruction it would issue next (R389). -/
def State.consumerRecord (s : State) (k : Nat) (v : DWord) : Option (Nat × TrapRecord) :=
  let at' := fun (st : Strm) => findCtx { s with focus := (k, st) }
  ((at' .a).orElse (fun _ => at' .c)).map (fun x =>
    (consistAgent k, { trapc := trapcOf .poison false x.st x.run, trapv := v, trappc := x.pc }))

/-- UNCORRECTABLE_ERROR (R387 to R391): by the store that met it. -/
def execUncorrectableError (die : Nat) (ops : ErrorOps) (s : State) : Out :=
  .next (
    let a := ops.addr
    let sess := match ops.consumer with
      | some k => (s.consist? k).map (fun (c : Consist) => c.sess)
      | none => none
    let reader := sess.orElse (fun _ => ops.reader)
    let agent := match ops.consumer with
      | some k => consistAgent k
      | none => if ops.store = 1 then coreAgent (64 * die + ops.unit % 64) else agentId die 8 0
    let place := injectedPlace die ops.store ops.unit
    let line := if ops.store = 1 then tget (tget s.lines place) (a / 128) else none
    let dirty := match line with | some c => c.dirty | none => ops.dirty || ops.store == 4
    let set := if (match line with | some c => c.stash.isSome | none => false) then ops.setIx % 128 else setIndex ops.store a
    let way := ops.way % 16
    let record := fun (v : DWord) => ops.consumer.bind (fun k => s.consumerRecord k v)
    if 3 < die then s
    else if 1 ≤ ops.store ∧ ops.store ≤ 4 then
      if 2 ^ 40 ≤ a then s
      else if !dirty then s.refetch die ops.store a agent place set way
      else
        let s := if line.isSome then s.setLines place (tdel (a / 128) (tget s.lines place)) else s
        (s.countDue ops.store a).loseLine ops.store a agent place set way reader (record (poisonValue ops.store a))
    else if ops.store = 5 ∨ ops.store = 6 ∨ ops.store = 8 then
      match reader with
      | some v => (s.countUe die ops.store).poisonSession v (record (poisonValue ops.store 0))
          (some (die, logBits 2 ops.store (65 + v) 0 agent 1 0 0))
      | none => s
    else if ops.store = 9 then
      let s := (s.countUe die 9).poisonAll (s.sessionsOn die) reader (record (poisonValue 9 0))
        (some (die, logBits 2 9 0 0 agent 1 0 0))
      s.setDie die { s.die die with limited := true }
    else s).bump

/-- DRAM_CORRECTION_REPORT (R399). -/
def execDramCorrectionReport (die channel count : Nat) (s : State) : Out :=
  .next (if die < 4 ∧ channel < 32 then s.modChannel die channel (fun c => { c with odec := addSat c.odec count }) else s).bump

/-! ## Registers (R316, R356, R375, R392, R393, R395) -/

/-- RASCTL_CLR (R392). -/
def execRasctlClr (die : Nat) (s : State) : Out := .next (if die < 4 then s.setDie die (s.die die).clear else s).bump

/-- INJCTL_ARM (R393). -/
def execInjctlArm (die : Nat) (value : BitVec 64) (s : State) : Out :=
  .next (if die < 4 then s.setDie die ((s.die die).writeInjctl value) else s).bump

/-- VFK (R395). -/
def execVfk (die k : Nat) (value : BitVec 64) (s : State) : Out :=
  .next (if die < 4 then s.setDie die ((s.die die).writeVf k value) else s).bump

/-- KEYREQ (R316): the stream's next frame is a key frame. -/
def execKeyreq (die stream : Nat) (s : State) : Out :=
  .next (if (s.stream die stream).state ≠ 0 then s.modStream die stream (fun t => { t with keyReq := true }) else s).bump

/-- REGISTER_WRITE (R316, R356, R374, R375, R392): eight aligned bytes at an offset of a block; one that is not listed, or
read-only, or out of its range, changes nothing. -/
def execRegisterWrite (block : RegBlock) (unit offset : Nat) (value : BitVec 64) (s : State) : Out :=
  .next (s.writeBlock block unit offset 8 value).bump

/-! ## Operating points, supply and temperature (R395 to R398) -/

/-- Change every station of a die. -/
def State.modStations (s : State) (d : Nat) (f : Station → Station) : State :=
  (List.range 8).foldl (fun (s : State) j => s.setStation (8 * d + j) (f (s.station (8 * d + j)))) s

/-- POWER_AVERAGE (R396): over the die's share of the cap every point falls by one, and 5 % below it every point that is
not limited rises by one. -/
def execPowerAverage (die milliwatts : Nat) (s : State) : Out :=
  .next (
    let cap := (s.die die).pcap.toNat * 250
    if 3 < die then s
    else if cap < milliwatts then s.modStations die (fun g => { g with curPt := max g.minPt.toNat (g.curPt - 1) })
    else if milliwatts * 100 < cap * 95 then
      s.modStations die (fun g => if g.throttled = [] then { g with curPt := min g.maxPt.toNat (g.curPt + 1) } else g)
    else s).bump

/-- SUPPLY_DIP (R397). -/
def execSupplyDip (die station : Nat) (s : State) : Out :=
  .next (if die < 4 ∧ station < 8 then
    s.setStation (8 * die + station) { s.station (8 * die + station) with halved := true } else s).bump

/-- SUPPLY_RECOVERY (R397). -/
def execSupplyRecovery (die station : Nat) (s : State) : Out :=
  .next (if die < 4 ∧ station < 8 then
    s.setStation (8 * die + station) { s.station (8 * die + station) with halved := false } else s).bump

/-- A sensor's reading, with its greatest since CLR (R392). -/
def State.reading (s : State) (d j : Nat) (r : BitVec 16) : State :=
  let x := s.die d
  let t := tget x.sensors j
  let top := match t.tmax with
    | some (m, true) => if m.toInt < r.toInt then r else m
    | _ => r
  s.setDie d { x with sensors := tset x.sensors j { temp := r, tmax := some (top, true) } }

/-- The station whose area a core-layer sensor covers: sensors 2k and 2k + 1 lie over station k (PRESUMED, assumption log 32). -/
def sensorStation (d j : Nat) : Nat := 8 * d + j / 2

/-- THROTTLE (R398): a core-layer sensor reads above THR: the station under it falls by one point. -/
def execThrottle (die sensor : Nat) (reading : BitVec 16) (s : State) : Out :=
  .next (
    if 3 < die ∨ 47 < sensor then s
    else
      let s := s.reading die sensor reading
      if 15 < sensor ∨ reading.toInt ≤ (s.die die).thr.toInt then s
      else
        let g := s.station (sensorStation die sensor)
        let first := !g.throttled.contains sensor
        let s := s.setStation (sensorStation die sensor)
          { g with curPt := max g.minPt.toNat (g.curPt - 1), throttled := if first then sensor :: g.throttled else g.throttled }
        if first then s.logRecord die (logBits 6 0 0 0 (agentId die 8 0) 0 0 0) else s).bump

/-- THROTTLE_RELEASE (R398): the sensor reads below THR − 16: it limits its station no longer. -/
def execThrottleRelease (die sensor : Nat) (reading : BitVec 16) (s : State) : Out :=
  .next (
    if 3 < die ∨ 47 < sensor then s
    else
      let s := s.reading die sensor reading
      if 15 < sensor ∨ (s.die die).thr.toInt - 16 ≤ reading.toInt then s
      else
        let g := s.station (sensorStation die sensor)
        s.setStation (sensorStation die sensor) { g with throttled := g.throttled.filter (fun j => j != sensor) }).bump

/-- THERMAL_TRIP (R398): a sensor reads above TRIP: every core halts, every session with a partition, a stream or a consist
on the die ends by POISON, and the die takes three commands only until it is reset. -/
def execThermalTrip (die sensor : Nat) (reading : BitVec 16) (s : State) : Out :=
  .next (
    if 3 < die ∨ 47 < sensor then s
    else
      let s := s.reading die sensor reading
      if reading.toInt ≤ (s.die die).trip.toInt then s
      else
        let x := s.die die
        let parts := (s.sessions.map (fun e => e.1)).filter (fun v => x.activeBank.any (fun e => e.2 == v + 1))
        let streams := (x.streams.filter (fun t => t.2.state != 0)).map (fun t => t.2.sess)
        let run := s.consists.filterMap (fun e => e.2.bind (fun c => if dieOf e.1 = die then some c.sess else none))
        let s := s.setDie die { x with tripped := true, limited := true }
        (s.poisonAll (parts ++ streams ++ run).eraseDups none none none).logRecord die (logBits 7 0 0 0 (agentId die 8 0) 0 0 0)).bump

/-! ## Routers and columns (R394, R400) -/

/-- Change a router. -/
def State.modRouter (s : State) (d v : Nat) (f : Router → Router) : State :=
  let x := s.die d
  s.setDie d { x with routers := tset x.routers v (f (tget x.routers v)) }

/-- The routing table in use: what a column is not listed for goes through its own router. -/
def Die.routes (x : Die) : Table Nat := if x.routeActive1 then x.route1 else x.route0

/-- Write the inactive bank of the routing tables. -/
def Die.writeRoutes (x : Die) (t : Table Nat) : Die := if x.routeActive1 then { x with route0 := t } else { x with route1 := t }

/-- A routing table with the traffic of column v through router v XOR 1. -/
def detour (t : Table Nat) (v : Nat) : Table Nat := tput v ((v ^^^ 1) + 1) t

/-- The routers of a die that wait for a quiesce point. -/
def Die.readyRouters (x : Die) : List Nat := (List.range 64).filter (fun v => (tget x.routers v).state == 1)

/-- The inactive bank holds the table in use with the routers that wait for a quiesce point taken out. -/
def Die.prepareRoutes (x : Die) : Die := x.writeRoutes (x.readyRouters.foldl detour x.routes)

/-- The retire mark of a router: the banks flip, its column alone detoured; the routers that still wait have their bank
written again (R394). -/
def Die.markRouter (x : Die) (v : Nat) : Die :=
  let x := x.writeRoutes (detour x.routes v)
  { x with routeActive1 := !x.routeActive1, routers := tset x.routers v { tget x.routers v with state := 2 } }.prepareRoutes

/-- CANARY_SAMPLE (R394): the sixteenth sample in a row above LIM starts the retirement: the inactive bank is written. -/
def execCanarySample (die router : Nat) (res : BitVec 16) (s : State) : Out :=
  .next (
    if 3 < die ∨ 63 < router then s
    else
      let r := tget (s.die die).routers router
      if res.toNat ≤ (s.canaryLimit die router).toNat then s.modRouter die router (fun r => { r with res := res, overLim := 0 })
      else
        let n := r.overLim + 1
        let starts := decide (16 ≤ n) && r.state == 0
        let s := s.modRouter die router (fun r =>
          { r with res := res, overLim := n, state := if starts then 1 else r.state })
        let s := if starts then s.setDie die (s.die die).prepareRoutes else s
        if n = 1 then s.logRecord die (logBits 4 0 0 0 (coreAgent (64 * die + router)) 0 0 0) else s).bump

/-- ROUTER_RETIRE_MARK (R394): at a quiesce point the routing banks flip. -/
def execRouterRetireMark (die router : Nat) (s : State) : Out :=
  .next (if die < 4 ∧ router < 64 ∧ (tget (s.die die).routers router).state = 1 then
    s.setDie die ((s.die die).markRouter router) else s).bump

/-- ROUTER_RETIRED (R394): the router is empty: RTD, and a record of class 5; cores that no router serves any more leave
every partition by a flip. -/
def execRouterRetired (die router : Nat) (s : State) : Out :=
  .next (
    if 3 < die ∨ 63 < router ∨ (tget (s.die die).routers router).state ≠ 2 then s
    else
      let s := s.modRouter die router (fun r => { r with state := 3 })
      let s := s.logRecord die (logBits 5 0 0 0 (coreAgent (64 * die + router)) 0 0 0)
      let x := s.die die
      if x.cutOff router then s.setDie die (x.plan (tdel (router ^^^ 1) (tdel router x.nextBank))) else s).bump

/-- CONTESTED_CYCLE (R400): who wins a cycle in which both sides of a column ask for full rate. -/
def execContestedCycle (die column : Nat) (coreAsks engineAsks deadline : Bool) (s : State) : Out :=
  .next (
    if 3 < die ∨ 63 < column ∨ coreAsks = false ∨ engineAsks = false then s
    else
      let k := 64 * die + column
      let c := s.core k
      let engine := deadline || (decide (2 ≤ c.engineRefused) && !decide (2 ≤ c.coreRefused))
      s.setCore k (if engine then { c with engineRefused := 0, coreRefused := c.coreRefused + 1 }
        else { c with coreRefused := 0, engineRefused := c.engineRefused + 1 })).bump

end Sys2Proof.Machine
end

