-- ==== Sys2Proof/Machine/Rational.lean ====
section
/-!
DEFINITION. Majors 0x2A and 0x2B: the rational instructions and RMODE (R207, R222, R223).
-/

namespace Sys2Proof.Machine

open Sys2Proof

/-- The bits of source A. -/
def qsrcA (x : Ctx) (a : BitVec 7) (lane : Nat) : Nat := (src1 x a lane).toNat
/-- The bits of source B, after A. -/
def qsrcB (x : Ctx) (a b : BitVec 7) (lane : Nat) : Nat := (src2 x a b lane).toNat

/-- A 32-bit value as a signed integer. -/
def signed32 (v : Nat) : Int := (BitVec.ofNat 32 v).toInt

/-- A form with an RQ32 result: rounded, then RATZ and RATX (R209, R213, R214). -/
def slashForm (w : Word) (o : OpInfo) (d : BitVec 7) (nw : Bool) (value : Ctx → Nat → RNum)
    (reserved : Ctx → Nat → Bool) (s : State) : Out :=
  issue w o (fun x s =>
    retireSlash x d false nw (fun l => finishSlash false (slashMode x) (value x l)) (reserved x) s) s

/-- A form whose result is no rational code: RATX only, and the latency of R221. -/
def plainForm (w : Word) (o : OpInfo) (d : BitVec 7) (nw : Bool) (value : Ctx → Nat → Int)
    (reserved : Ctx → Nat → Bool) (s : State) : Out :=
  issue w o (fun x s =>
    .ok (launchResult .variable (readReserved x (reserved x)) d false nw (fun l => BitVec.ofInt 64 (value x l)) s)) s

/-- RMAKE (R222). -/
def execRmake (d a b : BitVec 7) (w : BitVec 1) (s : State) : Out :=
  slashForm (packReg 0x2A d a b w 0) (infoF3 false d a b) d (w == 1)
    (fun x l => divSlash (.fin (signed32 (qsrcA x a l)) 1) (.fin (signed32 (qsrcB x a b l)) 1)) (fun _ _ => false) s

/-- The numerator of a value; ±1 for ±∞, 0 for indeterminate (R222). -/
def numerOf : RNum → Int
  | .fin v _ => v
  | .inf n => if n then -1 else 1
  | .ind => 0

/-- The denominator of a value; 0 for ±∞ and indeterminate (R222). -/
def denomOf : RNum → Nat
  | .fin _ d => d
  | _ => 0

/-- RNUM (R222). -/
def execRnum (d a : BitVec 7) (w : BitVec 1) (s : State) : Out :=
  plainForm (packReg 0x2A d a 0x78 w 1) (infoF2 d a) d (w == 1)
    (fun x l => numerOf (readSlash false (qsrcA x a l)).1) (fun x l => (readSlash false (qsrcA x a l)).2) s

/-- RDEN (R222). -/
def execRden (d a : BitVec 7) (w : BitVec 1) (s : State) : Out :=
  plainForm (packReg 0x2A d a 0x78 w 2) (infoF2 d a) d (w == 1)
    (fun x l => denomOf (readSlash false (qsrcA x a l)).1) (fun x l => (readSlash false (qsrcA x a l)).2) s

/-- The mediant of two values (R222). -/
def mediant (x y : RNum) : RNum :=
  if x == .ind || y == .ind || denomOf x + denomOf y == 0 then .ind
  else RNum.mk (numerOf x + numerOf y) (denomOf x + denomOf y)

/-- RMED (R222). -/
def execRmed (d a b : BitVec 7) (w : BitVec 1) (s : State) : Out :=
  slashForm (packReg 0x2A d a b w 3) (infoF3 false d a b) d (w == 1)
    (fun x l => mediant (readSlash false (qsrcA x a l)).1 (readSlash false (qsrcB x a b l)).1)
    (fun x l => (readSlash false (qsrcA x a l)).2 || (readSlash false (qsrcB x a b l)).2) s

/-- RGCD (R222). -/
def execRgcd (d a b : BitVec 7) (w : BitVec 1) (s : State) : Out :=
  plainForm (packReg 0x2A d a b w 4) (infoF3 false d a b) d (w == 1)
    (fun x l => Nat.gcd (signed32 (qsrcA x a l)).natAbs (signed32 (qsrcB x a b l)).natAbs) (fun _ _ => false) s

/-- The floor of a value (R222). -/
def floorOf : RNum → Int
  | .fin v d => Int.fdiv v d
  | .inf n => if n then -2 ^ 31 else 2 ^ 31 - 1
  | .ind => 0

/-- RFLR (R222). -/
def execRflr (d a : BitVec 7) (w : BitVec 1) (s : State) : Out :=
  plainForm (packReg 0x2A d a 0x78 w 5) (infoF2 d a) d (w == 1)
    (fun x l => floorOf (readSlash false (qsrcA x a l)).1) (fun x l => (readSlash false (qsrcA x a l)).2) s

/-- A value rounded to binary32 (R222): it never flushes. -/
def slashToFloat (mode : Nat) (x : RNum) : FRes :=
  match x with
  | .ind => (Fmt.f32.nanBits, flagNV)
  | .inf n => (Fmt.f32.signed n Fmt.f32.infMag, 0)
  | .fin v d =>
    if v = 0 then (0, 0)
    else roundReal .f32 { mode := mode, flush := false, sat := 0 } (decide (v < 0)) (.ratio v.natAbs d)

/-- RTOF (R222): it raises invalid and inexact, and takes FPX. -/
def execRtof (d a : BitVec 7) (w : BitVec 1) (s : State) : Out :=
  issue (packReg 0x2A d a 0x78 w 6) (infoF2 d a)
    (fun x s =>
      let r := fun l => readSlash false (qsrcA x a l)
      retireFloat (readReserved x (fun l => (r l).2)) d false true (w == 1)
        (fun l => slashToFloat (ieeeMode x) (r l).1) s) s

/-- FTOR (R222). -/
def execFtor (d a : BitVec 7) (w : BitVec 1) (s : State) : Out :=
  slashForm (packReg 0x2A d a 0x78 w 7) (infoF2 d a) d (w == 1)
    (fun x l => numSlash (Fmt.f32.read false (qsrcA x a l))) (fun _ _ => false) s

/-- RMODE (R207): it acts even when no lane of the run is active. -/
def execRmode (r : BitVec 1) (m : BitVec 3) (e : BitVec 1) (s : State) : Out :=
  issue (packImm 0x2B 0x78 0x78 0 ((0#5 : BitVec 5) ++ r ++ m ++ e)) {}
    (fun x s =>
      let csw := (x.c.csw &&& ~~~(0x7C0#32)) ||| ((r ++ m ++ e).setWidth 32 <<< 6)
      .ok (s.setConsist x.key { x.c with csw := csw })) s

end Sys2Proof.Machine
end

