-- ==== Sys2Proof/Machine/Dispatch.lean ====
section
/-! DEFINITION. The meaning of every instruction: one arm per constructor of `Instr`. -/

namespace Sys2Proof.Machine

open Sys2Proof

def exec (i : Instr) (s : State) : Host.Outcome State Fault Refusal :=
  match i with
  | .iadd d a b w => Sys2Proof.Machine.execIadd d a b w s
  | .isub d a b w => Sys2Proof.Machine.execIsub d a b w s
  | .imin d a b w => Sys2Proof.Machine.execImin d a b w s
  | .imax d a b w => Sys2Proof.Machine.execImax d a b w s
  | .umin d a b w => Sys2Proof.Machine.execUmin d a b w s
  | .umax d a b w => Sys2Proof.Machine.execUmax d a b w s
  | .iabsd d a b w => Sys2Proof.Machine.execIabsd d a b w s
  | .iaddi d a w imm => Sys2Proof.Machine.execIaddi d a w imm s
  | .and d a b w => Sys2Proof.Machine.execAnd d a b w s
  | .or d a b w => Sys2Proof.Machine.execOr d a b w s
  | .xor d a b w => Sys2Proof.Machine.execXor d a b w s
  | .andn d a b w => Sys2Proof.Machine.execAndn d a b w s
  | .not d a w => Sys2Proof.Machine.execNot d a w s
  | .andi d a w imm => Sys2Proof.Machine.execAndi d a w imm s
  | .ori d a w imm => Sys2Proof.Machine.execOri d a w imm s
  | .xori d a w imm => Sys2Proof.Machine.execXori d a w imm s
  | .shl d a b w => Sys2Proof.Machine.execShl d a b w s
  | .shr d a b w => Sys2Proof.Machine.execShr d a b w s
  | .sar d a b w => Sys2Proof.Machine.execSar d a b w s
  | .ror d a b w => Sys2Proof.Machine.execRor d a b w s
  | .bfe d a b w => Sys2Proof.Machine.execBfe d a b w s
  | .bfi d a b w => Sys2Proof.Machine.execBfi d a b w s
  | .shli d a w n => Sys2Proof.Machine.execShli d a w n s
  | .shri d a w n => Sys2Proof.Machine.execShri d a w n s
  | .sari d a w n => Sys2Proof.Machine.execSari d a w n s
  | .rori d a w n => Sys2Proof.Machine.execRori d a w n s
  | .imul d a b w => Sys2Proof.Machine.execImul d a b w s
  | .imulh d a b w => Sys2Proof.Machine.execImulh d a b w s
  | .umulh d a b w => Sys2Proof.Machine.execUmulh d a b w s
  | .idiv d a b w => Sys2Proof.Machine.execIdiv d a b w s
  | .udiv d a b w => Sys2Proof.Machine.execUdiv d a b w s
  | .irem d a b w => Sys2Proof.Machine.execIrem d a b w s
  | .urem d a b w => Sys2Proof.Machine.execUrem d a b w s
  | .imad d a b c w => Sys2Proof.Machine.execImad d a b c w s
  | .popc d a w => Sys2Proof.Machine.execPopc d a w s
  | .clz d a w => Sys2Proof.Machine.execClz d a w s
  | .ctz d a w => Sys2Proof.Machine.execCtz d a w s
  | .brev d a w => Sys2Proof.Machine.execBrev d a w s
  | .bswap d a w => Sys2Proof.Machine.execBswap d a w s
  | .sext8 d a w => Sys2Proof.Machine.execSext8 d a w s
  | .sext16 d a w => Sys2Proof.Machine.execSext16 d a w s
  | .icmp p a b c => Sys2Proof.Machine.execIcmp p a b c s
  | .icmpi p a c imm => Sys2Proof.Machine.execIcmpi p a c imm s
  | .movi d w imm => Sys2Proof.Machine.execMovi d w imm s
  | .sel d a b w p => Sys2Proof.Machine.execSel d a b w p s
  | .pand d a b => Sys2Proof.Machine.execPand d a b s
  | .por d a b => Sys2Proof.Machine.execPor d a b s
  | .pxor d a b => Sys2Proof.Machine.execPxor d a b s
  | .pandn d a b => Sys2Proof.Machine.execPandn d a b s
  | .pmov d a => Sys2Proof.Machine.execPmov d a s
  | .pnz d a => Sys2Proof.Machine.execPnz d a s
  | .ptoi d a w => Sys2Proof.Machine.execPtoi d a w s
  | .lea d a b w x => Sys2Proof.Machine.execLea d a b w x s
  | .shfli d a b w => Sys2Proof.Machine.execShfli d a b w s
  | .shflu d a b w => Sys2Proof.Machine.execShflu d a b w s
  | .shfld d a b w => Sys2Proof.Machine.execShfld d a b w s
  | .shflx d a b w => Sys2Proof.Machine.execShflx d a b w s
  | .swapp d a w => Sys2Proof.Machine.execSwapp d a w s
  | .bcast d a b w => Sys2Proof.Machine.execBcast d a b w s
  | .vany d a => Sys2Proof.Machine.execVany d a s
  | .vall d a => Sys2Proof.Machine.execVall d a s
  | .vbal d a w => Sys2Proof.Machine.execVbal d a w s
  | .matchLanes d a w => Sys2Proof.Machine.execMatchLanes d a w s
  | .rdadd d a w => Sys2Proof.Machine.execRdadd d a w s
  | .rdmin d a w => Sys2Proof.Machine.execRdmin d a w s
  | .rdmax d a w => Sys2Proof.Machine.execRdmax d a w s
  | .rdand d a w => Sys2Proof.Machine.execRdand d a w s
  | .rdor d a w => Sys2Proof.Machine.execRdor d a w s
  | .rdxor d a w => Sys2Proof.Machine.execRdxor d a w s
  | .rdfadd d a w => Sys2Proof.Machine.execRdfadd d a w s
  | .rdfmax d a w => Sys2Proof.Machine.execRdfmax d a w s
  | .scadd d a w => Sys2Proof.Machine.execScadd d a w s
  | .scfadd d a w => Sys2Proof.Machine.execScfadd d a w s
  | .rake n => Sys2Proof.Machine.execRake n s
  | .fadd d a b w => Sys2Proof.Machine.execFadd d a b w s
  | .fsub d a b w => Sys2Proof.Machine.execFsub d a b w s
  | .fmul d a b w => Sys2Proof.Machine.execFmul d a b w s
  | .fdiv d a b w => Sys2Proof.Machine.execFdiv d a b w s
  | .fmin d a b w => Sys2Proof.Machine.execFmin d a b w s
  | .fmax d a b w => Sys2Proof.Machine.execFmax d a b w s
  | .fcpsgn d a b w => Sys2Proof.Machine.execFcpsgn d a b w s
  | .ffma d a b c w => Sys2Proof.Machine.execFfma d a b c w s
  | .ffms d a b c w => Sys2Proof.Machine.execFfms d a b c w s
  | .fcmp p a b c => Sys2Proof.Machine.execFcmp p a b c s
  | .faddi d a w imm => Sys2Proof.Machine.execFaddi d a w imm s
  | .frndn d a w => Sys2Proof.Machine.execFrndn d a w s
  | .frndz d a w => Sys2Proof.Machine.execFrndz d a w s
  | .frndu d a w => Sys2Proof.Machine.execFrndu d a w s
  | .frndd d a w => Sys2Proof.Machine.execFrndd d a w s
  | .ffrac d a w => Sys2Proof.Machine.execFfrac d a w s
  | .fabs d a w => Sys2Proof.Machine.execFabs d a w s
  | .fneg d a w => Sys2Proof.Machine.execFneg d a w s
  | .fclass d a w => Sys2Proof.Machine.execFclass d a w s
  | .hadd2 d a b w => Sys2Proof.Machine.execHadd2 d a b w s
  | .hmul2 d a b w => Sys2Proof.Machine.execHmul2 d a b w s
  | .badd2 d a b w => Sys2Proof.Machine.execBadd2 d a b w s
  | .bmul2 d a b w => Sys2Proof.Machine.execBmul2 d a b w s
  | .hfma2 d a b c w => Sys2Proof.Machine.execHfma2 d a b c w s
  | .bfma2 d a b c w => Sys2Proof.Machine.execBfma2 d a b c w s
  | .dadd d a b w => Sys2Proof.Machine.execDadd d a b w s
  | .dsub d a b w => Sys2Proof.Machine.execDsub d a b w s
  | .dmul d a b w => Sys2Proof.Machine.execDmul d a b w s
  | .ddiv d a b w => Sys2Proof.Machine.execDdiv d a b w s
  | .dsqrt d a w => Sys2Proof.Machine.execDsqrt d a w s
  | .dfma d a b c w => Sys2Proof.Machine.execDfma d a b c w s
  | .dcmp p a b c => Sys2Proof.Machine.execDcmp p a b c s
  | .rcp d a w => Sys2Proof.Machine.execRcp d a w s
  | .rsq d a w => Sys2Proof.Machine.execRsq d a w s
  | .sqrt d a w => Sys2Proof.Machine.execSqrt d a w s
  | .ex2 d a w => Sys2Proof.Machine.execEx2 d a w s
  | .lg2 d a w => Sys2Proof.Machine.execLg2 d a w s
  | .sint d a w => Sys2Proof.Machine.execSint d a w s
  | .cost d a w => Sys2Proof.Machine.execCost d a w s
  | .tanh d a w => Sys2Proof.Machine.execTanh d a w s
  | .itof d a w => Sys2Proof.Machine.execItof d a w s
  | .utof d a w => Sys2Proof.Machine.execUtof d a w s
  | .ftoi d a w => Sys2Proof.Machine.execFtoi d a w s
  | .ftou d a w => Sys2Proof.Machine.execFtou d a w s
  | .ftod d a w => Sys2Proof.Machine.execFtod d a w s
  | .dtof d a w => Sys2Proof.Machine.execDtof d a w s
  | .itod d a w => Sys2Proof.Machine.execItod d a w s
  | .dtoi d a w => Sys2Proof.Machine.execDtoi d a w s
  | .ftoh2 d a b w => Sys2Proof.Machine.execFtoh2 d a b w s
  | .htofl d a w => Sys2Proof.Machine.execHtofl d a w s
  | .htofh d a w => Sys2Proof.Machine.execHtofh d a w s
  | .ftob2 d a b w => Sys2Proof.Machine.execFtob2 d a b w s
  | .btofl d a w => Sys2Proof.Machine.execBtofl d a w s
  | .btofh d a w => Sys2Proof.Machine.execBtofh d a w s
  | .x8e4 d a b w => Sys2Proof.Machine.execX8e4 d a b w s
  | .x8e5 d a b w => Sys2Proof.Machine.execX8e5 d a b w s
  | .x6a d a b w => Sys2Proof.Machine.execX6a d a b w s
  | .x6b d a b w => Sys2Proof.Machine.execX6b d a b w s
  | .xi4o d a b w => Sys2Proof.Machine.execXi4o d a b w s
  | .xi8 d a b w => Sys2Proof.Machine.execXi8 d a b w s
  | .p8e4 d a b => Sys2Proof.Machine.execP8e4 d a b s
  | .p8e5 d a b => Sys2Proof.Machine.execP8e5 d a b s
  | .p6a d a b => Sys2Proof.Machine.execP6a d a b s
  | .p6b d a b => Sys2Proof.Machine.execP6b d a b s
  | .pi4o d a b => Sys2Proof.Machine.execPi4o d a b s
  | .pi8 d a b => Sys2Proof.Machine.execPi8 d a b s
  | .rmake d a b w => Sys2Proof.Machine.execRmake d a b w s
  | .rnum d a w => Sys2Proof.Machine.execRnum d a w s
  | .rden d a w => Sys2Proof.Machine.execRden d a w s
  | .rmed d a b w => Sys2Proof.Machine.execRmed d a b w s
  | .rgcd d a b w => Sys2Proof.Machine.execRgcd d a b w s
  | .rflr d a w => Sys2Proof.Machine.execRflr d a w s
  | .rtof d a w => Sys2Proof.Machine.execRtof d a w s
  | .ftor d a w => Sys2Proof.Machine.execFtor d a w s
  | .rmode r m e => Sys2Proof.Machine.execRmode r m e s
  | .bra p x d => Sys2Proof.Machine.execBra p x d s
  | .call p x d => Sys2Proof.Machine.execCall p x d s
  | .brx a => Sys2Proof.Machine.execBrx a s
  | .callx a => Sys2Proof.Machine.execCallx a s
  | .ret => Sys2Proof.Machine.execRet s
  | .exit => Sys2Proof.Machine.execExit s
  | .yield => Sys2Proof.Machine.execYield s
  | .nop => Sys2Proof.Machine.execNop s
  | .barinit a b => Sys2Proof.Machine.execBarinit a b s
  | .bararr d a w => Sys2Proof.Machine.execBararr d a w s
  | .barwait a b => Sys2Proof.Machine.execBarwait a b s
  | .bararw d a w => Sys2Proof.Machine.execBararw d a w s
  | .bartest p a b => Sys2Proof.Machine.execBartest p a b s
  | .bardrop a => Sys2Proof.Machine.execBardrop a s
  | .barinv a => Sys2Proof.Machine.execBarinv a s
  | .barph d a w => Sys2Proof.Machine.execBarph d a w s
  | .fence p x c => Sys2Proof.Machine.execFence p x c s
  | .tlwait a b => Sys2Proof.Machine.execTlwait a b s
  | .tlread d a w => Sys2Proof.Machine.execTlread d a w s
  | .tlpoll p a b => Sys2Proof.Machine.execTlpoll p a b s
  | .tlsig a b => Sys2Proof.Machine.execTlsig a b s
  | .tkwait m => Sys2Proof.Machine.execTkwait m s
  | .tkany d w m => Sys2Proof.Machine.execTkany d w m s
  | .tktest p m => Sys2Proof.Machine.execTktest p m s
  | .ld8 v a h o => Sys2Proof.Machine.execLd8 v a h o s
  | .ld8s v a h o => Sys2Proof.Machine.execLd8s v a h o s
  | .ld16 v a h o => Sys2Proof.Machine.execLd16 v a h o s
  | .ld16s v a h o => Sys2Proof.Machine.execLd16s v a h o s
  | .ld32 v a h o => Sys2Proof.Machine.execLd32 v a h o s
  | .ld64 v a h o => Sys2Proof.Machine.execLd64 v a h o s
  | .ld128 v a h o => Sys2Proof.Machine.execLd128 v a h o s
  | .ldnt v a h o => Sys2Proof.Machine.execLdnt v a h o s
  | .st8 v a h o => Sys2Proof.Machine.execSt8 v a h o s
  | .st16 v a h o => Sys2Proof.Machine.execSt16 v a h o s
  | .st32 v a h o => Sys2Proof.Machine.execSt32 v a h o s
  | .st64 v a h o => Sys2Proof.Machine.execSt64 v a h o s
  | .st128 v a h o => Sys2Proof.Machine.execSt128 v a h o s
  | .stnt v a h o => Sys2Proof.Machine.execStnt v a h o s
  | .aadd v a h o => Sys2Proof.Machine.execAadd v a h o s
  | .amin v a h o => Sys2Proof.Machine.execAmin v a h o s
  | .amax v a h o => Sys2Proof.Machine.execAmax v a h o s
  | .aumin v a h o => Sys2Proof.Machine.execAumin v a h o s
  | .aand v a h o => Sys2Proof.Machine.execAand v a h o s
  | .aor v a h o => Sys2Proof.Machine.execAor v a h o s
  | .axor v a h o => Sys2Proof.Machine.execAxor v a h o s
  | .axch v a h o => Sys2Proof.Machine.execAxch v a h o s
  | .aadd64 v a h o => Sys2Proof.Machine.execAadd64 v a h o s
  | .amin64 v a h o => Sys2Proof.Machine.execAmin64 v a h o s
  | .amax64 v a h o => Sys2Proof.Machine.execAmax64 v a h o s
  | .aand64 v a h o => Sys2Proof.Machine.execAand64 v a h o s
  | .aor64 v a h o => Sys2Proof.Machine.execAor64 v a h o s
  | .axor64 v a h o => Sys2Proof.Machine.execAxor64 v a h o s
  | .axch64 v a h o => Sys2Proof.Machine.execAxch64 v a h o s
  | .afadd v a h o => Sys2Proof.Machine.execAfadd v a h o s
  | .cas32 v a h o => Sys2Proof.Machine.execCas32 v a h o s
  | .cas64 v a h o => Sys2Proof.Machine.execCas64 v a h o s
  | .redadd v a h o => Sys2Proof.Machine.execRedadd v a h o s
  | .redmin v a h o => Sys2Proof.Machine.execRedmin v a h o s
  | .redmax v a h o => Sys2Proof.Machine.execRedmax v a h o s
  | .redand v a h o => Sys2Proof.Machine.execRedand v a h o s
  | .redor v a h o => Sys2Proof.Machine.execRedor v a h o s
  | .redxor v a h o => Sys2Proof.Machine.execRedxor v a h o s
  | .redfadd v a h o => Sys2Proof.Machine.execRedfadd v a h o s
  | .redbfadd v a h o => Sys2Proof.Machine.execRedbfadd v a h o s
  | .sbind v a h => Sys2Proof.Machine.execSbind v a h s
  | .sflush v => Sys2Proof.Machine.execSflush v s
  | .sdrop v => Sys2Proof.Machine.execSdrop v s
  | .pref a h => Sys2Proof.Machine.execPref a h s
  | .cflush a h => Sys2Proof.Machine.execCflush a h s
  | .texs a b => Sys2Proof.Machine.execTexs a b s
  | .texl a b => Sys2Proof.Machine.execTexl a b s
  | .texg a b => Sys2Proof.Machine.execTexg a b s
  | .texq a b => Sys2Proof.Machine.execTexq a b s
  | .rbegin d a w => Sys2Proof.Machine.execRbegin d a w s
  | .rdraw d a b w => Sys2Proof.Machine.execRdraw d a b w s
  | .rflush d a w => Sys2Proof.Machine.execRflush d a w s
  | .mma t a z f => Sys2Proof.Machine.execMma t a z f s
  | .mmas t a b x z f => Sys2Proof.Machine.execMmas t a b x z f s
  | .mlda t a b x z => Sys2Proof.Machine.execMlda t a b x z s
  | .mldw t a b x => Sys2Proof.Machine.execMldw t a b x s
  | .macz t => Sys2Proof.Machine.execMacz t s
  | .macld t a => Sys2Proof.Machine.execMacld t a s
  | .macst t a => Sys2Proof.Machine.execMacst t a s
  | .mrow t a => Sys2Proof.Machine.execMrow t a s
  | .msync => Sys2Proof.Machine.execMsync s
  | .mcfg t a => Sys2Proof.Machine.execMcfg t a s
  | .mpop d w => Sys2Proof.Machine.execMpop d w s
  | .mpopb d w => Sys2Proof.Machine.execMpopb d w s
  | .frcopy k a b => Sys2Proof.Machine.execFrcopy k a b s
  | .frfill k a b => Sys2Proof.Machine.execFrfill k a b s
  | .frgath k a b => Sys2Proof.Machine.execFrgath k a b s
  | .frscat k a b => Sys2Proof.Machine.execFrscat k a b s
  | .frred k a b => Sys2Proof.Machine.execFrred k a b s
  | .frpf k a b => Sys2Proof.Machine.execFrpf k a b s
  | .spawn d a b w => Sys2Proof.Machine.execSpawn d a b w s
  | .join d a b w => Sys2Proof.Machine.execJoin d a b w s
  | .enq d a b w => Sys2Proof.Machine.execEnq d a b w s
  | .deq d a b w => Sys2Proof.Machine.execDeq d a b w s
  | .launch d a b w => Sys2Proof.Machine.execLaunch d a b w s
  | .cancel a w => Sys2Proof.Machine.execCancel a w s
  | .cntrd d a w => Sys2Proof.Machine.execCntrd d a w s
  | .lwait d a w => Sys2Proof.Machine.execLwait d a w s
  | .lemit d a b w => Sys2Proof.Machine.execLemit d a b w s
  | .mesrch a b => Sys2Proof.Machine.execMesrch a b s
  | .warpb a b => Sys2Proof.Machine.execWarpb a b s
  | .fbset d a b w => Sys2Proof.Machine.execFbset d a b w s
  | .tmstat d a w => Sys2Proof.Machine.execTmstat d a w s
  | .dlread d a w => Sys2Proof.Machine.execDlread d a w s
  | .trap a => Sys2Proof.Machine.execTrap a s
  | .rdsr d b w => Sys2Proof.Machine.execRdsr d b w s
  | .wrsr a b => Sys2Proof.Machine.execWrsr a b s
  | .cyc d w => Sys2Proof.Machine.execCyc d w s
  | .eret => Sys2Proof.Machine.execEret s
  | .brk => Sys2Proof.Machine.execBrk s
  | .scall a => Sys2Proof.Machine.execScall a s
  | .halt => Sys2Proof.Machine.execHalt s
  | .mseal d a b => Sys2Proof.Machine.execMseal d a b s
  | .mharv d a b => Sys2Proof.Machine.execMharv d a b s
  | .mquery d a b => Sys2Proof.Machine.execMquery d a b s
  | .mretire d a b => Sys2Proof.Machine.execMretire d a b s
  | .tlbinv a b => Sys2Proof.Machine.execTlbinv a b s
  | .tlbinva b => Sys2Proof.Machine.execTlbinva b s
  | .hintConst k => Sys2Proof.Machine.execHintConst k s
  | .hintGuard p x n => Sys2Proof.Machine.execHintGuard p x n s
  | .hintHold n => Sys2Proof.Machine.execHintHold n s
  | .hintScope x o => Sys2Proof.Machine.execHintScope x o s
  | .hintRound m => Sys2Proof.Machine.execHintRound m s
  | .hintMod t f a b c => Sys2Proof.Machine.execHintMod t f a b c s
  | .hintSched n y => Sys2Proof.Machine.execHintSched n y s
  | .loadDataReturn consist lane n => Sys2Proof.Machine.execLoadDataReturn consist lane n s
  | .variableLatencyComplete consist n => Sys2Proof.Machine.execVariableLatencyComplete consist n s
  | .qlockDetect consist => Sys2Proof.Machine.execQlockDetect consist s
  | .runDeferral consist aStream blocked => Sys2Proof.Machine.execRunDeferral consist aStream blocked s
  | .registerTierMove consist => Sys2Proof.Machine.execRegisterTierMove consist s
  | .registerTierRecall consist => Sys2Proof.Machine.execRegisterTierRecall consist s
  | .asyncTrapDelivery consist => Sys2Proof.Machine.execAsyncTrapDelivery consist s
  | .consistExitReport consist => Sys2Proof.Machine.execConsistExitReport consist s
  | .sideLogReplay core => Sys2Proof.Machine.execSideLogReplay core s
  | .tlbProbe core sess va => Sys2Proof.Machine.execTlbProbe core sess va s
  | .pageWalk core sess va write => Sys2Proof.Machine.execPageWalk core sess va write s
  | .faultRecordPost sess => Sys2Proof.Machine.execFaultRecordPost sess s
  | .cowBreak sess va => Sys2Proof.Machine.execCowBreak sess va s
  | .tileExecute consist => Sys2Proof.Machine.execTileExecute consist s
  | .tileComplete consist => Sys2Proof.Machine.execTileComplete consist s
  | .rowQueueGrant core => Sys2Proof.Machine.execRowQueueGrant core s
  | .mrowPush consist => Sys2Proof.Machine.execMrowPush consist s
  | .freightOperationStart sess ctx => Sys2Proof.Machine.execFreightOperationStart sess ctx s
  | .freightOperationComplete sess ctx => Sys2Proof.Machine.execFreightOperationComplete sess ctx s
  | .freightFault sess ctx => Sys2Proof.Machine.execFreightFault sess ctx s
  | .freightAssemblyAbandon convoy ctx => Sys2Proof.Machine.execFreightAssemblyAbandon convoy ctx s
  | .convoyExpand core => Sys2Proof.Machine.execConvoyExpand core s
  | .engineJoin sess slot => Sys2Proof.Machine.execEngineJoin sess slot s
  | .partitionFlip die => Sys2Proof.Machine.execPartitionFlip die s
  | .contextSwap core => Sys2Proof.Machine.execContextSwap core s
  | .convoyResume core => Sys2Proof.Machine.execConvoyResume core s
  | .rasterDrawBin station => Sys2Proof.Machine.execRasterDrawBin station s
  | .rasterPassComplete station => Sys2Proof.Machine.execRasterPassComplete station s
  | .rasterFault station => Sys2Proof.Machine.execRasterFault station s
  | .rasterPassAbandon station slot => Sys2Proof.Machine.execRasterPassAbandon station slot s
  | .textureResult consist lane n => Sys2Proof.Machine.execTextureResult consist lane n s
  | .bandWindowOpen die stream => Sys2Proof.Machine.execBandWindowOpen die stream s
  | .preparedImageReady die stream => Sys2Proof.Machine.execPreparedImageReady die stream s
  | .lemitCopyComplete die stream => Sys2Proof.Machine.execLemitCopyComplete die stream s
  | .fbsetCopyComplete die stream => Sys2Proof.Machine.execFbsetCopyComplete die stream s
  | .warpbComplete die stream => Sys2Proof.Machine.execWarpbComplete die stream s
  | .mesrchResult die stream => Sys2Proof.Machine.execMesrchResult die stream s
  | .bandSettle die stream => Sys2Proof.Machine.execBandSettle die stream s
  | .tapHistoryWrite die stream => Sys2Proof.Machine.execTapHistoryWrite die stream s
  | .encoderTap die stream => Sys2Proof.Machine.execEncoderTap die stream s
  | .encoderTileRow die stream => Sys2Proof.Machine.execEncoderTileRow die stream s
  | .streamStopEffect die stream => Sys2Proof.Machine.execStreamStopEffect die stream s
  | .streamMove die stream => Sys2Proof.Machine.execStreamMove die stream s
  | .sealHash sess n => Sys2Proof.Machine.execSealHash sess n s
  | .sealLookup sess n => Sys2Proof.Machine.execSealLookup sess n s
  | .sealCommit sess n => Sys2Proof.Machine.execSealCommit sess n s
  | .sealAbort sess n => Sys2Proof.Machine.execSealAbort sess n s
  | .quiescenceVisit sess va => Sys2Proof.Machine.execQuiescenceVisit sess va s
  | .manifestRequestComplete sess => Sys2Proof.Machine.execManifestRequestComplete sess s
  | .keyRevokeComplete die slot => Sys2Proof.Machine.execKeyRevokeComplete die slot s
  | .transferTablesMoved sess => Sys2Proof.Machine.execTransferTablesMoved sess s
  | .frameDrift sess frame => Sys2Proof.Machine.execFrameDrift sess frame s
  | .transferComplete sess => Sys2Proof.Machine.execTransferComplete sess s
  | .slipComplete sess => Sys2Proof.Machine.execSlipComplete sess s
  | .sessParkComplete sess => Sys2Proof.Machine.execSessParkComplete sess s
  | .depotEndProceed sess => Sys2Proof.Machine.execDepotEndProceed sess s
  | .sessEndComplete sess => Sys2Proof.Machine.execSessEndComplete sess s
  | .submitResume q => Sys2Proof.Machine.execSubmitResume q s
  | .sqtail q value => Sys2Proof.Machine.execSqtail q value s
  | .restart q => Sys2Proof.Machine.execRestart q s
  | .commandFetch q => Sys2Proof.Machine.execCommandFetch q s
  | .forwardedCommand die => Sys2Proof.Machine.execForwardedCommand die s
  | .sessNew q ops => Sys2Proof.Machine.execSessNew q ops s
  | .sessSlip q source sess die cores => Sys2Proof.Machine.execSessSlip q source sess die cores s
  | .sessMove q sess die cores => Sys2Proof.Machine.execSessMove q sess die cores s
  | .sessMoveExtend q sess die cores => Sys2Proof.Machine.execSessMoveExtend q sess die cores s
  | .sessEnd q sess => Sys2Proof.Machine.execSessEnd q sess s
  | .sessEndPark q sess => Sys2Proof.Machine.execSessEndPark q sess s
  | .sessEndKill q sess => Sys2Proof.Machine.execSessEndKill q sess s
  | .keyLoad q slot die blob => Sys2Proof.Machine.execKeyLoad q slot die blob s
  | .keyDrop q slot die => Sys2Proof.Machine.execKeyDrop q slot die s
  | .layoutPut q sess ctx layout record => Sys2Proof.Machine.execLayoutPut q sess ctx layout record s
  | .layoutPutReset q sess ctx => Sys2Proof.Machine.execLayoutPutReset q sess ctx s
  | .submit q sess waybill rank sup => Sys2Proof.Machine.execSubmit q sess waybill rank sup s
  | .streamSetStart q ops => Sys2Proof.Machine.execStreamSetStart q ops s
  | .streamSetStop q sess stream => Sys2Proof.Machine.execStreamSetStop q sess stream s
  | .streamSetRestart q sess stream header frame => Sys2Proof.Machine.execStreamSetRestart q sess stream header frame s
  | .attest q sess nonce buffer => Sys2Proof.Machine.execAttest q sess nonce buffer s
  | .capsRead q buffer len => Sys2Proof.Machine.execCapsRead q buffer len s
  | .rasLog q buffer len clear => Sys2Proof.Machine.execRasLog q buffer len clear s
  | .hostAccess func addr size write data => Sys2Proof.Machine.execHostAccess func addr size write data s
  | .dieLinkFlit src dst good => Sys2Proof.Machine.execDieLinkFlit src dst good s
  | .linkResync src dst => Sys2Proof.Machine.execLinkResync src dst s
  | .linkDown src dst => Sys2Proof.Machine.execLinkDown src dst s
  | .linkRekey src dst => Sys2Proof.Machine.execLinkRekey src dst s
  | .dieReset die => Sys2Proof.Machine.execDieReset die s
  | .uncorrectableError die ops => Sys2Proof.Machine.execUncorrectableError die ops s
  | .dramCorrectionReport die channel count => Sys2Proof.Machine.execDramCorrectionReport die channel count s
  | .rasctlClr die => Sys2Proof.Machine.execRasctlClr die s
  | .injctlArm die value => Sys2Proof.Machine.execInjctlArm die value s
  | .vfk die k value => Sys2Proof.Machine.execVfk die k value s
  | .keyreq die stream => Sys2Proof.Machine.execKeyreq die stream s
  | .registerWrite block unit offset value => Sys2Proof.Machine.execRegisterWrite block unit offset value s
  | .powerAverage die milliwatts => Sys2Proof.Machine.execPowerAverage die milliwatts s
  | .supplyDip die station => Sys2Proof.Machine.execSupplyDip die station s
  | .supplyRecovery die station => Sys2Proof.Machine.execSupplyRecovery die station s
  | .throttle die sensor reading => Sys2Proof.Machine.execThrottle die sensor reading s
  | .thermalTrip die sensor reading => Sys2Proof.Machine.execThermalTrip die sensor reading s
  | .canarySample die router res => Sys2Proof.Machine.execCanarySample die router res s
  | .routerRetireMark die router => Sys2Proof.Machine.execRouterRetireMark die router s
  | .routerRetired die router => Sys2Proof.Machine.execRouterRetired die router s
  | .throttleRelease die sensor reading => Sys2Proof.Machine.execThrottleRelease die sensor reading s
  | .contestedCycle die column coreAsks engineAsks deadline => Sys2Proof.Machine.execContestedCycle die column coreAsks engineAsks deadline s
  | .tdispRequest func die run => Sys2Proof.Machine.execTdispRequest func die run s
  | .ideStreamActivation die stream active => Sys2Proof.Machine.execIdeStreamActivation die stream active s

end Sys2Proof.Machine
end

