-- ==== Sys2Proof/Machine/Step.lean ====
section
/-!
DEFINITION. One step of the module: the front end or the agent whose turn it is.
-/

namespace Sys2Proof.Machine

open Sys2Proof

/-- Carry out a fetched word: the instruction it decodes to, or the trap of a word that is none (R28). -/
noncomputable def runWord (w : Word) (s : State) : Host.Outcome State Fault Refusal :=
  match decode w with
  | .ok i => exec i s
  | .illop => rejectIllop w s
  | .operand _ pos => rejectOperand w pos s

/-- A front end's turn: it fetches for the run it would issue, and issues. -/
noncomputable def frontStep (s : State) : Host.Outcome State Fault Refusal :=
  match findCtx s with
  | none => .next (idle s)
  | some x =>
    match fetch x s with
    | .spent t => .next t
    | .word w t => runWord w t

/-- One step. -/
noncomputable def step (s : State) : Host.Outcome State Fault Refusal :=
  match s.takeTurn with
  | (.event i, t) => exec i t
  | (.front k st, t) => frontStep { t with focus := (k, st) }

/-- The state with a word of `nbits` bits at the address that the next front end's next fetch reads, and that front end's
turn next. Where no run can fetch, as right after reset, the bench with the word stands in for a loaded program
(DESIGN CHOICE, assumption log 15). -/
def State.withFetchWord (s : State) (nbits w : Nat) : State :=
  let word : Word := BitVec.ofNat 32 (if nbits ≤ 32 then w % 2 ^ nbits else w)
  let f := s.nextFront
  match s.fetchAddr f with
  | some a => { s.setBytes a (bytesOfWord word) with agenda := .front f.1 f.2 :: s.agenda.filter (fun t => match t with
                  | .front k st => !(k == f.1 && st == f.2) | .event _ => true) }
  | none => { s.withBench word 1 with agenda := .front (benchKey word) (benchStrm word) :: s.agenda }

end Sys2Proof.Machine
end

