-- ==== Sys2Proof/Safety.lean ====
section
/-!
DEFINITION. What a safe run is, and the terms in which the statements about the machine are made: when nothing stands in
the way of an instruction, what an instruction that only computes leaves unchanged, and where its result is found.
-/

namespace Sys2Proof.Machine

open Sys2Proof

/-! ## Safe runs -/

/-- A step from here goes on: it ends in no fault and no refusal. -/
def State.goesOn (s : State) : Prop := ∃ t, step s = .next t

/-- Every memory of the module is in its one form: machine memory, host memory and every convoy's scratchpad. -/
def State.memoriesWf (s : State) : Bool :=
  Memory.wf s.mem && Memory.wf s.hostMem &&
  s.convoys.all (fun e => match e.2 with | some v => Memory.wf v.scratch | none => true)

/-- A state from which every step goes on, however many are taken, at each with the memories in their one form. -/
def State.safeFor : Nat → State → Prop
  | 0, s => s.memoriesWf = true
  | n + 1, s => s.memoriesWf = true ∧ ∃ t, step s = .next t ∧ t.safeFor n

/-! ## When an instruction word goes ahead -/

/-- The front end in focus has context `x` to issue, and nothing stands in the way of the word `w`, whose operand fields
are `o`: it passes R28's checks, needs no result in flight (R138) and no invalid latch (R35), and every active lane's queue
operations can complete (R86). -/
structure Issues (w : Word) (o : OpInfo) (s : State) (x : Ctx) : Prop where
  found : findCtx s = some x
  checked : decodeCheck w o x = none
  landed : hazard o x = false
  valid : invalidLatch o x = none
  ready : readyLanes w o x = x.act

/-! ## What stays -/

/-- Nothing of the module has changed but the consist with this key and what the model keeps of order: the tick, the
numbers given out, and the clocks of the race detector. -/
structure State.Keeps (key : Nat) (s t : State) : Prop where
  agenda : t.agenda = s.agenda
  focus : t.focus = s.focus
  bytes : ∀ a, t.byte a = s.byte a
  host : t.hostMem = s.hostMem
  io : t.ioOut = s.ioOut
  lines : t.lines = s.lines
  texLines : t.texLines = s.texLines
  others : ∀ k, k ≠ key → t.consist? k = s.consist? k
  convoys : t.convoys = s.convoys
  sessions : t.sessions = s.sessions
  cores : t.cores = s.cores
  tlbs : t.engineTlbs = s.engineTlbs
  stations : t.stations = s.stations
  dies : t.dies = s.dies
  links : t.links = s.links
  queues : t.queues = s.queues
  ownership : t.ownership = s.ownership
  refs : t.refs = s.refs
  grants : t.grants = s.grants
  poison : t.poison = s.poison
  corrupt : t.corrupt = s.corrupt
  commands : t.commands = s.commands
  hostRead : t.hostRead = s.hostRead

/-- Nothing of a consist has changed but its registers, its streams, its four queues, CSW and its results in flight: every
other special register, the tokens, the matrix sequence and the context a trap set aside are as they were. -/
def Consist.Keeps (c c' : Consist) : Prop :=
  c' = { c with vregs := c'.vregs, aregs := c'.aregs, sregs := c'.sregs, a := c'.a, c := c'.c, lq := c'.lq,
                xqAC := c'.xqAC, xqCA := c'.xqCA, sq := c'.sq, csw := c'.csw, inflight := c'.inflight }

/-- The other stream. -/
def Strm.other : Strm → Strm
  | .a => .c
  | .c => .a

/-- The hints of a run after a completed instruction (R40, R42, R43): the pending hints of its lanes are used, the guard
windows of its lanes count one instruction less, or close at a transfer, and the stream's hold counts one less. A hint uses
none of them. Nothing tells the outcome of a guard anew. -/
structure StreamSt.Hinted (o : OpInfo) (run : Lanes) (x x' : StreamSt) : Prop where
  pending : ∀ l, l < 32 → tfind l x'.hints = if o.hint = false ∧ run.getLsbD l = true then none else tfind l x.hints
  left : ∀ l, l < 32 → tget x'.guardLeft l = if o.hint = false ∧ run.getLsbD l = true then
    (if o.transfer then 0 else tget x.guardLeft l - 1) else tget x.guardLeft l
  pass : x'.guardPass = x.guardPass
  hold : x'.hold = if o.hint then x.hold else x.hold - 1

/-- The stream of a completed instruction that transfers no control: the run's lanes stand four bytes on, the others where
they stood (R91), its hints are used, and the lanes that left, the return stacks and the waits are as they were. -/
structure StreamSt.Passed (o : OpInfo) (run : Lanes) (x x' : StreamSt) : Prop where
  pcs : ∀ l, l < 32 → tget x'.pc l = if run.getLsbD l then tget x.pc l + 4 else tget x.pc l
  hints : StreamSt.Hinted o run x x'
  exited : x'.exited = x.exited
  absent : x'.absent = x.absent
  rets : x'.rets = x.rets
  spilled : x'.spilled = x.spilled
  barWaits : x'.barWaits = x.barWaits
  tlWaits : x'.tlWaits = x.tlWaits

/-! ## The queues of a consist (R31, R33, R85 to R87) -/

/-- Entries an instruction pops from a queue for a lane: what its operand fields name, for each active lane, or for the
lowest alone when it acts once for its run (R31, R109). -/
def popsFor (o : OpInfo) (x : Ctx) (q : Queue) (l : Nat) : Nat :=
  if x.act.getLsbD l = true ∧ (o.uniform = true → l = lowest x.act) then total q (popsOf o x.st) else 0

/-- The words a result pushes onto a queue for a lane (R33, R85, R87): one, or both of a pair, for an active lane, when D
names the queue and W is 0; none where nobody will pop them. -/
def pushesFor (x : Ctx) (d : BitVec 7) (wide nw : Bool) (f : Nat → DWord) (q : Queue) (l : Nat) : List Word :=
  if nw = false ∧ writeQueue x.st (codeOf x.st d) = some q ∧ x.act.getLsbD l = true ∧ x.c.deaf q l = false then
    wordsOf (wide && x.st == .c) (f l)
  else []

/-- Every queue of `c` is that of `b` with what the instruction pops taken from its front, and new entries at its end: as
many as the words of `pushed`, and each as `entry` says. -/
def QueuesMove (o : OpInfo) (x : Ctx) (pushed : Queue → Nat → List Word) (entry : QEntry → Word → Prop) (b c : Consist) : Prop :=
  ∀ q l, l < 32 → ∃ new, c.queueOf q l = (b.queueOf q l).drop (popsFor o x q l) ++ new ∧
    new.length = (pushed q l).length ∧ ∀ p ∈ new.zip (pushed q l), entry p.1 p.2

/-- The entries the instruction pops are popped, and nothing is pushed. -/
def QueuesPop (o : OpInfo) (x : Ctx) (b c : Consist) : Prop :=
  ∀ q l, l < 32 → c.queueOf q l = (b.queueOf q l).drop (popsFor o x q l)

/-! ## Where a result is found (R32, R33) -/

/-- The v register `m` of lane `l` after a result `f` for D, of 32 bits or a pair; W = 1 writes the latch only. -/
def newV (x : Ctx) (d : BitVec 7) (wide nw : Bool) (f : Nat → DWord) (m l : Nat) : Word :=
  match codeOf x.st d with
  | .v n =>
    if nw || !x.act.getLsbD l then x.c.v m l
    else if m = n then (f l).setWidth 32
    else if wide = true ∧ m = n + 1 then (f l).extractLsb' 32 32
    else x.c.v m l
  | _ => x.c.v m l

/-- The a register `m` of lane `l` after a result for D. -/
def newA (x : Ctx) (d : BitVec 7) (nw : Bool) (f : Nat → DWord) (m l : Nat) : DWord :=
  match codeOf x.st d with
  | .a n => if nw || !x.act.getLsbD l || m != n then tget x.c.aregs (32 * m + l) else f l
  | _ => tget x.c.aregs (32 * m + l)

/-- The s register `m` after a result for D: the lowest active lane's (R132). -/
def newS (x : Ctx) (d : BitVec 7) (nw : Bool) (f : Nat → DWord) (m : Nat) : DWord :=
  match codeOf x.st d with
  | .s n => if nw || x.act == 0 || m != n then tget x.c.sregs m else f (lowest x.act)
  | _ => tget x.c.sregs m

/-- The latch entry `m` of lane `l` after a result for D, of the width of the result. -/
def newLatch (x : Ctx) (d : BitVec 7) (wide : Bool) (f : Nat → DWord) (m l : Nat) : DWord :=
  if m = latchOf d ∧ x.act.getLsbD l = true then (if x.st == .c && !wide then lowBits 32 (f l) else f l)
  else tget (x.c.strm x.st).latch (32 * m + l)

/-- The instruction of context `x` has completed from `s` to `t`, with the result `f` of its active lanes written to D: the
registers, latches, queues and program counters are as the result and the operand fields make them, and nothing else has
changed but the latches of the consist that the front end issued last. -/
structure Wrote (o : OpInfo) (x : Ctx) (d : BitVec 7) (wide nw : Bool) (f : Nat → DWord) (csw : BitVec 32) (s t : State) :
    Prop where
  keeps : (switchIn x s).Keeps x.key t
  consist : ∃ c, t.consist? x.key = some c ∧ x.c.Keeps c ∧ c.csw = csw ∧ c.inflight = x.c.inflight
    ∧ (∀ m l, l < 32 → c.v m l = newV x d wide nw f m l)
    ∧ (∀ m l, l < 32 → tget c.aregs (32 * m + l) = newA x d nw f m l)
    ∧ (∀ m, tget c.sregs m = newS x d nw f m)
    ∧ (∀ m l, l < 32 → tget (c.strm x.st).latch (32 * m + l) = newLatch x d wide f m l)
    ∧ (c.strm x.st).latchValid = (if x.act = 0 then (x.c.strm x.st).latchValid
        else (x.c.strm x.st).latchValid ||| (1#8 <<< latchOf d))
    ∧ (c.strm x.st).preds = (x.c.strm x.st).preds
    ∧ c.strm x.st.other = x.c.strm x.st.other
    ∧ QueuesMove o x (pushesFor x d wide nw f) (fun e v => e.filled = true ∧ e.val = v) x.c c
    ∧ StreamSt.Passed o x.run (x.c.strm x.st) (c.strm x.st)

/-- The instruction has completed with predicate `p` written: `f` for the active lanes, the other lanes as they were; p7
takes no value (R95). No register and no latch changes. -/
structure WrotePred (o : OpInfo) (x : Ctx) (p : Nat) (f : Nat → Bool) (csw : BitVec 32) (s t : State) : Prop where
  keeps : (switchIn x s).Keeps x.key t
  consist : ∃ c, t.consist? x.key = some c ∧ x.c.Keeps c ∧ c.csw = csw ∧ c.inflight = x.c.inflight
    ∧ c.vregs = x.c.vregs ∧ c.aregs = x.c.aregs ∧ c.sregs = x.c.sregs
    ∧ (∀ q l, l < 32 → (c.strm x.st).pred q l
        = if q = p ∧ q ≠ 7 ∧ x.act.getLsbD l = true then f l else (x.c.strm x.st).pred q l)
    ∧ (c.strm x.st).latch = (x.c.strm x.st).latch ∧ (c.strm x.st).latchValid = (x.c.strm x.st).latchValid
    ∧ c.strm x.st.other = x.c.strm x.st.other ∧ QueuesPop o x x.c c
    ∧ StreamSt.Passed o x.run (x.c.strm x.st) (c.strm x.st)

/-- The instruction has completed and its result is on its way (R138): the registers and latches stand as they were, and
one result in flight of the given kind is added for each active lane, in ascending order, with the words of `f`. A queue
that D names holds the result's places, not yet filled (R85). -/
structure Sent (o : OpInfo) (kind : Latency) (x : Ctx) (d : BitVec 7) (wide nw : Bool) (f : Nat → DWord) (csw : BitVec 32)
    (s t : State) : Prop where
  keeps : (switchIn x s).Keeps x.key t
  consist : ∃ c, t.consist? x.key = some c ∧ x.c.Keeps c ∧ c.csw = csw
    ∧ c.vregs = x.c.vregs ∧ c.aregs = x.c.aregs ∧ c.sregs = x.c.sregs
    ∧ (∃ new, c.inflight = x.c.inflight ++ new ∧ new.map (fun g => g.lane) = lanesOf x.act
        ∧ ∀ g ∈ new, g.kind = kind ∧ g.strm = x.st
          ∧ g.vals = (if wide || x.st == .a then [(f g.lane).setWidth 32, (f g.lane).extractLsb' 32 32] else [(f g.lane).setWidth 32])
          ∧ g.dest = (match (if nw then none else writeQueue x.st (codeOf x.st d)) with
              | some _ => .queue d true s.nextUid
              | none => .reg d (wide && x.st == .c) (!nw)))
    ∧ (c.strm x.st).latch = (x.c.strm x.st).latch ∧ (c.strm x.st).latchValid = (x.c.strm x.st).latchValid
    ∧ (c.strm x.st).preds = (x.c.strm x.st).preds
    ∧ c.strm x.st.other = x.c.strm x.st.other
    ∧ QueuesMove o x (pushesFor x d wide nw f) (fun e _ => e.filled = false ∧ e.id = s.nextUid) x.c c
    ∧ StreamSt.Passed o x.run (x.c.strm x.st) (c.strm x.st)

/-- The run has completed an instruction that writes no result and transfers no control. `u` is the state with the
instruction's own effect: beside it nothing has changed but the program counters and the hints of the run, the entries that
the instruction's operands pop, and the latches of the consist that the front end issued last. -/
structure Completed (o : OpInfo) (x : Ctx) (u t : State) : Prop where
  keeps : (switchIn x u).Keeps x.key t
  consist : ∃ b c, u.consist? x.key = some b ∧ t.consist? x.key = some c ∧ b.Keeps c ∧ c.csw = b.csw
    ∧ c.inflight = b.inflight ∧ c.vregs = b.vregs ∧ c.aregs = b.aregs ∧ c.sregs = b.sregs
    ∧ (c.strm x.st).latch = (b.strm x.st).latch ∧ (c.strm x.st).latchValid = (b.strm x.st).latchValid
    ∧ (c.strm x.st).preds = (b.strm x.st).preds ∧ c.strm x.st.other = b.strm x.st.other ∧ QueuesPop o x b c
    ∧ StreamSt.Passed o x.run (b.strm x.st) (c.strm x.st)

/-- The run has completed a transfer of control: `next` gives each lane of the run its new program counter. `u` is the
state with the instruction's own effect on everything else. -/
structure Jumped (o : OpInfo) (x : Ctx) (next : Nat → BitVec 32) (u t : State) : Prop where
  keeps : (switchIn x u).Keeps x.key t
  consist : ∃ b c, u.consist? x.key = some b ∧ t.consist? x.key = some c ∧ b.Keeps c ∧ c.csw = b.csw
    ∧ c.inflight = b.inflight ∧ c.vregs = b.vregs ∧ c.aregs = b.aregs ∧ c.sregs = b.sregs
    ∧ (c.strm x.st).latch = (b.strm x.st).latch ∧ (c.strm x.st).latchValid = (b.strm x.st).latchValid
    ∧ (c.strm x.st).preds = (b.strm x.st).preds ∧ c.strm x.st.other = b.strm x.st.other
    ∧ (c.strm x.st).rets = (b.strm x.st).rets ∧ (c.strm x.st).spilled = (b.strm x.st).spilled
    ∧ (c.strm x.st).exited = (b.strm x.st).exited ∧ QueuesPop o x b c
    ∧ (∀ l, l < 32 → tget (c.strm x.st).pc l = if x.run.getLsbD l then next l else tget (x.c.strm x.st).pc l)
    ∧ StreamSt.Hinted o x.run (b.strm x.st) (c.strm x.st)

end Sys2Proof.Machine
end

