-- ==== Sys2Proof/Certificates/Slice0/Obligations.lean ====
section
/-!
DEFINITION. The statements about the machine, for the provers. A statement about an instruction concludes with the next
state that the instruction's rule gives; its hypotheses are on the state and the operands alone.
-/

open Sys2Proof Sys2Proof.Machine

/-! ## Words -/

/-- R26, R27, R49: decoding the word of an instruction gives the instruction back, with every operand at every value its
field holds. -/
def Obligations.EncodedInstructionsDecode : Prop := ∀ (i : Instr) (w : Word), encode i = some w → decode w = .ok i

/-- R26, R27, R49: no two words are one instruction: a word that decodes is the word the instruction encodes to. -/
def Obligations.DecodedWordsEncode : Prop := ∀ (w : Word) (i : Instr), decode w = .ok i → encode i = some w

/-- R25, R26: words that the spec writes out, and words written here from its encodings field by field, decode to the
instructions they stand for: one or more of each group of majors. -/
def Obligations.SpecWordsDecode : Prop :=
  ∀ e ∈ ([ (0x020C0820, .iadd 3 1 2 0), (0x040C1BFF, .iaddi 3 3 0 0x3FF), (0x07F03781, .or 0x7C 6 0x78 0),
           (0x0E0C1F90, .shl 3 3 0x79 0), (0x16101F80, .popc 4 3 0), (0x1A040A00, .icmpi 1 1 4 0),
           (0x200C0872, .pxor 3 1 7), (0x22140823, .lea 5 1 2 0 3), (0x2DE3C003, .rake 3),
           (0x301C0812, .fmul 7 1 1 0), (0x321BAFE0, .ffma 6 0x75 0x7E 0 0), (0x3817D0F8, .faddi 5 0x7A 0 0x0F8),
           (0x36040822, .fcmp 1 1 2 2), (0x400C0828, .hfma2 3 1 2 4 0), (0x462860E0, .dfma 10 12 14 0 0),
           (0x4A080F85, .sint 2 1 0), (0x4C280F84, .ftod 10 1 0), (0x52200820, .p8e4 8 1 2), (0x57E3C001, .rmode 0 0 1),
           (0x63E02F80, .brx 5), (0x69E3C780, .ret), (0x6BE3C780, .exit), (0x71E00830, .barinit 1 3), (0x738180C0, .fence 0xC0 0xC0 6),
           (0x81E81084, .ld32 0x7A 2 4 0), (0x83F010B2, .st32 0x7C 2 5 2), (0x840C08D8, .aadd 3 1 6 3),
           (0x881008C0, .cas32 4 1 6 0), (0x8BF008C6, .redfadd 0x7C 1 6 0), (0xA40F0200, .mlda 0 0x78 8 0 0),
           (0xA4003E07, .mcfg 0 1), (0xC00BC031, .rdsr 2 3 0), (0xC1E01802, .wrsr 3 0), (0xFE800002, .hintHold 2),
           (0xFE100000, .hintConst 0x100000),
           (0b0110000#7 ++ 0b010#3 ++ 0b1#1 ++ 0b111111111111111111110#21, .bra 2 1 0x1FFFFE),
           (0b1001000#7 ++ 0b1111000#7 ++ 0b0000100#7 ++ 0b0001000#7 ++ 0#1 ++ 0b010#3, .texg 4 8),
           (0b1001001#7 ++ 0b0000011#7 ++ 0b0000100#7 ++ 0b1111000#7 ++ 0#1 ++ 0b010#3, .rflush 3 4 0),
           (0b1010100#7 ++ 0b101#3 ++ 0b0000100#7 ++ 0b0000110#7 ++ 0#5 ++ 0b001#3, .frfill 5 4 6),
           (0b1010110#7 ++ 0b0000011#7 ++ 0b0000100#7 ++ 0b1111000#7 ++ 1#1 ++ 0b110#3, .cntrd 3 4 1),
           (0b1011000#7 ++ 0b0000011#7 ++ 0b0000100#7 ++ 0b1111000#7 ++ 0#1 ++ 0b101#3, .tmstat 3 4 0),
           (0b1100001#7 ++ 0b0000011#7 ++ 0b0000100#7 ++ 0b0000110#7 ++ 0#1 ++ 0b010#3, .mquery 3 4 6),
           (0b1100010#7 ++ 0b1111000#7 ++ 0b0000100#7 ++ 0b0000110#7 ++ 0#1 ++ 0b000#3, .tlbinv 4 6) ] :
            List (Word × Instr)), decode e.1 = .ok e.2

/-! ## Steps -/

/-- A front end's turn in which the fetch reaches memory (R25, R84, R99, R338): the run's context, the machine address of
its word, and the state after the fetch. -/
structure Sys2Proof.Machine.Fetches (s t : State) (w : Word) : Prop where
  turn : ∃ k st u, s.takeTurn = (.front k st, u) ∧ ∃ x, findCtx { u with focus := (k, st) } = some x
    ∧ x.pc.toNat < x.c.csize
    ∧ ∃ a v, ({ u with focus := (k, st) } : State).translate (x.c.asker x.key st) .fetch x.fetchVa = (.to a, v)
      ∧ v.lineState a 4 = .good ∧ t = v.readDone a 4 (some (coreOf k))
      ∧ w = v.byte (a + 3) ++ v.byte (a + 2) ++ v.byte (a + 1) ++ v.byte a

/-- R25, R84, R338: a step runs the instruction that the four bytes at the program counter decode to, at the state the
fetch leaves; and a step whose turn belongs to another agent carries out that agent's event. -/
def Obligations.StepRunsDecodedInstruction : Prop :=
  (∀ (s t : State) (w : Word) (i : Instr), Fetches s t w → decode w = .ok i → step s = exec i t) ∧
  (∀ (s t : State) (i : Instr), s.takeTurn = (.event i, t) → step s = exec i t)

/-- R27, R28: a fetched word that is no instruction takes ILLOP, and the word of an instruction with a code other than z
where z is fixed takes ILLOPND with that position, after the checks that come before; TRAPV holds the word and the
position. A word of the hints' major traps as a hint: TRAPPC is its own address (R40). -/
def Sys2Proof.Machine.UndecodableWordsTrap : Prop :=
  ∀ (s t : State) (w : Word) (x : Ctx), Fetches s t w → findCtx t = some x →
    (decode w = .illop → step s = .next (trapAt x (w.extractLsb' 25 7 == 0x7F) .illop (w.setWidth 64) (switchIn x t))) ∧
    (∀ i pos, decode w = .operand i pos → wordAbsent (isLine x.key) w = false → ownIllop w x = false → hintMisused w x.c x.hints = false →
      wordStreams w &&& (match x.st with | .c => 1 | .a => 2) ≠ 0 → wordLevel w ≤ x.c.level → ownPriv w x = false →
      step s = .next (trapAt x false .illopnd (BitVec.ofNat 32 pos ++ w) (switchIn x t)))

/-- R28, R35, R86, R138: a word is judged in this order, for the run as a whole: ILLOP, STREAM, PRIV, ILLOPND, each with
the word and its position in TRAPV; then it waits for results in flight that it names, traps on an invalid latch, and
waits when no active lane's queue operations can complete. The first that applies is what the machine does. -/
def Obligations.ChecksComeInOrder : Prop :=
  ∀ (w : Word) (o : OpInfo) (body : Ctx → State → Eff) (s : State) (x : Ctx), findCtx s = some x →
    let u := switchIn x s
    let illop := wordAbsent (isLine x.key) w = true ∨ o.illop = true ∨ ownIllop w x = true ∨
      (o.hint = false ∧ hintMisused w x.c x.hints = true)
    let elsewhere := wordStreams w &&& (match x.st with | .c => 1 | .a => 2) = 0
    let below := x.c.level < wordLevel w ∨ ownPriv w x = true
    (illop → issue w o body s = .next (trapAt x o.hint .illop (0#32 ++ w) u)) ∧
    (¬ illop → elsewhere → issue w o body s = .next (trapAt x o.hint .stream (0#32 ++ w) u)) ∧
    (¬ illop → ¬ elsewhere → below → issue w o body s = .next (trapAt x o.hint .priv (0#32 ++ w) u)) ∧
    (¬ illop → ¬ elsewhere → ¬ below →
      (∀ p, badOperand o x = some p → issue w o body s = .next (trapAt x o.hint .illopnd (BitVec.ofNat 32 p ++ w) u)) ∧
      (badOperand o x = none →
        (hazard o x = true → issue w o body s = .next (stall x s)) ∧
        (hazard o x = false →
          (∀ n, invalidLatch o x = some n → issue w o body s = .next (trapAt x o.hint .latch
            (BitVec.ofNat 64 (n + (if x.st = .a then 8 else 0))) u)) ∧
          (invalidLatch o x = none → x.act ≠ 0 → readyLanes w o x = 0 →
            issue w o body s = .next (stall x (noteWants w o x x.act s))))))

/-- R87, R331, R374: no instruction and no event is refused, and none stops the machine but a host access to an address
beyond device memory or beyond the function's BAR0; every trap, wait and command answered with an error is a next state. -/
def Obligations.OnlyHostAccessStops : Prop :=
  ∀ (i : Instr) (s : State), (∃ t, exec i s = .next t) ∨
    (∃ func addr size write data, i = .hostAccess func addr size write data
      ∧ ((addr < 2 ^ 40 ∧ 2 ^ 40 < addr + size) ∨ (2 ^ 40 ≤ addr ∧ 2 ^ 40 + barSize func < addr + size))
      ∧ exec i s = .fault .noDeviceAddress)

/-- R331, R54: machine memory and host memory keep their one form (addresses rising, no byte listed that an unlisted
address reads as) through every step, from every state. -/
def Obligations.MemoryStaysCanonical : Prop :=
  ∀ (s t : State), Memory.wf s.mem = true → Memory.wf s.hostMem = true → step s = .next t →
    Memory.wf t.mem = true ∧ Memory.wf t.hostMem = true

/-- R350, R370, R375, R392: right after reset every session is FREE and no consist is there, the key slots of every die
but slot 0 are EMPTY, the management queues are STOPPED, and the power registers hold the values R392 gives. Memory lists
nothing, which is the model's choice (assumption log 1). -/
def Obligations.ResetLeaves : Prop :=
  (∀ v, (State.reset.session v).state = .free) ∧ (∀ k, State.reset.consist? k = none) ∧
  (∀ d, d < 4 → (tget (State.reset.die d).slots 0).state = 1 ∧ (∀ k, k ≠ 0 → (tget (State.reset.die d).slots k).state = 0)
    ∧ (State.reset.die d).pcap = 1500 ∧ (State.reset.die d).trip = 960 ∧ (State.reset.die d).thr = 840
    ∧ (State.reset.die d).injEn = false) ∧
  (∀ q, q < 4 → (State.reset.queue (256 + q)).stopped = true ∧ (State.reset.queue (256 + q)).qk = 6) ∧
  (∀ g, g < 32 → (State.reset.station g).curPt = 6 ∧ (State.reset.station g).minPt = 0 ∧ (State.reset.station g).maxPt = 15) ∧
  Memory.wf State.reset.mem = true ∧ Memory.wf State.reset.hostMem = true ∧ (∀ a, State.reset.byte a = 0)

/-! ## Traps -/

/-- R6, R104, R105, R108: a trap delivered to a consist whose launch names a handler. The record is written, the level is
supervisor, the handler's A-stream is one run of the trap's lanes at the handler entry with its latches invalid, both
streams are set aside with every lane that has pending hints back at the first of them and no hint left, and no load or
division is in flight. -/
def Sys2Proof.Machine.TrapStartsHandler : Prop :=
  ∀ (c : Consist) (cause : Cause) (v : DWord) (isAsync : Bool) (st : Strm) (lanes : Lanes) (pc stood h : BitVec 32),
    c.saved = none → c.handler = some h → Table.sorted c.a.hints = true → Table.sorted c.c.hints = true →
    let t := c.deliver cause v isAsync st lanes pc stood
    t.trapc = lanes ++ 0#22 ++ BitVec.ofBool isAsync ++ BitVec.ofBool (st == .a) ++ 0#2 ++ cause.code ∧
    t.trapv = v ∧ t.trappc = pc ∧ t.level = 1 ∧ t.status = c.status ∧
    (∀ b, b < 16 ∨ 18 ≤ b → t.cid.getLsbD b = c.cid.getLsbD b) ∧
    t.a.latchValid = 0 ∧ t.a.exited = 0 ∧ t.a.absent = ~~~lanes ∧ (∀ l, l < 32 → tget t.a.pc l = h) ∧
    t.a.preds = c.a.preds ∧ t.a.hints = [] ∧
    t.inflight.filter (fun f => f.kind == .load || f.kind == .variable) = [] ∧
    (∃ sv, t.saved = some sv ∧ sv.level = c.cid.extractLsb' 16 2 ∧ sv.pc = stood ∧ sv.a.hints = [] ∧ sv.c.hints = [] ∧
      sv.a.latchValid = c.settle.a.latchValid ∧ sv.c.latchValid = c.settle.c.latchValid ∧
      sv.a.guardLeft = c.a.guardLeft ∧ sv.c.guardLeft = c.c.guardLeft ∧ sv.a.guardPass = c.a.guardPass ∧
      sv.c.guardPass = c.c.guardPass ∧ sv.a.hold = c.a.hold ∧ sv.c.hold = c.c.hold ∧
      (∀ l, tget sv.a.pc l = ((tfind l c.a.hints).map (fun y => y.first)).getD (tget c.a.pc l)) ∧
      (∀ l, tget sv.c.pc l = ((tfind l c.c.hints).map (fun y => y.first)).getD (tget c.c.pc l)))

/-- R105, R106: a trap of a consist whose launch names no handler, and a trap while a handler runs, end the consist with
the new record. -/
def Sys2Proof.Machine.TrapTerminates : Prop :=
  ∀ (c : Consist) (cause : Cause) (v : DWord) (isAsync : Bool) (st : Strm) (lanes : Lanes) (pc stood : BitVec 32),
    c.handler = none ∨ c.saved ≠ none →
    (c.deliver cause v isAsync st lanes pc stood).status = .terminated
      { trapc := lanes ++ 0#22 ++ BitVec.ofBool isAsync ++ BitVec.ofBool (st == .a) ++ 0#2 ++ cause.code, trapv := v,
        trappc := pc }

/-- (1) R6, R104, R105, R108: a trap delivered to a consist whose launch names a handler. The record is written, the
level is supervisor, the handler's A-stream is one run of the trap's lanes at the handler entry with its latches
invalid, both streams are set aside with every lane that has pending hints back at the first of them and no hint left,
and no load or division is in flight. (2) R105, R106: a trap of a consist whose launch names no handler, and a trap
while a handler runs, end the consist with the new record. -/
def Obligations.TrapsStartHandlersOrTerminate : Prop := TrapStartsHandler ∧ TrapTerminates

/-- R105, R106, R109: ERET of a handler restores both streams and the level. The lanes of TRAPC.LANES that stood where
the trap was taken resume at TRAPPC in the stream TRAPC.STREAM names; every other lane stands where it stood. After
CANCEL every lane has left both streams instead and the consist drains. -/
def Obligations.EretReturns : Prop :=
  ∀ (s : State) (x : Ctx) (v : Saved),
    Issues (packReg 0x60 0x78 0x78 0x78 0 4) { transfer := true } s x → x.c.saved = some v →
    (x.c.cancelled = false → x.c.trappc.toNat < x.c.csize → x.c.trappc.toNat % 4 = 0 →
      ∃ t c, exec .eret s = .next t ∧ t.consist? x.key = some c ∧ (switchIn x s).Keeps x.key t ∧ c.saved = none ∧ c.status = x.c.status ∧
        c.cid.extractLsb' 16 2 = v.level ∧ c.vregs = x.c.vregs ∧ c.aregs = x.c.aregs ∧ c.sregs = x.c.sregs ∧ c.csw = x.c.csw ∧
        c.a.latch = v.a.latch ∧ c.a.latchValid = v.a.latchValid ∧ c.c.latch = v.c.latch ∧ c.c.latchValid = v.c.latchValid ∧
        c.a.guardLeft = v.a.guardLeft ∧ c.c.guardLeft = v.c.guardLeft ∧ c.a.hold = v.a.hold ∧ c.c.hold = v.c.hold ∧
        (∀ l, l < 32 → tget c.a.pc l = if x.c.trapc.getLsbD 8 = true ∧ x.c.trapc.getLsbD (32 + l) = true ∧ tget v.a.pc l = v.pc
          then x.c.trappc else tget v.a.pc l) ∧
        (∀ l, l < 32 → tget c.c.pc l = if x.c.trapc.getLsbD 8 = false ∧ x.c.trapc.getLsbD (32 + l) = true ∧ tget v.c.pc l = v.pc
          then x.c.trappc else tget v.c.pc l)) ∧
    (x.c.cancelled = true →
      ∃ t c, exec .eret s = .next t ∧ t.consist? x.key = some c ∧ (switchIn x s).Keeps x.key t ∧ c.status = .draining ∧
        c.a.exited = BitVec.allOnes 32 ∧ c.c.exited = BitVec.allOnes 32)

/-- R28, R109: below its level a privileged instruction takes PRIV and has no other effect: ERET, DEQ, MQUERY, TLBINV and
TLBINVA need the supervisor's, HALT and MRETIRE root. -/
def Sys2Proof.Machine.PrivilegedInstructionsTrap : Prop :=
  ∀ (s : State) (x : Ctx) (d a b : BitVec 7) (w : BitVec 1),
    ∀ e ∈ ([ (.eret, 1, [.a, .c]), (.halt, 3, [.a, .c]), (.deq d a b w, 1, [.a]), (.mquery d a b, 1, [.a]),
             (.mretire d a b, 3, [.a]), (.tlbinv a b, 1, [.a]), (.tlbinva b, 1, [.a]) ] : List (Instr × Nat × List Strm)),
      ∀ u, encode e.1 = some u → findCtx s = some x → x.st ∈ e.2.2 → x.c.level < e.2.1 → isLine x.key = false →
        (e.1 = .eret → x.c.level = 0) → hintMisused u x.c x.hints = false →
        exec e.1 s = .next (trapAt x false .priv (u.setWidth 64) (switchIn x s))

/-- (1) R27, R28: a fetched word that is no instruction takes ILLOP, and the word of an instruction with a code other
than z where z is fixed takes ILLOPND with that position, after the checks that come before; TRAPV holds the word and
the position. (2) R28, R109: below its level a privileged instruction takes PRIV and has no other effect: ERET, DEQ,
MQUERY, TLBINV and TLBINVA need the supervisor's, HALT and MRETIRE root. -/
def Obligations.UndecodableAndPrivilegedWordsTrap : Prop := UndecodableWordsTrap ∧ PrivilegedInstructionsTrap

/-! ## Register instructions: results, completion and frame in one -/

/-- An operation on operands of the stream's width (R110): 32 bits in the C-stream, 64 in the A-stream. -/
abbrev Sys2Proof.Machine.WidthOp := (n : Nat) → BitVec n → BitVec n → BitVec n

/-- Apply an operation at the width of a stream; the result is zero-extended. -/
def Sys2Proof.Machine.atWidth (st : Strm) (f : WidthOp) (p q : DWord) : DWord :=
  match st with
  | .c => (f 32 (p.setWidth 32) (q.setWidth 32)).setWidth 64
  | .a => f 64 p q

/-- The least signed number of n bits, and the greatest. -/
def Sys2Proof.Machine.clampTo (n : Nat) (v : Int) : BitVec n :=
  BitVec.ofInt n (if v < -(2 ^ (n - 1) : Int) then -(2 ^ (n - 1) : Int) else if (2 ^ (n - 1) : Int) ≤ v then 2 ^ (n - 1) - 1 else v)

/-- Two-source integer instructions of REG form with what R133, R136, R139, R140 and R142 say they write; `sat` tells
whether HINT.MOD's saturation is pending. -/
def Sys2Proof.Machine.twoSource (d a b : BitVec 7) (w : BitVec 1) : List (Instr × (Bool → WidthOp)) :=
  [ (.iadd d a b w, fun sat n p q => if sat then clampTo n (p.toInt + q.toInt) else p + q),
    (.isub d a b w, fun sat n p q => if sat then clampTo n (p.toInt - q.toInt) else p - q),
    (.imin d a b w, fun _ _ p q => if p.sle q then p else q),
    (.imax d a b w, fun _ _ p q => if p.sle q then q else p),
    (.umin d a b w, fun _ _ p q => if p.ule q then p else q),
    (.umax d a b w, fun _ _ p q => if p.ule q then q else p),
    (.iabsd d a b w, fun _ _ p q => if p.sle q then q - p else p - q),
    (.imul d a b w, fun sat n p q => if sat then clampTo n (p.toInt * q.toInt) else p * q),
    (.imulh d a b w, fun _ n p q => BitVec.ofInt n ((p.toInt * q.toInt) / (2 ^ n : Int))),
    (.umulh d a b w, fun _ n p q => BitVec.ofNat n (p.toNat * q.toNat / 2 ^ n)),
    (.and d a b w, fun _ _ p q => p &&& q), (.or d a b w, fun _ _ p q => p ||| q),
    (.xor d a b w, fun _ _ p q => p ^^^ q), (.andn d a b w, fun _ _ p q => p &&& ~~~q),
    (.shl d a b w, fun _ n p q => p <<< (q.toNat % 256)), (.shr d a b w, fun _ n p q => p >>> (q.toNat % 256)),
    (.sar d a b w, fun _ n p q => p.sshiftRight (q.toNat % 256)),
    (.ror d a b w, fun _ n p q => p.rotateRight (q.toNat % 256)),
    (.bfe d a b w, fun _ n p q =>
      let pos := q.toNat % 256
      let len := min (q.toNat / 256 % 256) (n - pos)
      let f := p.toNat / 2 ^ pos % 2 ^ len
      if q.toNat / 65536 % 2 = 1 ∧ 0 < len ∧ 2 ^ (len - 1) ≤ f then BitVec.ofInt n ((f : Int) - 2 ^ len)
      else BitVec.ofNat n f) ]

/-- R133, R136, R139, R140, R142: the two-source integer instructions complete, with the result their rules give in every
active lane, and change nothing else. -/
def Sys2Proof.Machine.TwoSourceIntegerResults : Prop :=
  ∀ (s : State) (x : Ctx) (d a b : BitVec 7) (w : BitVec 1),
    ∀ e ∈ twoSource d a b w, ∀ u, encode e.1 = some u → Issues u (info3 d a b) s x →
      ∃ t, exec e.1 s = .next t
        ∧ Wrote (info3 d a b) x d false (w == 1) (fun l => atWidth x.st (e.2 (satOf x)) (src1 x a l) (src2 x a b l)) x.c.csw s t

/-- One-source integer instructions of REG form with what R139 and R143 say they write. -/
def Sys2Proof.Machine.oneSource (d a : BitVec 7) (w : BitVec 1) : List (Instr × ((n : Nat) → BitVec n → BitVec n)) :=
  [ (.not d a w, fun _ p => ~~~p),
    (.popc d a w, fun n p => BitVec.ofNat n ((List.range n).countP (fun i => p.getLsbD i))),
    (.clz d a w, fun n p => BitVec.ofNat n (((List.range n).find? (fun i => p.getLsbD (n - 1 - i))).getD n)),
    (.ctz d a w, fun n p => BitVec.ofNat n (((List.range n).find? (fun i => p.getLsbD i)).getD n)),
    (.brev d a w, fun _ p => p.reverse),
    (.bswap d a w, fun n p => BitVec.ofNat n
      (((List.range (n / 8)).map (fun j => p.toNat / 2 ^ (8 * j) % 256 * 2 ^ (8 * (n / 8 - 1 - j)))).sum)),
    (.sext8 d a w, fun n p => BitVec.signExtend n (p.extractLsb' 0 8)),
    (.sext16 d a w, fun n p => BitVec.signExtend n (p.extractLsb' 0 16)) ]

/-- R139, R143: the one-source integer instructions complete with the result their rules give, and change nothing else. -/
def Sys2Proof.Machine.OneSourceIntegerResults : Prop :=
  ∀ (s : State) (x : Ctx) (d a : BitVec 7) (w : BitVec 1),
    ∀ e ∈ oneSource d a w, ∀ u, encode e.1 = some u → Issues u (info2 d a) s x →
      ∃ t, exec e.1 s = .next t
        ∧ Wrote (info2 d a) x d false (w == 1) (fun l => match x.st with
            | .c => (e.2 32 ((src1 x a l).setWidth 32)).setWidth 64
            | .a => e.2 64 (src1 x a l)) x.c.csw s t

/-- The immediate of an integer instruction: sign-extended, or the low part of a pending constant of 32 bits (R36, R41,
R134). -/
def Sys2Proof.Machine.immediate (x : Ctx) (imm : BitVec 10) : DWord :=
  match x.hints.const with
  | some k => BitVec.signExtend 64 (k ++ imm)
  | none => BitVec.signExtend 64 imm

/-- Instructions with an immediate, their operand fields, and what R134, R139, R141 and R147 say they write. -/
def Sys2Proof.Machine.immediateForms (x : Ctx) (d a : BitVec 7) (w : BitVec 1) (imm : BitVec 10) (n : BitVec 6) :
    List (Instr × OpInfo × (DWord → DWord)) :=
  let src : OpInfo := { uses := [(1, d, .dst false false true), (2, a, .src false true)] }
  let plus : OpInfo := { uses := [(1, d, .dst false true true), (2, a, .src false true)] }
  let at' := fun (f : WidthOp) (v : DWord) => atWidth x.st f v (immediate x imm)
  let sh := fun (f : (m : Nat) → BitVec m → BitVec m) (v : DWord) => atWidth x.st (fun m p _ => f m p) v 0
  [ (.iaddi d a w imm, plus, at' (fun m p q => if satOf x then clampTo m (p.toInt + q.toInt) else p + q)),
    (.movi d w imm, { uses := [(1, d, .dst false true true)] }, fun _ => immediate x imm),
    (.andi d a w imm, src, at' (fun _ p q => p &&& q)), (.ori d a w imm, src, at' (fun _ p q => p ||| q)),
    (.xori d a w imm, src, at' (fun _ p q => p ^^^ q)),
    (.shli d a w n, src, sh (fun _ p => p <<< n.toNat)), (.shri d a w n, src, sh (fun _ p => p >>> n.toNat)),
    (.sari d a w n, src, sh (fun _ p => p.sshiftRight n.toNat)),
    (.rori d a w n, src, sh (fun _ p => p.rotateRight n.toNat)) ]

/-- R134, R139, R141: the instructions with an immediate complete with the result their rules give, and change nothing
else. -/
def Sys2Proof.Machine.ImmediateResults : Prop :=
  ∀ (s : State) (x : Ctx) (d a : BitVec 7) (w : BitVec 1) (imm : BitVec 10) (n : BitVec 6),
    ∀ e ∈ immediateForms x d a w imm n, ∀ u, encode e.1 = some u → Issues u e.2.1 s x →
      ∃ t, exec e.1 s = .next t ∧ Wrote e.2.1 x d false (w == 1) (fun l => e.2.2 (src1 x a l)) x.c.csw s t

/-- (1) R133, R136, R139, R140, R142: the two-source integer instructions complete, with the result their rules give
in every active lane, and change nothing else. (2) R139, R143: the one-source integer instructions complete with the
result their rules give, and change nothing else. (3) R134, R139, R141: the instructions with an immediate complete
with the result their rules give, and change nothing else. -/
def Obligations.IntegerResults : Prop := TwoSourceIntegerResults ∧ OneSourceIntegerResults ∧ ImmediateResults

/-- R86, R31, R33: which active lanes' queue operations can complete: every entry the instruction would pop is there and
filled, and what it would push finds room or a queue that discards it. When they can for some active lanes and not for
others, a two-source integer instruction completes for the lanes that can, which advance; the others stay where they stand,
with nothing popped, pushed or written, and what blocks them is kept (R89). -/
def Obligations.QueueOperationsSplitRuns : Prop :=
  ∀ (s : State) (x : Ctx) (d a b : BitVec 7) (w : BitVec 1),
    ∀ e ∈ twoSource d a b w, ∀ u, encode e.1 = some u →
      let o := info3 d a b
      let ready := readyLanes u o x
      let left := x.act &&& ~~~ready
      let y : Ctx := { x with c := noted u o x left, run := x.run &&& ~~~left, act := ready }
      (∀ l, l < 32 → (ready.getLsbD l = true ↔ x.act.getLsbD l = true ∧
        (∀ q, total q (popsOf o x.st) ≤ (x.c.queueOf q l).length ∧
          ∀ v ∈ (x.c.queueOf q l).take (total q (popsOf o x.st)), v.filled = true) ∧
        (w = 0 → ∀ q, writeQueue x.st (codeOf x.st d) = some q →
          x.c.deaf q l = true ∨ (x.c.queueOf q l).length < q.depth))) ∧
      (findCtx s = some x → decodeCheck u o x = none → hazard o x = false → invalidLatch o x = none → ready ≠ 0 → left ≠ 0 →
        ∃ t, exec e.1 s = .next t ∧
          Wrote o y d false (w == 1) (fun l => atWidth x.st (e.2 (satOf x)) (src1 x a l) (src2 x a b l)) x.c.csw
            (noteWants u o x left s) t ∧
          (∀ c, t.consist? x.key = some c → ∀ l, l < 32 → left.getLsbD l = true →
            tget (c.strm x.st).pc l = tget (x.c.strm x.st).pc l ∧ tget (c.strm x.st).wants l = wantOf u o x l ∧
            ∀ q, c.queueOf q l = x.c.queueOf q l))

/-- R135, R142, R145 to R147: IMAD, BFI, SEL, PTOI and LEA complete with the result their rules give, and change nothing
else. -/
def Sys2Proof.Machine.OtherIntegerResults : Prop :=
  ∀ (s : State) (x : Ctx) (d a b : BitVec 7) (c p : BitVec 3) (w : BitVec 1),
    (Issues (packAcc 0x0A d a b c w) (infoAcc false d a b c) s x →
      ∃ t, exec (.imad d a b c w) s = .next t ∧ Wrote (infoAcc false d a b c) x d false (w == 1) (fun l =>
        let z := src1 x (if c = 0 then d else 0x70 + c.setWidth 7) l
        atWidth x.st (fun n y v => if satOf x then clampTo n (y.toInt * v.toInt + (z.setWidth n).toInt) else y * v + z.setWidth n)
          (src1 x a l) (src2 x a b l)) x.c.csw s t) ∧
    (Issues (packReg 0x07 d a b w 5) { uses := [(1, d, .place false), (2, a, .src false true), (3, b, .src false true)] } s x →
      ∃ t, exec (.bfi d a b w) s = .next t ∧ Wrote { uses := [(1, d, .place false), (2, a, .src false true), (3, b, .src false true)] } x d false (w == 1) (fun l =>
        atWidth x.st (fun n y v =>
          let old : BitVec n := (src1 x d l).setWidth n
          let pos := v.toNat % 256
          let len := min (v.toNat / 256 % 256) (n - pos)
          BitVec.ofNat n ((List.range n).map (fun i =>
            if (if pos ≤ i ∧ i < pos + len then y.getLsbD (i - pos) else old.getLsbD i) then 2 ^ i else 0)).sum)
          (src1 x a l) (src2 x a b l)) x.c.csw s t) ∧
    (Issues (packReg 0x0F d a b w p) (info3 d a b) s x →
      ∃ t, exec (.sel d a b w p) s = .next t ∧ Wrote (info3 d a b) x d false (w == 1) (fun l =>
        if (x.c.strm x.st).pred p.toNat l then src1 x a l else src2 x a b l) x.c.csw s t) ∧
    (Issues (packReg 0x10 d a 0 w 6) { uses := [(1, d, .dst false false true), (2, a, .pred)] } s x →
      ∃ t, exec (.ptoi d a w) s = .next t ∧ Wrote { uses := [(1, d, .dst false false true), (2, a, .pred)] } x d false (w == 1) (fun l =>
        if (x.c.strm x.st).pred a.toNat l then 1 else 0) x.c.csw s t) ∧
    (Issues (packReg 0x11 d a b w p) { uses := [(1, d, .dst false true true), (2, a, .src false true), (3, b, .src false true)] } s x →
      ∃ t, exec (.lea d a b w p) s = .next t ∧ Wrote { uses := [(1, d, .dst false true true), (2, a, .src false true), (3, b, .src false true)] } x d false (w == 1) (fun l =>
        src1 x a l + BitVec.ofNat 64 (2 ^ p.toNat) * src2 x a b l) x.c.csw s t)

/-- R136 to R138: a division of active lanes whose divisors are not 0 completes, its quotients or remainders on their
way, and changes nothing else. -/
def Sys2Proof.Machine.DivisionsComplete : Prop :=
  ∀ (s : State) (x : Ctx) (d a b : BitVec 7) (w : BitVec 1),
    ∀ e ∈ ([ (.idiv d a b w, fun n p q => BitVec.ofInt n (p.toInt.tdiv q.toInt)),
             (.udiv d a b w, fun n p q => p / q),
             (.irem d a b w, fun n p q => BitVec.ofInt n (p.toInt.tmod q.toInt)),
             (.urem d a b w, fun n p q => p % q) ] : List (Instr × WidthOp)),
      ∀ u, encode e.1 = some u → Issues u (info3 d a b) s x → (∀ l ∈ lanesOf x.act, src2 x a b l ≠ 0) →
        ∃ t, exec e.1 s = .next t
          ∧ Sent (info3 d a b) .variable x d false (w == 1) (fun l => atWidth x.st e.2 (src1 x a l) (src2 x a b l)) x.c.csw s t

/-- (1) R135, R142, R145 to R147: IMAD, BFI, SEL, PTOI and LEA complete with the result their rules give, and change
nothing else. (2) R136 to R138: a division of active lanes whose divisors are not 0 completes, its quotients or
remainders on their way, and changes nothing else. -/
def Obligations.WideAndDividedResults : Prop := OtherIntegerResults ∧ DivisionsComplete

/-- R137: a division with a divisor of 0 in an active lane takes ZDIV with the mask of those lanes, and writes nothing. -/
def Obligations.DivisionByZeroTraps : Prop :=
  ∀ (s : State) (x : Ctx) (d a b : BitVec 7) (w : BitVec 1),
    ∀ i ∈ ([.idiv d a b w, .udiv d a b w, .irem d a b w, .urem d a b w] : List Instr),
      ∀ u, encode i = some u → Issues u (info3 d a b) s x → (∃ l ∈ lanesOf x.act, src2 x a b l = 0) →
        exec i s = .next (trapAt x false .zdiv
          ((maskWhere (fun l => x.act.getLsbD l && src2 x a b l == 0)).setWidth 64) (switchIn x s))

/-- Instructions that write a predicate from predicates, with what R146 says of a lane. -/
def Sys2Proof.Machine.predicateForms (d a b : BitVec 7) : List (Instr × (Bool → Bool → Bool)) :=
  [ (.pand d a b, fun p q => p && q), (.por d a b, fun p q => p || q), (.pxor d a b, fun p q => xor p q),
    (.pandn d a b, fun p q => p && !q) ]

/-- The conditions of R144 on operands of one width. -/
def Sys2Proof.Machine.holds (f : BitVec 3) (n : Nat) (p q : BitVec n) : Bool :=
  match f.toNat with
  | 0 => p == q
  | 1 => p != q
  | 2 => p.slt q
  | 3 => p.sle q
  | 4 => q.slt p
  | 5 => q.sle p
  | 6 => p.ult q
  | _ => q.ule p

/-- R144, R146, R150: comparisons, predicate combinations and votes complete, with the predicate their rules give in
every active lane, and change nothing else. -/
def Obligations.PredicateResults : Prop :=
  ∀ (s : State) (x : Ctx) (d a b : BitVec 7) (f : BitVec 3) (imm : BitVec 7),
    let pred := fun (p : BitVec 7) (l : Nat) => (x.c.strm x.st).pred p.toNat l
    let cmp := fun (p q : DWord) => match x.st with
      | .c => holds f 32 (p.setWidth 32) (q.setWidth 32)
      | .a => holds f 64 p q
    let rakeOf := fun (l : Nat) => (lanesOf x.act).filter (fun m => m / rakeSize x == l / rakeSize x)
    (Issues (packReg 0x0C d a b 0 f) { uses := [(1, d, .pred), (2, a, .src false true), (3, b, .src false true)] } s x →
      ∃ t, exec (.icmp d a b f) s = .next t
        ∧ WrotePred { uses := [(1, d, .pred), (2, a, .src false true), (3, b, .src false true)] } x d.toNat (fun l => cmp (src1 x a l) (src2 x a b l)) x.c.csw s t) ∧
    (Issues (packImm 0x0D d a 0 (f ++ imm)) { uses := [(1, d, .pred), (2, a, .src false true)] } s x →
      ∃ t, exec (.icmpi d a f imm) s = .next t
        ∧ WrotePred { uses := [(1, d, .pred), (2, a, .src false true)] } x d.toNat (fun l => cmp (src1 x a l) (BitVec.signExtend 64 imm)) x.c.csw s t) ∧
    (∀ e ∈ predicateForms d a b, ∀ u, encode e.1 = some u →
      Issues u { uses := [(1, d, .pred), (2, a, .pred), (3, b, .pred)] } s x →
      ∃ t, exec e.1 s = .next t ∧ WrotePred { uses := [(1, d, .pred), (2, a, .pred), (3, b, .pred)] } x d.toNat (fun l => e.2 (pred a l) (pred b l)) x.c.csw s t) ∧
    (Issues (packReg 0x10 d a 0 0 4) { uses := [(1, d, .pred), (2, a, .pred)] } s x →
      ∃ t, exec (.pmov d a) s = .next t ∧ WrotePred { uses := [(1, d, .pred), (2, a, .pred)] } x d.toNat (pred a) x.c.csw s t) ∧
    (Issues (packReg 0x10 d a 0x78 0 5) { uses := [(1, d, .pred), (2, a, .src false true)] } s x →
      ∃ t, exec (.pnz d a) s = .next t ∧ WrotePred { uses := [(1, d, .pred), (2, a, .src false true)] } x d.toNat (fun l => src1 x a l != 0) x.c.csw s t) ∧
    (Issues (packReg 0x13 d a 0x78 0 0) { uses := [(1, d, .pred), (2, a, .pred)] } s x →
      ∃ t, exec (.vany d a) s = .next t
        ∧ WrotePred { uses := [(1, d, .pred), (2, a, .pred)] } x d.toNat (fun l => decide (∃ m ∈ rakeOf l, pred a m = true)) x.c.csw s t) ∧
    (Issues (packReg 0x13 d a 0x78 0 1) { uses := [(1, d, .pred), (2, a, .pred)] } s x →
      ∃ t, exec (.vall d a) s = .next t
        ∧ WrotePred { uses := [(1, d, .pred), (2, a, .pred)] } x d.toNat (fun l => decide (∀ m ∈ rakeOf l, pred a m = true)) x.c.csw s t)

/-- What lane j gives a permute (R148): 0 where it was never launched or has left the stream, else its operand. -/
def Sys2Proof.Machine.given (x : Ctx) (a : BitVec 7) (j : Nat) : DWord :=
  if x.c.lmask.getLsbD j && !(x.c.exitedIn x.st).getLsbD j && !x.c.fmask.getLsbD j then src1 x a j else 0

/-- R148, R149: a permute completes with each active lane's value taken from the lane of its rake that its rule names, and
changes nothing else. -/
def Sys2Proof.Machine.PermuteResults : Prop :=
  ∀ (s : State) (x : Ctx) (d a b : BitVec 7) (w : BitVec 1),
    let r := rakeSize x
    let base := fun (l : Nat) => l / r * r
    let two : OpInfo := { uses := [(1, d, .dst false false true), (2, a, .src false false), (3, b, .src false true)], cross := true }
    let one : OpInfo := { uses := [(1, d, .dst false false true), (2, a, .src false false)], cross := true }
    let by' := fun (l : Nat) => (src1 x b l).toNat
    ∀ e ∈ ([ (.shfli d a b w, two, fun l => base l + by' l % r),
             (.shflu d a b w, two, fun l => base l + (l % r + (r - by' l % r)) % r),
             (.shfld d a b w, two, fun l => base l + (l % r + by' l) % r),
             (.shflx d a b w, two, fun l => base l + (l % r ^^^ by' l) % r),
             (.swapp d a w, one, fun l => l ^^^ 1),
             (.bcast d a b w, two, fun l =>
               base l + by' (((lanesOf x.act).find? (fun m => m / r == l / r)).getD l) % r) ] : List (Instr × OpInfo × (Nat → Nat))),
      ∀ u, encode e.1 = some u → Issues u e.2.1 s x →
        ∃ t, exec e.1 s = .next t ∧ Wrote e.2.1 x d false (w == 1) (fun l => given x a (e.2.2 l)) x.c.csw s t

/-- R150, R151: votes into a register, integer reductions and scans complete with the value their rule gives over the
active lanes of the rake, and change nothing else. -/
def Sys2Proof.Machine.ReductionResults : Prop :=
  ∀ (s : State) (x : Ctx) (d a : BitVec 7) (w : BitVec 1),
    let rakeOf := fun (l : Nat) => (lanesOf x.act).filter (fun m => m / rakeSize x == l / rakeSize x)
    let fold := fun (f : WidthOp) (ls : List Nat) => match ls with
      | [] => 0
      | m :: ms => ms.foldl (fun v j => atWidth x.st f v (src1 x a j)) (src1 x a m)
    let maskOfLanes := fun (ls : List Nat) => (maskWhere (fun l => ls.contains l)).setWidth 64
    (∀ e ∈ ([ (.rdadd d a w, fun l => fold (fun _ p q => p + q) (rakeOf l)),
              (.rdmin d a w, fun l => fold (fun _ p q => if p.sle q then p else q) (rakeOf l)),
              (.rdmax d a w, fun l => fold (fun _ p q => if p.sle q then q else p) (rakeOf l)),
              (.rdand d a w, fun l => fold (fun _ p q => p &&& q) (rakeOf l)),
              (.rdor d a w, fun l => fold (fun _ p q => p ||| q) (rakeOf l)),
              (.rdxor d a w, fun l => fold (fun _ p q => p ^^^ q) (rakeOf l)),
              (.scadd d a w, fun l => ((rakeOf l).filter (fun m => decide (m ≤ l))).foldl
                (fun v m => atWidth x.st (fun _ p q => p + q) v (src1 x a m)) 0),
              (.matchLanes d a w, fun l => maskOfLanes ((rakeOf l).filter (fun m => src1 x a m == src1 x a l))) ] :
                List (Instr × (Nat → DWord))),
      ∀ u, encode e.1 = some u → Issues u (info2 d a) s x →
        ∃ t, exec e.1 s = .next t ∧ Wrote (info2 d a) x d false (w == 1) e.2 x.c.csw s t) ∧
    (Issues (packReg 0x13 d a 0x78 w 2) { uses := [(1, d, .dst false false true), (2, a, .pred)] } s x →
      ∃ t, exec (.vbal d a w) s = .next t ∧ Wrote { uses := [(1, d, .dst false false true), (2, a, .pred)] } x d false (w == 1) (fun l =>
        maskOfLanes ((rakeOf l).filter (fun m => (x.c.strm x.st).pred a.toNat m))) x.c.csw s t)
/-! ## Floating point -/

/-- (1) R148, R149: a permute completes with each active lane's value taken from the lane of its rake that its rule
names, and changes nothing else. (2) R150, R151: votes into a register, integer reductions and scans complete with the
value their rule gives over the active lanes of the rake, and change nothing else. -/
def Obligations.CrossLaneResults : Prop := PermuteResults ∧ ReductionResults

/-- A result written at once, or put on its way as a variable-latency one (R138, R221). -/
def Sys2Proof.Machine.Delivered (o : OpInfo) (late : Bool) (x : Ctx) (d : BitVec 7) (wide nw : Bool) (f : Nat → DWord)
    (csw : BitVec 32) (s t : State) : Prop :=
  if late then Sent o .variable x d wide nw f csw s t else Wrote o x d wide nw f csw s t

/-- The exceptions enabled in CSW.FPE (R107, R129). -/
def Sys2Proof.Machine.enabled (x : Ctx) : Flags := x.c.csw.extractLsb' 11 5

/-- A floating-point form: the instruction, its operand fields, whether D is a pair, whether it is of variable latency, and
the rounded result with its flags for a lane. -/
structure Sys2Proof.Machine.FloatForm where
  instr : Instr
  info : OpInfo
  wide : Bool
  late : Bool
  value : Nat → FRes

/-- Binary32 and binary64 arithmetic outside rational mode: each is the exact operation on the operands as the format
reads them, rounded once in the mode in force (R124, R157 to R163, R166). -/
def Sys2Proof.Machine.floatForms (x : Ctx) (d a b : BitVec 7) (c : BitVec 3) (w : BitVec 1) (imm : BitVec 10) :
    List FloatForm :=
  let k := roundCtl x
  let down := k.mode == 3
  let rd := fun (wide : Bool) (v : Nat) => (fmtOf wide).read k.flush v
  let at2 := fun (wide : Bool) (f : Num → Num → Num × Flags) (l : Nat) =>
    finish (fmtOf wide) k (f (rd wide (fsrcA x wide a l)) (rd wide (fsrcB x wide a b l)))
  let at3 := fun (wide sub : Bool) (l : Nat) =>
    let z := rd wide (fsrcC x wide a b (addendCode d c) l)
    finish (fmtOf wide) k (fmaNum down (rd wide (fsrcA x wide a l)) (rd wide (fsrcB x wide a b l)) (if sub then z.flip else z))
  let quot := fun (wide : Bool) (l : Nat) => divRound (fmtOf wide) k (rd wide (fsrcA x wide a l)) (rd wide (fsrcB x wide a b l))
  let whole := fun (mode : Nat) (l : Nat) =>
    let n := rd false (fsrcA x false a l)
    finish .f32 plainRN (integral mode n, signalling [n])
  [ ⟨.fadd d a b w, infoF3 false d a b, false, false, at2 false (addNum down)⟩,
    ⟨.fsub d a b w, infoF3 false d a b, false, false, at2 false (fun p q => addNum down p q.flip)⟩,
    ⟨.fmul d a b w, infoF3 false d a b, false, false, at2 false mulNum⟩,
    ⟨.fdiv d a b w, infoF3 false d a b, false, true, quot false⟩,
    ⟨.fmin d a b w, infoF3 false d a b, false, false, fun l => pickBits .f32 k.flush false (fsrcA x false a l) (fsrcB x false a b l)⟩,
    ⟨.fmax d a b w, infoF3 false d a b, false, false, fun l => pickBits .f32 k.flush true (fsrcA x false a l) (fsrcB x false a b l)⟩,
    ⟨.ffma d a b c w, infoAcc false d a b c, false, false, at3 false false⟩,
    ⟨.ffms d a b c w, infoAcc false d a b c, false, false, at3 false true⟩,
    ⟨.faddi d a w imm, { uses := [(1, d, .dst false false true), (2, a, .src false true)] }, false, false,
      fun l => finish .f32 k (addNum down (rd false (fsrcA x false a l)) (faddiImm x k.flush imm))⟩,
    ⟨.frndn d a w, infoF2 d a, false, false, whole 0⟩, ⟨.frndz d a w, infoF2 d a, false, false, whole 1⟩,
    ⟨.frndu d a w, infoF2 d a, false, false, whole 2⟩, ⟨.frndd d a w, infoF2 d a, false, false, whole 3⟩,
    ⟨.ffrac d a w, infoF2 d a, false, false, fun l => fracNum k.flush (rd false (fsrcA x false a l))⟩,
    ⟨.dadd d a b w, infoF3 true d a b, true, false, at2 true (addNum down)⟩,
    ⟨.dsub d a b w, infoF3 true d a b, true, false, at2 true (fun p q => addNum down p q.flip)⟩,
    ⟨.dmul d a b w, infoF3 true d a b, true, false, at2 true mulNum⟩,
    ⟨.ddiv d a b w, infoF3 true d a b, true, true, quot true⟩,
    ⟨.dsqrt d a w, { uses := [(1, d, .dst true false true), (2, a, .src true true)] }, true, true,
      fun l => sqrtRound .f64 k (rd true (fsrcA x true a l))⟩,
    ⟨.dfma d a b c w, infoAcc true d a b c, true, false, at3 true false⟩ ]

/-- Packed 16-bit arithmetic and the conversions (R165, R169, R170): each half for itself; an integer result is clamped
with invalid (R127). -/
def Sys2Proof.Machine.convertForms (x : Ctx) (d a b : BitVec 7) (c : BitVec 3) (w : BitVec 1) : List FloatForm :=
  let k := roundCtl x
  let down := k.mode == 3
  let both := fun (m : Fmt) (f : Num → Num → Num × Flags) (l : Nat) => joinHalves (fun i =>
    finish m k (f (m.read k.flush (half (packedSrc x [] a (negA x) l) i)) (m.read k.flush (half (packedSrc x [(a, false)] b (negB x) l) i))))
  let fused := fun (m : Fmt) (l : Nat) => joinHalves (fun i =>
    finish m k (fmaNum down (m.read k.flush (half (packedSrc x [] a (negA x) l) i))
      (m.read k.flush (half (packedSrc x [(a, false)] b (negB x) l) i))
      (m.read k.flush (half (packedSrc x [(a, false), (b, false)] (addendCode d c) (negC x) l) i))))
  let conv := fun (wideD wideA : Bool) => ({ uses := [(1, d, .dst wideD false true), (2, a, .src wideA true)] } : OpInfo)
  let src := fun (wide : Bool) (l : Nat) => convSrc x wide a l
  let flip := fun (neg : Bool) (v : Nat) => if neg then Nat.xor v (2 ^ 31) else v
  let pair := fun (m : Fmt) (l : Nat) => joinHalves (fun i => reformat m k (Fmt.f32.read k.flush
    (if i = 0 then flip (negA x) (src false l) else flip (negB x) (opVal x b false (offsetBefore x.st [(a, false)] b) 0 l).toNat)))
  let part := fun (m : Fmt) (i l : Nat) => reformat .f32 plainRN (m.read k.flush (half (src false l) i))
  [ ⟨.hadd2 d a b w, infoF3 false d a b, false, false, both .f16 (addNum down)⟩,
    ⟨.hmul2 d a b w, infoF3 false d a b, false, false, both .f16 mulNum⟩,
    ⟨.badd2 d a b w, infoF3 false d a b, false, false, both .bf16 (addNum down)⟩,
    ⟨.bmul2 d a b w, infoF3 false d a b, false, false, both .bf16 mulNum⟩,
    ⟨.hfma2 d a b c w, infoAcc false d a b c, false, false, fused .f16⟩,
    ⟨.bfma2 d a b c w, infoAcc false d a b c, false, false, fused .bf16⟩,
    ⟨.itof d a w, conv false false, false, false, fun l => roundNum .f32 k (intNum (BitVec.ofNat 32 (src false l)).toInt)⟩,
    ⟨.utof d a w, conv false false, false, false, fun l => roundNum .f32 k (intNum (src false l))⟩,
    ⟨.ftoi d a w, conv false false, false, false,
      fun l => toIntRange k.mode (-2 ^ 31) (2 ^ 31 - 1) (Fmt.f32.read k.flush (src false l))⟩,
    ⟨.ftou d a w, conv false false, false, false, fun l => toIntRange k.mode 0 (2 ^ 32 - 1) (Fmt.f32.read k.flush (src false l))⟩,
    ⟨.ftod d a w, conv true false, true, false, fun l => reformat .f64 plainRN (Fmt.f32.read k.flush (src false l))⟩,
    ⟨.dtof d a w, conv false true, false, false, fun l => reformat .f32 k (Fmt.f64.read k.flush (src true l))⟩,
    ⟨.itod d a w, conv true false, true, false,
      fun l => roundNum .f64 plainRN (intNum (BitVec.ofNat 32 (src false l)).toInt)⟩,
    ⟨.dtoi d a w, conv false true, false, false,
      fun l => toIntRange k.mode (-2 ^ 31) (2 ^ 31 - 1) (Fmt.f64.read k.flush (src true l))⟩,
    ⟨.ftoh2 d a b w, infoF3 false d a b, false, false, pair .f16⟩,
    ⟨.ftob2 d a b w, infoF3 false d a b, false, false, pair .bf16⟩,
    ⟨.htofl d a w, infoF2 d a, false, false, part .f16 0⟩, ⟨.htofh d a w, infoF2 d a, false, false, part .f16 1⟩,
    ⟨.btofl d a w, infoF2 d a, false, false, part .bf16 0⟩, ⟨.btofh d a w, infoF2 d a, false, false, part .bf16 1⟩ ]

/-- The cross-lane floating forms (R130, R151): the pairwise tree over the rake's active lanes, lower lane left; they read
CSW's mode and flushing. -/
def Sys2Proof.Machine.treeForms (x : Ctx) (d a : BitVec 7) (w : BitVec 1) : List FloatForm :=
  let k : RoundCtl := { mode := (x.c.csw.extractLsb' 0 2).toNat, flush := x.c.csw.getLsbD 5, sat := 0 }
  let sum := fun (p q : Nat) => finish .f32 k (addNum (k.mode == 3) (Fmt.f32.read k.flush p) (Fmt.f32.read k.flush q))
  let tree := fun (f : Nat → Nat → FRes) (keep : Nat → Bool) (l : Nat) =>
    (sumTree f (fun m => if x.act.getLsbD m && keep m then some ((src1 x a m).toNat, 0) else none) (rakeLog x.c x.st)
      (l - l % rakeSize x)).getD (0, 0)
  [ ⟨.rdfadd d a w, info2 d a, false, false, tree sum (fun _ => true)⟩,
    ⟨.rdfmax d a w, info2 d a, false, false, tree (pickBits .f32 k.flush true) (fun _ => true)⟩,
    ⟨.scfadd d a w, info2 d a, false, false, fun l => tree sum (fun m => decide (m ≤ l)) l⟩ ]

/-- The conditions under which the rational reading is off (R155). -/
def Sys2Proof.Machine.allFloatForms (x : Ctx) (d a b : BitVec 7) (c : BitVec 3) (w : BitVec 1) (imm : BitVec 10) :
    List FloatForm :=
  (if x.c.rat then [] else floatForms x d a b c w imm) ++ convertForms x d a b c w ++ treeForms x d a w

/-- R124, R128, R157 to R170, R130, R151: where no active lane raises an enabled exception, a floating-point instruction
completes with its result in every active lane, ORs the flags of all of them into CSW, and changes nothing else. Majors
0x18 to 0x24 do so with CSW.RAT = 0. -/
def Obligations.FloatingPointResults : Prop :=
  ∀ (s : State) (x : Ctx) (d a b : BitVec 7) (c : BitVec 3) (w : BitVec 1) (imm : BitVec 10),
    ∀ e ∈ allFloatForms x d a b c w imm, ∀ u, encode e.instr = some u → Issues u e.info s x →
      (∀ l ∈ lanesOf x.act, (e.value l).2 &&& enabled x = 0) →
      ∃ t, exec e.instr s = .next t
        ∧ Delivered e.info e.late x d e.wide (w == 1) (fun l => BitVec.ofNat 64 (e.value l).1)
            (withFlags x.c.csw (allFlags x (fun l => (e.value l).2))) s t

/-- R129: where an active lane raises an exception that CSW.FPE enables, the instruction takes FPX and has no effect in any
lane. TRAPV holds the lanes that did, the flags of all active lanes, and the flags of the lowest of those lanes. -/
def Obligations.EnabledExceptionsTrap : Prop :=
  ∀ (s : State) (x : Ctx) (d a b : BitVec 7) (c : BitVec 3) (w : BitVec 1) (imm : BitVec 10) (first : Nat),
    ∀ e ∈ allFloatForms x d a b c w imm, ∀ u, encode e.instr = some u → Issues u e.info s x →
      first ∈ lanesOf x.act → (e.value first).2 &&& enabled x ≠ 0 →
      (∀ l ∈ lanesOf x.act, l < first → (e.value l).2 &&& enabled x = 0) →
      exec e.instr s = .next (trapAt x false .fpx
        (maskWhere (fun l => x.act.getLsbD l && (e.value l).2 &&& enabled x != 0) ++ 0#19
          ++ (lanesOf x.act).foldl (fun f l => f ||| (e.value l).2) 0 ++ 0#3 ++ (e.value first).2) (switchIn x s))

/-- What R167 and R168 tabulate of a special function: its value with its flags where they give one. -/
def Sys2Proof.Machine.specialValue (fn : Nat) (n : Num) : Option FRes :=
  let nan : FRes := (0x7FC00000, flagNV)
  let zero := fun (neg : Bool) => ((if neg then 0x80000000 else 0, 0) : FRes)
  let inf := fun (neg : Bool) (fl : Flags) => ((if neg then 0xFF800000 else 0x7F800000, fl) : FRes)
  let one := fun (neg : Bool) => ((if neg then 0xBF800000 else 0x3F800000, 0) : FRes)
  match n with
  | .nan q => some (0x7FC00000, if q then flagNV else 0)
  | .inf neg =>
    match fn with
    | 0 => some (zero neg)
    | 1 => some (if neg then nan else zero false)
    | 2 => some (if neg then nan else inf false 0)
    | 3 => some (if neg then zero false else inf false 0)
    | 4 => some (if neg then nan else inf false 0)
    | 7 => some (one neg)
    | _ => some nan
  | .fin neg m e =>
    match fn with
    | 0 => if m = 0 then some (inf neg flagDZ) else none
    | 1 => if m = 0 then some (inf neg flagDZ) else if neg then some nan else none
    | 2 => if m = 0 then some (zero neg) else if neg then some nan else none
    | 4 => if m = 0 then some (inf true flagDZ) else if neg then some nan else none
    | 5 => (quarterTurns neg m e).map (fun k => match (k % 4).toNat with
        | 1 => one false
        | 3 => one true
        | _ => zero (neg && m == 0))
    | 6 => (quarterTurns neg m e).map (fun k => match (k % 4).toNat with
        | 0 => one false
        | 2 => one true
        | _ => zero false)
    | 7 => if m = 0 then some (zero neg) else none
    | _ => none

/-- The exact value of RCP, RSQ and SQRT of a number whose magnitude is m × 2^e, m > 0 (R167). -/
def Sys2Proof.Machine.exactValue (fn m : Nat) (e : Int) : Option Exact :=
  let n := if 0 ≤ e then m * 2 ^ e.toNat else m
  let k := if 0 ≤ e then 1 else 2 ^ (-e).toNat
  match fn with
  | 0 => some (.ratio k n)
  | 1 => some (.root k n)
  | 2 => some (.root n k)
  | _ => none

/-- Is the exact value of a special function a binary32 value, for a finite argument that R167 and R168 do not tabulate? For
RCP, RSQ and SQRT where rounding down and up give one value, for EX2 of an integer within range, for LG2 of a power of
two; for SINT, COST and TANH never. -/
def Sys2Proof.Machine.exactArgument (fn : Nat) (neg : Bool) (m : Nat) (e : Int) : Bool :=
  match fn with
  | 3 =>
    let k : Int := if 0 ≤ e then m * 2 ^ e.toNat else m / 2 ^ (-e).toNat
    (decide (0 ≤ e) || m % 2 ^ (-e).toNat == 0) && (if neg then decide (k ≤ 149) else decide (k < 128))
  | 4 => m == 2 ^ m.log2
  | _ => match exactValue fn m e with
    | some y => (roundReal .f32 { mode := 1, flush := false, sat := 0 } false y).1
        == (roundReal .f32 { mode := 2, flush := false, sat := 0 } false y).1
    | none => false

/-- The flags of a special function of a finite argument that is not tabulated, by its result (R167): none where it is exact,
overflow and inexact beyond the range, and else inexact, with underflow for a subnormal. A zero counts as one (the model's
choice, assumption log 44). -/
def Sys2Proof.Machine.specialFlags (exact : Bool) (bits : Nat) : Flags :=
  if exact then 0
  else if bits % 2 ^ 31 = 0x7F800000 then flagOF ||| flagNX
  else flagNX ||| (if bits % 2 ^ 31 < 2 ^ 23 then flagUF else 0)

/-- R167, R168: outside rational mode a special function completes where no active lane raises an enabled exception. Its
result is a function of the operand alone; special operands give the tabled values and flags, and RCP, RSQ and SQRT one
of the two values that bracket the exact one. The flags of every other operand follow from the result and from whether the
exact value is a binary32 value; flushing puts a zero of its sign, with underflow and inexact, for a subnormal result
(R115). What the other functions' values lie within is stated by `SpecialFunctionBounds`. -/
def Obligations.SpecialFunctionResults : Prop :=
  ∃ g : Nat → Bool → Nat → FRes,
    (∀ fn flush v, fn < 8 → ∀ r, specialValue fn (Fmt.f32.read flush v) = some r → g fn flush v = r) ∧
    (∀ fn v neg m e y, Fmt.f32.read false v = .fin neg m e → 0 < m → (neg = false ∨ fn = 0) → exactValue fn m e = some y →
      ∃ mode, (mode = 1 ∨ mode = 2) ∧ (g fn false v).1
        = (if neg then 2 ^ 31 else 0) + (roundReal .f32 { mode := mode, flush := false, sat := 0 } false y).1) ∧
    (∀ fn v neg m e, fn < 8 → v < 2 ^ 32 → Fmt.f32.read false v = .fin neg m e → specialValue fn (.fin neg m e) = none →
      (g fn false v).2 = specialFlags (exactArgument fn neg m e) (g fn false v).1 ∧
      (Fmt.f32.read true v = .fin neg m e → g fn true v =
        (let r := g fn false v
         let mag := r.1 % 2 ^ 31
         if 0 < mag ∧ mag < 2 ^ 23 then (r.1 - mag, flagUF ||| flagNX) else r))) ∧
    ∀ (s : State) (x : Ctx) (d a : BitVec 7) (w : BitVec 1),
      ∀ e ∈ ([ (.rcp d a w, 0), (.rsq d a w, 1), (.sqrt d a w, 2), (.ex2 d a w, 3), (.lg2 d a w, 4), (.sint d a w, 5),
               (.cost d a w, 6), (.tanh d a w, 7) ] : List (Instr × Nat)),
        ∀ u, encode e.1 = some u → Issues u (infoF2 d a) s x → x.c.rat = false →
          let r := fun l => g e.2 (flushOn x) (fsrcA x false a l)
          (∀ l ∈ lanesOf x.act, (r l).2 &&& enabled x = 0) →
          ∃ t, exec e.1 s = .next t ∧ Wrote (infoF2 d a) x d false (w == 1) (fun l => BitVec.ofNat 64 (r l).1)
            (withFlags x.c.csw (allFlags x (fun l => (r l).2))) s t

/-- The real number that a finite binary32 code stands for (R113). -/
noncomputable def Sys2Proof.Machine.realOf (v : Nat) : ℝ :=
  let e : ℕ := v / 2 ^ 23 % 256
  let f : ℕ := v % 2 ^ 23
  (if v / 2 ^ 31 % 2 = 1 then -1 else 1) *
    (if e = 0 then (f : ℝ) * (2 : ℝ) ^ (-149 : ℤ) else ((2 ^ 23 + f : ℕ) : ℝ) * (2 : ℝ) ^ ((e : ℤ) - 150))

/-- Is a binary32 code finite? -/
def Sys2Proof.Machine.finite32 (v : Nat) : Prop := v < 2 ^ 32 ∧ v / 2 ^ 23 % 256 < 255

/-- The functions of major 0x25 (R167), SINT and COST of turns (R168). -/
noncomputable def Sys2Proof.Machine.realFunction (fn : Nat) (x : ℝ) : ℝ :=
  match fn with
  | 0 => 1 / x
  | 1 => 1 / Real.sqrt x
  | 2 => Real.sqrt x
  | 3 => (2 : ℝ) ^ x
  | 4 => Real.logb 2 x
  | 5 => Real.sin (2 * Real.pi * x)
  | 6 => Real.cos (2 * Real.pi * x)
  | _ => Real.tanh x

/-- An ulp of binary32 at an exact result (R167). -/
noncomputable def Sys2Proof.Machine.ulp32 (y : ℝ) : ℝ := (2 : ℝ) ^ (max (Int.log 2 |y|) (-126) - 23)

/-- The accuracy that R167 gives function `fn` at x: the result r for the exact value y lies within 2 ulp (EX2, TANH, and LG2
outside [0.5, 2]), within 2^-22 (LG2 inside), or is faithful: no binary32 value lies between the two, and r is y where a
binary32 value is. -/
def Sys2Proof.Machine.Accurate (fn : Nat) (x y r : ℝ) : Prop :=
  let near := 1 / 2 ≤ x ∧ x ≤ 2
  (fn = 3 ∨ fn = 7 ∨ (fn = 4 ∧ ¬ near) → |r - y| ≤ 2 * ulp32 y) ∧
  (fn = 4 ∧ near → |r - y| ≤ (2 : ℝ) ^ (-22 : ℤ)) ∧
  (fn ≠ 3 → fn ≠ 4 → fn ≠ 7 →
    ∀ v, finite32 v → ¬ (r < realOf v ∧ realOf v < y) ∧ ¬ (y < realOf v ∧ realOf v < r) ∧ (realOf v = y → r = y))

/-- R167, R168: outside rational mode and without flushing a special function of a finite operand that is not tabulated gives
an infinity of the sign of its exact value where that lies beyond the greatest binary32 value, and else a finite value
within the accuracy that R167 gives. -/
def Obligations.SpecialFunctionBounds : Prop :=
  ∀ (s : State) (x : Ctx) (d a : BitVec 7) (w : BitVec 1),
    ∀ e ∈ ([ (.rcp d a w, 0), (.rsq d a w, 1), (.sqrt d a w, 2), (.ex2 d a w, 3), (.lg2 d a w, 4), (.sint d a w, 5),
             (.cost d a w, 6), (.tanh d a w, 7) ] : List (Instr × Nat)),
      ∀ u, encode e.1 = some u → Issues u (infoF2 d a) s x → x.c.rat = false → flushOn x = false → enabled x = 0 →
        ∃ (t : State) (r : Nat → Nat) (csw : BitVec 32), exec e.1 s = .next t ∧
          Wrote (infoF2 d a) x d false (w == 1) (fun l => BitVec.ofNat 64 (r l)) csw s t ∧
          ∀ l ∈ lanesOf x.act, ∀ neg m k, Fmt.f32.read false (fsrcA x false a l) = .fin neg m k →
            specialValue e.2 (.fin neg m k) = none →
            let arg := realOf (fsrcA x false a l)
            let y := realFunction e.2 arg
            (realOf 0x7F7FFFFF < |y| → (y < 0 → r l = 0xFF800000) ∧ (0 ≤ y → r l = 0x7F800000)) ∧
            (|y| ≤ realOf 0x7F7FFFFF → finite32 (r l) ∧ Accurate e.2 arg y (realOf (r l)))

/-- The conditions of R161 on the order of two numbers; none where one is a NaN. -/
def Sys2Proof.Machine.floatHolds (f : BitVec 3) (c : Option Int) : Bool :=
  match c with
  | none => f == 1 || f == 7
  | some v => match f.toNat with
    | 0 => v == 0
    | 1 => v != 0
    | 2 => decide (v < 0)
    | 3 => decide (v ≤ 0)
    | 4 => decide (0 < v)
    | 5 => decide (0 ≤ v)
    | 6 => true
    | _ => false

/-- R161, R157, R162: with CSW.RAT = 0, FCMP and DCMP complete with their condition in the predicate, unless an enabled
invalid is raised; FCPSGN, FABS and FNEG move bits and raise nothing; and nothing else changes. -/
def Obligations.FloatComparesAndMoves : Prop :=
  ∀ (s : State) (x : Ctx) (d a b : BitVec 7) (f : BitVec 3) (w : BitVec 1), x.c.rat = false →
    (∀ e ∈ ([ (.fcmp d a b f, 0x1B, false), (.dcmp d a b f, 0x24, true) ] : List (Instr × BitVec 7 × Bool)),
      Issues (packReg e.2.1 d a b 0 f) { uses := [(1, d, .pred), (2, a, .src e.2.2 true), (3, b, .src e.2.2 true)] } s x →
      let n := fun l => (fmtOf e.2.2).read (flushOn x) (fsrcA x e.2.2 a l)
      let m := fun l => (fmtOf e.2.2).read (flushOn x) (fsrcB x e.2.2 a b l)
      let quiet := fun l => (n l).isNan || (m l).isNan
      let fl := fun l => if (n l).isSignalling || (m l).isSignalling || (quiet l && decide (2 ≤ f.toNat ∧ f.toNat ≤ 5))
        then flagNV else 0
      (∀ l ∈ lanesOf x.act, fl l &&& enabled x = 0) →
      ∃ t, exec e.1 s = .next t ∧ WrotePred { uses := [(1, d, .pred), (2, a, .src e.2.2 true), (3, b, .src e.2.2 true)] } x d.toNat
        (fun l => floatHolds f (if quiet l then none else some (cmpNum (n l) (m l))))
        (withFlags x.c.csw (allFlags x fl)) s t) ∧
    (∀ e ∈ ([ (.fcpsgn d a b w, infoF3 false d a b,
                fun l => fsrcA x false a l % 2 ^ 31 + fsrcB x false a b l / 2 ^ 31 * 2 ^ 31),
              (.fabs d a w, infoF2 d a, fun l => fsrcA x false a l % 2 ^ 31),
              (.fneg d a w, infoF2 d a, fun l => Nat.xor (fsrcA x false a l) (2 ^ 31)) ] :
                List (Instr × OpInfo × (Nat → Nat))),
      ∀ u, encode e.1 = some u → Issues u e.2.1 s x →
      ∃ t, exec e.1 s = .next t ∧ Wrote e.2.1 x d false (w == 1) (fun l => BitVec.ofNat 64 (e.2.2 l)) x.c.csw s t)

/-- R164: FCLASS completes with a mask of one bit, the class of the operand after negation and without flushing. -/
def Obligations.FclassResult : Prop :=
  ∀ (s : State) (x : Ctx) (d a : BitVec 7) (w : BitVec 1), x.c.rat = false →
    Issues (packReg 0x1E d a 0x78 w 7) (infoF2 d a) s x →
    ∃ t, exec (.fclass d a w) s = .next t ∧ Wrote (infoF2 d a) x d false (w == 1) (fun l =>
      let v := fsrcA x false a l
      let neg := decide (2 ^ 31 ≤ v)
      let e := v / 2 ^ 23 % 256
      let f := v % 2 ^ 23
      if e = 255 ∧ f ≠ 0 then (if f < 2 ^ 22 then 1 else 2)
      else if e = 255 then (if neg then 4 else 512)
      else if e = 0 ∧ f = 0 then (if neg then 32 else 64)
      else if e = 0 then (if neg then 16 else 128)
      else if neg then 8 else 256) x.c.csw s t

/-! ## Narrow elements -/

/-- R117 to R119, R122, R171, R173: an extraction completes where every index lies in the word and no spare bit of a 6-bit
word is set, with the element's exact value as binary32; a misplaced outlier mark sets CSW.OUTX. Beyond the word it takes
BOUNDS with the mask of those lanes, and for a spare bit FMT. -/
def Sys2Proof.Machine.ExtractResults : Prop :=
  ∀ (s : State) (x : Ctx) (d a b : BitVec 7) (w : BitVec 1),
    ∀ e ∈ ([ (.x8e4 d a b w, .e4), (.x8e5 d a b w, .e5), (.x6a d a b w, .e6a), (.x6b d a b w, .e6b), (.xi4o d a b w, .i4o),
             (.xi8 d a b w, .i8) ] : List (Instr × Elem)),
      ∀ u, encode e.1 = some u →
        Issues u { uses := [(1, d, .dst false false true), (2, a, .quad), (3, b, .src false true)] } s x →
      let word := fun l => (x.c.v a.toNat l).toNat + 2 ^ 32 * (x.c.v (a.toNat + 1) l).toNat
        + 2 ^ 64 * (x.c.v (a.toNat + 2) l).toNat + 2 ^ 96 * (x.c.v (a.toNat + 3) l).toNat
      let ix := fun l => (src1 x b l).toNat
      let spare := e.2.width = 6 ∧ ∃ l ∈ lanesOf x.act, 2 ^ 126 ≤ word l
      ((∀ l ∈ lanesOf x.act, ix l < e.2.count) → ¬ spare →
        ∃ t, exec e.1 s = .next t ∧ Wrote { uses := [(1, d, .dst false false true), (2, a, .quad), (3, b, .src false true)] } x d false (w == 1)
          (fun l => BitVec.ofNat 64 (roundNum .f32 plainRN (e.2.value (word l) (ix l)).1).1)
          (if ∃ l ∈ lanesOf x.act, (e.2.value (word l) (ix l)).2 = true then x.c.csw ||| 0x200000 else x.c.csw) s t) ∧
      ((∃ l ∈ lanesOf x.act, e.2.count ≤ ix l) → exec e.1 s = .next (trapAt x false .bounds
        ((maskWhere (fun l => x.act.getLsbD l && decide (e.2.count ≤ ix l))).setWidth 64) (switchIn x s))) ∧
      ((∀ l ∈ lanesOf x.act, ix l < e.2.count) → spare → exec e.1 s = .next (trapAt x false .fmt 0x100 (switchIn x s)))

/-- R126, R172, R173: a pack completes where every index lies in the word and no enabled exception is raised: the element
of the quad D that B names holds A rounded to the format, every other element is as it was, and no register outside the
quad changes. -/
def Sys2Proof.Machine.PackResults : Prop :=
  ∀ (s : State) (x : Ctx) (d a b : BitVec 7),
    ∀ e ∈ ([ (.p8e4 d a b, .e4), (.p8e5 d a b, .e5), (.p6a d a b, .e6a), (.p6b d a b, .e6b), (.pi4o d a b, .i4o),
             (.pi8 d a b, .i8) ] : List (Instr × Elem)),
      ∀ u, encode e.1 = some u → Issues u { uses := [(1, d, .quad), (2, a, .src false true), (3, b, .src false true)] } s x →
      let mode := match x.hints.round with | some m => m.toNat | none => 0
      let r := fun l => e.2.round mode (Fmt.f32.read (flushOn x) (src1 x a l).toNat)
      let ix := fun l => (src2 x a b l).toNat
      (∀ l ∈ lanesOf x.act, ix l < e.2.count ∧ (r l).2 &&& enabled x = 0) →
      let o : OpInfo := { uses := [(1, d, .quad), (2, a, .src false true), (3, b, .src false true)] }
      ∃ t c, exec e.1 s = .next t ∧ (switchIn x s).Keeps x.key t ∧ t.consist? x.key = some c ∧ x.c.Keeps c ∧
        c.csw = withFlags x.c.csw (allFlags x (fun l => (r l).2)) ∧ c.aregs = x.c.aregs ∧ c.sregs = x.c.sregs ∧
        c.inflight = x.c.inflight ∧ QueuesPop o x x.c c ∧ StreamSt.Passed o x.run (x.c.strm x.st) (c.strm x.st) ∧
        (∀ m l, l < 32 → (m < d.toNat ∨ d.toNat + 4 ≤ m ∨ x.act.getLsbD l = false) → c.v m l = x.c.v m l) ∧
        (∀ l, l < 32 → x.act.getLsbD l = true → ∀ j, j < e.2.count →
          e.2.code (quadOf128 c d l) j = if j = ix l then (r l).1 else e.2.code (quadOf128 x.c d l) j)

/-- (1) R117 to R119, R122, R171, R173: an extraction completes where every index lies in the word and no spare bit of
a 6-bit word is set, with the element's exact value as binary32; a misplaced outlier mark sets CSW.OUTX. Beyond the
word it takes BOUNDS with the mask of those lanes, and for a spare bit FMT. (2) R126, R172, R173: a pack completes
where every index lies in the word and no enabled exception is raised: the element of the quad D that B names holds A
rounded to the format, every other element is as it was, and no register outside the quad changes. -/
def Obligations.ExtractAndPackResults : Prop := ExtractResults ∧ PackResults

/-! ## Rational mode -/

/-- A form with a rational result: the instruction, its operand fields, whether the code is RQ64, its value rounded by
R209, and which lanes read a reserved code. -/
structure Sys2Proof.Machine.SlashForm where
  instr : Instr
  info : OpInfo
  wide : Bool
  value : Nat → RNum
  reserved : Nat → Bool

/-- Majors 0x18 to 0x25 with CSW.RAT = 1: exact rational operations, rounded once (R208, R209, R212, R216, R217, R219);
and the forms of major 0x2A with a rational result (R222). -/
noncomputable def Sys2Proof.Machine.slashForms (x : Ctx) (d a b : BitVec 7) (c : BitVec 3) (w : BitVec 1) (imm : BitVec 10) :
    List SlashForm :=
  let mode := slashMode x
  let ra := fun (wide : Bool) (l : Nat) => readSlash wide (fsrcA x wide a l)
  let rb := fun (wide : Bool) (l : Nat) => readSlash wide (fsrcB x wide a b l)
  let rc := fun (wide : Bool) (l : Nat) => readSlash wide (fsrcC x wide a b (addendCode d c) l)
  let at2 := fun (i : Instr) (wide : Bool) (f : RNum → RNum → RNum) =>
    (⟨i, infoF3 wide d a b, wide, fun l => finishSlash wide mode (f (ra wide l).1 (rb wide l).1),
      fun l => (ra wide l).2 || (rb wide l).2⟩ : SlashForm)
  let pick := fun (i : Instr) (greater : Bool) =>
    (⟨i, infoF3 false d a b, false, fun l => pickSlash greater (ra false l).1 (rb false l).1,
      fun l => (ra false l).2 || (rb false l).2⟩ : SlashForm)
  let at3 := fun (i : Instr) (wide : Bool) (sub : Bool) =>
    (⟨i, infoAcc wide d a b c, wide, fun l => finishSlash wide mode
        (addSlash (mulSlash (ra wide l).1 (rb wide l).1) (if sub then (rc wide l).1.flip else (rc wide l).1)),
      fun l => (ra wide l).2 || (rb wide l).2 || (rc wide l).2⟩ : SlashForm)
  let at1 := fun (i : Instr) (wide : Bool) (o : OpInfo) (f : RNum → RNum) =>
    (⟨i, o, wide, fun l => f (ra wide l).1, fun l => (ra wide l).2⟩ : SlashForm)
  let whole := fun (m : Nat) (r : RNum) => match r with | .fin v e => RNum.fin (roundInt m v e) 1 | r => r
  let pure1 := infoF2 d a
  (if x.c.rat then
    [ at2 (.fadd d a b w) false addSlash, at2 (.fsub d a b w) false (fun p q => addSlash p q.flip),
      at2 (.fmul d a b w) false mulSlash, at2 (.fdiv d a b w) false divSlash, pick (.fmin d a b w) false,
      pick (.fmax d a b w) true, at3 (.ffma d a b c w) false false, at3 (.ffms d a b c w) false true,
      at1 (.faddi d a w imm) false { uses := [(1, d, .dst false false true), (2, a, .src false true)] }
        (fun r => finishSlash false mode (addSlash r (finishSlash false mode (numSlash (faddiImm x false imm))))),
      at1 (.frndn d a w) false pure1 (whole 0), at1 (.frndz d a w) false pure1 (whole 1),
      at1 (.frndu d a w) false pure1 (whole 2), at1 (.frndd d a w) false pure1 (whole 3),
      at1 (.ffrac d a w) false pure1 (fun r => match r with | .fin v e => RNum.mk (v - Int.fdiv v e * e) e | _ => .ind),
      at2 (.dadd d a b w) true addSlash, at2 (.dsub d a b w) true (fun p q => addSlash p q.flip),
      at2 (.dmul d a b w) true mulSlash, at2 (.ddiv d a b w) true divSlash, at3 (.dfma d a b c w) true false,
      at1 (.dsqrt d a w) true { uses := [(1, d, .dst true false true), (2, a, .src true true)] } (sqrtSlash true mode),
      at1 (.rcp d a w) false pure1 rcpSlash, at1 (.rsq d a w) false pure1 (rsqSlash mode),
      at1 (.sqrt d a w) false pure1 (sqrtSlash false mode) ]
   else []) ++
  [ ⟨.rmake d a b w, infoF3 false d a b, false, fun l => finishSlash false mode
      (divSlash (.fin (((src1 x a l).setWidth 32).toInt) 1) (.fin (((src2 x a b l).setWidth 32).toInt) 1)), fun _ => false⟩,
    ⟨.rmed d a b w, infoF3 false d a b, false, fun l => finishSlash false mode
      (mediant (readSlash false (src1 x a l).toNat).1 (readSlash false (src2 x a b l).toNat).1),
      fun l => (readSlash false (src1 x a l).toNat).2 || (readSlash false (src2 x a b l).toNat).2⟩,
    ⟨.ftor d a w, infoF2 d a, false, fun l => finishSlash false mode (numSlash (Fmt.f32.read false (src1 x a l).toNat)),
      fun _ => false⟩ ]

/-- R208 to R214, R216, R217, R219, R221, R222: where RATZ is not enabled, or no active lane's result lacks a denominator,
a rational instruction completes with the canonical code of its rounded value on its way, and CSW.RATX is set if an
active lane read a reserved code. Nothing else changes. -/
def Sys2Proof.Machine.RationalResults : Prop :=
  ∀ (s : State) (x : Ctx) (d a b : BitVec 7) (c : BitVec 3) (w : BitVec 1) (imm : BitVec 10),
    ∀ e ∈ slashForms x d a b c w imm, ∀ u, encode e.instr = some u → Issues u e.info s x →
      (x.c.csw.getLsbD 10 = true → ∀ l ∈ lanesOf x.act, (e.value l).noDenominator = false) →
      ∃ t, exec e.instr s = .next t
        ∧ Sent e.info .variable x d e.wide (w == 1) (fun l => BitVec.ofNat 64 (writeSlash e.wide (e.value l)))
            (if ∃ l ∈ lanesOf x.act, e.reserved l = true then x.c.csw ||| 0x400000 else x.c.csw) s t

/-- R213: with CSW.RATZE = 1, a rational instruction takes RATZ when an active lane's result is ±∞ or indeterminate, and
has no effect in any lane. TRAPV holds those lanes, and what the lowest of them would have received. -/
def Obligations.ZeroDenominatorsTrap : Prop :=
  ∀ (s : State) (x : Ctx) (d a b : BitVec 7) (c : BitVec 3) (w : BitVec 1) (imm : BitVec 10) (first : Nat),
    ∀ e ∈ slashForms x d a b c w imm, ∀ u, encode e.instr = some u → Issues u e.info s x →
      x.c.csw.getLsbD 10 = true → first ∈ lanesOf x.act → (e.value first).noDenominator = true →
      (∀ l ∈ lanesOf x.act, l < first → (e.value l).noDenominator = false) →
      exec e.instr s = .next (trapAt x false .ratz
        (0#30 ++ BitVec.ofBool (e.value first == .inf true) ++ BitVec.ofBool (e.value first == .ind)
          ++ maskWhere (fun l => x.act.getLsbD l && (e.value l).noDenominator)) (switchIn x s))

/-- R217, R218, R219, R222: the forms of rational mode whose result is no rational code complete: RNUM, RDEN, RGCD, RFLR
and RTOF, comparisons, and the forms that move or classify codes. RATX is set if an active lane read a reserved code. -/
def Sys2Proof.Machine.RationalReads : Prop :=
  ∀ (s : State) (x : Ctx) (d a b : BitVec 7) (f : BitVec 3) (w : BitVec 1),
    let ra := fun (l : Nat) => readSlash false (src1 x a l).toNat
    let ratx := fun (p : Nat → Bool) => if ∃ l ∈ lanesOf x.act, p l = true then x.c.csw ||| 0x400000 else x.c.csw
    let int := fun (v : DWord) => (v.setWidth 32).toInt
    (∀ e ∈ ([ (.rnum d a w, infoF2 d a, fun l => numerOf (ra l).1, fun l => (ra l).2),
              (.rden d a w, infoF2 d a, fun l => (denomOf (ra l).1 : Int), fun l => (ra l).2),
              (.rgcd d a b w, infoF3 false d a b,
                fun l => (Nat.gcd (int (src1 x a l)).natAbs (int (src2 x a b l)).natAbs : Int), fun _ => false),
              (.rflr d a w, infoF2 d a, fun l => floorOf (ra l).1, fun l => (ra l).2) ] :
                List (Instr × OpInfo × (Nat → Int) × (Nat → Bool))),
      ∀ u, encode e.1 = some u → Issues u e.2.1 s x →
      ∃ t, exec e.1 s = .next t ∧ Sent e.2.1 .variable x d false (w == 1) (fun l => BitVec.ofInt 64 (e.2.2.1 l)) (ratx e.2.2.2) s t) ∧
    (Issues (packReg 0x2A d a 0x78 w 6) (infoF2 d a) s x →
      let r := fun l => slashToFloat (ieeeMode x) (ra l).1
      (∀ l ∈ lanesOf x.act, (r l).2 &&& enabled x = 0) →
      ∃ t, exec (.rtof d a w) s = .next t ∧ Sent (infoF2 d a) .variable x d false (w == 1) (fun l => BitVec.ofNat 64 (r l).1)
        (withFlags (ratx (fun l => (ra l).2)) (allFlags x (fun l => (r l).2))) s t) ∧
    (x.c.rat = true →
      (∀ e ∈ ([ (.fcmp d a b f, 0x1B, false), (.dcmp d a b f, 0x24, true) ] : List (Instr × BitVec 7 × Bool)),
        Issues (packReg e.2.1 d a b 0 f) { uses := [(1, d, .pred), (2, a, .src e.2.2 true), (3, b, .src e.2.2 true)] } s x →
        let p := fun l => readSlash e.2.2 (fsrcA x e.2.2 a l)
        let q := fun l => readSlash e.2.2 (fsrcB x e.2.2 a b l)
        ∃ t, exec e.1 s = .next t ∧ WrotePred { uses := [(1, d, .pred), (2, a, .src e.2.2 true), (3, b, .src e.2.2 true)] } x d.toNat
          (fun l => floatHolds f (if (p l).1 == .ind || (q l).1 == .ind then none else some (cmpSlash (p l).1 (q l).1)))
          (ratx (fun l => (p l).2 || (q l).2)) s t) ∧
      (∀ e ∈ ([ (.fcpsgn d a b w, infoF3 false d a b,
                  fun l => fsrcA x false a l % 2 ^ 31 + fsrcB x false a b l / 2 ^ 31 * 2 ^ 31, fun _ => false),
                (.fabs d a w, infoF2 d a, fun l => fsrcA x false a l % 2 ^ 31, fun _ => false),
                (.fneg d a w, infoF2 d a, fun l => Nat.xor (fsrcA x false a l) (2 ^ 31), fun _ => false),
                (.fclass d a w, infoF2 d a, fun l => 2 ^ classSlash (readSlash false (fsrcA x false a l)),
                  fun l => (readSlash false (fsrcA x false a l)).2) ] : List (Instr × OpInfo × (Nat → Nat) × (Nat → Bool))),
        ∀ u, encode e.1 = some u → Issues u e.2.1 s x →
        ∃ t, exec e.1 s = .next t ∧ Sent e.2.1 .variable x d false (w == 1) (fun l => BitVec.ofNat 64 (e.2.2.1 l))
          (ratx e.2.2.2) s t))

/-- (1) R208 to R214, R216, R217, R219, R221, R222: where RATZ is not enabled, or no active lane's result lacks a
denominator, a rational instruction completes with the canonical code of its rounded value on its way, and CSW.RATX is
set if an active lane read a reserved code. Nothing else changes. (2) R217, R218, R219, R222: the forms of rational
mode whose result is no rational code complete: RNUM, RDEN, RGCD, RFLR and RTOF, comparisons, and the forms that move
or classify codes. RATX is set if an active lane read a reserved code. -/
def Obligations.RationalArithmeticResults : Prop := RationalResults ∧ RationalReads

/-- R83, R207: RAKE and RMODE act for the consist even when no lane of the run is active: RAKE sets the rake size of its
stream, RMODE sets CSW.RAT, CSW.RRM and CSW.RATZE; every other bit of CSW, every register and every byte of memory is as
it was. -/
def Obligations.ModeInstructions : Prop :=
  ∀ (s : State) (x : Ctx) (r e : BitVec 1) (m n : BitVec 3),
    (Issues (packImm 0x16 0x78 0x78 0 (0#7 ++ n)) {} s x →
      ∃ t c, exec (.rake n) s = .next t ∧ (switchIn x s).Keeps x.key t ∧ t.consist? x.key = some c ∧ x.c.Keeps c ∧
        rakeLog c x.st = n.toNat ∧ rakeLog c x.st.other = rakeLog x.c x.st.other ∧
        (∀ b, b < 26 → c.csw.getLsbD b = x.c.csw.getLsbD b) ∧
        c.vregs = x.c.vregs ∧ c.aregs = x.c.aregs ∧ c.sregs = x.c.sregs ∧
        StreamSt.Passed {} x.run (x.c.strm x.st) (c.strm x.st)) ∧
    (Issues (packImm 0x2B 0x78 0x78 0 (0#5 ++ r ++ m ++ e)) {} s x →
      ∃ t c, exec (.rmode r m e) s = .next t ∧ (switchIn x s).Keeps x.key t ∧ t.consist? x.key = some c ∧ x.c.Keeps c ∧
        c.rat = (e == 1) ∧ c.csw.extractLsb' 7 3 = m ∧ c.csw.getLsbD 10 = (r == 1) ∧
        (∀ b, b < 6 ∨ 11 ≤ b → c.csw.getLsbD b = x.c.csw.getLsbD b) ∧
        c.vregs = x.c.vregs ∧ c.aregs = x.c.aregs ∧ c.sregs = x.c.sregs ∧
        StreamSt.Passed {} x.run (x.c.strm x.st) (c.strm x.st))

/-! ## Control -/

/-- The machine addresses of the pieces of an access. -/
def Sys2Proof.Machine.touched (ps : List Piece) (a : Nat) : Prop :=
  ∃ p ∈ ps, ∃ b, p.spot = .mem b ∧ b ≤ a ∧ a < b + p.len

/-- Where BRA and CALL go (R99). -/
def Sys2Proof.Machine.branchTarget (x : Ctx) (d : BitVec 21) : BitVec 32 := x.pc + 4 + (d.signExtend 32 <<< 2)

/-- The lanes that BRA and CALL move: active, and their predicate is 1 − S (R99). -/
def Sys2Proof.Machine.branchLanes (x : Ctx) (p : BitVec 3) (sense : BitVec 1) : List Nat :=
  (lanesOf x.act).filter (fun l => (x.c.strm x.st).pred p.toNat l == (sense == 0))

/-- R99, R101: BRA and BRX complete where every target lies in the code and is aligned: the lanes that branch stand at
their targets, the others of the run four bytes on, the run's guard window is closed, and nothing else changes. -/
def Sys2Proof.Machine.BranchesJump : Prop :=
  ∀ (s : State) (x : Ctx) (p : BitVec 3) (sense : BitVec 1) (disp : BitVec 21) (a : BitVec 7),
    (Issues (packBrn 0x30 p sense disp) { transfer := true } s x →
      (branchLanes x p sense ≠ [] →
        (branchTarget x disp).toNat < x.c.csize ∧ (branchTarget x disp).toNat % 4 = 0) →
      ∃ t, exec (.bra p sense disp) s = .next t ∧ Jumped { transfer := true } x
        (fun l => if l ∈ branchLanes x p sense then branchTarget x disp else x.pc + 4) s t) ∧
    (Issues (packReg 0x31 0x78 a 0x78 0 0) { uses := [(2, a, .src false true)], transfer := true } s x →
      (∀ l ∈ lanesOf x.act, (src1 x a l).toNat < x.c.csize ∧ (src1 x a l).toNat % 4 = 0) →
      ∃ t, exec (.brx a) s = .next t ∧ Jumped { uses := [(2, a, .src false true)], transfer := true } x
        (fun l => if x.act.getLsbD l then (src1 x a l).setWidth 32 else x.pc + 4) s t)

/-- No copy of a line is corrupt, and no injection is armed (R393). -/
def Sys2Proof.Machine.State.sound (s : State) : Prop := s.corrupt = [] ∧ ∀ d, (s.die d).injCtl.getLsbD 0 = false

/-- The state after lanes have pushed their return address and gone to their targets (R98, R99): eight entries stay in the
core, the oldest goes to private memory; the run's other lanes stand four bytes on. `s` is the state in which the words
spilled to are translated. -/
def Sys2Proof.Machine.Pushed (o : OpInfo) (x : Ctx) (ls : List Nat) (target : Nat → BitVec 32) (ps : List Piece) (s t : State) :
    Prop :=
  ∃ c, t.consist? x.key = some c ∧
    (∀ l ∈ ls, tget (c.strm x.st).rets l = ((x.pc + 4) :: tget (x.c.strm x.st).rets l).take 8 ∧
      tget (c.strm x.st).spilled l = tget (x.c.strm x.st).spilled l
        + (if (tget (x.c.strm x.st).rets l).length < 8 then 0 else 1)) ∧
    (∀ l, l ∉ ls → tget (c.strm x.st).rets l = tget (x.c.strm x.st).rets l ∧
      tget (c.strm x.st).spilled l = tget (x.c.strm x.st).spilled l) ∧
    (∀ l, l < 32 → tget (c.strm x.st).pc l = if x.run.getLsbD l then (if l ∈ ls then target l else x.pc + 4)
      else tget (x.c.strm x.st).pc l) ∧
    x.c.Keeps c ∧ c.vregs = x.c.vregs ∧ c.aregs = x.c.aregs ∧ c.sregs = x.c.sregs ∧ c.csw = x.c.csw ∧
    c.inflight = x.c.inflight ∧ c.strm x.st.other = x.c.strm x.st.other ∧ QueuesPop o x x.c c ∧
    StreamSt.Hinted o x.run (x.c.strm x.st) (c.strm x.st) ∧
    (∀ k, k ≠ x.key → t.consist? k = (switchIn x s).consist? k) ∧
    (∀ a, a < 2 ^ 40 → ¬ touched ps a → t.byte a = s.byte a)

/-- The words of private memory that pushes of lanes spill to (R98). -/
def Sys2Proof.Machine.spillsOf (x : Ctx) (ls : List Nat) : List (Nat × Nat) :=
  ls.filterMap (fun l => if (tget (x.c.strm x.st).rets l).length < 8 then none else
    some (l, x.c.privWords - (2 * tget (x.c.strm x.st).spilled l + (match x.st with | .a => 1 | .c => 2))))

/-- Is there a place for what a lane's push spills: a word of the block, not below STKLIM (R98)? -/
def Sys2Proof.Machine.pushFits (x : Ctx) (l : Nat) : Prop :=
  (tget (x.c.strm x.st).rets l).length < 8 ∨
    x.c.stklim.toNat + (2 * tget (x.c.strm x.st).spilled l + (match x.st with | .a => 1 | .c => 2)) ≤ x.c.privWords

/-- R98, R99, R101: CALL and CALLX complete where every target is in the code and aligned, every push fits, and the words
spilled to are translated: the lanes that call have PC + 4 on their return stacks and stand at their targets. Bytes of
memory outside the words spilled to, and all registers, are as they were. -/
def Sys2Proof.Machine.CallsPush : Prop :=
  ∀ (s u : State) (x : Ctx) (p : BitVec 3) (sense : BitVec 1) (disp : BitVec 21) (a : BitVec 7) (ps : List Piece),
    let atX : OpInfo := { uses := [(2, a, .src false true)], transfer := true }
    (Issues (packBrn 0x32 p sense disp) { transfer := true } s x →
      let ls := branchLanes x p sense
      (ls ≠ [] → (branchTarget x disp).toNat < x.c.csize ∧ (branchTarget x disp).toNat % 4 = 0) →
      (∀ l ∈ ls, pushFits x l) → privWordsAt x .write (spillsOf x ls) s = .val ps u → u.consist? x.key = some x.c →
      (spillsOf x ls = [] ∨ u.sound) →
      ∃ t, exec (.call p sense disp) s = .next t ∧ Pushed { transfer := true } x ls (fun _ => branchTarget x disp) ps u t) ∧
    (Issues (packReg 0x33 0x78 a 0x78 0 0) atX s x →
      let ls := lanesOf x.act
      (∀ l ∈ ls, (src1 x a l).toNat < x.c.csize ∧ (src1 x a l).toNat % 4 = 0) →
      (∀ l ∈ ls, pushFits x l) → privWordsAt x .write (spillsOf x ls) (learnPops atX x s) = .val ps u →
      u.consist? x.key = some x.c → (spillsOf x ls = [] ∨ u.sound) →
      ∃ t, exec (.callx a) s = .next t ∧ Pushed atX x ls (fun l => (src1 x a l).setWidth 32) ps u t)

/-- R98, R101: RET completes where every active lane has an entry whose address lies in the code and is aligned: the newest
entry is popped, of the core or, where the core holds none, reloaded from the private memory it was spilled to, and the
lane stands there. Nothing else changes. -/
def Sys2Proof.Machine.ReturnsPop : Prop :=
  ∀ (s u : State) (x : Ctx) (top : Nat → BitVec 32) (ps : List Piece), Issues (packReg 0x34 0x78 0x78 0x78 0 0) { transfer := true } s x →
    let ls := lanesOf x.act
    let sx := x.c.strm x.st
    (∀ l ∈ ls, (top l).toNat < x.c.csize ∧ (top l).toNat % 4 = 0) →
    ((∀ l ∈ ls, ∃ rest, tget sx.rets l = top l :: rest) →
      ∃ t, exec .ret s = .next t ∧ Jumped { transfer := true } x (fun l => if x.act.getLsbD l then top l else x.pc + 4)
        (s.modStrm x (fun y => { y with rets := setLanes y.rets ls (fun l => (tget y.rets l).drop 1) })) t) ∧
    (let depth := fun (l : Nat) => 2 * (tget sx.spilled l - 1) + (match x.st with | .a => 1 | .c => 2)
     let read := correctPieces (ps.foldl (fun v p => p.usePriv x v false) u) ps (some (coreOf x.key))
     (∀ l ∈ ls, tget sx.rets l = [] ∧ tget sx.spilled l ≠ 0 ∧ depth l ≤ x.c.privWords) →
     privWordsAt x .read (ls.map (fun l => (l, x.c.privWords - depth l))) s = .val ps u →
     u.consist? x.key = some x.c → badLine u ps = .good → u.sound →
     (∀ l ∈ ls, ∃ p, ps.find? (fun q => q.lane == l) = some p ∧ p.read read 0 = (top l).toNat) →
     ∃ t, exec .ret s = .next t ∧ Jumped { transfer := true } x (fun l => if x.act.getLsbD l then top l else x.pc + 4)
       (read.modStrm x (fun y =>
         { y with rets := setLanes y.rets ls (fun l => (tget y.rets l).drop 1),
                  spilled := setLanes y.spilled ls (fun l => tget y.spilled l - 1) })) t)

/-- (1) R99, R101: BRA and BRX complete where every target lies in the code and is aligned: the lanes that branch
stand at their targets, the others of the run four bytes on, the run's guard window is closed, and nothing else
changes. (2) R98, R99, R101: CALL and CALLX complete where every target is in the code and aligned, every push fits,
and the words spilled to are translated: the lanes that call have PC + 4 on their return stacks and stand at their
targets. Bytes of memory outside the words spilled to, and all registers, are as they were. (3) R98, R101: RET
completes where every active lane has an entry whose address lies in the code and is aligned: the newest entry is
popped, of the core or, where the core holds none, reloaded from the private memory it was spilled to, and the lane
stands there. Nothing else changes. -/
def Obligations.TransfersOfControl : Prop := BranchesJump ∧ CallsPush ∧ ReturnsPop

/-- R98, R99, R101: before any lane moves, pushes or pops, a target at or beyond the code size takes BOUNDS with that
target, a misaligned one ALIGN, and a return stack that cannot push or pop takes RSTACK. -/
def Obligations.BadTransfersTrap : Prop :=
  ∀ (s : State) (x : Ctx) (p : BitVec 3) (sense : BitVec 1) (disp : BitVec 21) (a : BitVec 7),
    (∀ e ∈ ([ (.bra p sense disp, packBrn 0x30 p sense disp), (.call p sense disp, packBrn 0x32 p sense disp) ] : List (Instr × Word)),
      Issues e.2 { transfer := true } s x → branchLanes x p sense ≠ [] → x.c.csize ≤ (branchTarget x disp).toNat →
      exec e.1 s = .next (trapAt x false .bounds (BitVec.ofNat 64 (branchTarget x disp).toNat) (switchIn x s))) ∧
    (∀ e ∈ ([ (.brx a, 0x31), (.callx a, 0x33) ] : List (Instr × BitVec 7)),
      Issues (packReg e.2 0x78 a 0x78 0 0) { uses := [(2, a, .src false true)], transfer := true } s x →
      (∀ first ∈ lanesOf x.act, x.c.csize ≤ (src1 x a first).toNat →
        (∀ l ∈ lanesOf x.act, l < first → (src1 x a l).toNat < x.c.csize) →
        exec e.1 s = .next (trapAt x false .bounds (src1 x a first) (switchIn x s))) ∧
      (∀ first ∈ lanesOf x.act, (∀ l ∈ lanesOf x.act, (src1 x a l).toNat < x.c.csize) → (src1 x a first).toNat % 4 ≠ 0 →
        (∀ l ∈ lanesOf x.act, l < first → (src1 x a l).toNat % 4 = 0) →
        exec e.1 s = .next (trapAt x false .align (src1 x a first) (switchIn x s)))) ∧
    (Issues (packBrn 0x32 p sense disp) { transfer := true } s x → (branchTarget x disp).toNat < x.c.csize →
      (branchTarget x disp).toNat % 4 = 0 → (∃ l ∈ branchLanes x p sense, ¬ pushFits x l) →
      exec (.call p sense disp) s = .next (trapAt x false .rstack 0 (switchIn x s))) ∧
    (Issues (packReg 0x34 0x78 0x78 0x78 0 0) { transfer := true } s x → x.act ≠ 0 →
      (∀ l ∈ lanesOf x.act, tget (x.c.strm x.st).rets l = [] ∧ tget (x.c.strm x.st).spilled l = 0) →
      ∃ t, exec .ret s = .next t ∧ t = trapAt x false .rstack 1 (switchIn x s))

/-- R93, R102: EXIT ends the active lanes in its stream and the consist drains once all its lanes have left both; YIELD
defers its run until another has issued; NOP has no effect. No register and no byte of memory changes. -/
def Sys2Proof.Machine.ExitYieldNop : Prop :=
  ∀ (s : State) (x : Ctx),
    (Issues (packReg 0x35 0x78 0x78 0x78 0 0) { transfer := true } s x →
      ∃ t c, exec .exit s = .next t ∧ (switchIn x s).Keeps x.key t ∧ t.consist? x.key = some c ∧
        (c.strm x.st).exited = (x.c.strm x.st).exited ||| x.act ∧ c.strm x.st.other = x.c.strm x.st.other ∧
        (∀ l, l < 32 → tget (c.strm x.st).pc l = if x.run.getLsbD l then x.pc + 4 else tget (x.c.strm x.st).pc l) ∧
        (∀ q l, l < 32 → c.queueOf q l = if ((c.a.exited &&& c.c.exited) ||| x.c.fmask).getLsbD l then [] else x.c.queueOf q l) ∧
        StreamSt.Hinted { transfer := true } x.run (x.c.strm x.st) (c.strm x.st) ∧
        c.vregs = x.c.vregs ∧ c.aregs = x.c.aregs ∧ c.sregs = x.c.sregs ∧ c.csw = x.c.csw ∧
        c.status = (if x.c.status = .running ∧ x.c.lmask &&& ~~~x.c.fmask &&& ~~~(c.a.exited &&& c.c.exited) = 0
          then .draining else x.c.status)) ∧
    (Issues (packReg 0x36 0x78 0x78 0x78 0 0) {} s x →
      ∃ t c, exec .yield s = .next t ∧ Completed {} x s t ∧ t.consist? x.key = some c ∧
        (let old := (x.c.strm x.st).deferred
         let live := x.c.alive x.st
         let late := if live &&& old &&& ~~~x.run = 0 then old ||| x.run else 0
         x.hints.sched = none → (c.strm x.st).deferred =
           if live &&& ~~~late = 0 ∨ (∃ l ∈ lanesOf (live &&& ~~~late), ∃ j ∈ lanesOf (live &&& late),
             tget (c.strm x.st).pc l = tget (c.strm x.st).pc j) then 0 else late)) ∧
    (Issues (packReg 0x37 0 0 0 0 0) {} s x →
      ∃ t, exec .nop s = .next t ∧ Completed {} x s t)

/-- R104, R105, R109: TRAP, SCALL and BRK complete and then trap: with an active lane, the record holds the cause, the
value and the address that follows, and the handler starts or the consist ends. With no active lane they execute
nothing. -/
def Sys2Proof.Machine.SoftwareTraps : Prop :=
  ∀ (s : State) (x : Ctx) (a : BitVec 7),
    ∀ e ∈ ([ (.trap a, { uses := [(2, a, .src false true)], uniform := true, transfer := true }, .swtrap,
               ((src1 x a (lowest x.act)).setWidth 32).setWidth 64),
             (.scall a, { uses := [(2, a, .src false true)], uniform := true, transfer := true }, .swtrap,
               ((src1 x a (lowest x.act)).setWidth 32).setWidth 64 ||| 0x8000000000000000),
             (.brk, {}, .brk, 0) ] : List (Instr × OpInfo × Cause × DWord)),
      ∀ u, encode e.1 = some u → Issues u e.2.1 s x →
      (x.act ≠ 0 →
        ∃ t c, exec e.1 s = .next t ∧ (switchIn x s).Keeps x.key t ∧ t.consist? x.key = some c ∧
          c.trapc = x.run ++ 0#22 ++ 0#1 ++ BitVec.ofBool (x.st == .a) ++ 0#2 ++ e.2.2.1.code ∧
          c.trapv = e.2.2.2 ∧ c.trappc = x.pc + 4 ∧
          (∀ h, x.c.handler = some h → x.c.saved = none →
            c.status = x.c.status ∧ c.level = 1 ∧ c.a.latchValid = 0 ∧ c.a.absent = ~~~x.run ∧ (∀ l, l < 32 → tget c.a.pc l = h)) ∧
          (x.c.handler = none ∨ x.c.saved ≠ none →
            c.status = .terminated { trapc := c.trapc, trapv := c.trapv, trappc := c.trappc })) ∧
      (x.act = 0 →
        ∃ t c, exec e.1 s = .next t ∧ (switchIn x s).Keeps x.key t ∧ t.consist? x.key = some c ∧ x.c.Keeps c ∧ c.vregs = x.c.vregs ∧
          c.aregs = x.c.aregs ∧ c.sregs = x.c.sregs ∧ c.csw = x.c.csw ∧ QueuesPop e.2.1 x x.c c ∧
          StreamSt.Hinted e.2.1 x.run (x.c.strm x.st) (c.strm x.st) ∧
          (∀ l, l < 32 → tget (c.strm x.st).pc l = if x.run.getLsbD l then x.pc + 4 else tget (x.c.strm x.st).pc l))

/-- R109, R379: HALT at root stops both streams at once with the halt report's value: the code offset and the stream.
No trap record is written, and results in flight are written before. -/
def Sys2Proof.Machine.HaltStops : Prop :=
  ∀ (s : State) (x : Ctx), Issues (packReg 0x60 0x78 0x78 0x78 0 7) {} s x →
    ∃ t c, exec .halt s = .next t ∧ (switchIn x s).Keeps x.key t ∧ t.consist? x.key = some c ∧
      c.status = .halted (0#31 ++ BitVec.ofBool (x.st == .a) ++ x.pc) ∧ c.trapc = x.c.trapc ∧ c.trapv = x.c.trapv ∧
      c.trappc = x.c.trappc ∧ c.vregs = x.c.settle.vregs ∧ c.aregs = x.c.settle.aregs ∧ c.sregs = x.c.settle.sregs

/-- (1) R104, R105, R109: TRAP, SCALL and BRK complete and then trap: with an active lane, the record holds the cause,
the value and the address that follows, and the handler starts or the consist ends. With no active lane they execute
nothing. (2) R109, R379: HALT at root stops both streams at once with the halt report's value: the code offset and the
stream. No trap record is written, and results in flight are written before. -/
def Obligations.SoftwareTrapsAndHalt : Prop := SoftwareTraps ∧ HaltStops

/-- Width of a special register (R107, R108): TRAPC, TRAPV and HTBL have 64 bits. -/
def Sys2Proof.Machine.wideSpecial (b : BitVec 7) : Bool := b == 3 || b == 4 || b == 0x0A

/-- What a write of a special register leaves in it (R107, R108). -/
def Sys2Proof.Machine.writtenSpecial (b : BitVec 7) (v : DWord) : DWord :=
  if b = 0 then v &&& 0xFC7FFFE3 else if b = 3 then v &&& 0xFFFFFFFF0000033F else if wideSpecial b then v else v &&& 0xFFFFFFFF

/-- R100, R107 to R109, R176: RDSR writes the special register to D in every active lane; WRSR writes the lowest active lane's
source to the register, every other special register as it was and the handle entries its convoy keeps discarded by a
write of HTBL, or takes BOUNDS for a value the register refuses; CYC
writes the core's clock, which has run on by a free count (assumption log 5). -/
def Obligations.SpecialRegisters : Prop :=
  ∀ (s : State) (x : Ctx) (a b d : BitVec 7) (w : BitVec 1),
    (Issues (packReg 0x60 d 0x78 b w 1) { uses := [(1, d, .dst (wideSpecial b) true true), (3, b, .special)] } s x →
      ∃ t, exec (.rdsr d b w) s = .next t ∧ Wrote { uses := [(1, d, .dst (wideSpecial b) true true), (3, b, .special)] } x d (wideSpecial b) (w == 1) (fun _ => x.c.special b) x.c.csw s t) ∧
    (b ∈ [0, 2, 3, 4, 5, 0x0A] → (x.c.level ≠ 0 ∨ b = 0) →
      let at2 : OpInfo := { uses := [(2, a, .src (wideSpecial b) true), (3, b, .special)], uniform := true }
      Issues (packReg 0x60 0x78 a b 0 2) at2 s x → x.act ≠ 0 →
      let v := opVal x a (wideSpecial b) 0 (kInt x) (lowest x.act)
      let lo := v.setWidth 32
      let badRake := fun (r : BitVec 3) => r = 0 ∨ 5 < r.toNat
      let refused := (b = 0 ∧ (badRake (lo.extractLsb' 29 3) ∨ badRake (lo.extractLsb' 26 3) ∨ 4 < (lo.extractLsb' 7 3).toNat))
        ∨ (b = 2 ∧ x.c.privWords < lo.toNat) ∨ (b = 0x0A ∧ v.toNat % 32 ≠ 0)
      (refused → exec (.wrsr a b) s = .next (trapAt x false .bounds (if b = 0x0A then v else lo.setWidth 64) (switchIn x s))) ∧
      (¬ refused → ∃ t c, exec (.wrsr a b) s = .next t ∧ t.consist? x.key = some c ∧
        (∀ n : BitVec 7, n.toNat ≤ 12 → c.special n = if n = b then writtenSpecial b v else x.c.special n) ∧
        c.vregs = x.c.vregs ∧ c.aregs = x.c.aregs ∧ c.sregs = x.c.sregs ∧ QueuesPop at2 x x.c c ∧
        StreamSt.Passed at2 x.run (x.c.strm x.st) (c.strm x.st) ∧
        (switchIn x (if b = 0x0A then s.modConvoy x.c.convoy (fun v => { v with handles := [] }) else s)).Keeps x.key t)) ∧
    (Issues (packReg 0x60 d 0x78 0x78 w 3) { uses := [(1, d, .dst true true true)] } s x → x.act ≠ 0 →
      ∃ t now, exec (.cyc d w) s = .next t ∧ (t.core (coreOf x.key)).cyc = now ∧
        Wrote { uses := [(1, d, .dst true true true)] } x d true (w == 1) (fun _ => now) x.c.csw
          (s.setCore (coreOf x.key) { s.core (coreOf x.key) with cyc := now }) t)

/-! ## Hints -/

/-- The run has completed a hint: nothing has changed but its stream, which stands as `y` says with the run four bytes on. -/
def Sys2Proof.Machine.HintDone (x : Ctx) (y : StreamSt) (s t : State) : Prop :=
  Completed { hint := true } x (s.setConsist x.key (x.c.setStrm x.st y)) t

/-- The hints of a run after one more of them (R40): it pends for every lane of the run, and keeps the address of the
first. -/
def Sys2Proof.Machine.Pends (x : Ctx) (put : Hints → Hints) (s t : State) : Prop :=
  ∃ h, (∀ l, l < 32 → tfind l h = if x.run.getLsbD l = true then
      some { put x.hints with first := ((tfind (lowest x.run) (x.c.strm x.st).hints).map (fun y => y.first)).getD x.pc }
      else tfind l (x.c.strm x.st).hints) ∧
    HintDone x { x.c.strm x.st with hints := h } s t

/-- R40 to R47: each hint completes for every lane of its run. HINT.CONST, SCOPE, ROUND, MOD and SCHED become pending for
the next instruction; GUARD opens a window of n + 1 instructions that the lanes whose predicate is 1 − sense pass; HOLD
sets the hold count. No register and no byte of memory changes. -/
def Sys2Proof.Machine.HintsTakeEffect : Prop :=
  ∀ (s : State) (x : Ctx) (k : BitVec 22) (sc : BitVec 4) (o t f : BitVec 2) (m p : BitVec 3) (i j n : BitVec 1) (count : BitVec 4)
    (stalls : BitVec 6),
    (∀ e ∈ ([ (.hintConst k, packHnt 0 k, x.hints.const = none, fun h => { h with const := some k }),
              (.hintScope sc o, packHnt 3 (sc ++ o ++ 0#16), (x.hints.scope = none ∧ 1 ≤ sc.toNat ∧ sc.toNat ≤ 12),
                fun h => { h with scope := some (sc, o) }),
              (.hintRound m, packHnt 4 (m ++ 0#19), x.hints.round = none, fun h => { h with round := some m }),
              (.hintMod t f i j n, packHnt 5 (t ++ f ++ i ++ j ++ n ++ 0#15), x.hints.mod = none,
                fun h => { h with mod := some (t ++ f ++ i ++ j ++ n) }),
              (.hintSched stalls i, packHnt 6 (stalls ++ i ++ 0#15), x.hints.sched = none,
                fun h => { h with sched := some (stalls ++ i) }) ] : List (Instr × Word × Prop × (Hints → Hints))),
      Issues e.2.1 { hint := true } s x → e.2.2.1 → ∃ u, exec e.1 s = .next u ∧ Pends x e.2.2.2 s u) ∧
    (Issues (packHnt 1 (p ++ i ++ count ++ 0#14)) { hint := true } s x →
      ∃ u left pass, exec (.hintGuard p i count) s = .next u ∧
        (∀ l, l < 32 → tget left l = if x.run.getLsbD l then count.toNat + 1 else tget (x.c.strm x.st).guardLeft l) ∧
        (∀ l, l < 32 → pass.getLsbD l
          = if x.run.getLsbD l then (x.c.strm x.st).pred p.toNat l == (i == 0) else (x.c.strm x.st).guardPass.getLsbD l) ∧
        HintDone x { x.c.strm x.st with guardLeft := left, guardPass := pass } s u) ∧
    (Issues (packHnt 2 (0#18 ++ count)) { hint := true } s x → 1 ≤ count.toNat → count.toNat ≤ 8 →
      ∃ u, exec (.hintHold count) s = .next u ∧ HintDone x { x.c.strm x.st with hold := count.toNat } s u)

/-- (1) R93, R102: EXIT ends the active lanes in its stream and the consist drains once all its lanes have left both;
YIELD defers its run until another has issued; NOP has no effect. No register and no byte of memory changes. (2) R40
to R47: each hint completes for every lane of its run. HINT.CONST, SCOPE, ROUND, MOD and SCHED become pending for the
next instruction; GUARD opens a window of n + 1 instructions that the lanes whose predicate is 1 − sense pass; HOLD
sets the hold count. No register and no byte of memory changes. -/
def Obligations.ExitYieldNopAndHints : Prop := ExitYieldNop ∧ HintsTakeEffect

/-! ## Synchronisation -/

/-- Context `x` has completed with a result for D, whatever other agents' state the instruction also changed. -/
def Sys2Proof.Machine.WroteHere (o : OpInfo) (x : Ctx) (d : BitVec 7) (wide nw : Bool) (f : Nat → DWord) (t : State) : Prop :=
  ∃ u, u.consist? x.key = some x.c ∧ Wrote o x d wide nw f x.c.csw u t

/-- Context `x` has completed with no result, whatever other agents' state the instruction also changed. -/
def Sys2Proof.Machine.PassedHere (o : OpInfo) (x : Ctx) (t : State) : Prop :=
  ∃ u, u.consist? x.key = some x.c ∧ Completed o x u t

/-- The slots and the scratchpad of a convoy after an arrival at slot i, bound as b (R198): below the expected count it is
counted; the last one completes the phase, writes the word and starts the next phase, or unbinds the slot when no arrival
is expected any more. Other slots and other bytes are as they were. -/
def Sys2Proof.Machine.Arrived (v v' : Convoy) (i : Nat) (b : Barrier) (drops : Nat) : Prop :=
  (∀ j, j ≠ i → tfind j v'.bars = tfind j v.bars) ∧
  (if b.arrived + 1 < b.expect then
    v'.scratch = v.scratch ∧ ∃ r, tfind i v'.bars
      = some { b with arrived := b.arrived + 1, drops := b.drops + drops, rels := (b.phase, r) :: b.rels }
   else
    (∀ a, tget v'.scratch a = if b.word ≤ a ∧ a < b.word + 4 then (b.phase + 1).extractLsb' (8 * (a - b.word)) 8
      else tget v.scratch a) ∧
    (if b.expect ≤ b.drops + drops then tfind i v'.bars = none
     else ∃ rels, tfind i v'.bars = some { word := b.word, expect := b.expect - (b.drops + drops), arrived := 0,
                                           phase := b.phase + 1, drops := 0, rels := rels }))

/-- Has phase t completed at a count of n (R199)? -/
def Sys2Proof.Machine.completed (n t : BitVec 32) : Prop := n ≠ t ∧ (n - t).toNat < 2 ^ 31

/-- R198 to R201: the barrier instructions of a run that is in no wait complete. BARINIT binds the slot with no arrival
and the word 0; BARARR, BARDROP and the last BARARW arrive; BARWAIT of a completed phase goes on; BARTEST compares
parities; BARPH reads the phase count; BARINV unbinds. The slot must be bound for all but BARINIT, and no write of the
consist may be in the side log for an arrival (R196). -/
def Sys2Proof.Machine.BarrierResults : Prop :=
  ∀ (s : State) (x : Ctx) (v : Convoy) (a b d : BitVec 7) (w : BitVec 1),
    let i := (src1 x a (lowest x.act)).toNat
    let at1 : OpInfo := { uses := [(2, a, .src false true)], uniform := true }
    let at2 : OpInfo := { uses := [(2, a, .src false true), (3, b, .src false true)], uniform := true }
    let atD : OpInfo := { uses := [(1, d, .dst false true true), (2, a, .src false true)], uniform := true }
    let y := src2 x a b (lowest x.act)
    x.act ≠ 0 → s.convoy? x.c.convoy = some v → i < v.bcnt → x.c.a.barWaits = [] → x.c.c.barWaits = [] → x.c.saved = none →
    x.key ∈ v.members →
    (∀ word e, Issues (packReg 0x38 0x78 a b 0 0) at2 s x → y.extractLsb' 32 32 = 0 → y.extractLsb' 18 4 = 0 →
      word = (y.extractLsb' 0 18).toNat → word % 4 = 0 → word < v.spSize → (∀ j q, tfind j v.bars = some q → j ≠ i → q.word ≠ word) →
      Table.sorted v.bars = true → e = (y.extractLsb' 22 10).toNat + 1 →
      ∃ t v', exec (.barinit a b) s = .next t ∧ PassedHere at2 x t ∧ t.convoy? x.c.convoy = some v' ∧
        tfind i v'.bars = some { word := word, expect := e, arrived := 0, phase := 0, drops := 0, rels := [] } ∧
        (∀ j, j ≠ i → tfind j v'.bars = tfind j v.bars) ∧
        (∀ j, tget v'.scratch j = if word ≤ j ∧ j < word + 4 then 0 else tget v.scratch j) ∧ (∀ j, t.byte j = s.byte j)) ∧
    (∀ q, tfind i v.bars = some q →
      (Issues (packReg 0x38 d a 0x78 w 1) atD s x → s.logged x.key = false →
        ∃ t v', exec (.bararr d a w) s = .next t ∧ WroteHere atD x d false (w == 1) (fun _ => q.phase.setWidth 64) t ∧
          t.convoy? x.c.convoy = some v' ∧ Arrived v v' i q 0 ∧ (∀ j, t.byte j = s.byte j)) ∧
      (Issues (packReg 0x38 0x78 a 0x78 0 5) at1 s x → s.logged x.key = false →
        ∃ t v', exec (.bardrop a) s = .next t ∧ PassedHere at1 x t ∧ t.convoy? x.c.convoy = some v' ∧ Arrived v v' i q 1 ∧
          (∀ j, t.byte j = s.byte j)) ∧
      (Issues (packReg 0x38 d a 0x78 w 3) atD s x → s.logged x.key = false → q.expect ≤ q.arrived + 1 →
        ∃ t v', exec (.bararw d a w) s = .next t ∧ WroteHere atD x d false (w == 1) (fun _ => (q.phase + 1).setWidth 64) t ∧
          t.convoy? x.c.convoy = some v' ∧ Arrived v v' i q 0 ∧ (∀ j, t.byte j = s.byte j)) ∧
      (Issues (packReg 0x38 0x78 a b 0 2) at2 s x → completed q.phase (y.setWidth 32) →
        ∃ t, exec (.barwait a b) s = .next t ∧ Completed at2 x s t) ∧
      (Issues (packReg 0x38 d a b 0 4) { uses := [(1, d, .pred), (2, a, .src false true), (3, b, .src false true)], uniform := true } s x →
        ∃ t, exec (.bartest d a b) s = .next t ∧ WrotePred { uses := [(1, d, .pred), (2, a, .src false true), (3, b, .src false true)], uniform := true } x d.toNat (fun _ => q.phase.getLsbD 0 != y.getLsbD 0) x.c.csw s t) ∧
      (Issues (packReg 0x38 0x78 a 0x78 0 6) at1 s x →
        ∃ t v', exec (.barinv a) s = .next t ∧ PassedHere at1 x t ∧ t.convoy? x.c.convoy = some v' ∧ v'.scratch = v.scratch ∧
          (∀ j, tfind j v'.bars = if j = i then none else tfind j v.bars) ∧ (∀ j, t.byte j = s.byte j)) ∧
      (Issues (packReg 0x38 d a 0x78 w 7) atD s x →
        ∃ t, exec (.barph d a w) s = .next t ∧ Wrote atD x d false (w == 1) (fun _ => q.phase.setWidth 64) x.c.csw s t))

/-- The barrier wait that a run enters on slot i for a phase (R199). -/
def Sys2Proof.Machine.waitOf (x : Ctx) (i : Nat) (phase : BitVec 32) : BarWait :=
  { pc := x.pc, lanes := x.run, slot := i, phase := phase, lost := false, released := none }

/-- R199, R200, R202: BARWAIT of a phase that is not complete waits, and so does BARARW, after its one arrival, while others
are expected: no register and no byte of memory changes. On every barrier instruction a slot operand at or beyond the
convoy's count takes BOUNDS; BARINIT takes BOUNDS for a descriptor that breaks a rule, and every other an unbound slot's
BARLOST. -/
def Sys2Proof.Machine.BarriersWaitAndTrap : Prop :=
  ∀ (s : State) (x : Ctx) (v : Convoy) (a b d : BitVec 7) (w : BitVec 1),
    let i := (src1 x a (lowest x.act)).toNat
    let y := src2 x a b (lowest x.act)
    let at1 : OpInfo := { uses := [(2, a, .src false true)], uniform := true }
    let at2 : OpInfo := { uses := [(2, a, .src false true), (3, b, .src false true)], uniform := true }
    let atD : OpInfo := { uses := [(1, d, .dst false true true), (2, a, .src false true)], uniform := true }
    let atP : OpInfo := { uses := [(1, d, .pred), (2, a, .src false true), (3, b, .src false true)], uniform := true }
    x.act ≠ 0 → s.convoy? x.c.convoy = some v → x.c.a.barWaits = [] → x.c.c.barWaits = [] →
    (∀ e ∈ ([ (.barinit a b, packReg 0x38 0x78 a b 0 0, at2), (.bararr d a w, packReg 0x38 d a 0x78 w 1, atD),
              (.barwait a b, packReg 0x38 0x78 a b 0 2, at2), (.bararw d a w, packReg 0x38 d a 0x78 w 3, atD),
              (.bartest d a b, packReg 0x38 d a b 0 4, atP), (.bardrop a, packReg 0x38 0x78 a 0x78 0 5, at1),
              (.barinv a, packReg 0x38 0x78 a 0x78 0 6, at1), (.barph d a w, packReg 0x38 d a 0x78 w 7, atD) ] :
                List (Instr × Word × OpInfo)),
      Issues e.2.1 e.2.2 s x →
      (v.bcnt ≤ i → exec e.1 s = .next (trapAt x false .bounds (boundsValue 4 i) (switchIn x s))) ∧
      (i < v.bcnt → tfind i v.bars = none → e.1 ≠ .barinit a b →
        exec e.1 s = .next (trapAt x false .barlost (BitVec.ofNat 64 i) (switchIn x s)))) ∧
    (Issues (packReg 0x38 0x78 a b 0 0) at2 s x → i < v.bcnt →
      (y.extractLsb' 32 32 ≠ 0 ∨ y.extractLsb' 18 4 ≠ 0 ∨ (y.extractLsb' 0 18).toNat % 4 ≠ 0 ∨ v.spSize ≤ (y.extractLsb' 0 18).toNat ∨
        ∃ e ∈ v.bars, e.1 ≠ i ∧ e.2.word = (y.extractLsb' 0 18).toNat) →
      exec (.barinit a b) s = .next (trapAt x false .bounds (boundsValue 3 y.toNat) (switchIn x s))) ∧
    (∀ q, i < v.bcnt → tfind i v.bars = some q →
      (Issues (packReg 0x38 0x78 a b 0 2) at2 s x → ¬ completed q.phase (y.setWidth 32) →
        ∃ t c, exec (.barwait a b) s = .next t ∧ s.Keeps x.key t ∧ t.consist? x.key = some c ∧ c.vregs = x.c.vregs ∧
          c.aregs = x.c.aregs ∧ c.sregs = x.c.sregs ∧ (∀ k l, c.queueOf k l = x.c.queueOf k l) ∧
          (c.strm x.st).pc = (x.c.strm x.st).pc ∧ (c.strm x.st).stalled = true ∧
          (c.strm x.st).barWaits = [waitOf x i (y.setWidth 32)]) ∧
      (Issues (packReg 0x38 d a 0x78 w 3) atD s x → s.logged x.key = false → q.arrived + 1 < q.expect →
        ∃ t c v', exec (.bararw d a w) s = .next t ∧ ({ s with convoys := t.convoys } : State).Keeps x.key t ∧
          t.consist? x.key = some c ∧ c.vregs = x.c.vregs ∧ c.aregs = x.c.aregs ∧ c.sregs = x.c.sregs ∧
          (∀ k l, c.queueOf k l = x.c.queueOf k l) ∧ (c.strm x.st).pc = (x.c.strm x.st).pc ∧ (c.strm x.st).stalled = true ∧
          (c.strm x.st).barWaits = [waitOf x i q.phase] ∧ t.convoy? x.c.convoy = some v' ∧ Arrived v v' i q 0))

/-- (1) R198 to R201: the barrier instructions of a run that is in no wait complete. BARINIT binds the slot with no
arrival and the word 0; BARARR, BARDROP and the last BARARW arrive; BARWAIT of a completed phase goes on; BARTEST
compares parities; BARPH reads the phase count; BARINV unbinds. The slot must be bound for all but BARINIT, and no
write of the consist may be in the side log for an arrival (R196). (2) R199, R200, R202: BARWAIT and BARARW of a phase that
is not complete wait, with no effect on registers or memory; a slot operand at or beyond the convoy's count takes
BOUNDS, BARINIT's bad descriptor BOUNDS, and an unbound slot's use by any other BARLOST. -/
def Obligations.BarrierRules : Prop := BarrierResults ∧ BarriersWaitAndTrap

/-- Nothing that the classes of PRED name is outstanding (R74): no write in the side log, of device memory or otherwise, for
w, none of the host or I/O space for o, no BUSY token for cr and cw, no tile instruction for mr and mw, and no texture
request for r. -/
def Sys2Proof.Machine.fenceReady (s : State) (x : Ctx) (p : BitVec 8) : Prop :=
  (p.getLsbD 6 = true → s.logged x.key = false) ∧ (p.getLsbD 4 = true → s.loggedOut x.key = false) ∧
  (p.getLsbD 3 = true ∨ p.getLsbD 2 = true → x.c.tokens = 0) ∧
  (p.getLsbD 1 = true ∨ p.getLsbD 0 = true → x.c.matrix.queue = []) ∧
  (p.getLsbD 7 = true → ∀ f ∈ x.c.inflight, f.kind ≠ .texture)

/-- R74: FENCE completes, whatever its sets and its scope, when no lane of its run is active or nothing that its PRED names is
outstanding. It changes no register and no byte of memory. While a logged write that it orders is outstanding it waits. -/
def Obligations.FenceOrders : Prop :=
  ∀ (s : State) (x : Ctx) (p q : BitVec 8) (sc : BitVec 4), Issues (packFen 0x39 p q sc) {} s x →
    (x.act = 0 ∨ fenceReady s x p → ∃ t, exec (.fence p q sc) s = .next t ∧ Completed {} x s t) ∧
    (x.act ≠ 0 → (p.getLsbD 6 = true ∧ s.logged x.key = true) ∨ (p.getLsbD 4 = true ∧ s.loggedOut x.key = true) →
      exec (.fence p q sc) s = .next (stall x s))

/-- R75 to R77: on a timeline that its identifier names, TLREAD reads the counter, TLPOLL tells whether it has reached a
value, TLWAIT goes on once it has, and TLSIG raises a software timeline to a value above it. -/
def Sys2Proof.Machine.TimelineResults : Prop :=
  ∀ (s : State) (x : Ctx) (a b d : BitVec 7) (w : BitVec 1) (tl : Timeline),
    let y := src1 x a (lowest x.act)
    let id : BitVec 16 := y.extractLsb' 0 16
    let n := wideB x a b
    x.act ≠ 0 → y.extractLsb' 16 16 = 0 → (x.c.strm x.st).tlWaits = [] → timelineOf s x id = .ok tl →
    (Issues (packReg 0x3A d a 0x78 w 1) { uses := [(1, d, .dst true true true), (2, a, .src false true)], uniform := true } s x →
      ∃ t, exec (.tlread d a w) s = .next t ∧ Wrote { uses := [(1, d, .dst true true true), (2, a, .src false true)], uniform := true } x d true (w == 1) (fun _ => tl.counter) x.c.csw s t) ∧
    (Issues (packReg 0x3A d a b 0 2) { uses := [(1, d, .pred), (2, a, .src false true), (3, b, .src true true)], uniform := true } s x →
      ∃ t, exec (.tlpoll d a b) s = .next t ∧ WrotePred { uses := [(1, d, .pred), (2, a, .src false true), (3, b, .src true true)], uniform := true } x d.toNat (fun _ => decide (n.toNat ≤ tl.counter.toNat)) x.c.csw s t) ∧
    (Issues (packReg 0x3A 0x78 a b 0 0) { uses := [(2, a, .src false true), (3, b, .src true true)], uniform := true } s x →
      (n.toNat ≤ tl.counter.toNat → ∃ t, exec (.tlwait a b) s = .next t ∧ Completed { uses := [(2, a, .src false true), (3, b, .src true true)], uniform := true } x s t) ∧
      (tl.counter.toNat < n.toNat → tl.closed = true →
        exec (.tlwait a b) s = .next (trapAt x false .prot (0#47 ++ 1#1 ++ id) (switchIn x (s.leaveTl x))))) ∧
    (Issues (packReg 0x3A 0x78 a b 0 3) { uses := [(2, a, .src false true), (3, b, .src true true)], uniform := true } s x →
      (id.extractLsb' 12 4 = 0 → s.logged x.key = false →
        ∃ t, exec (.tlsig a b) s = .next t ∧ PassedHere { uses := [(2, a, .src false true), (3, b, .src true true)], uniform := true } x t ∧ (∀ j, t.byte j = s.byte j) ∧
          (∀ k, k ≠ x.c.sess → t.session k = s.session k) ∧
          (∀ k, (tget (t.session x.c.sess).soft k).count
            = (let old := (tget (s.session x.c.sess).soft k).count
               if k = (id.extractLsb' 0 12).toNat ∧ old.toNat < n.toNat then n else old))) ∧
      (id.extractLsb' 12 4 ≠ 0 → exec (.tlsig a b) s = .next (trapAt x false .prot (0#47 ++ 0#1 ++ id) (switchIn x s))))

/-- R265, R266: TKTEST tells whether every token of its mask is free, TKWAIT goes on once they are, and TKANY gives the
free ones once one is; each waits otherwise, and changes nothing else. -/
def Sys2Proof.Machine.TokenResults : Prop :=
  ∀ (s : State) (x : Ctx) (d : BitVec 7) (m : BitVec 8) (w : BitVec 1), x.act ≠ 0 →
    (Issues (packImm 0x3B d 0x78 0 (2#2 ++ m)) { uses := [(1, d, .pred)] } s x →
      ∃ t, exec (.tktest d m) s = .next t ∧ WrotePred { uses := [(1, d, .pred)] } x d.toNat (fun _ => x.c.tokens &&& m == 0) x.c.csw s t) ∧
    (Issues (packImm 0x3B 0x78 0x78 0 (0#2 ++ m)) {} s x →
      (x.c.tokens &&& m = 0 → ∃ t, exec (.tkwait m) s = .next t ∧ Completed {} x s t) ∧
      (x.c.tokens &&& m ≠ 0 → exec (.tkwait m) s = .next (stall x s))) ∧
    (m ≠ 0 → Issues (packImm 0x3B d 0x78 w (1#2 ++ m)) { uses := [(1, d, .lanesReg)] } s x →
      (m &&& ~~~x.c.tokens ≠ 0 → ∃ t, exec (.tkany d w m) s = .next t ∧
        Wrote { uses := [(1, d, .lanesReg)] } x d false (w == 1) (fun _ => (m &&& ~~~x.c.tokens).setWidth 64) x.c.csw s t) ∧
      (m &&& ~~~x.c.tokens = 0 → exec (.tkany d w m) s = .next (stall x s)))

/-- (1) R75 to R77: on a timeline that its identifier names, TLREAD reads the counter, TLPOLL tells whether it has
reached a value, TLWAIT goes on once it has, and TLSIG raises a software timeline to a value above it. (2) R265, R266:
TKTEST tells whether every token of its mask is free, TKWAIT goes on once they are, and TKANY gives the free ones once
one is; each waits otherwise, and changes nothing else. -/
def Obligations.TimelineAndTokenResults : Prop := TimelineResults ∧ TokenResults

/-! ## Memory -/

/-- Little-endian number of `n` bytes (R111). -/
def Sys2Proof.Machine.numberAt (mem : Nat → Byte) (a n : Nat) : Nat :=
  ((List.range n).map (fun j => (mem (a + j)).toNat * 256 ^ j)).sum

/-- Memory with a number written as `n` little-endian bytes. -/
def Sys2Proof.Machine.memoryWith (mem : Nat → Byte) (a n v : Nat) : Nat → Byte :=
  fun b => if a ≤ b ∧ b < a + n then BitVec.ofNat 8 (v / 256 ^ (b - a)) else mem b

/-- An access instruction: its size, whether V receives what memory held (sign-extended or not), whether a write that
misses goes to the side log, and what it writes, from what memory holds, the operand and the compare value. -/
structure Sys2Proof.Machine.AccessRow where
  instr : Instr
  op : AccOp
  size : Nat
  gives : Bool
  signed : Bool
  writes : Nat → Nat → Nat → Option Nat

/-- The instructions of majors 0x40 to 0x45 with what R186 to R190 say they do to the bytes of a lane. -/
noncomputable def Sys2Proof.Machine.accessRows (v a : BitVec 7) (h : BitVec 6) (o : BitVec 2) : List AccessRow :=
  let load := fun (i : Instr) (signed : Bool) (n : Nat) => (⟨i, .load signed, n, true, signed, fun _ _ _ => none⟩ : AccessRow)
  let store := fun (i : Instr) (n : Nat) => (⟨i, .store, n, false, false, fun _ x _ => some x⟩ : AccessRow)
  let sgn := fun (n m : Nat) => (BitVec.ofNat (8 * n) m).toInt
  let add := fun (n m x : Nat) => (m + x) % 2 ^ (8 * n)
  let least := fun (n m x : Nat) => if sgn n x < sgn n m then x else m
  let most := fun (n m x : Nat) => if sgn n m < sgn n x then x else m
  let atom := fun (i : Instr) (k n : Nat) (f : Nat → Nat → Nat) =>
    (⟨i, .atomic k, n, true, false, fun m x _ => some (f m x)⟩ : AccessRow)
  let red := fun (i : Instr) (k : Nat) (f : Nat → Nat → Nat) => (⟨i, .reduce k, 4, false, false, fun m x _ => some (f m x)⟩ : AccessRow)
  let swap := fun (i : Instr) (n : Nat) => (⟨i, .cas, n, true, false, fun m x c => if m = c then some x else none⟩ : AccessRow)
  [ load (.ld8 v a h o) false 1, load (.ld8s v a h o) true 1, load (.ld16 v a h o) false 2, load (.ld16s v a h o) true 2,
    load (.ld32 v a h o) false 4, load (.ld64 v a h o) false 8, load (.ld128 v a h o) false 16, load (.ldnt v a h o) false 16,
    store (.st8 v a h o) 1, store (.st16 v a h o) 2, store (.st32 v a h o) 4, store (.st64 v a h o) 8,
    store (.st128 v a h o) 16, store (.stnt v a h o) 16,
    atom (.aadd v a h o) 0 4 (add 4), atom (.amin v a h o) 1 4 (least 4), atom (.amax v a h o) 2 4 (most 4),
    atom (.aumin v a h o) 3 4 min, atom (.aand v a h o) 4 4 Nat.land, atom (.aor v a h o) 5 4 Nat.lor,
    atom (.axor v a h o) 6 4 Nat.xor, atom (.axch v a h o) 7 4 (fun _ x => x),
    atom (.aadd64 v a h o) 0 8 (add 8), atom (.amin64 v a h o) 1 8 (least 8), atom (.amax64 v a h o) 2 8 (most 8),
    atom (.aand64 v a h o) 4 8 Nat.land, atom (.aor64 v a h o) 5 8 Nat.lor, atom (.axor64 v a h o) 6 8 Nat.xor,
    atom (.axch64 v a h o) 7 8 (fun _ x => x), atom (.afadd v a h o) 8 4 (plainAdd .f32),
    swap (.cas32 v a h o) 4, swap (.cas64 v a h o) 8,
    red (.redadd v a h o) 0 (add 4), red (.redmin v a h o) 1 (least 4), red (.redmax v a h o) 2 (most 4),
    red (.redand v a h o) 4 Nat.land, red (.redor v a h o) 5 Nat.lor, red (.redxor v a h o) 6 Nat.xor,
    red (.redfadd v a h o) 8 (plainAdd .f32), red (.redbfadd v a h o) 9 plainAddBf2 ]

/-- A piece of an access that stands in memory: its machine address, its length and its position in the access. -/
def Sys2Proof.Machine.placed (p : Piece) : Option (Nat × Nat × Nat) :=
  match p.spot with
  | .mem b => some (b, p.len, p.pos)
  | _ => none

/-- One lane's access to memory: what it reads, and memory after what it writes. -/
def Sys2Proof.Machine.laneAccess (r : AccessRow) (mem : Nat → Byte) (x c : Nat) (ps : List (Nat × Nat × Nat)) : Nat × (Nat → Byte) :=
  let q := 2 ^ (8 * r.size)
  let m := (ps.map (fun p => numberAt mem p.1 p.2.1 * 256 ^ p.2.2)).sum
  match r.writes m (x % q) (c % q) with
  | none => (m, mem)
  | some v => (m, ps.foldl (fun mem p => memoryWith mem p.1 p.2.1 (v / 256 ^ p.2.2)) mem)

/-- The lanes' accesses in ascending order (R191): what each reads, and memory after the last. -/
def Sys2Proof.Machine.lanesAccess (r : AccessRow) (x c : Nat → Nat) (ps : Nat → List (Nat × Nat × Nat)) :
    List Nat → (Nat → Byte) → List (Nat × Nat) × (Nat → Byte)
  | [], mem => ([], mem)
  | l :: ls, mem =>
    let now := laneAccess r mem (x l) (c l) (ps l)
    let rest := lanesAccess r x c ps ls now.2
    ((l, now.1) :: rest.1, rest.2)

/-- The words that V receives of a value read (R186, R188): of a queue, as many as the size fills; of a register, two, or
four of 16 bytes. -/
def Sys2Proof.Machine.givenWords (r : AccessRow) (toQueue : Bool) (m : Nat) : List Word :=
  let n := if toQueue then (r.size + 3) / 4 else if r.size = 16 then 4 else 2
  let full : Nat := if r.signed = true ∧ 2 ^ (8 * r.size - 1) ≤ m then m + (2 ^ (32 * n) - 2 ^ (8 * r.size)) else m
  (List.range n).map (fun j => BitVec.ofNat 32 (full / 2 ^ (32 * j)))

/-- What stands in the way of no access of majors 0x40 to 0x45, at the state `s` in which its effect starts: the checks of
R177 pass for every active lane through window `win`, every piece is translated to memory of the part that is whole,
nothing is checked for races, an ordering release waits for no logged write, and no error injection is armed. -/
structure Sys2Proof.Machine.Reaches (r : AccessRow) (x : Ctx) (s : State) (a : BitVec 7) (h : BitVec 6) (o : BitVec 2)
    (win : Window) (ps : List Piece) : Prop where
  active : x.act ≠ 0
  helpers : r.op.isWrite = true → x.c.hmask &&& x.act = 0
  checked : checkAccess x h.toNat r.op.isWrite r.size (offOf x a) (lanesOf x.act) s = .val win s
  plain : (win.chk && !isLine x.key) = false
  order : orderOf x o < 2 ∨ s.logged x.key = false
  inside : ∀ l ∈ lanesOf x.act, ∃ p ∈ startPieces win x s r.size (offOf x a) (lanesOf x.act), p.lane = l
  translated : reach { x.c.asker x.key x.st with
        waiter := if r.op.buffered && win.space != 2 then .logged s.nextUid else (x.c.asker x.key x.st).waiter }
    (if r.op.isWrite then .write else .read) (r.op.buffered && win.space != 2) win.space
    (startPieces win x s r.size (offOf x a) (lanesOf x.act)) s = .val ps s
  inMemory : ∀ p ∈ ps, ∃ b, p.spot = .mem b ∧ b + p.len ≤ 2 ^ 40
  whole : badLine s ps = .good ∧ s.sound

/-- The entries that the active lanes' slots in the queue LQ take of an access of `n` words (R85). -/
def Sys2Proof.Machine.slotsFor (x : Ctx) (toQueue : Bool) (n : Nat) (q : Queue) (l : Nat) : List Word :=
  if toQueue = true ∧ q = .lq ∧ x.act.getLsbD l = true ∧ x.c.deaf .lq l = false then List.replicate n 0 else []

/-- R111, R186 to R191: loads, stores, atomics, compare-and-swaps and reductions on memory complete, lane by lane in
ascending order. Memory holds the bytes that the lanes write at the machine addresses of their pieces and every other
byte is as it was; what a load, an atomic or a compare-and-swap reads is on its way to V, in reserved slots where V is
the queue; and no register, and nothing else of the part, changes. -/
def Sys2Proof.Machine.AccessesActOnMemory : Prop :=
  ∀ (s : State) (x : Ctx) (v a : BitVec 7) (h : BitVec 6) (o : BitVec 2) (win : Window) (ps : List Piece),
    ∀ r ∈ accessRows v a h o, ∀ u, encode r.instr = some u →
      let info := accessInfo r.op r.size v a o s
      Issues u info s x → Reaches r x (learnPops info x s) a h o win ps →
      let result := lanesAccess r (dataOf x v r.size) (fun l => (opVal x 0x70 false 0 0 l).toNat)
        (fun l => (ps.filter (fun p => p.lane == l)).filterMap placed) (lanesOf x.act) s.byte
      let toQueue := r.gives && codeOf x.st v == .lq
      ∃ t c, exec r.instr s = .next t ∧ t.consist? x.key = some c ∧
        (∀ b, b < 2 ^ 40 → t.byte b = result.2 b) ∧
        (switchIn x { s with mem := t.mem, grants := t.grants, lines := t.lines, texLines := t.texLines }).Keeps x.key t ∧
        x.c.Keeps c ∧ c.vregs = x.c.vregs ∧ c.aregs = x.c.aregs ∧ c.sregs = x.c.sregs ∧ c.csw = x.c.csw ∧
        c.strm x.st.other = x.c.strm x.st.other ∧ StreamSt.Passed info x.run (x.c.strm x.st) (c.strm x.st) ∧
        QueuesMove info x (slotsFor x toQueue ((r.size + 3) / 4)) (fun e _ => e.filled = false ∧ e.id = s.nextUid) x.c c ∧
        (r.gives = false → c.inflight = x.c.inflight) ∧
        (r.gives = true → ∃ new, c.inflight = x.c.inflight ++ new ∧
          new.map (fun f => (f.lane, f.vals)) = result.1.map (fun e => (e.1, givenWords r toQueue e.2)) ∧
          ∀ f ∈ new, f.kind = .load ∧ f.strm = x.st ∧ f.dest = if toQueue then .queue v true s.nextUid else .reg v (r.size == 16) true)

/-- R182, R184: stores of 1 to 16 bytes and loads through h2 act on the convoy's scratchpad: a lane whose bytes lie in it
reads and writes them there, in ascending order, and every other byte of the scratchpad and all of memory is as it was.
Nothing is checked for races here and no barrier word lies in the scratchpad. -/
def Sys2Proof.Machine.ScratchpadAccesses : Prop :=
  ∀ (s : State) (x : Ctx) (v a : BitVec 7) (o : BitVec 2) (cv : Convoy),
    ∀ r ∈ accessRows v a 2 o, r.op = .store ∨ r.op = .load false ∨ r.op = .load true → ∀ u, encode r.instr = some u →
      let info := accessInfo r.op r.size v a o s
      Issues u info s x → x.act ≠ 0 → s.convoy? x.c.convoy = some cv → cv.spCheck = false →
      cv.bars = [] → x.c.hmask = 0 → (orderOf x o < 2 ∨ s.logged x.key = false) →
      (∀ l ∈ lanesOf x.act, offOf x a l % r.size = 0 ∧ offOf x a l + r.size ≤ cv.spSize) →
      let result := lanesAccess r (dataOf x v r.size) (fun _ => 0) (fun l => [(offOf x a l, r.size, 0)]) (lanesOf x.act)
        (fun b => tget cv.scratch b)
      let toQueue := r.gives && codeOf x.st v == .lq
      ∃ t c cv', exec r.instr s = .next t ∧ t.consist? x.key = some c ∧ t.convoy? x.c.convoy = some cv' ∧
        (∀ b, tget cv'.scratch b = result.2 b) ∧ (switchIn x { s with convoys := t.convoys }).Keeps x.key t ∧ x.c.Keeps c ∧
        c.vregs = x.c.vregs ∧ c.aregs = x.c.aregs ∧ c.sregs = x.c.sregs ∧ c.csw = x.c.csw ∧
        c.strm x.st.other = x.c.strm x.st.other ∧ StreamSt.Passed info x.run (x.c.strm x.st) (c.strm x.st) ∧
        QueuesMove info x (slotsFor x toQueue ((r.size + 3) / 4)) (fun e _ => e.filled = false ∧ e.id = s.nextUid) x.c c ∧
        (r.gives = false → c.inflight = x.c.inflight) ∧
        (r.gives = true → ∃ new, c.inflight = x.c.inflight ++ new ∧
          new.map (fun f => (f.lane, f.vals)) = result.1.map (fun e => (e.1, givenWords r toQueue e.2)))

/-- (1) R111, R186 to R191: loads, stores, atomics, compare-and-swaps and reductions on memory complete, lane by lane
in ascending order. Memory holds the bytes that the lanes write at the machine addresses of their pieces and every
other byte is as it was; what a load, an atomic or a compare-and-swap reads is on its way to V, in reserved slots
where V is the queue; and no register, and nothing else of the part, changes. (2) R182, R184: stores of 1 to 16 bytes
and loads through h2 act on the convoy's scratchpad: a lane whose bytes lie in it reads and writes them there, in
ascending order, and every other byte of the scratchpad and all of memory is as it was. Nothing is checked for races
here and no barrier word lies in the scratchpad. -/
def Obligations.MemoryAndScratchpadAccesses : Prop := AccessesActOnMemory ∧ ScratchpadAccesses

/-- R177, R178: through h0, an access whose offset is no multiple of its size takes ALIGN with the lowest such lane's
offset; with every lane aligned, one that ends beyond 2^60 takes BOUNDS. Nothing is written. -/
def Obligations.AccessChecksTrap : Prop :=
  ∀ (s : State) (x : Ctx) (v a : BitVec 7) (o : BitVec 2) (first : Nat),
    ∀ r ∈ accessRows v a 0 o, ∀ u, encode r.instr = some u → Issues u (accessInfo r.op r.size v a o s) s x →
      x.c.hmask = 0 → x.c.privWords = 0 → first ∈ lanesOf x.act →
      (offOf x a first % r.size ≠ 0 → (∀ l ∈ lanesOf x.act, l < first → offOf x a l % r.size = 0) →
        exec r.instr s = .next (trapAt x false .align (BitVec.ofNat 64 (offOf x a first % 2 ^ 60)) (switchIn x s))) ∧
      ((∀ l ∈ lanesOf x.act, offOf x a l % r.size = 0) → 2 ^ 60 < offOf x a first + r.size →
        (∀ l ∈ lanesOf x.act, l < first → offOf x a l + r.size ≤ 2 ^ 60) →
        exec r.instr s = .next (trapAt x false .bounds (BitVec.ofNat 64 (offOf x a first % 2 ^ 60)) (switchIn x s)))

/-- R54, R111, R331: what a write of machine memory leaves there is what a read of the same bytes finds, and every byte
outside them is as it was. -/
def Obligations.StoredBytesAreRead : Prop :=
  ∀ (s : State) (a n v : Nat), a + n ≤ 2 ^ 40 →
    (s.writeNat a n v).word a n = v % 256 ^ n ∧
    (∀ b, b < a ∨ a + n ≤ b → (s.writeNat a n v).byte b = s.byte b) ∧
    (∀ b m, b + m ≤ a ∨ a + n ≤ b → (s.writeNat a n v).word b m = s.word b m)

/-- R194: the memory-control instructions of an active run complete. SBIND binds its slot to a range that breaks none of
its rules, SDROP releases the binding, SFLUSH and CFLUSH (its byte checked and translated as a load's) change nothing but
what the caches hold, and PREF never traps and changes no register, whatever becomes of its lines. -/
def Sys2Proof.Machine.MemoryControlCompletes : Prop :=
  ∀ (s : State) (x : Ctx) (v a : BitVec 7) (h : BitVec 6) (cv : Convoy), x.act ≠ 0 → s.convoy? x.c.convoy = some cv → s.sound →
    let atB : OpInfo := { uses := [(1, v, .src false true), (2, a, .offset)], uniform := true }
    let atV : OpInfo := { uses := [(1, v, .src false true)], uniform := true }
    let atA : OpInfo := { uses := [(2, a, .offset)] }
    (∀ w, Issues (packMem 0x46 v a h 0 0) atB s x →
      let m := lowest x.act
      let d := (src1 x v m).toNat
      let off := offOf x a m
      let slot := d % 8
      let start := d / 2 ^ 8 % 2 ^ 8
      let kib := d / 2 ^ 16 % 2 ^ 8
      h ≠ 1 → h ≠ 2 → h ≠ 3 → windowOf x h.toNat off (learnPops atB x s) = .val w (learnPops atB x s) →
      w.outside x.c m off (1024 * kib) = none → d < 2 ^ 24 → d / 8 % 2 ^ 5 = 0 → kib ≠ 0 → start + kib ≤ cv.stashKib →
      off % 1024 = 0 → off + 1024 * kib ≤ w.bound →
      (∀ b ∈ cv.binds, b.1 ≠ slot → b.2.kib ≠ 0 →
        (b.2.start + b.2.kib ≤ start ∨ start + kib ≤ b.2.start) ∧
        (b.2.va + 1024 * b.2.kib ≤ w.base + off ∨ w.base + off + 1024 * kib ≤ b.2.va)) →
      ∃ t cv', exec (.sbind v a h) s = .next t ∧ Completed atB x { s with convoys := t.convoys, lines := t.lines } t ∧
        t.convoy? x.c.convoy = some cv' ∧ tget cv'.binds slot = { start := start, kib := kib, va := w.base + off } ∧
        (∀ j, j ≠ slot → tget cv'.binds j = tget cv.binds j)) ∧
    (Issues (packMem 0x46 v 0x78 0 0 2) atV s x →
      ∃ t cv', exec (.sdrop v) s = .next t ∧ Completed atV x { s with convoys := t.convoys, lines := t.lines } t ∧
        t.convoy? x.c.convoy = some cv' ∧
        (∀ j, tget cv'.binds j = if j = (src1 x v (lowest x.act)).toNat % 8 then default else tget cv.binds j)) ∧
    (Issues (packMem 0x46 v 0x78 0 0 1) atV s x →
      ∃ t, exec (.sflush v) s = .next t ∧ Completed atV x { s with lines := t.lines } t) ∧
    (Issues (packMem 0x46 0x78 a h 0 3) atA s x → s.poison = [] →
      ∃ t, exec (.pref a h) s = .next t ∧ PassedHere atA x t) ∧
    (∀ w ps, Issues (packMem 0x46 0x78 a h 0 4) atA s x →
      checkAccess x h.toNat false 1 (offOf x a) (lanesOf x.act) s = .val w s → w.switches = false →
      reach (x.c.asker x.key x.st) .read false w.space (startPieces w x s 1 (offOf x a) (lanesOf x.act)) s = .val ps s →
      ∃ t, exec (.cflush a h) s = .next t ∧ Completed atA x { s with lines := t.lines } t)

/-- R345, R346: TLBINV and TLBINVA complete for an active run with no write in the side log: no TLB of the part holds an
entry of the session that covers the address, or any entry of the session; entries of other sessions stay. The session
has no frame map here. -/
def Sys2Proof.Machine.InvalidationCompletes : Prop :=
  ∀ (s : State) (x : Ctx) (a b : BitVec 7), x.act ≠ 0 → s.logged x.key = false → (s.session x.c.sess).fmSize = 0 →
    (src1 x b (lowest x.act)).toNat < 3 →
    (∀ va, va = (src1 x a (lowest x.act)).toNat → va < 2 ^ 60 →
      Issues (packReg 0x62 0x78 a b 0 0) { uses := [(2, a, .src false false), (3, b, .src false false)], uniform := true } s x →
      ∃ t, exec (.tlbinv a b) s = .next t ∧ PassedHere { uses := [(2, a, .src false false), (3, b, .src false false)], uniform := true } x t ∧ (∀ i, t.byte i = s.byte i) ∧
        (∀ k, ∀ e ∈ (t.core k).tlb, e ∈ (s.core k).tlb ∧ e.covers x.c.sess va = false) ∧
        (∀ k, ∀ e ∈ (s.core k).tlb, e.covers x.c.sess va = false → e ∈ (t.core k).tlb) ∧
        (∀ k, ∀ e ∈ tget t.engineTlbs k, e.covers x.c.sess va = false)) ∧
    (Issues (packReg 0x62 0x78 0x78 b 0 1) { uses := [(3, b, .src false false)], uniform := true } s x →
      ∃ t, exec (.tlbinva b) s = .next t ∧ PassedHere { uses := [(3, b, .src false false)], uniform := true } x t ∧ (∀ i, t.byte i = s.byte i) ∧
        (∀ k, ∀ e ∈ (t.core k).tlb, e ∈ (s.core k).tlb ∧ e.sess ≠ x.c.sess) ∧
        (∀ k, ∀ e ∈ tget t.engineTlbs k, e.sess ≠ x.c.sess))

/-- (1) R194: the memory-control instructions of an active run complete. SBIND binds its slot to a range that breaks none of
its rules, SDROP releases the binding, SFLUSH and CFLUSH (its byte checked and translated as a load's) change nothing but
what the caches hold, and PREF never traps and changes no register, whatever becomes of its lines. (2) R345, R346: TLBINV
and TLBINVA complete for an active run with no write in the side log: no TLB of the part holds an entry of the session that
covers the address, or any entry of the session; entries of other sessions stay. The session has no frame map here. -/
def Obligations.MemoryControlAndInvalidation : Prop := MemoryControlCompletes ∧ InvalidationCompletes

/-! ## The engines' instructions -/

/-- A tile instruction of context x: its word, its operand fields, the code of its operand A, when its checks at issue
pass (R238, R239, R241, R246 to R251), and what is queued of it. -/
structure Sys2Proof.Machine.TileRow where
  instr : Instr
  info : OpInfo
  valid : Prop
  op : Nat
  unit : Nat
  z : Bool := false
  fmt : Nat := 0
  sel : Nat := 0
  val : Nat := 0
  kcnt : Nat := 0
  handle : Nat := 0
  stride : Nat := 0
  regs : Table Word := []

/-- The operands of MMA and MMAS are valid (R238, R247, R249): the accumulator t, na panels of A from tile TA on, two to a
tile, and nb panels of B from weight slot WS on exist, the accumulator is none of the tiles of A, and K is 1 to 4096. -/
def Sys2Proof.Machine.mmaValid (m : MatrixSeq) (t d na nb : Nat) : Prop :=
  d = d % 32 + 256 * (d / 256 % 32) ∧ 1 ≤ tget m.cfg 0 ∧ tget m.cfg 0 ≤ 4096 ∧ t < m.ntiles ∧
  d % 32 + (na + 1) / 2 ≤ m.ntiles ∧ d / 256 % 32 + nb ≤ m.nslots ∧ (t < d % 32 ∨ d % 32 + (na + 1) / 2 ≤ t)

/-- The tile instructions with the configuration registers as they stand (R239): 0 K, 1 format, 2 and 3 handle and stride
of A, 4 handle of B, 5 and 6 handle and stride of C. -/
noncomputable def Sys2Proof.Machine.tileRows (x : Ctx) (s : State) (t : BitVec 5) (a b : BitVec 7) (sel : BitVec 2)
    (z : BitVec 1) (f : BitVec 3) : List TileRow :=
  let m := x.c.matrix
  let cfg := fun (i : Nat) => tget m.cfg i
  let d := (lowBits 32 (src1 x a (lowest x.act))).toNat
  let p := panelDepth f.toNat
  let k := cfg 0
  let one : OpInfo := { uses := [(2, a, .src false false)], uniform := true }
  let scales := tileRegs x (b.toNat + sel.toNat) (scaleRegs (cfg 1))
  let index := tileRegs x b.toNat 1
  let na := (k + 2 * p - 1) / (2 * p)
  [ { instr := .mma t a z f, info := one, valid := mmaValid m t.toNat d ((k + p - 1) / p) ((k + p - 1) / p),
      op := 0, unit := t.toNat, z := z == 1, fmt := f.toNat, val := d, kcnt := k },
    { instr := .mmas t a b sel z f,
      info := { uses := [(2, a, .src false false), (3, b, .group 1 1)], cross := true, uniform := true },
      valid := mmaValid m t.toNat d na ((k + p - 1) / p) ∧
        ∀ q r, q < na → r < 64 → sparsePattern index sel.toNat q r / 4 > sparsePattern index sel.toNat q r % 4,
      op := 1, unit := t.toNat, z := z == 1, fmt := f.toNat, sel := sel.toNat, val := d, kcnt := k, regs := index },
    { instr := .mlda t a b sel z, info := { loadTileInfo a b sel s with uniform := true },
      valid := cfg 2 ≠ 1 ∧ cfg 3 ≠ 0 ∧ cfg 3 % 16 = 0 ∧ t.toNat < m.ntiles,
      op := 2, unit := t.toNat, z := z == 1, fmt := cfg 1, val := d, handle := cfg 2, stride := cfg 3, regs := scales },
    { instr := .mldw t a b sel, info := { loadTileInfo a b sel s with uniform := true },
      valid := cfg 4 ≠ 1 ∧ t.toNat < m.nslots,
      op := 3, unit := t.toNat, fmt := cfg 1, val := d, handle := cfg 4, regs := scales },
    { instr := .macz t, info := { uniform := true }, valid := t.toNat < m.ntiles, op := 4, unit := t.toNat },
    { instr := .macld t a, info := one, valid := cfg 5 ≠ 1 ∧ cfg 6 % 16 = 0 ∧ 256 ≤ cfg 6 ∧ t.toNat < m.ntiles,
      op := 5, unit := t.toNat, val := d, handle := cfg 5, stride := cfg 6 },
    { instr := .macst t a, info := one, valid := cfg 5 ≠ 1 ∧ cfg 6 % 16 = 0 ∧ 256 ≤ cfg 6 ∧ t.toNat < m.ntiles,
      op := 6, unit := t.toNat, val := d, handle := cfg 5, stride := cfg 6 },
    { instr := .mrow t a, info := one,
      valid := d = d % 128 + 256 * (d / 256 % 64) ∧ 1 ≤ d % 128 ∧ d / 256 % 64 + d % 128 ≤ 64 ∧ t.toNat < m.ntiles,
      op := 7, unit := t.toNat, val := d },
    { instr := .mcfg t a, info := { uses := [(1, t.setWidth 7, .config), (2, a, .src false false)], uniform := true },
      valid := d < 2 ^ cfgBits t.toNat, op := 8, unit := t.toNat, val := d } ]

/-- R235, R238 to R241, R245 to R251: a tile instruction whose operands pass its checks, with room in the tile queue,
completes at issue: it stands last in the consist's tile queue with its operands, the configuration and the scale or index
registers as they are now, and its number is given out; an MROW counts as pending, and waits for the row queue at once when
the tile queue was empty (R250); MCFG writes its register. Nothing else of the consist changes, and no tile, weight slot or
byte of memory. While the queue holds 8 it waits. -/
def Obligations.TileInstructionsQueue : Prop :=
  ∀ (s : State) (x : Ctx) (t : BitVec 5) (a b : BitVec 7) (sel : BitVec 2) (z : BitVec 1) (f : BitVec 3),
    ∀ r ∈ tileRows x s t a b sel z f, ∀ w, encode r.instr = some w → Issues w r.info s x → x.act ≠ 0 →
      (8 ≤ x.c.matrix.queue.length → exec r.instr s = .next (stall x s)) ∧
      (x.c.matrix.queue.length < 8 → r.valid → ∃ t op,
        exec r.instr s = .next t ∧
        (op.op, op.ipc, op.unit, op.z, op.fmt, op.sel) = (r.op, x.pc, r.unit, r.z, r.fmt, r.sel) ∧
        (op.val, op.kcnt, op.handle, op.stride, op.regs, op.lanes)
          = (BitVec.ofNat 64 r.val, r.kcnt, BitVec.ofNat 6 r.handle, r.stride, r.regs, x.act) ∧
        let u := s.modConsist x.key (fun c => { c with matrix := { c.matrix with
          queue := c.matrix.queue ++ [op], issued := c.matrix.issued + 1,
          rowsPending := if r.op = 7 then c.matrix.rowsPending + 1 else c.matrix.rowsPending,
          cfg := if r.op = 8 then tset c.matrix.cfg r.unit r.val else c.matrix.cfg } })
        Completed r.info x (if x.c.matrix.queue = [] then u.queueRows x.key else u) t)

/-- R252, R253: MSYNC goes on once every tile instruction that its consist had issued when it began to wait is complete,
and waits for them before, with that number kept. MPOP takes the oldest entry of the consist out of its row queue and gives
each active lane that is no helper its element, unchanged; MPOPB takes two, segments 0 and 1 of a row, and gives lane L
elements 2L and 2L + 1 rounded to BF16. With no entry and no MROW pending they take MATRIX with reason 0x0A. -/
def Obligations.RowPopsDeliver : Prop :=
  ∀ (s : State) (x : Ctx) (d : BitVec 7) (w : BitVec 1), x.act ≠ 0 →
    let k := coreOf x.key
    let at1 : OpInfo := { uses := [(1, d, .dst false true true)], quiet := true }
    let rows := fun (u : State) => (u.core k).rowsOf x.key
    let y : Ctx := { x with act := x.act &&& ~~~x.c.hmask }
    let half := fun (v : Word) => (roundNum .bf16 plainRN (Fmt.f32.read false v.toNat)).1
    (Issues (packTil 0x52 0 0x78 0x78 0 0 6) {} s x →
      (x.syncTarget ≤ x.c.matrix.counter.toNat → ∃ t, exec .msync s = .next t ∧
        Completed {} x (s.modConsist x.key (fun c => { c with matrix := c.matrix.unsync x.run })) t) ∧
      (x.c.matrix.counter.toNat < x.syncTarget → ∃ t c, exec .msync s = .next t ∧ s.Keeps x.key t ∧ t.consist? x.key = some c ∧
        c.vregs = x.c.vregs ∧ c.aregs = x.c.aregs ∧ c.sregs = x.c.sregs ∧ (c.strm x.st).pc = (x.c.strm x.st).pc ∧
        (c.strm x.st).stalled = true ∧ (x.pc, x.run, x.syncTarget) ∈ c.matrix.syncs)) ∧
    (∀ (e : RowEntry) (before rest : List RowEntry), rows s = before ++ e :: rest → (∀ q ∈ before, q.consist ≠ x.key) →
      e.consist = x.key →
      (Issues (packReg 0x53 d 0x78 0x78 w 0) at1 s x →
        ∃ t, exec (.mpop d w) s = .next t ∧ WroteHere at1 y d false (w == 1) (fun l => (e.vals.getD l 0).setWidth 64) t ∧
          rows t = before ++ rest ∧ (∀ j, t.byte j = s.byte j)) ∧
      (Issues (packReg 0x53 d 0x78 0x78 w 1) at1 s x →
        (e.seg = 1 → exec (.mpopb d w) s = .next (trapAt x false .matrix (matrixValue x.pc 0 0x0B) (switchIn x s))) ∧
        (∀ e2 more, e.seg ≠ 1 → rest = e2 :: more → e2.consist = x.key →
          ∃ t, exec (.mpopb d w) s = .next t ∧
            WroteHere at1 y d false (w == 1) (fun l => BitVec.ofNat 64 (half ((e.vals ++ e2.vals).getD (2 * l) 0)
              + 65536 * half ((e.vals ++ e2.vals).getD (2 * l + 1) 0))) t ∧
            rows t = before ++ more ∧ (∀ j, t.byte j = s.byte j)))) ∧
    (∀ e ∈ ([(.mpop d w, 0), (.mpopb d w, 1)] : List (Instr × BitVec 3)),
      Issues (packReg 0x53 d 0x78 0x78 w e.2) at1 s x → (∀ e ∈ rows s, e.consist ≠ x.key) → x.c.matrix.rowsPending = 0 →
      exec e.1 s = .next (trapAt x false .matrix (matrixValue x.pc 0 0x0A) (switchIn x s)))

/-- The texels that the requests of the active lanes read, when nothing is in the way (R296 to R302): the descriptors `ds`
of the lanes, all valid, and the four values of each lane. -/
structure Sys2Proof.Machine.Samples (f : TexForm) (x : Ctx) (s t : State) (a b : BitVec 7) (ds : List (Nat × BitVec 512))
    (vals : List (Nat × List Word)) : Prop where
  active : x.act ≠ 0
  valid : ∀ e ∈ ds, texValid e.2 = true
  same : t.consist? x.key = some x.c
  read : ∃ v rs u done, readDescriptors x b (lanesOf x.act) s = .val ds v ∧
    reachTexels x (ds.map (fun (d : Nat × BitVec 512) => TexReq.mk d.1 d.2 (requestTaps d.2 (texLambda x f a d.2 d.1)
      (texReg x a 2 d.1) (texCoord (texReg x a 0 d.1)) (texCoord (texReg x a 1 d.1))))) v = .val rs u ∧
    readTexels x rs u = .val done t ∧ done.map (fun r => (r.lane, r.vals)) = vals

/-- R85, R299 to R302: a texture instruction whose descriptors are valid and whose texels can be read completes: four slots
of the load queue are reserved for each active lane, and a texture result with the lane's four values is on its way, in
ascending order. No register and no byte of memory changes. TEXQ gives width, height, depth or layers, and levels of the
level asked for, or zeros beyond the last. -/
def Obligations.TextureRequestsLeave : Prop :=
  ∀ (s : State) (x : Ctx) (a b : BitVec 7),
    let sent := fun (o : OpInfo) (t : State) (vals : List (Nat × List Word)) => ∃ c rels, t.consist? x.key = some c ∧
      ({ x.c with texRels := rels } : Consist).Keeps c ∧
      c.vregs = x.c.vregs ∧ c.aregs = x.c.aregs ∧ c.sregs = x.c.sregs ∧ c.csw = x.c.csw ∧
      c.strm x.st.other = x.c.strm x.st.other ∧ StreamSt.Passed o x.run (x.c.strm x.st) (c.strm x.st) ∧
      (∃ new, c.inflight = x.c.inflight ++ new ∧ new.map (fun f => (f.lane, f.vals)) = vals ∧
        ∀ f ∈ new, f.kind = .texture ∧ f.strm = .c ∧ ∃ id, f.dest = .queue 0x7A false id) ∧
      QueuesMove o x (slotsFor x true 4) (fun e _ => e.filled = false) x.c c
    (∀ r ∈ ([(.texs a b, 0, .sample, 4, true), (.texl a b, 1, .level, 4, false), (.texg a b, 2, .gradient, 8, false)] :
        List (Instr × BitVec 3 × TexForm × Nat × Bool)),
      let o : OpInfo := { uses := [(1, 0x7A, .lqFour), (2, a, .group 4 r.2.2.2.1), (3, b, .group 1 1)], cross := r.2.2.2.2 }
      Issues (packReg 0x48 0x78 a b 0 r.2.1) o s x →
      ∀ u ds vals, Samples r.2.2.1 x s u a b ds vals →
        ∃ t, exec r.1 s = .next t ∧ sent o t vals ∧ (∀ j, t.byte j = u.byte j)) ∧
    (let o : OpInfo := { uses := [(1, 0x7A, .lqFour), (2, a, .group 1 1), (3, b, .group 1 1)] }
     Issues (packReg 0x48 0x78 a b 0 3) o s x →
      ∀ v ds, x.act ≠ 0 → readDescriptors x b (lanesOf x.act) s = .val ds v → v.consist? x.key = some x.c →
        (∀ e ∈ ds, texValid e.2 = true) →
        ∃ t, exec (.texq a b) s = .next t ∧ (∀ j, t.byte j = v.byte j) ∧ sent o t
          (ds.map (fun e =>
            let j := (src1 x a e.1).toNat
            (e.1, if texField e.2 115 112 < j then [0, 0, 0, 0]
              else [BitVec.ofNat 32 (max 1 ((texField e.2 86 73 + 1) / 2 ^ j)), BitVec.ofNat 32 (max 1 ((texField e.2 100 87 + 1) / 2 ^ j)),
                    BitVec.ofNat 32 (texField e.2 111 101 + 1), BitVec.ofNat 32 (texField e.2 115 112 + 1)]))))

/-- Context x has completed with no result; its consist is b but for the queues its operands name. -/
def Sys2Proof.Machine.PassedWith (o : OpInfo) (x : Ctx) (b : Consist) (t : State) : Prop :=
  ∃ u, u.consist? x.key = some b ∧ Completed o x u t

/-- R288 to R290, R293, R294: on a resident core, RBEGIN of a valid descriptor with a FREE slot and a buffer large enough
opens the pass and gives its identifier; RDRAW of a valid record adds a draw to an OPEN pass of its session on its station
and gives its number; RFLUSH closes the pass to draws and gives the number. Other slots of the station are as they were.
RDRAW and RFLUSH wait while a write of the consist is in the side log. An identifier of no such pass gives failure 3. -/
def Obligations.RasterPassesOpenDrawFlush : Prop :=
  ∀ (s v : State) (x : Ctx) (d a b : BitVec 7) (w : BitVec 1) (y : Nat),
    let m := lowest x.act
    let at1 := (src1 x a m).toNat
    let g := (stationOf x.key).getD 0
    let one : OpInfo := { uses := [(1, d, .dst false true false), (2, a, .src false false)], uniform := true }
    let two : OpInfo := { uses := [(1, d, .dst false true false), (2, a, .src false false), (3, b, .src false false)], uniform := true }
    let passes := fun (u : State) (j : Nat) => tget (u.station g).passes j
    x.act ≠ 0 → isLine x.key = false → v.consist? x.key = some x.c →
    (∀ j, Issues (packReg 0x49 d a 0x78 w 0) one s x → at1 % 64 = 0 →
      (x.issuer s).read at1 64 s = .val y v →
      let desc := BitVec.ofNat 512 y
      passValid desc = true → 64 + 8 * passTiles desc ≤ passField desc 287 256 → v.freePass g = some j →
      ∃ t p, exec (.rbegin d a w) s = .next t ∧
        WroteHere one x d false (w == 1) (fun _ => BitVec.ofNat 64 (0x4000 + g % 8 * 512 + j)) t ∧ passes t j = p ∧
        (p.state, p.sess, p.desc, p.draws, p.binned, p.used) = (1, x.c.sess, desc, [], [], 0) ∧
        p.counter = p.numbered ∧ p.counter = (if (passes v j).sess = x.c.sess then (passes v j).counter else 0) ∧
        (∀ k, k ≠ j → passes t k = passes v k) ∧ ∀ k, t.byte k = v.byte k) ∧
    (∀ j, Issues (packReg 0x49 d a b w 1) two s x → at1 % 32 = 0 →
      (x.issuer s).read at1 32 s = .val y v →
      drawValid (BitVec.ofNat 256 y) = true → v.logged x.key = false →
      j < 512 → (src2 x a b m).toNat = 0x4000 + g % 8 * 512 + j → (passes v j).state = 1 → (passes v j).sess = x.c.sess →
      let p := passes v j
      ∃ t, exec (.rdraw d a b w) s = .next t ∧ WroteHere two x d false (w == 1) (fun _ => p.numbered + 1) t ∧
        passes t j = { p with numbered := p.numbered + 1, draws := p.draws ++ [(BitVec.ofNat 256 y, x.key, some x.c.forHandles)] } ∧
        (∀ k, k ≠ j → passes t k = passes v k) ∧ ∀ k, t.byte k = v.byte k) ∧
    (∀ j, Issues (packReg 0x49 d a 0x78 w 2) one s x → j < 512 → at1 = 0x4000 + g % 8 * 512 + j →
      (passes s j).state = 1 → (passes s j).sess = x.c.sess →
      let p := passes s j
      (s.logged x.key = true → exec (.rflush d a w) s = .next (stall x s)) ∧
      (s.logged x.key = false → ∃ t, exec (.rflush d a w) s = .next t ∧
        WroteHere one x d false (w == 1) (fun _ => p.numbered + 1) t ∧
        passes t j = { p with numbered := p.numbered + 1, state := 2, flusher := some (x.key, x.c.uid) } ∧
        (t.station g).flushed = (s.station g).flushed ++ [j] ∧
        (∀ k, k ≠ j → passes t k = passes s k) ∧ ∀ k, t.byte k = s.byte k)) ∧
    (Issues (packReg 0x49 d a 0x78 w 2) one s x → x.openPass at1 s = none →
      ∃ t, exec (.rflush d a w) s = .next t ∧
        Wrote one x d false (w == 1) (fun _ => 0x8000000000000003#64) x.c.csw s t)

/-- The Freight instructions, by the form their operation has (R261). -/
noncomputable def Sys2Proof.Machine.freightForms (k : BitVec 3) (a b : BitVec 7) : List (Instr × Nat) :=
  [(.frcopy k a b, 0), (.frfill k a b, 1), (.frgath k a b, 2), (.frscat k a b, 3), (.frred k a b, 4), (.frpf k a b, 5)]

/-- R261 to R263: a Freight instruction of a valid layout of the session's context, with a FREE token, for a slice that is
not there yet, completes: the token is BUSY; the slice is added to the convoy's assembly, with FILL of slice 0; and the
last slice of the layout takes the assembly away and makes the context accept an operation with the next number. No
register and no byte of memory changes. A BUSY token takes TOKEN. -/
def Obligations.FreightSlicesArrive : Prop :=
  ∀ (s : State) (x : Ctx) (k : BitVec 3) (a b : BitVec 7), ∀ e ∈ freightForms k a b,
    let copy := src1 x a (lowest x.act)
    let word := src2 x a b (lowest x.act)
    let ctx := (copy.extractLsb' 16 4).toNat
    let lh := (copy.extractLsb' 0 16).toNat
    let slice := (word.extractLsb' 0 5).toNat
    let f := tget (s.session x.c.sess).freight ctx
    let r := tget f.layouts lh
    ∀ v, s.convoy? x.c.convoy = some v →
      let old := tget v.assemblies ctx
      let slices := (slice, x.key, k.toNat) :: old.slices
      let fill := if slice = 0 then word.extractLsb' 32 32 else old.fill
      Issues (packCpy 0x54 k a b (BitVec.ofNat 3 e.2)) { uses := [(2, a, .src false false), (3, b, .src false false)], uniform := true } s x →
      x.act ≠ 0 → copy.extractLsb' 20 44 = 0 → layValid r = true → layField r 455 448 = x.c.sess → layField r 447 444 = ctx →
      (∀ h ∈ layHandles e.2 r, h ≠ 1) →
      (e.2 = 4 → layField r 438 437 ≤ 2 ∧ layBytes r = 4 ∨ layField r 438 437 = 3 ∧ layBytes r = 8) →
      (x.c.tokens.getLsbD k.toNat = true →
        exec e.1 s = .next (trapAt x false .token (k.setWidth 64) (switchIn x s))) ∧
      (x.c.tokens.getLsbD k.toNat = false → f.halted = false → slice < laySlices r → word.extractLsb' 5 27 = 0 →
        (old.slices ≠ [] → old.form = e.2 ∧ old.layout = lh) → (∀ q ∈ old.slices, q.1 ≠ slice) →
        ∃ t y v', exec e.1 s = .next t ∧ PassedWith { uses := [(2, a, .src false false), (3, b, .src false false)], uniform := true } x y t ∧ (∀ j, t.byte j = s.byte j) ∧
          y = { x.c with tokens := x.c.tokens ||| (1#8 <<< k.toNat), tokenRels := y.tokenRels, tokenAt := y.tokenAt } ∧
          t.convoy? x.c.convoy = some v' ∧
          (slices.length < laySlices r →
            (∃ q, tget v'.assemblies ctx = q ∧ (q.form, q.layout, q.fill, q.slices) = (e.2, lh, fill, slices)) ∧
            tget (t.session x.c.sess).freight ctx = f) ∧
          (laySlices r ≤ slices.length →
            tget v'.assemblies ctx = default ∧
            ∃ q op, tget (t.session x.c.sess).freight ctx = { f with accepted := q, queue := f.queue ++ [op] } ∧
              q = f.accepted + 1 ∧ (op.number, op.form, op.layout, op.fill, op.convoy) = (q, e.2, r, fill, x.c.convoy) ∧
              op.tokens = slices.map (fun q => q.2)))

/-- The convoys of a launch and of its graph, phase and job are n more, and the session's other launches and levels are as
they were (R276). -/
structure Sys2Proof.Machine.RaisedBy (y z : Session) (slot : Nat) (l : Launch) (n : Nat) : Prop where
  launch : tget z.launches slot = l
  launches : ∀ j, j ≠ slot → tget z.launches j = tget y.launches j
  graphs : ∀ j, (tget z.graphs j).count = (tget y.graphs j).count + (if j = (hdrLevels l.header).1 then BitVec.ofNat 64 n else 0)
  phases : ∀ j, (tget z.phases j).count = (tget y.phases j).count + (if j = (hdrLevels l.header).2.1 then BitVec.ofNat 64 n else 0)
  jobs : ∀ j, (tget z.jobs j).count = (tget y.jobs j).count + (if j = (hdrLevels l.header).2.2 then BitVec.ofNat 64 n else 0)

/-- R274, R276, R281, R282: SPAWN, ENQ and LAUNCH with valid operands and a slot in the siding complete: the waybill stands
last in the siding of its rank, the counts of the launch and of its levels are raised by its convoys, and D receives the
number of the first convoy, the launch slot, or the new launch's slot. With no slot in the siding they wait, and in
maintenance mode D receives 2^63. Where LAUNCH arms no record, no byte of memory changes. -/
def Obligations.EnqueuesComplete : Prop :=
  ∀ (s v : State) (x : Ctx) (d a b : BitVec 7) (w : BitVec 1) (y : Nat) (res : Option Nat),
    let m := lowest x.act
    let p := (src1 x a m).toNat
    let q := (src2 x a b m).toNat
    let info : OpInfo := { uses := [(1, d, .dst false true false), (2, a, .src false false), (3, b, .src false false)], uniform := true }
    let e := x.issuer s
    let l := x.launch s
    let rank := (s.convoyOf x.c).rank
    let slot := (s.convoyOf x.c).slot
    let queued := fun (t : State) (r : Nat) (c : Queued) => ∃ k, tget (t.session x.c.sess).sidings r
      = tget (v.session x.c.sess).sidings r ++ [{ c with clk := k }]
    x.act ≠ 0 → s.logged x.key = false → v.consist? x.key = some x.c →
    (Issues (packReg 0x56 d a b w 0) info s x → q ≠ 0 → q + l.next ≤ 2 ^ 32 → q % hdrGroup l.header = 0 → v = s →
      (s.sidingSpace x.c.sess rank (some x.c.convoy) = some res →
        ∃ t, exec (.spawn d a b w) s = .next t ∧ WroteHere info x d false (w == 1) (fun _ => BitVec.ofNat 64 l.next) t ∧
          RaisedBy (s.session x.c.sess) (t.session x.c.sess) slot
            { l with count := l.count + BitVec.ofNat 64 q, next := l.next + q } q ∧
          queued t rank { bits := mkWaybill l.hdrAddr (BitVec.ofNat 64 p) 0 q l.next, slot := slot, reserved := res, clk := [] } ∧
          ∀ j, t.byte j = s.byte j) ∧
      (s.sidingSpace x.c.sess rank (some x.c.convoy) = none →
        ((s.session x.c.sess).maintenance = false → exec (.spawn d a b w) s = .next (stall x s)) ∧
        ((s.session x.c.sess).maintenance = true → ∃ t, exec (.spawn d a b w) s = .next t ∧
          Wrote info x d false (w == 1) (fun _ => 0x8000000000000000#64) x.c.csw s t))) ∧
    (Issues (packReg 0x56 d a b w 2) info s x → q ≤ 15 → e.rank ≤ q → p % 32 = 0 → e.read p 32 s = .val y v →
      let wb := BitVec.ofNat 256 y
      let l := x.launch v
      wbValid wb = true → wbHdr wb = (x.launch s).hdrAddr → wbJoinp wb = 0 → wbCount wb % hdrGroup (x.launch s).header = 0 →
      v.sidingSpace x.c.sess q (some x.c.convoy) = some res →
      ∃ t, exec (.enq d a b w) s = .next t ∧
        WroteHere info x d false (w == 1) (fun _ => BitVec.ofNat 64 (v.convoyOf x.c).slot) t ∧
        RaisedBy (v.session x.c.sess) (t.session x.c.sess) (v.convoyOf x.c).slot
          { l with count := l.count + BitVec.ofNat 64 (wbCount wb), next := max l.next (wbFirst wb + wbCount wb) } (wbCount wb) ∧
        queued t q { bits := wb, slot := (v.convoyOf x.c).slot, reserved := res, clk := [] } ∧ ∀ j, t.byte j = v.byte j) ∧
    (∀ plan new, Issues (packReg 0x56 d a b w 4) info s x → q ≤ 15 → e.rank ≤ q → p % 32 = 0 →
      (e.read p 32 s).bind (fun y z => e.plan (BitVec.ofNat 256 y) q p z) = .val plan v →
      v.freeLaunch x.c.sess = some new → v.sidingSpace x.c.sess q (some x.c.convoy) = some res →
      ∃ t, exec (.launch d a b w) s = .next t ∧ WroteHere info x d false (w == 1) (fun _ => BitVec.ofNat 64 new) t ∧
        (∃ l, tget (t.session x.c.sess).launches new = l ∧ l.count = BitVec.ofNat 64 (wbCount plan.wb) ∧
          (l.cancelled, l.rank, l.sup, l.header, l.hdrAddr, l.joinp, l.args, l.bars)
            = (false, plan.rank, e.sup, plan.hdr.bits, wbHdr plan.wb, wbJoinp plan.wb, plan.hdr.args, plan.hdr.bars) ∧
          l.next = wbFirst plan.wb + wbCount plan.wb ∧
          (plan.arm = none → RaisedBy (v.session x.c.sess) (t.session x.c.sess) new l (wbCount plan.wb) ∧
            ∀ j, t.byte j = v.byte j)) ∧
        queued t plan.rank { bits := plan.wb, slot := new, reserved := res, clk := [] })

/-- R276, R279, R282 to R284: DEQ takes the oldest waybill of a siding, writes it to memory and lowers its launch's count,
or gives 0 on an empty siding; JOIN lowers a record's counter and gives its value, and starts the continuation at 0 unless
a level of it is cancelled; CNTRD gives a level's count; CANCEL of a level with convoys left takes its waybills out of the
sidings, with none there leaves the level CANCELLED with its count, and delivers CANCEL to every running consist of its convoys;
a level with none stays as it is. -/
def Obligations.DispatchesComplete : Prop :=
  ∀ (s v : State) (x : Ctx) (d a b : BitVec 7) (w : BitVec 1),
    let m := lowest x.act
    let p := (src1 x a m).toNat
    let q := (src2 x a b m).toNat
    let info : OpInfo := { uses := [(1, d, .dst false true false), (2, a, .src false false), (3, b, .src false false)], uniform := true }
    let e := x.issuer s
    x.act ≠ 0 → v.consist? x.key = some x.c →
    (Issues (packReg 0x56 d a b w 3) info s x → q ≤ 15 → p % 32 = 0 →
      (tget (s.session x.c.sess).sidings q = [] →
        ∃ t, exec (.deq d a b w) s = .next t ∧ Wrote info x d false (w == 1) (fun _ => 0) x.c.csw s t) ∧
      (∀ z rest ps, tget (s.session x.c.sess).sidings q = z :: rest → e.pieces .write p 32 s = .val ps v →
        v.session x.c.sess = s.session x.c.sess → v.sound → (∀ g ∈ ps, ∃ n, g.spot = .mem n ∧ n + g.len ≤ 2 ^ 40) →
        ∃ t, exec (.deq d a b w) s = .next t ∧ WroteHere info x d false (w == 1) (fun _ => 1) t ∧
          tget (t.session x.c.sess).sidings q = rest ∧
          (tget (t.session x.c.sess).launches z.slot).count
            = (tget (s.session x.c.sess).launches z.slot).count - BitVec.ofNat 64 (wbCount z.bits) ∧
          ∀ j, j < 2 ^ 40 → t.byte j = (ps.filterMap placed).foldl
            (fun mem g => memoryWith mem g.1 g.2.1 (z.bits.toNat / 256 ^ g.2.2)) v.byte j)) ∧
    (∀ j slot res, Issues (packReg 0x56 d a b w 1) info s x → s.logged x.key = false → p % 8 = 0 → p ≠ 0 → q ≠ 0 → q < 2 ^ 32 →
      e.join p q s = .val j v → v.joinRoom e j = some (slot, res) →
      ∃ t, exec (.join d a b w) s = .next t ∧ WroteHere info x d false (w == 1) (fun _ => BitVec.ofNat 64 j.count) t ∧
        (j.cont = none → v.sound →
          (∀ g ∈ j.spot, ∃ n, g.spot = .mem n ∧ n + g.len ≤ 2 ^ 40) →
          ∀ k, k < 2 ^ 40 → t.byte k = (j.spot.filterMap placed).foldl
            (fun mem g => memoryWith mem g.1 g.2.1 ((j.count - q) / 256 ^ g.2.2)) v.byte k) ∧
        (∀ plan ctl place, j.cont = some (plan, ctl, place) →
          v.levelsCancelled x.c.sess (hdrLevels plan.hdr.bits) = false →
          (tget (t.session x.c.sess).launches slot).count = BitVec.ofNat 64 (wbCount plan.wb))) ∧
    (∀ lvl i, levelOf p = some (lvl, i) →
      (Issues (packReg 0x56 d a 0x78 w 6) { uses := [(1, d, .dst false true false), (2, a, .src false false)], uniform := true } s x →
        ∃ t, exec (.cntrd d a w) s = .next t ∧
          Wrote { uses := [(1, d, .dst false true false), (2, a, .src false false)], uniform := true } x d false (w == 1) (fun _ => (s.levelAt x.c.sess lvl i).count) x.c.csw s t) ∧
      (Issues (packReg 0x56 0x78 a 0x78 w 5) { uses := [(2, a, .src false false)], uniform := true } s x →
        ((s.levelAt x.c.sess lvl i).count = 0 → ∃ t, exec (.cancel a w) s = .next t ∧ Completed { uses := [(2, a, .src false false)], uniform := true } x s t) ∧
        ((s.levelAt x.c.sess lvl i).count ≠ 0 → ∃ t c, exec (.cancel a w) s = .next t ∧ PassedWith { uses := [(2, a, .src false false)], uniform := true } x c t ∧
          c = { x.c with async := c.async, tokens := c.tokens } ∧
          ((∀ r, ∀ z ∈ tget (s.session x.c.sess).sidings r,
              withinLevel (tget (s.session x.c.sess).launches z.slot) z.slot lvl i = false) →
            t.levelAt x.c.sess lvl i = { s.levelAt x.c.sess lvl i with cancelled := true }) ∧
          (∀ r, ∀ z ∈ tget (t.session x.c.sess).sidings r,
            withinLevel (tget (s.session x.c.sess).launches z.slot) z.slot lvl i = false) ∧
          (∀ n c, s.convoy? n = some c → c.holds x.c.sess = true →
            withinLevel (tget (s.session x.c.sess).launches c.slot) c.slot lvl i = true →
            ∀ k ∈ c.members, ∀ y, s.consist? k = some y → y.status = .running →
              ∃ z, t.consist? k = some z ∧ { cause := .cancel, value := 0, tokens := 0, held := false } ∈ z.async))))

/-- R306, R307, R314, R317, R318, R322: after scan time has run on for the stream of the band program, LWAIT of a valid
band goes on once the band has settled or its window is open, and then delivers the oldest TMISS event to D, unless D is
z; it waits before. DLREAD gives the lines left to the band's deadline, rounded down, limited to 32 bits in the C-stream;
TMSTAT gives a counter. Nothing else changes. How far scan time runs is the model's choice (assumption log 5). -/
def Sys2Proof.Machine.BandReadsComplete : Prop :=
  ∀ (s : State) (x : Ctx) (d a : BitVec 7) (w : BitVec 1), x.act ≠ 0 →
    let die := (x.band s).1
    let k := (x.band s).2
    let u := s.scan die k
    let str := u.stream die k
    let n := bandNumber x a
    let wait : OpInfo := { uses := [(1, d, .lwait), (2, a, .src true false)], uniform := true }
    let read : OpInfo := { uses := [(1, d, .dst false true false), (2, a, .src true false)], uniform := true }
    let bits : OpInfo := { uses := [(1, d, .dst true true false), (2, a, .src false false)], uniform := true }
    (Issues (packReg 0x58 d a 0x78 w 0) wait s x → str.badBand n = false →
      (str.lastSettled < n ∧ str.t < str.opens n → exec (.lwait d a w) s = .next (stall x u)) ∧
      (n ≤ str.lastSettled ∨ str.opens n ≤ str.t →
        (d = 0x78 → ∃ t, exec (.lwait d a w) s = .next t ∧ Completed wait x u t) ∧
        (d ≠ 0x78 → ∃ t, exec (.lwait d a w) s = .next t ∧
          Wrote wait x d false (w == 1) (fun _ => str.nextEvent.setWidth 64) x.c.csw (u.setStream die k str.popEvent) t))) ∧
    (Issues (packReg 0x58 d a 0x78 w 6) read s x →
      (str.badBand n = false → ∃ t, exec (.dlread d a w) s = .next t ∧
        Wrote read x d false (w == 1) (fun _ =>
          let v := Int.fdiv ((str.deadline n : Int) - str.t) str.lper
          BitVec.ofInt 64 (if x.st = .c then max (-2 ^ 31) (min (2 ^ 31 - 1) v) else v)) x.c.csw u t) ∧
      (str.badBand n = true → exec (.dlread d a w) s = .next (trapAt x false .bounds (boundsValue 6 n) (switchIn x u)))) ∧
    (Issues (packReg 0x58 d a 0x78 w 5) bits s x →
      ∃ t, exec (.tmstat d a w) s = .next t ∧
        Wrote bits x d true (w == 1) (fun _ =>
          let i := (src1 x a (lowest x.act)).toNat % 16
          if i = 6 then BitVec.ofNat 64 (str.t / str.lper) else if i ≤ 10 then tget str.counters i else 0) x.c.csw u t)

/-- R309, R310, R313, R317, R319 to R321, R323: LEMIT and FBSET of a band that has settled give 1, and LEMIT counts it as
late. In the band's window, with the image readable and no operation of the stream in progress, LEMIT and FBSET send the
image to the Terminus, and WARPB sends the reprojected image; the stream then carries out the operation, and the
instruction waits for it. MESRCH sends its searches and goes on: each active lane has two reserved slots in its load queue,
for the vector and the cost of its best offset. No byte of memory changes but bytes corrected as they are read. -/
def Sys2Proof.Machine.BandOperationsAreSent : Prop :=
  ∀ (s v : State) (x : Ctx) (d a b : BitVec 7) (w : BitVec 1), x.act ≠ 0 → v.consist? x.key = some x.c →
    let die := (x.band s).1
    let k := (x.band s).2
    let u := s.scan die k
    let op3 : OpInfo := { uses := [(1, d, .dst false true false), (2, a, .src false false), (3, b, .src false false)], uniform := true }
    let str := u.stream die k
    let m := lowest x.act
    let n := (src1 x a m).toNat
    let word := src1 x b m
    let sent := fun (i : Instr) (kind : Nat) (img : List Byte) (v : State) => ∃ r c o,
      exec i s = .next (stall x r) ∧ r.consist? x.key = some c ∧ c = { x.c with bandOp := 2 } ∧
      (r.stream die k).op = some o ∧ (o.kind, o.consist, o.run, o.act, o.band, o.image) = (kind, x.key, x.run, x.act, n, img) ∧
      ∀ j, r.byte j = v.byte j
    (∀ kind, kind ∈ ([0, 1] : List Nat) →
      let i : Instr := if kind = 0 then .lemit d a b w else .fbset d a b w
      Issues (packReg 0x58 d a b w (if kind = 0 then 1 else 4)) op3 s x →
      str.badBand n = false → ∀ win off, imageWindow x word str.imageSize false u = .val (win, off) v →
      (n ≤ str.lastSettled → ∃ t, exec i s = .next t ∧
        Wrote op3 { x with c := { x.c with bandOp := 0 } } d false (w == 1) (fun _ => 1) x.c.csw
          (if kind = 0 then v.modStream die k (fun y => y.count 2) else v) t) ∧
      (str.lastSettled < n → str.opens n ≤ str.t → v.logged x.key = false → str.op = none →
        ∀ ps r, reach (x.terminusAsker v) .read false win.space (win.pieces v x.c 0 off str.imageSize) v = .val ps r →
        badLine r ps = .good →
        let r := correctPieces (ps.foldl Piece.sample r) ps
        r.consist? x.key = some x.c → sent i kind (ps.flatMap (Piece.bytes r win.space)) r)) ∧
    (Issues (packReg 0x58 0x78 a b 0 3) { uses := [(2, a, .src false false), (3, b, .src false false)], uniform := true } s x →
      str.badBand n = false → ∀ win off, imageWindow x word str.imageSize true u = .val (win, off) v →
      v.logged x.key = false → str.op = none →
      let row := (str.place n).2
      ∀ dst r1 mf r2 hist r3,
        reach (x.terminusAsker v) .write false win.space (win.pieces v x.c 0 off str.imageSize) v = .val dst r1 →
        reach (x.terminusAsker v) .read false 0 (warpField str row) r1 = .val mf r2 →
        reach (x.terminusAsker v) .read false 0 (warpHistory r2 str mf row) r2 = .val hist r3 →
        let r := correctPieces r3 (mf ++ hist)
        r.consist? x.key = some x.c → badLine r3 (mf ++ hist) = .good →
        sent (.warpb a b) 2 (warpImage r str mf hist row) r) ∧
    (let o : OpInfo := { uses := [(1, 0x7A, .lqTwo), (2, a, .src false false), (3, b, .src false false)] }
     Issues (packReg 0x58 0x7A a b 0 2) o s x →
      let g := word.toNat
      let y := s.stream die k
      let bx := fun (l : Nat) => (src1 x a l).toNat % 65536
      let by' := fun (l : Nat) => (src1 x a l).toNat / 65536
      let ps := (lanesOf x.act).flatMap (fun l => searchPieces y (bx l) (by' l) g)
      1 ≤ g → g ≤ 256 → (∀ l ∈ lanesOf x.act, (src1 x a l).toNat < 2 ^ 32 ∧ 8 * bx l + 8 ≤ y.meW.toNat ∧ 8 * by' l + 8 ≤ y.meH.toNat) →
      s.logged x.key = false → y.op = none → (∀ p ∈ ps, p.va + p.len ≤ 2 ^ 60) →
      ∀ qs, reach (x.terminusAsker s) .read false 0 ps s = .val qs v → badLine v qs = .good →
      let r := correctPieces v qs
      r.consist? x.key = some x.c → ∃ t c new, exec (.mesrch a b) s = .next t ∧ t.consist? x.key = some c ∧ x.c.Keeps c ∧ (∀ j, t.byte j = r.byte j) ∧
        c.vregs = x.c.vregs ∧ c.aregs = x.c.aregs ∧ c.sregs = x.c.sregs ∧
        c.strm x.st.other = x.c.strm x.st.other ∧ StreamSt.Passed o x.run (x.c.strm x.st) (c.strm x.st) ∧ c.inflight = x.c.inflight ++ new ∧
        new.map (fun f => (f.lane, f.vals)) = (lanesOf x.act).map (fun l =>
          let e := searchBest r y qs (bx l) (by' l) g
          (l, [BitVec.ofInt 16 e.2.2 ++ BitVec.ofInt 16 e.2.1, BitVec.ofNat 32 e.1])) ∧
        (∀ f ∈ new, f.kind = .search) ∧ ((t.stream die k).op.map (fun o => (o.kind, o.consist))) = some (3, x.key) ∧
        QueuesMove o x (slotsFor x true 2) (fun e _ => e.filled = false) x.c c)

/-- (1) R306, R307, R314, R317, R318, R322: after scan time has run on for the stream of the band program, LWAIT of a
valid band goes on once the band has settled or its window is open, and then delivers the oldest TMISS event to D,
unless D is z; it waits before. DLREAD gives the lines left to the band's deadline, rounded down, limited to 32 bits
in the C-stream; TMSTAT gives a counter. Nothing else changes. How far scan time runs is the model's choice
(assumption log 5). (2) R309, R310, R313, R317, R319 to R321, R323: LEMIT and FBSET of a band that has settled give 1,
and LEMIT counts it as late. In the band's window, with the image readable and no operation of the stream in progress,
LEMIT and FBSET send the image to the Terminus, and WARPB sends the reprojected image; the stream then carries out the
operation, and the instruction waits for it. MESRCH sends its searches and goes on: each active lane has two reserved
slots in its load queue, for the vector and the cost of its best offset. No byte of memory changes but bytes corrected
as they are read. -/
def Obligations.BandReadsAndOperations : Prop := BandReadsComplete ∧ BandOperationsAreSent

/-- R365 to R370: MSEAL and MHARV of a valid range, with room among the session's requests, queue a request with the next
number and give it to D; the first of them goes on at once. With no room, or while a write of the consist is in the side
log, they wait. MQUERY gives the state, SFRAME or PFRAME of a page: bits
[39:24] the references, [19:16] the broken patches, [15:14] COW, [13] SEALED, [12] H, [11] a frame-map entry, [10] a valid
leaf, and 0 where there is none. MRETIRE tells for each frame of a range whether it is retired now, or on the list to be.
An address or a control value outside R365's ranges takes BOUNDS. -/
def Obligations.ManifestInstructionsComplete : Prop :=
  ∀ (s : State) (x : Ctx) (d a b : BitVec 7), x.act ≠ 0 →
    let va := (src1 x a (lowest x.act)).toNat
    let ctl := (src1 x b (lowest x.act)).toNat
    let v := x.c.sess
    let y := s.session v
    let info : OpInfo := { uses := [(1, d, .dst false true false), (2, a, .src false false), (3, b, .src false false)], uniform := true }
    (∀ isSeal : Bool,
      let i : Instr := if isSeal then .mseal d a b else .mharv d a b
      let count := ctl % (if isSeal then 1024 else 2 ^ 20) + 1
      Issues (packReg 0x61 d a b 0 (if isSeal then 0 else 1)) info s x → va % 4096 = 0 →
      ctl < (if isSeal then 2048 else 2 ^ 20) → va + 4096 * count ≤ 2 ^ 60 →
      (y.mReqs.length < 64 → s.logged x.key = false → ∃ t r, exec i s = .next t ∧
        (r.number, r.isSeal, r.va, r.count, r.keep, r.next) = (y.mIssued + 1, isSeal, va, count, isSeal && ctl / 1024 == 1, 0) ∧
        let q := s.setSession v { y with mIssued := y.mIssued + 1, mReqs := y.mReqs ++ [r] }
        Wrote info x d false false (fun _ => BitVec.ofNat 64 (y.mIssued + 1)) x.c.csw
          (if y.mReqs = [] then q.advanceRequests v else q) t) ∧
      (64 ≤ y.mReqs.length ∨ s.logged x.key = true → exec i s = .next (stall x s))) ∧
    (Issues (packReg 0x61 d a b 0 0) info s x → va % 4096 ≠ 0 →
      exec (.mseal d a b) s = .next (trapAt x false .bounds (boundsValue 7 va) (switchIn x s))) ∧
    (Issues (packReg 0x61 d a b 0 2) info s x → va % 4096 = 0 → ctl ≤ 2 → va + 4096 ≤ 2 ^ 60 →
      ∃ t val, exec (.mquery d a b) s = .next t ∧ Wrote info x d false false (fun _ => BitVec.ofNat 64 val) x.c.csw s t ∧
        (∀ l m, s.mappedPage v va = some (l, m) →
          val = if ctl = 1 then m.sframe else if ctl = 2 then m.pframe else
            (if s.namesShared v m then min (tget s.refs m.sframe).ref.toNat 65535 else 0) * 2 ^ 24 + m.mask.toNat * 2 ^ 16
              + leafCow l.bits * 2 ^ 14 + (if m.sealed then 2 ^ 13 else 0) + (if leafHash l.bits then 2 ^ 12 else 0)
              + 2 ^ 11 + 2 ^ 10) ∧
        (s.mappedPage v va = none → val = match s.quietLeaf v va with
          | some l => if ctl = 0 ∧ leafMalformed l.level l.bits = false then
              2 ^ 10 + (if leafHash l.bits then 2 ^ 12 else 0) + leafCow l.bits * 2 ^ 14 else 0
          | none => 0)) ∧
    (Issues (packReg 0x61 d a b 0 3) info s x → ctl < 16 → va + ctl + 1 ≤ 2 ^ 28 →
      ∃ t w bits, exec (.mretire d a b) s = .next t ∧ Wrote info x d false false (fun _ => bits) x.c.csw w t ∧
        w = (List.range (ctl + 1)).foldl (fun (w : State) j => w.retireFrame (va + j)) s ∧
        (∀ j, j ≤ ctl → bits.getLsbD j = (w.frameKind (va + j) == 5) ∧
          bits.getLsbD (16 + j) = (w.die (frameDie (va + j))).retire.contains (va + j)) ∧
        ∀ j, s.frameKind (va + j) = 0 → j ≤ ctl → w.frameKind (va + j) = 5)

/-! ## What happens beside the instructions -/

/-- A result has landed (R32, R85, R138, R186): its lane's register and latch, or the slots it reserved, hold its words, and
no other lane's. -/
structure Sys2Proof.Machine.Landed (f : Inflight) (c c' : Consist) : Prop where
  keeps : c.Keeps c'
  inflight : c'.inflight = c.inflight.erase f
  registers : ∀ code wide, f.dest = .reg code wide true →
    (f.strm = .c → ∀ n, codeOf .c code = .v n → ∀ m l, l < 32 → c'.v m l =
      if l = f.lane ∧ m = n then (pairOf f.vals).setWidth 32
      else if l = f.lane ∧ wide = true ∧ m = n + 1 then (pairOf f.vals).extractLsb' 32 32 else c.v m l) ∧
    (f.strm = .a → wide = false → ∀ n, codeOf .a code = .a n → ∀ m l, l < 32 → tget c'.aregs (32 * m + l) =
      if l = f.lane ∧ m = n then pairOf f.vals else tget c.aregs (32 * m + l))
  slots : ∀ code latch id q, f.dest = .queue code latch id → writeQueue f.strm (codeOf f.strm code) = some q →
    c'.queueOf q f.lane = fillSlots id f.clk f.vals (c.queueOf q f.lane) ∧
    (∀ l, l ≠ f.lane → c'.queueOf q l = c.queueOf q l) ∧ c'.vregs = c.vregs ∧ c'.aregs = c.aregs

/-- R85, R89, R92, R96, R97, R104, R138, R302: what happens to a consist between its instructions, where its condition
holds: a load, a texture result or a result of variable latency lands; a queue lock is a QLOCK trap of the locked lanes;
a due run is deferred, or ends every deferral when it was deferred already; the registers of a SIMT core's consist move to
the lower tier and back, and a move leaves every latch invalid; the oldest fault an engine delivered becomes a trap with its
tokens FREE, while a fault of an instruction that the other stream issued before the trap in progress is held until ERET.
Nothing else of the part changes. -/
def Obligations.ConsistEventsTakeEffect : Prop :=
  ∀ (s : State) (k : Nat) (c : Consist), s.consist? k = some c →
    let becomes := fun (i : Instr) (c' : Consist) => ∃ t, exec i s = .next t ∧ s.Keeps k t ∧ t.consist? k = some c'
    (∀ e ∈ ([(.load, fun lane n => .loadDataReturn k lane n), (.texture, fun lane n => .textureResult k lane n),
        (.variable, fun _ n => .variableLatencyComplete k n)] : List (Latency × (Nat → Nat → Instr))),
      ∀ lane n f, lane < 32 → f.lane = lane →
        (c.inflight.filter (fun g => g.kind == e.1 && (e.1 == .variable || g.lane == lane)))[n]? = some f →
        ∃ c', becomes (e.2 lane n) c' ∧ Landed f c c') ∧
    (c.status = .running → c.saved = none → ∀ low rest, (List.range 32).filter c.locked = low :: rest →
      ∃ st mask pc, becomes (.qlockDetect k) (c.deliver .qlock (c.qlockValue low) false st mask pc pc) ∧
        (∀ l, l < 32 → mask.getLsbD l = c.locked l) ∧
        (st = .c ↔ ∀ l, l < 32 → c.locked l = true → (c.alive .a).getLsbD l = false ∨ c.blockOf .c l = .self)) ∧
    (∀ aStream blocked, let st : Strm := if aStream then .a else .c
      let sx := c.strm st
      let run := headRun sx (c.eligible st)
      c.status = .running → c.eligible st &&& ~~~run ≠ 0 → sx.held = false →
      dueDeferral c st run = true ∨ (blocked = true ∧ sx.stalled = true) →
      becomes (.runDeferral k aStream blocked)
        (c.setStrm st { sx with deferred := if c.alive st &&& sx.deferred &&& ~~~run = 0 then sx.deferred ||| run else 0,
                                headCount := 0, headLanes := 0, stalled := false })) ∧
    (isLine k = false → c.status = .running → c.lowTier = false → c.inHold = false → c.idleStrm .a = true → c.idleStrm .c = true →
      becomes (.registerTierMove k)
        { c with lowTier := true, a := { c.a with latchValid := 0 }, c := { c.c with latchValid := 0 } }) ∧
    (c.lowTier = true → becomes (.registerTierRecall k) { c with lowTier := false }) ∧
    (∀ f, c.async.find? (fun f => !(f.held && c.saved.isSome)) = some f → c.parked = false →
      (c.status = .running → c.bandOp = 0 → ∃ st run pc, becomes (.asyncTrapDelivery k)
          (({ c with async := c.async.erase f, tokens := c.tokens &&& ~~~f.tokens } : Consist).deliver
            f.cause f.value true st run pc pc) ∧
        (st = .a ↔ c.alive .a ≠ 0) ∧ run = headRun (c.strm st) (c.eligible st)) ∧
      (c.status = .draining → ∃ c', becomes (.asyncTrapDelivery k) c' ∧
        c'.status = .terminated { trapc := trapcOf f.cause true .a 0, trapv := f.value, trappc := 0 } ∧
        c'.async = c.async.erase f ∧ c'.tokens = c.tokens &&& ~~~f.tokens)) ∧
    (c.saved.isSome = true → (∀ f ∈ c.async, f.held = true) → becomes (.asyncTrapDelivery k) c)

/-- R102, R105, R109, R196, R272, R274 to R276, R283, R285 to R287, R379: an ended consist whose work has drained is
reported and gone, with a trap report and its detail when it was terminated and a HALT record when it executed HALT, and
the last one of a convoy that is alone ends the convoy, lowers its launch's count and reports its FMASKs; a logged write reaches memory, or
its final fault reaches its consist; a core starts the convoys at the head of a siding at the launch's entry points; an
owed JOIN lowers its record; a flip exchanges the banks; a halted core's convoys that leave it are parked; a parked convoy
comes back. A premise that no line holds an error says that no write-back loses one. -/
def Obligations.DispatchEventsTakeEffect : Prop :=
  ∀ (s : State),
    (∀ k c v, s.sound → s.consist? k = some c → s.convoy? c.convoy = some v → c.parked = false → s.drained k c = true →
      (c.status = .draining ∧ c.async = [] ∨ (∃ r, c.status = .terminated r) ∨ ∃ x, c.status = .halted x) →
      ∃ t, exec (.consistExitReport k) s = .next t ∧ t.consist? k = none ∧
        (v.ended + 1 < v.size →
          (∃ y, t.convoy? c.convoy = some y ∧ y.ended = v.ended + 1 ∧ y.members = v.members.filter (fun j => j != k) ∧
            tget y.exitMasks c.ci = c.fmask) ∧
          (∀ r, c.status = .terminated r → (t.queue c.sess).cqTail = (s.queue c.sess).cqTail + 2) ∧
          (∀ x, c.status = .halted x → (t.queue c.sess).cqTail = (s.queue c.sess).cqTail + 1) ∧
          (c.status = .draining → t.queues = s.queues)) ∧
        (v.size ≤ v.ended + 1 → v.train ≤ 1 → v.line = false → t.convoy? c.convoy = none ∧
          (let l := tget (t.session v.sess).launches v.slot
           l.count = (tget (s.session v.sess).launches v.slot).count - 1 ∧
           l.reports = (v.cvid, tset v.exitMasks c.ci c.fmask) :: (tget (s.session v.sess).launches v.slot).reports))) ∧
    (∀ core e rest, (s.core core).log = e :: rest →
      (∀ l u, e.resolve e.writes s = .val l u → ∃ t, exec (.sideLogReplay core) s = .next t ∧
        (t.core core).log = (u.core core).log.drop 1 ∧
        ((∀ p ∈ l, p.2.red = none ∧ p.1 + p.2.size ≤ 2 ^ 40) → u.sound →
          ∀ j, j < 2 ^ 40 → t.byte j = l.foldl (fun mem p => memoryWith mem p.1 p.2.size p.2.data) u.byte j)) ∧
      (∀ u cause v c, e.resolve e.writes s = .out (.trapIn u cause v) → u.consist? e.consist = some c →
        ∃ t c', exec (.sideLogReplay core) s = .next t ∧ (t.core core).log = (u.core core).log.drop 1 ∧
          t.consist? e.consist = some c' ∧ c' = { c with async := c.async ++
            [{ cause := cause, value := v, tokens := 0, held := c.holds .a && !e.handler }] })) ∧
    (∀ core v r q rest places, s.bindSession core = some v → s.nextRank v core = some r →
      tget (s.session v).sidings r = q :: rest → s.placement v core r = some places →
      let l := tget (s.session v).launches q.slot
      let n := places.length
      ∃ t, exec (.convoyExpand core) s = .next t ∧
        tget (t.session v).sidings r = (if wbCount q.bits ≤ n then rest else { q with bits := wbAfter q.bits n } :: rest) ∧
        (∀ j (h : j < n), ∃ y, t.convoy? (s.nextUid + j) = some y ∧
          (y.core, y.sess, y.slot, y.rank, y.members, y.ended) = (places[j].1, v, q.slot, r, places[j].2, 0) ∧
          y.cvid = BitVec.ofNat 32 (wbFirst q.bits + j) ∧
          ∀ k ∈ places[j].2, ∃ c, t.consist? k = some c ∧ c.status = .running ∧ c.sess = v ∧
            c.code = hdrField l.header 59 0 ∧ c.csize = hdrField l.header 95 64 ∧
            ∀ lane, lane < 32 → tget c.a.pc lane = l.header.extractLsb' 96 32 ∧ tget c.c.pc lane = l.header.extractLsb' 128 32)) ∧
    (∀ sess slot j g u launch res, (s.session sess).joins.find? (fun j => j.slot == slot) = some j →
      (s.engineIssuer sess j).join j.record 1 s = .val g u → u.joinRoom (s.engineIssuer sess j) g = some (launch, res) →
      ∃ t, exec (.engineJoin sess slot) s = .next t ∧ (t.session sess).joins = (u.session sess).joins.erase j ∧
        (g.cont = none → u.sound → (∀ p ∈ g.spot, ∃ n, p.spot = .mem n ∧ n + p.len ≤ 2 ^ 40) →
          ∀ k, k < 2 ^ 40 → t.byte k = (g.spot.filterMap placed).foldl
            (fun mem p => memoryWith mem p.1 p.2.1 ((g.count - 1) / 256 ^ p.2.2)) u.byte k)) ∧
    (∀ die, (s.die die).flip = true → (∀ i, i < 64 → (s.core (64 * die + i)).halting = false) →
      ∃ t, exec (.partitionFlip die) s = .next t ∧ (t.die die).active1 = !(s.die die).active1 ∧ (t.die die).flip = false ∧
        (t.die die).activeBank = (s.die die).nextBank ∧
        ∀ i, i < 64 → tget (s.die die).bank0 i ≠ tget (s.die die).bank1 i → s.convoysOn (64 * die + i) ≠ [] →
          (t.core (64 * die + i)).halting = true) ∧
    (∀ core, s.sound → (s.core core).halting = true →
      (∀ k v, (k, v) ∈ s.convoysOn core → s.swappable k v = true ∧ ∀ j ∈ v.trainKeys, ∀ y, s.convoy? j = some y →
        y.parked = false → y.ended < y.size → s.swappable j y = true ∧ (s.core y.core).halting = true) →
      ∃ t, exec (.contextSwap core) s = .next t ∧ (t.core core).halting = false ∧
        ∀ k v, (k, v) ∈ s.convoysOn core → s.coreSession core ≠ some v.sess → ∃ y, t.convoy? k = some y ∧ y.parked = true) ∧
    (∀ core k v rest, s.parkedOn core = k :: rest → s.convoy? k = some v → v.train ≤ 1 → s.resumable v = true →
      ∃ t y, exec (.convoyResume core) s = .next t ∧ t.convoy? k = some y ∧ y.parked = false ∧ y.core = v.core ∧
        (t.core v.core).shadow ≠ some k ∧ k ∉ (t.session v.sess).saveArea ∧ ∀ m ∈ y.members, ∀ c, t.consist? m = some c → c.parked = false)

/-- R340, R341, R344: a probe copies another core's entry into a TLB that has none; a walk fills a TLB, or adds a waiter to
the page's fault; a fault record is written to the ring at the posted count, which advances by one, when the ring has
room; a copy-on-write break copies the patch of the shared frame into the private one and lets its waiters go on. -/
def Obligations.TranslationEventsTakeEffect : Prop :=
  ∀ (s : State),
    (∀ core sess va e, s.tlbHit core sess va = none → s.probe core sess va = some e →
      ∃ t, exec (.tlbProbe core sess va) s = .next t ∧ (t.core core).tlb.head? = some e ∧
        t = { s with cores := t.cores, tick := t.tick } ∧ ∀ k, k ≠ core → t.core k = s.core k) ∧
    (∀ core sess va write u, s.tlbHit core sess va = none → s.walksHeld sess (coreAgent core) = false →
      (∀ e, s.walk (some core) sess va = (.fill e, u) →
        ∃ t, exec (.pageWalk core sess va write) s = .next t ∧ (t.core core).tlb.head? = some e ∧
          t = { u with cores := t.cores, tick := t.tick }) ∧
      (s.walk (some core) sess va = (.pend, u) →
        (∀ f ∈ (u.session sess).faults, f.1 = va / 4096 → f.2.1 ≠ .walk core) →
        ∃ t, exec (.pageWalk core sess va write) s = .next t ∧
          (t.session sess).faults = (u.session sess).faults ++ [(va / 4096, .walk core, write, false)] ∧
          t = { u with sessions := t.sessions, tick := t.tick })) ∧
    (∀ sess va write agent rest, (s.session sess).unposted = (va, write, agent) :: rest →
      let x := s.session sess
      let count := s.word x.frBase 8
      x.frSize ≠ 0 → count - s.word (x.frBase + 8) 8 < x.frSize → x.frBase + 64 + 16 * x.frSize ≤ 2 ^ 40 → count + 1 < 2 ^ 64 →
      s.sound → ∃ t, exec (.faultRecordPost sess) s = .next t ∧ (t.session sess).unposted = rest ∧
        ∀ j, j < 2 ^ 40 → t.byte j = memoryWith (memoryWith s.byte (x.frBase + 64 + 16 * (count % x.frSize)) 16
          ((va + (if write then 2 ^ 61 else 0)) % 2 ^ 64 + agent % 2 ^ 32 * 2 ^ 64)) x.frBase 8 (count + 1) j) ∧
    (∀ sess va l m f u, va / 1024 ∈ (s.session sess).breaks → s.mappedPage sess va = some (l, m) → leafCow l.bits ≠ 1 →
      let g := va / 1024 % 4
      let entry := (s.session sess).fmBase + 16 * entryFrame l.bits
      let src := m.sframe * 4096 + 1024 * g
      let dst := f * 4096 + 1024 * g
      m.mask.getLsbD g = false →
      (if m.mask = 0 then s.allocFrame (s.session sess).home 3 sess else some (m.pframe, s)) = some (f, u) →
      Memory.wf s.mem = true → u.sound → u.lineState src 1024 = .good → src + 1024 ≤ 2 ^ 40 → dst + 1024 ≤ 2 ^ 40 →
      (entry + 16 ≤ dst ∨ dst + 1024 ≤ entry) → (l.addr + 8 ≤ dst ∨ dst + 1024 ≤ l.addr) →
      ∃ t, exec (.cowBreak sess va) s = .next t ∧ (∀ j, j < 1024 → t.byte (dst + j) = u.byte (src + j)) ∧
        va / 1024 ∉ (t.session sess).breaks)

/-- R235 to R237, R246, R250, R251: the oldest tile instruction of a consist that is not parked executes: MACZ leaves its
tile all zeros and touches no memory; a failure is delivered as a trap and empties the queue; an executed instruction
completes, and the class-2 counter advances by one. The row queue goes to the consist whose MROW came to the head
first, of equals the lower slot, once it is free, and MROW then pushes one segment after another of its tile, rows ascending. -/
def Sys2Proof.Machine.TileEventsTakeEffect : Prop :=
  ∀ (s : State) (k : Nat) (c : Consist) (op : TileOp) (rest : List TileOp),
    s.consist? k = some c → c.matrix.queue = op :: rest →
    (c.parked = false → c.matrix.done = false → op.op ≠ 7 →
      let after := fun (k : Clock) => ((c.matrix.ends.take 1).map (fun (e : Nat × Release) => e.2.clk)).foldl Clock.join k
      let b := s.beginOp (after op.clk) (after op.wclk)
      let u := if c.matrix.started then s
        else b.2.modMatrix k (fun m => { m with started := true, thread := b.1, progress := 0 })
      ∀ c0, u.consist? k = some c0 →
      (∀ v z, tileWork (tileCtx k c0 op) u = .ok () v → v.consist? k = some z → ∃ t, exec (.tileExecute k) s = .next t ∧
        t.consist? k = some { z with matrix := { z.matrix with done := true } } ∧ ∀ j, t.byte j = v.byte j) ∧
      (∀ v c' cause value, tileWork (tileCtx k c0 op) u = .fail cause value v → v.consist? k = some c' →
        ∃ t z, exec (.tileExecute k) s = .next t ∧ t.consist? k = some z ∧ z.matrix.queue = [] ∧ z.matrix.syncs = [] ∧
          z.async = c'.async ++ [{ cause := cause, value := value, tokens := 0, held := c'.holds .c && cause != .mmx }] ∧
          z.matrix.tiles = c'.matrix.tiles)) ∧
    (c.parked = false → c.matrix.done = false → op.op = 4 → ∃ t z, exec (.tileExecute k) s = .next t ∧
      t.consist? k = some z ∧ z.matrix.done = true ∧
      (∀ j, tget z.matrix.tiles j = if j = op.unit then .acc [] else tget c.matrix.tiles j) ∧ ∀ j, t.byte j = s.byte j) ∧
    (c.matrix.done = true → ∃ t z, exec (.tileComplete k) s = .next t ∧ t.consist? k = some z ∧
      z.matrix = { c.matrix with queue := rest, started := false, done := false, progress := 0,
                                 counter := c.matrix.counter + 1, ends := z.matrix.ends,
                                 sent := (op.time, op.lanes, engineThread c.matrix.thread) :: c.matrix.sent } ∧
      z = { c with matrix := z.matrix } ∧
      (∀ o more, rest = o :: more → o.op = 7 → ∃ e ∈ (t.core (coreOf k)).rowWait, e.1 = k)) ∧
    (∀ core tk, (k, tk) ∈ (s.core core).rowWait →
      let free := fun (j : Nat) => ((s.core core).ownerOf j = none ∨ (s.core core).ownerOf j = some j) ∧
        ∀ e ∈ (s.core core).rowsOf j, e.consist = j
      free k → (∀ e ∈ (s.core core).rowWait, free e.1 → tk < e.2 ∨ (tk = e.2 ∧ k ≤ e.1)) →
      ∃ t, exec (.rowQueueGrant core) s = .next t ∧ (t.core core).ownerOf k = some k ∧
        (t.core core).rowWait = (s.core core).rowWait.filter (fun e => e.1 != k) ∧
        t = { s with cores := t.cores, tick := t.tick }) ∧
    (∀ e, c.parked = false → op.op = 7 → c.matrix.started = true → c.matrix.done = false →
      (s.core (coreOf k)).ownerOf k = some k → (∀ e ∈ (s.core (coreOf k)).rowWait, e.1 ≠ k) → ((s.core (coreOf k)).rowsOf k).length < 64 →
      tget c.matrix.tiles op.unit = .acc e →
      let i := c.matrix.progress
      let row := op.val.toNat / 256 % 64 + i / 2
      ∃ t z entry, exec (.mrowPush k) s = .next t ∧ (t.core (coreOf k)).rowsOf k = (s.core (coreOf k)).rowsOf k ++ [entry] ∧
        (entry.consist, entry.row, entry.seg) = (k, row, i % 2) ∧
        (∀ l, l < 32 → entry.vals.getD l 0 = tget e (64 * row + 32 * (i % 2) + l)) ∧
        t.consist? k = some z ∧ z.matrix.progress = i + 1 ∧
        (z.matrix.done = true ↔ 2 * (op.val.toNat % 128) ≤ i + 1))

/-- R258, R264, R268, R269: the oldest operation of a Freight context runs through its units; a complete one leaves the
queue, the context's counter takes its number and its tokens are FREE; a failure halts the context, empties it, and gives
the numbers from the failed one again; an assembly of a convoy that has come to its end is dropped. -/
def Sys2Proof.Machine.FreightEventsTakeEffect : Prop :=
  ∀ (s : State) (v ctx : Nat),
    let f := tget (s.session v).freight ctx
    (∀ op rest, f.queue = op :: rest → f.written = false → f.failure = none → f.halted = false →
      let after := fun (k : Clock) => ((f.ends.take 1).map (fun (e : Nat × Release) => e.2.clk)).foldl Clock.join k
      let b := s.beginOp (after op.clk) (after op.wclk)
      let u := if f.started then s else b.2.modFreight v ctx (fun f => { f with started := true, thread := b.1, progress := 0 })
      let g := tget (u.session v).freight ctx
      ∀ key c w, (op.tokens.map (fun e => e.1)).find? (fun k => (u.consist? k).isSome) = some key → u.consist? key = some c →
        (FreightRun.mk c op g.thread (freightAgent u v ctx)).go ctx (op.units - g.progress) g.progress u = .ok () w →
        ∃ t, exec (.freightOperationStart v ctx) s = .next t ∧ (tget (t.session v).freight ctx).written = true ∧
          ∀ j, t.byte j = w.byte j) ∧
    (∀ op rest, f.queue = op :: rest → f.written = true → ∃ t, exec (.freightOperationComplete v ctx) s = .next t ∧
      (tget (t.session v).freight ctx).queue = rest ∧
      (tget (t.session v).freight ctx).counter = BitVec.ofNat 64 op.number ∧
      (∀ j, t.byte j = s.byte j) ∧
      ∀ e ∈ op.tokens, e.2 < 8 → ∀ c, s.consist? e.1 = some c → ∃ z, t.consist? e.1 = some z ∧ z.tokens.getLsbD e.2 = false ∧
        z = { c with tokens := z.tokens, tokenRels := z.tokenRels, freightRels := z.freightRels }) ∧
    (∀ op rest x, f.queue = op :: rest → f.failure = some x → ∃ t, exec (.freightFault v ctx) s = .next t ∧
      (let g := tget (t.session v).freight ctx
       g.halted = true ∧ g.queue = [] ∧ g.accepted = op.number - 1 ∧ g.counter = f.counter) ∧
      (∀ j, t.byte j = s.byte j) ∧
      ∀ y, s.convoy? op.convoy = some y → ∀ k ∈ y.members, ∀ c, s.consist? k = some c →
        ∃ z, t.consist? k = some z ∧ ∃ a ∈ z.async, a.cause = .freight ∧ a.value = x) ∧
    (∀ conv y, s.convoy? conv = some y → (tget y.assemblies ctx).slices ≠ [] → (∀ k ∈ y.members, s.atExit k = true) →
      ∃ t z, exec (.freightAssemblyAbandon conv ctx) s = .next t ∧ t.convoy? conv = some z ∧
        tget z.assemblies ctx = default ∧ z.scratch = y.scratch ∧ ∀ j, t.byte j = s.byte j)

/-- R288, R291, R292, R295: a station bins the draws of a pass; a flushed pass whose draws are binned renders and its slot
is FREE with the number of its RFLUSH; a failed pass is FREE and its fault goes to the consist of its RFLUSH; an OPEN pass
is discarded once its launch has ended. -/
def Sys2Proof.Machine.RasterEventsTakeEffect : Prop :=
  ∀ (s : State) (g : Nat),
    let slot := fun (t : State) (j : Nat) => tget (t.station g).passes j
    let ready := (s.station g).passes.filter (fun (e : Nat × RasterPass) => e.2.state != 0 && e.2.draws != [] && e.2.failure.isNone)
    (∀ j p d key o rest u, ready[s.tick % ready.length]? = some (j, p) → p.draws = (d, key, o) :: rest →
      binDraw g j (drawField d 63 32) (s.modPass g j (fun p => { p with drawer := o.map (fun z => (key, z.uid)) })) = .ok () u →
      ∃ t, exec (.rasterDrawBin g) s = .next t ∧ slot t j = slot u j ∧ ∀ k, t.byte k = u.byte k) ∧
    (∀ j more u, (s.station g).flushed = j :: more → (slot s j).draws = [] → (slot s j).failure = none →
      let p := slot s j
      renderPass g j ((List.range (passTiles p.desc)).filter (fun t => tget p.tilesDone t == 0 || p.holding.contains t)) s
        = .ok () u →
      ∃ t, exec (.rasterPassComplete g) s = .next t ∧ (slot t j).state = 0 ∧ (slot t j).counter = p.numbered ∧
        (slot t j).sess = (slot u j).sess ∧ (∃ r, (slot t j).ends = addEnd p.ends (p.counter.toNat + 1) r) ∧ (∀ k, t.byte k = u.byte k) ∧ j ∉ (t.station g).flushed) ∧
    (∀ j p cause v key c, (s.station g).passes.find? (fun (e : Nat × RasterPass) => e.2.failure.isSome) = some (j, p) →
      p.failure = some (cause, v) → p.flusher = some (key, c.uid) → s.consist? key = some c →
      ∃ t z, exec (.rasterFault g) s = .next t ∧ (slot t j).state = 0 ∧ (slot t j).counter = p.counter ∧
        t.consist? key = some z ∧ z.async = c.async ++
          [{ cause := cause, value := v, tokens := 0, held := c.holds .a && cause != .mmx }] ∧ ∀ k, t.byte k = s.byte k) ∧
    (∀ j, (slot s j).state = 1 →
      (∀ e ∈ (s.session (slot s j).sess).launches, e.2.uid = (slot s j).launch → e.2.count = 0) →
      ∃ t, exec (.rasterPassAbandon g j) s = .next t ∧ (slot t j).state = 0 ∧ (slot t j).counter = (slot s j).counter ∧
        ∀ k, t.byte k = s.byte k)

/-- (1) R235 to R237, R246, R250, R251: the oldest tile instruction of a consist that is not parked executes: MACZ
leaves its tile all zeros and touches no memory; a failure is delivered as a trap and empties the queue; an executed
instruction completes, and the class-2 counter advances by one. The row queue goes to the consist whose MROW came to
the head first, of equals the lower slot, once it is free, and MROW then pushes one segment after another of its tile, rows ascending. (2) R258, R264, R268,
R269: the oldest operation of a Freight context runs through its units; a complete one leaves the queue, the context's
counter takes its number and its tokens are FREE; a failure halts the context, empties it, and gives the numbers from
the failed one again; an assembly of a convoy that has come to its end is dropped. (3) R288, R291, R292, R295: a
station bins the draws of a pass; a flushed pass whose draws are binned renders and its slot is FREE with the number
of its RFLUSH; a failed pass is FREE and its fault goes to the consist of its RFLUSH; an OPEN pass is discarded once
its launch has ended. -/
def Obligations.UnitEventsTakeEffect : Prop := TileEventsTakeEffect ∧ FreightEventsTakeEffect ∧ RasterEventsTakeEffect

/-- R305 to R315, R319 to R321, R326, R327: the operations sent to a stream complete: LEMIT's and FBSET's images are taken
while their band is open, WARPB's image is written, MESRCH's results land. A band's window opens and the copy of its
history band goes on, its prepared image is ready, and it settles at its deadline with the emitted image, or else the armed,
the prepared or the fill image, each miss counted and posted; the tap writes the oldest settled band into the history and
the class-3 timeline takes its number. The encoder takes the bands in order, quantises them, and codes each tile row into
its ring or drops the frame; how it lays a tile row out is the model's choice (assumption log 9). A stop turns the stream OFF after its frame. Scan time's course is the
model's choice (assumption log 5). -/
def Obligations.BandEventsTakeEffect : Prop :=
  ∀ (s : State) (d k : Nat),
    let u := s.scan d k
    let x := u.stream d k
    let y := s.stream d k
    let n := y.lastSettled + 1
    (∀ o kind, kind ∈ ([0, 1] : List Nat) → x.op = some o → o.kind = kind → s.bandAlive o = true →
      let i : Instr := if kind = 0 then .lemitCopyComplete d k else .fbsetCopyComplete d k
      ∃ t c, exec i s = .next t ∧ (t.stream d k).op = none ∧ t.consist? o.consist = some c ∧ c.bandOp = 0 ∧
        (∀ j, t.byte j = s.byte j) ∧
        (x.lastSettled < o.band ∧ x.t < x.deadline o.band →
          (kind = 0 → (tget (t.stream d k).bands o.band).emit = some (o.image, o.clk)) ∧
          (kind = 1 → (tget (t.stream d k).bands o.band).armed = some (o.image, o.clk))) ∧
        (o.band ≤ x.lastSettled ∨ x.deadline o.band ≤ x.t → (t.stream d k).bands = x.bands)) ∧
    (∀ o c win off ps v v1, x.op = some o → o.kind = 2 → s.bandAlive o = true → s.consist? o.consist = some c →
      imageWindow (o.ctx c) o.word x.imageSize true u = .val (win, off) v →
      reach ((o.ctx c).terminusAsker v) .write false win.space (win.pieces v c 0 off x.imageSize) v = .val ps v1 →
      v1.consist? o.consist = some c →
      ∃ t z, exec (.warpbComplete d k) s = .next t ∧ (t.stream d k).op = none ∧ t.consist? o.consist = some z ∧ z.bandOp = 0 ∧
        ∀ j, t.byte j = (putImage win.space ps o.image v1).byte j) ∧
    (∀ o c, y.op = some o → o.kind = 3 → s.consist? o.consist = some c →
      ∃ t z, exec (.mesrchResult d k) s = .next t ∧ (t.stream d k).op = none ∧ t.consist? o.consist = some z ∧
        z = { (c.inflight.filter (fun f => f.kind == .search)).foldl Consist.land c with
              inflight := c.inflight.filter (fun f => f.kind != .search) } ∧ ∀ j, t.byte j = s.byte j) ∧
    (let slot := tget x.bands (x.lastSettled + 1)
     x.state ≠ 0 → (∀ e ∈ x.settled, e.1 ≠ x.lastSettled) → slot.copying = false →
      (slot.snap = none → exec (.bandWindowOpen d k) s = .next u.bump) ∧
      (∀ ps got v, slot.snap = some ps → readHistory (streamAsker x.sess d k) ps u = .ok got v → v.stream d k = x →
        ∃ t, exec (.bandWindowOpen d k) s = .next t ∧ (∀ j, t.byte j = v.byte j) ∧
          t.stream d k = { x with bands := tset x.bands (x.lastSettled + 1) { slot with
            snap := got, copying := (got.map (fun l => l.all (fun p => p.2.2.isSome))).getD false } })) ∧
    (x.state ≠ 0 → (tget x.bands (x.lastSettled + 1)).copying = true → ∃ t, exec (.preparedImageReady d k) s = .next t ∧
      (let b := tget (t.stream d k).bands (x.lastSettled + 1)
       b.copying = false ∧ b.snap = none ∧
       b.prepared = if x.t < x.deadline (x.lastSettled + 1) ∧ x.bandsPerFrame ≤ x.lastSettled
         then (tget x.bands (x.lastSettled + 1)).snap.map (fun l => l.flatMap (fun p => p.2.2.getD [])) else none)) ∧
    (y.state ≠ 0 → y.deadline n ≤ y.horizon → ∀ ps got v, y.historyPieces (y.place (n + 1)).2 = some ps →
      readHistory (streamAsker y.sess d k) ps (s.setStream d k y.settle) = .ok got v → v.stream d k = y.settle →
      let b := tget y.bands n
      let level := if b.emit.isSome then 0 else if b.armed.isSome then 1 else if b.prepared.isSome then 2 else 3
      ∃ t e, exec (.bandSettle d k) s = .next t ∧ (t.stream d k).settled = y.settled ++ [e] ∧ e.1 = n ∧
        e.2.1 = ((b.emit.map (fun q => q.1)).orElse (fun _ =>
          (b.armed.map (fun q => q.1)).orElse (fun _ => b.prepared))).getD y.fillImage ∧
        (t.stream d k).t = max y.t (y.deadline n) ∧ (t.stream d k).lastSettled = n ∧
        (tget (t.stream d k).bands (n + 1)).snap = got ∧ (t.stream d k).untapped = y.untapped ++ [e.2.1] ∧
        (level = 0 → tget (t.stream d k).counters 0 = tget y.counters 0 + 1 ∧ (t.stream d k).events = y.events) ∧
        (level ≠ 0 → tget (t.stream d k).counters 1 = tget y.counters 1 + 1 ∧
          tget (t.stream d k).counters (2 + level) = tget y.counters (2 + level) + 1 ∧
          (y.events.length < 16 → (t.stream d k).events.length = y.events.length + 1))) ∧
    (∀ e rest ps v, y.settled = e :: rest → y.hist + y.imageSize * (y.place e.1).2 + y.imageSize ≤ 2 ^ 60 →
      reach (streamAsker y.sess d k) .write false 0 (vaPieces 0 (y.hist + y.imageSize * (y.place e.1).2) y.imageSize) s = .val ps v →
      v.stream d k = y →
      ∃ t, exec (.tapHistoryWrite d k) s = .next t ∧ (t.stream d k).settled = rest ∧
        (t.stream d k).timeline = BitVec.ofNat 64 e.1 ∧ ∀ j, t.byte j = (putImage 0 ps e.2.1 v).byte j) ∧
    (y.state ≠ 0 → y.tapped + 1 ≤ y.lastSettled → (∀ e ∈ y.settled, y.tapped + 1 < e.1) →
      y.tapTime (y.tapped + 1) ≤ y.deadline n →
      let codes := y.codes (y.untapped.headD [])
      ((y.place (y.tapped + 1)).2 = 0 → y.frameCoded = true) →
      ∃ t, exec (.encoderTap d k) s = .next t ∧
        (let z := t.stream d k
         z.tapped = y.tapped + 1 ∧ z.t = max y.t (y.tapTime (y.tapped + 1)) ∧ z.untapped = y.untapped.drop 1 ∧
         ((y.place (y.tapped + 1)).2 ≠ 0 → z.coding = if y.encodes = true then y.coding ++ [codes] else []) ∧
         ((y.place (y.tapped + 1)).2 = 0 → z.encLatched = y.enc ∧ z.tileRows = 0 ∧ z.dropped = false ∧
          let qmin := (y.enc.extractLsb' 2 8).toNat
          let qmax := (y.enc.extractLsb' 10 8).toNat
          qmin ≤ z.qindex ∧ (qmin ≤ qmax → z.qindex ≤ qmax) ∧
          (y.enc.getLsbD 0 = true → z.coding = [codes] ∧ (y.encLatched.getLsbD 0 = false → z.keyFrame = true))))) ∧
    (let bands := min 4 (y.bandsPerFrame - 4 * y.tileRows)
     y.state ≠ 0 → y.frameCoded = false → bands ≤ y.coding.length →
      ∀ motion v, readMotion (streamAsker y.sess d k) (y.tileMotion bands) s = .ok motion v → v.stream d k = y →
      let img := y.obus v.tick motion (y.coding.take bands).flatten
      let len := img.length
      let first := min len (y.bsSize - y.bsWr.toNat)
      let room := (y.bsRd.toNat + y.bsSize - y.bsWr.toNat - 1) % y.bsSize
      ∃ t, exec (.encoderTileRow d k) s = .next t ∧
        (room < len → (t.stream d k).dropped = true ∧ (t.stream d k).keyNext = true ∧
          tget (t.stream d k).counters 9 = tget y.counters 9 + 1 ∧ ∀ j, t.byte j = v.byte j) ∧
        (len ≤ room → ∀ ps w, reach (streamAsker y.sess d k) .write false 0 (vaPieces 0 (y.bsBase + y.bsWr.toNat) first
            ++ (vaPieces 0 y.bsBase (len - first)).map (fun p => { p with pos := p.pos + first })) v = .val ps w →
          w.stream d k = y → (t.stream d k).tileRows = y.tileRows + 1 ∧ (t.stream d k).coding = y.coding.drop bands ∧
            (t.stream d k).bsWr = BitVec.ofNat 32 ((y.bsWr.toNat + len) % y.bsSize) ∧
            ∀ j, t.byte j = (putImage 0 ps img w).byte j)) ∧
    (∀ m, y.stopAt = some m → y.state ≠ 0 → m ≤ y.lastSettled → y.settled = [] →
      ∃ t, exec (.streamStopEffect d k) s = .next t ∧ (t.stream d k).state = 0 ∧ (t.stream d k).stopAt = none) ∧
    (y.state ≠ 0 → ∃ t, exec (.keyreq d k) s = .next t ∧ (t.stream d k) = { y with keyReq := true } ∧
      t = { s with dies := t.dies, tick := t.tick }) ∧
    (let dst := (s.session y.sess).home
     y.state ≠ 0 → dst ≠ d → (s.stream dst k).state = 0 → s.linkOpen d dst = true →
      y.lastSettled % y.bandsPerFrame = 0 → y.settled = [] → y.op = none →
      ∃ t, exec (.streamMove d k) s = .next t ∧ t.stream dst k = y ∧ t.stream d k = default)
/-- R355, R357 to R359: the page of a seal is hashed, or takes the forced digest; its bucket is looked up, while no other
seal holds it, and the first way with an equal page, else a free way, is its own; it commits and is gone; a write that
waits aborts it, its entry UNSEALED. -/
def Sys2Proof.Machine.SealEventsTakeEffect : Prop :=
  ∀ (s : State) (v n : Nat) (e : Seal), (s.session v).seals[n]? = some e →
    (e.state = 1 → e.wanted = false → ∀ l m u, s.sealPage v e = some (l, m) →
      (s.consolidate v e.va l m).bind (fun _ s => s.manifestRead v (m.pframe * 4096) 4096) = .ok () u →
      (u.session v).seals = (s.session v).seals → ∃ t f, exec (.sealHash v n) s = .next t ∧ (t.session v).seals[n]? = some f ∧
        f = { e with state := 2, digest := f.digest } ∧ (∀ j, t.byte j = u.byte j) ∧
        (((u.die (u.session v).home).mfForce = true →
          f.digest = (u.die (u.session v).home).mfDhi ++ (u.die (u.session v).home).mfDlo) ∧
        ((u.die (u.session v).home).mfForce = false → ∀ a b rest,
          shake256 (BitVec.ofNat 8 (u.session v).title :: readBytes u.mem (m.pframe * 4096) 4096) = a :: b :: rest → f.digest = b ++ a))) ∧
    (e.state = 2 → e.wanted = false →
      (∀ x ∈ s.sessions, ∀ y ∈ x.2.seals, y.state = 3 → bucketOf y.digest ≠ bucketOf e.digest) →
      ∀ u, s.readFrames v ((s.frameMap v e.index).pframe :: s.candidates (s.session v).title e.digest) = .ok () u →
      (u.session v).seals = (s.session v).seals → ∃ t f, exec (.sealLookup v n) s = .next t ∧ (t.session v).seals[n]? = some f ∧ f.state = 3 ∧
        (let eq := u.equalWay (s.session v).title e.digest (s.frameMap v e.index).pframe (fun _ => true)
         f.merge = eq.isSome ∧ f.way = (match eq with | some w => some w | none => u.freeWay (bucketOf e.digest))) ∧
        t = { u with sessions := t.sessions, tick := t.tick }) ∧
    (e.state = 3 → e.wanted = false → (s.session v).mReqs = [] →
      let c := match s.sealPage v e with
        | some (l, m) => s.commitSeal v e l m
        | none => s.unseal v e
      (c.session v).seals = (s.session v).seals → (c.session v).mReqs = [] →
      ∃ t, exec (.sealCommit v n) s = .next t ∧ (t.session v).seals = (s.session v).seals.eraseIdx n ∧ ∀ j, t.byte j = c.byte j) ∧
    (e.wanted = true → (s.session v).mReqs = [] → ∃ t, exec (.sealAbort v n) s = .next t ∧
      (t.session v).seals = (s.session v).seals.eraseIdx n ∧ ∀ j, t.byte j = (s.unseal v e).byte j)

/-- R352, R360, R366: the detector passes over a page written since its last visit and seals one that was not; the oldest
request at the end of its range completes, and the class-5 counter takes its number; a revoked key slot is EMPTY at the end
of its sweep. -/
def Sys2Proof.Machine.ManifestEventsTakeEffect : Prop :=
  ∀ (s : State) (v : Nat),
    let x := s.session v
    (∀ va l m, x.quiescence = true → x.state = .live ∨ x.state = .build → s.sealable v (va / 4096 * 4096) = some (l, m) →
      ((tget s.grants m.pframe).getLsbD 1 = true → ∃ t, exec (.quiescenceVisit v va) s = .next t ∧
        tget t.grants m.pframe = tget s.grants m.pframe &&& ~~~(2#2) ∧ t = { s with grants := t.grants, tick := t.tick }) ∧
      ((tget s.grants m.pframe).getLsbD 1 = false → ∃ t e, exec (.quiescenceVisit v va) s = .next t ∧
        (t.session v).seals = x.seals ++ [e] ∧ (e.va, e.index, e.state, e.req) = (va / 4096 * 4096, entryFrame l.bits, 1, none))) ∧
    (∀ r, x.mReqs = [r] → r.next = r.count → (∀ e ∈ x.seals, e.req ≠ some r.number) → r.isSeal = false ∨ x.state ≠ .moving →
      ∃ t, exec (.manifestRequestComplete v) s = .next t ∧ (t.session v).mReqs = [] ∧
        (t.session v).mCounter = BitVec.ofNat 64 r.number ∧ ∀ j, t.byte j = s.byte j) ∧
    (∀ die slot, s.slotState die slot = 2 → (tget (s.die die).slots slot).forced = true ∨ s.worldFrames die slot = [] →
      ∃ t, exec (.keyRevokeComplete die slot) s = .next t ∧ t.slotState die slot = 0 ∧ ∀ j, j < 2 ^ 40 → t.byte j = s.byte j)

/-- (1) R355, R357 to R359: the page of a seal is hashed, or takes the forced digest; its bucket is looked up, while
no other seal holds it, and the first way with an equal page, else a free way, is its own; it commits and is gone; a
write that waits aborts it, its entry UNSEALED. (2) R352, R360, R366: the detector passes over a page written since
its last visit and seals one that was not; the oldest request at the end of its range completes, and the class-5
counter takes its number; a revoked key slot is EMPTY at the end of its sweep. -/
def Obligations.SealAndManifestEventsTakeEffect : Prop := SealEventsTakeEffect ∧ ManifestEventsTakeEffect

/-- R17 to R19, R22, R23, R352, R361 to R364, R379: a slip makes a LIVE session of a depot, or is refused; a session that
builds and has no work left becomes a DEPOT, measured; a transfer moves the tables, then the frames one by one, and leaves the
session LIVE; a SESS_END that waited for slips goes on; an ending session gives its key slots up once its work is done,
and its identifier is FREE once they are EMPTY. What a park waits for beside the launches (assumption log 44), and that an end
waits for the session's streams (assumption log 27), is the model's. -/
def Obligations.SessionEventsTakeEffect : Prop :=
  ∀ (s : State) (v : Nat),
    let x := s.session v
    (∀ die cores depot, x.slipping = some (die, cores) → x.slipOf = some depot →
      ((s.session depot).state = .depot → s.slotState die (65 + v) = 1 →
        ∀ w u, s.readFrames depot (s.tableRun depot) = .ok () w → w.slip depot v die cores = some u →
        ∃ t, exec (.slipComplete v) s = .next t ∧ (t.session v).state = (u.session v).state ∧ (t.session v).home = (u.session v).home ∧
          ∀ j, j < 2 ^ 40 → t.byte j = u.byte j) ∧
      ((s.session depot).state ≠ .depot → depot ≠ v → ∃ t, exec (.slipComplete v) s = .next t ∧
        t.session v = default ∧ ∀ j, j < 2 ^ 40 → t.byte j = s.byte j)) ∧
    (x.state = .build → s.quiet v = true → (∃ w ∈ s.commands, ∃ q, w.what = .sessEndPark q v) →
      ∀ u, s.convert v = .ok () u → u.commands = s.commands →
      ∃ t, exec (.sessParkComplete v) s = .next t ∧ (t.session v).state = .depot ∧ (t.session v).measured = u.measure v ∧
        ∀ w ∈ t.commands, ∀ q, w.what ≠ .sessEndPark q v) ∧
    (∀ a, x.state = .moving → x.moveFrom = some a → s.linkOpen a x.moveTo = true → x.tablesMoved = false →
      x.seals = [] → x.breaks = [] → (∀ e ∈ x.freight, e.2.queue = []) →
      ∀ w u root fm fr, s.readFrames v (s.tableRun v) = .ok () w → w.cloneSession true v v x.moveTo = some (u, root, fm, fr) →
      ∃ t, exec (.transferTablesMoved v) s = .next t ∧
        (let y := t.session v
         (y.home, y.tablesMoved, y.root, y.fmBase, y.frBase)
          = ((u.session v).moveTo, true, root * 4096, fm * 4096, fr * 4096)) ∧
        (∀ k, ∀ e ∈ (t.core k).tlb, e.sess ≠ v)) ∧
    (∀ f, x.state = .moving → x.tablesMoved = true → x.moveFrom = some (frameDie f) → s.frameKind f = 3 ∨ s.frameKind f = 4 →
      s.frameOwner f = v →
      (f ∉ x.transit → ∃ t, exec (.frameDrift v f) s = .next t ∧ f ∈ (t.session v).transit ∧
        (∀ k, ∀ e ∈ (t.core k).tlb, e.sess ≠ v) ∧ ∀ j, t.byte j = s.byte j) ∧
      (f ∈ x.transit → s.linkOpen (frameDie (x.runOf f).1) x.moveTo = true →
        ∀ w z, s.readFrames v ((List.range (x.runOf f).2.2).map (fun j => (x.runOf f).1 + j)) = .ok () w →
          w.readFrames v (w.driftMates v f) = .ok () z →
        (∀ g, (x.runOf f).2.1 = some g → exec (.frameDrift v f) s = .next (w.driftCopy v (x.runOf f).1 g (x.runOf f).2.2).bump) ∧
        ((x.runOf f).2.1 = none → z.driftMerge v f = none → ∀ g, z.pickRun x.moveTo 1 = some g →
          exec (.frameDrift v f) s = .next (z.driftCopy v f g 1).bump) ∧
        ((x.runOf f).2.1 = none → ∀ u, z.driftMerge v f = some u → exec (.frameDrift v f) s = .next u.bump))) ∧
    (∀ a, x.moveFrom = some a → x.state = .moving → x.tablesMoved = true → (∀ e ∈ s.streamsOf v, e.1 ≠ a) → x.mReqs = [] →
      (∀ e ∈ s.convoys, ∀ c, e.2 = some c → c.sess = v → (if c.core < 256 then c.core / 64 else (c.core - 256) / 8) ≠ a) →
      s.framesOf a 3 v = [] → s.framesOf a 4 v = [] →
      (s.slotState a (65 + v) = 1 → ∃ t, exec (.transferComplete v) s = .next t ∧ t.slotState a (65 + v) = 2) ∧
      (s.slotState a (65 + v) = 0 → (∀ e ∈ (s.die a).activeBank, e.2 ≠ v + 1) → ∃ t, exec (.transferComplete v) s = .next t ∧ (t.session v).state = .live ∧
        (t.session v).moveFrom = none ∧ ∀ w ∈ t.commands, ∀ q cores, w.what ≠ .sessMove q v x.moveTo cores)) ∧
    (s.sound → x.state = .depot → s.slipping v = false → (∃ w ∈ s.commands, isEnding w.what = true ∧ commandSession w.what = some v) →
      ∃ t, exec (.depotEndProceed v) s = .next t ∧ (t.session v).state = .ending) ∧
    (x.state = .ending → x.ending = 1 → s.quiet v = true → s.streamsOf v = [] →
      ∃ t, exec (.sessEndComplete v) s = .next t ∧ (t.session v).state = .ending ∧ (t.session v).ending = 2 ∧
        ∀ d, d < 4 → t.slotState d (65 + v) ≠ 1) ∧
    (x.state = .ending → x.ending ≠ 1 → (∀ d, d < 4 → s.slotState d (65 + v) = 0) →
      ∃ t, exec (.sessEndComplete v) s = .next t ∧ (t.session v).state = .free)

/-! ## Commands -/

/-- A queue takes a command at its head: it is open, the command is not Denied, and the Signal box of its die carries it
out itself (R373, R378). `u` is the state in which it is carried out. -/
structure Sys2Proof.Machine.Takes (q : Nat) (i : Instr) (s u : State) : Prop where
  opened : s.queueOpen q = true
  start : u = s.setQueue q { s.queue q with sqHead := (s.queue q).sqHead + 1, busy := true, torn := 0 }
  allowed : u.denied q (s.queueDie q) i = false
  here : q < 256 ∨ ∀ v, namedSession i = some v → (s.session v).state = .free ∨ (s.session v).home = s.queueDie q

/-- A command has been answered (R378, R379): its record stands in the completion ring at the old CQTAIL, which has
advanced, and the queue is free for the next one. -/
structure Sys2Proof.Machine.Answered (q status : Nat) (s t : State) : Prop where
  free : (t.queue q).busy = false
  head : (t.queue q).sqHead = (s.queue q).sqHead + 1
  tail : (t.queue q).cqTail = (s.queue q).cqTail + 1
  ring : readBytes t.hostMem ((s.queue q).cqBase.toNat + 16 * ((s.queue q).cqTail.toNat % 2 ^ (s.queue q).qk)) 16
    = leBytes 2 ((s.queue q).sqHead.setWidth 16 : BitVec 16).toNat ++ leBytes 1 status ++ List.replicate 13 0

/-- A command is in progress: its queue carries no other, and no record is written yet. -/
structure Sys2Proof.Machine.Held (q : Nat) (i : Instr) (s t : State) : Prop where
  busy : (t.queue q).busy = true
  head : (t.queue q).sqHead = (s.queue q).sqHead + 1
  tail : (t.queue q).cqTail = (s.queue q).cqTail
  waits : t.commands = s.commands ++ [{ q := q, stamp := (s.queue q).sqHead.setWidth 16, what := i }]

/-- R17 to R19, R22, R23, R285, R380: in a queue that takes them, SESS_NEW with cores and frames to give makes the session,
in BUILD or LIVE, and replies Done; SESS_SLIP of a depot reserves the identifier; SESS_MOVE to another die starts the
transfer; on the home die, and with the extend option, the inactive bank holds the new number of cores, and the command
completes at the flip; SESS_END and its kill option make the session ENDING, and the park option waits for its work, or
replies Busy while the session's own ring holds a command. -/
def Sys2Proof.Machine.SessionCommandsComplete : Prop :=
  ∀ (s u : State) (q v : Nat), v ≤ 255 →
    let x := s.session v
    (∀ o, Takes q (.sessNew q o) s u → 256 ≤ q → o.sess = v → sessNewValid o = true → x.state = .free → x.slipping = none →
      u.slotState o.die (65 + v) = 1 →
      ∀ a root b fm c fr w, u.grant o.die v o.cores = some a → a.allocRun o.die 8 3 v = some (root, b) →
        b.allocRun o.die (mapFrames o.fmSize) 4 v = some (fm, c) → c.allocRun o.die (ringFrames o.frSize) 3 v = some (fr, w) →
        (w.allocSidings o.die v o.depths).isSome = true →
      ∃ t, exec (.sessNew q o) s = .next t ∧
        ((a.die o.die).flip = true → Held q (.sessNew q o) s t) ∧ ((a.die o.die).flip = false → Answered q 0 s t) ∧
        (let y := t.session v
         (y.state, y.title, y.home, y.root, y.fmBase, y.frBase)
          = (if o.depot then .build else .live, o.title, o.die, root * 4096, fm * 4096, fr * 4096) ∧
         (y.fmSize, y.frSize, y.depths, y.classes, y.weight, y.windows)
          = (o.fmSize, o.frSize, o.depths, o.classes, o.weight, o.windows)) ∧
        (let r := t.queue v
         (r.sqBase, r.cqBase, r.qk, r.sqHead, r.sqTail, r.stopped) = (o.sqBase, o.cqBase, o.qk, 0, 0, false))) ∧
    (∀ depot die cores, Takes q (.sessSlip q depot v die cores) s u → 256 ≤ q → depot ≤ 255 → die ≤ 3 → 1 ≤ cores → cores ≤ 64 →
      (s.session depot).state = .depot → x.state = .free → x.slipping = none →
      (∀ w ∈ s.commands, isEnding w.what = true → commandSession w.what ≠ some depot) →
      u.slotState die (65 + v) = 1 → (u.grant die v cores).isSome = true →
      ∃ t, exec (.sessSlip q depot v die cores) s = .next t ∧ Held q (.sessSlip q depot v die cores) s t ∧
        ((t.session v).slipOf, (t.session v).slipping, (t.session v).title) = (some depot, some (die, cores), (s.session depot).title)) ∧
    (∀ die cores, Takes q (.sessMove q v die cores) s u → 256 ≤ q → x.state = .live → die ≤ 3 → 1 ≤ cores → cores ≤ 64 →
      (die = x.home → ∀ w, u.grant die v cores = some w → ∃ t, exec (.sessMove q v die cores) s = .next t ∧
        (t.die die).nextBank = (w.die die).nextBank ∧
        ((w.die die).flip = true → Held q (.sessMove q v die cores) s t) ∧ ((w.die die).flip = false → Answered q 0 s t)) ∧
      (die ≠ x.home → u.slotState die (65 + v) = 1 → u.streamsOf v = [] → u.largeRuns v = [] → (u.grant die v cores).isSome = true →
        ∃ t, exec (.sessMove q v die cores) s = .next t ∧ Held q (.sessMove q v die cores) s t ∧
          ((t.session v).state, (t.session v).moveFrom, (t.session v).moveTo, (t.session v).tablesMoved)
            = (.moving, some x.home, die, false))) ∧
    (∀ die cores w, Takes q (.sessMoveExtend q v die cores) s u → 256 ≤ q → x.state = .live → die ≤ 3 → cores ≤ 64 →
      die ≠ x.home → u.grant die v cores = some w → ∃ t, exec (.sessMoveExtend q v die cores) s = .next t ∧
        (t.die die).nextBank = (w.die die).nextBank ∧
        ((w.die die).flip = true → Held q (.sessMoveExtend q v die cores) s t) ∧ ((w.die die).flip = false → Answered q 0 s t)) ∧
    (Takes q (.sessEnd q v) s u → s.sound → 256 ≤ q → x.state = .live ∨ x.state = .build → ∃ t, exec (.sessEnd q v) s = .next t ∧
      (t.session v).state = .ending ∧ (t.session v).forcedEnd = false ∧
      { q := q, stamp := (s.queue q).sqHead.setWidth 16, what := .sessEnd q v } ∈ t.commands) ∧
    (Takes q (.sessEndPark q v) s u → 256 ≤ q → x.state = .build →
      ((s.queue v).sqHead = (s.queue v).sqTail →
        ∃ t, exec (.sessEndPark q v) s = .next t ∧ Held q (.sessEndPark q v) s t ∧ t.session v = x) ∧
      ((s.queue v).sqHead ≠ (s.queue v).sqTail →
        ∃ t, exec (.sessEndPark q v) s = .next t ∧ Answered q 1 s t ∧ t.session v = x)) ∧
    (Takes q (.sessEndKill q v) s u → 256 ≤ q → x.state = .live ∨ x.state = .build → ∃ t, exec (.sessEndKill q v) s = .next t ∧
      (t.session v).state = .ending ∧ (t.session v).forcedEnd = true ∧ (∀ k c, t.consist? k = some c → c.sess ≠ v) ∧
      { q := q, stamp := (s.queue q).sqHead.setWidth 16, what := .sessEndKill q v } ∈ t.commands)

/-- R259, R268, R281, R305, R350, R352, R384, R385, R391: in a queue that takes them, KEY_LOAD loads an EMPTY slot with the
blob's key and KEY_DROP starts its revocation; LAYOUT_PUT stores the record and its reset form lets a HALTED context go on;
SUBMIT accepts a launch that passes its checks when there is a slot, and holds its queue when there is none; STREAM_SET
starts and restarts a stream, or tells it to stop; CAPS_READ, RAS_LOG and ATTEST write to the host. The completed ones reply
Done. -/
def Sys2Proof.Machine.WorkCommandsComplete : Prop :=
  ∀ (s u : State) (q v : Nat), v ≤ 255 →
    let x := s.session v
    (∀ slot die blob, Takes q (.keyLoad q slot die blob) s u → 256 ≤ q → die ≤ 3 → slot ≤ 320 → s.slotState die slot = 0 →
      (s.die (s.queueDie q)).ide ≠ [] → ∃ t, exec (.keyLoad q slot die blob) s = .next t ∧ Answered q 0 s t ∧
        t.slotState die slot = 1 ∧ (tget (t.die die).slots slot).key = BitVec.ofNat 512 (leNat (readBytes s.hostMem blob 64)) ∧
        ∀ k, k ≠ slot → t.slotState die k = s.slotState die k) ∧
    (∀ slot die, Takes q (.keyDrop q slot die) s u → 256 ≤ q → die ≤ 3 → slot ≤ 511 → s.slotState die slot = 1 →
      ∃ t, exec (.keyDrop q slot die) s = .next t ∧ Held q (.keyDrop q slot die) s t ∧ t.slotState die slot = 2) ∧
    (∀ ctx n at1, Takes q (.layoutPut q v ctx n at1) s u → ctx ≤ 15 → n ≤ 65535 → x.works = true →
      ∃ t, exec (.layoutPut q v ctx n at1) s = .next t ∧ Answered q 0 s t ∧
        ∀ k, tget (tget (t.session v).freight ctx).layouts k
          = if k = n then BitVec.ofNat 512 (leNat (readBytes s.hostMem at1 64)) else tget (tget x.freight ctx).layouts k) ∧
    (∀ ctx, Takes q (.layoutPutReset q v ctx) s u → ctx ≤ 15 → x.works = true → (tget x.freight ctx).halted = true →
      ∃ t, exec (.layoutPutReset q v ctx) s = .next t ∧ Answered q 0 s t ∧
        tget (t.session v).freight ctx = { tget x.freight ctx with halted := false, accepted := (tget x.freight ctx).counter.toNat }) ∧
    (∀ at1 rank sup p w, Takes q (.submit q v at1 rank sup) s u → rank ≤ 15 → at1 % 32 = 0 → x.works = true →
      (u.hostIssuer v rank sup).plan (BitVec.ofNat 256 (leNat (readBytes u.hostMem at1 32))) rank 0 u = .val p w →
      w.queues = u.queues → (w.session v).state = x.state → (w.session v).maintenance = x.maintenance → w.commands = u.commands →
      (∀ slot, w.freeLaunch v = some slot → w.sidingFree v rank ≠ 0 →
        ∃ t, exec (.submit q v at1 rank sup) s = .next t ∧ Answered q 0 s t ∧
          (tget (t.session v).launches slot).count = BitVec.ofNat 64 (wbCount p.wb) ∧
          (tget (t.session v).launches slot).header = p.hdr.bits) ∧
      (w.freeLaunch v = none ∨ w.sidingFree v rank = 0 → (x.maintenance = false → ∃ t, exec (.submit q v at1 rank sup) s = .next t ∧
          Held q (.submit q v at1 rank sup) s t) ∧
        (x.maintenance = true → ∃ t, exec (.submit q v at1 rank sup) s = .next t ∧ Answered q 3 s t))) ∧
    (∀ o h w, Takes q (.streamSetStart q o) s u → o.sess = v → streamOpsValid o = true → x.works = true →
      (s.stream x.home o.stream).state = 0 → (u.hostIssuer v 0 true).header (mkWaybill o.header o.frame 0 1 0) 2 0 u = .val h w →
      w.queues = u.queues → (w.session v).state = x.state → o.header % 128 = 0 → o.header < 2 ^ 60 → bandHeader h.bits = true →
      (∀ e ∈ w.consistsOn (256 + 8 * x.home + o.stream / 2), quadOf e.1 ≠ o.stream % 2) → w.allotmentFits x.home h.bits = true →
      ∃ t, exec (.streamSetStart q o) s = .next t ∧ Answered q 0 s t ∧
        (let y := t.stream x.home o.stream
         (y.state, y.sess, y.hact, y.vact, y.vtot, y.lper, y.lead, y.depth) = (1, v, o.hact, o.vact, o.vtot, o.lper, o.lead, o.depth) ∧
         (y.hist, y.mfld, y.bsBase, y.bsSize, y.page, y.t, y.tapped) = (o.hist, o.mfld, o.bsBase, o.bsSize, o.page, 0, 0))) ∧
    (∀ n d, Takes q (.streamSetStop q v n) s u → n ≤ 15 → d = x.home → (s.stream d n).state ≠ 0 →
      (s.stream d n).sess = v → (s.stream d n).stopAt = none → ∃ t, exec (.streamSetStop q v n) s = .next t ∧ Held q (.streamSetStop q v n) s t ∧
        t.stream d n = { s.stream d n with stopAt := some (s.stream d n).lastOfFrame }) ∧
    (∀ n d at1 frame h w, Takes q (.streamSetRestart q v n at1 frame) s u → n ≤ 15 → d = x.home → x.state ≠ .free →
      (s.stream d n).state = 2 → (s.stream d n).sess = v →
      (u.hostIssuer v 0 true).header (mkWaybill at1 frame 0 1 0) 2 0 u = .val h w → w.queues = u.queues →
      w.stream d n = s.stream d n → (w.session v).state = x.state → at1 % 128 = 0 → at1 < 2 ^ 60 → bandHeader h.bits = true →
      (∀ e ∈ w.consistsOn (256 + 8 * d + n / 2), quadOf e.1 ≠ n % 2) → w.allotmentFits d h.bits = true →
      ∃ t c, exec (.streamSetRestart q v n at1 frame) s = .next t ∧ Answered q 0 s t ∧
        t.stream d n = { s.stream d n with state := 1, convoy := c }) ∧
    (∀ nonce at1, Takes q (.attest q (some v) nonce at1) s u → x.state ≠ .free →
      ∃ t, exec (.attest q (some v) nonce at1) s = .next t ∧ Answered q 0 s t ∧ (∀ k, k < 2 ^ 40 → t.byte k = s.byte k) ∧
        let bytes := u.token (some v) nonce (s.queueDie q)
        (∀ k, k < 16 * 2 ^ (s.queue q).qk →
          (s.queue q).cqBase.toNat + k < at1 ∨ at1 + bytes.length ≤ (s.queue q).cqBase.toNat + k) →
        readBytes t.hostMem at1 bytes.length = bytes) ∧
    (∀ at1 len, Takes q (.capsRead q at1 len) s u →
      ∃ t, exec (.capsRead q at1 len) s = .next t ∧ Answered q 0 s t ∧ (∀ k, k < 2 ^ 40 → t.byte k = s.byte k) ∧
        ∀ k, k < at1 ∨ at1 + len ≤ k → (k < (s.queue q).cqBase.toNat ∨ (s.queue q).cqBase.toNat + 16 * 2 ^ (s.queue q).qk ≤ k) →
          tget t.hostMem k = tget s.hostMem k) ∧
    (∀ at1 len, Takes q (.capsRead q at1 len) s u →
      (∀ k, k < 16 * 2 ^ (s.queue q).qk → (s.queue q).cqBase.toNat + k < at1 ∨ at1 + len ≤ (s.queue q).cqBase.toNat + k) →
      let bytes := (u.capList (s.queueDie q)).take len
      ∃ t, exec (.capsRead q at1 len) s = .next t ∧ readBytes t.hostMem at1 bytes.length = bytes) ∧
    (∀ at1 len clear, Takes q (.rasLog q at1 len clear) s u → 256 ≤ q →
      ∃ t, exec (.rasLog q at1 len clear) s = .next t ∧ Answered q 0 s t ∧
        (t.die (s.queueDie q)).log = (if clear then [] else (s.die (s.queueDie q)).log) ∧
        ((∀ k, k < 16 * 2 ^ (s.queue q).qk → (s.queue q).cqBase.toNat + k < at1 ∨ at1 + len ≤ (s.queue q).cqBase.toNat + k) →
          let bytes := (((s.die (s.queueDie q)).log.flatMap (fun r => leBytes 32 r.toNat)).take len)
          readBytes t.hostMem at1 bytes.length = bytes))

/-- (1) R17 to R19, R22, R23, R285, R380: in a queue that takes them, SESS_NEW with cores and frames to give makes the
session, in BUILD or LIVE, and replies Done; SESS_SLIP of a depot reserves the identifier; SESS_MOVE to another die
starts the transfer; on the home die, and with the extend option, the inactive bank holds the new number of cores, and
the command completes at the flip; SESS_END and its kill option make the session ENDING, and the park option waits for
its work, or replies Busy while the session's own ring holds a command. (2) R259, R268, R281, R305, R350, R352, R384, R385, R391: in a queue that takes them, KEY_LOAD loads an
EMPTY slot with the blob's key and KEY_DROP starts its revocation; LAYOUT_PUT stores the record and its reset form
lets a HALTED context go on; SUBMIT accepts a launch that passes its checks when there is a slot, and holds its queue
when there is none; STREAM_SET starts and restarts a stream, or tells it to stop; CAPS_READ, RAS_LOG and ATTEST write
to the host. The completed ones reply Done. -/
def Obligations.CommandsComplete : Prop := SessionCommandsComplete ∧ WorkCommandsComplete

/-- R281, R373, R375 to R378: SQTAIL and RESTART of a queue that is there write it; a fetched command with both stamps is
carried out as its opcode says, and one of no opcode or with a reserved part replies Invalid; a torn fetch is counted, and
the ninth stops the queue with COMMAND_TORN; a forwarded command is carried out by the die it went to; the SUBMIT that
holds a queue is tried again. Where the operands of a command stand in its body is the model's choice (assumption
log 11). -/
def Obligations.QueuesCarryCommands : Prop :=
  ∀ (s : State) (q : Nat),
    let x := s.queue q
    let w := BitVec.ofNat 512 (leNat (readBytes s.hostMem (x.sqBase.toNat + 64 * (x.sqHead.toNat % 2 ^ x.qk)) 64))
    let first : BitVec 16 := w.extractLsb' 16 16
    let last : BitVec 16 := w.extractLsb' 496 16
    let want : BitVec 16 := x.sqHead.setWidth 16
    let there := q < 256 ∧ (s.session q).state ≠ .free ∧ ((s.session q).state ≠ .depot ∨ q = 0) ∨ 256 ≤ q ∧ q < 260
    (there → ∀ v, ∃ t, exec (.sqtail q v) s = .next t ∧ t.queue q = { x with sqTail := v } ∧
      t = { s with queues := t.queues, tick := t.tick }) ∧
    (there → ∃ t, exec (.restart q) s = .next t ∧ t.queue q = { x with stopped := false } ∧
      t = { s with queues := t.queues, tick := t.tick }) ∧
    (s.queueOpen q = true → x.sqHead ≠ x.sqTail →
      (first = want → last = want → w.extractLsb' 480 16 = 0 →
        (∀ i, readCommand q (w.extractLsb' 0 8).toNat (w.extractLsb' 8 8).toNat (w.extractLsb' 32 448) = some i →
          exec (.commandFetch q) s = exec i s) ∧
        (readCommand q (w.extractLsb' 0 8).toNat (w.extractLsb' 8 8).toNat (w.extractLsb' 32 448) = none →
          ∃ t, exec (.commandFetch q) s = .next t ∧ Answered q 2 s t)) ∧
      (first = want → last = want → w.extractLsb' 480 16 ≠ 0 → ∃ t, exec (.commandFetch q) s = .next t ∧ Answered q 2 s t) ∧
      (first ≠ want ∨ last ≠ want → x.torn < 8 → ∃ t, exec (.commandFetch q) s = .next t ∧
        t.queue q = { x with torn := x.torn + 1 } ∧ t = { s with queues := t.queues, tick := t.tick }) ∧
      (first ≠ want ∨ last ≠ want → 8 ≤ x.torn → ∃ t, exec (.commandFetch q) s = .next t ∧ (t.queue q).stopped = true ∧
        (t.queue q).torn = 0 ∧ (t.queue q).sqHead = x.sqHead ∧ (t.queue q).cqTail = x.cqTail + 1 ∧
        readBytes t.hostMem (x.cqBase.toNat + 16 * (x.cqTail.toNat % 2 ^ x.qk)) 8
          = leBytes 2 want.toNat ++ [0x1D#8, 0#8] ++ leBytes 2 last.toNat ++ leBytes 2 first.toNat)) ∧
    (∀ die c rest, (s.die die).forwarded = c :: rest → s.linkOpen (s.queueDie c.q) die = true →
      let u := s.setDie die { s.die die with forwarded := rest }
      (u.denied c.q die c.what = true → ∃ t, exec (.forwardedCommand die) s = .next t ∧ (t.die die).forwarded = rest ∧
        (t.queue c.q).busy = false ∧ (t.queue c.q).cqTail = (s.queue c.q).cqTail + 1) ∧
      (u.denied c.q die c.what = false → ∃ t, exec (.forwardedCommand die) s = .next t ∧
        t = (State.settleCommand c.q c.stamp c.what (perform c.what die u)).bump)) ∧
    (∀ c v at1 rank sup, s.commands = [c] → c.q = q → c.what = .submit q v at1 rank sup →
      exec (.submitResume q) s = .next (State.settleCommand q c.stamp c.what
        (perform c.what (s.queueDie q) { s with commands := [] })).bump)

/-- R350, R372 to R374, R381 to R383, R388: a host access of up to eight bytes that need not wait writes device memory, or
reads what it holds, and an aligned one of eight bytes reads and writes the registers of its function's BAR0; a TDI enters and leaves RUN; an IDE stream is active or not; a good flit is delivered, a bad one counted; a link that must
resynchronise does, with new keys, or goes down, and then carries nothing; a rekeyed link counts from 0; a die that is
reset holds nothing. -/
def Obligations.LinksAndHostTakeEffect : Prop :=
  ∀ (s : State),
    (∀ func a n v, 1 ≤ n → n ≤ 8 → a + n ≤ 2 ^ 40 → s.functionThere func = true →
      s.hostWaits (agentId (s.functionDie func) 9 (functionNumber func)) a n = false →
      (s.sound → s.abortSeals a n = none → ∃ t, exec (.hostAccess func a n true v) s = .next t ∧
        ∀ j, j < 2 ^ 40 → t.byte j = memoryWith s.byte a n v.toNat j) ∧
      (s.lineState a n = .good → ∃ t, exec (.hostAccess func a n false v) s = .next t ∧
        t.hostRead = BitVec.ofNat 64 (numberAt s.byte a n) ∧ ∀ j, t.byte j = s.byte j)) ∧
    (∀ func off b unit o v, s.functionThere func = true → off % 8 = 0 → off + 8 ≤ barSize func →
      s.barBlock func off = some (b, unit, o) → o % 8 = 0 →
      exec (.hostAccess func (2 ^ 40 + off) 8 true v) s = .next (s.writeBlock b unit o 8 v).bump ∧
      ∃ t, exec (.hostAccess func (2 ^ 40 + off) 8 false v) s = .next t ∧
        t.hostRead = (s.sampleBlock b unit o 8).readBlock b unit o) ∧
    (∀ v run, v ≠ 0 → v ≤ 255 → (s.session v).state ≠ .free → (s.session v).state ≠ .depot →
      ∃ t, exec (.tdispRequest v (s.session v).home run) s = .next t ∧ t.session v = { s.session v with tdiRun := run } ∧
        t = { s with sessions := t.sessions, tick := t.tick }) ∧
    (∀ die n active, die ≤ 3 → n ≤ 16 → ∃ t, exec (.ideStreamActivation die n active) s = .next t ∧
      (∀ k, k ∈ (t.die die).ide ↔ (k = n ∧ active = true) ∨ (k ≠ n ∧ k ∈ (s.die die).ide)) ∧
      t = { s with dies := t.dies, tick := t.tick }) ∧
    (∀ a b, linkOk a b = true →
      let l := s.link a b
      (l.down = false → l.failures < 3 → l.counter.toNat + 1 < 2 ^ 48 →
        (∃ t, exec (.dieLinkFlit a b true) s = .next t ∧
          t.link a b = { l with counter := l.counter + 1, delivered := l.delivered + 1, failures := 0 } ∧
          t = { s with links := t.links, tick := t.tick }) ∧
        (∃ t, exec (.dieLinkFlit a b false) s = .next t ∧ t.link a b = { l with failures := l.failures + 1 } ∧
          t = { s with links := t.links, tick := t.tick })) ∧
      (s.mustResync a b = true → l.down = false →
        (∃ t, exec (.linkResync a b) s = .next t ∧ t = { s with links := t.links, tick := t.tick } ∧
          t.link a b = { l with counter := 0, epoch := l.epoch + 1, failures := 0 } ∧
          t.link b a = { s.link b a with counter := 0, epoch := (s.link b a).epoch + 1, failures := 0 }) ∧
        (∃ t, exec (.linkDown a b) s = .next t ∧ (t.link a b).down = true ∧ (t.link b a).down = true ∧
          ∀ i u, exec (.dieLinkFlit a b i) t = .next u → u.link a b = t.link a b)) ∧
      (l.down = false → ∃ t, exec (.linkRekey a b) s = .next t ∧ t = { s with links := t.links, tick := t.tick } ∧
        t.link a b = { l with counter := 0, epoch := l.epoch + 1 } ∧
        t.link b a = { s.link b a with counter := 0, epoch := (s.link b a).epoch + 1 })) ∧
    (∀ die, die ≤ 3 → ∃ t, exec (.dieReset die) s = .next t ∧
      (∀ a, a / 2 ^ 38 = die → t.byte a = 0) ∧ (∀ f, frameDie f = die → t.frameKind f = 0) ∧
      (∀ i, i < 64 → t.core (64 * die + i) = default) ∧ t.slotState die 0 = 1 ∧ (t.die die).log = [] ∧
      (t.die die).limited = false ∧ (t.queue (256 + die)).stopped = true)

/-- R387 to R393, R399: a clean line that an error met is fetched again, with a record; a report counts channel
corrections; CLR makes the counters, and every TMAX and MMIN, 0; ARM is set only where injection is enabled for a store and a kind; writes of
registers in their ranges take effect, and others change nothing. -/
def Sys2Proof.Machine.ErrorEventsTakeEffect : Prop :=
  ∀ (s : State) (d : Nat), d < 4 →
    let x := s.die d
    (∀ o : ErrorOps, 1 ≤ o.store → o.store ≤ 3 → o.addr < 2 ^ 40 → o.dirty = false →
      (o.store = 1 → ∀ c, tget (tget s.lines (injectedPlace d o.store o.unit)) (o.addr / 128) = some c → c.dirty = false) →
      ∃ t, exec (.uncorrectableError d o) s = .next t ∧ (∀ j, t.byte j = s.byte j) ∧ t.poison = s.poison ∧
        t.sessions = s.sessions ∧ (t.die d).log ≠ []) ∧
    (∀ c n, c < 32 → ∃ t, exec (.dramCorrectionReport d c n) s = .next t ∧
      (tget (t.die d).channels c).odec.toNat = min (2 ^ 64 - 1) ((tget x.channels c).odec.toNat + n) ∧
      (∀ k, k ≠ c → tget (t.die d).channels k = tget x.channels k) ∧ t = { s with dies := t.dies, tick := t.tick }) ∧
    (∃ t, exec (.rasctlClr d) s = .next t ∧ (t.die d).channels = [] ∧ (t.die d).uecnt = [] ∧ (t.die d).cecnt = [] ∧
      (∀ j, j < 48 → (tget (t.die d).sensors j).tmax = some (0, false)) ∧ (∀ j, j < 64 → tget (t.die d).mmin j = some (0, false)) ∧
      (t.die d).log = x.log ∧ t = { s with dies := t.dies, tick := t.tick }) ∧
    (∀ v : BitVec 64, ∃ t, exec (.injctlArm d v) s = .next t ∧ t = { s with dies := t.dies, tick := t.tick } ∧
      ((t.die d).injCtl.getLsbD 0 = true ↔ v.getLsbD 0 = true ∧ (x.injCtl.getLsbD 0 = true ∨
        x.injEn = true ∧ 1 ≤ (v.extractLsb' 1 2).toNat ∧ (v.extractLsb' 1 2).toNat ≤ 2 ∧
        1 ≤ (v.extractLsb' 4 4).toNat ∧ (v.extractLsb' 4 4).toNat ≤ 4))) ∧
    (∀ v : BitVec 64, let p : BitVec 11 := v.extractLsb' 0 11
      ∃ t, exec (.registerWrite .ras d 0x8 v) s = .next t ∧ t = { s with dies := t.dies, tick := t.tick } ∧
        (t.die d).pcap = (if 800 ≤ p.toNat ∧ p.toNat ≤ 1500 then p else x.pcap)) ∧
    (∀ v : BitVec 64, ∃ t, exec (.registerWrite .manifest d 0x0 v) s = .next t ∧
      t = { s with dies := t.dies, tick := t.tick } ∧ (t.die d).mfForce = v.getLsbD 0) ∧
    (∀ block unit off v, off % 8 ≠ 0 → exec (.registerWrite block unit off v) s = .next s.bump) ∧
    (∀ k v, k < 16 →
      let mv := (v.extractLsb' 0 10 : BitVec 10).toNat
      let mhz := (v.extractLsb' 16 16 : BitVec 16).toNat
      ∃ t, exec (.vfk d k v) s = .next t ∧ t = { s with dies := t.dies, tick := t.tick } ∧
        (t.die d).vf = if x.pointOk k mv mhz = true then x.vf.set k (mv, mhz) else x.vf)

/-- R394 to R398, R400: a die over its share of the power cap lowers every station's point, one well below it raises those
that are not limited; a dip halves a station's clock until the supply recovers; a hot sensor lowers its station's point and
limits it until it reads 16 below; a trip leaves the die in maintenance; a router that sixteen samples find over its limit
is marked at a quiesce point, where the routing banks flip and its column's traffic goes through its neighbour, and then
retired; a contested cycle goes to one side, and to neither more than twice against
the other. Which station a sensor covers is the model's choice (assumption log 32). -/
def Sys2Proof.Machine.PowerEventsTakeEffect : Prop :=
  ∀ (s : State) (d : Nat), d < 4 →
    let x := s.die d
    let point := fun (t : State) (j : Nat) => (t.station (8 * d + j)).curPt
    (∀ mw, ∃ t, exec (.powerAverage d mw) s = .next t ∧ t = { s with stations := t.stations, tick := t.tick } ∧
      ∀ j, j < 8 → let g := s.station (8 * d + j)
        point t j = (if x.pcap.toNat * 250 < mw then max g.minPt.toNat (g.curPt - 1)
          else if mw * 100 < x.pcap.toNat * 250 * 95 ∧ g.throttled = [] then min g.maxPt.toNat (g.curPt + 1) else g.curPt)) ∧
    (∀ j, j < 8 →
      (∃ t, exec (.supplyDip d j) s = .next t ∧ t.station (8 * d + j) = { s.station (8 * d + j) with halved := true } ∧
        t = { s with stations := t.stations, tick := t.tick }) ∧
      (∃ t, exec (.supplyRecovery d j) s = .next t ∧ t.station (8 * d + j) = { s.station (8 * d + j) with halved := false } ∧
        t = { s with stations := t.stations, tick := t.tick })) ∧
    (∀ j (r : BitVec 16), j < 16 →
      let g := s.station (sensorStation d j)
      (x.thr.toInt < r.toInt → ∃ t, exec (.throttle d j r) s = .next t ∧ (tget (t.die d).sensors j).temp = r ∧
        (t.station (sensorStation d j)).curPt = max g.minPt.toNat (g.curPt - 1) ∧ j ∈ (t.station (sensorStation d j)).throttled ∧
        (j ∉ g.throttled → (t.die d).logSeq = x.logSeq + 1) ∧ (j ∈ g.throttled → (t.die d).log = x.log)) ∧
      (r.toInt < x.thr.toInt - 16 → ∃ t, exec (.throttleRelease d j r) s = .next t ∧ (tget (t.die d).sensors j).temp = r ∧
        (t.station (sensorStation d j)).curPt = g.curPt ∧ j ∉ (t.station (sensorStation d j)).throttled ∧
        (t.die d).log = x.log)) ∧
    (∀ j (r : BitVec 16), j < 48 → x.trip.toInt < r.toInt → ∃ t, exec (.thermalTrip d j r) s = .next t ∧
      (t.die d).tripped = true ∧ (t.die d).limited = true ∧ (t.die d).log ≠ []) ∧
    (∀ k, k < 64 →
      let r := tget x.routers k
      (∀ v : BitVec 16, ∃ t, exec (.canarySample d k v) s = .next t ∧ (tget (t.die d).routers k).res = v ∧
        ((s.canaryLimit d k).toNat < v.toNat → (tget (t.die d).routers k).overLim = r.overLim + 1 ∧
          (r.state = 0 → (tget (t.die d).routers k).state = if 15 ≤ r.overLim then 1 else 0)) ∧
        (v.toNat ≤ (s.canaryLimit d k).toNat → (tget (t.die d).routers k).overLim = 0 ∧
          (tget (t.die d).routers k).state = r.state)) ∧
      (r.state = 1 → ∃ t, exec (.routerRetireMark d k) s = .next t ∧ (tget (t.die d).routers k) = { r with state := 2 } ∧
        (t.die d).routeActive1 = !x.routeActive1 ∧ tget (t.die d).routes k = (k ^^^ 1) + 1 ∧
        t = { s with dies := t.dies, tick := t.tick }) ∧
      (r.state = 2 → ∃ t, exec (.routerRetired d k) s = .next t ∧ (tget (t.die d).routers k) = { r with state := 3 } ∧
        (t.die d).log ≠ [] ∧ t = { s with dies := t.dies, tick := t.tick }) ∧
      (∀ deadline, let c := s.core (64 * d + k)
        ∃ t, exec (.contestedCycle d k true true deadline) s = .next t ∧ t = { s with cores := t.cores, tick := t.tick } ∧
          (let y := t.core (64 * d + k)
           (y.engineRefused = 0 ∧ y.coreRefused = c.coreRefused + 1) ∨ (y.coreRefused = 0 ∧ y.engineRefused = c.engineRefused + 1)) ∧
          (deadline = true → (t.core (64 * d + k)).engineRefused = 0) ∧
          (deadline = false → 2 ≤ c.coreRefused → (t.core (64 * d + k)).coreRefused = 0) ∧
          (deadline = false → 2 ≤ c.engineRefused → c.coreRefused < 2 → (t.core (64 * d + k)).engineRefused = 0)))

/-- (1) R387 to R393, R399: a clean line that an error met is fetched again, with a record; a report counts channel
corrections; CLR makes the counters, and every TMAX and MMIN, 0; ARM is set only where injection is enabled for a store and a kind; writes of
registers in their ranges take effect, and others change nothing. (2) R394 to R398, R400: a die over its share of the
power cap lowers every station's point, one well below it raises those that are not limited; a dip halves a station's
clock until the supply recovers; a hot sensor lowers its station's point and limits it until it reads 16 below; a trip
leaves the die in maintenance; a router that sixteen samples find over its limit is marked at a quiesce point, where the
routing banks flip and its column's traffic goes through its neighbour, and then retired; a contested cycle goes to one side, and to neither more than twice against the other. Which station a sensor
covers is the model's choice (assumption log 32). -/
def Obligations.ErrorAndPowerEventsTakeEffect : Prop := ErrorEventsTakeEffect ∧ PowerEventsTakeEffect
end

