-- ==== Sys2Proof/Laws/Dispatch.lean ====
section
/-!
SUPPORT. Running an instruction is running its meaning: one equation per constructor.
-/

namespace Sys2Proof.Machine

open Sys2Proof

@[simp] theorem exec_iadd {d a b w s} : exec (.iadd d a b w) s = execIadd d a b w s := rfl
@[simp] theorem exec_isub {d a b w s} : exec (.isub d a b w) s = execIsub d a b w s := rfl
@[simp] theorem exec_imin {d a b w s} : exec (.imin d a b w) s = execImin d a b w s := rfl
@[simp] theorem exec_imax {d a b w s} : exec (.imax d a b w) s = execImax d a b w s := rfl
@[simp] theorem exec_umin {d a b w s} : exec (.umin d a b w) s = execUmin d a b w s := rfl
@[simp] theorem exec_umax {d a b w s} : exec (.umax d a b w) s = execUmax d a b w s := rfl
@[simp] theorem exec_iabsd {d a b w s} : exec (.iabsd d a b w) s = execIabsd d a b w s := rfl
@[simp] theorem exec_iaddi {d a w imm s} : exec (.iaddi d a w imm) s = execIaddi d a w imm s := rfl
@[simp] theorem exec_and {d a b w s} : exec (.and d a b w) s = execAnd d a b w s := rfl
@[simp] theorem exec_or {d a b w s} : exec (.or d a b w) s = execOr d a b w s := rfl
@[simp] theorem exec_xor {d a b w s} : exec (.xor d a b w) s = execXor d a b w s := rfl
@[simp] theorem exec_andn {d a b w s} : exec (.andn d a b w) s = execAndn d a b w s := rfl
@[simp] theorem exec_not {d a w s} : exec (.not d a w) s = execNot d a w s := rfl
@[simp] theorem exec_andi {d a w imm s} : exec (.andi d a w imm) s = execAndi d a w imm s := rfl
@[simp] theorem exec_ori {d a w imm s} : exec (.ori d a w imm) s = execOri d a w imm s := rfl
@[simp] theorem exec_xori {d a w imm s} : exec (.xori d a w imm) s = execXori d a w imm s := rfl
@[simp] theorem exec_shl {d a b w s} : exec (.shl d a b w) s = execShl d a b w s := rfl
@[simp] theorem exec_shr {d a b w s} : exec (.shr d a b w) s = execShr d a b w s := rfl
@[simp] theorem exec_sar {d a b w s} : exec (.sar d a b w) s = execSar d a b w s := rfl
@[simp] theorem exec_ror {d a b w s} : exec (.ror d a b w) s = execRor d a b w s := rfl
@[simp] theorem exec_bfe {d a b w s} : exec (.bfe d a b w) s = execBfe d a b w s := rfl
@[simp] theorem exec_bfi {d a b w s} : exec (.bfi d a b w) s = execBfi d a b w s := rfl
@[simp] theorem exec_shli {d a w n s} : exec (.shli d a w n) s = execShli d a w n s := rfl
@[simp] theorem exec_shri {d a w n s} : exec (.shri d a w n) s = execShri d a w n s := rfl
@[simp] theorem exec_sari {d a w n s} : exec (.sari d a w n) s = execSari d a w n s := rfl
@[simp] theorem exec_rori {d a w n s} : exec (.rori d a w n) s = execRori d a w n s := rfl
@[simp] theorem exec_imul {d a b w s} : exec (.imul d a b w) s = execImul d a b w s := rfl
@[simp] theorem exec_imulh {d a b w s} : exec (.imulh d a b w) s = execImulh d a b w s := rfl
@[simp] theorem exec_umulh {d a b w s} : exec (.umulh d a b w) s = execUmulh d a b w s := rfl
@[simp] theorem exec_idiv {d a b w s} : exec (.idiv d a b w) s = execIdiv d a b w s := rfl
@[simp] theorem exec_udiv {d a b w s} : exec (.udiv d a b w) s = execUdiv d a b w s := rfl
@[simp] theorem exec_irem {d a b w s} : exec (.irem d a b w) s = execIrem d a b w s := rfl
@[simp] theorem exec_urem {d a b w s} : exec (.urem d a b w) s = execUrem d a b w s := rfl
@[simp] theorem exec_imad {d a b c w s} : exec (.imad d a b c w) s = execImad d a b c w s := rfl
@[simp] theorem exec_popc {d a w s} : exec (.popc d a w) s = execPopc d a w s := rfl
@[simp] theorem exec_clz {d a w s} : exec (.clz d a w) s = execClz d a w s := rfl
@[simp] theorem exec_ctz {d a w s} : exec (.ctz d a w) s = execCtz d a w s := rfl
@[simp] theorem exec_brev {d a w s} : exec (.brev d a w) s = execBrev d a w s := rfl
@[simp] theorem exec_bswap {d a w s} : exec (.bswap d a w) s = execBswap d a w s := rfl
@[simp] theorem exec_sext8 {d a w s} : exec (.sext8 d a w) s = execSext8 d a w s := rfl
@[simp] theorem exec_sext16 {d a w s} : exec (.sext16 d a w) s = execSext16 d a w s := rfl
@[simp] theorem exec_icmp {p a b c s} : exec (.icmp p a b c) s = execIcmp p a b c s := rfl
@[simp] theorem exec_icmpi {p a c imm s} : exec (.icmpi p a c imm) s = execIcmpi p a c imm s := rfl
@[simp] theorem exec_movi {d w imm s} : exec (.movi d w imm) s = execMovi d w imm s := rfl
@[simp] theorem exec_sel {d a b w p s} : exec (.sel d a b w p) s = execSel d a b w p s := rfl
@[simp] theorem exec_pand {d a b s} : exec (.pand d a b) s = execPand d a b s := rfl
@[simp] theorem exec_por {d a b s} : exec (.por d a b) s = execPor d a b s := rfl
@[simp] theorem exec_pxor {d a b s} : exec (.pxor d a b) s = execPxor d a b s := rfl
@[simp] theorem exec_pandn {d a b s} : exec (.pandn d a b) s = execPandn d a b s := rfl
@[simp] theorem exec_pmov {d a s} : exec (.pmov d a) s = execPmov d a s := rfl
@[simp] theorem exec_pnz {d a s} : exec (.pnz d a) s = execPnz d a s := rfl
@[simp] theorem exec_ptoi {d a w s} : exec (.ptoi d a w) s = execPtoi d a w s := rfl
@[simp] theorem exec_lea {d a b w x s} : exec (.lea d a b w x) s = execLea d a b w x s := rfl
@[simp] theorem exec_shfli {d a b w s} : exec (.shfli d a b w) s = execShfli d a b w s := rfl
@[simp] theorem exec_shflu {d a b w s} : exec (.shflu d a b w) s = execShflu d a b w s := rfl
@[simp] theorem exec_shfld {d a b w s} : exec (.shfld d a b w) s = execShfld d a b w s := rfl
@[simp] theorem exec_shflx {d a b w s} : exec (.shflx d a b w) s = execShflx d a b w s := rfl
@[simp] theorem exec_swapp {d a w s} : exec (.swapp d a w) s = execSwapp d a w s := rfl
@[simp] theorem exec_bcast {d a b w s} : exec (.bcast d a b w) s = execBcast d a b w s := rfl
@[simp] theorem exec_vany {d a s} : exec (.vany d a) s = execVany d a s := rfl
@[simp] theorem exec_vall {d a s} : exec (.vall d a) s = execVall d a s := rfl
@[simp] theorem exec_vbal {d a w s} : exec (.vbal d a w) s = execVbal d a w s := rfl
@[simp] theorem exec_matchLanes {d a w s} : exec (.matchLanes d a w) s = execMatchLanes d a w s := rfl
@[simp] theorem exec_rdadd {d a w s} : exec (.rdadd d a w) s = execRdadd d a w s := rfl
@[simp] theorem exec_rdmin {d a w s} : exec (.rdmin d a w) s = execRdmin d a w s := rfl
@[simp] theorem exec_rdmax {d a w s} : exec (.rdmax d a w) s = execRdmax d a w s := rfl
@[simp] theorem exec_rdand {d a w s} : exec (.rdand d a w) s = execRdand d a w s := rfl
@[simp] theorem exec_rdor {d a w s} : exec (.rdor d a w) s = execRdor d a w s := rfl
@[simp] theorem exec_rdxor {d a w s} : exec (.rdxor d a w) s = execRdxor d a w s := rfl
@[simp] theorem exec_rdfadd {d a w s} : exec (.rdfadd d a w) s = execRdfadd d a w s := rfl
@[simp] theorem exec_rdfmax {d a w s} : exec (.rdfmax d a w) s = execRdfmax d a w s := rfl
@[simp] theorem exec_scadd {d a w s} : exec (.scadd d a w) s = execScadd d a w s := rfl
@[simp] theorem exec_scfadd {d a w s} : exec (.scfadd d a w) s = execScfadd d a w s := rfl
@[simp] theorem exec_rake {n s} : exec (.rake n) s = execRake n s := rfl
@[simp] theorem exec_fadd {d a b w s} : exec (.fadd d a b w) s = execFadd d a b w s := rfl
@[simp] theorem exec_fsub {d a b w s} : exec (.fsub d a b w) s = execFsub d a b w s := rfl
@[simp] theorem exec_fmul {d a b w s} : exec (.fmul d a b w) s = execFmul d a b w s := rfl
@[simp] theorem exec_fdiv {d a b w s} : exec (.fdiv d a b w) s = execFdiv d a b w s := rfl
@[simp] theorem exec_fmin {d a b w s} : exec (.fmin d a b w) s = execFmin d a b w s := rfl
@[simp] theorem exec_fmax {d a b w s} : exec (.fmax d a b w) s = execFmax d a b w s := rfl
@[simp] theorem exec_fcpsgn {d a b w s} : exec (.fcpsgn d a b w) s = execFcpsgn d a b w s := rfl
@[simp] theorem exec_ffma {d a b c w s} : exec (.ffma d a b c w) s = execFfma d a b c w s := rfl
@[simp] theorem exec_ffms {d a b c w s} : exec (.ffms d a b c w) s = execFfms d a b c w s := rfl
@[simp] theorem exec_fcmp {p a b c s} : exec (.fcmp p a b c) s = execFcmp p a b c s := rfl
@[simp] theorem exec_faddi {d a w imm s} : exec (.faddi d a w imm) s = execFaddi d a w imm s := rfl
@[simp] theorem exec_frndn {d a w s} : exec (.frndn d a w) s = execFrndn d a w s := rfl
@[simp] theorem exec_frndz {d a w s} : exec (.frndz d a w) s = execFrndz d a w s := rfl
@[simp] theorem exec_frndu {d a w s} : exec (.frndu d a w) s = execFrndu d a w s := rfl
@[simp] theorem exec_frndd {d a w s} : exec (.frndd d a w) s = execFrndd d a w s := rfl
@[simp] theorem exec_ffrac {d a w s} : exec (.ffrac d a w) s = execFfrac d a w s := rfl
@[simp] theorem exec_fabs {d a w s} : exec (.fabs d a w) s = execFabs d a w s := rfl
@[simp] theorem exec_fneg {d a w s} : exec (.fneg d a w) s = execFneg d a w s := rfl
@[simp] theorem exec_fclass {d a w s} : exec (.fclass d a w) s = execFclass d a w s := rfl
@[simp] theorem exec_hadd2 {d a b w s} : exec (.hadd2 d a b w) s = execHadd2 d a b w s := rfl
@[simp] theorem exec_hmul2 {d a b w s} : exec (.hmul2 d a b w) s = execHmul2 d a b w s := rfl
@[simp] theorem exec_badd2 {d a b w s} : exec (.badd2 d a b w) s = execBadd2 d a b w s := rfl
@[simp] theorem exec_bmul2 {d a b w s} : exec (.bmul2 d a b w) s = execBmul2 d a b w s := rfl
@[simp] theorem exec_hfma2 {d a b c w s} : exec (.hfma2 d a b c w) s = execHfma2 d a b c w s := rfl
@[simp] theorem exec_bfma2 {d a b c w s} : exec (.bfma2 d a b c w) s = execBfma2 d a b c w s := rfl
@[simp] theorem exec_dadd {d a b w s} : exec (.dadd d a b w) s = execDadd d a b w s := rfl
@[simp] theorem exec_dsub {d a b w s} : exec (.dsub d a b w) s = execDsub d a b w s := rfl
@[simp] theorem exec_dmul {d a b w s} : exec (.dmul d a b w) s = execDmul d a b w s := rfl
@[simp] theorem exec_ddiv {d a b w s} : exec (.ddiv d a b w) s = execDdiv d a b w s := rfl
@[simp] theorem exec_dsqrt {d a w s} : exec (.dsqrt d a w) s = execDsqrt d a w s := rfl
@[simp] theorem exec_dfma {d a b c w s} : exec (.dfma d a b c w) s = execDfma d a b c w s := rfl
@[simp] theorem exec_dcmp {p a b c s} : exec (.dcmp p a b c) s = execDcmp p a b c s := rfl
@[simp] theorem exec_rcp {d a w s} : exec (.rcp d a w) s = execRcp d a w s := rfl
@[simp] theorem exec_rsq {d a w s} : exec (.rsq d a w) s = execRsq d a w s := rfl
@[simp] theorem exec_sqrt {d a w s} : exec (.sqrt d a w) s = execSqrt d a w s := rfl
@[simp] theorem exec_ex2 {d a w s} : exec (.ex2 d a w) s = execEx2 d a w s := rfl
@[simp] theorem exec_lg2 {d a w s} : exec (.lg2 d a w) s = execLg2 d a w s := rfl
@[simp] theorem exec_sint {d a w s} : exec (.sint d a w) s = execSint d a w s := rfl
@[simp] theorem exec_cost {d a w s} : exec (.cost d a w) s = execCost d a w s := rfl
@[simp] theorem exec_tanh {d a w s} : exec (.tanh d a w) s = execTanh d a w s := rfl
@[simp] theorem exec_itof {d a w s} : exec (.itof d a w) s = execItof d a w s := rfl
@[simp] theorem exec_utof {d a w s} : exec (.utof d a w) s = execUtof d a w s := rfl
@[simp] theorem exec_ftoi {d a w s} : exec (.ftoi d a w) s = execFtoi d a w s := rfl
@[simp] theorem exec_ftou {d a w s} : exec (.ftou d a w) s = execFtou d a w s := rfl
@[simp] theorem exec_ftod {d a w s} : exec (.ftod d a w) s = execFtod d a w s := rfl
@[simp] theorem exec_dtof {d a w s} : exec (.dtof d a w) s = execDtof d a w s := rfl
@[simp] theorem exec_itod {d a w s} : exec (.itod d a w) s = execItod d a w s := rfl
@[simp] theorem exec_dtoi {d a w s} : exec (.dtoi d a w) s = execDtoi d a w s := rfl
@[simp] theorem exec_ftoh2 {d a b w s} : exec (.ftoh2 d a b w) s = execFtoh2 d a b w s := rfl
@[simp] theorem exec_htofl {d a w s} : exec (.htofl d a w) s = execHtofl d a w s := rfl
@[simp] theorem exec_htofh {d a w s} : exec (.htofh d a w) s = execHtofh d a w s := rfl
@[simp] theorem exec_ftob2 {d a b w s} : exec (.ftob2 d a b w) s = execFtob2 d a b w s := rfl
@[simp] theorem exec_btofl {d a w s} : exec (.btofl d a w) s = execBtofl d a w s := rfl
@[simp] theorem exec_btofh {d a w s} : exec (.btofh d a w) s = execBtofh d a w s := rfl
@[simp] theorem exec_x8e4 {d a b w s} : exec (.x8e4 d a b w) s = execX8e4 d a b w s := rfl
@[simp] theorem exec_x8e5 {d a b w s} : exec (.x8e5 d a b w) s = execX8e5 d a b w s := rfl
@[simp] theorem exec_x6a {d a b w s} : exec (.x6a d a b w) s = execX6a d a b w s := rfl
@[simp] theorem exec_x6b {d a b w s} : exec (.x6b d a b w) s = execX6b d a b w s := rfl
@[simp] theorem exec_xi4o {d a b w s} : exec (.xi4o d a b w) s = execXi4o d a b w s := rfl
@[simp] theorem exec_xi8 {d a b w s} : exec (.xi8 d a b w) s = execXi8 d a b w s := rfl
@[simp] theorem exec_p8e4 {d a b s} : exec (.p8e4 d a b) s = execP8e4 d a b s := rfl
@[simp] theorem exec_p8e5 {d a b s} : exec (.p8e5 d a b) s = execP8e5 d a b s := rfl
@[simp] theorem exec_p6a {d a b s} : exec (.p6a d a b) s = execP6a d a b s := rfl
@[simp] theorem exec_p6b {d a b s} : exec (.p6b d a b) s = execP6b d a b s := rfl
@[simp] theorem exec_pi4o {d a b s} : exec (.pi4o d a b) s = execPi4o d a b s := rfl
@[simp] theorem exec_pi8 {d a b s} : exec (.pi8 d a b) s = execPi8 d a b s := rfl
@[simp] theorem exec_rmake {d a b w s} : exec (.rmake d a b w) s = execRmake d a b w s := rfl
@[simp] theorem exec_rnum {d a w s} : exec (.rnum d a w) s = execRnum d a w s := rfl
@[simp] theorem exec_rden {d a w s} : exec (.rden d a w) s = execRden d a w s := rfl
@[simp] theorem exec_rmed {d a b w s} : exec (.rmed d a b w) s = execRmed d a b w s := rfl
@[simp] theorem exec_rgcd {d a b w s} : exec (.rgcd d a b w) s = execRgcd d a b w s := rfl
@[simp] theorem exec_rflr {d a w s} : exec (.rflr d a w) s = execRflr d a w s := rfl
@[simp] theorem exec_rtof {d a w s} : exec (.rtof d a w) s = execRtof d a w s := rfl
@[simp] theorem exec_ftor {d a w s} : exec (.ftor d a w) s = execFtor d a w s := rfl
@[simp] theorem exec_rmode {r m e s} : exec (.rmode r m e) s = execRmode r m e s := rfl
@[simp] theorem exec_bra {p x d s} : exec (.bra p x d) s = execBra p x d s := rfl
@[simp] theorem exec_call {p x d s} : exec (.call p x d) s = execCall p x d s := rfl
@[simp] theorem exec_brx {a s} : exec (.brx a) s = execBrx a s := rfl
@[simp] theorem exec_callx {a s} : exec (.callx a) s = execCallx a s := rfl
@[simp] theorem exec_ret {s} : exec .ret s = execRet s := rfl
@[simp] theorem exec_exit {s} : exec .exit s = execExit s := rfl
@[simp] theorem exec_yield {s} : exec .yield s = execYield s := rfl
@[simp] theorem exec_nop {s} : exec .nop s = execNop s := rfl
@[simp] theorem exec_barinit {a b s} : exec (.barinit a b) s = execBarinit a b s := rfl
@[simp] theorem exec_bararr {d a w s} : exec (.bararr d a w) s = execBararr d a w s := rfl
@[simp] theorem exec_barwait {a b s} : exec (.barwait a b) s = execBarwait a b s := rfl
@[simp] theorem exec_bararw {d a w s} : exec (.bararw d a w) s = execBararw d a w s := rfl
@[simp] theorem exec_bartest {p a b s} : exec (.bartest p a b) s = execBartest p a b s := rfl
@[simp] theorem exec_bardrop {a s} : exec (.bardrop a) s = execBardrop a s := rfl
@[simp] theorem exec_barinv {a s} : exec (.barinv a) s = execBarinv a s := rfl
@[simp] theorem exec_barph {d a w s} : exec (.barph d a w) s = execBarph d a w s := rfl
@[simp] theorem exec_fence {p x c s} : exec (.fence p x c) s = execFence p x c s := rfl
@[simp] theorem exec_tlwait {a b s} : exec (.tlwait a b) s = execTlwait a b s := rfl
@[simp] theorem exec_tlread {d a w s} : exec (.tlread d a w) s = execTlread d a w s := rfl
@[simp] theorem exec_tlpoll {p a b s} : exec (.tlpoll p a b) s = execTlpoll p a b s := rfl
@[simp] theorem exec_tlsig {a b s} : exec (.tlsig a b) s = execTlsig a b s := rfl
@[simp] theorem exec_tkwait {m s} : exec (.tkwait m) s = execTkwait m s := rfl
@[simp] theorem exec_tkany {d w m s} : exec (.tkany d w m) s = execTkany d w m s := rfl
@[simp] theorem exec_tktest {p m s} : exec (.tktest p m) s = execTktest p m s := rfl
@[simp] theorem exec_ld8 {v a h o s} : exec (.ld8 v a h o) s = execLd8 v a h o s := rfl
@[simp] theorem exec_ld8s {v a h o s} : exec (.ld8s v a h o) s = execLd8s v a h o s := rfl
@[simp] theorem exec_ld16 {v a h o s} : exec (.ld16 v a h o) s = execLd16 v a h o s := rfl
@[simp] theorem exec_ld16s {v a h o s} : exec (.ld16s v a h o) s = execLd16s v a h o s := rfl
@[simp] theorem exec_ld32 {v a h o s} : exec (.ld32 v a h o) s = execLd32 v a h o s := rfl
@[simp] theorem exec_ld64 {v a h o s} : exec (.ld64 v a h o) s = execLd64 v a h o s := rfl
@[simp] theorem exec_ld128 {v a h o s} : exec (.ld128 v a h o) s = execLd128 v a h o s := rfl
@[simp] theorem exec_ldnt {v a h o s} : exec (.ldnt v a h o) s = execLdnt v a h o s := rfl
@[simp] theorem exec_st8 {v a h o s} : exec (.st8 v a h o) s = execSt8 v a h o s := rfl
@[simp] theorem exec_st16 {v a h o s} : exec (.st16 v a h o) s = execSt16 v a h o s := rfl
@[simp] theorem exec_st32 {v a h o s} : exec (.st32 v a h o) s = execSt32 v a h o s := rfl
@[simp] theorem exec_st64 {v a h o s} : exec (.st64 v a h o) s = execSt64 v a h o s := rfl
@[simp] theorem exec_st128 {v a h o s} : exec (.st128 v a h o) s = execSt128 v a h o s := rfl
@[simp] theorem exec_stnt {v a h o s} : exec (.stnt v a h o) s = execStnt v a h o s := rfl
@[simp] theorem exec_aadd {v a h o s} : exec (.aadd v a h o) s = execAadd v a h o s := rfl
@[simp] theorem exec_amin {v a h o s} : exec (.amin v a h o) s = execAmin v a h o s := rfl
@[simp] theorem exec_amax {v a h o s} : exec (.amax v a h o) s = execAmax v a h o s := rfl
@[simp] theorem exec_aumin {v a h o s} : exec (.aumin v a h o) s = execAumin v a h o s := rfl
@[simp] theorem exec_aand {v a h o s} : exec (.aand v a h o) s = execAand v a h o s := rfl
@[simp] theorem exec_aor {v a h o s} : exec (.aor v a h o) s = execAor v a h o s := rfl
@[simp] theorem exec_axor {v a h o s} : exec (.axor v a h o) s = execAxor v a h o s := rfl
@[simp] theorem exec_axch {v a h o s} : exec (.axch v a h o) s = execAxch v a h o s := rfl
@[simp] theorem exec_aadd64 {v a h o s} : exec (.aadd64 v a h o) s = execAadd64 v a h o s := rfl
@[simp] theorem exec_amin64 {v a h o s} : exec (.amin64 v a h o) s = execAmin64 v a h o s := rfl
@[simp] theorem exec_amax64 {v a h o s} : exec (.amax64 v a h o) s = execAmax64 v a h o s := rfl
@[simp] theorem exec_aand64 {v a h o s} : exec (.aand64 v a h o) s = execAand64 v a h o s := rfl
@[simp] theorem exec_aor64 {v a h o s} : exec (.aor64 v a h o) s = execAor64 v a h o s := rfl
@[simp] theorem exec_axor64 {v a h o s} : exec (.axor64 v a h o) s = execAxor64 v a h o s := rfl
@[simp] theorem exec_axch64 {v a h o s} : exec (.axch64 v a h o) s = execAxch64 v a h o s := rfl
@[simp] theorem exec_afadd {v a h o s} : exec (.afadd v a h o) s = execAfadd v a h o s := rfl
@[simp] theorem exec_cas32 {v a h o s} : exec (.cas32 v a h o) s = execCas32 v a h o s := rfl
@[simp] theorem exec_cas64 {v a h o s} : exec (.cas64 v a h o) s = execCas64 v a h o s := rfl
@[simp] theorem exec_redadd {v a h o s} : exec (.redadd v a h o) s = execRedadd v a h o s := rfl
@[simp] theorem exec_redmin {v a h o s} : exec (.redmin v a h o) s = execRedmin v a h o s := rfl
@[simp] theorem exec_redmax {v a h o s} : exec (.redmax v a h o) s = execRedmax v a h o s := rfl
@[simp] theorem exec_redand {v a h o s} : exec (.redand v a h o) s = execRedand v a h o s := rfl
@[simp] theorem exec_redor {v a h o s} : exec (.redor v a h o) s = execRedor v a h o s := rfl
@[simp] theorem exec_redxor {v a h o s} : exec (.redxor v a h o) s = execRedxor v a h o s := rfl
@[simp] theorem exec_redfadd {v a h o s} : exec (.redfadd v a h o) s = execRedfadd v a h o s := rfl
@[simp] theorem exec_redbfadd {v a h o s} : exec (.redbfadd v a h o) s = execRedbfadd v a h o s := rfl
@[simp] theorem exec_sbind {v a h s} : exec (.sbind v a h) s = execSbind v a h s := rfl
@[simp] theorem exec_sflush {v s} : exec (.sflush v) s = execSflush v s := rfl
@[simp] theorem exec_sdrop {v s} : exec (.sdrop v) s = execSdrop v s := rfl
@[simp] theorem exec_pref {a h s} : exec (.pref a h) s = execPref a h s := rfl
@[simp] theorem exec_cflush {a h s} : exec (.cflush a h) s = execCflush a h s := rfl
@[simp] theorem exec_texs {a b s} : exec (.texs a b) s = execTexs a b s := rfl
@[simp] theorem exec_texl {a b s} : exec (.texl a b) s = execTexl a b s := rfl
@[simp] theorem exec_texg {a b s} : exec (.texg a b) s = execTexg a b s := rfl
@[simp] theorem exec_texq {a b s} : exec (.texq a b) s = execTexq a b s := rfl
@[simp] theorem exec_rbegin {d a w s} : exec (.rbegin d a w) s = execRbegin d a w s := rfl
@[simp] theorem exec_rdraw {d a b w s} : exec (.rdraw d a b w) s = execRdraw d a b w s := rfl
@[simp] theorem exec_rflush {d a w s} : exec (.rflush d a w) s = execRflush d a w s := rfl
@[simp] theorem exec_mma {t a z f s} : exec (.mma t a z f) s = execMma t a z f s := rfl
@[simp] theorem exec_mmas {t a b x z f s} : exec (.mmas t a b x z f) s = execMmas t a b x z f s := rfl
@[simp] theorem exec_mlda {t a b x z s} : exec (.mlda t a b x z) s = execMlda t a b x z s := rfl
@[simp] theorem exec_mldw {t a b x s} : exec (.mldw t a b x) s = execMldw t a b x s := rfl
@[simp] theorem exec_macz {t s} : exec (.macz t) s = execMacz t s := rfl
@[simp] theorem exec_macld {t a s} : exec (.macld t a) s = execMacld t a s := rfl
@[simp] theorem exec_macst {t a s} : exec (.macst t a) s = execMacst t a s := rfl
@[simp] theorem exec_mrow {t a s} : exec (.mrow t a) s = execMrow t a s := rfl
@[simp] theorem exec_msync {s} : exec .msync s = execMsync s := rfl
@[simp] theorem exec_mcfg {t a s} : exec (.mcfg t a) s = execMcfg t a s := rfl
@[simp] theorem exec_mpop {d w s} : exec (.mpop d w) s = execMpop d w s := rfl
@[simp] theorem exec_mpopb {d w s} : exec (.mpopb d w) s = execMpopb d w s := rfl
@[simp] theorem exec_frcopy {k a b s} : exec (.frcopy k a b) s = execFrcopy k a b s := rfl
@[simp] theorem exec_frfill {k a b s} : exec (.frfill k a b) s = execFrfill k a b s := rfl
@[simp] theorem exec_frgath {k a b s} : exec (.frgath k a b) s = execFrgath k a b s := rfl
@[simp] theorem exec_frscat {k a b s} : exec (.frscat k a b) s = execFrscat k a b s := rfl
@[simp] theorem exec_frred {k a b s} : exec (.frred k a b) s = execFrred k a b s := rfl
@[simp] theorem exec_frpf {k a b s} : exec (.frpf k a b) s = execFrpf k a b s := rfl
@[simp] theorem exec_spawn {d a b w s} : exec (.spawn d a b w) s = execSpawn d a b w s := rfl
@[simp] theorem exec_join {d a b w s} : exec (.join d a b w) s = execJoin d a b w s := rfl
@[simp] theorem exec_enq {d a b w s} : exec (.enq d a b w) s = execEnq d a b w s := rfl
@[simp] theorem exec_deq {d a b w s} : exec (.deq d a b w) s = execDeq d a b w s := rfl
@[simp] theorem exec_launch {d a b w s} : exec (.launch d a b w) s = execLaunch d a b w s := rfl
@[simp] theorem exec_cancel {a w s} : exec (.cancel a w) s = execCancel a w s := rfl
@[simp] theorem exec_cntrd {d a w s} : exec (.cntrd d a w) s = execCntrd d a w s := rfl
@[simp] theorem exec_lwait {d a w s} : exec (.lwait d a w) s = execLwait d a w s := rfl
@[simp] theorem exec_lemit {d a b w s} : exec (.lemit d a b w) s = execLemit d a b w s := rfl
@[simp] theorem exec_mesrch {a b s} : exec (.mesrch a b) s = execMesrch a b s := rfl
@[simp] theorem exec_warpb {a b s} : exec (.warpb a b) s = execWarpb a b s := rfl
@[simp] theorem exec_fbset {d a b w s} : exec (.fbset d a b w) s = execFbset d a b w s := rfl
@[simp] theorem exec_tmstat {d a w s} : exec (.tmstat d a w) s = execTmstat d a w s := rfl
@[simp] theorem exec_dlread {d a w s} : exec (.dlread d a w) s = execDlread d a w s := rfl
@[simp] theorem exec_trap {a s} : exec (.trap a) s = execTrap a s := rfl
@[simp] theorem exec_rdsr {d b w s} : exec (.rdsr d b w) s = execRdsr d b w s := rfl
@[simp] theorem exec_wrsr {a b s} : exec (.wrsr a b) s = execWrsr a b s := rfl
@[simp] theorem exec_cyc {d w s} : exec (.cyc d w) s = execCyc d w s := rfl
@[simp] theorem exec_eret {s} : exec .eret s = execEret s := rfl
@[simp] theorem exec_brk {s} : exec .brk s = execBrk s := rfl
@[simp] theorem exec_scall {a s} : exec (.scall a) s = execScall a s := rfl
@[simp] theorem exec_halt {s} : exec .halt s = execHalt s := rfl
@[simp] theorem exec_mseal {d a b s} : exec (.mseal d a b) s = execMseal d a b s := rfl
@[simp] theorem exec_mharv {d a b s} : exec (.mharv d a b) s = execMharv d a b s := rfl
@[simp] theorem exec_mquery {d a b s} : exec (.mquery d a b) s = execMquery d a b s := rfl
@[simp] theorem exec_mretire {d a b s} : exec (.mretire d a b) s = execMretire d a b s := rfl
@[simp] theorem exec_tlbinv {a b s} : exec (.tlbinv a b) s = execTlbinv a b s := rfl
@[simp] theorem exec_tlbinva {b s} : exec (.tlbinva b) s = execTlbinva b s := rfl
@[simp] theorem exec_hintConst {k s} : exec (.hintConst k) s = execHintConst k s := rfl
@[simp] theorem exec_hintGuard {p x n s} : exec (.hintGuard p x n) s = execHintGuard p x n s := rfl
@[simp] theorem exec_hintHold {n s} : exec (.hintHold n) s = execHintHold n s := rfl
@[simp] theorem exec_hintScope {x o s} : exec (.hintScope x o) s = execHintScope x o s := rfl
@[simp] theorem exec_hintRound {m s} : exec (.hintRound m) s = execHintRound m s := rfl
@[simp] theorem exec_hintMod {t f a b c s} : exec (.hintMod t f a b c) s = execHintMod t f a b c s := rfl
@[simp] theorem exec_hintSched {n y s} : exec (.hintSched n y) s = execHintSched n y s := rfl
@[simp] theorem exec_loadDataReturn {consist lane n s} : exec (.loadDataReturn consist lane n) s = execLoadDataReturn consist lane n s := rfl
@[simp] theorem exec_variableLatencyComplete {consist n s} : exec (.variableLatencyComplete consist n) s = execVariableLatencyComplete consist n s := rfl
@[simp] theorem exec_qlockDetect {consist s} : exec (.qlockDetect consist) s = execQlockDetect consist s := rfl
@[simp] theorem exec_runDeferral {consist aStream blocked s} : exec (.runDeferral consist aStream blocked) s = execRunDeferral consist aStream blocked s := rfl
@[simp] theorem exec_registerTierMove {consist s} : exec (.registerTierMove consist) s = execRegisterTierMove consist s := rfl
@[simp] theorem exec_registerTierRecall {consist s} : exec (.registerTierRecall consist) s = execRegisterTierRecall consist s := rfl
@[simp] theorem exec_asyncTrapDelivery {consist s} : exec (.asyncTrapDelivery consist) s = execAsyncTrapDelivery consist s := rfl
@[simp] theorem exec_consistExitReport {consist s} : exec (.consistExitReport consist) s = execConsistExitReport consist s := rfl
@[simp] theorem exec_sideLogReplay {core s} : exec (.sideLogReplay core) s = execSideLogReplay core s := rfl
@[simp] theorem exec_tlbProbe {core sess va s} : exec (.tlbProbe core sess va) s = execTlbProbe core sess va s := rfl
@[simp] theorem exec_pageWalk {core sess va write s} : exec (.pageWalk core sess va write) s = execPageWalk core sess va write s := rfl
@[simp] theorem exec_faultRecordPost {sess s} : exec (.faultRecordPost sess) s = execFaultRecordPost sess s := rfl
@[simp] theorem exec_cowBreak {sess va s} : exec (.cowBreak sess va) s = execCowBreak sess va s := rfl
@[simp] theorem exec_tileExecute {consist s} : exec (.tileExecute consist) s = execTileExecute consist s := rfl
@[simp] theorem exec_tileComplete {consist s} : exec (.tileComplete consist) s = execTileComplete consist s := rfl
@[simp] theorem exec_rowQueueGrant {core s} : exec (.rowQueueGrant core) s = execRowQueueGrant core s := rfl
@[simp] theorem exec_mrowPush {consist s} : exec (.mrowPush consist) s = execMrowPush consist s := rfl
@[simp] theorem exec_freightOperationStart {sess ctx s} : exec (.freightOperationStart sess ctx) s = execFreightOperationStart sess ctx s := rfl
@[simp] theorem exec_freightOperationComplete {sess ctx s} : exec (.freightOperationComplete sess ctx) s = execFreightOperationComplete sess ctx s := rfl
@[simp] theorem exec_freightFault {sess ctx s} : exec (.freightFault sess ctx) s = execFreightFault sess ctx s := rfl
@[simp] theorem exec_freightAssemblyAbandon {convoy ctx s} : exec (.freightAssemblyAbandon convoy ctx) s = execFreightAssemblyAbandon convoy ctx s := rfl
@[simp] theorem exec_convoyExpand {core s} : exec (.convoyExpand core) s = execConvoyExpand core s := rfl
@[simp] theorem exec_engineJoin {sess slot s} : exec (.engineJoin sess slot) s = execEngineJoin sess slot s := rfl
@[simp] theorem exec_partitionFlip {die s} : exec (.partitionFlip die) s = execPartitionFlip die s := rfl
@[simp] theorem exec_contextSwap {core s} : exec (.contextSwap core) s = execContextSwap core s := rfl
@[simp] theorem exec_convoyResume {core s} : exec (.convoyResume core) s = execConvoyResume core s := rfl
@[simp] theorem exec_rasterDrawBin {station s} : exec (.rasterDrawBin station) s = execRasterDrawBin station s := rfl
@[simp] theorem exec_rasterPassComplete {station s} : exec (.rasterPassComplete station) s = execRasterPassComplete station s := rfl
@[simp] theorem exec_rasterFault {station s} : exec (.rasterFault station) s = execRasterFault station s := rfl
@[simp] theorem exec_rasterPassAbandon {station slot s} : exec (.rasterPassAbandon station slot) s = execRasterPassAbandon station slot s := rfl
@[simp] theorem exec_textureResult {consist lane n s} : exec (.textureResult consist lane n) s = execTextureResult consist lane n s := rfl
@[simp] theorem exec_bandWindowOpen {die stream s} : exec (.bandWindowOpen die stream) s = execBandWindowOpen die stream s := rfl
@[simp] theorem exec_preparedImageReady {die stream s} : exec (.preparedImageReady die stream) s = execPreparedImageReady die stream s := rfl
@[simp] theorem exec_lemitCopyComplete {die stream s} : exec (.lemitCopyComplete die stream) s = execLemitCopyComplete die stream s := rfl
@[simp] theorem exec_fbsetCopyComplete {die stream s} : exec (.fbsetCopyComplete die stream) s = execFbsetCopyComplete die stream s := rfl
@[simp] theorem exec_warpbComplete {die stream s} : exec (.warpbComplete die stream) s = execWarpbComplete die stream s := rfl
@[simp] theorem exec_mesrchResult {die stream s} : exec (.mesrchResult die stream) s = execMesrchResult die stream s := rfl
@[simp] theorem exec_bandSettle {die stream s} : exec (.bandSettle die stream) s = execBandSettle die stream s := rfl
@[simp] theorem exec_tapHistoryWrite {die stream s} : exec (.tapHistoryWrite die stream) s = execTapHistoryWrite die stream s := rfl
@[simp] theorem exec_encoderTap {die stream s} : exec (.encoderTap die stream) s = execEncoderTap die stream s := rfl
@[simp] theorem exec_encoderTileRow {die stream s} : exec (.encoderTileRow die stream) s = execEncoderTileRow die stream s := rfl
@[simp] theorem exec_streamStopEffect {die stream s} : exec (.streamStopEffect die stream) s = execStreamStopEffect die stream s := rfl
@[simp] theorem exec_streamMove {die stream s} : exec (.streamMove die stream) s = execStreamMove die stream s := rfl
@[simp] theorem exec_sealHash {sess n s} : exec (.sealHash sess n) s = execSealHash sess n s := rfl
@[simp] theorem exec_sealLookup {sess n s} : exec (.sealLookup sess n) s = execSealLookup sess n s := rfl
@[simp] theorem exec_sealCommit {sess n s} : exec (.sealCommit sess n) s = execSealCommit sess n s := rfl
@[simp] theorem exec_sealAbort {sess n s} : exec (.sealAbort sess n) s = execSealAbort sess n s := rfl
@[simp] theorem exec_quiescenceVisit {sess va s} : exec (.quiescenceVisit sess va) s = execQuiescenceVisit sess va s := rfl
@[simp] theorem exec_manifestRequestComplete {sess s} : exec (.manifestRequestComplete sess) s = execManifestRequestComplete sess s := rfl
@[simp] theorem exec_keyRevokeComplete {die slot s} : exec (.keyRevokeComplete die slot) s = execKeyRevokeComplete die slot s := rfl
@[simp] theorem exec_transferTablesMoved {sess s} : exec (.transferTablesMoved sess) s = execTransferTablesMoved sess s := rfl
@[simp] theorem exec_frameDrift {sess frame s} : exec (.frameDrift sess frame) s = execFrameDrift sess frame s := rfl
@[simp] theorem exec_transferComplete {sess s} : exec (.transferComplete sess) s = execTransferComplete sess s := rfl
@[simp] theorem exec_slipComplete {sess s} : exec (.slipComplete sess) s = execSlipComplete sess s := rfl
@[simp] theorem exec_sessParkComplete {sess s} : exec (.sessParkComplete sess) s = execSessParkComplete sess s := rfl
@[simp] theorem exec_depotEndProceed {sess s} : exec (.depotEndProceed sess) s = execDepotEndProceed sess s := rfl
@[simp] theorem exec_sessEndComplete {sess s} : exec (.sessEndComplete sess) s = execSessEndComplete sess s := rfl
@[simp] theorem exec_submitResume {q s} : exec (.submitResume q) s = execSubmitResume q s := rfl
@[simp] theorem exec_sqtail {q value s} : exec (.sqtail q value) s = execSqtail q value s := rfl
@[simp] theorem exec_restart {q s} : exec (.restart q) s = execRestart q s := rfl
@[simp] theorem exec_commandFetch {q s} : exec (.commandFetch q) s = execCommandFetch q s := rfl
@[simp] theorem exec_forwardedCommand {die s} : exec (.forwardedCommand die) s = execForwardedCommand die s := rfl
@[simp] theorem exec_sessNew {q ops s} : exec (.sessNew q ops) s = execSessNew q ops s := rfl
@[simp] theorem exec_sessSlip {q source sess die cores s} : exec (.sessSlip q source sess die cores) s = execSessSlip q source sess die cores s := rfl
@[simp] theorem exec_sessMove {q sess die cores s} : exec (.sessMove q sess die cores) s = execSessMove q sess die cores s := rfl
@[simp] theorem exec_sessMoveExtend {q sess die cores s} : exec (.sessMoveExtend q sess die cores) s = execSessMoveExtend q sess die cores s := rfl
@[simp] theorem exec_sessEnd {q sess s} : exec (.sessEnd q sess) s = execSessEnd q sess s := rfl
@[simp] theorem exec_sessEndPark {q sess s} : exec (.sessEndPark q sess) s = execSessEndPark q sess s := rfl
@[simp] theorem exec_sessEndKill {q sess s} : exec (.sessEndKill q sess) s = execSessEndKill q sess s := rfl
@[simp] theorem exec_keyLoad {q slot die blob s} : exec (.keyLoad q slot die blob) s = execKeyLoad q slot die blob s := rfl
@[simp] theorem exec_keyDrop {q slot die s} : exec (.keyDrop q slot die) s = execKeyDrop q slot die s := rfl
@[simp] theorem exec_layoutPut {q sess ctx layout record s} : exec (.layoutPut q sess ctx layout record) s = execLayoutPut q sess ctx layout record s := rfl
@[simp] theorem exec_layoutPutReset {q sess ctx s} : exec (.layoutPutReset q sess ctx) s = execLayoutPutReset q sess ctx s := rfl
@[simp] theorem exec_submit {q sess waybill rank sup s} : exec (.submit q sess waybill rank sup) s = execSubmit q sess waybill rank sup s := rfl
@[simp] theorem exec_streamSetStart {q ops s} : exec (.streamSetStart q ops) s = execStreamSetStart q ops s := rfl
@[simp] theorem exec_streamSetStop {q sess stream s} : exec (.streamSetStop q sess stream) s = execStreamSetStop q sess stream s := rfl
@[simp] theorem exec_streamSetRestart {q sess stream header frame s} : exec (.streamSetRestart q sess stream header frame) s = execStreamSetRestart q sess stream header frame s := rfl
@[simp] theorem exec_attest {q sess nonce buffer s} : exec (.attest q sess nonce buffer) s = execAttest q sess nonce buffer s := rfl
@[simp] theorem exec_capsRead {q buffer len s} : exec (.capsRead q buffer len) s = execCapsRead q buffer len s := rfl
@[simp] theorem exec_rasLog {q buffer len clear s} : exec (.rasLog q buffer len clear) s = execRasLog q buffer len clear s := rfl
@[simp] theorem exec_hostAccess {func addr size write data s} : exec (.hostAccess func addr size write data) s = execHostAccess func addr size write data s := rfl
@[simp] theorem exec_dieLinkFlit {src dst good s} : exec (.dieLinkFlit src dst good) s = execDieLinkFlit src dst good s := rfl
@[simp] theorem exec_linkResync {src dst s} : exec (.linkResync src dst) s = execLinkResync src dst s := rfl
@[simp] theorem exec_linkDown {src dst s} : exec (.linkDown src dst) s = execLinkDown src dst s := rfl
@[simp] theorem exec_linkRekey {src dst s} : exec (.linkRekey src dst) s = execLinkRekey src dst s := rfl
@[simp] theorem exec_dieReset {die s} : exec (.dieReset die) s = execDieReset die s := rfl
@[simp] theorem exec_uncorrectableError {die ops s} : exec (.uncorrectableError die ops) s = execUncorrectableError die ops s := rfl
@[simp] theorem exec_dramCorrectionReport {die channel count s} : exec (.dramCorrectionReport die channel count) s = execDramCorrectionReport die channel count s := rfl
@[simp] theorem exec_rasctlClr {die s} : exec (.rasctlClr die) s = execRasctlClr die s := rfl
@[simp] theorem exec_injctlArm {die value s} : exec (.injctlArm die value) s = execInjctlArm die value s := rfl
@[simp] theorem exec_vfk {die k value s} : exec (.vfk die k value) s = execVfk die k value s := rfl
@[simp] theorem exec_keyreq {die stream s} : exec (.keyreq die stream) s = execKeyreq die stream s := rfl
@[simp] theorem exec_registerWrite {block unit offset value s} : exec (.registerWrite block unit offset value) s = execRegisterWrite block unit offset value s := rfl
@[simp] theorem exec_powerAverage {die milliwatts s} : exec (.powerAverage die milliwatts) s = execPowerAverage die milliwatts s := rfl
@[simp] theorem exec_supplyDip {die station s} : exec (.supplyDip die station) s = execSupplyDip die station s := rfl
@[simp] theorem exec_supplyRecovery {die station s} : exec (.supplyRecovery die station) s = execSupplyRecovery die station s := rfl
@[simp] theorem exec_throttle {die sensor reading s} : exec (.throttle die sensor reading) s = execThrottle die sensor reading s := rfl
@[simp] theorem exec_thermalTrip {die sensor reading s} : exec (.thermalTrip die sensor reading) s = execThermalTrip die sensor reading s := rfl
@[simp] theorem exec_canarySample {die router res s} : exec (.canarySample die router res) s = execCanarySample die router res s := rfl
@[simp] theorem exec_routerRetireMark {die router s} : exec (.routerRetireMark die router) s = execRouterRetireMark die router s := rfl
@[simp] theorem exec_routerRetired {die router s} : exec (.routerRetired die router) s = execRouterRetired die router s := rfl
@[simp] theorem exec_throttleRelease {die sensor reading s} : exec (.throttleRelease die sensor reading) s = execThrottleRelease die sensor reading s := rfl
@[simp] theorem exec_contestedCycle {die column coreAsks engineAsks deadline s} : exec (.contestedCycle die column coreAsks engineAsks deadline) s = execContestedCycle die column coreAsks engineAsks deadline s := rfl
@[simp] theorem exec_tdispRequest {func die run s} : exec (.tdispRequest func die run) s = execTdispRequest func die run s := rfl
@[simp] theorem exec_ideStreamActivation {die stream active s} : exec (.ideStreamActivation die stream active) s = execIdeStreamActivation die stream active s := rfl

end Sys2Proof.Machine
end

