-- ==== Sys2Proof/Laws/Encoding.lean ====
section
/-!
SUPPORT. Laws of the encoding: each field of a packed word reads back.
-/

namespace Sys2Proof

theorem ext_high {n m : Nat} (x : BitVec n) (y : BitVec m) (lo len : Nat) (h : m ≤ lo) :
    (x ++ y).extractLsb' lo len = x.extractLsb' (lo - m) len := by
  apply BitVec.eq_of_getLsbD_eq
  intro i hi
  simp only [BitVec.getLsbD_extractLsb', BitVec.getLsbD_append, hi, decide_true, Bool.true_and]
  have : ¬ (lo + i < m) := by omega
  simp only [this, if_false]
  congr 1; omega

theorem ext_low {n m : Nat} (x : BitVec n) (y : BitVec m) (lo len : Nat) (h : lo + len ≤ m) :
    (x ++ y).extractLsb' lo len = y.extractLsb' lo len := by
  apply BitVec.eq_of_getLsbD_eq
  intro i hi
  simp only [BitVec.getLsbD_extractLsb', BitVec.getLsbD_append, hi, decide_true, Bool.true_and]
  have : lo + i < m := by omega
  simp only [this, if_true]

theorem ext_all {n : Nat} (x : BitVec n) : x.extractLsb' 0 n = x := by
  apply BitVec.eq_of_getLsbD_eq
  intro i hi
  simp [hi]

/-- A field of the packed low part of a word. -/
theorem ext_ext {n : Nat} (x : BitVec n) (lo len lo' len' : Nat) (h : lo' + len' ≤ len) :
    (x.extractLsb' lo len).extractLsb' lo' len' = x.extractLsb' (lo + lo') len' := by
  apply BitVec.eq_of_getLsbD_eq
  intro i hi
  simp only [BitVec.getLsbD_extractLsb', hi, decide_true, Bool.true_and]
  have : lo' + i < len := by omega
  simp only [this, decide_true, Bool.true_and]
  congr 1; omega

/-- Any field of a word's low part, as a field of that part. -/
theorem fld_imm (maj d a : BitVec 7) (w : BitVec 1) (n : BitVec 10) (lo len : Nat) (h : lo + len ≤ 10) :
    fld (packImm maj d a w n) lo len = n.extractLsb' lo len := by
  unfold fld packImm; rw [ext_low _ n lo len h]

theorem fld_hnt (k : BitVec 3) (n : BitVec 22) (lo len : Nat) (h : lo + len ≤ 22) :
    fld (packHnt k n) lo len = n.extractLsb' lo len := by
  unfold fld packHnt; rw [ext_low _ n lo len h]

theorem packReg_maj (maj d a b : BitVec 7) (w : BitVec 1) (f : BitVec 3) : fld (packReg maj d a b w f) 25 7 = maj := by
  simp (disch := omega) only [fld, packReg, ext_high, ext_low, ext_all, Nat.reduceSub]

theorem packReg_d (maj d a b : BitVec 7) (w : BitVec 1) (f : BitVec 3) : fld (packReg maj d a b w f) 18 7 = d := by
  simp (disch := omega) only [fld, packReg, ext_high, ext_low, ext_all, Nat.reduceSub]

theorem packReg_a (maj d a b : BitVec 7) (w : BitVec 1) (f : BitVec 3) : fld (packReg maj d a b w f) 11 7 = a := by
  simp (disch := omega) only [fld, packReg, ext_high, ext_low, ext_all, Nat.reduceSub]

theorem packReg_b (maj d a b : BitVec 7) (w : BitVec 1) (f : BitVec 3) : fld (packReg maj d a b w f) 4 7 = b := by
  simp (disch := omega) only [fld, packReg, ext_high, ext_low, ext_all, Nat.reduceSub]

theorem packReg_w (maj d a b : BitVec 7) (w : BitVec 1) (f : BitVec 3) : fld (packReg maj d a b w f) 3 1 = w := by
  simp (disch := omega) only [fld, packReg, ext_high, ext_low, ext_all, Nat.reduceSub]

theorem packReg_f (maj d a b : BitVec 7) (w : BitVec 1) (f : BitVec 3) : fld (packReg maj d a b w f) 0 3 = f := by
  simp (disch := omega) only [fld, packReg, ext_high, ext_low, ext_all, Nat.reduceSub]

theorem packAcc_maj (maj d a b : BitVec 7) (c : BitVec 3) (w : BitVec 1) : fld (packAcc maj d a b c w) 25 7 = maj := by
  simp (disch := omega) only [fld, packAcc, ext_high, ext_low, ext_all, Nat.reduceSub]

theorem packAcc_d (maj d a b : BitVec 7) (c : BitVec 3) (w : BitVec 1) : fld (packAcc maj d a b c w) 18 7 = d := by
  simp (disch := omega) only [fld, packAcc, ext_high, ext_low, ext_all, Nat.reduceSub]

theorem packAcc_a (maj d a b : BitVec 7) (c : BitVec 3) (w : BitVec 1) : fld (packAcc maj d a b c w) 11 7 = a := by
  simp (disch := omega) only [fld, packAcc, ext_high, ext_low, ext_all, Nat.reduceSub]

theorem packAcc_b (maj d a b : BitVec 7) (c : BitVec 3) (w : BitVec 1) : fld (packAcc maj d a b c w) 4 7 = b := by
  simp (disch := omega) only [fld, packAcc, ext_high, ext_low, ext_all, Nat.reduceSub]

theorem packAcc_c (maj d a b : BitVec 7) (c : BitVec 3) (w : BitVec 1) : fld (packAcc maj d a b c w) 1 3 = c := by
  simp (disch := omega) only [fld, packAcc, ext_high, ext_low, ext_all, Nat.reduceSub]

theorem packAcc_w (maj d a b : BitVec 7) (c : BitVec 3) (w : BitVec 1) : fld (packAcc maj d a b c w) 0 1 = w := by
  simp (disch := omega) only [fld, packAcc, ext_high, ext_low, ext_all, Nat.reduceSub]

theorem packImm_maj (maj d a : BitVec 7) (w : BitVec 1) (n : BitVec 10) : fld (packImm maj d a w n) 25 7 = maj := by
  simp (disch := omega) only [fld, packImm, ext_high, ext_low, ext_all, Nat.reduceSub]

theorem packImm_d (maj d a : BitVec 7) (w : BitVec 1) (n : BitVec 10) : fld (packImm maj d a w n) 18 7 = d := by
  simp (disch := omega) only [fld, packImm, ext_high, ext_low, ext_all, Nat.reduceSub]

theorem packImm_a (maj d a : BitVec 7) (w : BitVec 1) (n : BitVec 10) : fld (packImm maj d a w n) 11 7 = a := by
  simp (disch := omega) only [fld, packImm, ext_high, ext_low, ext_all, Nat.reduceSub]

theorem packImm_w (maj d a : BitVec 7) (w : BitVec 1) (n : BitVec 10) : fld (packImm maj d a w n) 10 1 = w := by
  simp (disch := omega) only [fld, packImm, ext_high, ext_low, ext_all, Nat.reduceSub]

theorem packImm_n (maj d a : BitVec 7) (w : BitVec 1) (n : BitVec 10) : fld (packImm maj d a w n) 0 10 = n := by
  simp (disch := omega) only [fld, packImm, ext_high, ext_low, ext_all, Nat.reduceSub]

theorem packBrn_maj (maj : BitVec 7) (p : BitVec 3) (x : BitVec 1) (d : BitVec 21) : fld (packBrn maj p x d) 25 7 = maj := by
  simp (disch := omega) only [fld, packBrn, ext_high, ext_low, ext_all, Nat.reduceSub]

theorem packBrn_p (maj : BitVec 7) (p : BitVec 3) (x : BitVec 1) (d : BitVec 21) : fld (packBrn maj p x d) 22 3 = p := by
  simp (disch := omega) only [fld, packBrn, ext_high, ext_low, ext_all, Nat.reduceSub]

theorem packBrn_x (maj : BitVec 7) (p : BitVec 3) (x : BitVec 1) (d : BitVec 21) : fld (packBrn maj p x d) 21 1 = x := by
  simp (disch := omega) only [fld, packBrn, ext_high, ext_low, ext_all, Nat.reduceSub]

theorem packBrn_d (maj : BitVec 7) (p : BitVec 3) (x : BitVec 1) (d : BitVec 21) : fld (packBrn maj p x d) 0 21 = d := by
  simp (disch := omega) only [fld, packBrn, ext_high, ext_low, ext_all, Nat.reduceSub]

theorem packMem_maj (maj v a : BitVec 7) (h : BitVec 6) (o : BitVec 2) (f : BitVec 3) : fld (packMem maj v a h o f) 25 7 = maj := by
  simp (disch := omega) only [fld, packMem, ext_high, ext_low, ext_all, Nat.reduceSub]

theorem packMem_v (maj v a : BitVec 7) (h : BitVec 6) (o : BitVec 2) (f : BitVec 3) : fld (packMem maj v a h o f) 18 7 = v := by
  simp (disch := omega) only [fld, packMem, ext_high, ext_low, ext_all, Nat.reduceSub]

theorem packMem_a (maj v a : BitVec 7) (h : BitVec 6) (o : BitVec 2) (f : BitVec 3) : fld (packMem maj v a h o f) 11 7 = a := by
  simp (disch := omega) only [fld, packMem, ext_high, ext_low, ext_all, Nat.reduceSub]

theorem packMem_h (maj v a : BitVec 7) (h : BitVec 6) (o : BitVec 2) (f : BitVec 3) : fld (packMem maj v a h o f) 5 6 = h := by
  simp (disch := omega) only [fld, packMem, ext_high, ext_low, ext_all, Nat.reduceSub]

theorem packMem_o (maj v a : BitVec 7) (h : BitVec 6) (o : BitVec 2) (f : BitVec 3) : fld (packMem maj v a h o f) 3 2 = o := by
  simp (disch := omega) only [fld, packMem, ext_high, ext_low, ext_all, Nat.reduceSub]

theorem packMem_f (maj v a : BitVec 7) (h : BitVec 6) (o : BitVec 2) (f : BitVec 3) : fld (packMem maj v a h o f) 0 3 = f := by
  simp (disch := omega) only [fld, packMem, ext_high, ext_low, ext_all, Nat.reduceSub]

theorem packFen_maj (maj : BitVec 7) (p x : BitVec 8) (c : BitVec 4) : fld (packFen maj p x c) 25 7 = maj := by
  simp (disch := omega) only [fld, packFen, ext_high, ext_low, ext_all, Nat.reduceSub]

theorem packFen_p (maj : BitVec 7) (p x : BitVec 8) (c : BitVec 4) : fld (packFen maj p x c) 17 8 = p := by
  simp (disch := omega) only [fld, packFen, ext_high, ext_low, ext_all, Nat.reduceSub]

theorem packFen_x (maj : BitVec 7) (p x : BitVec 8) (c : BitVec 4) : fld (packFen maj p x c) 9 8 = x := by
  simp (disch := omega) only [fld, packFen, ext_high, ext_low, ext_all, Nat.reduceSub]

theorem packFen_c (maj : BitVec 7) (p x : BitVec 8) (c : BitVec 4) : fld (packFen maj p x c) 5 4 = c := by
  simp (disch := omega) only [fld, packFen, ext_high, ext_low, ext_all, Nat.reduceSub]

theorem packFen_fixed0 (maj : BitVec 7) (p x : BitVec 8) (c : BitVec 4) : fld (packFen maj p x c) 0 5 = 0#5 := by
  simp (disch := omega) only [fld, packFen, ext_high, ext_low, ext_all, Nat.reduceSub]

theorem packTil_maj (maj : BitVec 7) (t : BitVec 5) (a b : BitVec 7) (x : BitVec 2) (z : BitVec 1) (f : BitVec 3) : fld (packTil maj t a b x z f) 25 7 = maj := by
  simp (disch := omega) only [fld, packTil, ext_high, ext_low, ext_all, Nat.reduceSub]

theorem packTil_t (maj : BitVec 7) (t : BitVec 5) (a b : BitVec 7) (x : BitVec 2) (z : BitVec 1) (f : BitVec 3) : fld (packTil maj t a b x z f) 20 5 = t := by
  simp (disch := omega) only [fld, packTil, ext_high, ext_low, ext_all, Nat.reduceSub]

theorem packTil_a (maj : BitVec 7) (t : BitVec 5) (a b : BitVec 7) (x : BitVec 2) (z : BitVec 1) (f : BitVec 3) : fld (packTil maj t a b x z f) 13 7 = a := by
  simp (disch := omega) only [fld, packTil, ext_high, ext_low, ext_all, Nat.reduceSub]

theorem packTil_b (maj : BitVec 7) (t : BitVec 5) (a b : BitVec 7) (x : BitVec 2) (z : BitVec 1) (f : BitVec 3) : fld (packTil maj t a b x z f) 6 7 = b := by
  simp (disch := omega) only [fld, packTil, ext_high, ext_low, ext_all, Nat.reduceSub]

theorem packTil_x (maj : BitVec 7) (t : BitVec 5) (a b : BitVec 7) (x : BitVec 2) (z : BitVec 1) (f : BitVec 3) : fld (packTil maj t a b x z f) 4 2 = x := by
  simp (disch := omega) only [fld, packTil, ext_high, ext_low, ext_all, Nat.reduceSub]

theorem packTil_z (maj : BitVec 7) (t : BitVec 5) (a b : BitVec 7) (x : BitVec 2) (z : BitVec 1) (f : BitVec 3) : fld (packTil maj t a b x z f) 3 1 = z := by
  simp (disch := omega) only [fld, packTil, ext_high, ext_low, ext_all, Nat.reduceSub]

theorem packTil_f (maj : BitVec 7) (t : BitVec 5) (a b : BitVec 7) (x : BitVec 2) (z : BitVec 1) (f : BitVec 3) : fld (packTil maj t a b x z f) 0 3 = f := by
  simp (disch := omega) only [fld, packTil, ext_high, ext_low, ext_all, Nat.reduceSub]

theorem packCpy_maj (maj : BitVec 7) (k : BitVec 3) (a b : BitVec 7) (f : BitVec 3) : fld (packCpy maj k a b f) 25 7 = maj := by
  simp (disch := omega) only [fld, packCpy, ext_high, ext_low, ext_all, Nat.reduceSub]

theorem packCpy_k (maj : BitVec 7) (k : BitVec 3) (a b : BitVec 7) (f : BitVec 3) : fld (packCpy maj k a b f) 22 3 = k := by
  simp (disch := omega) only [fld, packCpy, ext_high, ext_low, ext_all, Nat.reduceSub]

theorem packCpy_a (maj : BitVec 7) (k : BitVec 3) (a b : BitVec 7) (f : BitVec 3) : fld (packCpy maj k a b f) 15 7 = a := by
  simp (disch := omega) only [fld, packCpy, ext_high, ext_low, ext_all, Nat.reduceSub]

theorem packCpy_b (maj : BitVec 7) (k : BitVec 3) (a b : BitVec 7) (f : BitVec 3) : fld (packCpy maj k a b f) 8 7 = b := by
  simp (disch := omega) only [fld, packCpy, ext_high, ext_low, ext_all, Nat.reduceSub]

theorem packCpy_fixed3 (maj : BitVec 7) (k : BitVec 3) (a b : BitVec 7) (f : BitVec 3) : fld (packCpy maj k a b f) 3 5 = 0#5 := by
  simp (disch := omega) only [fld, packCpy, ext_high, ext_low, ext_all, Nat.reduceSub]

theorem packCpy_f (maj : BitVec 7) (k : BitVec 3) (a b : BitVec 7) (f : BitVec 3) : fld (packCpy maj k a b f) 0 3 = f := by
  simp (disch := omega) only [fld, packCpy, ext_high, ext_low, ext_all, Nat.reduceSub]

theorem packHnt_fixed25 (k : BitVec 3) (n : BitVec 22) : fld (packHnt k n) 25 7 = 0x7F#7 := by
  simp (disch := omega) only [fld, packHnt, ext_high, ext_low, ext_all, Nat.reduceSub]

theorem packHnt_k (k : BitVec 3) (n : BitVec 22) : fld (packHnt k n) 22 3 = k := by
  simp (disch := omega) only [fld, packHnt, ext_high, ext_low, ext_all, Nat.reduceSub]

theorem packHnt_n (k : BitVec 3) (n : BitVec 22) : fld (packHnt k n) 0 22 = n := by
  simp (disch := omega) only [fld, packHnt, ext_high, ext_low, ext_all, Nat.reduceSub]

end Sys2Proof
end

