-- ==== Sys2Proof/Laws/Table.lean ====
section
/-!
SUPPORT. Laws of the sparse tables: reading after writing, and the one form that every writing keeps.
-/

namespace Sys2Proof.Machine

open Sys2Proof

variable {V : Type}

theorem tfind_tput (k j : Nat) (v : V) (t : Table V) : tfind j (tput k v t) = if j = k then some v else tfind j t := by
  induction t with
  | nil => simp only [tput, tfind]; by_cases h : k = j <;> simp [h, eq_comm]
  | cons e t ih =>
    obtain ⟨i, w⟩ := e
    simp only [tput]
    split
    · rename_i h; subst h
      simp only [tfind]
      by_cases h : i = j <;> simp [h, eq_comm]
      intro hj; exact absurd hj.symm h
    · split
      · simp only [tfind]
        by_cases h : k = j <;> simp [h, eq_comm]
      · simp only [tfind, ih]
        by_cases h : i = j
        · subst h; rename_i h1 _; simp [h1]
        · simp [h]

theorem tfind_tdel (k j : Nat) (t : Table V) : tfind j (tdel k t) = if j = k then none else tfind j t := by
  induction t with
  | nil => simp [tdel, tfind]
  | cons e t ih =>
    obtain ⟨i, w⟩ := e
    simp only [tdel]
    split
    · rename_i h; subst h
      simp only [ih, tfind]
      by_cases h : i = j <;> simp [h, eq_comm]
    · simp only [tfind, ih]
      by_cases h : i = j
      · subst h; rename_i h1; simp [h1]
      · simp [h]

variable [Inhabited V]

theorem tget_tput (t : Table V) (k j : Nat) (v : V) : tget (tput k v t) j = if j = k then v else tget t j := by
  simp only [tget, tfind_tput]; split <;> rfl

theorem tget_tdel (t : Table V) (k j : Nat) : tget (tdel k t) j = if j = k then default else tget t j := by
  simp only [tget, tfind_tdel]; split <;> rfl

theorem tget_nil (k : Nat) : tget ([] : Table V) k = default := rfl

variable [DecidableEq V]

/-- Reading after writing. -/
theorem tget_tset (t : Table V) (k j : Nat) (v : V) : tget (tset t k v) j = if j = k then v else tget t j := by
  unfold tset
  by_cases h : v = default
  · rw [if_pos h, tget_tdel, h]
  · rw [if_neg h, tget_tput]

@[simp] theorem tget_tset_same (t : Table V) (k : Nat) (v : V) : tget (tset t k v) k = v := by simp [tget_tset]

theorem tget_tset_other (t : Table V) (k j : Nat) (v : V) (h : j ≠ k) : tget (tset t k v) j = tget t j := by
  simp [tget_tset, h]

/-- Reading after writing an entry for every lane of a list. -/
theorem tget_foldl_tset (ls : List Nat) (b : Nat) (f : Nat → V) (t : Table V) (j : Nat) :
    tget (ls.foldl (fun t l => tset t (b + l) (f l)) t) j
      = if j ∈ ls.map (fun l => b + l) then f (j - b) else tget t j := by
  induction ls generalizing t with
  | nil => simp
  | cons l ls ih =>
    simp only [List.foldl_cons, ih, List.map_cons, List.mem_cons]
    by_cases h : j ∈ ls.map (fun l => b + l)
    · simp [h]
    · by_cases hj : j = b + l
      · subst hj; simp [h, tget_tset]
      · simp [h, hj, tget_tset]

/-- Reading a lane's entry of a table of 32 lanes per number, after lanes of one number were written. -/
theorem tget_lanes_tset (ls : List Nat) (n m l : Nat) (f : Nat → V) (t : Table V) (hls : ∀ i ∈ ls, i < 32)
    (hl : l < 32) :
    tget (ls.foldl (fun t l => tset t (32 * n + l) (f l)) t) (32 * m + l)
      = if m = n ∧ l ∈ ls then f l else tget t (32 * m + l) := by
  rw [tget_foldl_tset]
  have e : (32 * m + l ∈ ls.map (fun i => 32 * n + i)) ↔ (m = n ∧ l ∈ ls) := by
    simp only [List.mem_map]
    constructor
    · rintro ⟨i, hi, he⟩
      have := hls i hi
      have hm : m = n := by omega
      have hil : i = l := by omega
      exact ⟨hm, hil ▸ hi⟩
    · rintro ⟨rfl, hi⟩; exact ⟨l, hi, rfl⟩
  by_cases h : m = n ∧ l ∈ ls
  · rw [if_pos (e.mpr h), if_pos h, h.1]; congr 1; omega
  · rw [if_neg (fun c => h (e.mp c)), if_neg h]

theorem tget_setLanes (ls : List Nat) (f : Nat → V) (t : Table V) (j : Nat) :
    tget (setLanes t ls f) j = if j ∈ ls then f j else tget t j := by
  have h := tget_foldl_tset ls 0 f t j
  simpa [setLanes] using h

/-! ## The one form -/

omit [Inhabited V] [DecidableEq V] in
/-- Every key of a table after one whose keys rise lies above its first. -/
theorem sorted_cons (k : Nat) (v : V) (t : Table V) :
    Table.sorted ((k, v) :: t) = true ↔ (∀ e ∈ t, k < e.1) ∧ Table.sorted t = true := by
  induction t generalizing k v with
  | nil => simp [Table.sorted]
  | cons e t ih =>
    obtain ⟨j, w⟩ := e
    simp only [Table.sorted, Bool.and_eq_true, decide_eq_true_eq, List.mem_cons, forall_eq_or_imp]
    constructor
    · rintro ⟨h, hs⟩
      have := (ih j w).mp hs
      exact ⟨⟨h, fun e he => Nat.lt_trans h (this.1 e he)⟩, hs⟩
    · rintro ⟨⟨h, _⟩, hs⟩; exact ⟨h, hs⟩

omit [Inhabited V] [DecidableEq V] in
theorem mem_tdel (k : Nat) (t : Table V) (e : Nat × V) : e ∈ tdel k t → e ∈ t := by
  induction t with
  | nil => simp [tdel]
  | cons a t ih =>
    obtain ⟨j, w⟩ := a
    simp only [tdel]
    split
    · intro h; exact List.mem_cons_of_mem _ (ih h)
    · intro h
      rcases List.mem_cons.mp h with h | h
      · exact h ▸ List.mem_cons_self ..
      · exact List.mem_cons_of_mem _ (ih h)

omit [Inhabited V] [DecidableEq V] in
theorem mem_tput (k : Nat) (v : V) (t : Table V) (e : Nat × V) : e ∈ tput k v t → e = (k, v) ∨ e ∈ t := by
  induction t with
  | nil => simp [tput]
  | cons a t ih =>
    obtain ⟨j, w⟩ := a
    simp only [tput]
    split
    · intro h
      rcases List.mem_cons.mp h with h | h
      · exact .inl h
      · exact .inr (List.mem_cons_of_mem _ h)
    · split
      · intro h
        rcases List.mem_cons.mp h with h | h
        · exact .inl h
        · exact .inr h
      · intro h
        rcases List.mem_cons.mp h with h | h
        · exact .inr (h ▸ List.mem_cons_self ..)
        · rcases ih h with h | h
          · exact .inl h
          · exact .inr (List.mem_cons_of_mem _ h)

omit [Inhabited V] [DecidableEq V] in
theorem sorted_tdel (k : Nat) (t : Table V) (h : Table.sorted t = true) : Table.sorted (tdel k t) = true := by
  induction t with
  | nil => simpa [tdel] using h
  | cons a t ih =>
    obtain ⟨j, w⟩ := a
    have hc := (sorted_cons j w t).mp h
    simp only [tdel]
    split
    · exact ih hc.2
    · exact (sorted_cons j w _).mpr ⟨fun e he => hc.1 e (mem_tdel k t e he), ih hc.2⟩

omit [Inhabited V] [DecidableEq V] in
theorem sorted_tput (k : Nat) (v : V) (t : Table V) (h : Table.sorted t = true) : Table.sorted (tput k v t) = true := by
  induction t with
  | nil => simp [tput, Table.sorted]
  | cons a t ih =>
    obtain ⟨j, w⟩ := a
    have hc := (sorted_cons j w t).mp h
    simp only [tput]
    split
    · rename_i hjk; subst hjk; exact (sorted_cons j v t).mpr hc
    · split
      · rename_i hkj
        refine (sorted_cons k v _).mpr ⟨?_, h⟩
        intro e he
        rcases List.mem_cons.mp he with he | he
        · exact he ▸ hkj
        · exact Nat.lt_trans hkj (hc.1 e he)
      · rename_i h1 h2
        refine (sorted_cons j w _).mpr ⟨?_, ih hc.2⟩
        intro e he
        rcases mem_tput k v t e he with he | he
        · subst he; simp only; omega
        · exact hc.1 e he

/-- Writing a table keeps its one form. -/
theorem wf_tset (t : Table V) (k : Nat) (v : V) (h : Table.wf t = true) : Table.wf (tset t k v) = true := by
  simp only [Table.wf, Bool.and_eq_true, List.all_eq_true, decide_eq_true_eq] at h ⊢
  unfold tset
  split
  · exact ⟨sorted_tdel k t h.1, fun e he => h.2 e (mem_tdel k t e he)⟩
  · rename_i hv
    refine ⟨sorted_tput k v t h.1, fun e he => ?_⟩
    rcases mem_tput k v t e he with he | he
    · subst he; exact hv
    · exact h.2 e he

/-- Listing an entry that is not the default keeps the one form. -/
theorem wf_tput (t : Table V) (k : Nat) (v : V) (hv : v ≠ default) (h : Table.wf t = true) :
    Table.wf (tput k v t) = true := by
  have := wf_tset t k v h
  rwa [tset, if_neg hv] at this

/-- Taking entries away keeps the one form. -/
theorem wf_filter (t : Table V) (p : Nat × V → Bool) (h : Table.wf t = true) : Table.wf (t.filter p) = true := by
  simp only [Table.wf, Bool.and_eq_true, List.all_eq_true, decide_eq_true_eq] at h ⊢
  refine ⟨?_, fun e he => h.2 e (List.mem_filter.mp he).1⟩
  have hs := h.1
  clear h
  induction t with
  | nil => exact hs
  | cons a t ih =>
    obtain ⟨j, w⟩ := a
    have hc := (sorted_cons j w t).mp hs
    simp only [List.filter_cons]
    split
    · exact (sorted_cons j w _).mpr ⟨fun e he => hc.1 e (List.mem_filter.mp he).1, ih hc.2⟩
    · exact ih hc.2

end Sys2Proof.Machine
end

