-- ==== Sys2Proof/Laws/State.lean ====
section
/-!
SUPPORT. One law per field per update of the state, so that no proof unfolds a record update.
-/

namespace Sys2Proof.Machine

open Sys2Proof

@[simp] theorem State.setConsist_tick (s : State) (k : Nat) (c : Consist) : (s.setConsist k c).tick = s.tick := rfl
@[simp] theorem State.setConsist_agenda (s : State) (k : Nat) (c : Consist) : (s.setConsist k c).agenda = s.agenda := rfl
@[simp] theorem State.setConsist_focus (s : State) (k : Nat) (c : Consist) : (s.setConsist k c).focus = s.focus := rfl
@[simp] theorem State.setConsist_nextUid (s : State) (k : Nat) (c : Consist) : (s.setConsist k c).nextUid = s.nextUid := rfl
@[simp] theorem State.setConsist_mem (s : State) (k : Nat) (c : Consist) : (s.setConsist k c).mem = s.mem := rfl
@[simp] theorem State.setConsist_hostMem (s : State) (k : Nat) (c : Consist) : (s.setConsist k c).hostMem = s.hostMem := rfl
@[simp] theorem State.setConsist_ioOut (s : State) (k : Nat) (c : Consist) : (s.setConsist k c).ioOut = s.ioOut := rfl
@[simp] theorem State.setConsist_lines (s : State) (k : Nat) (c : Consist) : (s.setConsist k c).lines = s.lines := rfl
@[simp] theorem State.setConsist_texLines (s : State) (k : Nat) (c : Consist) : (s.setConsist k c).texLines = s.texLines := rfl
@[simp] theorem State.setConsist_convoys (s : State) (k : Nat) (c : Consist) : (s.setConsist k c).convoys = s.convoys := rfl
@[simp] theorem State.setConsist_sessions (s : State) (k : Nat) (c : Consist) : (s.setConsist k c).sessions = s.sessions := rfl
@[simp] theorem State.setConsist_cores (s : State) (k : Nat) (c : Consist) : (s.setConsist k c).cores = s.cores := rfl
@[simp] theorem State.setConsist_engineTlbs (s : State) (k : Nat) (c : Consist) : (s.setConsist k c).engineTlbs = s.engineTlbs := rfl
@[simp] theorem State.setConsist_stations (s : State) (k : Nat) (c : Consist) : (s.setConsist k c).stations = s.stations := rfl
@[simp] theorem State.setConsist_dies (s : State) (k : Nat) (c : Consist) : (s.setConsist k c).dies = s.dies := rfl
@[simp] theorem State.setConsist_links (s : State) (k : Nat) (c : Consist) : (s.setConsist k c).links = s.links := rfl
@[simp] theorem State.setConsist_queues (s : State) (k : Nat) (c : Consist) : (s.setConsist k c).queues = s.queues := rfl
@[simp] theorem State.setConsist_ownership (s : State) (k : Nat) (c : Consist) : (s.setConsist k c).ownership = s.ownership := rfl
@[simp] theorem State.setConsist_refs (s : State) (k : Nat) (c : Consist) : (s.setConsist k c).refs = s.refs := rfl
@[simp] theorem State.setConsist_grants (s : State) (k : Nat) (c : Consist) : (s.setConsist k c).grants = s.grants := rfl
@[simp] theorem State.setConsist_poison (s : State) (k : Nat) (c : Consist) : (s.setConsist k c).poison = s.poison := rfl
@[simp] theorem State.setConsist_corrupt (s : State) (k : Nat) (c : Consist) : (s.setConsist k c).corrupt = s.corrupt := rfl
@[simp] theorem State.setConsist_clocks (s : State) (k : Nat) (c : Consist) : (s.setConsist k c).clocks = s.clocks := rfl
@[simp] theorem State.setConsist_engineClocks (s : State) (k : Nat) (c : Consist) : (s.setConsist k c).engineClocks = s.engineClocks := rfl
@[simp] theorem State.setConsist_accesses (s : State) (k : Nat) (c : Consist) : (s.setConsist k c).accesses = s.accesses := rfl
@[simp] theorem State.setConsist_syncs (s : State) (k : Nat) (c : Consist) : (s.setConsist k c).syncs = s.syncs := rfl
@[simp] theorem State.setConsist_spAccesses (s : State) (k : Nat) (c : Consist) : (s.setConsist k c).spAccesses = s.spAccesses := rfl
@[simp] theorem State.setConsist_spSyncs (s : State) (k : Nat) (c : Consist) : (s.setConsist k c).spSyncs = s.spSyncs := rfl
@[simp] theorem State.setConsist_commands (s : State) (k : Nat) (c : Consist) : (s.setConsist k c).commands = s.commands := rfl
@[simp] theorem State.setConsist_hostRead (s : State) (k : Nat) (c : Consist) : (s.setConsist k c).hostRead = s.hostRead := rfl

@[simp] theorem State.setConvoy_tick (s : State) (k : Nat) (v : Convoy) : (s.setConvoy k v).tick = s.tick := rfl
@[simp] theorem State.setConvoy_agenda (s : State) (k : Nat) (v : Convoy) : (s.setConvoy k v).agenda = s.agenda := rfl
@[simp] theorem State.setConvoy_focus (s : State) (k : Nat) (v : Convoy) : (s.setConvoy k v).focus = s.focus := rfl
@[simp] theorem State.setConvoy_nextUid (s : State) (k : Nat) (v : Convoy) : (s.setConvoy k v).nextUid = s.nextUid := rfl
@[simp] theorem State.setConvoy_mem (s : State) (k : Nat) (v : Convoy) : (s.setConvoy k v).mem = s.mem := rfl
@[simp] theorem State.setConvoy_hostMem (s : State) (k : Nat) (v : Convoy) : (s.setConvoy k v).hostMem = s.hostMem := rfl
@[simp] theorem State.setConvoy_ioOut (s : State) (k : Nat) (v : Convoy) : (s.setConvoy k v).ioOut = s.ioOut := rfl
@[simp] theorem State.setConvoy_lines (s : State) (k : Nat) (v : Convoy) : (s.setConvoy k v).lines = s.lines := rfl
@[simp] theorem State.setConvoy_texLines (s : State) (k : Nat) (v : Convoy) : (s.setConvoy k v).texLines = s.texLines := rfl
@[simp] theorem State.setConvoy_consists (s : State) (k : Nat) (v : Convoy) : (s.setConvoy k v).consists = s.consists := rfl
@[simp] theorem State.setConvoy_sessions (s : State) (k : Nat) (v : Convoy) : (s.setConvoy k v).sessions = s.sessions := rfl
@[simp] theorem State.setConvoy_cores (s : State) (k : Nat) (v : Convoy) : (s.setConvoy k v).cores = s.cores := rfl
@[simp] theorem State.setConvoy_engineTlbs (s : State) (k : Nat) (v : Convoy) : (s.setConvoy k v).engineTlbs = s.engineTlbs := rfl
@[simp] theorem State.setConvoy_stations (s : State) (k : Nat) (v : Convoy) : (s.setConvoy k v).stations = s.stations := rfl
@[simp] theorem State.setConvoy_dies (s : State) (k : Nat) (v : Convoy) : (s.setConvoy k v).dies = s.dies := rfl
@[simp] theorem State.setConvoy_links (s : State) (k : Nat) (v : Convoy) : (s.setConvoy k v).links = s.links := rfl
@[simp] theorem State.setConvoy_queues (s : State) (k : Nat) (v : Convoy) : (s.setConvoy k v).queues = s.queues := rfl
@[simp] theorem State.setConvoy_ownership (s : State) (k : Nat) (v : Convoy) : (s.setConvoy k v).ownership = s.ownership := rfl
@[simp] theorem State.setConvoy_refs (s : State) (k : Nat) (v : Convoy) : (s.setConvoy k v).refs = s.refs := rfl
@[simp] theorem State.setConvoy_grants (s : State) (k : Nat) (v : Convoy) : (s.setConvoy k v).grants = s.grants := rfl
@[simp] theorem State.setConvoy_poison (s : State) (k : Nat) (v : Convoy) : (s.setConvoy k v).poison = s.poison := rfl
@[simp] theorem State.setConvoy_corrupt (s : State) (k : Nat) (v : Convoy) : (s.setConvoy k v).corrupt = s.corrupt := rfl
@[simp] theorem State.setConvoy_clocks (s : State) (k : Nat) (v : Convoy) : (s.setConvoy k v).clocks = s.clocks := rfl
@[simp] theorem State.setConvoy_engineClocks (s : State) (k : Nat) (v : Convoy) : (s.setConvoy k v).engineClocks = s.engineClocks := rfl
@[simp] theorem State.setConvoy_accesses (s : State) (k : Nat) (v : Convoy) : (s.setConvoy k v).accesses = s.accesses := rfl
@[simp] theorem State.setConvoy_syncs (s : State) (k : Nat) (v : Convoy) : (s.setConvoy k v).syncs = s.syncs := rfl
@[simp] theorem State.setConvoy_spAccesses (s : State) (k : Nat) (v : Convoy) : (s.setConvoy k v).spAccesses = s.spAccesses := rfl
@[simp] theorem State.setConvoy_spSyncs (s : State) (k : Nat) (v : Convoy) : (s.setConvoy k v).spSyncs = s.spSyncs := rfl
@[simp] theorem State.setConvoy_commands (s : State) (k : Nat) (v : Convoy) : (s.setConvoy k v).commands = s.commands := rfl
@[simp] theorem State.setConvoy_hostRead (s : State) (k : Nat) (v : Convoy) : (s.setConvoy k v).hostRead = s.hostRead := rfl

@[simp] theorem State.setSession_tick (s : State) (v : Nat) (x : Session) : (s.setSession v x).tick = s.tick := rfl
@[simp] theorem State.setSession_agenda (s : State) (v : Nat) (x : Session) : (s.setSession v x).agenda = s.agenda := rfl
@[simp] theorem State.setSession_focus (s : State) (v : Nat) (x : Session) : (s.setSession v x).focus = s.focus := rfl
@[simp] theorem State.setSession_nextUid (s : State) (v : Nat) (x : Session) : (s.setSession v x).nextUid = s.nextUid := rfl
@[simp] theorem State.setSession_mem (s : State) (v : Nat) (x : Session) : (s.setSession v x).mem = s.mem := rfl
@[simp] theorem State.setSession_hostMem (s : State) (v : Nat) (x : Session) : (s.setSession v x).hostMem = s.hostMem := rfl
@[simp] theorem State.setSession_ioOut (s : State) (v : Nat) (x : Session) : (s.setSession v x).ioOut = s.ioOut := rfl
@[simp] theorem State.setSession_lines (s : State) (v : Nat) (x : Session) : (s.setSession v x).lines = s.lines := rfl
@[simp] theorem State.setSession_texLines (s : State) (v : Nat) (x : Session) : (s.setSession v x).texLines = s.texLines := rfl
@[simp] theorem State.setSession_consists (s : State) (v : Nat) (x : Session) : (s.setSession v x).consists = s.consists := rfl
@[simp] theorem State.setSession_convoys (s : State) (v : Nat) (x : Session) : (s.setSession v x).convoys = s.convoys := rfl
@[simp] theorem State.setSession_cores (s : State) (v : Nat) (x : Session) : (s.setSession v x).cores = s.cores := rfl
@[simp] theorem State.setSession_engineTlbs (s : State) (v : Nat) (x : Session) : (s.setSession v x).engineTlbs = s.engineTlbs := rfl
@[simp] theorem State.setSession_stations (s : State) (v : Nat) (x : Session) : (s.setSession v x).stations = s.stations := rfl
@[simp] theorem State.setSession_dies (s : State) (v : Nat) (x : Session) : (s.setSession v x).dies = s.dies := rfl
@[simp] theorem State.setSession_links (s : State) (v : Nat) (x : Session) : (s.setSession v x).links = s.links := rfl
@[simp] theorem State.setSession_queues (s : State) (v : Nat) (x : Session) : (s.setSession v x).queues = s.queues := rfl
@[simp] theorem State.setSession_ownership (s : State) (v : Nat) (x : Session) : (s.setSession v x).ownership = s.ownership := rfl
@[simp] theorem State.setSession_refs (s : State) (v : Nat) (x : Session) : (s.setSession v x).refs = s.refs := rfl
@[simp] theorem State.setSession_grants (s : State) (v : Nat) (x : Session) : (s.setSession v x).grants = s.grants := rfl
@[simp] theorem State.setSession_poison (s : State) (v : Nat) (x : Session) : (s.setSession v x).poison = s.poison := rfl
@[simp] theorem State.setSession_corrupt (s : State) (v : Nat) (x : Session) : (s.setSession v x).corrupt = s.corrupt := rfl
@[simp] theorem State.setSession_clocks (s : State) (v : Nat) (x : Session) : (s.setSession v x).clocks = s.clocks := rfl
@[simp] theorem State.setSession_engineClocks (s : State) (v : Nat) (x : Session) : (s.setSession v x).engineClocks = s.engineClocks := rfl
@[simp] theorem State.setSession_accesses (s : State) (v : Nat) (x : Session) : (s.setSession v x).accesses = s.accesses := rfl
@[simp] theorem State.setSession_syncs (s : State) (v : Nat) (x : Session) : (s.setSession v x).syncs = s.syncs := rfl
@[simp] theorem State.setSession_spAccesses (s : State) (v : Nat) (x : Session) : (s.setSession v x).spAccesses = s.spAccesses := rfl
@[simp] theorem State.setSession_spSyncs (s : State) (v : Nat) (x : Session) : (s.setSession v x).spSyncs = s.spSyncs := rfl
@[simp] theorem State.setSession_commands (s : State) (v : Nat) (x : Session) : (s.setSession v x).commands = s.commands := rfl
@[simp] theorem State.setSession_hostRead (s : State) (v : Nat) (x : Session) : (s.setSession v x).hostRead = s.hostRead := rfl

@[simp] theorem State.setCore_tick (s : State) (k : Nat) (x : Core) : (s.setCore k x).tick = s.tick := rfl
@[simp] theorem State.setCore_agenda (s : State) (k : Nat) (x : Core) : (s.setCore k x).agenda = s.agenda := rfl
@[simp] theorem State.setCore_focus (s : State) (k : Nat) (x : Core) : (s.setCore k x).focus = s.focus := rfl
@[simp] theorem State.setCore_nextUid (s : State) (k : Nat) (x : Core) : (s.setCore k x).nextUid = s.nextUid := rfl
@[simp] theorem State.setCore_mem (s : State) (k : Nat) (x : Core) : (s.setCore k x).mem = s.mem := rfl
@[simp] theorem State.setCore_hostMem (s : State) (k : Nat) (x : Core) : (s.setCore k x).hostMem = s.hostMem := rfl
@[simp] theorem State.setCore_ioOut (s : State) (k : Nat) (x : Core) : (s.setCore k x).ioOut = s.ioOut := rfl
@[simp] theorem State.setCore_lines (s : State) (k : Nat) (x : Core) : (s.setCore k x).lines = s.lines := rfl
@[simp] theorem State.setCore_texLines (s : State) (k : Nat) (x : Core) : (s.setCore k x).texLines = s.texLines := rfl
@[simp] theorem State.setCore_consists (s : State) (k : Nat) (x : Core) : (s.setCore k x).consists = s.consists := rfl
@[simp] theorem State.setCore_convoys (s : State) (k : Nat) (x : Core) : (s.setCore k x).convoys = s.convoys := rfl
@[simp] theorem State.setCore_sessions (s : State) (k : Nat) (x : Core) : (s.setCore k x).sessions = s.sessions := rfl
@[simp] theorem State.setCore_engineTlbs (s : State) (k : Nat) (x : Core) : (s.setCore k x).engineTlbs = s.engineTlbs := rfl
@[simp] theorem State.setCore_stations (s : State) (k : Nat) (x : Core) : (s.setCore k x).stations = s.stations := rfl
@[simp] theorem State.setCore_dies (s : State) (k : Nat) (x : Core) : (s.setCore k x).dies = s.dies := rfl
@[simp] theorem State.setCore_links (s : State) (k : Nat) (x : Core) : (s.setCore k x).links = s.links := rfl
@[simp] theorem State.setCore_queues (s : State) (k : Nat) (x : Core) : (s.setCore k x).queues = s.queues := rfl
@[simp] theorem State.setCore_ownership (s : State) (k : Nat) (x : Core) : (s.setCore k x).ownership = s.ownership := rfl
@[simp] theorem State.setCore_refs (s : State) (k : Nat) (x : Core) : (s.setCore k x).refs = s.refs := rfl
@[simp] theorem State.setCore_grants (s : State) (k : Nat) (x : Core) : (s.setCore k x).grants = s.grants := rfl
@[simp] theorem State.setCore_poison (s : State) (k : Nat) (x : Core) : (s.setCore k x).poison = s.poison := rfl
@[simp] theorem State.setCore_corrupt (s : State) (k : Nat) (x : Core) : (s.setCore k x).corrupt = s.corrupt := rfl
@[simp] theorem State.setCore_clocks (s : State) (k : Nat) (x : Core) : (s.setCore k x).clocks = s.clocks := rfl
@[simp] theorem State.setCore_engineClocks (s : State) (k : Nat) (x : Core) : (s.setCore k x).engineClocks = s.engineClocks := rfl
@[simp] theorem State.setCore_accesses (s : State) (k : Nat) (x : Core) : (s.setCore k x).accesses = s.accesses := rfl
@[simp] theorem State.setCore_syncs (s : State) (k : Nat) (x : Core) : (s.setCore k x).syncs = s.syncs := rfl
@[simp] theorem State.setCore_spAccesses (s : State) (k : Nat) (x : Core) : (s.setCore k x).spAccesses = s.spAccesses := rfl
@[simp] theorem State.setCore_spSyncs (s : State) (k : Nat) (x : Core) : (s.setCore k x).spSyncs = s.spSyncs := rfl
@[simp] theorem State.setCore_commands (s : State) (k : Nat) (x : Core) : (s.setCore k x).commands = s.commands := rfl
@[simp] theorem State.setCore_hostRead (s : State) (k : Nat) (x : Core) : (s.setCore k x).hostRead = s.hostRead := rfl

@[simp] theorem State.setStation_tick (s : State) (g : Nat) (x : Station) : (s.setStation g x).tick = s.tick := rfl
@[simp] theorem State.setStation_agenda (s : State) (g : Nat) (x : Station) : (s.setStation g x).agenda = s.agenda := rfl
@[simp] theorem State.setStation_focus (s : State) (g : Nat) (x : Station) : (s.setStation g x).focus = s.focus := rfl
@[simp] theorem State.setStation_nextUid (s : State) (g : Nat) (x : Station) : (s.setStation g x).nextUid = s.nextUid := rfl
@[simp] theorem State.setStation_mem (s : State) (g : Nat) (x : Station) : (s.setStation g x).mem = s.mem := rfl
@[simp] theorem State.setStation_hostMem (s : State) (g : Nat) (x : Station) : (s.setStation g x).hostMem = s.hostMem := rfl
@[simp] theorem State.setStation_ioOut (s : State) (g : Nat) (x : Station) : (s.setStation g x).ioOut = s.ioOut := rfl
@[simp] theorem State.setStation_lines (s : State) (g : Nat) (x : Station) : (s.setStation g x).lines = s.lines := rfl
@[simp] theorem State.setStation_texLines (s : State) (g : Nat) (x : Station) : (s.setStation g x).texLines = s.texLines := rfl
@[simp] theorem State.setStation_consists (s : State) (g : Nat) (x : Station) : (s.setStation g x).consists = s.consists := rfl
@[simp] theorem State.setStation_convoys (s : State) (g : Nat) (x : Station) : (s.setStation g x).convoys = s.convoys := rfl
@[simp] theorem State.setStation_sessions (s : State) (g : Nat) (x : Station) : (s.setStation g x).sessions = s.sessions := rfl
@[simp] theorem State.setStation_cores (s : State) (g : Nat) (x : Station) : (s.setStation g x).cores = s.cores := rfl
@[simp] theorem State.setStation_engineTlbs (s : State) (g : Nat) (x : Station) : (s.setStation g x).engineTlbs = s.engineTlbs := rfl
@[simp] theorem State.setStation_dies (s : State) (g : Nat) (x : Station) : (s.setStation g x).dies = s.dies := rfl
@[simp] theorem State.setStation_links (s : State) (g : Nat) (x : Station) : (s.setStation g x).links = s.links := rfl
@[simp] theorem State.setStation_queues (s : State) (g : Nat) (x : Station) : (s.setStation g x).queues = s.queues := rfl
@[simp] theorem State.setStation_ownership (s : State) (g : Nat) (x : Station) : (s.setStation g x).ownership = s.ownership := rfl
@[simp] theorem State.setStation_refs (s : State) (g : Nat) (x : Station) : (s.setStation g x).refs = s.refs := rfl
@[simp] theorem State.setStation_grants (s : State) (g : Nat) (x : Station) : (s.setStation g x).grants = s.grants := rfl
@[simp] theorem State.setStation_poison (s : State) (g : Nat) (x : Station) : (s.setStation g x).poison = s.poison := rfl
@[simp] theorem State.setStation_corrupt (s : State) (g : Nat) (x : Station) : (s.setStation g x).corrupt = s.corrupt := rfl
@[simp] theorem State.setStation_clocks (s : State) (g : Nat) (x : Station) : (s.setStation g x).clocks = s.clocks := rfl
@[simp] theorem State.setStation_engineClocks (s : State) (g : Nat) (x : Station) : (s.setStation g x).engineClocks = s.engineClocks := rfl
@[simp] theorem State.setStation_accesses (s : State) (g : Nat) (x : Station) : (s.setStation g x).accesses = s.accesses := rfl
@[simp] theorem State.setStation_syncs (s : State) (g : Nat) (x : Station) : (s.setStation g x).syncs = s.syncs := rfl
@[simp] theorem State.setStation_spAccesses (s : State) (g : Nat) (x : Station) : (s.setStation g x).spAccesses = s.spAccesses := rfl
@[simp] theorem State.setStation_spSyncs (s : State) (g : Nat) (x : Station) : (s.setStation g x).spSyncs = s.spSyncs := rfl
@[simp] theorem State.setStation_commands (s : State) (g : Nat) (x : Station) : (s.setStation g x).commands = s.commands := rfl
@[simp] theorem State.setStation_hostRead (s : State) (g : Nat) (x : Station) : (s.setStation g x).hostRead = s.hostRead := rfl

@[simp] theorem State.setDie_tick (s : State) (d : Nat) (x : Die) : (s.setDie d x).tick = s.tick := rfl
@[simp] theorem State.setDie_agenda (s : State) (d : Nat) (x : Die) : (s.setDie d x).agenda = s.agenda := rfl
@[simp] theorem State.setDie_focus (s : State) (d : Nat) (x : Die) : (s.setDie d x).focus = s.focus := rfl
@[simp] theorem State.setDie_nextUid (s : State) (d : Nat) (x : Die) : (s.setDie d x).nextUid = s.nextUid := rfl
@[simp] theorem State.setDie_mem (s : State) (d : Nat) (x : Die) : (s.setDie d x).mem = s.mem := rfl
@[simp] theorem State.setDie_hostMem (s : State) (d : Nat) (x : Die) : (s.setDie d x).hostMem = s.hostMem := rfl
@[simp] theorem State.setDie_ioOut (s : State) (d : Nat) (x : Die) : (s.setDie d x).ioOut = s.ioOut := rfl
@[simp] theorem State.setDie_lines (s : State) (d : Nat) (x : Die) : (s.setDie d x).lines = s.lines := rfl
@[simp] theorem State.setDie_texLines (s : State) (d : Nat) (x : Die) : (s.setDie d x).texLines = s.texLines := rfl
@[simp] theorem State.setDie_consists (s : State) (d : Nat) (x : Die) : (s.setDie d x).consists = s.consists := rfl
@[simp] theorem State.setDie_convoys (s : State) (d : Nat) (x : Die) : (s.setDie d x).convoys = s.convoys := rfl
@[simp] theorem State.setDie_sessions (s : State) (d : Nat) (x : Die) : (s.setDie d x).sessions = s.sessions := rfl
@[simp] theorem State.setDie_cores (s : State) (d : Nat) (x : Die) : (s.setDie d x).cores = s.cores := rfl
@[simp] theorem State.setDie_engineTlbs (s : State) (d : Nat) (x : Die) : (s.setDie d x).engineTlbs = s.engineTlbs := rfl
@[simp] theorem State.setDie_stations (s : State) (d : Nat) (x : Die) : (s.setDie d x).stations = s.stations := rfl
@[simp] theorem State.setDie_links (s : State) (d : Nat) (x : Die) : (s.setDie d x).links = s.links := rfl
@[simp] theorem State.setDie_queues (s : State) (d : Nat) (x : Die) : (s.setDie d x).queues = s.queues := rfl
@[simp] theorem State.setDie_ownership (s : State) (d : Nat) (x : Die) : (s.setDie d x).ownership = s.ownership := rfl
@[simp] theorem State.setDie_refs (s : State) (d : Nat) (x : Die) : (s.setDie d x).refs = s.refs := rfl
@[simp] theorem State.setDie_grants (s : State) (d : Nat) (x : Die) : (s.setDie d x).grants = s.grants := rfl
@[simp] theorem State.setDie_poison (s : State) (d : Nat) (x : Die) : (s.setDie d x).poison = s.poison := rfl
@[simp] theorem State.setDie_corrupt (s : State) (d : Nat) (x : Die) : (s.setDie d x).corrupt = s.corrupt := rfl
@[simp] theorem State.setDie_clocks (s : State) (d : Nat) (x : Die) : (s.setDie d x).clocks = s.clocks := rfl
@[simp] theorem State.setDie_engineClocks (s : State) (d : Nat) (x : Die) : (s.setDie d x).engineClocks = s.engineClocks := rfl
@[simp] theorem State.setDie_accesses (s : State) (d : Nat) (x : Die) : (s.setDie d x).accesses = s.accesses := rfl
@[simp] theorem State.setDie_syncs (s : State) (d : Nat) (x : Die) : (s.setDie d x).syncs = s.syncs := rfl
@[simp] theorem State.setDie_spAccesses (s : State) (d : Nat) (x : Die) : (s.setDie d x).spAccesses = s.spAccesses := rfl
@[simp] theorem State.setDie_spSyncs (s : State) (d : Nat) (x : Die) : (s.setDie d x).spSyncs = s.spSyncs := rfl
@[simp] theorem State.setDie_commands (s : State) (d : Nat) (x : Die) : (s.setDie d x).commands = s.commands := rfl
@[simp] theorem State.setDie_hostRead (s : State) (d : Nat) (x : Die) : (s.setDie d x).hostRead = s.hostRead := rfl

@[simp] theorem State.setQueue_tick (s : State) (q : Nat) (x : CmdQueue) : (s.setQueue q x).tick = s.tick := rfl
@[simp] theorem State.setQueue_agenda (s : State) (q : Nat) (x : CmdQueue) : (s.setQueue q x).agenda = s.agenda := rfl
@[simp] theorem State.setQueue_focus (s : State) (q : Nat) (x : CmdQueue) : (s.setQueue q x).focus = s.focus := rfl
@[simp] theorem State.setQueue_nextUid (s : State) (q : Nat) (x : CmdQueue) : (s.setQueue q x).nextUid = s.nextUid := rfl
@[simp] theorem State.setQueue_mem (s : State) (q : Nat) (x : CmdQueue) : (s.setQueue q x).mem = s.mem := rfl
@[simp] theorem State.setQueue_hostMem (s : State) (q : Nat) (x : CmdQueue) : (s.setQueue q x).hostMem = s.hostMem := rfl
@[simp] theorem State.setQueue_ioOut (s : State) (q : Nat) (x : CmdQueue) : (s.setQueue q x).ioOut = s.ioOut := rfl
@[simp] theorem State.setQueue_lines (s : State) (q : Nat) (x : CmdQueue) : (s.setQueue q x).lines = s.lines := rfl
@[simp] theorem State.setQueue_texLines (s : State) (q : Nat) (x : CmdQueue) : (s.setQueue q x).texLines = s.texLines := rfl
@[simp] theorem State.setQueue_consists (s : State) (q : Nat) (x : CmdQueue) : (s.setQueue q x).consists = s.consists := rfl
@[simp] theorem State.setQueue_convoys (s : State) (q : Nat) (x : CmdQueue) : (s.setQueue q x).convoys = s.convoys := rfl
@[simp] theorem State.setQueue_sessions (s : State) (q : Nat) (x : CmdQueue) : (s.setQueue q x).sessions = s.sessions := rfl
@[simp] theorem State.setQueue_cores (s : State) (q : Nat) (x : CmdQueue) : (s.setQueue q x).cores = s.cores := rfl
@[simp] theorem State.setQueue_engineTlbs (s : State) (q : Nat) (x : CmdQueue) : (s.setQueue q x).engineTlbs = s.engineTlbs := rfl
@[simp] theorem State.setQueue_stations (s : State) (q : Nat) (x : CmdQueue) : (s.setQueue q x).stations = s.stations := rfl
@[simp] theorem State.setQueue_dies (s : State) (q : Nat) (x : CmdQueue) : (s.setQueue q x).dies = s.dies := rfl
@[simp] theorem State.setQueue_links (s : State) (q : Nat) (x : CmdQueue) : (s.setQueue q x).links = s.links := rfl
@[simp] theorem State.setQueue_ownership (s : State) (q : Nat) (x : CmdQueue) : (s.setQueue q x).ownership = s.ownership := rfl
@[simp] theorem State.setQueue_refs (s : State) (q : Nat) (x : CmdQueue) : (s.setQueue q x).refs = s.refs := rfl
@[simp] theorem State.setQueue_grants (s : State) (q : Nat) (x : CmdQueue) : (s.setQueue q x).grants = s.grants := rfl
@[simp] theorem State.setQueue_poison (s : State) (q : Nat) (x : CmdQueue) : (s.setQueue q x).poison = s.poison := rfl
@[simp] theorem State.setQueue_corrupt (s : State) (q : Nat) (x : CmdQueue) : (s.setQueue q x).corrupt = s.corrupt := rfl
@[simp] theorem State.setQueue_clocks (s : State) (q : Nat) (x : CmdQueue) : (s.setQueue q x).clocks = s.clocks := rfl
@[simp] theorem State.setQueue_engineClocks (s : State) (q : Nat) (x : CmdQueue) : (s.setQueue q x).engineClocks = s.engineClocks := rfl
@[simp] theorem State.setQueue_accesses (s : State) (q : Nat) (x : CmdQueue) : (s.setQueue q x).accesses = s.accesses := rfl
@[simp] theorem State.setQueue_syncs (s : State) (q : Nat) (x : CmdQueue) : (s.setQueue q x).syncs = s.syncs := rfl
@[simp] theorem State.setQueue_spAccesses (s : State) (q : Nat) (x : CmdQueue) : (s.setQueue q x).spAccesses = s.spAccesses := rfl
@[simp] theorem State.setQueue_spSyncs (s : State) (q : Nat) (x : CmdQueue) : (s.setQueue q x).spSyncs = s.spSyncs := rfl
@[simp] theorem State.setQueue_commands (s : State) (q : Nat) (x : CmdQueue) : (s.setQueue q x).commands = s.commands := rfl
@[simp] theorem State.setQueue_hostRead (s : State) (q : Nat) (x : CmdQueue) : (s.setQueue q x).hostRead = s.hostRead := rfl

@[simp] theorem State.bump_agenda (s : State) : s.bump.agenda = s.agenda := rfl
@[simp] theorem State.bump_focus (s : State) : s.bump.focus = s.focus := rfl
@[simp] theorem State.bump_nextUid (s : State) : s.bump.nextUid = s.nextUid := rfl
@[simp] theorem State.bump_mem (s : State) : s.bump.mem = s.mem := rfl
@[simp] theorem State.bump_hostMem (s : State) : s.bump.hostMem = s.hostMem := rfl
@[simp] theorem State.bump_ioOut (s : State) : s.bump.ioOut = s.ioOut := rfl
@[simp] theorem State.bump_lines (s : State) : s.bump.lines = s.lines := rfl
@[simp] theorem State.bump_texLines (s : State) : s.bump.texLines = s.texLines := rfl
@[simp] theorem State.bump_consists (s : State) : s.bump.consists = s.consists := rfl
@[simp] theorem State.bump_convoys (s : State) : s.bump.convoys = s.convoys := rfl
@[simp] theorem State.bump_sessions (s : State) : s.bump.sessions = s.sessions := rfl
@[simp] theorem State.bump_cores (s : State) : s.bump.cores = s.cores := rfl
@[simp] theorem State.bump_engineTlbs (s : State) : s.bump.engineTlbs = s.engineTlbs := rfl
@[simp] theorem State.bump_stations (s : State) : s.bump.stations = s.stations := rfl
@[simp] theorem State.bump_dies (s : State) : s.bump.dies = s.dies := rfl
@[simp] theorem State.bump_links (s : State) : s.bump.links = s.links := rfl
@[simp] theorem State.bump_queues (s : State) : s.bump.queues = s.queues := rfl
@[simp] theorem State.bump_ownership (s : State) : s.bump.ownership = s.ownership := rfl
@[simp] theorem State.bump_refs (s : State) : s.bump.refs = s.refs := rfl
@[simp] theorem State.bump_grants (s : State) : s.bump.grants = s.grants := rfl
@[simp] theorem State.bump_poison (s : State) : s.bump.poison = s.poison := rfl
@[simp] theorem State.bump_corrupt (s : State) : s.bump.corrupt = s.corrupt := rfl
@[simp] theorem State.bump_clocks (s : State) : s.bump.clocks = s.clocks := rfl
@[simp] theorem State.bump_engineClocks (s : State) : s.bump.engineClocks = s.engineClocks := rfl
@[simp] theorem State.bump_accesses (s : State) : s.bump.accesses = s.accesses := rfl
@[simp] theorem State.bump_syncs (s : State) : s.bump.syncs = s.syncs := rfl
@[simp] theorem State.bump_spAccesses (s : State) : s.bump.spAccesses = s.spAccesses := rfl
@[simp] theorem State.bump_spSyncs (s : State) : s.bump.spSyncs = s.spSyncs := rfl
@[simp] theorem State.bump_commands (s : State) : s.bump.commands = s.commands := rfl
@[simp] theorem State.bump_hostRead (s : State) : s.bump.hostRead = s.hostRead := rfl
@[simp] theorem State.bump_tick (s : State) : s.bump.tick = s.tick + 1 := rfl

/-! ## Reading a part after writing it -/

theorem State.consist?_setConsist (s : State) (k j : Nat) (c : Consist) :
    (s.setConsist k c).consist? j = if j = k then some c else s.consist? j := by
  simp [State.consist?, State.setConsist, tget_tset]

@[simp] theorem State.consist?_setConsist_same (s : State) (k : Nat) (c : Consist) :
    (s.setConsist k c).consist? k = some c := by simp [State.consist?_setConsist]

theorem State.convoy?_setConvoy (s : State) (k j : Nat) (v : Convoy) :
    (s.setConvoy k v).convoy? j = if j = k then some v else s.convoy? j := by
  simp [State.convoy?, State.setConvoy, tget_tset]

theorem State.session_setSession (s : State) (k j : Nat) (x : Session) :
    (s.setSession k x).session j = if j = k then x else s.session j := by
  simp [State.session, State.setSession, tget_tset]

@[simp] theorem State.session_setSession_same (s : State) (k : Nat) (x : Session) : (s.setSession k x).session k = x := by
  simp [State.session_setSession]

theorem State.core_setCore (s : State) (k j : Nat) (x : Core) :
    (s.setCore k x).core j = if j = k then x else s.core j := by
  simp [State.core, State.setCore, tget_tset]

@[simp] theorem State.core_setCore_same (s : State) (k : Nat) (x : Core) : (s.setCore k x).core k = x := by
  simp [State.core_setCore]

theorem State.station_setStation (s : State) (k j : Nat) (x : Station) :
    (s.setStation k x).station j = if j = k then x else s.station j := by
  simp [State.station, State.setStation, tget_tset]

@[simp] theorem State.station_setStation_same (s : State) (k : Nat) (x : Station) : (s.setStation k x).station k = x := by
  simp [State.station_setStation]

theorem State.die_setDie (s : State) (k j : Nat) (x : Die) :
    (s.setDie k x).die j = if j = k then x else s.die j := by
  simp [State.die, State.setDie, tget_tset]

@[simp] theorem State.die_setDie_same (s : State) (k : Nat) (x : Die) : (s.setDie k x).die k = x := by
  simp [State.die_setDie]

theorem State.queue_setQueue (s : State) (k j : Nat) (x : CmdQueue) :
    (s.setQueue k x).queue j = if j = k then x else s.queue j := by
  simp [State.queue, State.setQueue, tget_tset]

@[simp] theorem State.queue_setQueue_same (s : State) (k : Nat) (x : CmdQueue) : (s.setQueue k x).queue k = x := by
  simp [State.queue_setQueue]

@[simp] theorem State.convoy?_setConsist_other (s : State) (k j : Nat) (x : Consist) : (s.setConsist k x).convoy? j = s.convoy? j := rfl
@[simp] theorem State.session_setConsist_other (s : State) (k j : Nat) (x : Consist) : (s.setConsist k x).session j = s.session j := rfl
@[simp] theorem State.core_setConsist_other (s : State) (k j : Nat) (x : Consist) : (s.setConsist k x).core j = s.core j := rfl
@[simp] theorem State.station_setConsist_other (s : State) (k j : Nat) (x : Consist) : (s.setConsist k x).station j = s.station j := rfl
@[simp] theorem State.die_setConsist_other (s : State) (k j : Nat) (x : Consist) : (s.setConsist k x).die j = s.die j := rfl
@[simp] theorem State.queue_setConsist_other (s : State) (k j : Nat) (x : Consist) : (s.setConsist k x).queue j = s.queue j := rfl
@[simp] theorem State.byte_setConsist (s : State) (k a : Nat) (x : Consist) : (s.setConsist k x).byte a = s.byte a := rfl
@[simp] theorem State.consist?_setConvoy_other (s : State) (k j : Nat) (x : Convoy) : (s.setConvoy k x).consist? j = s.consist? j := rfl
@[simp] theorem State.session_setConvoy_other (s : State) (k j : Nat) (x : Convoy) : (s.setConvoy k x).session j = s.session j := rfl
@[simp] theorem State.core_setConvoy_other (s : State) (k j : Nat) (x : Convoy) : (s.setConvoy k x).core j = s.core j := rfl
@[simp] theorem State.station_setConvoy_other (s : State) (k j : Nat) (x : Convoy) : (s.setConvoy k x).station j = s.station j := rfl
@[simp] theorem State.die_setConvoy_other (s : State) (k j : Nat) (x : Convoy) : (s.setConvoy k x).die j = s.die j := rfl
@[simp] theorem State.queue_setConvoy_other (s : State) (k j : Nat) (x : Convoy) : (s.setConvoy k x).queue j = s.queue j := rfl
@[simp] theorem State.byte_setConvoy (s : State) (k a : Nat) (x : Convoy) : (s.setConvoy k x).byte a = s.byte a := rfl
@[simp] theorem State.consist?_setSession_other (s : State) (k j : Nat) (x : Session) : (s.setSession k x).consist? j = s.consist? j := rfl
@[simp] theorem State.convoy?_setSession_other (s : State) (k j : Nat) (x : Session) : (s.setSession k x).convoy? j = s.convoy? j := rfl
@[simp] theorem State.core_setSession_other (s : State) (k j : Nat) (x : Session) : (s.setSession k x).core j = s.core j := rfl
@[simp] theorem State.station_setSession_other (s : State) (k j : Nat) (x : Session) : (s.setSession k x).station j = s.station j := rfl
@[simp] theorem State.die_setSession_other (s : State) (k j : Nat) (x : Session) : (s.setSession k x).die j = s.die j := rfl
@[simp] theorem State.queue_setSession_other (s : State) (k j : Nat) (x : Session) : (s.setSession k x).queue j = s.queue j := rfl
@[simp] theorem State.byte_setSession (s : State) (k a : Nat) (x : Session) : (s.setSession k x).byte a = s.byte a := rfl
@[simp] theorem State.consist?_setCore_other (s : State) (k j : Nat) (x : Core) : (s.setCore k x).consist? j = s.consist? j := rfl
@[simp] theorem State.convoy?_setCore_other (s : State) (k j : Nat) (x : Core) : (s.setCore k x).convoy? j = s.convoy? j := rfl
@[simp] theorem State.session_setCore_other (s : State) (k j : Nat) (x : Core) : (s.setCore k x).session j = s.session j := rfl
@[simp] theorem State.station_setCore_other (s : State) (k j : Nat) (x : Core) : (s.setCore k x).station j = s.station j := rfl
@[simp] theorem State.die_setCore_other (s : State) (k j : Nat) (x : Core) : (s.setCore k x).die j = s.die j := rfl
@[simp] theorem State.queue_setCore_other (s : State) (k j : Nat) (x : Core) : (s.setCore k x).queue j = s.queue j := rfl
@[simp] theorem State.byte_setCore (s : State) (k a : Nat) (x : Core) : (s.setCore k x).byte a = s.byte a := rfl
@[simp] theorem State.consist?_setStation_other (s : State) (k j : Nat) (x : Station) : (s.setStation k x).consist? j = s.consist? j := rfl
@[simp] theorem State.convoy?_setStation_other (s : State) (k j : Nat) (x : Station) : (s.setStation k x).convoy? j = s.convoy? j := rfl
@[simp] theorem State.session_setStation_other (s : State) (k j : Nat) (x : Station) : (s.setStation k x).session j = s.session j := rfl
@[simp] theorem State.core_setStation_other (s : State) (k j : Nat) (x : Station) : (s.setStation k x).core j = s.core j := rfl
@[simp] theorem State.die_setStation_other (s : State) (k j : Nat) (x : Station) : (s.setStation k x).die j = s.die j := rfl
@[simp] theorem State.queue_setStation_other (s : State) (k j : Nat) (x : Station) : (s.setStation k x).queue j = s.queue j := rfl
@[simp] theorem State.byte_setStation (s : State) (k a : Nat) (x : Station) : (s.setStation k x).byte a = s.byte a := rfl
@[simp] theorem State.consist?_setDie_other (s : State) (k j : Nat) (x : Die) : (s.setDie k x).consist? j = s.consist? j := rfl
@[simp] theorem State.convoy?_setDie_other (s : State) (k j : Nat) (x : Die) : (s.setDie k x).convoy? j = s.convoy? j := rfl
@[simp] theorem State.session_setDie_other (s : State) (k j : Nat) (x : Die) : (s.setDie k x).session j = s.session j := rfl
@[simp] theorem State.core_setDie_other (s : State) (k j : Nat) (x : Die) : (s.setDie k x).core j = s.core j := rfl
@[simp] theorem State.station_setDie_other (s : State) (k j : Nat) (x : Die) : (s.setDie k x).station j = s.station j := rfl
@[simp] theorem State.queue_setDie_other (s : State) (k j : Nat) (x : Die) : (s.setDie k x).queue j = s.queue j := rfl
@[simp] theorem State.byte_setDie (s : State) (k a : Nat) (x : Die) : (s.setDie k x).byte a = s.byte a := rfl
@[simp] theorem State.consist?_setQueue_other (s : State) (k j : Nat) (x : CmdQueue) : (s.setQueue k x).consist? j = s.consist? j := rfl
@[simp] theorem State.convoy?_setQueue_other (s : State) (k j : Nat) (x : CmdQueue) : (s.setQueue k x).convoy? j = s.convoy? j := rfl
@[simp] theorem State.session_setQueue_other (s : State) (k j : Nat) (x : CmdQueue) : (s.setQueue k x).session j = s.session j := rfl
@[simp] theorem State.core_setQueue_other (s : State) (k j : Nat) (x : CmdQueue) : (s.setQueue k x).core j = s.core j := rfl
@[simp] theorem State.station_setQueue_other (s : State) (k j : Nat) (x : CmdQueue) : (s.setQueue k x).station j = s.station j := rfl
@[simp] theorem State.die_setQueue_other (s : State) (k j : Nat) (x : CmdQueue) : (s.setQueue k x).die j = s.die j := rfl
@[simp] theorem State.byte_setQueue (s : State) (k a : Nat) (x : CmdQueue) : (s.setQueue k x).byte a = s.byte a := rfl
@[simp] theorem State.consist?_bump (s : State) (j : Nat) : s.bump.consist? j = s.consist? j := rfl
@[simp] theorem State.convoy?_bump (s : State) (j : Nat) : s.bump.convoy? j = s.convoy? j := rfl
@[simp] theorem State.session_bump (s : State) (j : Nat) : s.bump.session j = s.session j := rfl
@[simp] theorem State.core_bump (s : State) (j : Nat) : s.bump.core j = s.core j := rfl
@[simp] theorem State.station_bump (s : State) (j : Nat) : s.bump.station j = s.station j := rfl
@[simp] theorem State.die_bump (s : State) (j : Nat) : s.bump.die j = s.die j := rfl
@[simp] theorem State.queue_bump (s : State) (j : Nat) : s.bump.queue j = s.queue j := rfl
@[simp] theorem State.byte_bump (s : State) (a : Nat) : s.bump.byte a = s.byte a := rfl

/-! ## The streams of a consist -/

@[simp] theorem Consist.setStrm_uid (c : Consist) (st : Strm) (x : StreamSt) : (c.setStrm st x).uid = c.uid := by
  cases st <;> rfl
@[simp] theorem Consist.setStrm_convoy (c : Consist) (st : Strm) (x : StreamSt) : (c.setStrm st x).convoy = c.convoy := by
  cases st <;> rfl
@[simp] theorem Consist.setStrm_ci (c : Consist) (st : Strm) (x : StreamSt) : (c.setStrm st x).ci = c.ci := by
  cases st <;> rfl
@[simp] theorem Consist.setStrm_status (c : Consist) (st : Strm) (x : StreamSt) : (c.setStrm st x).status = c.status := by
  cases st <;> rfl
@[simp] theorem Consist.setStrm_parked (c : Consist) (st : Strm) (x : StreamSt) : (c.setStrm st x).parked = c.parked := by
  cases st <;> rfl
@[simp] theorem Consist.setStrm_sess (c : Consist) (st : Strm) (x : StreamSt) : (c.setStrm st x).sess = c.sess := by
  cases st <;> rfl
@[simp] theorem Consist.setStrm_title (c : Consist) (st : Strm) (x : StreamSt) : (c.setStrm st x).title = c.title := by
  cases st <;> rfl
@[simp] theorem Consist.setStrm_code (c : Consist) (st : Strm) (x : StreamSt) : (c.setStrm st x).code = c.code := by
  cases st <;> rfl
@[simp] theorem Consist.setStrm_csize (c : Consist) (st : Strm) (x : StreamSt) : (c.setStrm st x).csize = c.csize := by
  cases st <;> rfl
@[simp] theorem Consist.setStrm_handler (c : Consist) (st : Strm) (x : StreamSt) : (c.setStrm st x).handler = c.handler := by
  cases st <;> rfl
@[simp] theorem Consist.setStrm_privWords (c : Consist) (st : Strm) (x : StreamSt) : (c.setStrm st x).privWords = c.privWords := by
  cases st <;> rfl
@[simp] theorem Consist.setStrm_pbase (c : Consist) (st : Strm) (x : StreamSt) : (c.setStrm st x).pbase = c.pbase := by
  cases st <;> rfl
@[simp] theorem Consist.setStrm_perConvoy (c : Consist) (st : Strm) (x : StreamSt) : (c.setStrm st x).perConvoy = c.perConvoy := by
  cases st <;> rfl
@[simp] theorem Consist.setStrm_nv (c : Consist) (st : Strm) (x : StreamSt) : (c.setStrm st x).nv = c.nv := by
  cases st <;> rfl
@[simp] theorem Consist.setStrm_na (c : Consist) (st : Strm) (x : StreamSt) : (c.setStrm st x).na = c.na := by
  cases st <;> rfl
@[simp] theorem Consist.setStrm_csw (c : Consist) (st : Strm) (x : StreamSt) : (c.setStrm st x).csw = c.csw := by
  cases st <;> rfl
@[simp] theorem Consist.setStrm_fmask (c : Consist) (st : Strm) (x : StreamSt) : (c.setStrm st x).fmask = c.fmask := by
  cases st <;> rfl
@[simp] theorem Consist.setStrm_stklim (c : Consist) (st : Strm) (x : StreamSt) : (c.setStrm st x).stklim = c.stklim := by
  cases st <;> rfl
@[simp] theorem Consist.setStrm_trapc (c : Consist) (st : Strm) (x : StreamSt) : (c.setStrm st x).trapc = c.trapc := by
  cases st <;> rfl
@[simp] theorem Consist.setStrm_trapv (c : Consist) (st : Strm) (x : StreamSt) : (c.setStrm st x).trapv = c.trapv := by
  cases st <;> rfl
@[simp] theorem Consist.setStrm_trappc (c : Consist) (st : Strm) (x : StreamSt) : (c.setStrm st x).trappc = c.trappc := by
  cases st <;> rfl
@[simp] theorem Consist.setStrm_cvid (c : Consist) (st : Strm) (x : StreamSt) : (c.setStrm st x).cvid = c.cvid := by
  cases st <;> rfl
@[simp] theorem Consist.setStrm_lnch (c : Consist) (st : Strm) (x : StreamSt) : (c.setStrm st x).lnch = c.lnch := by
  cases st <;> rfl
@[simp] theorem Consist.setStrm_lmask (c : Consist) (st : Strm) (x : StreamSt) : (c.setStrm st x).lmask = c.lmask := by
  cases st <;> rfl
@[simp] theorem Consist.setStrm_htbl (c : Consist) (st : Strm) (x : StreamSt) : (c.setStrm st x).htbl = c.htbl := by
  cases st <;> rfl
@[simp] theorem Consist.setStrm_cid (c : Consist) (st : Strm) (x : StreamSt) : (c.setStrm st x).cid = c.cid := by
  cases st <;> rfl
@[simp] theorem Consist.setStrm_hmask (c : Consist) (st : Strm) (x : StreamSt) : (c.setStrm st x).hmask = c.hmask := by
  cases st <;> rfl
@[simp] theorem Consist.setStrm_vregs (c : Consist) (st : Strm) (x : StreamSt) : (c.setStrm st x).vregs = c.vregs := by
  cases st <;> rfl
@[simp] theorem Consist.setStrm_aregs (c : Consist) (st : Strm) (x : StreamSt) : (c.setStrm st x).aregs = c.aregs := by
  cases st <;> rfl
@[simp] theorem Consist.setStrm_sregs (c : Consist) (st : Strm) (x : StreamSt) : (c.setStrm st x).sregs = c.sregs := by
  cases st <;> rfl
@[simp] theorem Consist.setStrm_lq (c : Consist) (st : Strm) (x : StreamSt) : (c.setStrm st x).lq = c.lq := by
  cases st <;> rfl
@[simp] theorem Consist.setStrm_xqAC (c : Consist) (st : Strm) (x : StreamSt) : (c.setStrm st x).xqAC = c.xqAC := by
  cases st <;> rfl
@[simp] theorem Consist.setStrm_xqCA (c : Consist) (st : Strm) (x : StreamSt) : (c.setStrm st x).xqCA = c.xqCA := by
  cases st <;> rfl
@[simp] theorem Consist.setStrm_sq (c : Consist) (st : Strm) (x : StreamSt) : (c.setStrm st x).sq = c.sq := by
  cases st <;> rfl
@[simp] theorem Consist.setStrm_tokens (c : Consist) (st : Strm) (x : StreamSt) : (c.setStrm st x).tokens = c.tokens := by
  cases st <;> rfl
@[simp] theorem Consist.setStrm_tokenRels (c : Consist) (st : Strm) (x : StreamSt) : (c.setStrm st x).tokenRels = c.tokenRels := by
  cases st <;> rfl
@[simp] theorem Consist.setStrm_tokenAt (c : Consist) (st : Strm) (x : StreamSt) : (c.setStrm st x).tokenAt = c.tokenAt := by
  cases st <;> rfl
@[simp] theorem Consist.setStrm_freightRels (c : Consist) (st : Strm) (x : StreamSt) : (c.setStrm st x).freightRels = c.freightRels := by
  cases st <;> rfl
@[simp] theorem Consist.setStrm_texRels (c : Consist) (st : Strm) (x : StreamSt) : (c.setStrm st x).texRels = c.texRels := by
  cases st <;> rfl
@[simp] theorem Consist.setStrm_inflight (c : Consist) (st : Strm) (x : StreamSt) : (c.setStrm st x).inflight = c.inflight := by
  cases st <;> rfl
@[simp] theorem Consist.setStrm_async (c : Consist) (st : Strm) (x : StreamSt) : (c.setStrm st x).async = c.async := by
  cases st <;> rfl
@[simp] theorem Consist.setStrm_saved (c : Consist) (st : Strm) (x : StreamSt) : (c.setStrm st x).saved = c.saved := by
  cases st <;> rfl
@[simp] theorem Consist.setStrm_cancelled (c : Consist) (st : Strm) (x : StreamSt) : (c.setStrm st x).cancelled = c.cancelled := by
  cases st <;> rfl
@[simp] theorem Consist.setStrm_matrix (c : Consist) (st : Strm) (x : StreamSt) : (c.setStrm st x).matrix = c.matrix := by
  cases st <;> rfl
@[simp] theorem Consist.setStrm_lowTier (c : Consist) (st : Strm) (x : StreamSt) : (c.setStrm st x).lowTier = c.lowTier := by
  cases st <;> rfl
@[simp] theorem Consist.setStrm_bandOp (c : Consist) (st : Strm) (x : StreamSt) : (c.setStrm st x).bandOp = c.bandOp := by
  cases st <;> rfl
@[simp] theorem Consist.strm_setStrm_same (c : Consist) (st : Strm) (x : StreamSt) : (c.setStrm st x).strm st = x := by
  cases st <;> rfl

theorem Consist.strm_setStrm (c : Consist) (st r : Strm) (x : StreamSt) :
    (c.setStrm st x).strm r = if r = st then x else c.strm r := by
  cases st <;> cases r <;> rfl

@[simp] theorem Consist.setStrm_strm (c : Consist) (st : Strm) : c.setStrm st (c.strm st) = c := by
  cases st <;> rfl

@[simp] theorem StreamSt.putLatch_pc (x : StreamSt) (n : Nat) (ls : List Nat) (f : Nat → DWord) :
    (x.putLatch n ls f).pc = x.pc := rfl
@[simp] theorem StreamSt.putLatch_exited (x : StreamSt) (n : Nat) (ls : List Nat) (f : Nat → DWord) :
    (x.putLatch n ls f).exited = x.exited := rfl
@[simp] theorem StreamSt.putLatch_deferred (x : StreamSt) (n : Nat) (ls : List Nat) (f : Nat → DWord) :
    (x.putLatch n ls f).deferred = x.deferred := rfl
@[simp] theorem StreamSt.putLatch_absent (x : StreamSt) (n : Nat) (ls : List Nat) (f : Nat → DWord) :
    (x.putLatch n ls f).absent = x.absent := rfl
@[simp] theorem StreamSt.putLatch_preds (x : StreamSt) (n : Nat) (ls : List Nat) (f : Nat → DWord) :
    (x.putLatch n ls f).preds = x.preds := rfl
@[simp] theorem StreamSt.putLatch_hints (x : StreamSt) (n : Nat) (ls : List Nat) (f : Nat → DWord) :
    (x.putLatch n ls f).hints = x.hints := rfl
@[simp] theorem StreamSt.putLatch_guardLeft (x : StreamSt) (n : Nat) (ls : List Nat) (f : Nat → DWord) :
    (x.putLatch n ls f).guardLeft = x.guardLeft := rfl
@[simp] theorem StreamSt.putLatch_guardPass (x : StreamSt) (n : Nat) (ls : List Nat) (f : Nat → DWord) :
    (x.putLatch n ls f).guardPass = x.guardPass := rfl
@[simp] theorem StreamSt.putLatch_hold (x : StreamSt) (n : Nat) (ls : List Nat) (f : Nat → DWord) :
    (x.putLatch n ls f).hold = x.hold := rfl
@[simp] theorem StreamSt.putLatch_rets (x : StreamSt) (n : Nat) (ls : List Nat) (f : Nat → DWord) :
    (x.putLatch n ls f).rets = x.rets := rfl
@[simp] theorem StreamSt.putLatch_spilled (x : StreamSt) (n : Nat) (ls : List Nat) (f : Nat → DWord) :
    (x.putLatch n ls f).spilled = x.spilled := rfl
@[simp] theorem StreamSt.putLatch_headCount (x : StreamSt) (n : Nat) (ls : List Nat) (f : Nat → DWord) :
    (x.putLatch n ls f).headCount = x.headCount := rfl
@[simp] theorem StreamSt.putLatch_headLanes (x : StreamSt) (n : Nat) (ls : List Nat) (f : Nat → DWord) :
    (x.putLatch n ls f).headLanes = x.headLanes := rfl
@[simp] theorem StreamSt.putLatch_stalled (x : StreamSt) (n : Nat) (ls : List Nat) (f : Nat → DWord) :
    (x.putLatch n ls f).stalled = x.stalled := rfl
@[simp] theorem StreamSt.putLatch_held (x : StreamSt) (n : Nat) (ls : List Nat) (f : Nat → DWord) :
    (x.putLatch n ls f).held = x.held := rfl
@[simp] theorem StreamSt.putLatch_wants (x : StreamSt) (n : Nat) (ls : List Nat) (f : Nat → DWord) :
    (x.putLatch n ls f).wants = x.wants := rfl
@[simp] theorem StreamSt.putLatch_barWaits (x : StreamSt) (n : Nat) (ls : List Nat) (f : Nat → DWord) :
    (x.putLatch n ls f).barWaits = x.barWaits := rfl
@[simp] theorem StreamSt.putLatch_tlWaits (x : StreamSt) (n : Nat) (ls : List Nat) (f : Nat → DWord) :
    (x.putLatch n ls f).tlWaits = x.tlWaits := rfl
@[simp] theorem StreamSt.putLatch_schedLeft (x : StreamSt) (n : Nat) (ls : List Nat) (f : Nat → DWord) :
    (x.putLatch n ls f).schedLeft = x.schedLeft := rfl

end Sys2Proof.Machine
end

