-- ==== Sys2Proof/Laws/Frames.lean ====
section
/-!
SUPPORT. Free frames (R347): a die on which fewer frames are in use than it has runs has a free run to give.
-/

namespace Sys2Proof.Machine

open Sys2Proof

/-- A list without repeats lies in another only when it is no longer. -/
theorem length_le_of_nodup_subset {l m : List Nat} (hl : l.Nodup) (h : ∀ a ∈ l, a ∈ m) : l.length ≤ m.length := by
  induction l generalizing m with
  | nil => simp
  | cons a l ih =>
    have ha : a ∈ m := h a (by simp)
    have := ih (m := m.erase a) (List.nodup_cons.mp hl).2 (fun b hb =>
      (List.mem_erase_of_ne (fun (e : b = a) => (List.nodup_cons.mp hl).1 (e ▸ hb))).mpr (h b (by simp [hb])))
    have hp := List.length_pos_of_mem ha
    rw [List.length_erase_of_mem ha] at this
    simp only [List.length_cons]
    omega

theorem mem_keys_of_tget_ne {V : Type} [Inhabited V] (t : Table V) (k : Nat) (h : tget t k ≠ default) : k ∈ t.map (fun e => e.1) := by
  induction t with
  | nil => exact absurd rfl h
  | cons e t ih =>
    obtain ⟨i, w⟩ := e
    by_cases hi : i = k
    · simp [hi]
    · simp only [tget, tfind, hi, if_false] at h
      exact List.mem_cons_of_mem _ (ih h)

theorem findRun_none (s : State) (d n : Nat) : ∀ fuel j, s.findRun d n fuel j = none →
    ∀ i, i < fuel → s.runFree (d * 2 ^ 26 + (j + i) * n % 2 ^ 26) n = false
  | 0, _, _, i, hi => absurd hi (Nat.not_lt_zero i)
  | fuel + 1, j, h, i, hi => by
    simp only [State.findRun] at h
    split at h
    · cases h
    · rename_i hf
      cases i with
      | zero => simpa using hf
      | succ i =>
        have := findRun_none s d n fuel (j + 1) h i (by omega)
        rwa [show j + 1 + i = j + (i + 1) by omega] at this

/-- A die has a free aligned run when the frames in use are fewer than its runs. -/
theorem pickRun_of (s : State) (d n : Nat) (hn : 0 < n) (hd : n ∣ 2 ^ 26)
    (hr : s.ownership.length + (s.die d).retire.length < 2 ^ 26 / n) : ∃ f, s.pickRun d n = some f := by
  cases hp : s.pickRun d n with
  | some f => exact ⟨f, rfl⟩
  | none =>
    exfalso
    obtain ⟨m, hm⟩ := hd
    have hmn : 2 ^ 26 / n = m := by rw [hm]; exact Nat.mul_div_cancel_left m hn
    rw [hmn] at hr
    let j := Config.framePick s.tick
    let used := s.ownership.map (fun e => e.1) ++ (s.die d).retire
    have hfuel : min (2 ^ 26 / n) (s.ownership.length + (s.die d).retire.length + 1) = used.length + 1 := by
      simp only [used, hmn, List.length_append, List.length_map]
      omega
    have hnone : ∀ i, i < used.length + 1 → s.runFree (d * 2 ^ 26 + (j + i) * n % 2 ^ 26) n = false := by
      rw [← hfuel]
      exact findRun_none s d n _ j hp
    have hq : ∀ i, (d * 2 ^ 26 + (j + i) * n % 2 ^ 26) = n * (d * m + (j + i) % m) := by
      intro i
      rw [hm, Nat.mul_comm (j + i) n, Nat.mul_mod_mul_left, Nat.mul_add]
      congr 1
      rw [← Nat.mul_assoc, ← Nat.mul_assoc, Nat.mul_comm d n]
    have hmem : ∀ i, i < used.length + 1 → d * m + (j + i) % m ∈ used.map (· / n) := by
      intro i hi
      have h := hnone i hi
      rw [hq i] at h
      simp only [State.runFree, List.all_eq_false, List.mem_range] at h
      obtain ⟨k, hk, hb⟩ := h
      have hdiv : (n * (d * m + (j + i) % m) + k) / n = d * m + (j + i) % m := by
        rw [Nat.mul_add_div hn, Nat.div_eq_of_lt hk, Nat.add_zero]
      refine List.mem_map.mpr ⟨n * (d * m + (j + i) % m) + k, ?_, hdiv⟩
      have hm0 : 0 < m := by omega
      have hdie : frameDie (n * (d * m + (j + i) % m)) = d := by
        have hlt := Nat.mod_lt (j + i) hm0
        unfold frameDie
        rw [hm, ← Nat.div_div_eq_div_mul, Nat.mul_div_cancel_left _ hn, Nat.mul_comm d m, Nat.mul_add_div hm0, Nat.div_eq_of_lt hlt, Nat.add_zero]
      rw [hdie] at hb
      simp only [used, List.mem_append]
      by_cases hc : (s.die d).retire.contains (n * (d * m + (j + i) % m) + k) = true
      · exact .inr (by simpa using hc)
      · refine .inl (mem_keys_of_tget_ne _ _ (fun he => hb ?_))
        rw [Bool.eq_false_iff.mpr hc, State.frameKind, he]
        rfl
    have hnd : ((List.range (used.length + 1)).map (fun i => d * m + (j + i) % m)).Nodup := by
      refine List.pairwise_map.mpr (List.Pairwise.imp_of_mem ?_ List.nodup_range)
      intro a b ha hb hab he
      have ha := List.mem_range.mp ha
      have hb := List.mem_range.mp hb
      have he : (j + a) % m = (j + b) % m := by omega
      have h1 := Nat.div_add_mod (j + a) m
      have h2 := Nat.div_add_mod (j + b) m
      rw [he] at h1
      have hlen : used.length + 1 ≤ m := by
        simp only [used, List.length_append, List.length_map]
        omega
      have : (j + a) / m = (j + b) / m := by
        rcases Nat.lt_trichotomy ((j + a) / m) ((j + b) / m) with h | h | h
        · have := Nat.mul_le_mul_left m (Nat.succ_le_of_lt h)
          rw [Nat.mul_succ] at this
          omega
        · exact h
        · have := Nat.mul_le_mul_left m (Nat.succ_le_of_lt h)
          rw [Nat.mul_succ] at this
          omega
      rw [this] at h1
      omega
    have := length_le_of_nodup_subset hnd (fun a ha => by
      obtain ⟨i, hi, rfl⟩ := List.mem_map.mp ha
      exact hmem i (List.mem_range.mp hi))
    simp only [List.length_map, List.length_range] at this
    omega

theorem length_tdel {V : Type} (t : Table V) (k : Nat) : (tdel k t).length ≤ t.length := by
  induction t with
  | nil => simp [tdel]
  | cons e t ih =>
    obtain ⟨i, w⟩ := e
    simp only [tdel]
    split <;> simp only [List.length_cons] <;> omega

theorem length_tput {V : Type} (t : Table V) (k : Nat) (v : V) : (tput k v t).length ≤ t.length + 1 := by
  induction t with
  | nil => simp [tput]
  | cons e t ih =>
    obtain ⟨i, w⟩ := e
    simp only [tput]
    split
    · simp
    · split <;> simp only [List.length_cons] <;> omega

theorem length_tset {V : Type} [Inhabited V] [DecidableEq V] (t : Table V) (k : Nat) (v : V) : (tset t k v).length ≤ t.length + 1 := by
  unfold tset
  split
  · exact Nat.le_succ_of_le (length_tdel t k)
  · exact length_tput t k v

/-- Nothing of the frames in use, nor of any die's retire list, changes. -/
def State.SameFrames (s t : State) : Prop := t.ownership = s.ownership ∧ ∀ d, (t.die d).retire = (s.die d).retire

theorem State.SameFrames.trans {a b c : State} (h : a.SameFrames b) (k : b.SameFrames c) : a.SameFrames c :=
  ⟨k.1.trans h.1, fun d => (k.2 d).trans (h.2 d)⟩

theorem State.SameFrames.of_eq {s t : State} (h : t.ownership = s.ownership) (k : t.dies = s.dies) : s.SameFrames t :=
  ⟨h, fun d => by unfold State.die; rw [k]⟩

theorem sameFrames_setDie (s : State) (d : Nat) (x : Die) (h : x.retire = (s.die d).retire) : s.SameFrames (s.setDie d x) := by
  refine ⟨rfl, fun e => ?_⟩
  rw [State.die_setDie]
  split
  · rename_i he; rw [he, h]
  · rfl

/-- An injector that fires changes no frame. -/
theorem sameFrames_fire (s : State) (d : Nat) (clean : Bool) : s.SameFrames (s.fire d clean) := by
  unfold State.fire
  simp only
  refine (sameFrames_setDie s d { s.die d with injCtl := (s.die d).injCtl &&& ~~~(1#16) } rfl).trans ?_
  generalize s.setDie d { s.die d with injCtl := (s.die d).injCtl &&& ~~~(1#16) } = u
  generalize tset u.corrupt (s.die d).injLine _ = c
  refine State.SameFrames.trans (b := { u with corrupt := c }) (.of_eq rfl rfl) ?_
  generalize ({ u with corrupt := c } : State) = v
  unfold State.logRecord
  exact sameFrames_setDie v d _ rfl

theorem sameFrames_injectAt (s : State) (a n : Nat) (who : Option Nat) : s.SameFrames (s.injectAt a n who) := by
  have gen : ∀ (ds : List Nat) (s : State),
      s.SameFrames (ds.foldl (fun s d => if s.armedFor d a n && s.writeEnters d a who then s.fire d false else s) s) := by
    intro ds
    induction ds with
    | nil => intro s; exact ⟨rfl, fun _ => rfl⟩
    | cons d ds ih =>
      intro s
      rw [List.foldl_cons]
      refine State.SameFrames.trans ?_ (ih _)
      split
      · exact sameFrames_fire s d false
      · exact ⟨rfl, fun _ => rfl⟩
  unfold State.injectAt
  simp only
  generalize List.foldl _ s.corrupt _ = c
  exact State.SameFrames.trans (b := { s with corrupt := c }) (.of_eq rfl rfl) (gen _ _)

theorem sameFrames_zeroFrame (s : State) (f : Nat) : s.SameFrames (s.zeroFrame f) := by
  unfold State.zeroFrame
  simp only
  generalize clearRange s.mem _ _ = m
  generalize clearRange s.poison _ _ = p
  generalize clearRange s.corrupt _ _ = c
  generalize f * 4096 = a
  exact State.SameFrames.trans (b := ({ s with mem := m, poison := p, corrupt := c } : State).dropCopies a 4096 none)
    (.of_eq rfl rfl) (sameFrames_injectAt _ _ _ _)

/-- Giving a frame out adds at most one entry to the ownership table, and takes nothing off a retire list. -/
theorem giveFrame_keep (s : State) (f kind owner : Nat) :
    ((s.zeroFrame f).setFrame f kind owner).ownership.length ≤ s.ownership.length + 1
      ∧ ∀ d, (((s.zeroFrame f).setFrame f kind owner).die d).retire = (s.die d).retire := by
  obtain ⟨h1, h2⟩ := sameFrames_zeroFrame s f
  refine ⟨?_, fun d => h2 d⟩
  rw [← h1]; exact length_tset _ _ _

/-- Listing a run's frames adds no more than their number to the ownership table, and changes no retire list. -/
theorem setFrames_keep (f kind owner : Nat) (l : List Nat) (s : State) :
    let t := l.foldl (fun (s : State) j => (s.zeroFrame (f + j)).setFrame (f + j) kind owner) s
    t.ownership.length ≤ s.ownership.length + l.length ∧ ∀ d, (t.die d).retire = (s.die d).retire := by
  induction l generalizing s with
  | nil => simp
  | cons j l ih =>
    obtain ⟨h1, h2⟩ := ih ((s.zeroFrame (f + j)).setFrame (f + j) kind owner)
    obtain ⟨k1, k2⟩ := giveFrame_keep s (f + j) kind owner
    simp only [List.foldl_cons, List.length_cons]
    exact ⟨by omega, fun d => (h2 d).trans (k2 d)⟩

/-- A run whose length is a power of two can be allocated while the frames in use are fewer than the die's runs of that
size. -/
theorem allocRun_of (s : State) (d n kind owner : Nat) (hd : n ∣ 2 ^ 26) (h2 : n = 2 ^ n.log2)
    (hr : s.ownership.length + (s.die d).retire.length < 2 ^ 26 / n) :
    ∃ f t, s.allocRun d n kind owner = some (f, t) ∧ t.ownership.length ≤ s.ownership.length + n
      ∧ ∀ d, (t.die d).retire = (s.die d).retire := by
  have hn : 0 < n := Nat.pos_of_dvd_of_pos hd (by decide)
  obtain ⟨f, hf⟩ := pickRun_of s d n hn hd hr
  have := setFrames_keep f kind owner (List.range n) s
  rw [List.length_range] at this
  exact ⟨f, _, by simp only [State.allocRun, Nat.ne_of_gt hn, if_false, if_pos h2, hf, Option.map_some], this.1, this.2⟩

/-- So can frames one by one. -/
theorem allocFrames_of (d kind owner : Nat) : ∀ (k : Nat) (s : State),
    s.ownership.length + (s.die d).retire.length + k ≤ 2 ^ 26 → (s.allocFrames d kind owner k).isSome = true
  | 0, _, _ => rfl
  | k + 1, s, h => by
    obtain ⟨f, hf⟩ := pickRun_of s d 1 (by decide) ⟨2 ^ 26, by decide⟩ (by rw [Nat.div_one]; omega)
    obtain ⟨h1, h2⟩ := giveFrame_keep s f kind owner
    have := allocFrames_of d kind owner k ((s.zeroFrame f).setFrame f kind owner) (by rw [h2 d]; omega)
    simp only [State.allocFrames, State.allocFrame, hf, Option.map_some, Option.isSome_map]
    exact this

/-- Copying bytes changes neither the ownership table nor a retire list. -/
theorem sameFrames_copyPlain (s : State) (src dst n : Nat) : s.SameFrames (s.copyPlain src dst n) := by
  unfold State.copyPlain
  generalize copyRange s.mem _ _ _ = m
  exact State.SameFrames.trans (b := ({ s with mem := m } : State).dropCopies dst n none) (.of_eq rfl rfl) (sameFrames_injectAt _ _ _ _)

/-- See `sameFrames_copyPlain`. -/
theorem sameFrames_copyBytes (s : State) (src dst n : Nat) : s.SameFrames (s.copyBytes src dst n) := by
  unfold State.copyBytes
  exact (sameFrames_copyPlain s src dst n).trans (.of_eq rfl rfl)

/-- A run of a power of two can be copied while the frames in use are fewer than the die's runs of that size. -/
theorem cloneRun_of (s : State) (own : Bool) (d kind v f n : Nat) (hd : n ∣ 2 ^ 26) (h2 : n = 2 ^ n.log2)
    (hr : s.ownership.length + (s.die d).retire.length < 2 ^ 26 / n) :
    ∃ g t, s.cloneRun own d kind v f n = some (g, t) ∧ t.ownership.length ≤ s.ownership.length + n
      ∧ ∀ d, (t.die d).retire = (s.die d).retire := by
  obtain ⟨g, t, h, h1, h3⟩ := allocRun_of s d n kind v hd h2 hr
  have hc : ∀ u, t.SameFrames u → u.ownership.length ≤ s.ownership.length + n ∧ ∀ d, (u.die d).retire = (s.die d).retire :=
    fun u hu => ⟨by rw [hu.1]; exact h1, fun d => (hu.2 d).trans (h3 d)⟩
  cases own with
  | false =>
    obtain ⟨k1, k2⟩ := hc _ (sameFrames_copyPlain t (f * 4096) (g * 4096) (4096 * n))
    exact ⟨g, _, by simp only [State.cloneRun, h, Option.map_some]; rfl, k1, k2⟩
  | true =>
    obtain ⟨k1, k2⟩ := hc _ (sameFrames_copyBytes t (f * 4096) (g * 4096) (4096 * n))
    exact ⟨g, _, by simp only [State.cloneRun, h, Option.map_some]; rfl, k1, k2⟩

/-- The tables of a session with a root table only, an empty frame map and a ring of one frame can be copied to a die of which few
frames are in use. -/
theorem cloneSession_of (s : State) (own : Bool) (src v d f : Nat) (ht : s.tables src = [(4, f)])
    (hm : mapFrames (s.session src).fmSize = 0) (hf : ringFrames (s.session src).frSize = 1)
    (hr : s.ownership.length + (s.die d).retire.length < 2 ^ 20) : (s.cloneSession own src v d).isSome = true := by
  obtain ⟨g, t, h, h1, h2⟩ := cloneRun_of s own d 3 v f 8 ⟨2 ^ 23, by decide⟩ (by decide) (by omega)
  have h3 : ∃ u, t.cloneRun own d 4 v ((s.session src).fmBase / 4096) 0 = some (0, u) ∧ u.SameFrames t := by
    cases own with
    | false => exact ⟨_, by simp only [State.cloneRun, State.allocRun, if_true, Option.map_some]; rfl,
        let h := sameFrames_copyPlain t _ _ _; ⟨h.1.symm, fun d => (h.2 d).symm⟩⟩
    | true => exact ⟨_, by simp only [State.cloneRun, State.allocRun, if_true, Option.map_some]; rfl,
        let h := sameFrames_copyBytes t _ _ _; ⟨h.1.symm, fun d => (h.2 d).symm⟩⟩
  obtain ⟨u, hu, k1, k2⟩ := h3
  obtain ⟨r, w, hw, -⟩ := cloneRun_of u own d 3 v ((s.session src).frBase / 4096) 1 ⟨2 ^ 26, by decide⟩ (by decide) (by
    have := k2 d
    rw [← k1, ← this, h2 d]; omega)
  simp only [State.cloneSession, ht, State.cloneTables, tableFrames, if_true, h, Option.bind_some, hm, hf, hu, hw, Option.map_some,
    Option.isSome_some]

/-- A die's own state names no table. -/
theorem tablesUnder_setDie (s : State) (d : Nat) (x : Die) (v : Nat) : ∀ level f,
    (s.setDie d x).tablesUnder v level f = s.tablesUnder v level f
  | 0, _ => rfl
  | level + 1, f => by
    simp only [State.tablesUnder, tablesUnder_setDie s d x v level]
    rfl

/-- Granting cores changes no session and none of its tables. -/
theorem tables_grant {s a : State} {d u n : Nat} (h : s.grant d u n = some a) (v : Nat) :
    a.tables v = s.tables v ∧ a.sessions = s.sessions := by
  have hs : ∃ x, a = s.setDie d x := by
    simp only [State.grant] at h
    split at h
    · cases h; exact ⟨_, rfl⟩
    · split at h
      · cases h
      · cases h; exact ⟨_, rfl⟩
  obtain ⟨x, rfl⟩ := hs
  exact ⟨congrArg List.eraseDups (tablesUnder_setDie s d x v 4 _), rfl⟩

/-- A depot with a root table only, an empty frame map, a ring of one frame and no siding can be slipped to a die that has cores
for it and of which few frames are in use. -/
theorem slip_of (w a : State) (src v d n f : Nat) (ha : w.grant d v n = some a) (ht : w.tables src = [(4, f)])
    (hm : mapFrames (w.session src).fmSize = 0) (hf : ringFrames (w.session src).frSize = 1) (hd : (w.session src).depths = [])
    (hr : a.ownership.length + (a.die d).retire.length < 2 ^ 20) : (w.slip src v d n).isSome = true := by
  obtain ⟨k1, k2⟩ := tables_grant ha src
  have hs : a.session src = w.session src := by simp only [State.session, k2]
  obtain ⟨c, hc⟩ := Option.isSome_iff_exists.mp (cloneSession_of a false src v d f (k1.trans ht) (by rw [hs]; exact hm) (by rw [hs]; exact hf) hr)
  simp only [State.slip, ha, Option.bind_some, hc, hd, State.allocSidings, List.map_nil, List.sum_nil, State.allocFrames,
    Option.map_some, Option.isSome_some]

/-- Memory that lists nothing reads 0. -/
theorem word_nothing (s : State) (hm : s.mem = []) (hh : s.hostMem = []) (a n : Nat) : s.word a n = 0 := by
  have h : ∀ n a, leNat (s.bytes a n) = 0 := by
    intro n
    induction n with
    | zero => intro a; rfl
    | succ n ih =>
      intro a
      have hb : s.byte a = 0 := by unfold State.byte; simp only [hm, hh]; split <;> rfl
      simp only [State.bytes, leNat, ih, hb]; rfl
  exact h n a
/-- A session whose root table stands in such memory has no other table, and no leaf. -/
theorem tables_nothing (s : State) (hm : s.mem = []) (hh : s.hostMem = []) (v : Nat) :
    s.tables v = [(4, (s.session v).root / 4096)] ∧ s.leaves v = [] := by
  constructor
  · have h : ∀ l : List Nat, l.flatMap (fun _ => ([] : List (Nat × Nat))) = [] := fun l => by
      rw [List.flatMap_eq_nil_iff]; exact fun _ _ => rfl
    simp [State.tables, State.tablesUnder, word_nothing s hm hh, h]
    rfl
  · simp [State.leaves, State.leavesAt, word_nothing s hm hh]

/-- The pages of such a session convert to a depot's; the commands in progress stay. -/
theorem convert_nothing (s : State) (hm : s.mem = []) (hh : s.hostMem = []) (v : Nat) :
    ∃ u, s.convert v = .ok () u ∧ u.commands = s.commands := by
  have hl := (tables_nothing s hm hh v).2
  have hp : s.parkOwn v = s := by simp only [State.parkOwn, hl, List.filterMap_nil, List.map_nil, List.eraseDups_nil, List.foldl_nil]
  have hk : (s.dropTranslations v).mem = s.mem ∧ (s.dropTranslations v).hostMem = s.hostMem := ⟨rfl, rfl⟩
  have hd : (s.dropTranslations v).leaves v = [] := (tables_nothing _ (hk.1.trans hm) (hk.2.trans hh) v).2
  refine ⟨(s.dropTranslations v).modSession v (fun x => { x with state := .depot, measured := (s.dropTranslations v).measure v }), ?_, rfl⟩
  simp only [State.convert, hl, forEach, Doing.bind, List.foldl_nil, hp, List.filter_nil, List.map_nil, State.measured, hd,
    State.readFrames]

/-- None of its frames has a page whose equal a drift could look for. -/
theorem drift_nothing (s : State) (hm : s.mem = []) (hh : s.hostMem = []) (v f : Nat) :
    s.driftMates v f = [] ∧ s.driftMerge v f = none := by
  have h : s.driftPage v f = none := by unfold State.driftPage; rw [(tables_nothing s hm hh v).2]; rfl
  constructor
  · unfold State.driftMates; rw [h]; rfl
  · unfold State.driftMerge; rw [h]

end Sys2Proof.Machine
end

