-- ==== Sys2Proof/Laws/Issue.lean ====
section
/-!
SUPPORT. Laws of the issue unit: what an instruction that nothing stands in the way of does, and what completing one
changes.
-/

namespace Sys2Proof.Machine

open Sys2Proof

/-! ## Lanes -/

theorem mem_lanesOf (m : Lanes) (l : Nat) : l ∈ lanesOf m ↔ l < 32 ∧ m.getLsbD l = true := by
  simp [lanesOf]

theorem lanesOf_lt (m : Lanes) : ∀ l ∈ lanesOf m, l < 32 := fun l h => ((mem_lanesOf m l).mp h).1

theorem lanesOf_eq_nil (m : Lanes) : lanesOf m = [] ↔ m = 0 := by
  constructor
  · intro h
    apply BitVec.eq_of_getLsbD_eq
    intro i hi
    have hn : ¬ (i < 32 ∧ m.getLsbD i = true) := fun c => by
      have := (mem_lanesOf m i).mpr c
      rw [h] at this; exact List.not_mem_nil this
    have : m.getLsbD i = false := by
      cases hm : m.getLsbD i with
      | false => rfl
      | true => exact absurd ⟨hi, hm⟩ hn
    simp [this]
  · rintro rfl; simp [lanesOf]

theorem getLsbD_fold_or (p : Nat → Bool) (ls : List Nat) (m : Lanes) (i : Nat) (h : ∀ l ∈ ls, l < 32) :
    (ls.foldl (fun m l => if p l then m ||| (1#32 <<< l) else m) m).getLsbD i
      = (m.getLsbD i || (decide (i ∈ ls) && p i)) := by
  induction ls generalizing m with
  | nil => simp
  | cons l ls ih =>
    have hl : l < 32 := h l (List.mem_cons_self ..)
    rw [List.foldl_cons, ih _ (fun x hx => h x (List.mem_cons_of_mem _ hx))]
    by_cases hp : p l = true
    · by_cases hi : i = l
      · subst hi; simp [hp, hl]
      · have : (1#32 <<< l).getLsbD i = false := by
          simp only [BitVec.getLsbD_shiftLeft, BitVec.getLsbD_one]
          by_cases h1 : i < l
          · simp [h1]
          · have : i - l ≠ 0 := by omega
            simp [this]
        simp [hp, hi, this]
    · by_cases hi : i = l
      · subst hi; simp [hp]
      · simp [hp, hi]

/-- The mask of the lanes that satisfy a test. -/
theorem getLsbD_maskWhere (p : Nat → Bool) (i : Nat) (hi : i < 32) : (maskWhere p).getLsbD i = p i := by
  unfold maskWhere
  rw [getLsbD_fold_or p _ _ _ (by simp)]
  simp [hi]

/-! ## Issue -/

/-- Every instruction word ends in a next state. -/
theorem issue_next (w : Word) (o : OpInfo) (body : Ctx → State → Eff) (s : State) : ∃ t, issue w o body s = .next t := by
  unfold issue
  split
  · exact ⟨_, rfl⟩
  · simp only
    split
    · exact ⟨_, rfl⟩
    · split
      · exact ⟨_, rfl⟩
      · split
        · exact ⟨_, rfl⟩
        · split
          · exact ⟨_, rfl⟩
          · split <;> exact ⟨_, rfl⟩

/-- The step in which an instruction, whose effect starts at `s`, does what its body answers. -/
def outcome (o : OpInfo) (x : Ctx) (s : State) : Eff → State
  | .ok t => retire o x (switchIn x t)
  | .trap cause v => trapAt x o.hint cause v (switchIn x s)
  | .trapIn t cause v => trapAt x o.hint cause v (switchIn x (unlearn s t))
  | .wait t => stall x (unlearn s t)
  | .hold t => stall x (unlearn s t) true
  | .stop t => (switchIn x t).bump

/-- What the machine does with a word that nothing stands in the way of. -/
theorem issue_of_issues {w : Word} {o : OpInfo} {s : State} {x : Ctx} (h : Issues w o s x) (body : Ctx → State → Eff) :
    issue w o body s = .next (outcome o x s (body x (learnPops o x s))) := by
  obtain ⟨h1, h2, h3, h4, h5⟩ := h
  have e0 : x.act &&& ~~~x.act = (0 : Lanes) := by
    apply BitVec.eq_of_getLsbD_eq; intro i hi; simp
  have e2 : x.run &&& ~~~(0 : Lanes) = x.run := by
    apply BitVec.eq_of_getLsbD_eq; intro i hi
    rw [BitVec.getLsbD_and, BitVec.getLsbD_not]; simp [hi]
  simp only [issue, h1, h2, h3, h4, h5, e0, e2, Bool.false_eq_true, if_false, if_true]
  have e1 : ¬ (x.act = 0 ∧ x.act ≠ 0) := fun ⟨a, b⟩ => b a
  rw [if_neg e1]
  all_goals (cases body x (learnPops o x s) <;> rfl)

/-- A word whose effect is done completes. -/
theorem issue_ok {w : Word} {o : OpInfo} {s t : State} {x : Ctx} {body : Ctx → State → Eff} (h : Issues w o s x)
    (hb : body x (learnPops o x s) = .ok t) : issue w o body s = .next (retire o x (switchIn x t)) := by
  rw [issue_of_issues h, hb]; rfl

/-- A word whose effect is a trap traps. -/
theorem issue_trap {w : Word} {o : OpInfo} {s : State} {x : Ctx} {body : Ctx → State → Eff} {cause : Cause} {v : DWord}
    (h : Issues w o s x) (hb : body x (learnPops o x s) = .trap cause v) :
    issue w o body s = .next (trapAt x o.hint cause v (switchIn x s)) := by
  rw [issue_of_issues h, hb]; rfl

/-- A word that fails a check of R28 traps with the cause of the first that it fails. -/
theorem issue_refused {w : Word} {o : OpInfo} {s : State} {x : Ctx} {cause : Cause} {v : DWord}
    (body : Ctx → State → Eff) (hx : findCtx s = some x) (hc : decodeCheck w o x = some (cause, v)) :
    issue w o body s = .next (trapAt x o.hint cause v (switchIn x s)) := by
  simp only [issue, hx, hc]

/-! ## The front end's turn (R35, R97) -/

/-- A consist other than the one a front end issues for: it loses the latches of the stream if the front end issued it
last. -/
theorem State.consist?_switchTo (s : State) (key : Nat) (st : Strm) (k : Nat) :
    (s.switchTo key st).consist? k =
      if k ≠ key ∧ tget (s.core (coreOf key)).last (frontOf key st) = k + 1 then
        (s.consist? k).map (fun c => c.setStrm st { c.strm st with latchValid := 0 })
      else s.consist? k := by
  unfold State.switchTo
  simp only [State.consist?_setCore_other]
  cases h : tget (s.core (coreOf key)).last (frontOf key st) with
  | zero => simp [h]
  | succ j =>
    simp only
    by_cases hj : j = key
    · subst hj
      rw [if_pos rfl, if_neg]
      intro ⟨a, b⟩; exact a (by omega)
    · rw [if_neg hj]
      by_cases hk : j = k
      · subst hk
        rw [if_pos ⟨hj, rfl⟩]
        cases hc : s.consist? j with
        | none => simp [hc]
        | some c => simp
      · have : ¬ (k ≠ key ∧ j + 1 = k + 1) := fun ⟨_, b⟩ => hk (by omega)
        rw [if_neg this]
        cases s.consist? j with
        | none => rfl
        | some c => simp only; rw [State.consist?_setConsist, if_neg (fun e => hk e.symm)]

@[simp] theorem consist?_switchIn (x : Ctx) (s : State) : (switchIn x s).consist? x.key = s.consist? x.key := by
  simp [switchIn, State.consist?_switchTo]

/-- A front end's turn changes consists and what front ends issued last, and nothing else. -/
theorem switchIn_eq (x : Ctx) (s : State) :
    switchIn x s = { s with consists := (switchIn x s).consists, cores := (switchIn x s).cores } := by
  unfold switchIn State.switchTo
  simp only
  split
  · rfl
  · split
    · rfl
    · split <;> rfl

theorem cores_switchIn (x : Ctx) (s : State) :
    (switchIn x s).cores = tset s.cores (coreOf x.key)
      { s.core (coreOf x.key) with last := tset (s.core (coreOf x.key)).last (frontOf x.key x.st) (x.key + 1) } := by
  unfold switchIn State.switchTo
  simp only [State.setCore]
  split
  · rfl
  · split
    · rfl
    · split <;> rfl

theorem byte_switchIn (x : Ctx) (s : State) (a : Nat) : (switchIn x s).byte a = s.byte a := by
  rw [switchIn_eq]; rfl

/-! ## Queues (R31, R85, R87) -/

/-- Only queues of a consist have changed. -/
def Consist.SameButQueues (c c' : Consist) : Prop :=
  c' = { c with lq := c'.lq, xqAC := c'.xqAC, xqCA := c'.xqCA, sq := c'.sq }

theorem Consist.SameButQueues.refl (c : Consist) : c.SameButQueues c := rfl

theorem Consist.SameButQueues.trans {a b c : Consist} (h : a.SameButQueues b) (k : b.SameButQueues c) :
    a.SameButQueues c := by
  unfold Consist.SameButQueues at *; rw [h] at k; exact k

theorem Consist.sameButQueues_setQueue (c : Consist) (q : Queue) (l : Nat) (e : List QEntry) :
    c.SameButQueues (c.setQueue q l e) := by
  cases q <;> rfl

theorem Consist.sameButQueues_push (c : Consist) (q : Queue) (l : Nat) (e : QEntry) : c.SameButQueues (c.push q l e) := by
  unfold Consist.push
  split
  · rfl
  · exact Consist.sameButQueues_setQueue ..

theorem Consist.queueOf_setQueue (c : Consist) (p q : Queue) (l j : Nat) (e : List QEntry) :
    (c.setQueue p l e).queueOf q j = if q = p ∧ j = l then e else c.queueOf q j := by
  cases p <;> cases q <;> simp [Consist.setQueue, Consist.queueOf, tget_tset]

/-- A queue depends on a consist's queues alone. -/
theorem Consist.queueOf_congr {c c' : Consist} (q : Queue) (l : Nat) (h1 : c'.lq = c.lq) (h2 : c'.xqAC = c.xqAC)
    (h3 : c'.xqCA = c.xqCA) (h4 : c'.sq = c.sq) : c'.queueOf q l = c.queueOf q l := by
  cases q <;> simp [Consist.queueOf, h1, h2, h3, h4]

@[simp] theorem Consist.queueOf_setStrm (c : Consist) (st : Strm) (y : StreamSt) (q : Queue) (l : Nat) :
    (c.setStrm st y).queueOf q l = c.queueOf q l := by
  apply Consist.queueOf_congr <;> simp

/-- Which lanes a queue deafens depends on what has left, and on FMASK. -/
theorem Consist.deaf_congr {c c' : Consist} (q : Queue) (l : Nat) (ha : c'.a.exited = c.a.exited)
    (hc : c'.c.exited = c.c.exited) (hs : c'.saved = c.saved) (hf : c'.fmask = c.fmask) : c'.deaf q l = c.deaf q l := by
  simp only [Consist.deaf, Consist.exitedIn, Consist.strm, ha, hc, hs, hf]
  all_goals (cases q.consumer <;> simp [ha, hc])

theorem total_foldl (q : Queue) (ps : List (Queue × Nat)) (n : Nat) :
    ps.foldl (fun n e => if e.1 = q then n + e.2 else n) n = n + total q ps := by
  induction ps generalizing n with
  | nil => simp [total]
  | cons p ps ih =>
    unfold total
    rw [List.foldl_cons, List.foldl_cons, ih, ih]
    split <;> omega

theorem total_cons (q : Queue) (p : Queue × Nat) (ps : List (Queue × Nat)) :
    total q (p :: ps) = (if p.1 = q then p.2 else 0) + total q ps := by
  conv => lhs; unfold total
  rw [List.foldl_cons, total_foldl]
  split <;> omega

/-- Only one consist's queues have changed. -/
def State.Popped (key : Nat) (s t : State) : Prop :=
  t = { s with consists := t.consists } ∧ (∀ k, k ≠ key → t.consist? k = s.consist? k)

theorem State.Popped.refl (key : Nat) (s : State) : s.Popped key s := ⟨rfl, fun _ _ => rfl⟩

theorem State.Popped.trans {key : Nat} {a b c : State} (h : a.Popped key b) (k : b.Popped key c) : a.Popped key c := by
  obtain ⟨h1, h2⟩ := h
  obtain ⟨k1, k2⟩ := k
  refine ⟨?_, fun j hj => (k2 j hj).trans (h2 j hj)⟩
  rw [h1] at k1; exact k1

/-- The pops of one lane. -/
theorem popLane_spec (key l : Nat) (ps : List (Queue × Nat)) (s : State) (c : Consist) (hc : s.consist? key = some c) :
    ∃ t c', t = ps.foldl (fun s p => match s.consist? key with
        | none => s
        | some c => s.setConsist key (c.setQueue p.1 l ((c.queueOf p.1 l).drop p.2))) s
      ∧ t.consist? key = some c' ∧ c.SameButQueues c' ∧ s.Popped key t
      ∧ ∀ q j, c'.queueOf q j = if j = l then (c.queueOf q j).drop (total q ps) else c.queueOf q j := by
  induction ps generalizing s c with
  | nil => exact ⟨_, c, rfl, hc, rfl, .refl key s, fun q j => by simp [total]⟩
  | cons p ps ih =>
    obtain ⟨t, c', ht, h1, h2, h3, h4⟩ := ih (s.setConsist key (c.setQueue p.1 l ((c.queueOf p.1 l).drop p.2))) _
      (State.consist?_setConsist_same ..)
    refine ⟨t, c', ?_, h1, (Consist.sameButQueues_setQueue ..).trans h2, State.Popped.trans ⟨rfl, ?_⟩ h3, ?_⟩
    · rw [List.foldl_cons, hc]; exact ht
    · intro k hk; rw [State.consist?_setConsist, if_neg hk]
    · intro q j
      rw [h4, Consist.queueOf_setQueue, total_cons]
      by_cases hj : j = l
      · subst hj
        by_cases hq : q = p.1
        · subst hq; simp [List.drop_drop]
        · have : ¬ p.1 = q := fun e => hq e.symm
          simp [hq, this]
      · simp [hj]

/-- The pops of some lanes. -/
theorem popLanes_spec (key : Nat) (ps : List (Queue × Nat)) (ls : List Nat) (hn : ls.Nodup) (s : State) (c : Consist)
    (hc : s.consist? key = some c) :
    ∃ t c', t = ls.foldl (fun s l => ps.foldl (fun s p => match s.consist? key with
        | none => s
        | some c => s.setConsist key (c.setQueue p.1 l ((c.queueOf p.1 l).drop p.2))) s) s
      ∧ t.consist? key = some c' ∧ c.SameButQueues c' ∧ s.Popped key t
      ∧ ∀ q j, c'.queueOf q j = if j ∈ ls then (c.queueOf q j).drop (total q ps) else c.queueOf q j := by
  induction ls generalizing s c with
  | nil => exact ⟨_, c, rfl, hc, rfl, .refl key s, fun q j => by simp⟩
  | cons l ls ih =>
    have hn' := List.nodup_cons.mp hn
    obtain ⟨t, d, ht, h1, h2, h3, h4⟩ := popLane_spec key l ps s c hc
    obtain ⟨u, e, hu, k1, k2, k3, k4⟩ := ih hn'.2 t d h1
    refine ⟨u, e, ?_, k1, h2.trans k2, h3.trans k3, ?_⟩
    · rw [List.foldl_cons, ← ht]; exact hu
    · intro q j
      rw [k4, h4]
      by_cases hj : j = l
      · subst hj; simp [hn'.1]
      · simp [hj]

theorem lanesOf_nodup (m : Lanes) : (lanesOf m).Nodup := List.Nodup.sublist List.filter_sublist List.nodup_range

/-- Popping changes the consist's queues only, and by what the instruction pops. -/
theorem popAll_spec (o : OpInfo) (x : Ctx) (s : State) (c : Consist) (hc : s.consist? x.key = some c) :
    ∃ c', (popAll o x s).consist? x.key = some c' ∧ c.SameButQueues c' ∧ s.Popped x.key (popAll o x s)
      ∧ ∀ q j, j < 32 → c'.queueOf q j = (c.queueOf q j).drop (popsFor o x q j) := by
  unfold popAll
  simp only
  split
  · rename_i hp
    refine ⟨c, hc, rfl, .refl _ _, fun q j _ => ?_⟩
    unfold popsFor; rw [hp]; simp [total]
  · have hn : (popLanes o x).Nodup := by
      unfold popLanes; split
      · exact (lanesOf_nodup _).sublist (List.take_sublist ..)
      · exact lanesOf_nodup _
    obtain ⟨t, c', ht, h1, h2, h3, h4⟩ := popLanes_spec x.key (popsOf o x.st) (popLanes o x) hn s c hc
    subst ht
    refine ⟨c', h1, h2, h3, fun q j hj => ?_⟩
    rw [h4]
    have hm : j ∈ popLanes o x ↔ (x.act.getLsbD j = true ∧ (o.uniform = true → j = lowest x.act)) := by
      unfold popLanes
      cases hu : o.uniform with
      | false => simp [mem_lanesOf, hj]
      | true =>
        simp only [if_true, true_implies]
        cases hl : lanesOf x.act with
        | nil =>
          have := (lanesOf_eq_nil _).mp hl
          simp [this]
        | cons a ls =>
          have ha : x.act.getLsbD a = true := ((mem_lanesOf x.act a).mp (by rw [hl]; exact List.mem_cons_self ..)).2
          have hlow : lowest x.act = a := by simp [lowest, hl]
          simp only [List.take_succ_cons, List.take_zero, List.mem_singleton, hlow]
          constructor
          · rintro rfl; exact ⟨ha, rfl⟩
          · exact fun h => h.2
    unfold popsFor
    by_cases h : x.act.getLsbD j = true ∧ (o.uniform = true → j = lowest x.act)
    · rw [if_pos (hm.mpr h), if_pos h]
    · rw [if_neg (fun e => h (hm.mp e)), if_neg h]; simp

/-- What the pops bring is learnt by the clocks alone. -/
theorem learnPops_eq (o : OpInfo) (x : Ctx) (s : State) :
    learnPops o x s = { s with clocks := (learnPops o x s).clocks, engineClocks := (learnPops o x s).engineClocks } := by
  have step : ∀ {α : Type} (f : State → α → State), (∀ s a, f s a = { s with clocks := (f s a).clocks, engineClocks := (f s a).engineClocks }) →
      ∀ (l : List α) (s : State), l.foldl f s = { s with clocks := (l.foldl f s).clocks, engineClocks := (l.foldl f s).engineClocks } := by
    intro α f hf l
    induction l with
    | nil => intro s; rfl
    | cons a l ih =>
      intro s
      rw [List.foldl_cons]
      have h1 := ih (f s a)
      have h2 := hf s a
      generalize f s a = u at h1 h2 ⊢
      generalize l.foldl f u = v at h1 ⊢
      rw [h1, h2]
  unfold learnPops
  simp only
  split
  · rfl
  · exact step _ (fun s l => step _ (fun s p => step _ (fun s y => rfl) _ s) _ s) _ s

@[simp] theorem consist?_learnPops (o : OpInfo) (x : Ctx) (s : State) (k : Nat) :
    (learnPops o x s).consist? k = s.consist? k := by
  rw [learnPops_eq]; rfl

/-- An instruction that stops with nothing done leaves nothing learned. -/
@[simp] theorem unlearn_learnPops (o : OpInfo) (x : Ctx) (s : State) : unlearn s (learnPops o x s) = s := by
  rw [learnPops_eq]; rfl

@[simp] theorem nextUid_learnPops (o : OpInfo) (x : Ctx) (s : State) : (learnPops o x s).nextUid = s.nextUid := by
  rw [learnPops_eq]

/-! ## Completion -/

/-- What completing an instruction leaves of its consist, and of everything else. -/
theorem retire_spec (o : OpInfo) (x : Ctx) (s : State) (c : Consist) (hc : s.consist? x.key = some c) :
    ∃ q c', (retire o x s).consist? x.key = some c' ∧ c.SameButQueues q
      ∧ c' = q.setStrm x.st ((c.strm x.st).retired o x.run x.hints (c.alive x.st))
      ∧ (∀ p j, j < 32 → q.queueOf p j = (c.queueOf p j).drop (popsFor o x p j))
      ∧ (∀ k, k ≠ x.key → (retire o x s).consist? k = s.consist? k)
      ∧ retire o x s = { s with consists := (retire o x s).consists, tick := s.tick + 1 } := by
  obtain ⟨q, hq, hs, ⟨h1, h2⟩, h3⟩ := popAll_spec o x s c hc
  have es : q.strm x.st = c.strm x.st := by rw [hs]; cases x.st <;> rfl
  have ea : q.alive x.st = c.alive x.st := by rw [hs]; simp only [Consist.alive]; cases x.st <;> rfl
  have er : retire o x s = ((popAll o x s).setConsist x.key
      (q.setStrm x.st ((c.strm x.st).retired o x.run x.hints (c.alive x.st)))).bump := by
    simp only [retire, complete, hq, es, ea]
  refine ⟨q, _, ?_, hs, rfl, h3, ?_, ?_⟩
  · rw [er, State.consist?_bump, State.consist?_setConsist_same]
  · intro k hk
    rw [er, State.consist?_bump, State.consist?_setConsist, if_neg hk]; exact h2 k hk
  · rw [er]
    generalize popAll o x s = p at h1 ⊢
    rw [h1]; rfl

end Sys2Proof.Machine
end

