-- ==== Sys2Proof/Laws/Memory.lean ====
section
/-!
SUPPORT. Laws of memory: a read after a write, the bytes a write leaves alone, and the one form that every operation on
a memory keeps.
-/

namespace Sys2Proof.Machine

open Sys2Proof

theorem leBytes_length (n x : Nat) : (leBytes n x).length = n := by
  induction n generalizing x with
  | zero => rfl
  | succ n ih => simp [leBytes, ih]

/-- The number that little-endian bytes hold, after a number was laid out. -/
theorem leNat_leBytes (n x : Nat) : leNat (leBytes n x) = x % 256 ^ n := by
  induction n generalizing x with
  | zero => simp [leBytes, leNat, Nat.mod_one]
  | succ n ih =>
    have e : (256 : Nat) ^ (n + 1) = 256 * 256 ^ n := by rw [Nat.pow_succ, Nat.mul_comm]
    simp only [leBytes, leNat, ih, BitVec.toNat_ofNat]
    rw [e, Nat.mod_mul]

/-- One byte after a list of bytes was written: the written one, or the one before. -/
theorem tget_writeBytes (bs : List Byte) (m : Table Byte) (a j : Nat) :
    tget (writeBytes m a bs) j = if a ≤ j ∧ j < a + bs.length then bs.getD (j - a) 0 else tget m j := by
  induction bs generalizing m a with
  | nil =>
    have : ¬(a ≤ j ∧ j < a + 0) := by omega
    simp only [writeBytes, List.length_nil, this, if_false]
  | cons b bs ih =>
    simp only [writeBytes, ih, List.length_cons, tget_tset]
    by_cases h1 : a + 1 ≤ j ∧ j < a + 1 + bs.length
    · have h2 : a ≤ j ∧ j < a + (bs.length + 1) := by omega
      rw [if_pos h1, if_pos h2]
      have e : j - a = (j - (a + 1)) + 1 := by omega
      rw [e]; rfl
    · rw [if_neg h1]
      by_cases h3 : j = a
      · subst h3
        have h2 : j ≤ j ∧ j < j + (bs.length + 1) := by omega
        rw [if_pos rfl, if_pos h2, Nat.sub_self]; rfl
      · have h2 : ¬(a ≤ j ∧ j < a + (bs.length + 1)) := by omega
        rw [if_neg h3, if_neg h2]

/-- A write leaves every other byte alone. -/
theorem tget_writeBytes_other (bs : List Byte) (m : Table Byte) (a j : Nat) (h : j < a ∨ a + bs.length ≤ j) :
    tget (writeBytes m a bs) j = tget m j := by
  rw [tget_writeBytes, if_neg (by omega)]

/-- A read after a write to the same place gives what was written. -/
theorem readBytes_writeBytes (bs : List Byte) (m : Table Byte) (a : Nat) :
    readBytes (writeBytes m a bs) a bs.length = bs := by
  have key : ∀ (n k : Nat), k + n ≤ bs.length →
      readBytes (writeBytes m a bs) (a + k) n = (bs.drop k).take n := by
    intro n
    induction n with
    | zero => intro k _; simp [readBytes]
    | succ n ih =>
      intro k hk
      have hlt : k < bs.length := by omega
      rw [readBytes, tget_writeBytes, if_pos (by omega), Nat.add_assoc, ih (k + 1) (by omega)]
      rw [List.drop_eq_getElem_cons hlt, List.take_succ_cons]
      congr 1
      rw [Nat.add_sub_cancel_left, List.getD_eq_getElem?_getD, List.getElem?_eq_getElem hlt]; rfl
  simpa using key bs.length 0 (by omega)

/-! ## The one form -/

theorem wf_writeBytes (bs : List Byte) (m : Table Byte) (a : Nat) (h : Memory.wf m = true) :
    Memory.wf (writeBytes m a bs) = true := by
  induction bs generalizing m a with
  | nil => exact h
  | cons b bs ih => exact ih _ _ (wf_tset m a b h)

theorem wf_writeLE (m : Table Byte) (a n x : Nat) (h : Memory.wf m = true) : Memory.wf (writeLE m a n x) = true :=
  wf_writeBytes _ _ _ h

theorem wf_clearRange (m : Table Byte) (lo n : Nat) (h : Memory.wf m = true) : Memory.wf (clearRange m lo n) = true :=
  wf_filter m _ h

theorem wf_copyRange (m : Table Byte) (src dst n : Nat) (h : Memory.wf m = true) :
    Memory.wf (copyRange m src dst n) = true := by
  have hl : ∀ e ∈ inRange m src n, e.2 ≠ (default : Byte) := by
    intro e he
    have hm := (List.mem_filter.mp he).1
    simp only [Memory.wf, Table.wf, Bool.and_eq_true, List.all_eq_true, decide_eq_true_eq] at h
    exact h.2 e hm
  unfold copyRange
  generalize inRange m src n = l at hl
  have hc := wf_clearRange m dst n h
  generalize clearRange m dst n = u at hc
  induction l generalizing u with
  | nil => exact hc
  | cons e l ih =>
    exact ih (fun e he => hl e (List.mem_cons_of_mem _ he)) _
      (wf_tput u _ _ (hl e (List.mem_cons_self ..)) hc)

/-! ## Bytes by machine address -/

theorem byte_setByte (s : State) (a j : Nat) (b : Byte) (ha : a < 2 ^ 40) (hj : j < 2 ^ 40) :
    (s.setByte a b).byte j = if j = a then b else s.byte j := by
  simp only [State.byte, State.setByte, if_pos ha, if_pos hj, tget_tset]

/-- Writing below 2^40 changes no byte of a host window. -/
theorem byte_setByte_host (s : State) (a j : Nat) (b : Byte) (ha : a < 2 ^ 40) (hj : ¬ j < 2 ^ 40) :
    (s.setByte a b).byte j = s.byte j := by
  simp only [State.byte, State.setByte, if_pos ha, if_neg hj]

/-- Every memory write keeps both memories in their one form. -/
theorem wf_setByte (s : State) (a : Nat) (b : Byte) (h : Memory.wf s.mem = true) :
    Memory.wf (s.setByte a b).mem = true := by
  unfold State.setByte
  split
  · exact wf_tset _ _ _ h
  · exact h

theorem wf_setBytes (bs : List Byte) (s : State) (a : Nat) (h : Memory.wf s.mem = true) :
    Memory.wf (s.setBytes a bs).mem = true := by
  induction bs generalizing s a with
  | nil => exact h
  | cons b bs ih => exact ih _ _ (wf_setByte s a b h)

theorem wf_reset : Memory.wf State.reset.mem = true := rfl

end Sys2Proof.Machine
end

