-- ==== Sys2Proof/Laws/PerInstr.lean ====
section
/-!
SUPPORT. One lemma per constructor of `Instr`: the word the encoder makes of an instruction decodes to it, whatever its
operands are. An event has no word.
-/

namespace Sys2Proof.Laws.RoundTrip

open Sys2Proof

/-- The word of this instruction, if it has one, decodes to it. -/
def Statement (i : Instr) : Prop := ∀ w, encode i = some w → decode w = .ok i

theorem iadd (d : BitVec 7) (a : BitVec 7) (b : BitVec 7) (w : BitVec 1) : Statement (.iadd d a b w) := by
  intro _ h; cases h
  rw [decode, packReg_maj]; change decode01 _ = _
  simp (disch := omega) only [decode01, packReg_maj, packReg_d, packReg_a, packReg_b, packReg_w, packReg_f, ext_high, ext_low, ext_all, Nat.reduceSub]; rfl
theorem isub (d : BitVec 7) (a : BitVec 7) (b : BitVec 7) (w : BitVec 1) : Statement (.isub d a b w) := by
  intro _ h; cases h
  rw [decode, packReg_maj]; change decode01 _ = _
  simp (disch := omega) only [decode01, packReg_maj, packReg_d, packReg_a, packReg_b, packReg_w, packReg_f, ext_high, ext_low, ext_all, Nat.reduceSub]; rfl
theorem imin (d : BitVec 7) (a : BitVec 7) (b : BitVec 7) (w : BitVec 1) : Statement (.imin d a b w) := by
  intro _ h; cases h
  rw [decode, packReg_maj]; change decode01 _ = _
  simp (disch := omega) only [decode01, packReg_maj, packReg_d, packReg_a, packReg_b, packReg_w, packReg_f, ext_high, ext_low, ext_all, Nat.reduceSub]; rfl
theorem imax (d : BitVec 7) (a : BitVec 7) (b : BitVec 7) (w : BitVec 1) : Statement (.imax d a b w) := by
  intro _ h; cases h
  rw [decode, packReg_maj]; change decode01 _ = _
  simp (disch := omega) only [decode01, packReg_maj, packReg_d, packReg_a, packReg_b, packReg_w, packReg_f, ext_high, ext_low, ext_all, Nat.reduceSub]; rfl
theorem umin (d : BitVec 7) (a : BitVec 7) (b : BitVec 7) (w : BitVec 1) : Statement (.umin d a b w) := by
  intro _ h; cases h
  rw [decode, packReg_maj]; change decode01 _ = _
  simp (disch := omega) only [decode01, packReg_maj, packReg_d, packReg_a, packReg_b, packReg_w, packReg_f, ext_high, ext_low, ext_all, Nat.reduceSub]; rfl
theorem umax (d : BitVec 7) (a : BitVec 7) (b : BitVec 7) (w : BitVec 1) : Statement (.umax d a b w) := by
  intro _ h; cases h
  rw [decode, packReg_maj]; change decode01 _ = _
  simp (disch := omega) only [decode01, packReg_maj, packReg_d, packReg_a, packReg_b, packReg_w, packReg_f, ext_high, ext_low, ext_all, Nat.reduceSub]; rfl
theorem iabsd (d : BitVec 7) (a : BitVec 7) (b : BitVec 7) (w : BitVec 1) : Statement (.iabsd d a b w) := by
  intro _ h; cases h
  rw [decode, packReg_maj]; change decode01 _ = _
  simp (disch := omega) only [decode01, packReg_maj, packReg_d, packReg_a, packReg_b, packReg_w, packReg_f, ext_high, ext_low, ext_all, Nat.reduceSub]; rfl
theorem iaddi (d : BitVec 7) (a : BitVec 7) (w : BitVec 1) (imm : BitVec 10) : Statement (.iaddi d a w imm) := by
  intro _ h; cases h
  rw [decode, packImm_maj]; change decode02 _ = _
  simp (disch := omega) only [decode02, packImm_maj, packImm_d, packImm_a, packImm_w, packImm_n, fld_imm, ext_high, ext_low, ext_all, Nat.reduceSub]
theorem and (d : BitVec 7) (a : BitVec 7) (b : BitVec 7) (w : BitVec 1) : Statement (.and d a b w) := by
  intro _ h; cases h
  rw [decode, packReg_maj]; change decode03 _ = _
  simp (disch := omega) only [decode03, packReg_maj, packReg_d, packReg_a, packReg_b, packReg_w, packReg_f, ext_high, ext_low, ext_all, Nat.reduceSub]; rfl
theorem or (d : BitVec 7) (a : BitVec 7) (b : BitVec 7) (w : BitVec 1) : Statement (.or d a b w) := by
  intro _ h; cases h
  rw [decode, packReg_maj]; change decode03 _ = _
  simp (disch := omega) only [decode03, packReg_maj, packReg_d, packReg_a, packReg_b, packReg_w, packReg_f, ext_high, ext_low, ext_all, Nat.reduceSub]; rfl
theorem xor (d : BitVec 7) (a : BitVec 7) (b : BitVec 7) (w : BitVec 1) : Statement (.xor d a b w) := by
  intro _ h; cases h
  rw [decode, packReg_maj]; change decode03 _ = _
  simp (disch := omega) only [decode03, packReg_maj, packReg_d, packReg_a, packReg_b, packReg_w, packReg_f, ext_high, ext_low, ext_all, Nat.reduceSub]; rfl
theorem andn (d : BitVec 7) (a : BitVec 7) (b : BitVec 7) (w : BitVec 1) : Statement (.andn d a b w) := by
  intro _ h; cases h
  rw [decode, packReg_maj]; change decode03 _ = _
  simp (disch := omega) only [decode03, packReg_maj, packReg_d, packReg_a, packReg_b, packReg_w, packReg_f, ext_high, ext_low, ext_all, Nat.reduceSub]; rfl
theorem not (d : BitVec 7) (a : BitVec 7) (w : BitVec 1) : Statement (.not d a w) := by
  intro _ h; cases h
  rw [decode, packReg_maj]; change decode03 _ = _
  simp (disch := omega) only [decode03, packReg_maj, packReg_d, packReg_a, packReg_b, packReg_w, packReg_f, ext_high, ext_low, ext_all, Nat.reduceSub]; rfl
theorem andi (d : BitVec 7) (a : BitVec 7) (w : BitVec 1) (imm : BitVec 10) : Statement (.andi d a w imm) := by
  intro _ h; cases h
  rw [decode, packImm_maj]; change decode04 _ = _
  simp (disch := omega) only [decode04, packImm_maj, packImm_d, packImm_a, packImm_w, packImm_n, fld_imm, ext_high, ext_low, ext_all, Nat.reduceSub]
theorem ori (d : BitVec 7) (a : BitVec 7) (w : BitVec 1) (imm : BitVec 10) : Statement (.ori d a w imm) := by
  intro _ h; cases h
  rw [decode, packImm_maj]; change decode05 _ = _
  simp (disch := omega) only [decode05, packImm_maj, packImm_d, packImm_a, packImm_w, packImm_n, fld_imm, ext_high, ext_low, ext_all, Nat.reduceSub]
theorem xori (d : BitVec 7) (a : BitVec 7) (w : BitVec 1) (imm : BitVec 10) : Statement (.xori d a w imm) := by
  intro _ h; cases h
  rw [decode, packImm_maj]; change decode06 _ = _
  simp (disch := omega) only [decode06, packImm_maj, packImm_d, packImm_a, packImm_w, packImm_n, fld_imm, ext_high, ext_low, ext_all, Nat.reduceSub]
theorem shl (d : BitVec 7) (a : BitVec 7) (b : BitVec 7) (w : BitVec 1) : Statement (.shl d a b w) := by
  intro _ h; cases h
  rw [decode, packReg_maj]; change decode07 _ = _
  simp (disch := omega) only [decode07, packReg_maj, packReg_d, packReg_a, packReg_b, packReg_w, packReg_f, ext_high, ext_low, ext_all, Nat.reduceSub]; rfl
theorem shr (d : BitVec 7) (a : BitVec 7) (b : BitVec 7) (w : BitVec 1) : Statement (.shr d a b w) := by
  intro _ h; cases h
  rw [decode, packReg_maj]; change decode07 _ = _
  simp (disch := omega) only [decode07, packReg_maj, packReg_d, packReg_a, packReg_b, packReg_w, packReg_f, ext_high, ext_low, ext_all, Nat.reduceSub]; rfl
theorem sar (d : BitVec 7) (a : BitVec 7) (b : BitVec 7) (w : BitVec 1) : Statement (.sar d a b w) := by
  intro _ h; cases h
  rw [decode, packReg_maj]; change decode07 _ = _
  simp (disch := omega) only [decode07, packReg_maj, packReg_d, packReg_a, packReg_b, packReg_w, packReg_f, ext_high, ext_low, ext_all, Nat.reduceSub]; rfl
theorem ror (d : BitVec 7) (a : BitVec 7) (b : BitVec 7) (w : BitVec 1) : Statement (.ror d a b w) := by
  intro _ h; cases h
  rw [decode, packReg_maj]; change decode07 _ = _
  simp (disch := omega) only [decode07, packReg_maj, packReg_d, packReg_a, packReg_b, packReg_w, packReg_f, ext_high, ext_low, ext_all, Nat.reduceSub]; rfl
theorem bfe (d : BitVec 7) (a : BitVec 7) (b : BitVec 7) (w : BitVec 1) : Statement (.bfe d a b w) := by
  intro _ h; cases h
  rw [decode, packReg_maj]; change decode07 _ = _
  simp (disch := omega) only [decode07, packReg_maj, packReg_d, packReg_a, packReg_b, packReg_w, packReg_f, ext_high, ext_low, ext_all, Nat.reduceSub]; rfl
theorem bfi (d : BitVec 7) (a : BitVec 7) (b : BitVec 7) (w : BitVec 1) : Statement (.bfi d a b w) := by
  intro _ h; cases h
  rw [decode, packReg_maj]; change decode07 _ = _
  simp (disch := omega) only [decode07, packReg_maj, packReg_d, packReg_a, packReg_b, packReg_w, packReg_f, ext_high, ext_low, ext_all, Nat.reduceSub]; rfl
theorem shli (d : BitVec 7) (a : BitVec 7) (w : BitVec 1) (n : BitVec 6) : Statement (.shli d a w n) := by
  intro _ h; cases h
  rw [decode, packImm_maj]; change decode08 _ = _
  simp (disch := omega) only [decode08, packImm_maj, packImm_d, packImm_a, packImm_w, packImm_n, fld_imm, ext_high, ext_low, ext_all, Nat.reduceSub]; rfl
theorem shri (d : BitVec 7) (a : BitVec 7) (w : BitVec 1) (n : BitVec 6) : Statement (.shri d a w n) := by
  intro _ h; cases h
  rw [decode, packImm_maj]; change decode08 _ = _
  simp (disch := omega) only [decode08, packImm_maj, packImm_d, packImm_a, packImm_w, packImm_n, fld_imm, ext_high, ext_low, ext_all, Nat.reduceSub]; rfl
theorem sari (d : BitVec 7) (a : BitVec 7) (w : BitVec 1) (n : BitVec 6) : Statement (.sari d a w n) := by
  intro _ h; cases h
  rw [decode, packImm_maj]; change decode08 _ = _
  simp (disch := omega) only [decode08, packImm_maj, packImm_d, packImm_a, packImm_w, packImm_n, fld_imm, ext_high, ext_low, ext_all, Nat.reduceSub]; rfl
theorem rori (d : BitVec 7) (a : BitVec 7) (w : BitVec 1) (n : BitVec 6) : Statement (.rori d a w n) := by
  intro _ h; cases h
  rw [decode, packImm_maj]; change decode08 _ = _
  simp (disch := omega) only [decode08, packImm_maj, packImm_d, packImm_a, packImm_w, packImm_n, fld_imm, ext_high, ext_low, ext_all, Nat.reduceSub]; rfl
theorem imul (d : BitVec 7) (a : BitVec 7) (b : BitVec 7) (w : BitVec 1) : Statement (.imul d a b w) := by
  intro _ h; cases h
  rw [decode, packReg_maj]; change decode09 _ = _
  simp (disch := omega) only [decode09, packReg_maj, packReg_d, packReg_a, packReg_b, packReg_w, packReg_f, ext_high, ext_low, ext_all, Nat.reduceSub]; rfl
theorem imulh (d : BitVec 7) (a : BitVec 7) (b : BitVec 7) (w : BitVec 1) : Statement (.imulh d a b w) := by
  intro _ h; cases h
  rw [decode, packReg_maj]; change decode09 _ = _
  simp (disch := omega) only [decode09, packReg_maj, packReg_d, packReg_a, packReg_b, packReg_w, packReg_f, ext_high, ext_low, ext_all, Nat.reduceSub]; rfl
theorem umulh (d : BitVec 7) (a : BitVec 7) (b : BitVec 7) (w : BitVec 1) : Statement (.umulh d a b w) := by
  intro _ h; cases h
  rw [decode, packReg_maj]; change decode09 _ = _
  simp (disch := omega) only [decode09, packReg_maj, packReg_d, packReg_a, packReg_b, packReg_w, packReg_f, ext_high, ext_low, ext_all, Nat.reduceSub]; rfl
theorem idiv (d : BitVec 7) (a : BitVec 7) (b : BitVec 7) (w : BitVec 1) : Statement (.idiv d a b w) := by
  intro _ h; cases h
  rw [decode, packReg_maj]; change decode09 _ = _
  simp (disch := omega) only [decode09, packReg_maj, packReg_d, packReg_a, packReg_b, packReg_w, packReg_f, ext_high, ext_low, ext_all, Nat.reduceSub]; rfl
theorem udiv (d : BitVec 7) (a : BitVec 7) (b : BitVec 7) (w : BitVec 1) : Statement (.udiv d a b w) := by
  intro _ h; cases h
  rw [decode, packReg_maj]; change decode09 _ = _
  simp (disch := omega) only [decode09, packReg_maj, packReg_d, packReg_a, packReg_b, packReg_w, packReg_f, ext_high, ext_low, ext_all, Nat.reduceSub]; rfl
theorem irem (d : BitVec 7) (a : BitVec 7) (b : BitVec 7) (w : BitVec 1) : Statement (.irem d a b w) := by
  intro _ h; cases h
  rw [decode, packReg_maj]; change decode09 _ = _
  simp (disch := omega) only [decode09, packReg_maj, packReg_d, packReg_a, packReg_b, packReg_w, packReg_f, ext_high, ext_low, ext_all, Nat.reduceSub]; rfl
theorem urem (d : BitVec 7) (a : BitVec 7) (b : BitVec 7) (w : BitVec 1) : Statement (.urem d a b w) := by
  intro _ h; cases h
  rw [decode, packReg_maj]; change decode09 _ = _
  simp (disch := omega) only [decode09, packReg_maj, packReg_d, packReg_a, packReg_b, packReg_w, packReg_f, ext_high, ext_low, ext_all, Nat.reduceSub]; rfl
theorem imad (d : BitVec 7) (a : BitVec 7) (b : BitVec 7) (c : BitVec 3) (w : BitVec 1) : Statement (.imad d a b c w) := by
  intro _ h; cases h
  rw [decode, packAcc_maj]; change decode0A _ = _
  simp (disch := omega) only [decode0A, packAcc_maj, packAcc_d, packAcc_a, packAcc_b, packAcc_c, packAcc_w, ext_high, ext_low, ext_all, Nat.reduceSub]
theorem popc (d : BitVec 7) (a : BitVec 7) (w : BitVec 1) : Statement (.popc d a w) := by
  intro _ h; cases h
  rw [decode, packReg_maj]; change decode0B _ = _
  simp (disch := omega) only [decode0B, packReg_maj, packReg_d, packReg_a, packReg_b, packReg_w, packReg_f, ext_high, ext_low, ext_all, Nat.reduceSub]; rfl
theorem clz (d : BitVec 7) (a : BitVec 7) (w : BitVec 1) : Statement (.clz d a w) := by
  intro _ h; cases h
  rw [decode, packReg_maj]; change decode0B _ = _
  simp (disch := omega) only [decode0B, packReg_maj, packReg_d, packReg_a, packReg_b, packReg_w, packReg_f, ext_high, ext_low, ext_all, Nat.reduceSub]; rfl
theorem ctz (d : BitVec 7) (a : BitVec 7) (w : BitVec 1) : Statement (.ctz d a w) := by
  intro _ h; cases h
  rw [decode, packReg_maj]; change decode0B _ = _
  simp (disch := omega) only [decode0B, packReg_maj, packReg_d, packReg_a, packReg_b, packReg_w, packReg_f, ext_high, ext_low, ext_all, Nat.reduceSub]; rfl
theorem brev (d : BitVec 7) (a : BitVec 7) (w : BitVec 1) : Statement (.brev d a w) := by
  intro _ h; cases h
  rw [decode, packReg_maj]; change decode0B _ = _
  simp (disch := omega) only [decode0B, packReg_maj, packReg_d, packReg_a, packReg_b, packReg_w, packReg_f, ext_high, ext_low, ext_all, Nat.reduceSub]; rfl
theorem bswap (d : BitVec 7) (a : BitVec 7) (w : BitVec 1) : Statement (.bswap d a w) := by
  intro _ h; cases h
  rw [decode, packReg_maj]; change decode0B _ = _
  simp (disch := omega) only [decode0B, packReg_maj, packReg_d, packReg_a, packReg_b, packReg_w, packReg_f, ext_high, ext_low, ext_all, Nat.reduceSub]; rfl
theorem sext8 (d : BitVec 7) (a : BitVec 7) (w : BitVec 1) : Statement (.sext8 d a w) := by
  intro _ h; cases h
  rw [decode, packReg_maj]; change decode0B _ = _
  simp (disch := omega) only [decode0B, packReg_maj, packReg_d, packReg_a, packReg_b, packReg_w, packReg_f, ext_high, ext_low, ext_all, Nat.reduceSub]; rfl
theorem sext16 (d : BitVec 7) (a : BitVec 7) (w : BitVec 1) : Statement (.sext16 d a w) := by
  intro _ h; cases h
  rw [decode, packReg_maj]; change decode0B _ = _
  simp (disch := omega) only [decode0B, packReg_maj, packReg_d, packReg_a, packReg_b, packReg_w, packReg_f, ext_high, ext_low, ext_all, Nat.reduceSub]; rfl
theorem icmp (p : BitVec 7) (a : BitVec 7) (b : BitVec 7) (c : BitVec 3) : Statement (.icmp p a b c) := by
  intro _ h; cases h
  rw [decode, packReg_maj]; change decode0C _ = _
  simp (disch := omega) only [decode0C, packReg_maj, packReg_d, packReg_a, packReg_b, packReg_w, packReg_f, ext_high, ext_low, ext_all, Nat.reduceSub]; rfl
theorem icmpi (p : BitVec 7) (a : BitVec 7) (c : BitVec 3) (imm : BitVec 7) : Statement (.icmpi p a c imm) := by
  intro _ h; cases h
  rw [decode, packImm_maj]; change decode0D _ = _
  simp (disch := omega) only [decode0D, packImm_maj, packImm_d, packImm_a, packImm_w, packImm_n, fld_imm, ext_high, ext_low, ext_all, Nat.reduceSub]; rfl
theorem movi (d : BitVec 7) (w : BitVec 1) (imm : BitVec 10) : Statement (.movi d w imm) := by
  intro _ h; cases h
  rw [decode, packImm_maj]; change decode0E _ = _
  simp (disch := omega) only [decode0E, packImm_maj, packImm_d, packImm_a, packImm_w, packImm_n, fld_imm, ext_high, ext_low, ext_all, Nat.reduceSub]; rfl
theorem sel (d : BitVec 7) (a : BitVec 7) (b : BitVec 7) (w : BitVec 1) (p : BitVec 3) : Statement (.sel d a b w p) := by
  intro _ h; cases h
  rw [decode, packReg_maj]; change decode0F _ = _
  simp (disch := omega) only [decode0F, packReg_maj, packReg_d, packReg_a, packReg_b, packReg_w, packReg_f, ext_high, ext_low, ext_all, Nat.reduceSub]
theorem pand (d : BitVec 7) (a : BitVec 7) (b : BitVec 7) : Statement (.pand d a b) := by
  intro _ h; cases h
  rw [decode, packReg_maj]; change decode10 _ = _
  simp (disch := omega) only [decode10, packReg_maj, packReg_d, packReg_a, packReg_b, packReg_w, packReg_f, ext_high, ext_low, ext_all, Nat.reduceSub]; rfl
theorem por (d : BitVec 7) (a : BitVec 7) (b : BitVec 7) : Statement (.por d a b) := by
  intro _ h; cases h
  rw [decode, packReg_maj]; change decode10 _ = _
  simp (disch := omega) only [decode10, packReg_maj, packReg_d, packReg_a, packReg_b, packReg_w, packReg_f, ext_high, ext_low, ext_all, Nat.reduceSub]; rfl
theorem pxor (d : BitVec 7) (a : BitVec 7) (b : BitVec 7) : Statement (.pxor d a b) := by
  intro _ h; cases h
  rw [decode, packReg_maj]; change decode10 _ = _
  simp (disch := omega) only [decode10, packReg_maj, packReg_d, packReg_a, packReg_b, packReg_w, packReg_f, ext_high, ext_low, ext_all, Nat.reduceSub]; rfl
theorem pandn (d : BitVec 7) (a : BitVec 7) (b : BitVec 7) : Statement (.pandn d a b) := by
  intro _ h; cases h
  rw [decode, packReg_maj]; change decode10 _ = _
  simp (disch := omega) only [decode10, packReg_maj, packReg_d, packReg_a, packReg_b, packReg_w, packReg_f, ext_high, ext_low, ext_all, Nat.reduceSub]; rfl
theorem pmov (d : BitVec 7) (a : BitVec 7) : Statement (.pmov d a) := by
  intro _ h; cases h
  rw [decode, packReg_maj]; change decode10 _ = _
  simp (disch := omega) only [decode10, packReg_maj, packReg_d, packReg_a, packReg_b, packReg_w, packReg_f, ext_high, ext_low, ext_all, Nat.reduceSub]; rfl
theorem pnz (d : BitVec 7) (a : BitVec 7) : Statement (.pnz d a) := by
  intro _ h; cases h
  rw [decode, packReg_maj]; change decode10 _ = _
  simp (disch := omega) only [decode10, packReg_maj, packReg_d, packReg_a, packReg_b, packReg_w, packReg_f, ext_high, ext_low, ext_all, Nat.reduceSub]; rfl
theorem ptoi (d : BitVec 7) (a : BitVec 7) (w : BitVec 1) : Statement (.ptoi d a w) := by
  intro _ h; cases h
  rw [decode, packReg_maj]; change decode10 _ = _
  simp (disch := omega) only [decode10, packReg_maj, packReg_d, packReg_a, packReg_b, packReg_w, packReg_f, ext_high, ext_low, ext_all, Nat.reduceSub]; rfl
theorem lea (d : BitVec 7) (a : BitVec 7) (b : BitVec 7) (w : BitVec 1) (x : BitVec 3) : Statement (.lea d a b w x) := by
  intro _ h; cases h
  rw [decode, packReg_maj]; change decode11 _ = _
  simp (disch := omega) only [decode11, packReg_maj, packReg_d, packReg_a, packReg_b, packReg_w, packReg_f, ext_high, ext_low, ext_all, Nat.reduceSub]
theorem shfli (d : BitVec 7) (a : BitVec 7) (b : BitVec 7) (w : BitVec 1) : Statement (.shfli d a b w) := by
  intro _ h; cases h
  rw [decode, packReg_maj]; change decode12 _ = _
  simp (disch := omega) only [decode12, packReg_maj, packReg_d, packReg_a, packReg_b, packReg_w, packReg_f, ext_high, ext_low, ext_all, Nat.reduceSub]; rfl
theorem shflu (d : BitVec 7) (a : BitVec 7) (b : BitVec 7) (w : BitVec 1) : Statement (.shflu d a b w) := by
  intro _ h; cases h
  rw [decode, packReg_maj]; change decode12 _ = _
  simp (disch := omega) only [decode12, packReg_maj, packReg_d, packReg_a, packReg_b, packReg_w, packReg_f, ext_high, ext_low, ext_all, Nat.reduceSub]; rfl
theorem shfld (d : BitVec 7) (a : BitVec 7) (b : BitVec 7) (w : BitVec 1) : Statement (.shfld d a b w) := by
  intro _ h; cases h
  rw [decode, packReg_maj]; change decode12 _ = _
  simp (disch := omega) only [decode12, packReg_maj, packReg_d, packReg_a, packReg_b, packReg_w, packReg_f, ext_high, ext_low, ext_all, Nat.reduceSub]; rfl
theorem shflx (d : BitVec 7) (a : BitVec 7) (b : BitVec 7) (w : BitVec 1) : Statement (.shflx d a b w) := by
  intro _ h; cases h
  rw [decode, packReg_maj]; change decode12 _ = _
  simp (disch := omega) only [decode12, packReg_maj, packReg_d, packReg_a, packReg_b, packReg_w, packReg_f, ext_high, ext_low, ext_all, Nat.reduceSub]; rfl
theorem swapp (d : BitVec 7) (a : BitVec 7) (w : BitVec 1) : Statement (.swapp d a w) := by
  intro _ h; cases h
  rw [decode, packReg_maj]; change decode12 _ = _
  simp (disch := omega) only [decode12, packReg_maj, packReg_d, packReg_a, packReg_b, packReg_w, packReg_f, ext_high, ext_low, ext_all, Nat.reduceSub]; rfl
theorem bcast (d : BitVec 7) (a : BitVec 7) (b : BitVec 7) (w : BitVec 1) : Statement (.bcast d a b w) := by
  intro _ h; cases h
  rw [decode, packReg_maj]; change decode12 _ = _
  simp (disch := omega) only [decode12, packReg_maj, packReg_d, packReg_a, packReg_b, packReg_w, packReg_f, ext_high, ext_low, ext_all, Nat.reduceSub]; rfl
theorem vany (d : BitVec 7) (a : BitVec 7) : Statement (.vany d a) := by
  intro _ h; cases h
  rw [decode, packReg_maj]; change decode13 _ = _
  simp (disch := omega) only [decode13, packReg_maj, packReg_d, packReg_a, packReg_b, packReg_w, packReg_f, ext_high, ext_low, ext_all, Nat.reduceSub]; rfl
theorem vall (d : BitVec 7) (a : BitVec 7) : Statement (.vall d a) := by
  intro _ h; cases h
  rw [decode, packReg_maj]; change decode13 _ = _
  simp (disch := omega) only [decode13, packReg_maj, packReg_d, packReg_a, packReg_b, packReg_w, packReg_f, ext_high, ext_low, ext_all, Nat.reduceSub]; rfl
theorem vbal (d : BitVec 7) (a : BitVec 7) (w : BitVec 1) : Statement (.vbal d a w) := by
  intro _ h; cases h
  rw [decode, packReg_maj]; change decode13 _ = _
  simp (disch := omega) only [decode13, packReg_maj, packReg_d, packReg_a, packReg_b, packReg_w, packReg_f, ext_high, ext_low, ext_all, Nat.reduceSub]; rfl
theorem matchLanes (d : BitVec 7) (a : BitVec 7) (w : BitVec 1) : Statement (.matchLanes d a w) := by
  intro _ h; cases h
  rw [decode, packReg_maj]; change decode13 _ = _
  simp (disch := omega) only [decode13, packReg_maj, packReg_d, packReg_a, packReg_b, packReg_w, packReg_f, ext_high, ext_low, ext_all, Nat.reduceSub]; rfl
theorem rdadd (d : BitVec 7) (a : BitVec 7) (w : BitVec 1) : Statement (.rdadd d a w) := by
  intro _ h; cases h
  rw [decode, packReg_maj]; change decode14 _ = _
  simp (disch := omega) only [decode14, packReg_maj, packReg_d, packReg_a, packReg_b, packReg_w, packReg_f, ext_high, ext_low, ext_all, Nat.reduceSub]; rfl
theorem rdmin (d : BitVec 7) (a : BitVec 7) (w : BitVec 1) : Statement (.rdmin d a w) := by
  intro _ h; cases h
  rw [decode, packReg_maj]; change decode14 _ = _
  simp (disch := omega) only [decode14, packReg_maj, packReg_d, packReg_a, packReg_b, packReg_w, packReg_f, ext_high, ext_low, ext_all, Nat.reduceSub]; rfl
theorem rdmax (d : BitVec 7) (a : BitVec 7) (w : BitVec 1) : Statement (.rdmax d a w) := by
  intro _ h; cases h
  rw [decode, packReg_maj]; change decode14 _ = _
  simp (disch := omega) only [decode14, packReg_maj, packReg_d, packReg_a, packReg_b, packReg_w, packReg_f, ext_high, ext_low, ext_all, Nat.reduceSub]; rfl
theorem rdand (d : BitVec 7) (a : BitVec 7) (w : BitVec 1) : Statement (.rdand d a w) := by
  intro _ h; cases h
  rw [decode, packReg_maj]; change decode14 _ = _
  simp (disch := omega) only [decode14, packReg_maj, packReg_d, packReg_a, packReg_b, packReg_w, packReg_f, ext_high, ext_low, ext_all, Nat.reduceSub]; rfl
theorem rdor (d : BitVec 7) (a : BitVec 7) (w : BitVec 1) : Statement (.rdor d a w) := by
  intro _ h; cases h
  rw [decode, packReg_maj]; change decode14 _ = _
  simp (disch := omega) only [decode14, packReg_maj, packReg_d, packReg_a, packReg_b, packReg_w, packReg_f, ext_high, ext_low, ext_all, Nat.reduceSub]; rfl
theorem rdxor (d : BitVec 7) (a : BitVec 7) (w : BitVec 1) : Statement (.rdxor d a w) := by
  intro _ h; cases h
  rw [decode, packReg_maj]; change decode14 _ = _
  simp (disch := omega) only [decode14, packReg_maj, packReg_d, packReg_a, packReg_b, packReg_w, packReg_f, ext_high, ext_low, ext_all, Nat.reduceSub]; rfl
theorem rdfadd (d : BitVec 7) (a : BitVec 7) (w : BitVec 1) : Statement (.rdfadd d a w) := by
  intro _ h; cases h
  rw [decode, packReg_maj]; change decode14 _ = _
  simp (disch := omega) only [decode14, packReg_maj, packReg_d, packReg_a, packReg_b, packReg_w, packReg_f, ext_high, ext_low, ext_all, Nat.reduceSub]; rfl
theorem rdfmax (d : BitVec 7) (a : BitVec 7) (w : BitVec 1) : Statement (.rdfmax d a w) := by
  intro _ h; cases h
  rw [decode, packReg_maj]; change decode14 _ = _
  simp (disch := omega) only [decode14, packReg_maj, packReg_d, packReg_a, packReg_b, packReg_w, packReg_f, ext_high, ext_low, ext_all, Nat.reduceSub]; rfl
theorem scadd (d : BitVec 7) (a : BitVec 7) (w : BitVec 1) : Statement (.scadd d a w) := by
  intro _ h; cases h
  rw [decode, packReg_maj]; change decode15 _ = _
  simp (disch := omega) only [decode15, packReg_maj, packReg_d, packReg_a, packReg_b, packReg_w, packReg_f, ext_high, ext_low, ext_all, Nat.reduceSub]; rfl
theorem scfadd (d : BitVec 7) (a : BitVec 7) (w : BitVec 1) : Statement (.scfadd d a w) := by
  intro _ h; cases h
  rw [decode, packReg_maj]; change decode15 _ = _
  simp (disch := omega) only [decode15, packReg_maj, packReg_d, packReg_a, packReg_b, packReg_w, packReg_f, ext_high, ext_low, ext_all, Nat.reduceSub]; rfl
theorem rake (n : BitVec 3) : Statement (.rake n) := by
  intro _ h; cases h
  rw [decode, packImm_maj]; change decode16 _ = _
  simp (disch := omega) only [decode16, packImm_maj, packImm_d, packImm_a, packImm_w, packImm_n, fld_imm, ext_high, ext_low, ext_all, Nat.reduceSub]; rfl
theorem fadd (d : BitVec 7) (a : BitVec 7) (b : BitVec 7) (w : BitVec 1) : Statement (.fadd d a b w) := by
  intro _ h; cases h
  rw [decode, packReg_maj]; change decode18 _ = _
  simp (disch := omega) only [decode18, packReg_maj, packReg_d, packReg_a, packReg_b, packReg_w, packReg_f, ext_high, ext_low, ext_all, Nat.reduceSub]; rfl
theorem fsub (d : BitVec 7) (a : BitVec 7) (b : BitVec 7) (w : BitVec 1) : Statement (.fsub d a b w) := by
  intro _ h; cases h
  rw [decode, packReg_maj]; change decode18 _ = _
  simp (disch := omega) only [decode18, packReg_maj, packReg_d, packReg_a, packReg_b, packReg_w, packReg_f, ext_high, ext_low, ext_all, Nat.reduceSub]; rfl
theorem fmul (d : BitVec 7) (a : BitVec 7) (b : BitVec 7) (w : BitVec 1) : Statement (.fmul d a b w) := by
  intro _ h; cases h
  rw [decode, packReg_maj]; change decode18 _ = _
  simp (disch := omega) only [decode18, packReg_maj, packReg_d, packReg_a, packReg_b, packReg_w, packReg_f, ext_high, ext_low, ext_all, Nat.reduceSub]; rfl
theorem fdiv (d : BitVec 7) (a : BitVec 7) (b : BitVec 7) (w : BitVec 1) : Statement (.fdiv d a b w) := by
  intro _ h; cases h
  rw [decode, packReg_maj]; change decode18 _ = _
  simp (disch := omega) only [decode18, packReg_maj, packReg_d, packReg_a, packReg_b, packReg_w, packReg_f, ext_high, ext_low, ext_all, Nat.reduceSub]; rfl
theorem fmin (d : BitVec 7) (a : BitVec 7) (b : BitVec 7) (w : BitVec 1) : Statement (.fmin d a b w) := by
  intro _ h; cases h
  rw [decode, packReg_maj]; change decode18 _ = _
  simp (disch := omega) only [decode18, packReg_maj, packReg_d, packReg_a, packReg_b, packReg_w, packReg_f, ext_high, ext_low, ext_all, Nat.reduceSub]; rfl
theorem fmax (d : BitVec 7) (a : BitVec 7) (b : BitVec 7) (w : BitVec 1) : Statement (.fmax d a b w) := by
  intro _ h; cases h
  rw [decode, packReg_maj]; change decode18 _ = _
  simp (disch := omega) only [decode18, packReg_maj, packReg_d, packReg_a, packReg_b, packReg_w, packReg_f, ext_high, ext_low, ext_all, Nat.reduceSub]; rfl
theorem fcpsgn (d : BitVec 7) (a : BitVec 7) (b : BitVec 7) (w : BitVec 1) : Statement (.fcpsgn d a b w) := by
  intro _ h; cases h
  rw [decode, packReg_maj]; change decode18 _ = _
  simp (disch := omega) only [decode18, packReg_maj, packReg_d, packReg_a, packReg_b, packReg_w, packReg_f, ext_high, ext_low, ext_all, Nat.reduceSub]; rfl
theorem ffma (d : BitVec 7) (a : BitVec 7) (b : BitVec 7) (c : BitVec 3) (w : BitVec 1) : Statement (.ffma d a b c w) := by
  intro _ h; cases h
  rw [decode, packAcc_maj]; change decode19 _ = _
  simp (disch := omega) only [decode19, packAcc_maj, packAcc_d, packAcc_a, packAcc_b, packAcc_c, packAcc_w, ext_high, ext_low, ext_all, Nat.reduceSub]
theorem ffms (d : BitVec 7) (a : BitVec 7) (b : BitVec 7) (c : BitVec 3) (w : BitVec 1) : Statement (.ffms d a b c w) := by
  intro _ h; cases h
  rw [decode, packAcc_maj]; change decode1A _ = _
  simp (disch := omega) only [decode1A, packAcc_maj, packAcc_d, packAcc_a, packAcc_b, packAcc_c, packAcc_w, ext_high, ext_low, ext_all, Nat.reduceSub]
theorem fcmp (p : BitVec 7) (a : BitVec 7) (b : BitVec 7) (c : BitVec 3) : Statement (.fcmp p a b c) := by
  intro _ h; cases h
  rw [decode, packReg_maj]; change decode1B _ = _
  simp (disch := omega) only [decode1B, packReg_maj, packReg_d, packReg_a, packReg_b, packReg_w, packReg_f, ext_high, ext_low, ext_all, Nat.reduceSub]; rfl
theorem faddi (d : BitVec 7) (a : BitVec 7) (w : BitVec 1) (imm : BitVec 10) : Statement (.faddi d a w imm) := by
  intro _ h; cases h
  rw [decode, packImm_maj]; change decode1C _ = _
  simp (disch := omega) only [decode1C, packImm_maj, packImm_d, packImm_a, packImm_w, packImm_n, fld_imm, ext_high, ext_low, ext_all, Nat.reduceSub]
theorem frndn (d : BitVec 7) (a : BitVec 7) (w : BitVec 1) : Statement (.frndn d a w) := by
  intro _ h; cases h
  rw [decode, packReg_maj]; change decode1E _ = _
  simp (disch := omega) only [decode1E, packReg_maj, packReg_d, packReg_a, packReg_b, packReg_w, packReg_f, ext_high, ext_low, ext_all, Nat.reduceSub]; rfl
theorem frndz (d : BitVec 7) (a : BitVec 7) (w : BitVec 1) : Statement (.frndz d a w) := by
  intro _ h; cases h
  rw [decode, packReg_maj]; change decode1E _ = _
  simp (disch := omega) only [decode1E, packReg_maj, packReg_d, packReg_a, packReg_b, packReg_w, packReg_f, ext_high, ext_low, ext_all, Nat.reduceSub]; rfl
theorem frndu (d : BitVec 7) (a : BitVec 7) (w : BitVec 1) : Statement (.frndu d a w) := by
  intro _ h; cases h
  rw [decode, packReg_maj]; change decode1E _ = _
  simp (disch := omega) only [decode1E, packReg_maj, packReg_d, packReg_a, packReg_b, packReg_w, packReg_f, ext_high, ext_low, ext_all, Nat.reduceSub]; rfl
theorem frndd (d : BitVec 7) (a : BitVec 7) (w : BitVec 1) : Statement (.frndd d a w) := by
  intro _ h; cases h
  rw [decode, packReg_maj]; change decode1E _ = _
  simp (disch := omega) only [decode1E, packReg_maj, packReg_d, packReg_a, packReg_b, packReg_w, packReg_f, ext_high, ext_low, ext_all, Nat.reduceSub]; rfl
theorem ffrac (d : BitVec 7) (a : BitVec 7) (w : BitVec 1) : Statement (.ffrac d a w) := by
  intro _ h; cases h
  rw [decode, packReg_maj]; change decode1E _ = _
  simp (disch := omega) only [decode1E, packReg_maj, packReg_d, packReg_a, packReg_b, packReg_w, packReg_f, ext_high, ext_low, ext_all, Nat.reduceSub]; rfl
theorem fabs (d : BitVec 7) (a : BitVec 7) (w : BitVec 1) : Statement (.fabs d a w) := by
  intro _ h; cases h
  rw [decode, packReg_maj]; change decode1E _ = _
  simp (disch := omega) only [decode1E, packReg_maj, packReg_d, packReg_a, packReg_b, packReg_w, packReg_f, ext_high, ext_low, ext_all, Nat.reduceSub]; rfl
theorem fneg (d : BitVec 7) (a : BitVec 7) (w : BitVec 1) : Statement (.fneg d a w) := by
  intro _ h; cases h
  rw [decode, packReg_maj]; change decode1E _ = _
  simp (disch := omega) only [decode1E, packReg_maj, packReg_d, packReg_a, packReg_b, packReg_w, packReg_f, ext_high, ext_low, ext_all, Nat.reduceSub]; rfl
theorem fclass (d : BitVec 7) (a : BitVec 7) (w : BitVec 1) : Statement (.fclass d a w) := by
  intro _ h; cases h
  rw [decode, packReg_maj]; change decode1E _ = _
  simp (disch := omega) only [decode1E, packReg_maj, packReg_d, packReg_a, packReg_b, packReg_w, packReg_f, ext_high, ext_low, ext_all, Nat.reduceSub]; rfl
theorem hadd2 (d : BitVec 7) (a : BitVec 7) (b : BitVec 7) (w : BitVec 1) : Statement (.hadd2 d a b w) := by
  intro _ h; cases h
  rw [decode, packReg_maj]; change decode1F _ = _
  simp (disch := omega) only [decode1F, packReg_maj, packReg_d, packReg_a, packReg_b, packReg_w, packReg_f, ext_high, ext_low, ext_all, Nat.reduceSub]; rfl
theorem hmul2 (d : BitVec 7) (a : BitVec 7) (b : BitVec 7) (w : BitVec 1) : Statement (.hmul2 d a b w) := by
  intro _ h; cases h
  rw [decode, packReg_maj]; change decode1F _ = _
  simp (disch := omega) only [decode1F, packReg_maj, packReg_d, packReg_a, packReg_b, packReg_w, packReg_f, ext_high, ext_low, ext_all, Nat.reduceSub]; rfl
theorem badd2 (d : BitVec 7) (a : BitVec 7) (b : BitVec 7) (w : BitVec 1) : Statement (.badd2 d a b w) := by
  intro _ h; cases h
  rw [decode, packReg_maj]; change decode1F _ = _
  simp (disch := omega) only [decode1F, packReg_maj, packReg_d, packReg_a, packReg_b, packReg_w, packReg_f, ext_high, ext_low, ext_all, Nat.reduceSub]; rfl
theorem bmul2 (d : BitVec 7) (a : BitVec 7) (b : BitVec 7) (w : BitVec 1) : Statement (.bmul2 d a b w) := by
  intro _ h; cases h
  rw [decode, packReg_maj]; change decode1F _ = _
  simp (disch := omega) only [decode1F, packReg_maj, packReg_d, packReg_a, packReg_b, packReg_w, packReg_f, ext_high, ext_low, ext_all, Nat.reduceSub]; rfl
theorem hfma2 (d : BitVec 7) (a : BitVec 7) (b : BitVec 7) (c : BitVec 3) (w : BitVec 1) : Statement (.hfma2 d a b c w) := by
  intro _ h; cases h
  rw [decode, packAcc_maj]; change decode20 _ = _
  simp (disch := omega) only [decode20, packAcc_maj, packAcc_d, packAcc_a, packAcc_b, packAcc_c, packAcc_w, ext_high, ext_low, ext_all, Nat.reduceSub]
theorem bfma2 (d : BitVec 7) (a : BitVec 7) (b : BitVec 7) (c : BitVec 3) (w : BitVec 1) : Statement (.bfma2 d a b c w) := by
  intro _ h; cases h
  rw [decode, packAcc_maj]; change decode21 _ = _
  simp (disch := omega) only [decode21, packAcc_maj, packAcc_d, packAcc_a, packAcc_b, packAcc_c, packAcc_w, ext_high, ext_low, ext_all, Nat.reduceSub]
theorem dadd (d : BitVec 7) (a : BitVec 7) (b : BitVec 7) (w : BitVec 1) : Statement (.dadd d a b w) := by
  intro _ h; cases h
  rw [decode, packReg_maj]; change decode22 _ = _
  simp (disch := omega) only [decode22, packReg_maj, packReg_d, packReg_a, packReg_b, packReg_w, packReg_f, ext_high, ext_low, ext_all, Nat.reduceSub]; rfl
theorem dsub (d : BitVec 7) (a : BitVec 7) (b : BitVec 7) (w : BitVec 1) : Statement (.dsub d a b w) := by
  intro _ h; cases h
  rw [decode, packReg_maj]; change decode22 _ = _
  simp (disch := omega) only [decode22, packReg_maj, packReg_d, packReg_a, packReg_b, packReg_w, packReg_f, ext_high, ext_low, ext_all, Nat.reduceSub]; rfl
theorem dmul (d : BitVec 7) (a : BitVec 7) (b : BitVec 7) (w : BitVec 1) : Statement (.dmul d a b w) := by
  intro _ h; cases h
  rw [decode, packReg_maj]; change decode22 _ = _
  simp (disch := omega) only [decode22, packReg_maj, packReg_d, packReg_a, packReg_b, packReg_w, packReg_f, ext_high, ext_low, ext_all, Nat.reduceSub]; rfl
theorem ddiv (d : BitVec 7) (a : BitVec 7) (b : BitVec 7) (w : BitVec 1) : Statement (.ddiv d a b w) := by
  intro _ h; cases h
  rw [decode, packReg_maj]; change decode22 _ = _
  simp (disch := omega) only [decode22, packReg_maj, packReg_d, packReg_a, packReg_b, packReg_w, packReg_f, ext_high, ext_low, ext_all, Nat.reduceSub]; rfl
theorem dsqrt (d : BitVec 7) (a : BitVec 7) (w : BitVec 1) : Statement (.dsqrt d a w) := by
  intro _ h; cases h
  rw [decode, packReg_maj]; change decode22 _ = _
  simp (disch := omega) only [decode22, packReg_maj, packReg_d, packReg_a, packReg_b, packReg_w, packReg_f, ext_high, ext_low, ext_all, Nat.reduceSub]; rfl
theorem dfma (d : BitVec 7) (a : BitVec 7) (b : BitVec 7) (c : BitVec 3) (w : BitVec 1) : Statement (.dfma d a b c w) := by
  intro _ h; cases h
  rw [decode, packAcc_maj]; change decode23 _ = _
  simp (disch := omega) only [decode23, packAcc_maj, packAcc_d, packAcc_a, packAcc_b, packAcc_c, packAcc_w, ext_high, ext_low, ext_all, Nat.reduceSub]
theorem dcmp (p : BitVec 7) (a : BitVec 7) (b : BitVec 7) (c : BitVec 3) : Statement (.dcmp p a b c) := by
  intro _ h; cases h
  rw [decode, packReg_maj]; change decode24 _ = _
  simp (disch := omega) only [decode24, packReg_maj, packReg_d, packReg_a, packReg_b, packReg_w, packReg_f, ext_high, ext_low, ext_all, Nat.reduceSub]; rfl
theorem rcp (d : BitVec 7) (a : BitVec 7) (w : BitVec 1) : Statement (.rcp d a w) := by
  intro _ h; cases h
  rw [decode, packReg_maj]; change decode25 _ = _
  simp (disch := omega) only [decode25, packReg_maj, packReg_d, packReg_a, packReg_b, packReg_w, packReg_f, ext_high, ext_low, ext_all, Nat.reduceSub]; rfl
theorem rsq (d : BitVec 7) (a : BitVec 7) (w : BitVec 1) : Statement (.rsq d a w) := by
  intro _ h; cases h
  rw [decode, packReg_maj]; change decode25 _ = _
  simp (disch := omega) only [decode25, packReg_maj, packReg_d, packReg_a, packReg_b, packReg_w, packReg_f, ext_high, ext_low, ext_all, Nat.reduceSub]; rfl
theorem sqrt (d : BitVec 7) (a : BitVec 7) (w : BitVec 1) : Statement (.sqrt d a w) := by
  intro _ h; cases h
  rw [decode, packReg_maj]; change decode25 _ = _
  simp (disch := omega) only [decode25, packReg_maj, packReg_d, packReg_a, packReg_b, packReg_w, packReg_f, ext_high, ext_low, ext_all, Nat.reduceSub]; rfl
theorem ex2 (d : BitVec 7) (a : BitVec 7) (w : BitVec 1) : Statement (.ex2 d a w) := by
  intro _ h; cases h
  rw [decode, packReg_maj]; change decode25 _ = _
  simp (disch := omega) only [decode25, packReg_maj, packReg_d, packReg_a, packReg_b, packReg_w, packReg_f, ext_high, ext_low, ext_all, Nat.reduceSub]; rfl
theorem lg2 (d : BitVec 7) (a : BitVec 7) (w : BitVec 1) : Statement (.lg2 d a w) := by
  intro _ h; cases h
  rw [decode, packReg_maj]; change decode25 _ = _
  simp (disch := omega) only [decode25, packReg_maj, packReg_d, packReg_a, packReg_b, packReg_w, packReg_f, ext_high, ext_low, ext_all, Nat.reduceSub]; rfl
theorem sint (d : BitVec 7) (a : BitVec 7) (w : BitVec 1) : Statement (.sint d a w) := by
  intro _ h; cases h
  rw [decode, packReg_maj]; change decode25 _ = _
  simp (disch := omega) only [decode25, packReg_maj, packReg_d, packReg_a, packReg_b, packReg_w, packReg_f, ext_high, ext_low, ext_all, Nat.reduceSub]; rfl
theorem cost (d : BitVec 7) (a : BitVec 7) (w : BitVec 1) : Statement (.cost d a w) := by
  intro _ h; cases h
  rw [decode, packReg_maj]; change decode25 _ = _
  simp (disch := omega) only [decode25, packReg_maj, packReg_d, packReg_a, packReg_b, packReg_w, packReg_f, ext_high, ext_low, ext_all, Nat.reduceSub]; rfl
theorem tanh (d : BitVec 7) (a : BitVec 7) (w : BitVec 1) : Statement (.tanh d a w) := by
  intro _ h; cases h
  rw [decode, packReg_maj]; change decode25 _ = _
  simp (disch := omega) only [decode25, packReg_maj, packReg_d, packReg_a, packReg_b, packReg_w, packReg_f, ext_high, ext_low, ext_all, Nat.reduceSub]; rfl
theorem itof (d : BitVec 7) (a : BitVec 7) (w : BitVec 1) : Statement (.itof d a w) := by
  intro _ h; cases h
  rw [decode, packReg_maj]; change decode26 _ = _
  simp (disch := omega) only [decode26, packReg_maj, packReg_d, packReg_a, packReg_b, packReg_w, packReg_f, ext_high, ext_low, ext_all, Nat.reduceSub]; rfl
theorem utof (d : BitVec 7) (a : BitVec 7) (w : BitVec 1) : Statement (.utof d a w) := by
  intro _ h; cases h
  rw [decode, packReg_maj]; change decode26 _ = _
  simp (disch := omega) only [decode26, packReg_maj, packReg_d, packReg_a, packReg_b, packReg_w, packReg_f, ext_high, ext_low, ext_all, Nat.reduceSub]; rfl
theorem ftoi (d : BitVec 7) (a : BitVec 7) (w : BitVec 1) : Statement (.ftoi d a w) := by
  intro _ h; cases h
  rw [decode, packReg_maj]; change decode26 _ = _
  simp (disch := omega) only [decode26, packReg_maj, packReg_d, packReg_a, packReg_b, packReg_w, packReg_f, ext_high, ext_low, ext_all, Nat.reduceSub]; rfl
theorem ftou (d : BitVec 7) (a : BitVec 7) (w : BitVec 1) : Statement (.ftou d a w) := by
  intro _ h; cases h
  rw [decode, packReg_maj]; change decode26 _ = _
  simp (disch := omega) only [decode26, packReg_maj, packReg_d, packReg_a, packReg_b, packReg_w, packReg_f, ext_high, ext_low, ext_all, Nat.reduceSub]; rfl
theorem ftod (d : BitVec 7) (a : BitVec 7) (w : BitVec 1) : Statement (.ftod d a w) := by
  intro _ h; cases h
  rw [decode, packReg_maj]; change decode26 _ = _
  simp (disch := omega) only [decode26, packReg_maj, packReg_d, packReg_a, packReg_b, packReg_w, packReg_f, ext_high, ext_low, ext_all, Nat.reduceSub]; rfl
theorem dtof (d : BitVec 7) (a : BitVec 7) (w : BitVec 1) : Statement (.dtof d a w) := by
  intro _ h; cases h
  rw [decode, packReg_maj]; change decode26 _ = _
  simp (disch := omega) only [decode26, packReg_maj, packReg_d, packReg_a, packReg_b, packReg_w, packReg_f, ext_high, ext_low, ext_all, Nat.reduceSub]; rfl
theorem itod (d : BitVec 7) (a : BitVec 7) (w : BitVec 1) : Statement (.itod d a w) := by
  intro _ h; cases h
  rw [decode, packReg_maj]; change decode26 _ = _
  simp (disch := omega) only [decode26, packReg_maj, packReg_d, packReg_a, packReg_b, packReg_w, packReg_f, ext_high, ext_low, ext_all, Nat.reduceSub]; rfl
theorem dtoi (d : BitVec 7) (a : BitVec 7) (w : BitVec 1) : Statement (.dtoi d a w) := by
  intro _ h; cases h
  rw [decode, packReg_maj]; change decode26 _ = _
  simp (disch := omega) only [decode26, packReg_maj, packReg_d, packReg_a, packReg_b, packReg_w, packReg_f, ext_high, ext_low, ext_all, Nat.reduceSub]; rfl
theorem ftoh2 (d : BitVec 7) (a : BitVec 7) (b : BitVec 7) (w : BitVec 1) : Statement (.ftoh2 d a b w) := by
  intro _ h; cases h
  rw [decode, packReg_maj]; change decode27 _ = _
  simp (disch := omega) only [decode27, packReg_maj, packReg_d, packReg_a, packReg_b, packReg_w, packReg_f, ext_high, ext_low, ext_all, Nat.reduceSub]; rfl
theorem htofl (d : BitVec 7) (a : BitVec 7) (w : BitVec 1) : Statement (.htofl d a w) := by
  intro _ h; cases h
  rw [decode, packReg_maj]; change decode27 _ = _
  simp (disch := omega) only [decode27, packReg_maj, packReg_d, packReg_a, packReg_b, packReg_w, packReg_f, ext_high, ext_low, ext_all, Nat.reduceSub]; rfl
theorem htofh (d : BitVec 7) (a : BitVec 7) (w : BitVec 1) : Statement (.htofh d a w) := by
  intro _ h; cases h
  rw [decode, packReg_maj]; change decode27 _ = _
  simp (disch := omega) only [decode27, packReg_maj, packReg_d, packReg_a, packReg_b, packReg_w, packReg_f, ext_high, ext_low, ext_all, Nat.reduceSub]; rfl
theorem ftob2 (d : BitVec 7) (a : BitVec 7) (b : BitVec 7) (w : BitVec 1) : Statement (.ftob2 d a b w) := by
  intro _ h; cases h
  rw [decode, packReg_maj]; change decode27 _ = _
  simp (disch := omega) only [decode27, packReg_maj, packReg_d, packReg_a, packReg_b, packReg_w, packReg_f, ext_high, ext_low, ext_all, Nat.reduceSub]; rfl
theorem btofl (d : BitVec 7) (a : BitVec 7) (w : BitVec 1) : Statement (.btofl d a w) := by
  intro _ h; cases h
  rw [decode, packReg_maj]; change decode27 _ = _
  simp (disch := omega) only [decode27, packReg_maj, packReg_d, packReg_a, packReg_b, packReg_w, packReg_f, ext_high, ext_low, ext_all, Nat.reduceSub]; rfl
theorem btofh (d : BitVec 7) (a : BitVec 7) (w : BitVec 1) : Statement (.btofh d a w) := by
  intro _ h; cases h
  rw [decode, packReg_maj]; change decode27 _ = _
  simp (disch := omega) only [decode27, packReg_maj, packReg_d, packReg_a, packReg_b, packReg_w, packReg_f, ext_high, ext_low, ext_all, Nat.reduceSub]; rfl
theorem x8e4 (d : BitVec 7) (a : BitVec 7) (b : BitVec 7) (w : BitVec 1) : Statement (.x8e4 d a b w) := by
  intro _ h; cases h
  rw [decode, packReg_maj]; change decode28 _ = _
  simp (disch := omega) only [decode28, packReg_maj, packReg_d, packReg_a, packReg_b, packReg_w, packReg_f, ext_high, ext_low, ext_all, Nat.reduceSub]; rfl
theorem x8e5 (d : BitVec 7) (a : BitVec 7) (b : BitVec 7) (w : BitVec 1) : Statement (.x8e5 d a b w) := by
  intro _ h; cases h
  rw [decode, packReg_maj]; change decode28 _ = _
  simp (disch := omega) only [decode28, packReg_maj, packReg_d, packReg_a, packReg_b, packReg_w, packReg_f, ext_high, ext_low, ext_all, Nat.reduceSub]; rfl
theorem x6a (d : BitVec 7) (a : BitVec 7) (b : BitVec 7) (w : BitVec 1) : Statement (.x6a d a b w) := by
  intro _ h; cases h
  rw [decode, packReg_maj]; change decode28 _ = _
  simp (disch := omega) only [decode28, packReg_maj, packReg_d, packReg_a, packReg_b, packReg_w, packReg_f, ext_high, ext_low, ext_all, Nat.reduceSub]; rfl
theorem x6b (d : BitVec 7) (a : BitVec 7) (b : BitVec 7) (w : BitVec 1) : Statement (.x6b d a b w) := by
  intro _ h; cases h
  rw [decode, packReg_maj]; change decode28 _ = _
  simp (disch := omega) only [decode28, packReg_maj, packReg_d, packReg_a, packReg_b, packReg_w, packReg_f, ext_high, ext_low, ext_all, Nat.reduceSub]; rfl
theorem xi4o (d : BitVec 7) (a : BitVec 7) (b : BitVec 7) (w : BitVec 1) : Statement (.xi4o d a b w) := by
  intro _ h; cases h
  rw [decode, packReg_maj]; change decode28 _ = _
  simp (disch := omega) only [decode28, packReg_maj, packReg_d, packReg_a, packReg_b, packReg_w, packReg_f, ext_high, ext_low, ext_all, Nat.reduceSub]; rfl
theorem xi8 (d : BitVec 7) (a : BitVec 7) (b : BitVec 7) (w : BitVec 1) : Statement (.xi8 d a b w) := by
  intro _ h; cases h
  rw [decode, packReg_maj]; change decode28 _ = _
  simp (disch := omega) only [decode28, packReg_maj, packReg_d, packReg_a, packReg_b, packReg_w, packReg_f, ext_high, ext_low, ext_all, Nat.reduceSub]; rfl
theorem p8e4 (d : BitVec 7) (a : BitVec 7) (b : BitVec 7) : Statement (.p8e4 d a b) := by
  intro _ h; cases h
  rw [decode, packReg_maj]; change decode29 _ = _
  simp (disch := omega) only [decode29, packReg_maj, packReg_d, packReg_a, packReg_b, packReg_w, packReg_f, ext_high, ext_low, ext_all, Nat.reduceSub]; rfl
theorem p8e5 (d : BitVec 7) (a : BitVec 7) (b : BitVec 7) : Statement (.p8e5 d a b) := by
  intro _ h; cases h
  rw [decode, packReg_maj]; change decode29 _ = _
  simp (disch := omega) only [decode29, packReg_maj, packReg_d, packReg_a, packReg_b, packReg_w, packReg_f, ext_high, ext_low, ext_all, Nat.reduceSub]; rfl
theorem p6a (d : BitVec 7) (a : BitVec 7) (b : BitVec 7) : Statement (.p6a d a b) := by
  intro _ h; cases h
  rw [decode, packReg_maj]; change decode29 _ = _
  simp (disch := omega) only [decode29, packReg_maj, packReg_d, packReg_a, packReg_b, packReg_w, packReg_f, ext_high, ext_low, ext_all, Nat.reduceSub]; rfl
theorem p6b (d : BitVec 7) (a : BitVec 7) (b : BitVec 7) : Statement (.p6b d a b) := by
  intro _ h; cases h
  rw [decode, packReg_maj]; change decode29 _ = _
  simp (disch := omega) only [decode29, packReg_maj, packReg_d, packReg_a, packReg_b, packReg_w, packReg_f, ext_high, ext_low, ext_all, Nat.reduceSub]; rfl
theorem pi4o (d : BitVec 7) (a : BitVec 7) (b : BitVec 7) : Statement (.pi4o d a b) := by
  intro _ h; cases h
  rw [decode, packReg_maj]; change decode29 _ = _
  simp (disch := omega) only [decode29, packReg_maj, packReg_d, packReg_a, packReg_b, packReg_w, packReg_f, ext_high, ext_low, ext_all, Nat.reduceSub]; rfl
theorem pi8 (d : BitVec 7) (a : BitVec 7) (b : BitVec 7) : Statement (.pi8 d a b) := by
  intro _ h; cases h
  rw [decode, packReg_maj]; change decode29 _ = _
  simp (disch := omega) only [decode29, packReg_maj, packReg_d, packReg_a, packReg_b, packReg_w, packReg_f, ext_high, ext_low, ext_all, Nat.reduceSub]; rfl
theorem rmake (d : BitVec 7) (a : BitVec 7) (b : BitVec 7) (w : BitVec 1) : Statement (.rmake d a b w) := by
  intro _ h; cases h
  rw [decode, packReg_maj]; change decode2A _ = _
  simp (disch := omega) only [decode2A, packReg_maj, packReg_d, packReg_a, packReg_b, packReg_w, packReg_f, ext_high, ext_low, ext_all, Nat.reduceSub]; rfl
theorem rnum (d : BitVec 7) (a : BitVec 7) (w : BitVec 1) : Statement (.rnum d a w) := by
  intro _ h; cases h
  rw [decode, packReg_maj]; change decode2A _ = _
  simp (disch := omega) only [decode2A, packReg_maj, packReg_d, packReg_a, packReg_b, packReg_w, packReg_f, ext_high, ext_low, ext_all, Nat.reduceSub]; rfl
theorem rden (d : BitVec 7) (a : BitVec 7) (w : BitVec 1) : Statement (.rden d a w) := by
  intro _ h; cases h
  rw [decode, packReg_maj]; change decode2A _ = _
  simp (disch := omega) only [decode2A, packReg_maj, packReg_d, packReg_a, packReg_b, packReg_w, packReg_f, ext_high, ext_low, ext_all, Nat.reduceSub]; rfl
theorem rmed (d : BitVec 7) (a : BitVec 7) (b : BitVec 7) (w : BitVec 1) : Statement (.rmed d a b w) := by
  intro _ h; cases h
  rw [decode, packReg_maj]; change decode2A _ = _
  simp (disch := omega) only [decode2A, packReg_maj, packReg_d, packReg_a, packReg_b, packReg_w, packReg_f, ext_high, ext_low, ext_all, Nat.reduceSub]; rfl
theorem rgcd (d : BitVec 7) (a : BitVec 7) (b : BitVec 7) (w : BitVec 1) : Statement (.rgcd d a b w) := by
  intro _ h; cases h
  rw [decode, packReg_maj]; change decode2A _ = _
  simp (disch := omega) only [decode2A, packReg_maj, packReg_d, packReg_a, packReg_b, packReg_w, packReg_f, ext_high, ext_low, ext_all, Nat.reduceSub]; rfl
theorem rflr (d : BitVec 7) (a : BitVec 7) (w : BitVec 1) : Statement (.rflr d a w) := by
  intro _ h; cases h
  rw [decode, packReg_maj]; change decode2A _ = _
  simp (disch := omega) only [decode2A, packReg_maj, packReg_d, packReg_a, packReg_b, packReg_w, packReg_f, ext_high, ext_low, ext_all, Nat.reduceSub]; rfl
theorem rtof (d : BitVec 7) (a : BitVec 7) (w : BitVec 1) : Statement (.rtof d a w) := by
  intro _ h; cases h
  rw [decode, packReg_maj]; change decode2A _ = _
  simp (disch := omega) only [decode2A, packReg_maj, packReg_d, packReg_a, packReg_b, packReg_w, packReg_f, ext_high, ext_low, ext_all, Nat.reduceSub]; rfl
theorem ftor (d : BitVec 7) (a : BitVec 7) (w : BitVec 1) : Statement (.ftor d a w) := by
  intro _ h; cases h
  rw [decode, packReg_maj]; change decode2A _ = _
  simp (disch := omega) only [decode2A, packReg_maj, packReg_d, packReg_a, packReg_b, packReg_w, packReg_f, ext_high, ext_low, ext_all, Nat.reduceSub]; rfl
theorem rmode (r : BitVec 1) (m : BitVec 3) (e : BitVec 1) : Statement (.rmode r m e) := by
  intro _ h; cases h
  rw [decode, packImm_maj]; change decode2B _ = _
  simp (disch := omega) only [decode2B, packImm_maj, packImm_d, packImm_a, packImm_w, packImm_n, fld_imm, ext_high, ext_low, ext_all, Nat.reduceSub]; rfl
theorem bra (p : BitVec 3) (x : BitVec 1) (d : BitVec 21) : Statement (.bra p x d) := by
  intro _ h; cases h
  rw [decode, packBrn_maj]; change decode30 _ = _
  simp (disch := omega) only [decode30, packBrn_maj, packBrn_p, packBrn_x, packBrn_d, ext_high, ext_low, ext_all, Nat.reduceSub]
theorem call (p : BitVec 3) (x : BitVec 1) (d : BitVec 21) : Statement (.call p x d) := by
  intro _ h; cases h
  rw [decode, packBrn_maj]; change decode32 _ = _
  simp (disch := omega) only [decode32, packBrn_maj, packBrn_p, packBrn_x, packBrn_d, ext_high, ext_low, ext_all, Nat.reduceSub]
theorem brx (a : BitVec 7) : Statement (.brx a) := by
  intro _ h; cases h
  rw [decode, packReg_maj]; change decode31 _ = _
  simp (disch := omega) only [decode31, packReg_maj, packReg_d, packReg_a, packReg_b, packReg_w, packReg_f, ext_high, ext_low, ext_all, Nat.reduceSub]; rfl
theorem callx (a : BitVec 7) : Statement (.callx a) := by
  intro _ h; cases h
  rw [decode, packReg_maj]; change decode33 _ = _
  simp (disch := omega) only [decode33, packReg_maj, packReg_d, packReg_a, packReg_b, packReg_w, packReg_f, ext_high, ext_low, ext_all, Nat.reduceSub]; rfl
theorem ret : Statement .ret := by
  intro _ h; cases h
  rw [decode, packReg_maj]; change decode34 _ = _
  simp (disch := omega) only [decode34, packReg_maj, packReg_d, packReg_a, packReg_b, packReg_w, packReg_f, ext_high, ext_low, ext_all, Nat.reduceSub]; rfl
theorem exit : Statement .exit := by
  intro _ h; cases h
  rw [decode, packReg_maj]; change decode35 _ = _
  simp (disch := omega) only [decode35, packReg_maj, packReg_d, packReg_a, packReg_b, packReg_w, packReg_f, ext_high, ext_low, ext_all, Nat.reduceSub]; rfl
theorem yield : Statement .yield := by
  intro _ h; cases h
  rw [decode, packReg_maj]; change decode36 _ = _
  simp (disch := omega) only [decode36, packReg_maj, packReg_d, packReg_a, packReg_b, packReg_w, packReg_f, ext_high, ext_low, ext_all, Nat.reduceSub]; rfl
theorem nop : Statement .nop := by
  intro _ h; cases h
  rw [decode, packReg_maj]; change decode37 _ = _
  simp (disch := omega) only [decode37, packReg_maj, packReg_d, packReg_a, packReg_b, packReg_w, packReg_f, ext_high, ext_low, ext_all, Nat.reduceSub]; rfl
theorem barinit (a : BitVec 7) (b : BitVec 7) : Statement (.barinit a b) := by
  intro _ h; cases h
  rw [decode, packReg_maj]; change decode38 _ = _
  simp (disch := omega) only [decode38, packReg_maj, packReg_d, packReg_a, packReg_b, packReg_w, packReg_f, ext_high, ext_low, ext_all, Nat.reduceSub]; rfl
theorem bararr (d : BitVec 7) (a : BitVec 7) (w : BitVec 1) : Statement (.bararr d a w) := by
  intro _ h; cases h
  rw [decode, packReg_maj]; change decode38 _ = _
  simp (disch := omega) only [decode38, packReg_maj, packReg_d, packReg_a, packReg_b, packReg_w, packReg_f, ext_high, ext_low, ext_all, Nat.reduceSub]; rfl
theorem barwait (a : BitVec 7) (b : BitVec 7) : Statement (.barwait a b) := by
  intro _ h; cases h
  rw [decode, packReg_maj]; change decode38 _ = _
  simp (disch := omega) only [decode38, packReg_maj, packReg_d, packReg_a, packReg_b, packReg_w, packReg_f, ext_high, ext_low, ext_all, Nat.reduceSub]; rfl
theorem bararw (d : BitVec 7) (a : BitVec 7) (w : BitVec 1) : Statement (.bararw d a w) := by
  intro _ h; cases h
  rw [decode, packReg_maj]; change decode38 _ = _
  simp (disch := omega) only [decode38, packReg_maj, packReg_d, packReg_a, packReg_b, packReg_w, packReg_f, ext_high, ext_low, ext_all, Nat.reduceSub]; rfl
theorem bartest (p : BitVec 7) (a : BitVec 7) (b : BitVec 7) : Statement (.bartest p a b) := by
  intro _ h; cases h
  rw [decode, packReg_maj]; change decode38 _ = _
  simp (disch := omega) only [decode38, packReg_maj, packReg_d, packReg_a, packReg_b, packReg_w, packReg_f, ext_high, ext_low, ext_all, Nat.reduceSub]; rfl
theorem bardrop (a : BitVec 7) : Statement (.bardrop a) := by
  intro _ h; cases h
  rw [decode, packReg_maj]; change decode38 _ = _
  simp (disch := omega) only [decode38, packReg_maj, packReg_d, packReg_a, packReg_b, packReg_w, packReg_f, ext_high, ext_low, ext_all, Nat.reduceSub]; rfl
theorem barinv (a : BitVec 7) : Statement (.barinv a) := by
  intro _ h; cases h
  rw [decode, packReg_maj]; change decode38 _ = _
  simp (disch := omega) only [decode38, packReg_maj, packReg_d, packReg_a, packReg_b, packReg_w, packReg_f, ext_high, ext_low, ext_all, Nat.reduceSub]; rfl
theorem barph (d : BitVec 7) (a : BitVec 7) (w : BitVec 1) : Statement (.barph d a w) := by
  intro _ h; cases h
  rw [decode, packReg_maj]; change decode38 _ = _
  simp (disch := omega) only [decode38, packReg_maj, packReg_d, packReg_a, packReg_b, packReg_w, packReg_f, ext_high, ext_low, ext_all, Nat.reduceSub]; rfl
theorem fence (p : BitVec 8) (x : BitVec 8) (c : BitVec 4) : Statement (.fence p x c) := by
  intro _ h; cases h
  rw [decode, packFen_maj]; change decode39 _ = _
  simp (disch := omega) only [decode39, packFen_maj, packFen_p, packFen_x, packFen_c, packFen_fixed0, ext_high, ext_low, ext_all, Nat.reduceSub]; rfl
theorem tlwait (a : BitVec 7) (b : BitVec 7) : Statement (.tlwait a b) := by
  intro _ h; cases h
  rw [decode, packReg_maj]; change decode3A _ = _
  simp (disch := omega) only [decode3A, packReg_maj, packReg_d, packReg_a, packReg_b, packReg_w, packReg_f, ext_high, ext_low, ext_all, Nat.reduceSub]; rfl
theorem tlread (d : BitVec 7) (a : BitVec 7) (w : BitVec 1) : Statement (.tlread d a w) := by
  intro _ h; cases h
  rw [decode, packReg_maj]; change decode3A _ = _
  simp (disch := omega) only [decode3A, packReg_maj, packReg_d, packReg_a, packReg_b, packReg_w, packReg_f, ext_high, ext_low, ext_all, Nat.reduceSub]; rfl
theorem tlpoll (p : BitVec 7) (a : BitVec 7) (b : BitVec 7) : Statement (.tlpoll p a b) := by
  intro _ h; cases h
  rw [decode, packReg_maj]; change decode3A _ = _
  simp (disch := omega) only [decode3A, packReg_maj, packReg_d, packReg_a, packReg_b, packReg_w, packReg_f, ext_high, ext_low, ext_all, Nat.reduceSub]; rfl
theorem tlsig (a : BitVec 7) (b : BitVec 7) : Statement (.tlsig a b) := by
  intro _ h; cases h
  rw [decode, packReg_maj]; change decode3A _ = _
  simp (disch := omega) only [decode3A, packReg_maj, packReg_d, packReg_a, packReg_b, packReg_w, packReg_f, ext_high, ext_low, ext_all, Nat.reduceSub]; rfl
theorem tkwait (m : BitVec 8) : Statement (.tkwait m) := by
  intro _ h; cases h
  rw [decode, packImm_maj]; change decode3B _ = _
  simp (disch := omega) only [decode3B, packImm_maj, packImm_d, packImm_a, packImm_w, packImm_n, fld_imm, ext_high, ext_low, ext_all, Nat.reduceSub]; rfl
theorem tkany (d : BitVec 7) (w : BitVec 1) (m : BitVec 8) : Statement (.tkany d w m) := by
  intro _ h; cases h
  rw [decode, packImm_maj]; change decode3B _ = _
  simp (disch := omega) only [decode3B, packImm_maj, packImm_d, packImm_a, packImm_w, packImm_n, fld_imm, ext_high, ext_low, ext_all, Nat.reduceSub]; rfl
theorem tktest (p : BitVec 7) (m : BitVec 8) : Statement (.tktest p m) := by
  intro _ h; cases h
  rw [decode, packImm_maj]; change decode3B _ = _
  simp (disch := omega) only [decode3B, packImm_maj, packImm_d, packImm_a, packImm_w, packImm_n, fld_imm, ext_high, ext_low, ext_all, Nat.reduceSub]; rfl
theorem ld8 (v : BitVec 7) (a : BitVec 7) (h : BitVec 6) (o : BitVec 2) : Statement (.ld8 v a h o) := by
  intro _ h; cases h
  rw [decode, packMem_maj]; change decode40 _ = _
  simp (disch := omega) only [decode40, packMem_maj, packMem_v, packMem_a, packMem_h, packMem_o, packMem_f, ext_high, ext_low, ext_all, Nat.reduceSub]; rfl
theorem ld8s (v : BitVec 7) (a : BitVec 7) (h : BitVec 6) (o : BitVec 2) : Statement (.ld8s v a h o) := by
  intro _ h; cases h
  rw [decode, packMem_maj]; change decode40 _ = _
  simp (disch := omega) only [decode40, packMem_maj, packMem_v, packMem_a, packMem_h, packMem_o, packMem_f, ext_high, ext_low, ext_all, Nat.reduceSub]; rfl
theorem ld16 (v : BitVec 7) (a : BitVec 7) (h : BitVec 6) (o : BitVec 2) : Statement (.ld16 v a h o) := by
  intro _ h; cases h
  rw [decode, packMem_maj]; change decode40 _ = _
  simp (disch := omega) only [decode40, packMem_maj, packMem_v, packMem_a, packMem_h, packMem_o, packMem_f, ext_high, ext_low, ext_all, Nat.reduceSub]; rfl
theorem ld16s (v : BitVec 7) (a : BitVec 7) (h : BitVec 6) (o : BitVec 2) : Statement (.ld16s v a h o) := by
  intro _ h; cases h
  rw [decode, packMem_maj]; change decode40 _ = _
  simp (disch := omega) only [decode40, packMem_maj, packMem_v, packMem_a, packMem_h, packMem_o, packMem_f, ext_high, ext_low, ext_all, Nat.reduceSub]; rfl
theorem ld32 (v : BitVec 7) (a : BitVec 7) (h : BitVec 6) (o : BitVec 2) : Statement (.ld32 v a h o) := by
  intro _ h; cases h
  rw [decode, packMem_maj]; change decode40 _ = _
  simp (disch := omega) only [decode40, packMem_maj, packMem_v, packMem_a, packMem_h, packMem_o, packMem_f, ext_high, ext_low, ext_all, Nat.reduceSub]; rfl
theorem ld64 (v : BitVec 7) (a : BitVec 7) (h : BitVec 6) (o : BitVec 2) : Statement (.ld64 v a h o) := by
  intro _ h; cases h
  rw [decode, packMem_maj]; change decode40 _ = _
  simp (disch := omega) only [decode40, packMem_maj, packMem_v, packMem_a, packMem_h, packMem_o, packMem_f, ext_high, ext_low, ext_all, Nat.reduceSub]; rfl
theorem ld128 (v : BitVec 7) (a : BitVec 7) (h : BitVec 6) (o : BitVec 2) : Statement (.ld128 v a h o) := by
  intro _ h; cases h
  rw [decode, packMem_maj]; change decode40 _ = _
  simp (disch := omega) only [decode40, packMem_maj, packMem_v, packMem_a, packMem_h, packMem_o, packMem_f, ext_high, ext_low, ext_all, Nat.reduceSub]; rfl
theorem ldnt (v : BitVec 7) (a : BitVec 7) (h : BitVec 6) (o : BitVec 2) : Statement (.ldnt v a h o) := by
  intro _ h; cases h
  rw [decode, packMem_maj]; change decode40 _ = _
  simp (disch := omega) only [decode40, packMem_maj, packMem_v, packMem_a, packMem_h, packMem_o, packMem_f, ext_high, ext_low, ext_all, Nat.reduceSub]; rfl
theorem st8 (v : BitVec 7) (a : BitVec 7) (h : BitVec 6) (o : BitVec 2) : Statement (.st8 v a h o) := by
  intro _ h; cases h
  rw [decode, packMem_maj]; change decode41 _ = _
  simp (disch := omega) only [decode41, packMem_maj, packMem_v, packMem_a, packMem_h, packMem_o, packMem_f, ext_high, ext_low, ext_all, Nat.reduceSub]; rfl
theorem st16 (v : BitVec 7) (a : BitVec 7) (h : BitVec 6) (o : BitVec 2) : Statement (.st16 v a h o) := by
  intro _ h; cases h
  rw [decode, packMem_maj]; change decode41 _ = _
  simp (disch := omega) only [decode41, packMem_maj, packMem_v, packMem_a, packMem_h, packMem_o, packMem_f, ext_high, ext_low, ext_all, Nat.reduceSub]; rfl
theorem st32 (v : BitVec 7) (a : BitVec 7) (h : BitVec 6) (o : BitVec 2) : Statement (.st32 v a h o) := by
  intro _ h; cases h
  rw [decode, packMem_maj]; change decode41 _ = _
  simp (disch := omega) only [decode41, packMem_maj, packMem_v, packMem_a, packMem_h, packMem_o, packMem_f, ext_high, ext_low, ext_all, Nat.reduceSub]; rfl
theorem st64 (v : BitVec 7) (a : BitVec 7) (h : BitVec 6) (o : BitVec 2) : Statement (.st64 v a h o) := by
  intro _ h; cases h
  rw [decode, packMem_maj]; change decode41 _ = _
  simp (disch := omega) only [decode41, packMem_maj, packMem_v, packMem_a, packMem_h, packMem_o, packMem_f, ext_high, ext_low, ext_all, Nat.reduceSub]; rfl
theorem st128 (v : BitVec 7) (a : BitVec 7) (h : BitVec 6) (o : BitVec 2) : Statement (.st128 v a h o) := by
  intro _ h; cases h
  rw [decode, packMem_maj]; change decode41 _ = _
  simp (disch := omega) only [decode41, packMem_maj, packMem_v, packMem_a, packMem_h, packMem_o, packMem_f, ext_high, ext_low, ext_all, Nat.reduceSub]; rfl
theorem stnt (v : BitVec 7) (a : BitVec 7) (h : BitVec 6) (o : BitVec 2) : Statement (.stnt v a h o) := by
  intro _ h; cases h
  rw [decode, packMem_maj]; change decode41 _ = _
  simp (disch := omega) only [decode41, packMem_maj, packMem_v, packMem_a, packMem_h, packMem_o, packMem_f, ext_high, ext_low, ext_all, Nat.reduceSub]; rfl
theorem aadd (v : BitVec 7) (a : BitVec 7) (h : BitVec 6) (o : BitVec 2) : Statement (.aadd v a h o) := by
  intro _ h; cases h
  rw [decode, packMem_maj]; change decode42 _ = _
  simp (disch := omega) only [decode42, packMem_maj, packMem_v, packMem_a, packMem_h, packMem_o, packMem_f, ext_high, ext_low, ext_all, Nat.reduceSub]; rfl
theorem amin (v : BitVec 7) (a : BitVec 7) (h : BitVec 6) (o : BitVec 2) : Statement (.amin v a h o) := by
  intro _ h; cases h
  rw [decode, packMem_maj]; change decode42 _ = _
  simp (disch := omega) only [decode42, packMem_maj, packMem_v, packMem_a, packMem_h, packMem_o, packMem_f, ext_high, ext_low, ext_all, Nat.reduceSub]; rfl
theorem amax (v : BitVec 7) (a : BitVec 7) (h : BitVec 6) (o : BitVec 2) : Statement (.amax v a h o) := by
  intro _ h; cases h
  rw [decode, packMem_maj]; change decode42 _ = _
  simp (disch := omega) only [decode42, packMem_maj, packMem_v, packMem_a, packMem_h, packMem_o, packMem_f, ext_high, ext_low, ext_all, Nat.reduceSub]; rfl
theorem aumin (v : BitVec 7) (a : BitVec 7) (h : BitVec 6) (o : BitVec 2) : Statement (.aumin v a h o) := by
  intro _ h; cases h
  rw [decode, packMem_maj]; change decode42 _ = _
  simp (disch := omega) only [decode42, packMem_maj, packMem_v, packMem_a, packMem_h, packMem_o, packMem_f, ext_high, ext_low, ext_all, Nat.reduceSub]; rfl
theorem aand (v : BitVec 7) (a : BitVec 7) (h : BitVec 6) (o : BitVec 2) : Statement (.aand v a h o) := by
  intro _ h; cases h
  rw [decode, packMem_maj]; change decode42 _ = _
  simp (disch := omega) only [decode42, packMem_maj, packMem_v, packMem_a, packMem_h, packMem_o, packMem_f, ext_high, ext_low, ext_all, Nat.reduceSub]; rfl
theorem aor (v : BitVec 7) (a : BitVec 7) (h : BitVec 6) (o : BitVec 2) : Statement (.aor v a h o) := by
  intro _ h; cases h
  rw [decode, packMem_maj]; change decode42 _ = _
  simp (disch := omega) only [decode42, packMem_maj, packMem_v, packMem_a, packMem_h, packMem_o, packMem_f, ext_high, ext_low, ext_all, Nat.reduceSub]; rfl
theorem axor (v : BitVec 7) (a : BitVec 7) (h : BitVec 6) (o : BitVec 2) : Statement (.axor v a h o) := by
  intro _ h; cases h
  rw [decode, packMem_maj]; change decode42 _ = _
  simp (disch := omega) only [decode42, packMem_maj, packMem_v, packMem_a, packMem_h, packMem_o, packMem_f, ext_high, ext_low, ext_all, Nat.reduceSub]; rfl
theorem axch (v : BitVec 7) (a : BitVec 7) (h : BitVec 6) (o : BitVec 2) : Statement (.axch v a h o) := by
  intro _ h; cases h
  rw [decode, packMem_maj]; change decode42 _ = _
  simp (disch := omega) only [decode42, packMem_maj, packMem_v, packMem_a, packMem_h, packMem_o, packMem_f, ext_high, ext_low, ext_all, Nat.reduceSub]; rfl
theorem aadd64 (v : BitVec 7) (a : BitVec 7) (h : BitVec 6) (o : BitVec 2) : Statement (.aadd64 v a h o) := by
  intro _ h; cases h
  rw [decode, packMem_maj]; change decode43 _ = _
  simp (disch := omega) only [decode43, packMem_maj, packMem_v, packMem_a, packMem_h, packMem_o, packMem_f, ext_high, ext_low, ext_all, Nat.reduceSub]; rfl
theorem amin64 (v : BitVec 7) (a : BitVec 7) (h : BitVec 6) (o : BitVec 2) : Statement (.amin64 v a h o) := by
  intro _ h; cases h
  rw [decode, packMem_maj]; change decode43 _ = _
  simp (disch := omega) only [decode43, packMem_maj, packMem_v, packMem_a, packMem_h, packMem_o, packMem_f, ext_high, ext_low, ext_all, Nat.reduceSub]; rfl
theorem amax64 (v : BitVec 7) (a : BitVec 7) (h : BitVec 6) (o : BitVec 2) : Statement (.amax64 v a h o) := by
  intro _ h; cases h
  rw [decode, packMem_maj]; change decode43 _ = _
  simp (disch := omega) only [decode43, packMem_maj, packMem_v, packMem_a, packMem_h, packMem_o, packMem_f, ext_high, ext_low, ext_all, Nat.reduceSub]; rfl
theorem aand64 (v : BitVec 7) (a : BitVec 7) (h : BitVec 6) (o : BitVec 2) : Statement (.aand64 v a h o) := by
  intro _ h; cases h
  rw [decode, packMem_maj]; change decode43 _ = _
  simp (disch := omega) only [decode43, packMem_maj, packMem_v, packMem_a, packMem_h, packMem_o, packMem_f, ext_high, ext_low, ext_all, Nat.reduceSub]; rfl
theorem aor64 (v : BitVec 7) (a : BitVec 7) (h : BitVec 6) (o : BitVec 2) : Statement (.aor64 v a h o) := by
  intro _ h; cases h
  rw [decode, packMem_maj]; change decode43 _ = _
  simp (disch := omega) only [decode43, packMem_maj, packMem_v, packMem_a, packMem_h, packMem_o, packMem_f, ext_high, ext_low, ext_all, Nat.reduceSub]; rfl
theorem axor64 (v : BitVec 7) (a : BitVec 7) (h : BitVec 6) (o : BitVec 2) : Statement (.axor64 v a h o) := by
  intro _ h; cases h
  rw [decode, packMem_maj]; change decode43 _ = _
  simp (disch := omega) only [decode43, packMem_maj, packMem_v, packMem_a, packMem_h, packMem_o, packMem_f, ext_high, ext_low, ext_all, Nat.reduceSub]; rfl
theorem axch64 (v : BitVec 7) (a : BitVec 7) (h : BitVec 6) (o : BitVec 2) : Statement (.axch64 v a h o) := by
  intro _ h; cases h
  rw [decode, packMem_maj]; change decode43 _ = _
  simp (disch := omega) only [decode43, packMem_maj, packMem_v, packMem_a, packMem_h, packMem_o, packMem_f, ext_high, ext_low, ext_all, Nat.reduceSub]; rfl
theorem afadd (v : BitVec 7) (a : BitVec 7) (h : BitVec 6) (o : BitVec 2) : Statement (.afadd v a h o) := by
  intro _ h; cases h
  rw [decode, packMem_maj]; change decode43 _ = _
  simp (disch := omega) only [decode43, packMem_maj, packMem_v, packMem_a, packMem_h, packMem_o, packMem_f, ext_high, ext_low, ext_all, Nat.reduceSub]; rfl
theorem cas32 (v : BitVec 7) (a : BitVec 7) (h : BitVec 6) (o : BitVec 2) : Statement (.cas32 v a h o) := by
  intro _ h; cases h
  rw [decode, packMem_maj]; change decode44 _ = _
  simp (disch := omega) only [decode44, packMem_maj, packMem_v, packMem_a, packMem_h, packMem_o, packMem_f, ext_high, ext_low, ext_all, Nat.reduceSub]; rfl
theorem cas64 (v : BitVec 7) (a : BitVec 7) (h : BitVec 6) (o : BitVec 2) : Statement (.cas64 v a h o) := by
  intro _ h; cases h
  rw [decode, packMem_maj]; change decode44 _ = _
  simp (disch := omega) only [decode44, packMem_maj, packMem_v, packMem_a, packMem_h, packMem_o, packMem_f, ext_high, ext_low, ext_all, Nat.reduceSub]; rfl
theorem redadd (v : BitVec 7) (a : BitVec 7) (h : BitVec 6) (o : BitVec 2) : Statement (.redadd v a h o) := by
  intro _ h; cases h
  rw [decode, packMem_maj]; change decode45 _ = _
  simp (disch := omega) only [decode45, packMem_maj, packMem_v, packMem_a, packMem_h, packMem_o, packMem_f, ext_high, ext_low, ext_all, Nat.reduceSub]; rfl
theorem redmin (v : BitVec 7) (a : BitVec 7) (h : BitVec 6) (o : BitVec 2) : Statement (.redmin v a h o) := by
  intro _ h; cases h
  rw [decode, packMem_maj]; change decode45 _ = _
  simp (disch := omega) only [decode45, packMem_maj, packMem_v, packMem_a, packMem_h, packMem_o, packMem_f, ext_high, ext_low, ext_all, Nat.reduceSub]; rfl
theorem redmax (v : BitVec 7) (a : BitVec 7) (h : BitVec 6) (o : BitVec 2) : Statement (.redmax v a h o) := by
  intro _ h; cases h
  rw [decode, packMem_maj]; change decode45 _ = _
  simp (disch := omega) only [decode45, packMem_maj, packMem_v, packMem_a, packMem_h, packMem_o, packMem_f, ext_high, ext_low, ext_all, Nat.reduceSub]; rfl
theorem redand (v : BitVec 7) (a : BitVec 7) (h : BitVec 6) (o : BitVec 2) : Statement (.redand v a h o) := by
  intro _ h; cases h
  rw [decode, packMem_maj]; change decode45 _ = _
  simp (disch := omega) only [decode45, packMem_maj, packMem_v, packMem_a, packMem_h, packMem_o, packMem_f, ext_high, ext_low, ext_all, Nat.reduceSub]; rfl
theorem redor (v : BitVec 7) (a : BitVec 7) (h : BitVec 6) (o : BitVec 2) : Statement (.redor v a h o) := by
  intro _ h; cases h
  rw [decode, packMem_maj]; change decode45 _ = _
  simp (disch := omega) only [decode45, packMem_maj, packMem_v, packMem_a, packMem_h, packMem_o, packMem_f, ext_high, ext_low, ext_all, Nat.reduceSub]; rfl
theorem redxor (v : BitVec 7) (a : BitVec 7) (h : BitVec 6) (o : BitVec 2) : Statement (.redxor v a h o) := by
  intro _ h; cases h
  rw [decode, packMem_maj]; change decode45 _ = _
  simp (disch := omega) only [decode45, packMem_maj, packMem_v, packMem_a, packMem_h, packMem_o, packMem_f, ext_high, ext_low, ext_all, Nat.reduceSub]; rfl
theorem redfadd (v : BitVec 7) (a : BitVec 7) (h : BitVec 6) (o : BitVec 2) : Statement (.redfadd v a h o) := by
  intro _ h; cases h
  rw [decode, packMem_maj]; change decode45 _ = _
  simp (disch := omega) only [decode45, packMem_maj, packMem_v, packMem_a, packMem_h, packMem_o, packMem_f, ext_high, ext_low, ext_all, Nat.reduceSub]; rfl
theorem redbfadd (v : BitVec 7) (a : BitVec 7) (h : BitVec 6) (o : BitVec 2) : Statement (.redbfadd v a h o) := by
  intro _ h; cases h
  rw [decode, packMem_maj]; change decode45 _ = _
  simp (disch := omega) only [decode45, packMem_maj, packMem_v, packMem_a, packMem_h, packMem_o, packMem_f, ext_high, ext_low, ext_all, Nat.reduceSub]; rfl
theorem sbind (v : BitVec 7) (a : BitVec 7) (h : BitVec 6) : Statement (.sbind v a h) := by
  intro _ h; cases h
  rw [decode, packMem_maj]; change decode46 _ = _
  simp (disch := omega) only [decode46, packMem_maj, packMem_v, packMem_a, packMem_h, packMem_o, packMem_f, ext_high, ext_low, ext_all, Nat.reduceSub]; rfl
theorem sflush (v : BitVec 7) : Statement (.sflush v) := by
  intro _ h; cases h
  rw [decode, packMem_maj]; change decode46 _ = _
  simp (disch := omega) only [decode46, packMem_maj, packMem_v, packMem_a, packMem_h, packMem_o, packMem_f, ext_high, ext_low, ext_all, Nat.reduceSub]; rfl
theorem sdrop (v : BitVec 7) : Statement (.sdrop v) := by
  intro _ h; cases h
  rw [decode, packMem_maj]; change decode46 _ = _
  simp (disch := omega) only [decode46, packMem_maj, packMem_v, packMem_a, packMem_h, packMem_o, packMem_f, ext_high, ext_low, ext_all, Nat.reduceSub]; rfl
theorem pref (a : BitVec 7) (h : BitVec 6) : Statement (.pref a h) := by
  intro _ h; cases h
  rw [decode, packMem_maj]; change decode46 _ = _
  simp (disch := omega) only [decode46, packMem_maj, packMem_v, packMem_a, packMem_h, packMem_o, packMem_f, ext_high, ext_low, ext_all, Nat.reduceSub]; rfl
theorem cflush (a : BitVec 7) (h : BitVec 6) : Statement (.cflush a h) := by
  intro _ h; cases h
  rw [decode, packMem_maj]; change decode46 _ = _
  simp (disch := omega) only [decode46, packMem_maj, packMem_v, packMem_a, packMem_h, packMem_o, packMem_f, ext_high, ext_low, ext_all, Nat.reduceSub]; rfl
theorem texs (a : BitVec 7) (b : BitVec 7) : Statement (.texs a b) := by
  intro _ h; cases h
  rw [decode, packReg_maj]; change decode48 _ = _
  simp (disch := omega) only [decode48, packReg_maj, packReg_d, packReg_a, packReg_b, packReg_w, packReg_f, ext_high, ext_low, ext_all, Nat.reduceSub]; rfl
theorem texl (a : BitVec 7) (b : BitVec 7) : Statement (.texl a b) := by
  intro _ h; cases h
  rw [decode, packReg_maj]; change decode48 _ = _
  simp (disch := omega) only [decode48, packReg_maj, packReg_d, packReg_a, packReg_b, packReg_w, packReg_f, ext_high, ext_low, ext_all, Nat.reduceSub]; rfl
theorem texg (a : BitVec 7) (b : BitVec 7) : Statement (.texg a b) := by
  intro _ h; cases h
  rw [decode, packReg_maj]; change decode48 _ = _
  simp (disch := omega) only [decode48, packReg_maj, packReg_d, packReg_a, packReg_b, packReg_w, packReg_f, ext_high, ext_low, ext_all, Nat.reduceSub]; rfl
theorem texq (a : BitVec 7) (b : BitVec 7) : Statement (.texq a b) := by
  intro _ h; cases h
  rw [decode, packReg_maj]; change decode48 _ = _
  simp (disch := omega) only [decode48, packReg_maj, packReg_d, packReg_a, packReg_b, packReg_w, packReg_f, ext_high, ext_low, ext_all, Nat.reduceSub]; rfl
theorem rbegin (d : BitVec 7) (a : BitVec 7) (w : BitVec 1) : Statement (.rbegin d a w) := by
  intro _ h; cases h
  rw [decode, packReg_maj]; change decode49 _ = _
  simp (disch := omega) only [decode49, packReg_maj, packReg_d, packReg_a, packReg_b, packReg_w, packReg_f, ext_high, ext_low, ext_all, Nat.reduceSub]; rfl
theorem rdraw (d : BitVec 7) (a : BitVec 7) (b : BitVec 7) (w : BitVec 1) : Statement (.rdraw d a b w) := by
  intro _ h; cases h
  rw [decode, packReg_maj]; change decode49 _ = _
  simp (disch := omega) only [decode49, packReg_maj, packReg_d, packReg_a, packReg_b, packReg_w, packReg_f, ext_high, ext_low, ext_all, Nat.reduceSub]; rfl
theorem rflush (d : BitVec 7) (a : BitVec 7) (w : BitVec 1) : Statement (.rflush d a w) := by
  intro _ h; cases h
  rw [decode, packReg_maj]; change decode49 _ = _
  simp (disch := omega) only [decode49, packReg_maj, packReg_d, packReg_a, packReg_b, packReg_w, packReg_f, ext_high, ext_low, ext_all, Nat.reduceSub]; rfl
theorem mma (t : BitVec 5) (a : BitVec 7) (z : BitVec 1) (f : BitVec 3) : Statement (.mma t a z f) := by
  intro _ h; cases h
  rw [decode, packTil_maj]; change decode50 _ = _
  simp (disch := omega) only [decode50, packTil_maj, packTil_t, packTil_a, packTil_b, packTil_x, packTil_z, packTil_f, ext_high, ext_low, ext_all, Nat.reduceSub]; rfl
theorem mmas (t : BitVec 5) (a : BitVec 7) (b : BitVec 7) (x : BitVec 2) (z : BitVec 1) (f : BitVec 3) : Statement (.mmas t a b x z f) := by
  intro _ h; cases h
  rw [decode, packTil_maj]; change decode51 _ = _
  simp (disch := omega) only [decode51, packTil_maj, packTil_t, packTil_a, packTil_b, packTil_x, packTil_z, packTil_f, ext_high, ext_low, ext_all, Nat.reduceSub]
theorem mlda (t : BitVec 5) (a : BitVec 7) (b : BitVec 7) (x : BitVec 2) (z : BitVec 1) : Statement (.mlda t a b x z) := by
  intro _ h; cases h
  rw [decode, packTil_maj]; change decode52 _ = _
  simp (disch := omega) only [decode52, packTil_maj, packTil_t, packTil_a, packTil_b, packTil_x, packTil_z, packTil_f, ext_high, ext_low, ext_all, Nat.reduceSub]; rfl
theorem mldw (t : BitVec 5) (a : BitVec 7) (b : BitVec 7) (x : BitVec 2) : Statement (.mldw t a b x) := by
  intro _ h; cases h
  rw [decode, packTil_maj]; change decode52 _ = _
  simp (disch := omega) only [decode52, packTil_maj, packTil_t, packTil_a, packTil_b, packTil_x, packTil_z, packTil_f, ext_high, ext_low, ext_all, Nat.reduceSub]; rfl
theorem macz (t : BitVec 5) : Statement (.macz t) := by
  intro _ h; cases h
  rw [decode, packTil_maj]; change decode52 _ = _
  simp (disch := omega) only [decode52, packTil_maj, packTil_t, packTil_a, packTil_b, packTil_x, packTil_z, packTil_f, ext_high, ext_low, ext_all, Nat.reduceSub]; rfl
theorem macld (t : BitVec 5) (a : BitVec 7) : Statement (.macld t a) := by
  intro _ h; cases h
  rw [decode, packTil_maj]; change decode52 _ = _
  simp (disch := omega) only [decode52, packTil_maj, packTil_t, packTil_a, packTil_b, packTil_x, packTil_z, packTil_f, ext_high, ext_low, ext_all, Nat.reduceSub]; rfl
theorem macst (t : BitVec 5) (a : BitVec 7) : Statement (.macst t a) := by
  intro _ h; cases h
  rw [decode, packTil_maj]; change decode52 _ = _
  simp (disch := omega) only [decode52, packTil_maj, packTil_t, packTil_a, packTil_b, packTil_x, packTil_z, packTil_f, ext_high, ext_low, ext_all, Nat.reduceSub]; rfl
theorem mrow (t : BitVec 5) (a : BitVec 7) : Statement (.mrow t a) := by
  intro _ h; cases h
  rw [decode, packTil_maj]; change decode52 _ = _
  simp (disch := omega) only [decode52, packTil_maj, packTil_t, packTil_a, packTil_b, packTil_x, packTil_z, packTil_f, ext_high, ext_low, ext_all, Nat.reduceSub]; rfl
theorem msync : Statement .msync := by
  intro _ h; cases h
  rw [decode, packTil_maj]; change decode52 _ = _
  simp (disch := omega) only [decode52, packTil_maj, packTil_t, packTil_a, packTil_b, packTil_x, packTil_z, packTil_f, ext_high, ext_low, ext_all, Nat.reduceSub]; rfl
theorem mcfg (t : BitVec 5) (a : BitVec 7) : Statement (.mcfg t a) := by
  intro _ h; cases h
  rw [decode, packTil_maj]; change decode52 _ = _
  simp (disch := omega) only [decode52, packTil_maj, packTil_t, packTil_a, packTil_b, packTil_x, packTil_z, packTil_f, ext_high, ext_low, ext_all, Nat.reduceSub]; rfl
theorem mpop (d : BitVec 7) (w : BitVec 1) : Statement (.mpop d w) := by
  intro _ h; cases h
  rw [decode, packReg_maj]; change decode53 _ = _
  simp (disch := omega) only [decode53, packReg_maj, packReg_d, packReg_a, packReg_b, packReg_w, packReg_f, ext_high, ext_low, ext_all, Nat.reduceSub]; rfl
theorem mpopb (d : BitVec 7) (w : BitVec 1) : Statement (.mpopb d w) := by
  intro _ h; cases h
  rw [decode, packReg_maj]; change decode53 _ = _
  simp (disch := omega) only [decode53, packReg_maj, packReg_d, packReg_a, packReg_b, packReg_w, packReg_f, ext_high, ext_low, ext_all, Nat.reduceSub]; rfl
theorem frcopy (k : BitVec 3) (a : BitVec 7) (b : BitVec 7) : Statement (.frcopy k a b) := by
  intro _ h; cases h
  rw [decode, packCpy_maj]; change decode54 _ = _
  simp (disch := omega) only [decode54, packCpy_maj, packCpy_k, packCpy_a, packCpy_b, packCpy_fixed3, packCpy_f, ext_high, ext_low, ext_all, Nat.reduceSub]; rfl
theorem frfill (k : BitVec 3) (a : BitVec 7) (b : BitVec 7) : Statement (.frfill k a b) := by
  intro _ h; cases h
  rw [decode, packCpy_maj]; change decode54 _ = _
  simp (disch := omega) only [decode54, packCpy_maj, packCpy_k, packCpy_a, packCpy_b, packCpy_fixed3, packCpy_f, ext_high, ext_low, ext_all, Nat.reduceSub]; rfl
theorem frgath (k : BitVec 3) (a : BitVec 7) (b : BitVec 7) : Statement (.frgath k a b) := by
  intro _ h; cases h
  rw [decode, packCpy_maj]; change decode54 _ = _
  simp (disch := omega) only [decode54, packCpy_maj, packCpy_k, packCpy_a, packCpy_b, packCpy_fixed3, packCpy_f, ext_high, ext_low, ext_all, Nat.reduceSub]; rfl
theorem frscat (k : BitVec 3) (a : BitVec 7) (b : BitVec 7) : Statement (.frscat k a b) := by
  intro _ h; cases h
  rw [decode, packCpy_maj]; change decode54 _ = _
  simp (disch := omega) only [decode54, packCpy_maj, packCpy_k, packCpy_a, packCpy_b, packCpy_fixed3, packCpy_f, ext_high, ext_low, ext_all, Nat.reduceSub]; rfl
theorem frred (k : BitVec 3) (a : BitVec 7) (b : BitVec 7) : Statement (.frred k a b) := by
  intro _ h; cases h
  rw [decode, packCpy_maj]; change decode54 _ = _
  simp (disch := omega) only [decode54, packCpy_maj, packCpy_k, packCpy_a, packCpy_b, packCpy_fixed3, packCpy_f, ext_high, ext_low, ext_all, Nat.reduceSub]; rfl
theorem frpf (k : BitVec 3) (a : BitVec 7) (b : BitVec 7) : Statement (.frpf k a b) := by
  intro _ h; cases h
  rw [decode, packCpy_maj]; change decode54 _ = _
  simp (disch := omega) only [decode54, packCpy_maj, packCpy_k, packCpy_a, packCpy_b, packCpy_fixed3, packCpy_f, ext_high, ext_low, ext_all, Nat.reduceSub]; rfl
theorem spawn (d : BitVec 7) (a : BitVec 7) (b : BitVec 7) (w : BitVec 1) : Statement (.spawn d a b w) := by
  intro _ h; cases h
  rw [decode, packReg_maj]; change decode56 _ = _
  simp (disch := omega) only [decode56, packReg_maj, packReg_d, packReg_a, packReg_b, packReg_w, packReg_f, ext_high, ext_low, ext_all, Nat.reduceSub]; rfl
theorem join (d : BitVec 7) (a : BitVec 7) (b : BitVec 7) (w : BitVec 1) : Statement (.join d a b w) := by
  intro _ h; cases h
  rw [decode, packReg_maj]; change decode56 _ = _
  simp (disch := omega) only [decode56, packReg_maj, packReg_d, packReg_a, packReg_b, packReg_w, packReg_f, ext_high, ext_low, ext_all, Nat.reduceSub]; rfl
theorem enq (d : BitVec 7) (a : BitVec 7) (b : BitVec 7) (w : BitVec 1) : Statement (.enq d a b w) := by
  intro _ h; cases h
  rw [decode, packReg_maj]; change decode56 _ = _
  simp (disch := omega) only [decode56, packReg_maj, packReg_d, packReg_a, packReg_b, packReg_w, packReg_f, ext_high, ext_low, ext_all, Nat.reduceSub]; rfl
theorem deq (d : BitVec 7) (a : BitVec 7) (b : BitVec 7) (w : BitVec 1) : Statement (.deq d a b w) := by
  intro _ h; cases h
  rw [decode, packReg_maj]; change decode56 _ = _
  simp (disch := omega) only [decode56, packReg_maj, packReg_d, packReg_a, packReg_b, packReg_w, packReg_f, ext_high, ext_low, ext_all, Nat.reduceSub]; rfl
theorem launch (d : BitVec 7) (a : BitVec 7) (b : BitVec 7) (w : BitVec 1) : Statement (.launch d a b w) := by
  intro _ h; cases h
  rw [decode, packReg_maj]; change decode56 _ = _
  simp (disch := omega) only [decode56, packReg_maj, packReg_d, packReg_a, packReg_b, packReg_w, packReg_f, ext_high, ext_low, ext_all, Nat.reduceSub]; rfl
theorem cancel (a : BitVec 7) (w : BitVec 1) : Statement (.cancel a w) := by
  intro _ h; cases h
  rw [decode, packReg_maj]; change decode56 _ = _
  simp (disch := omega) only [decode56, packReg_maj, packReg_d, packReg_a, packReg_b, packReg_w, packReg_f, ext_high, ext_low, ext_all, Nat.reduceSub]; rfl
theorem cntrd (d : BitVec 7) (a : BitVec 7) (w : BitVec 1) : Statement (.cntrd d a w) := by
  intro _ h; cases h
  rw [decode, packReg_maj]; change decode56 _ = _
  simp (disch := omega) only [decode56, packReg_maj, packReg_d, packReg_a, packReg_b, packReg_w, packReg_f, ext_high, ext_low, ext_all, Nat.reduceSub]; rfl
theorem lwait (d : BitVec 7) (a : BitVec 7) (w : BitVec 1) : Statement (.lwait d a w) := by
  intro _ h; cases h
  rw [decode, packReg_maj]; change decode58 _ = _
  simp (disch := omega) only [decode58, packReg_maj, packReg_d, packReg_a, packReg_b, packReg_w, packReg_f, ext_high, ext_low, ext_all, Nat.reduceSub]; rfl
theorem lemit (d : BitVec 7) (a : BitVec 7) (b : BitVec 7) (w : BitVec 1) : Statement (.lemit d a b w) := by
  intro _ h; cases h
  rw [decode, packReg_maj]; change decode58 _ = _
  simp (disch := omega) only [decode58, packReg_maj, packReg_d, packReg_a, packReg_b, packReg_w, packReg_f, ext_high, ext_low, ext_all, Nat.reduceSub]; rfl
theorem mesrch (a : BitVec 7) (b : BitVec 7) : Statement (.mesrch a b) := by
  intro _ h; cases h
  rw [decode, packReg_maj]; change decode58 _ = _
  simp (disch := omega) only [decode58, packReg_maj, packReg_d, packReg_a, packReg_b, packReg_w, packReg_f, ext_high, ext_low, ext_all, Nat.reduceSub]; rfl
theorem warpb (a : BitVec 7) (b : BitVec 7) : Statement (.warpb a b) := by
  intro _ h; cases h
  rw [decode, packReg_maj]; change decode58 _ = _
  simp (disch := omega) only [decode58, packReg_maj, packReg_d, packReg_a, packReg_b, packReg_w, packReg_f, ext_high, ext_low, ext_all, Nat.reduceSub]; rfl
theorem fbset (d : BitVec 7) (a : BitVec 7) (b : BitVec 7) (w : BitVec 1) : Statement (.fbset d a b w) := by
  intro _ h; cases h
  rw [decode, packReg_maj]; change decode58 _ = _
  simp (disch := omega) only [decode58, packReg_maj, packReg_d, packReg_a, packReg_b, packReg_w, packReg_f, ext_high, ext_low, ext_all, Nat.reduceSub]; rfl
theorem tmstat (d : BitVec 7) (a : BitVec 7) (w : BitVec 1) : Statement (.tmstat d a w) := by
  intro _ h; cases h
  rw [decode, packReg_maj]; change decode58 _ = _
  simp (disch := omega) only [decode58, packReg_maj, packReg_d, packReg_a, packReg_b, packReg_w, packReg_f, ext_high, ext_low, ext_all, Nat.reduceSub]; rfl
theorem dlread (d : BitVec 7) (a : BitVec 7) (w : BitVec 1) : Statement (.dlread d a w) := by
  intro _ h; cases h
  rw [decode, packReg_maj]; change decode58 _ = _
  simp (disch := omega) only [decode58, packReg_maj, packReg_d, packReg_a, packReg_b, packReg_w, packReg_f, ext_high, ext_low, ext_all, Nat.reduceSub]; rfl
theorem trap (a : BitVec 7) : Statement (.trap a) := by
  intro _ h; cases h
  rw [decode, packReg_maj]; change decode60 _ = _
  simp (disch := omega) only [decode60, packReg_maj, packReg_d, packReg_a, packReg_b, packReg_w, packReg_f, ext_high, ext_low, ext_all, Nat.reduceSub]; rfl
theorem rdsr (d : BitVec 7) (b : BitVec 7) (w : BitVec 1) : Statement (.rdsr d b w) := by
  intro _ h; cases h
  rw [decode, packReg_maj]; change decode60 _ = _
  simp (disch := omega) only [decode60, packReg_maj, packReg_d, packReg_a, packReg_b, packReg_w, packReg_f, ext_high, ext_low, ext_all, Nat.reduceSub]; rfl
theorem wrsr (a : BitVec 7) (b : BitVec 7) : Statement (.wrsr a b) := by
  intro _ h; cases h
  rw [decode, packReg_maj]; change decode60 _ = _
  simp (disch := omega) only [decode60, packReg_maj, packReg_d, packReg_a, packReg_b, packReg_w, packReg_f, ext_high, ext_low, ext_all, Nat.reduceSub]; rfl
theorem cyc (d : BitVec 7) (w : BitVec 1) : Statement (.cyc d w) := by
  intro _ h; cases h
  rw [decode, packReg_maj]; change decode60 _ = _
  simp (disch := omega) only [decode60, packReg_maj, packReg_d, packReg_a, packReg_b, packReg_w, packReg_f, ext_high, ext_low, ext_all, Nat.reduceSub]; rfl
theorem eret : Statement .eret := by
  intro _ h; cases h
  rw [decode, packReg_maj]; change decode60 _ = _
  simp (disch := omega) only [decode60, packReg_maj, packReg_d, packReg_a, packReg_b, packReg_w, packReg_f, ext_high, ext_low, ext_all, Nat.reduceSub]; rfl
theorem brk : Statement .brk := by
  intro _ h; cases h
  rw [decode, packReg_maj]; change decode60 _ = _
  simp (disch := omega) only [decode60, packReg_maj, packReg_d, packReg_a, packReg_b, packReg_w, packReg_f, ext_high, ext_low, ext_all, Nat.reduceSub]; rfl
theorem scall (a : BitVec 7) : Statement (.scall a) := by
  intro _ h; cases h
  rw [decode, packReg_maj]; change decode60 _ = _
  simp (disch := omega) only [decode60, packReg_maj, packReg_d, packReg_a, packReg_b, packReg_w, packReg_f, ext_high, ext_low, ext_all, Nat.reduceSub]; rfl
theorem halt : Statement .halt := by
  intro _ h; cases h
  rw [decode, packReg_maj]; change decode60 _ = _
  simp (disch := omega) only [decode60, packReg_maj, packReg_d, packReg_a, packReg_b, packReg_w, packReg_f, ext_high, ext_low, ext_all, Nat.reduceSub]; rfl
theorem mseal (d : BitVec 7) (a : BitVec 7) (b : BitVec 7) : Statement (.mseal d a b) := by
  intro _ h; cases h
  rw [decode, packReg_maj]; change decode61 _ = _
  simp (disch := omega) only [decode61, packReg_maj, packReg_d, packReg_a, packReg_b, packReg_w, packReg_f, ext_high, ext_low, ext_all, Nat.reduceSub]; rfl
theorem mharv (d : BitVec 7) (a : BitVec 7) (b : BitVec 7) : Statement (.mharv d a b) := by
  intro _ h; cases h
  rw [decode, packReg_maj]; change decode61 _ = _
  simp (disch := omega) only [decode61, packReg_maj, packReg_d, packReg_a, packReg_b, packReg_w, packReg_f, ext_high, ext_low, ext_all, Nat.reduceSub]; rfl
theorem mquery (d : BitVec 7) (a : BitVec 7) (b : BitVec 7) : Statement (.mquery d a b) := by
  intro _ h; cases h
  rw [decode, packReg_maj]; change decode61 _ = _
  simp (disch := omega) only [decode61, packReg_maj, packReg_d, packReg_a, packReg_b, packReg_w, packReg_f, ext_high, ext_low, ext_all, Nat.reduceSub]; rfl
theorem mretire (d : BitVec 7) (a : BitVec 7) (b : BitVec 7) : Statement (.mretire d a b) := by
  intro _ h; cases h
  rw [decode, packReg_maj]; change decode61 _ = _
  simp (disch := omega) only [decode61, packReg_maj, packReg_d, packReg_a, packReg_b, packReg_w, packReg_f, ext_high, ext_low, ext_all, Nat.reduceSub]; rfl
theorem tlbinv (a : BitVec 7) (b : BitVec 7) : Statement (.tlbinv a b) := by
  intro _ h; cases h
  rw [decode, packReg_maj]; change decode62 _ = _
  simp (disch := omega) only [decode62, packReg_maj, packReg_d, packReg_a, packReg_b, packReg_w, packReg_f, ext_high, ext_low, ext_all, Nat.reduceSub]; rfl
theorem tlbinva (b : BitVec 7) : Statement (.tlbinva b) := by
  intro _ h; cases h
  rw [decode, packReg_maj]; change decode62 _ = _
  simp (disch := omega) only [decode62, packReg_maj, packReg_d, packReg_a, packReg_b, packReg_w, packReg_f, ext_high, ext_low, ext_all, Nat.reduceSub]; rfl
theorem hintConst (k : BitVec 22) : Statement (.hintConst k) := by
  intro _ h; cases h
  rw [decode, packHnt_fixed25]; change decode7F _ = _
  simp (disch := omega) only [decode7F, packHnt_fixed25, packHnt_k, packHnt_n, fld_hnt, ext_high, ext_low, ext_all, Nat.reduceSub]; rfl
theorem hintGuard (p : BitVec 3) (x : BitVec 1) (n : BitVec 4) : Statement (.hintGuard p x n) := by
  intro _ h; cases h
  rw [decode, packHnt_fixed25]; change decode7F _ = _
  simp (disch := omega) only [decode7F, packHnt_fixed25, packHnt_k, packHnt_n, fld_hnt, ext_high, ext_low, ext_all, Nat.reduceSub]; rfl
theorem hintHold (n : BitVec 4) : Statement (.hintHold n) := by
  intro _ h; cases h
  rw [decode, packHnt_fixed25]; change decode7F _ = _
  simp (disch := omega) only [decode7F, packHnt_fixed25, packHnt_k, packHnt_n, fld_hnt, ext_high, ext_low, ext_all, Nat.reduceSub]; rfl
theorem hintScope (x : BitVec 4) (o : BitVec 2) : Statement (.hintScope x o) := by
  intro _ h; cases h
  rw [decode, packHnt_fixed25]; change decode7F _ = _
  simp (disch := omega) only [decode7F, packHnt_fixed25, packHnt_k, packHnt_n, fld_hnt, ext_high, ext_low, ext_all, Nat.reduceSub]; rfl
theorem hintRound (m : BitVec 3) : Statement (.hintRound m) := by
  intro _ h; cases h
  rw [decode, packHnt_fixed25]; change decode7F _ = _
  simp (disch := omega) only [decode7F, packHnt_fixed25, packHnt_k, packHnt_n, fld_hnt, ext_high, ext_low, ext_all, Nat.reduceSub]; rfl
theorem hintMod (t : BitVec 2) (f : BitVec 2) (a : BitVec 1) (b : BitVec 1) (c : BitVec 1) : Statement (.hintMod t f a b c) := by
  intro _ h; cases h
  rw [decode, packHnt_fixed25]; change decode7F _ = _
  simp (disch := omega) only [decode7F, packHnt_fixed25, packHnt_k, packHnt_n, fld_hnt, ext_high, ext_low, ext_all, Nat.reduceSub]; rfl
theorem hintSched (n : BitVec 6) (y : BitVec 1) : Statement (.hintSched n y) := by
  intro _ h; cases h
  rw [decode, packHnt_fixed25]; change decode7F _ = _
  simp (disch := omega) only [decode7F, packHnt_fixed25, packHnt_k, packHnt_n, fld_hnt, ext_high, ext_low, ext_all, Nat.reduceSub]; rfl
theorem loadDataReturn (consist : Nat) (lane : Nat) (n : Nat) : Statement (.loadDataReturn consist lane n) := nofun
theorem variableLatencyComplete (consist : Nat) (n : Nat) : Statement (.variableLatencyComplete consist n) := nofun
theorem qlockDetect (consist : Nat) : Statement (.qlockDetect consist) := nofun
theorem runDeferral (consist : Nat) (aStream : Bool) (blocked : Bool) : Statement (.runDeferral consist aStream blocked) := nofun
theorem registerTierMove (consist : Nat) : Statement (.registerTierMove consist) := nofun
theorem registerTierRecall (consist : Nat) : Statement (.registerTierRecall consist) := nofun
theorem asyncTrapDelivery (consist : Nat) : Statement (.asyncTrapDelivery consist) := nofun
theorem consistExitReport (consist : Nat) : Statement (.consistExitReport consist) := nofun
theorem sideLogReplay (core : Nat) : Statement (.sideLogReplay core) := nofun
theorem tlbProbe (core : Nat) (sess : Nat) (va : Nat) : Statement (.tlbProbe core sess va) := nofun
theorem pageWalk (core : Nat) (sess : Nat) (va : Nat) (write : Bool) : Statement (.pageWalk core sess va write) := nofun
theorem faultRecordPost (sess : Nat) : Statement (.faultRecordPost sess) := nofun
theorem cowBreak (sess : Nat) (va : Nat) : Statement (.cowBreak sess va) := nofun
theorem tileExecute (consist : Nat) : Statement (.tileExecute consist) := nofun
theorem tileComplete (consist : Nat) : Statement (.tileComplete consist) := nofun
theorem rowQueueGrant (core : Nat) : Statement (.rowQueueGrant core) := nofun
theorem mrowPush (consist : Nat) : Statement (.mrowPush consist) := nofun
theorem freightOperationStart (sess : Nat) (ctx : Nat) : Statement (.freightOperationStart sess ctx) := nofun
theorem freightOperationComplete (sess : Nat) (ctx : Nat) : Statement (.freightOperationComplete sess ctx) := nofun
theorem freightFault (sess : Nat) (ctx : Nat) : Statement (.freightFault sess ctx) := nofun
theorem freightAssemblyAbandon (convoy : Nat) (ctx : Nat) : Statement (.freightAssemblyAbandon convoy ctx) := nofun
theorem convoyExpand (core : Nat) : Statement (.convoyExpand core) := nofun
theorem engineJoin (sess : Nat) (slot : Nat) : Statement (.engineJoin sess slot) := nofun
theorem partitionFlip (die : Nat) : Statement (.partitionFlip die) := nofun
theorem contextSwap (core : Nat) : Statement (.contextSwap core) := nofun
theorem convoyResume (core : Nat) : Statement (.convoyResume core) := nofun
theorem rasterDrawBin (station : Nat) : Statement (.rasterDrawBin station) := nofun
theorem rasterPassComplete (station : Nat) : Statement (.rasterPassComplete station) := nofun
theorem rasterFault (station : Nat) : Statement (.rasterFault station) := nofun
theorem rasterPassAbandon (station : Nat) (slot : Nat) : Statement (.rasterPassAbandon station slot) := nofun
theorem textureResult (consist : Nat) (lane : Nat) (n : Nat) : Statement (.textureResult consist lane n) := nofun
theorem bandWindowOpen (die : Nat) (stream : Nat) : Statement (.bandWindowOpen die stream) := nofun
theorem preparedImageReady (die : Nat) (stream : Nat) : Statement (.preparedImageReady die stream) := nofun
theorem lemitCopyComplete (die : Nat) (stream : Nat) : Statement (.lemitCopyComplete die stream) := nofun
theorem fbsetCopyComplete (die : Nat) (stream : Nat) : Statement (.fbsetCopyComplete die stream) := nofun
theorem warpbComplete (die : Nat) (stream : Nat) : Statement (.warpbComplete die stream) := nofun
theorem mesrchResult (die : Nat) (stream : Nat) : Statement (.mesrchResult die stream) := nofun
theorem bandSettle (die : Nat) (stream : Nat) : Statement (.bandSettle die stream) := nofun
theorem tapHistoryWrite (die : Nat) (stream : Nat) : Statement (.tapHistoryWrite die stream) := nofun
theorem encoderTap (die : Nat) (stream : Nat) : Statement (.encoderTap die stream) := nofun
theorem encoderTileRow (die : Nat) (stream : Nat) : Statement (.encoderTileRow die stream) := nofun
theorem streamStopEffect (die : Nat) (stream : Nat) : Statement (.streamStopEffect die stream) := nofun
theorem streamMove (die : Nat) (stream : Nat) : Statement (.streamMove die stream) := nofun
theorem sealHash (sess : Nat) (n : Nat) : Statement (.sealHash sess n) := nofun
theorem sealLookup (sess : Nat) (n : Nat) : Statement (.sealLookup sess n) := nofun
theorem sealCommit (sess : Nat) (n : Nat) : Statement (.sealCommit sess n) := nofun
theorem sealAbort (sess : Nat) (n : Nat) : Statement (.sealAbort sess n) := nofun
theorem quiescenceVisit (sess : Nat) (va : Nat) : Statement (.quiescenceVisit sess va) := nofun
theorem manifestRequestComplete (sess : Nat) : Statement (.manifestRequestComplete sess) := nofun
theorem keyRevokeComplete (die : Nat) (slot : Nat) : Statement (.keyRevokeComplete die slot) := nofun
theorem transferTablesMoved (sess : Nat) : Statement (.transferTablesMoved sess) := nofun
theorem frameDrift (sess : Nat) (frame : Nat) : Statement (.frameDrift sess frame) := nofun
theorem transferComplete (sess : Nat) : Statement (.transferComplete sess) := nofun
theorem slipComplete (sess : Nat) : Statement (.slipComplete sess) := nofun
theorem sessParkComplete (sess : Nat) : Statement (.sessParkComplete sess) := nofun
theorem depotEndProceed (sess : Nat) : Statement (.depotEndProceed sess) := nofun
theorem sessEndComplete (sess : Nat) : Statement (.sessEndComplete sess) := nofun
theorem submitResume (q : Nat) : Statement (.submitResume q) := nofun
theorem sqtail (q : Nat) (value : BitVec 32) : Statement (.sqtail q value) := nofun
theorem restart (q : Nat) : Statement (.restart q) := nofun
theorem commandFetch (q : Nat) : Statement (.commandFetch q) := nofun
theorem forwardedCommand (die : Nat) : Statement (.forwardedCommand die) := nofun
theorem sessNew (q : Nat) (ops : SessNewOps) : Statement (.sessNew q ops) := nofun
theorem sessSlip (q : Nat) (source : Nat) (sess : Nat) (die : Nat) (cores : Nat) : Statement (.sessSlip q source sess die cores) := nofun
theorem sessMove (q : Nat) (sess : Nat) (die : Nat) (cores : Nat) : Statement (.sessMove q sess die cores) := nofun
theorem sessMoveExtend (q : Nat) (sess : Nat) (die : Nat) (cores : Nat) : Statement (.sessMoveExtend q sess die cores) := nofun
theorem sessEnd (q : Nat) (sess : Nat) : Statement (.sessEnd q sess) := nofun
theorem sessEndPark (q : Nat) (sess : Nat) : Statement (.sessEndPark q sess) := nofun
theorem sessEndKill (q : Nat) (sess : Nat) : Statement (.sessEndKill q sess) := nofun
theorem keyLoad (q : Nat) (slot : Nat) (die : Nat) (blob : Nat) : Statement (.keyLoad q slot die blob) := nofun
theorem keyDrop (q : Nat) (slot : Nat) (die : Nat) : Statement (.keyDrop q slot die) := nofun
theorem layoutPut (q : Nat) (sess : Nat) (ctx : Nat) (layout : Nat) (record : Nat) : Statement (.layoutPut q sess ctx layout record) := nofun
theorem layoutPutReset (q : Nat) (sess : Nat) (ctx : Nat) : Statement (.layoutPutReset q sess ctx) := nofun
theorem submit (q : Nat) (sess : Nat) (waybill : Nat) (rank : Nat) (sup : Bool) : Statement (.submit q sess waybill rank sup) := nofun
theorem streamSetStart (q : Nat) (ops : StreamOps) : Statement (.streamSetStart q ops) := nofun
theorem streamSetStop (q : Nat) (sess : Nat) (stream : Nat) : Statement (.streamSetStop q sess stream) := nofun
theorem streamSetRestart (q : Nat) (sess : Nat) (stream : Nat) (header : Nat) (frame : BitVec 64) : Statement (.streamSetRestart q sess stream header frame) := nofun
theorem attest (q : Nat) (sess : Option Nat) (nonce : BitVec 256) (buffer : Nat) : Statement (.attest q sess nonce buffer) := nofun
theorem capsRead (q : Nat) (buffer : Nat) (len : Nat) : Statement (.capsRead q buffer len) := nofun
theorem rasLog (q : Nat) (buffer : Nat) (len : Nat) (clear : Bool) : Statement (.rasLog q buffer len clear) := nofun
theorem hostAccess (func : Nat) (addr : Nat) (size : Nat) (write : Bool) (data : BitVec 64) : Statement (.hostAccess func addr size write data) := nofun
theorem dieLinkFlit (src : Nat) (dst : Nat) (good : Bool) : Statement (.dieLinkFlit src dst good) := nofun
theorem linkResync (src : Nat) (dst : Nat) : Statement (.linkResync src dst) := nofun
theorem linkDown (src : Nat) (dst : Nat) : Statement (.linkDown src dst) := nofun
theorem linkRekey (src : Nat) (dst : Nat) : Statement (.linkRekey src dst) := nofun
theorem dieReset (die : Nat) : Statement (.dieReset die) := nofun
theorem uncorrectableError (die : Nat) (ops : ErrorOps) : Statement (.uncorrectableError die ops) := nofun
theorem dramCorrectionReport (die : Nat) (channel : Nat) (count : Nat) : Statement (.dramCorrectionReport die channel count) := nofun
theorem rasctlClr (die : Nat) : Statement (.rasctlClr die) := nofun
theorem injctlArm (die : Nat) (value : BitVec 64) : Statement (.injctlArm die value) := nofun
theorem vfk (die : Nat) (k : Nat) (value : BitVec 64) : Statement (.vfk die k value) := nofun
theorem keyreq (die : Nat) (stream : Nat) : Statement (.keyreq die stream) := nofun
theorem registerWrite (block : RegBlock) (unit : Nat) (offset : Nat) (value : BitVec 64) : Statement (.registerWrite block unit offset value) := nofun
theorem powerAverage (die : Nat) (milliwatts : Nat) : Statement (.powerAverage die milliwatts) := nofun
theorem supplyDip (die : Nat) (station : Nat) : Statement (.supplyDip die station) := nofun
theorem supplyRecovery (die : Nat) (station : Nat) : Statement (.supplyRecovery die station) := nofun
theorem throttle (die : Nat) (sensor : Nat) (reading : BitVec 16) : Statement (.throttle die sensor reading) := nofun
theorem thermalTrip (die : Nat) (sensor : Nat) (reading : BitVec 16) : Statement (.thermalTrip die sensor reading) := nofun
theorem canarySample (die : Nat) (router : Nat) (res : BitVec 16) : Statement (.canarySample die router res) := nofun
theorem routerRetireMark (die : Nat) (router : Nat) : Statement (.routerRetireMark die router) := nofun
theorem routerRetired (die : Nat) (router : Nat) : Statement (.routerRetired die router) := nofun
theorem throttleRelease (die : Nat) (sensor : Nat) (reading : BitVec 16) : Statement (.throttleRelease die sensor reading) := nofun
theorem contestedCycle (die : Nat) (column : Nat) (coreAsks : Bool) (engineAsks : Bool) (deadline : Bool) : Statement (.contestedCycle die column coreAsks engineAsks deadline) := nofun
theorem tdispRequest (func : Nat) (die : Nat) (run : Bool) : Statement (.tdispRequest func die run) := nofun
theorem ideStreamActivation (die : Nat) (stream : Nat) (active : Bool) : Statement (.ideStreamActivation die stream active) := nofun

end Sys2Proof.Laws.RoundTrip
end

