-- ==== Sys2Proof/Laws/Result.lean ====
section
/-!
SUPPORT. Laws of results: where a result goes, and that completing an instruction that only computes changes nothing
else. Each body of such an instruction has one law that says it all: `wrote_of_writeLanes`, `wrotePred_of_writePred`,
`sent_of_launchResult`.
-/

namespace Sys2Proof.Machine

open Sys2Proof

/-- A context with CSW as an instruction's flags leave it. -/
def Ctx.withCsw (x : Ctx) (csw : BitVec 32) : Ctx := { x with c := { x.c with csw := csw } }

theorem Ctx.withCsw_self (x : Ctx) : x.withCsw x.c.csw = x := rfl

theorem State.Keeps.refl (key : Nat) (s : State) : s.Keeps key s := by
  constructor <;> intros <;> rfl

theorem State.Keeps.trans {key : Nat} {a b c : State} (h : a.Keeps key b) (k : b.Keeps key c) : a.Keeps key c where
  agenda := k.agenda.trans h.agenda
  focus := k.focus.trans h.focus
  bytes := fun j => (k.bytes j).trans (h.bytes j)
  host := k.host.trans h.host
  io := k.io.trans h.io
  lines := k.lines.trans h.lines
  texLines := k.texLines.trans h.texLines
  others := fun j hj => (k.others j hj).trans (h.others j hj)
  convoys := k.convoys.trans h.convoys
  sessions := k.sessions.trans h.sessions
  cores := k.cores.trans h.cores
  tlbs := k.tlbs.trans h.tlbs
  stations := k.stations.trans h.stations
  dies := k.dies.trans h.dies
  links := k.links.trans h.links
  queues := k.queues.trans h.queues
  ownership := k.ownership.trans h.ownership
  refs := k.refs.trans h.refs
  grants := k.grants.trans h.grants
  poison := k.poison.trans h.poison
  corrupt := k.corrupt.trans h.corrupt
  commands := k.commands.trans h.commands
  hostRead := k.hostRead.trans h.hostRead

/-- Changes of a consist, of the numbers given out, of the clocks and of the tick are all that `Keeps` lets by. -/
theorem State.Keeps.of_eq {key : Nat} {s t : State}
    (h : t = { s with consists := t.consists, clocks := t.clocks, engineClocks := t.engineClocks, tick := t.tick,
                      nextUid := t.nextUid })
    (ho : ∀ k, k ≠ key → t.consist? k = s.consist? k) : s.Keeps key t where
  agenda := by have e := congrArg State.agenda h; exact e
  focus := by have e := congrArg State.focus h; exact e
  bytes := fun a => by have e := congrArg (fun u => State.byte u a) h; exact e
  host := by have e := congrArg State.hostMem h; exact e
  io := by have e := congrArg State.ioOut h; exact e
  lines := by have e := congrArg State.lines h; exact e
  texLines := by have e := congrArg State.texLines h; exact e
  others := ho
  convoys := by have e := congrArg State.convoys h; exact e
  sessions := by have e := congrArg State.sessions h; exact e
  cores := by have e := congrArg State.cores h; exact e
  tlbs := by have e := congrArg State.engineTlbs h; exact e
  stations := by have e := congrArg State.stations h; exact e
  dies := by have e := congrArg State.dies h; exact e
  links := by have e := congrArg State.links h; exact e
  queues := by have e := congrArg State.queues h; exact e
  ownership := by have e := congrArg State.ownership h; exact e
  refs := by have e := congrArg State.refs h; exact e
  grants := by have e := congrArg State.grants h; exact e
  poison := by have e := congrArg State.poison h; exact e
  corrupt := by have e := congrArg State.corrupt h; exact e
  commands := by have e := congrArg State.commands h; exact e
  hostRead := by have e := congrArg State.hostRead h; exact e

theorem State.keeps_setConsist (s : State) (key : Nat) (c : Consist) : s.Keeps key (s.setConsist key c) :=
  .of_eq rfl (fun k hk => by simp [State.consist?_setConsist, hk])

/-- What a step keeps, it keeps through the front end's turn. -/
theorem State.Keeps.switchIn {x : Ctx} {s u : State} (h : s.Keeps x.key u) : (switchIn x s).Keeps x.key (switchIn x u) where
  agenda := by have e := h.agenda; rw [switchIn_eq x s, switchIn_eq x u]; exact e
  focus := by have e := h.focus; rw [switchIn_eq x s, switchIn_eq x u]; exact e
  bytes := fun a => by rw [byte_switchIn, byte_switchIn]; exact h.bytes a
  host := by have e := h.host; rw [switchIn_eq x s, switchIn_eq x u]; exact e
  io := by have e := h.io; rw [switchIn_eq x s, switchIn_eq x u]; exact e
  lines := by have e := h.lines; rw [switchIn_eq x s, switchIn_eq x u]; exact e
  texLines := by have e := h.texLines; rw [switchIn_eq x s, switchIn_eq x u]; exact e
  others := fun k hk => by
    have e : u.core (coreOf x.key) = s.core (coreOf x.key) := by unfold State.core; rw [h.cores]
    show (u.switchTo x.key x.st).consist? k = (s.switchTo x.key x.st).consist? k
    rw [State.consist?_switchTo, State.consist?_switchTo, e, h.others k hk]
  convoys := by have e := h.convoys; rw [switchIn_eq x s, switchIn_eq x u]; exact e
  sessions := by have e := h.sessions; rw [switchIn_eq x s, switchIn_eq x u]; exact e
  cores := by
    have e : u.core (coreOf x.key) = s.core (coreOf x.key) := by unfold State.core; rw [h.cores]
    rw [cores_switchIn, cores_switchIn, e, h.cores]
  tlbs := by have e := h.tlbs; rw [switchIn_eq x s, switchIn_eq x u]; exact e
  stations := by have e := h.stations; rw [switchIn_eq x s, switchIn_eq x u]; exact e
  dies := by have e := h.dies; rw [switchIn_eq x s, switchIn_eq x u]; exact e
  links := by have e := h.links; rw [switchIn_eq x s, switchIn_eq x u]; exact e
  queues := by have e := h.queues; rw [switchIn_eq x s, switchIn_eq x u]; exact e
  ownership := by have e := h.ownership; rw [switchIn_eq x s, switchIn_eq x u]; exact e
  refs := by have e := h.refs; rw [switchIn_eq x s, switchIn_eq x u]; exact e
  grants := by have e := h.grants; rw [switchIn_eq x s, switchIn_eq x u]; exact e
  poison := by have e := h.poison; rw [switchIn_eq x s, switchIn_eq x u]; exact e
  corrupt := by have e := h.corrupt; rw [switchIn_eq x s, switchIn_eq x u]; exact e
  commands := by have e := h.commands; rw [switchIn_eq x s, switchIn_eq x u]; exact e
  hostRead := by have e := h.hostRead; rw [switchIn_eq x s, switchIn_eq x u]; exact e

/-- What the pops bring is learnt by the clocks alone. -/
theorem State.keeps_learnPops (o : OpInfo) (x : Ctx) (s : State) : s.Keeps x.key (learnPops o x s) :=
  .of_eq (by rw [learnPops_eq]) (fun k _ => consist?_learnPops o x s k)

/-- Completing an instruction keeps everything but its consist. -/
theorem State.keeps_retire (o : OpInfo) (x : Ctx) (u : State) (C : Consist) (hc : u.consist? x.key = some C) :
    u.Keeps x.key (retire o x u) := by
  obtain ⟨q, c', _, _, _, _, h4, h5⟩ := retire_spec o x u C hc
  generalize retire o x u = t at h4 h5
  have e1 : t.tick = u.tick + 1 := by have e := congrArg State.tick h5; exact e
  have e2 : t.nextUid = u.nextUid := by have e := congrArg State.nextUid h5; exact e
  have e3 : t.clocks = u.clocks := by have e := congrArg State.clocks h5; exact e
  have e4 : t.engineClocks = u.engineClocks := by have e := congrArg State.engineClocks h5; exact e
  refine .of_eq ?_ h4
  rw [e1, e2, e3, e4]; exact h5

/-- What completing an instruction makes of its stream: program counters and hints; the rest is the issue unit's own. -/
theorem retired_eq (sx : StreamSt) (o : OpInfo) (run : Lanes) (hints : Hints) (alive : Lanes) :
    ∃ (deferred : Lanes) (headCount : Nat) (headLanes : Lanes) (stalled held : Bool) (wants : Table QWant) (schedLeft : Nat),
      sx.retired o run hints alive = { sx with
        pc := if o.transfer then sx.pc else (lanesOf run).foldl (fun t l => tset t l (tget t l + 4)) sx.pc
        hints := if o.hint then sx.hints else (lanesOf run).foldl (fun t l => tdel l t) sx.hints
        guardLeft := if o.hint then sx.guardLeft else
          (lanesOf run).foldl (fun t l => tset t l (if o.transfer then 0 else tget t l - 1)) sx.guardLeft
        hold := if o.hint then sx.hold else sx.hold - 1
        deferred := deferred, headCount := headCount, headLanes := headLanes, stalled := stalled, held := held
        wants := wants, schedLeft := schedLeft } := by
  have eu : ∀ y : StreamSt, (y.undefer alive) = { y with deferred := (y.undefer alive).deferred } := by
    intro y; unfold StreamSt.undefer; simp only; split <;> rfl
  have es : ∀ (y : StreamSt) h, (y.schedule alive run h) =
      { y with deferred := (y.schedule alive run h).deferred, schedLeft := (y.schedule alive run h).schedLeft } := by
    intro y h; unfold StreamSt.schedule StreamSt.defer; simp only; split <;> rfl
  unfold StreamSt.retired
  simp only
  rw [eu]
  cases hh : o.hint <;> cases ht : o.transfer <;> cases hs : hints.sched
  all_goals first
    | exact ⟨_, _, _, _, _, _, _, rfl⟩
    | (simp only; rw [es]; exact ⟨_, _, _, _, _, _, _, rfl⟩)

/-- Counting a table's entries on for the lanes of a run. -/
theorem tget_run {V : Type} [Inhabited V] [DecidableEq V] (g : V → V) (run : Lanes) (t : Table V) (l : Nat) (hl : l < 32) :
    tget ((lanesOf run).foldl (fun t l => tset t l (g (tget t l))) t) l = if run.getLsbD l then g (tget t l) else tget t l := by
  have gen : ∀ (ls : List Nat) (t : Table V), ls.Nodup →
      tget (ls.foldl (fun t l => tset t l (g (tget t l))) t) l = if l ∈ ls then g (tget t l) else tget t l := by
    intro ls
    induction ls with
    | nil => intro t _; simp
    | cons a ls ih =>
      intro t hn
      have hn' := List.nodup_cons.mp hn
      rw [List.foldl_cons, ih _ hn'.2]
      by_cases h : l = a
      · subst h; simp [hn'.1]
      · simp [h, tget_tset]
  rw [gen _ _ (lanesOf_nodup run)]
  simp [mem_lanesOf, hl]

theorem tfind_foldl_tdel {V : Type} (ls : List Nat) (t : Table V) (j : Nat) :
    tfind j (ls.foldl (fun t l => tdel l t) t) = if j ∈ ls then none else tfind j t := by
  induction ls generalizing t with
  | nil => simp
  | cons a ls ih =>
    rw [List.foldl_cons, ih, tfind_tdel]
    by_cases h : j = a
    · subst h; simp
    · simp [h]

/-- A completed stream's hints are used. -/
theorem hinted_retired (sx : StreamSt) (o : OpInfo) (run : Lanes) (hints : Hints) (alive : Lanes) :
    StreamSt.Hinted o run sx (sx.retired o run hints alive) := by
  obtain ⟨_, _, _, _, _, _, _, e⟩ := retired_eq sx o run hints alive
  rw [e]
  constructor
  · intro l hl
    cases o.hint with
    | true => simp
    | false => simp [tfind_foldl_tdel, mem_lanesOf, hl]
  · intro l hl
    cases ho : o.hint with
    | true => simp
    | false =>
      simp only [Bool.false_eq_true, if_false, true_and]
      rw [tget_run (fun n => if o.transfer then 0 else n - 1) run sx.guardLeft l hl]
  · rfl
  · rfl

/-- A completed stream: program counters, and what stays. -/
theorem passed_retired (sx : StreamSt) (o : OpInfo) (run : Lanes) (hints : Hints) (alive : Lanes)
    (ht : o.transfer = false) : StreamSt.Passed o run sx (sx.retired o run hints alive) := by
  have hh := hinted_retired sx o run hints alive
  obtain ⟨_, _, _, _, _, _, _, e⟩ := retired_eq sx o run hints alive
  constructor
  · intro l hl
    rw [e]
    simp only [ht, Bool.false_eq_true, if_false]
    exact tget_run (fun v => v + 4) run sx.pc l hl
  · exact hh
  all_goals (rw [e])

/-- The stream of a completed instruction keeps its latches and predicates. -/
theorem retired_latch (sx : StreamSt) (o : OpInfo) (run : Lanes) (hints : Hints) (alive : Lanes) :
    (sx.retired o run hints alive).latch = sx.latch ∧ (sx.retired o run hints alive).latchValid = sx.latchValid
      ∧ (sx.retired o run hints alive).preds = sx.preds := by
  obtain ⟨_, _, _, _, _, _, _, e⟩ := retired_eq sx o run hints alive
  rw [e]; exact ⟨rfl, rfl, rfl⟩

/-- A stream passed from one that differs in its latches and predicates alone. -/
theorem passed_congr {o : OpInfo} {run : Lanes} {a b c : StreamSt}
    (h : b = { a with preds := b.preds, latch := b.latch, latchValid := b.latchValid }) (k : StreamSt.Passed o run b c) :
    StreamSt.Passed o run a c := by
  rw [h] at k
  exact ⟨k.pcs, ⟨k.hints.pending, k.hints.left, k.hints.pass, k.hints.hold⟩, k.exited, k.absent, k.rets, k.spilled,
    k.barWaits, k.tlWaits⟩

/-! ## Queues -/

/-- The pops of an instruction that nothing stands in the way of are all there (R86). -/
theorem Issues.pops {w : Word} {o : OpInfo} {s : State} {x : Ctx} (h : Issues w o s x) (q : Queue) (l : Nat) (hl : l < 32) :
    popsFor o x q l ≤ (x.c.queueOf q l).length := by
  have hr := h.ready
  unfold popsFor
  split
  · rename_i hc
    by_cases hq : ∃ p ∈ popsOf o x.st, p.1 = q
    · obtain ⟨p, hp, rfl⟩ := hq
      have hw : (wantOf w o x l).pops = popsOf o x.st := by
        unfold wantOf
        cases hu : o.uniform with
        | false => simp
        | true => simp [hc.2 hu]
      have hrd : queueReady w o x l = true := by
        unfold readyLanes at hr
        split at hr
        · rename_i he; rw [he.1] at hp; cases hp
        · split at hr
          · rw [← hr] at hc; simp at hc
          · have e := congrArg (fun m : Lanes => m.getLsbD l) hr
            simp only [BitVec.getLsbD_and, getLsbD_maskWhere _ l hl, hc.1, Bool.true_and] at e
            exact e
      unfold queueReady at hrd
      simp only [hw, Bool.and_eq_true, List.all_eq_true] at hrd
      have := hrd.1 p hp
      simp only [Bool.and_eq_true, decide_eq_true_eq] at this
      exact this.1
    · have : ∀ ps : List (Queue × Nat), (¬ ∃ p ∈ ps, p.1 = q) → total q ps = 0 := by
        intro ps
        induction ps with
        | nil => intro _; rfl
        | cons p ps ih =>
          intro hn
          rw [total_cons, ih (fun ⟨r, hr, e⟩ => hn ⟨r, List.mem_cons_of_mem _ hr, e⟩), if_neg]
          intro e; exact hn ⟨p, List.mem_cons_self .., e⟩
      rw [this _ hq]; exact Nat.zero_le _
  · exact Nat.zero_le _

/-- New entries, one for each word. -/
def Entries (entry : QEntry → Word → Prop) (new : List QEntry) (vs : List Word) : Prop :=
  new.length = vs.length ∧ ∀ p ∈ new.zip vs, entry p.1 p.2

theorem Entries.nil (entry : QEntry → Word → Prop) : Entries entry [] [] := ⟨rfl, by simp⟩

theorem Entries.cons {entry : QEntry → Word → Prop} {e : QEntry} {v : Word} {new : List QEntry} {vs : List Word}
    (h : entry e v) (k : Entries entry new vs) : Entries entry (e :: new) (v :: vs) := by
  refine ⟨by simp [k.1], ?_⟩
  intro p hp
  rw [List.zip_cons_cons] at hp
  rcases List.mem_cons.mp hp with rfl | hp
  · exact h
  · exact k.2 p hp

/-- A step that pushes words for a lane and leaves every other queue. -/
structure Pushes (entry : QEntry → Word → Prop) (q : Queue) (l : Nat) (vs : List Word) (c c' : Consist) : Prop where
  new : ∃ new, c'.queueOf q l = c.queueOf q l ++ new ∧ Entries entry new (if c.deaf q l then [] else vs)
  other : ∀ p j, ¬ (p = q ∧ j = l) → c'.queueOf p j = c.queueOf p j
  deaf : ∀ p j, c'.deaf p j = c.deaf p j

theorem Consist.SameButQueues.deaf {c c' : Consist} (h : c.SameButQueues c') (p : Queue) (j : Nat) : c'.deaf p j = c.deaf p j := by
  apply Consist.deaf_congr <;> rw [h]

/-- Pushing words, one by one. -/
theorem pushes_words (entry : QEntry → Word → Prop) (q : Queue) (l : Nat) (mk : Consist → Word → QEntry)
    (he : ∀ c v, entry (mk c v) v) (vs : List Word) (c : Consist) :
    Pushes entry q l vs c (vs.foldl (fun c v => c.push q l (mk c v)) c) := by
  induction vs generalizing c with
  | nil => exact ⟨⟨[], by simp, by simp [Entries.nil]⟩, fun _ _ _ => rfl, fun _ _ => rfl⟩
  | cons v vs ih =>
    obtain ⟨⟨new, hn, hm⟩, h2, h3⟩ := ih (c.push q l (mk c v))
    have hd := (Consist.sameButQueues_push c q l (mk c v)).deaf
    rw [List.foldl_cons]
    refine ⟨?_, fun p j hp => ?_, fun p j => (h3 p j).trans (hd p j)⟩
    · rw [hd] at hm
      by_cases hq : c.deaf q l = true
      · rw [if_pos hq] at hm ⊢
        refine ⟨new, ?_, hm⟩
        rw [hn]; unfold Consist.push; rw [if_pos hq]
      · rw [if_neg hq] at hm ⊢
        refine ⟨mk c v :: new, ?_, Entries.cons (he c v) hm⟩
        rw [hn]; unfold Consist.push; rw [if_neg hq, Consist.queueOf_setQueue, if_pos ⟨rfl, rfl⟩]; simp
    · rw [h2 p j hp]
      unfold Consist.push; split
      · rfl
      · rw [Consist.queueOf_setQueue, if_neg hp]

/-- Pushing words for some lanes. -/
theorem pushes_lanes (entry : QEntry → Word → Prop) (q : Queue) (vs : Nat → List Word) (step : Consist → Nat → Consist)
    (hs : ∀ c l, Pushes entry q l (vs l) c (step c l)) (ls : List Nat) (hn : ls.Nodup) (c : Consist) (p : Queue) (j : Nat) :
    ∃ new, (ls.foldl step c).queueOf p j = c.queueOf p j ++ new ∧
      Entries entry new (if p = q ∧ j ∈ ls ∧ c.deaf q j = false then vs j else []) := by
  induction ls generalizing c with
  | nil => exact ⟨[], by simp, by simp [Entries.nil]⟩
  | cons l ls ih =>
    have hn' := List.nodup_cons.mp hn
    obtain ⟨new, h1, h2⟩ := ih hn'.2 (step c l)
    obtain ⟨⟨n0, k1, k2⟩, k3, k4⟩ := hs c l
    rw [List.foldl_cons, h1]
    by_cases h : p = q ∧ j = l
    · obtain ⟨rfl, rfl⟩ := h
      have : ¬ (p = p ∧ j ∈ ls ∧ (step c j).deaf p j = false) := fun e => hn'.1 e.2.1
      rw [if_neg this] at h2
      have hz : new = [] := List.eq_nil_of_length_eq_zero h2.1
      subst hz
      refine ⟨n0, by rw [k1]; simp, ?_⟩
      cases hd : c.deaf p j <;> simpa [hd] using k2
    · rw [k3 p j h]
      refine ⟨new, rfl, ?_⟩
      rw [k4] at h2
      by_cases hj : j = l
      · subst hj
        have hp : p ≠ q := fun e => h ⟨e, rfl⟩
        simpa [hp] using h2
      · simpa [hj] using h2

theorem wordsOf_low (v : DWord) : wordsOf false (lowBits 32 v) = wordsOf false v := by
  simp [wordsOf, lowBits]

/-- Entries pushed after the pops stand where entries pushed before them do. -/
theorem queuesMove_of {w : Word} {o : OpInfo} {s : State} {x : Ctx} (h : Issues w o s x) {entry : QEntry → Word → Prop}
    {pushed : Queue → Nat → List Word} {C c : Consist}
    (hC : ∀ q l, l < 32 → ∃ new, C.queueOf q l = x.c.queueOf q l ++ new ∧ Entries entry new (pushed q l))
    (hc : ∀ q l, l < 32 → c.queueOf q l = (C.queueOf q l).drop (popsFor o x q l)) : QueuesMove o x pushed entry x.c c := by
  intro q l hl
  obtain ⟨new, h1, h2⟩ := hC q l hl
  refine ⟨new, ?_, h2⟩
  rw [hc q l hl, h1, List.drop_append_of_le_length (h.pops q l hl)]

/-! ## Registers -/

theorem codeOf_c_ne_a (d : BitVec 7) (n : Nat) : codeOf .c d ≠ .a n := by
  unfold codeOf; simp only; repeat' split
  all_goals simp

theorem codeOf_c_ne_s (d : BitVec 7) (n : Nat) : codeOf .c d ≠ .s n := by
  unfold codeOf; simp only; repeat' split
  all_goals simp

theorem codeOf_a_ne_v (d : BitVec 7) (n : Nat) : codeOf .a d ≠ .v n := by
  unfold codeOf; simp only; repeat' split
  all_goals simp

/-- The registers after a write for some lanes: nothing but the named ones changes. -/
theorem putReg_spec (c : Consist) (st : Strm) (d : BitVec 7) (wide : Bool) (ls : List Nat) (g : Nat → DWord) :
    c.putReg st d wide ls g = { c with vregs := (c.putReg st d wide ls g).vregs,
                                       aregs := (c.putReg st d wide ls g).aregs,
                                       sregs := (c.putReg st d wide ls g).sregs } := by
  unfold Consist.putReg
  split
  · rfl
  · rfl
  · split <;> rfl
  · rfl

theorem putReg_v (c : Consist) (st : Strm) (d : BitVec 7) (wide : Bool) (ls : List Nat) (g : Nat → DWord) (m l : Nat)
    (hls : ∀ i ∈ ls, i < 32) (hl : l < 32) :
    (c.putReg st d wide ls g).v m l =
      (match codeOf st d with
        | .v n => if l ∈ ls then
            (if wide = true ∧ m = n + 1 then (g l).extractLsb' 32 32 else if m = n then (g l).setWidth 32 else c.v m l)
            else c.v m l
        | _ => c.v m l) := by
  unfold Consist.putReg Consist.v
  cases hd : codeOf st d with
  | v n =>
    simp only
    cases wide with
    | true =>
      simp only [if_true, tget_lanes_tset _ _ _ _ _ _ hls hl, true_and]
      by_cases h1 : m = n + 1 <;> by_cases h2 : m = n <;> by_cases h3 : l ∈ ls <;> simp [h1, h2, h3]
    | false =>
      simp only [Bool.false_eq_true, if_false, false_and, tget_lanes_tset _ _ _ _ _ _ hls hl]
      by_cases h2 : m = n <;> by_cases h3 : l ∈ ls <;> simp [h2, h3]
  | s n => cases ls <;> rfl
  | _ => rfl

theorem putReg_a (c : Consist) (st : Strm) (d : BitVec 7) (wide : Bool) (ls : List Nat) (g : Nat → DWord) (m l : Nat)
    (hls : ∀ i ∈ ls, i < 32) (hl : l < 32) :
    tget (c.putReg st d wide ls g).aregs (32 * m + l) =
      (match codeOf st d with
        | .a n => if m = n ∧ l ∈ ls then g l else tget c.aregs (32 * m + l)
        | _ => tget c.aregs (32 * m + l)) := by
  unfold Consist.putReg
  cases hd : codeOf st d with
  | a n => simp only [tget_lanes_tset _ _ _ _ _ _ hls hl]
  | s n => cases ls <;> rfl
  | _ => rfl

theorem putReg_s (c : Consist) (st : Strm) (d : BitVec 7) (wide : Bool) (ls : List Nat) (g : Nat → DWord) (m : Nat) :
    tget (c.putReg st d wide ls g).sregs m =
      (match codeOf st d, ls with
        | .s n, l :: _ => if m = n then g l else tget c.sregs m
        | _, _ => tget c.sregs m) := by
  unfold Consist.putReg
  cases hd : codeOf st d with
  | s n => cases ls with
    | nil => rfl
    | cons l ls => simp only [tget_tset]
  | _ => rfl

theorem sameButQueues_pushes {α : Type} (q : Queue) (l : Nat) (mk : Consist → α → QEntry) (vs : List α) (c : Consist) :
    c.SameButQueues (vs.foldl (fun c v => c.push q l (mk c v)) c) := by
  induction vs generalizing c with
  | nil => rfl
  | cons v vs ih => exact Consist.SameButQueues.trans (Consist.sameButQueues_push ..) (ih _)

/-- A result leaves everything of a consist but its registers, its stream's latches and its queues. -/
theorem putResult_spec (s : State) (c : Consist) (st : Strm) (d : BitVec 7) (wide nw : Bool) (ls : List Nat)
    (f : Nat → DWord) (hls : ∀ i ∈ ls, i < 32) :
    ∃ base q : Consist,
      base = (if ls = [] then c else c.setStrm st ((c.strm st).putLatch (latchOf d) ls
          (fun l => if st == .c && !wide then lowBits 32 (f l) else f l)))
      ∧ base.SameButQueues q
      ∧ putResult s c st d wide nw ls f =
          (if nw = true ∨ (writeQueue st (codeOf st d)).isSome then q
           else base.putReg st d (wide && st == .c) ls (fun l => if st == .c && !wide then lowBits 32 (f l) else f l)) := by
  unfold putResult
  simp only
  generalize hb : (if ls = [] then c else c.setStrm st ((c.strm st).putLatch (latchOf d) ls
          (fun l => if (st == Strm.c && !wide) = true then lowBits 32 (f l) else f l))) = base
  cases nw with
  | true => exact ⟨base, base, rfl, rfl, by simp⟩
  | false =>
    simp only [Bool.false_eq_true, if_false, false_or]
    cases hq : writeQueue st (codeOf st d) with
    | none => exact ⟨base, base, rfl, rfl, by simp⟩
    | some q =>
      refine ⟨base, _, rfl, ?_, by simp; rfl⟩
      generalize s.known = kn
      clear hb hls
      induction ls generalizing base with
      | nil => rfl
      | cons l ls ih =>
        rw [List.foldl_cons]
        refine Consist.SameButQueues.trans ?_ (ih _)
        exact sameButQueues_pushes _ _ _ _ _

/-- What a result makes of a consist, field by field. -/
theorem putResult_fields (s : State) (x : Ctx) (csw : BitVec 32) (d : BitVec 7) (wide nw : Bool) (f : Nat → DWord) :
    ∃ C, C = putResult s (x.withCsw csw).c x.st d wide nw (lanesOf x.act) f
      ∧ x.c.Keeps C ∧ C.csw = csw ∧ C.inflight = x.c.inflight
      ∧ (∀ m l, l < 32 → C.v m l = newV x d wide nw f m l)
      ∧ (∀ m l, l < 32 → tget C.aregs (32 * m + l) = newA x d nw f m l)
      ∧ (∀ m, tget C.sregs m = newS x d nw f m)
      ∧ C.strm x.st = (if x.act = 0 then x.c.strm x.st else (x.c.strm x.st).putLatch (latchOf d) (lanesOf x.act)
          (fun l => if x.st == .c && !wide then lowBits 32 (f l) else f l))
      ∧ C.strm x.st.other = x.c.strm x.st.other := by
  obtain ⟨base, q, hb, hq, hC⟩ :=
    putResult_spec s (x.withCsw csw).c x.st d wide nw (lanesOf x.act) f (lanesOf_lt _)
  refine ⟨_, rfl, ?_⟩
  rw [hC]
  have hbs : base.strm x.st = (if x.act = 0 then x.c.strm x.st else (x.c.strm x.st).putLatch (latchOf d) (lanesOf x.act)
          (fun l => if x.st == .c && !wide then lowBits 32 (f l) else f l)) := by
    rw [hb]
    simp only [lanesOf_eq_nil]
    split
    · simp only [Ctx.withCsw]; cases x.st <;> rfl
    · rw [Consist.strm_setStrm_same]; simp only [Ctx.withCsw]; cases x.st <;> rfl
  have hbo : base.strm x.st.other = x.c.strm x.st.other := by
    rw [hb]
    split
    · cases x.st <;> rfl
    · cases x.st <;> rfl
  have hbk : base = { x.c with a := base.a, c := base.c, csw := csw } := by
    rw [hb]
    split
    · rfl
    · cases x.st <;> rfl
  have hbv : base.vregs = x.c.vregs := by rw [hbk]
  have hba : base.aregs = x.c.aregs := by rw [hbk]
  have hbsr : base.sregs = x.c.sregs := by rw [hbk]
  have hbf : base.inflight = x.c.inflight := by rw [hbk]
  have hbc : base.csw = csw := by rw [hbk]
  by_cases hn : nw = true ∨ (writeQueue x.st (codeOf x.st d)).isSome
  · rw [if_pos hn]
    have hqv : q.vregs = base.vregs := by rw [hq]
    have hqa : q.aregs = base.aregs := by rw [hq]
    have hqs : q.sregs = base.sregs := by rw [hq]
    have hcode : nw = true ∨ ((∀ n, codeOf x.st d ≠ .v n) ∧ (∀ n, codeOf x.st d ≠ .a n) ∧ (∀ n, codeOf x.st d ≠ .s n)) := by
      rcases hn with h | h
      · exact .inl h
      · right
        refine ⟨fun n hd => ?_, fun n hd => ?_, fun n hd => ?_⟩ <;> simp [hd, writeQueue] at h
    refine ⟨?_, ?_, ?_, ?_, ?_, ?_, ?_, ?_⟩
    · unfold Consist.Keeps; rw [hq, hbk]
    · rw [hq]; exact hbc
    · rw [hq]; exact hbf
    · intro m l _
      have e : q.v m l = x.c.v m l := by unfold Consist.v; rw [hqv, hbv]
      rw [e]; unfold newV
      rcases hcode with h | ⟨h, _, _⟩
      · rw [h]; split <;> simp
      · split
        · rename_i n hd; exact absurd hd (h n)
        · rfl
    · intro m l _
      rw [hqa, hba]; unfold newA
      rcases hcode with h | ⟨_, h, _⟩
      · rw [h]; split <;> simp
      · split
        · rename_i n hd; exact absurd hd (h n)
        · rfl
    · intro m
      rw [hqs, hbsr]; unfold newS
      rcases hcode with h | ⟨_, _, h⟩
      · rw [h]; split <;> simp
      · split
        · rename_i n hd; exact absurd hd (h n)
        · rfl
    · have : q.strm x.st = base.strm x.st := by rw [hq]; cases x.st <;> rfl
      rw [this, hbs]
    · have : q.strm x.st.other = base.strm x.st.other := by rw [hq]; cases x.st <;> rfl
      rw [this, hbo]
  · rw [if_neg hn]
    have hnw : nw = false := by
      cases nw with
      | true => exact absurd (Or.inl rfl) hn
      | false => rfl
    generalize hg : (fun l => if (x.st == Strm.c && !wide) = true then lowBits 32 (f l) else f l) = g
    have hp := putReg_spec base x.st d (wide && x.st == .c) (lanesOf x.act) g
    generalize hR : base.putReg x.st d (wide && x.st == .c) (lanesOf x.act) g = R at hp ⊢
    refine ⟨?_, ?_, ?_, ?_, ?_, ?_, ?_, ?_⟩
    · unfold Consist.Keeps; rw [hp, hbk]
    · rw [hp]; exact hbc
    · rw [hp]; exact hbf
    · intro m l hl
      rw [← hR, putReg_v base x.st d _ _ g m l (lanesOf_lt _) hl]
      unfold newV
      have e : base.v m l = x.c.v m l := by unfold Consist.v; rw [hbv]
      rw [e]
      cases hd : codeOf x.st d with
      | v n =>
        have hst : x.st = .c := by
          cases hx : x.st with
          | c => rfl
          | a => rw [hx] at hd; exact absurd hd (codeOf_a_ne_v d n)
        have hgl : ∀ l, (g l).setWidth 32 = (f l).setWidth 32 := by
          intro l; rw [← hg]; simp only
          split
          · simp [lowBits]
          · rfl
        have hgh : wide = true → ∀ l, g l = f l := by
          intro hw l; rw [← hg]; simp [hw]
        simp only [mem_lanesOf, hl, true_and, hnw, Bool.false_or, hst, BEq.rfl, Bool.and_true]
        by_cases ha : x.act.getLsbD l = true
        · simp only [ha, if_true, Bool.not_true, Bool.false_eq_true, if_false]
          by_cases hm : m = n
          · have : ¬ (wide = true ∧ m = n + 1) := by omega
            rw [if_neg this, if_pos hm, if_pos hm, hgl]
          · rw [if_neg hm, if_neg hm]
            by_cases h2 : wide = true ∧ m = n + 1
            · rw [if_pos h2, if_pos h2, hgh h2.1]
            · rw [if_neg h2, if_neg h2]
        · simp [ha]
      | _ => rfl
    · intro m l hl
      rw [← hR, putReg_a base x.st d _ _ g m l (lanesOf_lt _) hl, hba]
      unfold newA
      cases hd : codeOf x.st d with
      | a n =>
        have hst : x.st = .a := by
          cases hx : x.st with
          | a => rfl
          | c => rw [hx] at hd; exact absurd hd (codeOf_c_ne_a d n)
        have : g l = f l := by rw [← hg]; simp [hst]
        simp only [mem_lanesOf, hl, true_and, hnw, Bool.false_or, this]
        by_cases hm : m = n <;> by_cases ha : x.act.getLsbD l = true <;> simp [hm, ha]
      | _ => rfl
    · intro m
      rw [← hR, putReg_s, hbsr]
      unfold newS
      cases hd : codeOf x.st d with
      | s n =>
        have hst : x.st = .a := by
          cases hx : x.st with
          | a => rfl
          | c => rw [hx] at hd; exact absurd hd (codeOf_c_ne_s d n)
        cases hl : lanesOf x.act with
        | nil =>
          have := (lanesOf_eq_nil _).mp hl
          simp [this]
        | cons l ls =>
          have hne : x.act ≠ 0 := by
            intro h; have := (lanesOf_eq_nil _).mpr h; rw [hl] at this; cases this
          have hne2 : ¬ x.act = 0#32 := hne
          have hlow : lowest x.act = l := by simp [lowest, hl]
          have : g l = f l := by rw [← hg]; simp [hst]
          by_cases hm : m = n <;> simp [hm, hnw, hlow, this, hne2]
      | _ => rfl
    · have : R.strm x.st = base.strm x.st := by rw [hp]; cases x.st <;> rfl
      rw [this, hbs, hg]
    · have : R.strm x.st.other = base.strm x.st.other := by rw [hp]; cases x.st <;> rfl
      rw [this, hbo]

/-- What a result pushes: the words of the active lanes, where D names a queue and W is 0. -/
theorem putResult_queues (s : State) (x : Ctx) (csw : BitVec 32) (d : BitVec 7) (wide nw : Bool) (f : Nat → DWord)
    (q : Queue) (l : Nat) (hl : l < 32) :
    ∃ new, (putResult s (x.withCsw csw).c x.st d wide nw (lanesOf x.act) f).queueOf q l = x.c.queueOf q l ++ new ∧
      Entries (fun e v => e.filled = true ∧ e.val = v) new (pushesFor x d wide nw f q l) := by
  unfold putResult
  simp only
  generalize hg : (fun l => if (x.st == Strm.c && !wide) = true then lowBits 32 (f l) else f l) = g
  generalize hb : (if lanesOf x.act = [] then (x.withCsw csw).c else
      (x.withCsw csw).c.setStrm x.st (((x.withCsw csw).c.strm x.st).putLatch (latchOf d) (lanesOf x.act) g)) = base
  have hbq : ∀ p j, base.queueOf p j = x.c.queueOf p j := by
    intro p j; rw [← hb]; split
    · exact Consist.queueOf_congr _ _ rfl rfl rfl rfl
    · rw [Consist.queueOf_setStrm]; exact Consist.queueOf_congr _ _ rfl rfl rfl rfl
  have hbd : ∀ p j, base.deaf p j = x.c.deaf p j := by
    intro p j; rw [← hb]; split
    · exact Consist.deaf_congr _ _ rfl rfl rfl rfl
    · apply Consist.deaf_congr
      · cases x.st <;> rfl
      · cases x.st <;> rfl
      · rw [Consist.setStrm_saved]; rfl
      · rw [Consist.setStrm_fmask]; rfl
  cases nw with
  | true =>
    refine ⟨[], by simp [hbq], ?_⟩
    have : pushesFor x d wide true f q l = [] := by unfold pushesFor; simp
    rw [this]; exact Entries.nil _
  | false =>
    simp only [Bool.false_eq_true, if_false]
    cases hq : writeQueue x.st (codeOf x.st d) with
    | none =>
      refine ⟨[], ?_, ?_⟩
      · rw [putReg_spec]
        have : ∀ v a r, ({ base with vregs := v, aregs := a, sregs := r } : Consist).queueOf q l = base.queueOf q l :=
          fun _ _ _ => Consist.queueOf_congr _ _ rfl rfl rfl rfl
        rw [this, hbq]; simp
      · have : pushesFor x d wide false f q l = [] := by unfold pushesFor; simp [hq]
        rw [this]; exact Entries.nil _
    | some qq =>
      obtain ⟨new, h1, h2⟩ := pushes_lanes (fun e v => e.filled = true ∧ e.val = v) qq
        (fun l => wordsOf (wide && x.st == .c) (g l))
        (fun c l => (wordsOf (wide && x.st == .c) (g l)).foldl (fun c v =>
          c.push qq l { val := v, filled := true, id := 0, clk := s.known (laneThread c.uid l x.st) }) c)
        (fun c l => pushes_words _ qq l (fun c v => { val := v, filled := true, id := 0, clk := s.known (laneThread c.uid l x.st) })
          (fun _ _ => ⟨rfl, rfl⟩) _ c) (lanesOf x.act) (lanesOf_nodup _) base q l
      refine ⟨new, ?_, ?_⟩
      · rw [← hbq, ← h1]
        have hg' : ∀ l, (if (x.st == Strm.c && !wide) = true then lowBits 32 (f l) else f l) = g l := congrFun hg
        simp only [hg']
      rw [hbd] at h2
      have hw : wordsOf (wide && x.st == .c) (g l) = wordsOf (wide && x.st == .c) (f l) := by
        rw [← hg]; simp only
        cases wide <;> cases x.st <;> simp [wordsOf_low] <;> rfl
      have : pushesFor x d wide false f q l
          = (if q = qq ∧ l ∈ lanesOf x.act ∧ x.c.deaf qq l = false then wordsOf (wide && x.st == .c) (g l) else []) := by
        unfold pushesFor
        rw [hw]
        by_cases e : q = qq
        · subst e; simp [hq, mem_lanesOf, hl]
        · have : ¬ qq = q := fun h => e h.symm
          simp [hq, e, this]
      rw [this]; exact h2

/-- The law of every body that writes a result of its active lanes: the instruction completes, and what it wrote is all
that has changed. -/
theorem wrote_of_writeLanes {w : Word} {o : OpInfo} {x : Ctx} {s u : State} {csw : BitVec 32} {d : BitVec 7} {wide nw : Bool}
    {f : Nat → DWord} (h : Issues w o s x) (ht : o.transfer = false)
    (hu : writeLanes (x.withCsw csw) d wide nw f (learnPops o x s) = .ok u) :
    Wrote o x d wide nw f csw s (retire o x (switchIn x u)) := by
  obtain ⟨C, hC, k1, k2, k3, k4, k5, k6, k7, k8⟩ := putResult_fields (learnPops o x s) x csw d wide nw f
  have k9 := putResult_queues (learnPops o x s) x csw d wide nw f
  rw [← hC] at k9
  have hu' : u = (learnPops o x s).setConsist x.key C := by
    simp only [writeLanes, Eff.ok.injEq] at hu
    rw [← hu, hC]; rfl
  have hcons : (switchIn x u).consist? x.key = some C := by
    rw [consist?_switchIn, hu', State.consist?_setConsist_same]
  obtain ⟨q, c', h1, h2, h3, h3', _, _⟩ := retire_spec o x _ C hcons
  have hl := retired_latch (C.strm x.st) o x.run x.hints (C.alive x.st)
  have hpass := passed_retired (C.strm x.st) o x.run x.hints (C.alive x.st) ht
  have es : c'.strm x.st = (C.strm x.st).retired o x.run x.hints (C.alive x.st) := by
    rw [h3, Consist.strm_setStrm_same]
  have hk : s.Keeps x.key u := by
    rw [hu']; exact (State.keeps_learnPops o x s).trans (State.keeps_setConsist _ _ _)
  refine ⟨hk.switchIn.trans (State.keeps_retire o x _ C hcons), c', h1, ?_, ?_, ?_, ?_, ?_, ?_, ?_, ?_, ?_, ?_, ?_, ?_⟩
  · unfold Consist.Keeps at k1 ⊢
    rw [h3, h2, k1]; cases x.st <;> rfl
  · rw [h3, Consist.setStrm_csw, h2]; exact k2
  · rw [h3, Consist.setStrm_inflight, h2]; exact k3
  · intro m l hl
    rw [← k4 m l hl]
    unfold Consist.v; rw [h3, Consist.setStrm_vregs, h2]
  · intro m l hl
    rw [← k5 m l hl, h3, Consist.setStrm_aregs, h2]
  · intro m
    rw [← k6 m, h3, Consist.setStrm_sregs, h2]
  · intro m l hl'
    rw [es, hl.1, k7]
    unfold newLatch
    by_cases ha : x.act = 0
    · rw [if_pos ha]
      have : ¬ (m = latchOf d ∧ x.act.getLsbD l = true) := by rw [ha]; simp
      rw [if_neg this]
    · rw [if_neg ha]
      unfold StreamSt.putLatch
      simp only
      rw [tget_lanes_tset _ _ _ _ _ _ (lanesOf_lt _) hl']
      simp only [mem_lanesOf, hl', true_and]
  · rw [es, hl.2.1, k7]
    split <;> rfl
  · rw [es, hl.2.2, k7]
    split <;> rfl
  · rw [h3]
    have : (q.setStrm x.st ((C.strm x.st).retired o x.run x.hints (C.alive x.st))).strm x.st.other
        = C.strm x.st.other := by
      rw [h2]; cases x.st <;> rfl
    rw [this, k8]
  · refine queuesMove_of h k9 (fun p j hj => ?_)
    rw [h3, Consist.queueOf_setStrm, h3' p j hj]
  · rw [es]
    refine passed_congr (b := C.strm x.st) ?_ hpass
    rw [k7]; split <;> rfl

/-! ## Predicates -/

theorem pred_putPred (sx : StreamSt) (p q l : Nat) (act : Lanes) (f : Nat → Bool) (hl : l < 32) :
    (sx.putPred p act (maskWhere f)).pred q l
      = if q = p ∧ q ≠ 7 ∧ act.getLsbD l = true then f l else sx.pred q l := by
  unfold StreamSt.putPred StreamSt.pred
  by_cases hq : q = 7
  · simp [hq]
  · by_cases hp : p = 7
    · have : q ≠ p := fun h => hq (h.trans hp)
      simp [hp, hq]
    · simp only [hq, hp, if_false, tget_tset]
      by_cases hqp : q = p
      · subst hqp
        simp only [if_true, true_and, BitVec.getLsbD_or, BitVec.getLsbD_and, BitVec.getLsbD_not, hl,
          getLsbD_maskWhere f l hl, decide_true, Bool.true_and]
        cases act.getLsbD l <;> simp [hq]
      · simp [hqp]

/-- The law of every body that writes a predicate. -/
theorem wrotePred_of_writePred {o : OpInfo} {x : Ctx} {s u : State} {csw : BitVec 32} {p : BitVec 7} {f : Nat → Bool}
    (ht : o.transfer = false) (hu : writePred (x.withCsw csw) p f (learnPops o x s) = .ok u) :
    WrotePred o x p.toNat f csw s (retire o x (switchIn x u)) := by
  let C : Consist := (x.withCsw csw).c.setStrm x.st ((x.c.strm x.st).putPred p.toNat x.act (maskWhere f))
  have hu' : u = (learnPops o x s).setConsist x.key C := by
    simp only [writePred, Eff.ok.injEq] at hu
    rw [← hu]; cases hx : x.st <;> simp [C, Ctx.withCsw, hx, Consist.strm]
  have hcons : (switchIn x u).consist? x.key = some C := by
    rw [consist?_switchIn, hu', State.consist?_setConsist_same]
  have hk : s.Keeps x.key u := by
    rw [hu']; exact (State.keeps_learnPops o x s).trans (State.keeps_setConsist _ _ _)
  obtain ⟨q, c', h1, h2, h3, h3', _, _⟩ := retire_spec o x _ C hcons
  have es0 : C.strm x.st = (x.c.strm x.st).putPred p.toNat x.act (maskWhere f) := Consist.strm_setStrm_same _ _ _
  have eo0 : C.strm x.st.other = x.c.strm x.st.other := by simp only [C]; cases x.st <;> rfl
  have hCk : C = { x.c with a := C.a, c := C.c, csw := csw } := by simp only [C]; cases x.st <;> rfl
  have hl := retired_latch (C.strm x.st) o x.run x.hints (C.alive x.st)
  have hpass := passed_retired (C.strm x.st) o x.run x.hints (C.alive x.st) ht
  have es : c'.strm x.st = (C.strm x.st).retired o x.run x.hints (C.alive x.st) := by
    rw [h3, Consist.strm_setStrm_same]
  have e : C.strm x.st = { x.c.strm x.st with preds := (C.strm x.st).preds } := by
    rw [es0]; unfold StreamSt.putPred; split <;> rfl
  have hC : ∀ {β : Type} (g : Consist → β), (∀ (y : Consist) r v, g (y.setStrm r v) = g y) →
      (∀ y : Consist, ∀ q, y.SameButQueues q → g q = g y) → g c' = g (x.withCsw csw).c := by
    intro β g hg1 hg2
    rw [h3, hg1, hg2 _ _ h2]; exact hg1 _ _ _
  refine ⟨hk.switchIn.trans (State.keeps_retire o x _ C hcons), c', h1, ?_, ?_, ?_, ?_, ?_, ?_, ?_, ?_, ?_, ?_, ?_, ?_⟩
  · unfold Consist.Keeps
    clear_value C
    rw [h3, h2, hCk]; cases hx : x.st <;> rfl
  · exact hC Consist.csw (fun _ _ _ => Consist.setStrm_csw ..) (fun y q h => by rw [h])
  · exact hC Consist.inflight (fun _ _ _ => Consist.setStrm_inflight ..) (fun y q h => by rw [h])
  · exact hC Consist.vregs (fun _ _ _ => Consist.setStrm_vregs ..) (fun y q h => by rw [h])
  · exact hC Consist.aregs (fun _ _ _ => Consist.setStrm_aregs ..) (fun y q h => by rw [h])
  · exact hC Consist.sregs (fun _ _ _ => Consist.setStrm_sregs ..) (fun y q h => by rw [h])
  · intro q l hl'
    have : (c'.strm x.st).pred q l = (C.strm x.st).pred q l := by
      unfold StreamSt.pred; rw [es, hl.2.2]
    rw [this, es0, pred_putPred _ _ _ _ _ _ hl']
  · rw [es, hl.1, e]
  · rw [es, hl.2.1, e]
  · rw [h3]
    have : (q.setStrm x.st ((C.strm x.st).retired o x.run x.hints (C.alive x.st))).strm x.st.other
        = C.strm x.st.other := by
      rw [h2]; cases x.st <;> rfl
    rw [this, eo0]
  · intro r l hl'
    rw [h3, Consist.queueOf_setStrm, h3' r l hl']
    congr 1
    clear_value C
    rw [hCk]; exact Consist.queueOf_congr _ _ rfl rfl rfl rfl
  · rw [es]
    refine passed_congr (b := C.strm x.st) ?_ hpass
    rw [e]

/-! ## Results on their way -/

/-- What sending results on their way makes of a consist. -/
theorem launch_fold (item : Nat → Inflight) (push : Consist → Nat → Consist)
    (hp : ∀ (c : Consist) (l : Nat), c.SameButQueues (push c l)) (ls : List Nat) (c : Consist) :
    ∃ q, c.SameButQueues q ∧
      ls.foldl (fun (c : Consist) l => { push c l with inflight := (push c l).inflight ++ [item l] }) c
        = { q with inflight := c.inflight ++ ls.map item } := by
  induction ls generalizing c with
  | nil => exact ⟨c, rfl, by simp⟩
  | cons l ls ih =>
    obtain ⟨q, hq, he⟩ := ih { push c l with inflight := (push c l).inflight ++ [item l] }
    have h1 := hp c l
    have hi : (push c l).inflight = c.inflight := by rw [h1]
    refine ⟨{ q with inflight := c.inflight }, ?_, ?_⟩
    · unfold Consist.SameButQueues at hq h1 ⊢
      rw [hq, h1]
    · rw [List.foldl_cons, he]
      simp only [hi, List.map_cons, List.append_assoc, List.singleton_append]

/-- The same, with what it makes of the queues. -/
theorem launch_queues (item : Nat → Inflight) (push : Consist → Nat → Consist) (entry : QEntry → Word → Prop) (qu : Queue)
    (vs : Nat → List Word) (hp : ∀ (c : Consist) (l : Nat), c.SameButQueues (push c l))
    (hs : ∀ c l, Pushes entry qu l (vs l) c (push c l)) (ls : List Nat) (hn : ls.Nodup) (c : Consist) :
    ∃ q, c.SameButQueues q ∧
      ls.foldl (fun (c : Consist) l => { push c l with inflight := (push c l).inflight ++ [item l] }) c
        = { q with inflight := c.inflight ++ ls.map item } ∧
      ∀ p j, ∃ new, q.queueOf p j = c.queueOf p j ++ new ∧
        Entries entry new (if p = qu ∧ j ∈ ls ∧ c.deaf qu j = false then vs j else []) := by
  obtain ⟨q, h1, h2⟩ := launch_fold item push hp ls c
  refine ⟨q, h1, h2, fun p j => ?_⟩
  obtain ⟨new, k1, k2⟩ := pushes_lanes entry qu vs
    (fun (c : Consist) l => ({ push c l with inflight := (push c l).inflight ++ [item l] } : Consist))
    (fun c l => by
      obtain ⟨⟨n0, a1, a2⟩, a3, a4⟩ := hs c l
      exact ⟨⟨n0, (Consist.queueOf_congr _ _ rfl rfl rfl rfl).trans a1, a2⟩,
        fun p j h => (Consist.queueOf_congr _ _ rfl rfl rfl rfl).trans (a3 p j h),
        fun p j => (Consist.deaf_congr _ _ rfl rfl rfl rfl).trans (a4 p j)⟩) ls hn c p j
  rw [h2] at k1
  exact ⟨new, (Consist.queueOf_congr (c := q) _ _ rfl rfl rfl rfl).symm.trans k1, k2⟩

/-- The result in flight of one lane. -/
def launchItem (kind : Latency) (x : Ctx) (wide : Bool) (f : Nat → DWord) (v : State) (dest : Dest) (l : Nat) : Inflight :=
  { kind := kind, strm := x.st, lane := l, dest := dest,
    vals := if wide || x.st == .a then [(f l).setWidth 32, (f l).extractLsb' 32 32] else [(f l).setWidth 32],
    clk := v.known (laneThread x.c.uid l x.st) }

/-- Sending a result on its way: the results in flight of the active lanes, and the places they take in a queue. -/
theorem launchResult_spec (kind : Latency) (x : Ctx) (csw : BitVec 32) (d : BitVec 7) (wide nw : Bool) (f : Nat → DWord)
    (v : State) :
    ∃ (q : Consist) (item : Nat → Inflight), (x.withCsw csw).c.SameButQueues q
      ∧ (∀ l, (item l).lane = l ∧ (item l).kind = kind ∧ (item l).strm = x.st
          ∧ (item l).vals = (if wide || x.st == .a then [(f l).setWidth 32, (f l).extractLsb' 32 32] else [(f l).setWidth 32])
          ∧ (item l).dest = (match (if nw then none else writeQueue x.st (codeOf x.st d)) with
              | some _ => .queue d true v.nextUid
              | none => .reg d (wide && x.st == .c) (!nw)))
      ∧ launchResult kind (x.withCsw csw) d wide nw f v
        = { v.setConsist x.key { q with inflight := x.c.inflight ++ (lanesOf x.act).map item } with nextUid := v.nextUid + 1 }
      ∧ ∀ p l, l < 32 → ∃ new, q.queueOf p l = x.c.queueOf p l ++ new ∧
          Entries (fun e _ => e.filled = false ∧ e.id = v.nextUid) new (pushesFor x d wide nw f p l) := by
  have hqe : ∀ p l, (x.withCsw csw).c.queueOf p l = x.c.queueOf p l := fun p l => Consist.queueOf_congr _ _ rfl rfl rfl rfl
  have hde : ∀ p l, (x.withCsw csw).c.deaf p l = x.c.deaf p l := fun p l => Consist.deaf_congr _ _ rfl rfl rfl rfl
  generalize hq : (if nw then none else writeQueue x.st (codeOf x.st d)) = qo
  have hpush : ∀ p l, l < 32 → pushesFor x d wide nw f p l
      = (if qo = some p ∧ l ∈ lanesOf x.act ∧ x.c.deaf p l = false then wordsOf (wide && x.st == .c) (f l) else []) := by
    intro p l hl
    unfold pushesFor
    rw [← hq]
    cases nw <;> simp [mem_lanesOf, hl]
  cases qo with
  | none =>
    obtain ⟨q, h1, h2, h3⟩ := launch_queues (launchItem kind x wide f v (.reg d (wide && x.st == .c) (!nw))) (fun c _ => c) (fun e _ => e.filled = false ∧ e.id = v.nextUid) .lq (fun _ => [])
      (fun _ _ => rfl) (fun c l => ⟨⟨[], by simp, by simp [Entries.nil]⟩, fun _ _ _ => rfl, fun _ _ => rfl⟩)
      (lanesOf x.act) (lanesOf_nodup _) (x.withCsw csw).c
    refine ⟨q, launchItem kind x wide f v (.reg d (wide && x.st == .c) (!nw)), h1,
      fun l => ⟨rfl, rfl, rfl, rfl, rfl⟩, ?_, fun p l hl => ?_⟩
    · unfold launchResult
      simp only
      rw [show (if nw then none else writeQueue (x.withCsw csw).st (codeOf (x.withCsw csw).st d)) = none from hq,
        show x.c.inflight = (x.withCsw csw).c.inflight from rfl, ← h2]
      rfl
    · rw [hpush p l hl, ← hqe]
      obtain ⟨new, k1, k2⟩ := h3 p l
      exact ⟨new, k1, by simpa using k2⟩
  | some qu =>
    have hent : ∀ l, (if wide && x.st == .c then
            (if wide || x.st == .a then [(f l).setWidth 32, (f l).extractLsb' 32 32] else [(f l).setWidth 32])
          else [(f l).setWidth 32]) = wordsOf (wide && x.st == .c) (f l) := by
      intro l; unfold wordsOf
      cases wide <;> cases x.st <;> rfl
    obtain ⟨q, h1, h2, h3⟩ := launch_queues (launchItem kind x wide f v (.queue d true v.nextUid))
      (fun c l => (wordsOf (wide && x.st == .c) (f l)).foldl (fun (c : Consist) _ =>
        c.push qu l (QEntry.mk 0 false v.nextUid default)) c)
      (fun e _ => e.filled = false ∧ e.id = v.nextUid) qu (fun l => wordsOf (wide && x.st == .c) (f l))
      (fun c l => sameButQueues_pushes qu l (fun _ _ => QEntry.mk 0 false v.nextUid default) _ _)
      (fun c l => pushes_words _ qu l (fun _ _ => QEntry.mk 0 false v.nextUid default) (fun _ _ => ⟨rfl, rfl⟩) _ c)
      (lanesOf x.act) (lanesOf_nodup _) (x.withCsw csw).c
    refine ⟨q, launchItem kind x wide f v (.queue d true v.nextUid), h1,
      fun l => ⟨rfl, rfl, rfl, rfl, rfl⟩, ?_, fun p l hl => ?_⟩
    · unfold launchResult
      simp only
      rw [show (if nw then none else writeQueue (x.withCsw csw).st (codeOf (x.withCsw csw).st d)) = some qu from hq,
        show x.c.inflight = (x.withCsw csw).c.inflight from rfl, ← h2]
      simp only [← hent]; rfl
    · rw [hpush p l hl, ← hqe]
      obtain ⟨new, k1, k2⟩ := h3 p l
      refine ⟨new, k1, ?_⟩
      by_cases e : p = qu
      · subst e; simpa [hde] using k2
      · have : ¬ qu = p := fun h => e h.symm
        simpa [e, this] using k2

/-- The law of every body that sends its result on its way. -/
theorem sent_of_launchResult {w : Word} {o : OpInfo} {x : Ctx} {s : State} {csw : BitVec 32} {kind : Latency} {d : BitVec 7}
    {wide nw : Bool} {f : Nat → DWord} (h : Issues w o s x) (ht : o.transfer = false) :
    Sent o kind x d wide nw f csw s
      (retire o x (switchIn x (launchResult kind (x.withCsw csw) d wide nw f (learnPops o x s)))) := by
  obtain ⟨q0, item, hq0, hi, hu, hqs⟩ := launchResult_spec kind x csw d wide nw f (learnPops o x s)
  rw [nextUid_learnPops] at hi hqs
  generalize hC : ({ q0 with inflight := x.c.inflight ++ (lanesOf x.act).map item } : Consist) = C at hu
  generalize hU : launchResult kind (x.withCsw csw) d wide nw f (learnPops o x s) = u at hu
  have hcons : (switchIn x u).consist? x.key = some C := by
    rw [consist?_switchIn, hu]; exact State.consist?_setConsist_same _ _ _
  obtain ⟨q, c', h1, h2, h3, h3', _, _⟩ := retire_spec o x _ C hcons
  have hqk : q0 = { x.c with csw := csw, lq := q0.lq, xqAC := q0.xqAC, xqCA := q0.xqCA, sq := q0.sq } := hq0
  have es0 : C.strm x.st = x.c.strm x.st := by rw [← hC, hqk]; cases x.st <;> rfl
  have eo0 : C.strm x.st.other = x.c.strm x.st.other := by rw [← hC, hqk]; cases x.st <;> rfl
  have hl := retired_latch (C.strm x.st) o x.run x.hints (C.alive x.st)
  have hpass := passed_retired (C.strm x.st) o x.run x.hints (C.alive x.st) ht
  have es : c'.strm x.st = (C.strm x.st).retired o x.run x.hints (C.alive x.st) := by
    rw [h3, Consist.strm_setStrm_same]
  have hkeep : s.Keeps x.key u := by
    rw [hu]
    exact (State.keeps_learnPops o x s).trans (.of_eq rfl (fun k hk => by
      show ((learnPops o x s).setConsist x.key C).consist? k = _
      rw [State.consist?_setConsist, if_neg hk]))
  refine ⟨hkeep.switchIn.trans (State.keeps_retire o x _ C hcons), c', h1, ?_, ?_, ?_, ?_, ?_,
    ⟨(lanesOf x.act).map item, ?_, ?_, ?_⟩, ?_, ?_, ?_, ?_, ?_, ?_⟩
  · unfold Consist.Keeps
    rw [h3, h2, ← hC, hqk]; cases hx : x.st <;> rfl
  · rw [h3, Consist.setStrm_csw, h2, ← hC, hqk]
  · rw [h3, Consist.setStrm_vregs, h2, ← hC, hqk]
  · rw [h3, Consist.setStrm_aregs, h2, ← hC, hqk]
  · rw [h3, Consist.setStrm_sregs, h2, ← hC, hqk]
  · rw [h3, Consist.setStrm_inflight, h2, ← hC]
  · rw [List.map_map]
    have : ((fun (g : Inflight) => g.lane) ∘ item) = id := by funext l; exact (hi l).1
    rw [this, List.map_id]
  · intro g hg
    obtain ⟨l, _, rfl⟩ := List.mem_map.mp hg
    obtain ⟨a1, a2, a3, a4, a5⟩ := hi l
    exact ⟨a2, a3, by rw [a4, a1], a5⟩
  · rw [es, hl.1, es0]
  · rw [es, hl.2.1, es0]
  · rw [es, hl.2.2, es0]
  · rw [h3]
    have : (q.setStrm x.st ((C.strm x.st).retired o x.run x.hints (C.alive x.st))).strm x.st.other
        = C.strm x.st.other := by
      rw [h2]; cases x.st <;> rfl
    rw [this, eo0]
  · refine queuesMove_of (C := C) h (fun p l hl' => ?_) (fun p j hj => ?_)
    · obtain ⟨new, k1, k2⟩ := hqs p l hl'
      refine ⟨new, ?_, k2⟩
      rw [← k1, ← hC]; exact Consist.queueOf_congr _ _ rfl rfl rfl rfl
    · rw [h3, Consist.queueOf_setStrm, h3' p j hj]
  · rw [es, ← es0]; exact hpass

end Sys2Proof.Machine
end

