-- ==== Sys2Proof/WellFormed.lean ====
section
/-!
DEFINITION. Well-formed instructions: those whose fields hold a value that the spec gives the field a meaning for. The
checks are on the instruction alone; what depends on the consist (register counts, streams, levels, hints) is judged
when it issues (R28). A word that is not well-formed still has its meaning, a trap; an event that is not well-formed
names an agent or a place that the part does not have.
-/

namespace Sys2Proof

/-- A predicate number of an operand field (R27). -/
def isPred (x : BitVec 7) : Bool := decide (x.toNat ≤ 7)

/-- Does a number lie in a range? -/
def within (lo hi n : Nat) : Bool := decide (lo ≤ n) && decide (n ≤ hi)

/-- Does a register block have this unit (R316, R356, R375, R392), and is the offset that of an 8-byte register? -/
def blockHolds (block : RegBlock) (unit offset : Nat) : Bool :=
  offset % 8 == 0 &&
  (match block with
   | .stream => decide (unit < 64)
   | .manifest => decide (unit < 4)
   | .ras => decide (unit < 4)
   | .queue => decide (unit < 260))

/-- Is every field of the instruction one that has a meaning? The operands of a command are not judged here: its Signal
box does, and answers with a status (R380). -/
def Instr.wellFormed (i : Instr) : Bool :=
  match i with
  | .iadd .. => true
  | .isub .. => true
  | .imin .. => true
  | .imax .. => true
  | .umin .. => true
  | .umax .. => true
  | .iabsd .. => true
  | .iaddi .. => true
  | .and .. => true
  | .or .. => true
  | .xor .. => true
  | .andn .. => true
  | .not .. => true
  | .andi .. => true
  | .ori .. => true
  | .xori .. => true
  | .shl .. => true
  | .shr .. => true
  | .sar .. => true
  | .ror .. => true
  | .bfe .. => true
  | .bfi .. => true
  | .shli .. => true
  | .shri .. => true
  | .sari .. => true
  | .rori .. => true
  | .imul .. => true
  | .imulh .. => true
  | .umulh .. => true
  | .idiv .. => true
  | .udiv .. => true
  | .irem .. => true
  | .urem .. => true
  | .imad .. => true
  | .popc .. => true
  | .clz .. => true
  | .ctz .. => true
  | .brev .. => true
  | .bswap .. => true
  | .sext8 .. => true
  | .sext16 .. => true
  | .icmp p _ _ _ => isPred p
  | .icmpi p _ _ _ => isPred p
  | .movi .. => true
  | .sel .. => true
  | .pand d a b => isPred d && isPred a && isPred b
  | .por d a b => isPred d && isPred a && isPred b
  | .pxor d a b => isPred d && isPred a && isPred b
  | .pandn d a b => isPred d && isPred a && isPred b
  | .pmov d a => isPred d && isPred a
  | .pnz d _ => isPred d
  | .ptoi _ a _ => isPred a
  | .lea .. => true
  | .shfli .. => true
  | .shflu .. => true
  | .shfld .. => true
  | .shflx .. => true
  | .swapp .. => true
  | .bcast .. => true
  | .vany d a => isPred d && isPred a
  | .vall d a => isPred d && isPred a
  | .vbal _ a _ => isPred a
  | .matchLanes .. => true
  | .rdadd .. => true
  | .rdmin .. => true
  | .rdmax .. => true
  | .rdand .. => true
  | .rdor .. => true
  | .rdxor .. => true
  | .rdfadd .. => true
  | .rdfmax .. => true
  | .scadd .. => true
  | .scfadd .. => true
  | .rake n => within 1 5 n.toNat
  | .fadd .. => true
  | .fsub .. => true
  | .fmul .. => true
  | .fdiv .. => true
  | .fmin .. => true
  | .fmax .. => true
  | .fcpsgn .. => true
  | .ffma .. => true
  | .ffms .. => true
  | .fcmp p _ _ _ => isPred p
  | .faddi .. => true
  | .frndn .. => true
  | .frndz .. => true
  | .frndu .. => true
  | .frndd .. => true
  | .ffrac .. => true
  | .fabs .. => true
  | .fneg .. => true
  | .fclass .. => true
  | .hadd2 .. => true
  | .hmul2 .. => true
  | .badd2 .. => true
  | .bmul2 .. => true
  | .hfma2 .. => true
  | .bfma2 .. => true
  | .dadd .. => true
  | .dsub .. => true
  | .dmul .. => true
  | .ddiv .. => true
  | .dsqrt .. => true
  | .dfma .. => true
  | .dcmp p _ _ _ => isPred p
  | .rcp .. => true
  | .rsq .. => true
  | .sqrt .. => true
  | .ex2 .. => true
  | .lg2 .. => true
  | .sint .. => true
  | .cost .. => true
  | .tanh .. => true
  | .itof .. => true
  | .utof .. => true
  | .ftoi .. => true
  | .ftou .. => true
  | .ftod .. => true
  | .dtof .. => true
  | .itod .. => true
  | .dtoi .. => true
  | .ftoh2 .. => true
  | .htofl .. => true
  | .htofh .. => true
  | .ftob2 .. => true
  | .btofl .. => true
  | .btofh .. => true
  | .x8e4 .. => true
  | .x8e5 .. => true
  | .x6a .. => true
  | .x6b .. => true
  | .xi4o .. => true
  | .xi8 .. => true
  | .p8e4 .. => true
  | .p8e5 .. => true
  | .p6a .. => true
  | .p6b .. => true
  | .pi4o .. => true
  | .pi8 .. => true
  | .rmake .. => true
  | .rnum .. => true
  | .rden .. => true
  | .rmed .. => true
  | .rgcd .. => true
  | .rflr .. => true
  | .rtof .. => true
  | .ftor .. => true
  | .rmode _ m _ => decide (m.toNat ≤ 4)
  | .bra .. => true
  | .call .. => true
  | .brx .. => true
  | .callx .. => true
  | .ret => true
  | .exit => true
  | .yield => true
  | .nop => true
  | .barinit .. => true
  | .bararr .. => true
  | .barwait .. => true
  | .bararw .. => true
  | .bartest p _ _ => isPred p
  | .bardrop .. => true
  | .barinv .. => true
  | .barph .. => true
  | .fence p x c => p != 0 && x != 0 && within 1 12 c.toNat
  | .tlwait .. => true
  | .tlread .. => true
  | .tlpoll p _ _ => isPred p
  | .tlsig .. => true
  | .tkwait .. => true
  | .tkany _ _ m => m != 0
  | .tktest p _ => isPred p
  | .ld8 .. => true
  | .ld8s .. => true
  | .ld16 .. => true
  | .ld16s .. => true
  | .ld32 .. => true
  | .ld64 .. => true
  | .ld128 .. => true
  | .ldnt .. => true
  | .st8 .. => true
  | .st16 .. => true
  | .st32 .. => true
  | .st64 .. => true
  | .st128 .. => true
  | .stnt .. => true
  | .aadd .. => true
  | .amin .. => true
  | .amax .. => true
  | .aumin .. => true
  | .aand .. => true
  | .aor .. => true
  | .axor .. => true
  | .axch .. => true
  | .aadd64 .. => true
  | .amin64 .. => true
  | .amax64 .. => true
  | .aand64 .. => true
  | .aor64 .. => true
  | .axor64 .. => true
  | .axch64 .. => true
  | .afadd .. => true
  | .cas32 .. => true
  | .cas64 .. => true
  | .redadd .. => true
  | .redmin .. => true
  | .redmax .. => true
  | .redand .. => true
  | .redor .. => true
  | .redxor .. => true
  | .redfadd .. => true
  | .redbfadd .. => true
  | .sbind .. => true
  | .sflush .. => true
  | .sdrop .. => true
  | .pref .. => true
  | .cflush .. => true
  | .texs .. => true
  | .texl .. => true
  | .texg .. => true
  | .texq .. => true
  | .rbegin .. => true
  | .rdraw .. => true
  | .rflush .. => true
  | .mma .. => true
  | .mmas .. => true
  | .mlda .. => true
  | .mldw .. => true
  | .macz .. => true
  | .macld .. => true
  | .macst .. => true
  | .mrow .. => true
  | .msync => true
  | .mcfg t _ => decide (t.toNat ≤ 6)
  | .mpop .. => true
  | .mpopb .. => true
  | .frcopy .. => true
  | .frfill .. => true
  | .frgath .. => true
  | .frscat .. => true
  | .frred .. => true
  | .frpf .. => true
  | .spawn .. => true
  | .join .. => true
  | .enq .. => true
  | .deq .. => true
  | .launch .. => true
  | .cancel .. => true
  | .cntrd .. => true
  | .lwait .. => true
  | .lemit .. => true
  | .mesrch .. => true
  | .warpb .. => true
  | .fbset .. => true
  | .tmstat .. => true
  | .dlread .. => true
  | .trap .. => true
  | .rdsr _ b _ => decide (b.toNat ≤ 0x0C)
  | .wrsr _ b => decide (b.toNat ≤ 0x0C)
  | .cyc .. => true
  | .eret => true
  | .brk => true
  | .scall .. => true
  | .halt => true
  | .mseal .. => true
  | .mharv .. => true
  | .mquery .. => true
  | .mretire .. => true
  | .tlbinv .. => true
  | .tlbinva .. => true
  | .hintConst .. => true
  | .hintGuard .. => true
  | .hintHold n => within 1 8 n.toNat
  | .hintScope x _ => within 1 12 x.toNat
  | .hintRound .. => true
  | .hintMod .. => true
  | .hintSched .. => true
  | .loadDataReturn _ lane _ => decide (lane < 32)
  | .variableLatencyComplete .. => true
  | .qlockDetect .. => true
  | .runDeferral .. => true
  | .registerTierMove .. => true
  | .registerTierRecall .. => true
  | .asyncTrapDelivery .. => true
  | .consistExitReport .. => true
  | .sideLogReplay core => decide (core < 288)
  | .tlbProbe core sess _ => decide (core < 288) && decide (sess < 256)
  | .pageWalk core sess _ _ => decide (core < 288) && decide (sess < 256)
  | .faultRecordPost sess => decide (sess < 256)
  | .cowBreak sess _ => decide (sess < 256)
  | .tileExecute .. => true
  | .tileComplete .. => true
  | .rowQueueGrant core => decide (core < 288)
  | .mrowPush .. => true
  | .freightOperationStart sess ctx => decide (sess < 256) && decide (ctx < 16)
  | .freightOperationComplete sess ctx => decide (sess < 256) && decide (ctx < 16)
  | .freightFault sess ctx => decide (sess < 256) && decide (ctx < 16)
  | .freightAssemblyAbandon _ ctx => decide (ctx < 16)
  | .convoyExpand core => decide (core < 288)
  | .engineJoin sess slot => decide (sess < 256) && decide (slot < 1024)
  | .partitionFlip die => decide (die < 4)
  | .contextSwap core => decide (core < 288)
  | .convoyResume core => decide (core < 288)
  | .rasterDrawBin station => decide (station < 32)
  | .rasterPassComplete station => decide (station < 32)
  | .rasterFault station => decide (station < 32)
  | .rasterPassAbandon station slot => decide (station < 32) && decide (slot < 512)
  | .textureResult _ lane _ => decide (lane < 32)
  | .bandWindowOpen die stream => decide (die < 4) && decide (stream < 16)
  | .preparedImageReady die stream => decide (die < 4) && decide (stream < 16)
  | .lemitCopyComplete die stream => decide (die < 4) && decide (stream < 16)
  | .fbsetCopyComplete die stream => decide (die < 4) && decide (stream < 16)
  | .warpbComplete die stream => decide (die < 4) && decide (stream < 16)
  | .mesrchResult die stream => decide (die < 4) && decide (stream < 16)
  | .bandSettle die stream => decide (die < 4) && decide (stream < 16)
  | .tapHistoryWrite die stream => decide (die < 4) && decide (stream < 16)
  | .encoderTap die stream => decide (die < 4) && decide (stream < 16)
  | .encoderTileRow die stream => decide (die < 4) && decide (stream < 16)
  | .streamStopEffect die stream => decide (die < 4) && decide (stream < 16)
  | .streamMove die stream => decide (die < 4) && decide (stream < 16)
  | .sealHash sess _ => decide (sess < 256)
  | .sealLookup sess _ => decide (sess < 256)
  | .sealCommit sess _ => decide (sess < 256)
  | .sealAbort sess _ => decide (sess < 256)
  | .quiescenceVisit sess _ => decide (sess < 256)
  | .manifestRequestComplete sess => decide (sess < 256)
  | .keyRevokeComplete die slot => decide (die < 4) && decide (slot < 512)
  | .transferTablesMoved sess => decide (sess < 256)
  | .frameDrift sess frame => decide (sess < 256) && decide (frame < 268435456)
  | .transferComplete sess => decide (sess < 256)
  | .slipComplete sess => decide (sess < 256)
  | .sessParkComplete sess => decide (sess < 256)
  | .depotEndProceed sess => decide (sess < 256)
  | .sessEndComplete sess => decide (sess < 256)
  | .submitResume q => decide (q < 260)
  | .sqtail q _ => decide (q < 260)
  | .restart q => decide (q < 260)
  | .commandFetch q => decide (q < 260)
  | .forwardedCommand die => decide (die < 4)
  | .sessNew q _ => decide (q < 260)
  | .sessSlip q _ _ _ _ => decide (q < 260)
  | .sessMove q _ _ _ => decide (q < 260)
  | .sessMoveExtend q _ _ _ => decide (q < 260)
  | .sessEnd q _ => decide (q < 260)
  | .sessEndPark q _ => decide (q < 260)
  | .sessEndKill q _ => decide (q < 260)
  | .keyLoad q _ _ _ => decide (q < 260)
  | .keyDrop q _ _ => decide (q < 260)
  | .layoutPut q _ _ _ _ => decide (q < 260)
  | .layoutPutReset q _ _ => decide (q < 260)
  | .submit q _ _ _ _ => decide (q < 260)
  | .streamSetStart q _ => decide (q < 260)
  | .streamSetStop q _ _ => decide (q < 260)
  | .streamSetRestart q _ _ _ _ => decide (q < 260)
  | .attest q _ _ _ => decide (q < 260)
  | .capsRead q _ _ => decide (q < 260)
  | .rasLog q _ _ _ => decide (q < 260)
  | .hostAccess func _ size _ _ => (decide (func < 256) || (func % 256 == 0 && decide (func < 1024))) && within 1 8 size
  | .dieLinkFlit src dst _ => decide (src < 4) && decide (dst < 4) && src != dst
  | .linkResync src dst => decide (src < 4) && decide (dst < 4) && src != dst
  | .linkDown src dst => decide (src < 4) && decide (dst < 4) && src != dst
  | .linkRekey src dst => decide (src < 4) && decide (dst < 4) && src != dst
  | .dieReset die => decide (die < 4)
  | .uncorrectableError die _ => decide (die < 4)
  | .dramCorrectionReport die channel _ => decide (die < 4) && decide (channel < 32)
  | .rasctlClr die => decide (die < 4)
  | .injctlArm die _ => decide (die < 4)
  | .vfk die k _ => decide (die < 4) && decide (k < 16)
  | .keyreq die stream => decide (die < 4) && decide (stream < 16)
  | .registerWrite block unit offset _ => blockHolds block unit offset
  | .powerAverage die _ => decide (die < 4)
  | .supplyDip die station => decide (die < 4) && decide (station < 8)
  | .supplyRecovery die station => decide (die < 4) && decide (station < 8)
  | .throttle die sensor _ => decide (die < 4) && decide (sensor < 48)
  | .thermalTrip die sensor _ => decide (die < 4) && decide (sensor < 48)
  | .canarySample die router _ => decide (die < 4) && decide (router < 64)
  | .routerRetireMark die router => decide (die < 4) && decide (router < 64)
  | .routerRetired die router => decide (die < 4) && decide (router < 64)
  | .throttleRelease die sensor _ => decide (die < 4) && decide (sensor < 48)
  | .contestedCycle die column _ _ _ => decide (die < 4) && decide (column < 64)
  | .tdispRequest func die _ => decide (func < 256) && decide (die < 4)
  | .ideStreamActivation die stream _ => decide (die < 4) && decide (stream < 17)

end Sys2Proof
end

