-- ==== Sys2Proof/Tests/Slice0.lean ====
section
/-!
SUPPORT. Tests: ill-formed terms that the checks refuse, words that decode, and for every statement with hypotheses a
state and operands that meet them. Expected results are computed by hand from the spec's rules.
-/

namespace Sys2Proof.Tests

open Sys2Proof Sys2Proof.Machine

-- one theorem after another: evaluations side by side take too much memory
set_option Elab.async false

/-! ## Well-formedness: one ill-formed term for each check -/

theorem test_pred_refused : Instr.wellFormed (.icmp 8 1 2 0) = false := by decide
theorem test_pred_sources_refused : Instr.wellFormed (.pand 1 2 8) = false := by decide
theorem test_rake_refused : Instr.wellFormed (.rake 6) = false ∧ Instr.wellFormed (.rake 0) = false := by decide
theorem test_rmode_refused : Instr.wellFormed (.rmode 1 5 0) = false := by decide
theorem test_fence_refused : Instr.wellFormed (.fence 0 1 1) = false ∧ Instr.wellFormed (.fence 1 0 1) = false
    ∧ Instr.wellFormed (.fence 1 1 13) = false := by decide
theorem test_tkany_refused : Instr.wellFormed (.tkany 3 0 0) = false := by decide
theorem test_mcfg_refused : Instr.wellFormed (.mcfg 7 1) = false := by decide
theorem test_special_refused : Instr.wellFormed (.rdsr 3 13 0) = false := by decide
theorem test_hold_refused : Instr.wellFormed (.hintHold 0) = false ∧ Instr.wellFormed (.hintHold 9) = false := by decide
theorem test_scope_refused : Instr.wellFormed (.hintScope 13 0) = false := by decide
theorem test_lane_refused : Instr.wellFormed (.loadDataReturn 0 32 0) = false := by decide
theorem test_core_refused : Instr.wellFormed (.sideLogReplay 288) = false := by decide
theorem test_session_refused : Instr.wellFormed (.cowBreak 256 0) = false := by decide
theorem test_context_refused : Instr.wellFormed (.freightFault 0 16) = false := by decide
theorem test_slot_refused : Instr.wellFormed (.engineJoin 0 1024) = false := by decide
theorem test_die_refused : Instr.wellFormed (.dieReset 4) = false := by decide
theorem test_station_refused : Instr.wellFormed (.rasterFault 32) = false := by decide
theorem test_pass_refused : Instr.wellFormed (.rasterPassAbandon 0 512) = false := by decide
theorem test_stream_refused : Instr.wellFormed (.bandSettle 0 16) = false := by decide
theorem test_key_slot_refused : Instr.wellFormed (.keyRevokeComplete 0 512) = false := by decide
theorem test_frame_refused : Instr.wellFormed (.frameDrift 0 268435456) = false := by decide
theorem test_queue_refused : Instr.wellFormed (.sqtail 260 0) = false := by decide
theorem test_access_refused : Instr.wellFormed (.hostAccess 0 0 9 true 0) = false := by decide
theorem test_link_refused : Instr.wellFormed (.linkRekey 1 1) = false := by decide
theorem test_channel_refused : Instr.wellFormed (.dramCorrectionReport 0 32 1) = false := by decide
theorem test_point_refused : Instr.wellFormed (.vfk 0 16 0) = false := by decide
theorem test_register_refused : Instr.wellFormed (.registerWrite .ras 0 4 0) = false
    ∧ Instr.wellFormed (.registerWrite .queue 260 0 0) = false := by decide

/-! ## Benches -/

/-- Does nothing stand in the way of a word in a state, whose context satisfies a test? -/
def meets (w : Word) (o : OpInfo) (s : State) (p : Ctx → Bool) : Bool :=
  match findCtx s with
  | none => false
  | some x => (decodeCheck w o x).isNone && !hazard o x && (invalidLatch o x).isNone && readyLanes w o x == x.act && p x

theorem issues_of {w : Word} {o : OpInfo} {s : State} {p : Ctx → Bool} (h : meets w o s p = true) :
    ∃ x, Issues w o s x ∧ p x = true := by
  unfold meets at h
  split at h
  · simp at h
  · rename_i x hx
    simp only [Bool.and_eq_true, Bool.not_eq_true', Option.isNone_iff_eq_none, beq_iff_eq] at h
    exact ⟨x, ⟨hx, h.1.1.1.1, h.1.1.1.2, h.1.1.2, h.1.2⟩, h.2⟩

/-- The same of every row of a list of instructions. -/
theorem rows_issue {α : Type} {rows : List α} {f : α → Instr} {o : α → OpInfo} {s : State} {p : α → Ctx → Bool}
    (h : rows.all (fun e => match encode (f e) with | some u => meets u (o e) s (p e) | none => false) = true) :
    ∀ e ∈ rows, ∃ u x, encode (f e) = some u ∧ Issues u (o e) s x ∧ p e x = true := by
  intro e he
  have := List.all_eq_true.mp h e he
  cases hu : encode (f e) with
  | none => simp [hu] at this
  | some u =>
    simp only [hu] at this
    obtain ⟨x, hx⟩ := issues_of this
    exact ⟨u, x, rfl, hx⟩

/-- The consist of the bench, changed, with a stream in focus. -/
def bench (st : Strm) (f : Consist → Consist) : State :=
  { (State.reset.withBench 0).modConsist 0 f with focus := (0, st) }

/-- The bench of a line core. -/
def lineBench (st : Strm) (f : Consist → Consist) : State :=
  let k := lineKey 0 0 0 0
  { (State.reset.withBench 0xB0000000#32).modConsist k f with focus := (k, st) }

def benchC : State := bench .c id
def benchA : State := bench .a id

/-- Registers v n of every lane hold a value, and a and s registers. -/
def withV (n : Nat) (v : Word) (c : Consist) : Consist :=
  { c with vregs := (List.range 32).map (fun l => (32 * n + l, v)) ++ c.vregs }
def withA (n : Nat) (v : DWord) (c : Consist) : Consist :=
  { c with aregs := (List.range 32).map (fun l => (32 * n + l, v)) ++ c.aregs }

def goes (o : Host.Outcome State Fault Refusal) (p : State → Bool) : Bool :=
  match o with
  | .next t => p t
  | _ => false

/-- `State.sound`, found by evaluation. -/
def soundB (s : State) : Bool := s.corrupt == [] && s.dies.all (fun e => !e.2.injCtl.getLsbD 0)

theorem tget_none {V : Type} [Inhabited V] (p : V → Bool) (hd : p default = true) (t : Table V) (h : t.all (fun e => p e.2) = true)
    (k : Nat) : p (tget t k) = true := by
  induction t with
  | nil => exact hd
  | cons e t ih =>
    obtain ⟨j, v⟩ := e
    simp only [List.all_cons, Bool.and_eq_true] at h
    by_cases hj : j = k
    · simpa [tget, tfind, hj] using h.1
    · have := ih h.2
      simpa [tget, tfind, hj] using this

theorem sound_of {s : State} (h : soundB s = true) : s.sound := by
  simp only [soundB, Bool.and_eq_true, beq_iff_eq] at h
  refine ⟨h.1, fun d => ?_⟩
  simpa [State.die] using tget_none (fun x : Die => !x.injCtl.getLsbD 0) (by decide) s.dies h.2 d

/-! ## Words and steps -/

theorem witness_EncodedInstructionsDecode : encode (.iadd 3 1 2 0) = some 0x020C0820 := by decide
theorem witness_DecodedWordsEncode : decode 0x020C0820 = .ok (.iadd 3 1 2 0) := by decide

/-- A front end's turn in which the fetch reaches memory, found by evaluation. -/
def fetches (s : State) (w : Word) (p : Ctx → State → Bool) : Bool :=
  match s.takeTurn with
  | (.front k st, u) =>
    let y : State := { u with focus := (k, st) }
    match findCtx y with
    | none => false
    | some x =>
      decide (x.pc.toNat < x.c.csize) &&
      (match y.translate (x.c.asker x.key st) .fetch x.fetchVa with
       | (.to a, v) => decide (v.lineState a 4 = .good) && decide (w = v.byte (a + 3) ++ v.byte (a + 2) ++ v.byte (a + 1) ++ v.byte a)
           && p x (v.readDone a 4 (some (coreOf k)))
       | _ => false)
  | _ => false

theorem fetches_of {s : State} {w : Word} {p : Ctx → State → Bool} (h : fetches s w p = true) :
    ∃ t x, Fetches s t w ∧ p x t = true := by
  unfold fetches at h
  split at h
  · rename_i k st u hu
    simp only at h
    split at h
    · simp at h
    · rename_i x hx
      simp only [Bool.and_eq_true, decide_eq_true_eq] at h
      obtain ⟨hc, h⟩ := h
      split at h
      · rename_i a v hv
        simp only [Bool.and_eq_true, decide_eq_true_eq] at h
        exact ⟨v.readDone a 4 (some (coreOf k)), x, ⟨k, st, u, hu, x, hx, hc, a, v, hv, h.1.1, rfl, h.1.2⟩, h.2⟩
      · simp at h
  · simp at h

theorem witness_StepRunsDecodedInstruction_front :
    ∃ t x, Fetches (State.reset.withFetchWord 32 0x020C0820) t 0x020C0820 ∧ (decode 0x020C0820 == .ok (.iadd 3 1 2 0)
      && findCtx t == some x) = true :=
  fetches_of (p := fun x t => decode 0x020C0820 == .ok (.iadd 3 1 2 0) && findCtx t == some x) (by decide +kernel)

theorem witness_StepRunsDecodedInstruction_event :
    ({ State.reset with agenda := [.event (.keyreq 0 3)] } : State).takeTurn = (.event (.keyreq 0 3), State.reset) := rfl

theorem witness_UndecodableAndPrivilegedWordsTrap_illop :
    ∃ t x, Fetches (State.reset.withFetchWord 32 0) t 0 ∧ (findCtx t == some x && decode 0 == .illop) = true :=
  fetches_of (p := fun x t => findCtx t == some x && decode 0 == .illop) (by decide +kernel)

/-- NOT with a code other than z in B: position 3. -/
theorem witness_UndecodableAndPrivilegedWordsTrap_operand :
    ∃ t x, Fetches (State.reset.withFetchWord 32 0x060C0824) t 0x060C0824 ∧ (findCtx t == some x
      && (match decode 0x060C0824 with | .operand _ pos => pos == 3 | _ => false)
      && wordAbsent (isLine x.key) 0x060C0824 == false && !ownIllop 0x060C0824 x && !ownPriv 0x060C0824 x
      && hintMisused 0x060C0824 x.c x.hints == false
      && decide (wordStreams 0x060C0824 &&& (match x.st with | .c => 1 | .a => 2) ≠ 0)
      && decide (wordLevel 0x060C0824 ≤ x.c.level)) = true :=
  fetches_of (by decide +kernel)

/-- At user level, CID 0. -/
theorem witness_UndecodableAndPrivilegedWordsTrap_priv : ([(.eret, 1), (.halt, 3), (.deq 3 1 2 0, 1), (.mquery 3 1 2, 1), (.mretire 3 1 2, 3),
    (.tlbinv 1 2, 1), (.tlbinva 2, 1)] : List (Instr × Nat)).all (fun e => match encode e.1, findCtx (bench .a (fun c => { c with cid := 0 })) with
      | some u, some x => x.st == .a && decide (x.c.level < e.2) && x.c.level == 0 && !isLine x.key && !hintMisused u x.c x.hints
      | _, _ => false) = true := by decide +kernel

/-- The first check that a word meets, and what follows, found by evaluation. -/
def judged (s : State) (p : Ctx → Bool) : Bool :=
  match findCtx s with
  | none => false
  | some x => p x

theorem judged_of {s : State} {p : Ctx → Bool} (h : judged s p = true) : ∃ x, findCtx s = some x ∧ p x = true := by
  unfold judged at h
  split at h
  · simp at h
  · exact ⟨_, ‹_›, h⟩

theorem witness_ChecksComeInOrder_illop : judged benchC (fun x => wordAbsent (isLine x.key) 0xB0000000) = true := by
  decide +kernel
theorem witness_ChecksComeInOrder_stream : judged benchC (fun x =>
    wordStreams 0x810C1004 &&& (match x.st with | .c => 1 | .a => 2) == 0) = true := by decide +kernel
theorem witness_ChecksComeInOrder_priv : judged (bench .c (fun c => { c with cid := 0 })) (fun x =>
    decide (x.c.level < wordLevel 0xC1E3C784)) = true := by decide +kernel
theorem witness_ChecksComeInOrder_operand : judged (bench .c (fun c => { c with nv := 3 })) (fun x =>
    (decodeCheck 0x020C0820 (info3 3 1 2) x).isSome && (badOperand (info3 3 1 2) x == some 1)) = true := by decide +kernel
theorem witness_ChecksComeInOrder_latch : judged benchC (fun x =>
    (decodeCheck 0x020C0820 (info3 3 0x73 2) x).isNone && (invalidLatch (info3 3 0x73 2) x == some 3)) = true := by
  decide +kernel
theorem witness_ChecksComeInOrder_queue : judged benchC (fun x =>
    (decodeCheck 0x020C0820 (info3 3 0x7A 2) x).isNone && (invalidLatch (info3 3 0x7A 2) x).isNone
      && !hazard (info3 3 0x7A 2) x && x.act != 0 && readyLanes 0x020C0820 (info3 3 0x7A 2) x == 0) = true := by decide +kernel
theorem witness_ChecksComeInOrder_hazard : judged (bench .c (fun c => { c with inflight :=
    [{ kind := .variable, strm := .c, lane := 0, dest := .reg 1 false true, vals := [0, 0], clk := default }] })) (fun x =>
    (decodeCheck 0x020C0820 (info3 3 1 2) x).isNone && hazard (info3 3 1 2) x) = true := by decide +kernel

theorem witness_OnlyHostAccessStops :
    exec (.hostAccess 0 0xFFFFFFFFFF 2 true 0) State.reset = .fault .noDeviceAddress := rfl

theorem witness_MemoryStaysCanonical :
    Memory.wf (State.reset.withFetchWord 32 0x020C0820).mem = true ∧ Memory.wf (State.reset.withFetchWord 32 0x020C0820).hostMem = true
      ∧ goes (step (State.reset.withFetchWord 32 0x020C0820)) (fun _ => true) = true := by decide +kernel

/-! ## Traps -/

theorem witness_TrapsStartHandlersOrTerminate_handler :
    let c : Consist := { benchConsist false with handler := some 0x200 }
    c.saved = none ∧ c.handler = some 0x200 ∧ Table.sorted c.a.hints = true ∧ Table.sorted c.c.hints = true := by decide
theorem witness_TrapsStartHandlersOrTerminate_none : (benchConsist false).handler = none := by decide

/-- A consist whose handler runs on its A-stream, from a trap that stood at 0x40. -/
def handling (c : Consist) : Consist :=
  { c with saved := some { a := StreamSt.start 0x100 0xFFFFFFFF, c := StreamSt.start 0x40 0xFFFFFFFF, level := 0, pc := 0x40 },
           trapc := 0xFFFFFFFF00000010, trappc := 0x44 }

theorem witness_EretReturns_resume : ∃ x, Issues (packReg 0x60 0x78 0x78 0x78 0 4) { transfer := true } (bench .a handling) x ∧
    (x.c.saved.isSome && !x.c.cancelled && decide (x.c.trappc.toNat < x.c.csize) && x.c.trappc.toNat % 4 == 0) = true :=
  issues_of (by decide +kernel)
theorem witness_EretReturns_cancel : ∃ x, Issues (packReg 0x60 0x78 0x78 0x78 0 4) { transfer := true }
    (bench .a (fun c => { handling c with cancelled := true })) x ∧ (x.c.saved.isSome && x.c.cancelled) = true :=
  issues_of (by decide +kernel)

theorem witness_PrivilegedInstructionsTrap : ([.eret, .halt, .deq 3 1 2 0, .mquery 3 1 2, .mretire 3 1 2, .tlbinv 1 2, .tlbinva 2] :
    List Instr).all (fun i => match encode i with
      | some u => judged (bench .a (fun c => { c with cid := 0 })) (fun x =>
          x.c.level == 0 && isLine x.key == false && hintMisused u x.c x.hints == false && decide (x.c.level < wordLevel u))
      | none => false) = true := by decide +kernel
theorem witness_StoredBytesAreRead : 2 ^ 40 - 4 + 4 ≤ 2 ^ 40 := by decide

/-! ## Register instructions -/

/-- Registers v1 and v2 of every lane hold 7 and 3, and quads from v4 on hold ones. -/
def numbers (c : Consist) : Consist := withV 1 7 (withV 2 3 c)
def numbersA (c : Consist) : Consist := withA 1 7 (withA 2 3 c)

theorem witness_IntegerResults_two : ∀ e ∈ twoSource 3 1 2 0, ∃ u x, encode e.1 = some u ∧ Issues u (info3 3 1 2) benchC x
    ∧ (x.act != 0) = true :=
  rows_issue (p := fun _ x => x.act != 0) (by decide +kernel)
theorem witness_IntegerResults_one : ∀ e ∈ oneSource 3 1 1, ∃ u x, encode e.1 = some u ∧ Issues u (info2 3 1) benchA x
    ∧ (x.act != 0) = true :=
  rows_issue (p := fun _ x => x.act != 0) (by decide +kernel)
theorem witness_IntegerResults_immediate : ∃ x, findCtx benchC = some x ∧ ((immediateForms x 3 1 0 0x3FF 31).all (fun e =>
    match encode e.1 with | some u => meets u e.2.1 benchC (fun y => y == x) | none => false)) = true :=
  judged_of (p := fun x => (immediateForms x 3 1 0 0x3FF 31).all (fun e =>
    match encode e.1 with | some u => meets u e.2.1 benchC (fun y => y == x) | none => false)) (by decide +kernel)

/-- Lane 0 of two has an entry in the queue that operand A names, and lane 1 has none. -/
theorem witness_QueueOperationsSplitRuns : judged (bench .c (fun c => { c with lmask := 3, sq := [], xqAC := [(0, [⟨9, true, 0, default⟩])] })) (fun x =>
    (twoSource 3 0x7B 2 0).all (fun e => match encode e.1 with
      | some u => (decodeCheck u (info3 3 0x7B 2) x).isNone && !hazard (info3 3 0x7B 2) x && (invalidLatch (info3 3 0x7B 2) x).isNone
          && readyLanes u (info3 3 0x7B 2) x == 1 && x.act &&& ~~~(readyLanes u (info3 3 0x7B 2) x) == 2
      | none => false)) = true := by decide +kernel

theorem witness_WideAndDividedResults_imad : ∃ x, Issues (packAcc 0x0A 3 1 2 0 0) (infoAcc false 3 1 2 0) benchC x ∧ (x.act != 0) = true :=
  issues_of (by decide +kernel)
theorem witness_WideAndDividedResults_bfi : ∃ x, Issues (packReg 0x07 3 1 2 0 5)
    { uses := [(1, 3, .place false), (2, 1, .src false true), (3, 2, .src false true)] } benchC x ∧ (x.act != 0) = true :=
  issues_of (by decide +kernel)
theorem witness_WideAndDividedResults_sel : ∃ x, Issues (packReg 0x0F 3 1 2 0 7) (info3 3 1 2) benchC x ∧ (x.act != 0) = true :=
  issues_of (by decide +kernel)
theorem witness_WideAndDividedResults_ptoi : ∃ x, Issues (packReg 0x10 3 7 0 0 6)
    { uses := [(1, 3, .dst false false true), (2, 7, .pred)] } benchC x ∧ (x.act != 0) = true := issues_of (by decide +kernel)
theorem witness_WideAndDividedResults_lea : ∃ x, Issues (packReg 0x11 3 1 2 0 7)
    { uses := [(1, 3, .dst false true true), (2, 1, .src false true), (3, 2, .src false true)] } benchA x ∧ (x.act != 0) = true :=
  issues_of (by decide +kernel)
theorem witness_WideAndDividedResults_divide : ([.idiv 3 1 2 0, .udiv 3 1 2 0, .irem 3 1 2 0, .urem 3 1 2 0] : List Instr).all (fun i =>
    match encode i with
    | some u => meets u (info3 3 1 2) (bench .c numbers) (fun x => decide (∀ l ∈ lanesOf x.act, src2 x 1 2 l ≠ 0))
    | none => false) = true := by decide +kernel
theorem witness_DivisionByZeroTraps : ([.idiv 3 1 2 0, .udiv 3 1 2 0, .irem 3 1 2 0, .urem 3 1 2 0] : List Instr).all (fun i =>
    match encode i with
    | some u => meets u (info3 3 1 2) benchC (fun x => decide (∃ l ∈ lanesOf x.act, src2 x 1 2 l = 0))
    | none => false) = true := by decide +kernel

theorem witness_PredicateResults_icmp : ∃ x, Issues (packReg 0x0C 1 1 2 0 7)
    { uses := [(1, 1, .pred), (2, 1, .src false true), (3, 2, .src false true)] } benchC x ∧ (x.act != 0) = true :=
  issues_of (by decide +kernel)
theorem witness_PredicateResults_icmpi : ∃ x, Issues (packImm 0x0D 7 1 0 (0b111#3 ++ 0x40#7))
    { uses := [(1, 7, .pred), (2, 1, .src false true)] } benchC x ∧ (x.act != 0) = true := issues_of (by decide +kernel)
theorem witness_PredicateResults_combine : ∀ e ∈ predicateForms 0 6 7, ∃ u x, encode e.1 = some u ∧
    Issues u { uses := [(1, 0, .pred), (2, 6, .pred), (3, 7, .pred)] } benchC x ∧ (x.act != 0) = true :=
  rows_issue (p := fun _ x => x.act != 0) (by decide +kernel)
theorem witness_PredicateResults_pmov : ∃ x, Issues (packReg 0x10 1 2 0 0 4) { uses := [(1, 1, .pred), (2, 2, .pred)] } benchC x
    ∧ (x.act != 0) = true := issues_of (by decide +kernel)
theorem witness_PredicateResults_pnz : ∃ x, Issues (packReg 0x10 1 2 0x78 0 5) { uses := [(1, 1, .pred), (2, 2, .src false true)] }
    benchA x ∧ (x.act != 0) = true := issues_of (by decide +kernel)
theorem witness_PredicateResults_vany : ∃ x, Issues (packReg 0x13 1 2 0x78 0 0) { uses := [(1, 1, .pred), (2, 2, .pred)] } benchC x
    ∧ (x.act != 0) = true := issues_of (by decide +kernel)
theorem witness_PredicateResults_vall : ∃ x, Issues (packReg 0x13 1 2 0x78 0 1) { uses := [(1, 1, .pred), (2, 2, .pred)] } benchC x
    ∧ (x.act != 0) = true := issues_of (by decide +kernel)

theorem witness_CrossLaneResults_permute : ([(.shfli 3 1 2 0, 2), (.shflu 3 1 2 0, 2), (.shfld 3 1 2 0, 2), (.shflx 3 1 2 0, 2),
    (.swapp 3 1 0, 1), (.bcast 3 1 2 0, 2)] : List (Instr × Nat)).all (fun e =>
    match encode e.1 with
    | some u => meets u (if e.2 = 2 then { uses := [(1, 3, .dst false false true), (2, 1, .src false false), (3, 2, .src false true)], cross := true }
        else { uses := [(1, 3, .dst false false true), (2, 1, .src false false)], cross := true }) benchC (fun x => x.act != 0)
    | none => false) = true := by decide +kernel
theorem witness_CrossLaneResults_reduce : ([.rdadd 3 1 0, .rdmin 3 1 0, .rdmax 3 1 0, .rdand 3 1 0, .rdor 3 1 0, .rdxor 3 1 0,
    .scadd 3 1 0, .matchLanes 3 1 0] : List Instr).all (fun i =>
    match encode i with | some u => meets u (info2 3 1) benchC (fun x => x.act != 0) | none => false) = true := by decide +kernel
theorem witness_CrossLaneResults_vbal : ∃ x, Issues (packReg 0x13 3 2 0x78 0 2)
    { uses := [(1, 3, .dst false false true), (2, 2, .pred)] } benchC x ∧ (x.act != 0) = true := issues_of (by decide +kernel)

/-- What an instruction leaves in v register n of lane 0, in the C-stream. -/
def leavesV (i : Instr) (f : Consist → Consist) (n : Nat) (v : Word) : Bool :=
  goes (exec i (bench .c f)) (fun t => match t.consist? 0 with | some c => c.v n 0 == v | none => false)

/-- The same of an a register, in the A-stream. -/
def leavesA (i : Instr) (f : Consist → Consist) (n : Nat) (v : DWord) : Bool :=
  goes (exec i (bench .a f)) (fun t => match t.consist? 0 with | some c => tget c.aregs (32 * n) == v | none => false)

/-- The oldest result in flight. -/
def sends (i : Instr) (f : Consist → Consist) (vals : List Word) : Bool :=
  goes (exec i (bench .c f)) (fun t => match t.consist? 0 with
    | some c => (match c.inflight with | g :: _ => g.vals == vals | [] => false)
    | none => false)

theorem test_iadd_wraps : leavesV (.iadd 3 1 2 0) (fun c => withV 1 0xFFFFFFFF (withV 2 3 c)) 3 2 = true := by decide +kernel
theorem test_isub : leavesV (.isub 3 1 2 0) numbers 3 4 = true := by decide +kernel
theorem test_isub_wide : leavesA (.isub 3 2 1 0) numbersA 3 0xFFFFFFFFFFFFFFFC = true := by decide +kernel
theorem test_imulh_signed : leavesV (.imulh 3 1 2 0) (fun c => withV 1 0xFFFFFFFF (withV 2 3 c)) 3 0xFFFFFFFF = true := by decide +kernel
theorem test_umulh : leavesV (.umulh 3 1 2 0) (fun c => withV 1 0xFFFFFFFF (withV 2 3 c)) 3 2 = true := by decide +kernel
theorem test_imin_signed : leavesV (.imin 3 1 2 0) (fun c => withV 1 0x80000000 (withV 2 3 c)) 3 0x80000000 = true := by decide +kernel
theorem test_sar_beyond_width : leavesV (.sar 3 1 2 0) (fun c => withV 1 0x80000000 (withV 2 40 c)) 3 0xFFFFFFFF = true := by
  decide +kernel
theorem test_clz : leavesV (.clz 3 1 0) numbers 3 29 = true := by decide +kernel
theorem test_bswap : leavesV (.bswap 3 1 0) (withV 1 0x11223344) 3 0x44332211 = true := by decide +kernel
theorem test_movi_negative : leavesV (.movi 3 0 0x3FF) id 3 0xFFFFFFFF = true := by decide +kernel
theorem test_imad_accumulates : leavesV (.imad 3 1 2 0 0) (fun c => withV 3 100 (numbers c)) 3 121 = true := by decide +kernel
theorem test_bfi : leavesV (.bfi 3 1 2 0) (fun c => withV 3 0xFFFFFFFF (withV 1 0 (withV 2 0x0804 c))) 3 0xFFFFF00F = true := by
  decide +kernel
theorem test_lea : leavesA (.lea 3 1 2 0 3) numbersA 3 31 = true := by decide +kernel
theorem test_idiv_truncates : sends (.idiv 3 1 2 0) (fun c => withV 1 0xFFFFFFF9 (withV 2 2 c)) [0xFFFFFFFD] = true := by decide +kernel
theorem test_urem : sends (.urem 3 1 2 0) numbers [1] = true := by decide +kernel
theorem test_rdadd : leavesV (.rdadd 3 1 0) numbers 3 224 = true := by decide +kernel
theorem test_w1_keeps_the_register : leavesV (.iadd 3 1 2 1) (fun c => withV 3 9 (numbers c)) 3 9 = true := by decide +kernel

/-! ## Floating point, narrow elements and rationals -/

/-- One lane only. -/
def alone (c : Consist) : Consist := { c with lmask := 1 }

/-- Rational mode, and rational mode with RATZ enabled (R107). -/
def rational (c : Consist) : Consist := { alone c with csw := c.csw ||| 0x40 }
def rationalTraps (c : Consist) : Consist := { alone c with csw := c.csw ||| 0x440 }

/-- Every row of a list that a context gives meets what it must. -/
def formsMeet {α : Type} (rows : Ctx → List α) (f : α → Instr) (o : α → OpInfo) (p : α → Ctx → Bool) (s : State) (x : Ctx) : Bool :=
  (rows x).all (fun e => match encode (f e) with | some u => meets u (o e) s (fun y => y == x && p e y) | none => false)

theorem witness_FloatingPointResults : ∃ x, findCtx (bench .c alone) = some x ∧
    (formsMeet (fun x => allFloatForms x 4 6 8 0 0 0x0F8) (fun e => e.instr) (fun e => e.info)
      (fun e y => decide (∀ l ∈ lanesOf y.act, (e.value l).2 &&& enabled y = 0)) (bench .c alone) x
      && (allFloatForms x 4 6 8 0 0 0x0F8).length == 43) = true :=
  judged_of (p := fun x => formsMeet (fun x => allFloatForms x 4 6 8 0 0 0x0F8) (fun e => e.instr) (fun e => e.info)
      (fun e y => decide (∀ l ∈ lanesOf y.act, (e.value l).2 &&& enabled y = 0)) (bench .c alone) x
      && (allFloatForms x 4 6 8 0 0 0x0F8).length == 43) (by decide +kernel)

/-- A signalling NaN in v6 with every exception enabled. -/
def signals : State := bench .c (fun c => withV 6 0x7F800001 { alone c with csw := c.csw ||| 0xF800 })

/-- FADD of it. -/
theorem witness_EnabledExceptionsTrap : ∃ x, findCtx signals = some x ∧
    formsMeet (fun x => (allFloatForms x 4 6 8 0 0 0).take 1) (fun e => e.instr) (fun e => e.info)
      (fun e y => decide (0 ∈ lanesOf y.act) && (e.value 0).2 &&& enabled y != 0) signals x = true :=
  judged_of (p := formsMeet (fun x => (allFloatForms x 4 6 8 0 0 0).take 1) (fun e => e.instr) (fun e => e.info)
      (fun e y => decide (0 ∈ lanesOf y.act) && (e.value 0).2 &&& enabled y != 0) signals) (by decide +kernel)

theorem witness_SpecialFunctionResults : ([.rcp 3 1 0, .rsq 3 1 0, .sqrt 3 1 0, .ex2 3 1 0, .lg2 3 1 0, .sint 3 1 0, .cost 3 1 0,
    .tanh 3 1 0] : List Instr).all (fun i => match encode i with
      | some u => meets u (infoF2 3 1) benchC (fun x => x.act != 0 && !x.c.rat && enabled x == 0)
      | none => false) = true := by decide +kernel
/-- The tabled values, and an exact value between two floats. -/
theorem witness_SpecialFunctionResults_values : specialValue 0 (Fmt.f32.read false 0) = some (0x7F800000, flagDZ) ∧
    Fmt.f32.read false 0x40400000 = .fin false 0xC00000 (-22) ∧ (exactValue 0 0xC00000 (-22)).isSome = true := by decide

/-- 3.0, whose reciprocal is no binary32 value, and 2^127 × 2, which EX2 of 128 exceeds. -/
theorem witness_SpecialFunctionResults_flags : specialValue 0 (Fmt.f32.read false 0x40400000) = none ∧
    exactArgument 0 false 0xC00000 (-22) = false ∧ Fmt.f32.read true 0x40400000 = .fin false 0xC00000 (-22) ∧
    exactArgument 4 false 0x800000 (-20) = true := by decide +kernel
theorem witness_SpecialFunctionBounds : ([.rcp 3 1 0, .rsq 3 1 0, .sqrt 3 1 0, .ex2 3 1 0, .lg2 3 1 0, .sint 3 1 0, .cost 3 1 0,
    .tanh 3 1 0] : List Instr).all (fun i => match encode i with
      | some u => meets u (infoF2 3 1) (bench .c (withV 1 0x3E99999A)) (fun x => x.act != 0 && !x.c.rat && !flushOn x && enabled x == 0
          && fsrcA x false 1 0 == 0x3E99999A)
      | none => false) = true := by decide +kernel
/-- 0.3 is tabled for no function. -/
theorem witness_SpecialFunctionBounds_number : (List.range 8).all (fun fn =>
    (specialValue fn (Fmt.f32.read false 0x3E99999A)).isNone) = true ∧ ∃ n m k, Fmt.f32.read false 0x3E99999A = .fin n m k := by
  refine ⟨by decide +kernel, _, _, _, rfl⟩

theorem witness_FloatComparesAndMoves_compare : ([(.fcmp 1 4 6 7, false), (.dcmp 1 4 6 2, true)] : List (Instr × Bool)).all (fun e =>
    match encode e.1 with
    | some u => meets u { uses := [(1, 1, .pred), (2, 4, .src e.2 true), (3, 6, .src e.2 true)] } (bench .c alone) (fun x =>
        x.act != 0 && !x.c.rat && enabled x == 0)
    | none => false) = true := by decide +kernel
theorem witness_FloatComparesAndMoves_move : ([(.fcpsgn 3 1 2 0, infoF3 false 3 1 2), (.fabs 3 1 0, infoF2 3 1), (.fneg 3 1 0, infoF2 3 1)] :
    List (Instr × OpInfo)).all (fun e => match encode e.1 with
      | some u => meets u e.2 (bench .c alone) (fun x => x.act != 0 && !x.c.rat)
      | none => false) = true := by decide +kernel
theorem witness_FclassResult : ∃ x, Issues (packReg 0x1E 3 1 0x78 0 7) (infoF2 3 1) benchC x ∧ (x.act != 0 && !x.c.rat) = true :=
  issues_of (by decide +kernel)

theorem witness_ExtractAndPackResults_extract : ([.x8e4 3 4 1 0, .x8e5 3 4 1 0, .x6a 3 4 1 0, .x6b 3 4 1 0, .xi4o 3 4 1 0, .xi8 3 4 1 0] :
    List Instr).all (fun i => match encode i with
      | some u => meets u { uses := [(1, 3, .dst false false true), (2, 4, .quad), (3, 1, .src false true)] } (bench .c (withV 1 15)) (fun x =>
          x.act != 0 && decide (∀ l ∈ lanesOf x.act, (src1 x 1 l).toNat < 16))
      | none => false) = true := by decide +kernel
/-- Index 32 lies beyond every word. -/
theorem witness_ExtractAndPackResults_bounds : ∃ x, Issues (packReg 0x28 3 4 1 0 0)
    { uses := [(1, 3, .dst false false true), (2, 4, .quad), (3, 1, .src false true)] } (bench .c (withV 1 32)) x ∧
    (x.act != 0 && (src1 x 1 0).toNat == 32) = true := issues_of (by decide +kernel)
/-- A 6-bit word with a spare bit set. -/
theorem witness_ExtractAndPackResults_spare : ∃ x, Issues (packReg 0x28 3 4 1 0 2)
    { uses := [(1, 3, .dst false false true), (2, 4, .quad), (3, 1, .src false true)] } (bench .c (withV 7 0x40000000)) x ∧
    (x.act != 0 && (x.c.v 7 0).toNat == 2 ^ 30) = true := issues_of (by decide +kernel)
theorem witness_ExtractAndPackResults_pack : ([.p8e4 4 1 2, .p8e5 4 1 2, .p6a 4 1 2, .p6b 4 1 2, .pi4o 4 1 2, .pi8 4 1 2] :
    List Instr).all (fun i => match encode i with
      | some u => meets u { uses := [(1, 4, .quad), (2, 1, .src false true), (3, 2, .src false true)] } (bench .c (withV 2 15)) (fun x =>
          x.act != 0 && enabled x == 0 && decide (∀ l ∈ lanesOf x.act, (src2 x 1 2 l).toNat < 16))
      | none => false) = true := by decide +kernel

theorem witness_RationalArithmeticResults_values : ∃ x, findCtx (bench .c rational) = some x ∧
    (formsMeet (fun x => slashForms x 4 6 8 0 0 0) (fun e => e.instr) (fun e => e.info) (fun _ y => !y.c.csw.getLsbD 10) (bench .c rational) x
      && (slashForms x 4 6 8 0 0 0).length == 26) = true :=
  judged_of (p := fun x => formsMeet (fun x => slashForms x 4 6 8 0 0 0) (fun e => e.instr) (fun e => e.info) (fun _ y => !y.c.csw.getLsbD 10)
      (bench .c rational) x && (slashForms x 4 6 8 0 0 0).length == 26) (by decide +kernel)

/-- FDIV of 1 by 0 with RATZ enabled: the code of 1 is read from v6 (R203). -/
def oneOverZero : State := bench .c (fun c => withV 6 (BitVec.ofNat 32 (writeSlash false (.fin 1 1)))
  (withV 8 (BitVec.ofNat 32 (writeSlash false (.fin 0 1))) (rationalTraps c)))
theorem witness_ZeroDenominatorsTrap : ∃ x, findCtx oneOverZero = some x ∧
    formsMeet (fun x => ((slashForms x 4 6 8 0 0 0).drop 3).take 1) (fun e => e.instr) (fun e => e.info)
      (fun e y => y.c.csw.getLsbD 10 && decide (0 ∈ lanesOf y.act) && (e.value 0).noDenominator) oneOverZero x = true :=
  judged_of (p := formsMeet (fun x => ((slashForms x 4 6 8 0 0 0).drop 3).take 1) (fun e => e.instr) (fun e => e.info)
      (fun e y => y.c.csw.getLsbD 10 && decide (0 ∈ lanesOf y.act) && (e.value 0).noDenominator) oneOverZero) (by decide +kernel)
theorem witness_RationalArithmeticResults_reads : ([(.rnum 3 1 0, infoF2 3 1), (.rden 3 1 0, infoF2 3 1), (.rgcd 3 1 2 0, infoF3 false 3 1 2),
    (.rflr 3 1 0, infoF2 3 1), (.rtof 3 1 0, infoF2 3 1)] : List (Instr × OpInfo)).all (fun e => match encode e.1 with
      | some u => meets u e.2 (bench .c alone) (fun x => x.act != 0 && enabled x == 0)
      | none => false) = true := by decide +kernel
theorem witness_RationalArithmeticResults_compare : ([(.fcmp 1 4 6 0, false), (.dcmp 1 4 6 7, true)] : List (Instr × Bool)).all (fun e =>
    match encode e.1 with
    | some u => meets u { uses := [(1, 1, .pred), (2, 4, .src e.2 true), (3, 6, .src e.2 true)] } (bench .c rational) (fun x =>
        x.act != 0 && x.c.rat)
    | none => false) = true := by decide +kernel
theorem witness_RationalArithmeticResults_move : ([(.fcpsgn 3 1 2 0, infoF3 false 3 1 2), (.fabs 3 1 0, infoF2 3 1), (.fneg 3 1 0, infoF2 3 1),
    (.fclass 3 1 0, infoF2 3 1)] : List (Instr × OpInfo)).all (fun e => match encode e.1 with
      | some u => meets u e.2 (bench .c rational) (fun x => x.act != 0 && x.c.rat)
      | none => false) = true := by decide +kernel
theorem witness_ModeInstructions_rake : ∃ x, Issues (packImm 0x16 0x78 0x78 0 (0#7 ++ 5#3)) { illop := decide ((5#3).toNat = 0) || decide (5 < (5#3).toNat) }
    benchC x ∧ (x.run != 0) = true := issues_of (by decide +kernel)
theorem witness_ModeInstructions_rmode : ∃ x, Issues (packImm 0x2B 0x78 0x78 0 (0#5 ++ 1#1 ++ 4#3 ++ 1#1)) { illop := decide (4 < (4#3).toNat) }
    benchC x ∧ (x.run != 0) = true := issues_of (by decide +kernel)

theorem test_fadd : leavesV (.fadd 3 1 2 0) (fun c => withV 1 0x3F800000 (withV 2 0x40000000 c)) 3 0x40400000 = true := by decide +kernel
theorem test_fmul_denormal_flush : leavesV (.fmul 3 1 2 0) (fun c => withV 1 0x00000001 (withV 2 0x3F800000 c)) 3 1 = true := by decide +kernel
theorem test_ffma_rounds_once :
    leavesV (.ffma 3 1 2 0 0) (fun c => withV 1 0x3F800001 (withV 2 0x3F800001 (withV 3 0xBF800002 c))) 3 0x28800000 = true := by
  decide +kernel
theorem test_ftoi_clamps : leavesV (.ftoi 3 1 0) (withV 1 0x4F800000) 3 0x7FFFFFFF = true := by decide +kernel
theorem test_itof : leavesV (.itof 3 1 0) (withV 1 0xFFFFFFFD) 3 0xC0400000 = true := by decide +kernel
theorem test_hadd2 : leavesV (.hadd2 3 1 2 0) (fun c => withV 1 0x3C004000 (withV 2 0x3C003C00 c)) 3 0x40004200 = true := by decide +kernel
theorem test_fclass_minus_infinity : leavesV (.fclass 3 1 0) (withV 1 0xFF800000) 3 4 = true := by decide +kernel
theorem test_rcp_of_minus_zero : leavesV (.rcp 3 1 0) (withV 1 0x80000000) 3 0xFF800000 = true := by decide +kernel
theorem test_x8e4_one : leavesV (.x8e4 3 4 1 0) (fun c => withV 4 0x00003800 (withV 1 1 c)) 3 0x3F800000 = true := by decide +kernel
theorem test_rgcd : sends (.rgcd 3 1 2 0) (fun c => withV 1 12 (withV 2 0xFFFFFFEE c)) [6] = true := by decide +kernel

/-! ## Control and hints -/

/-- BRA by two instructions, taken by every lane (p7 with S = 0). -/
theorem witness_TransfersOfControl_bra : ∃ x, Issues (packBrn 0x30 7 0 2) { transfer := true } benchC x ∧
    (branchLanes x 7 0 != [] && decide ((branchTarget x 2).toNat < x.c.csize) && (branchTarget x 2).toNat % 4 == 0) = true :=
  issues_of (by decide +kernel)
theorem witness_TransfersOfControl_brx : ∃ x, Issues (packReg 0x31 0x78 1 0x78 0 0) { uses := [(2, 1, .src false true)], transfer := true }
    (bench .c (withV 1 0xFFC)) x ∧ decide (∀ l ∈ lanesOf x.act, (src1 x 1 l).toNat < x.c.csize ∧ (src1 x 1 l).toNat % 4 = 0) = true :=
  issues_of (by decide +kernel)
theorem witness_TransfersOfControl_call : ∃ x, Issues (packBrn 0x32 7 0 2) { transfer := true } benchC x ∧
    (spillsOf x (branchLanes x 7 0) == [] && decide (∀ l ∈ branchLanes x 7 0, (tget (x.c.strm x.st).rets l).length < 8)) = true :=
  issues_of (by decide +kernel)
/-- Spilling nothing needs no translation. -/
theorem witness_TransfersOfControl_spill (x : Ctx) (s : State) : privWordsAt x .write [] s = .val [] s := rfl

/-- A consist with private memory and 8 return addresses in each lane. -/
def deep (c : Consist) : Consist :=
  { c with privWords := 4, lmask := 1, c := { c.c with rets := [(0, List.replicate 8 0x20)] } }
theorem witness_TransfersOfControl_callx : ∃ x, Issues (packReg 0x33 0x78 1 0x78 0 0) { uses := [(2, 1, .src false true)], transfer := true }
    (bench .c deep) x ∧ (spillsOf x [0] == [(0, 2)] && lanesOf x.act == [0] &&
      decide ((tget (x.c.strm x.st).rets 0).length = 8 ∧ x.c.stklim.toNat + 2 ≤ x.c.privWords) &&
      (match privWordsAt x .write [(0, 2)] (learnPops { uses := [(2, 1, .src false true)], transfer := true } x (bench .c deep)) with
       | .val _ t => t.consist? x.key == some x.c && soundB t | _ => false)) = true :=
  issues_of (by decide +kernel)
theorem witness_TransfersOfControl_ret : ∃ x, Issues (packReg 0x34 0x78 0x78 0x78 0 0) { transfer := true } (bench .c deep) x ∧
    (lanesOf x.act == [0] && tget (x.c.strm x.st).rets 0 == 0x20 :: List.replicate 7 0x20) = true := issues_of (by decide +kernel)
/-- A lane whose only return address has been spilled. -/
def spilt (c : Consist) : Consist := { c with privWords := 4, lmask := 1, c := { c.c with spilled := [(0, 1)] } }
theorem witness_TransfersOfControl_reload : ∃ x, Issues (packReg 0x34 0x78 0x78 0x78 0 0) { transfer := true } (bench .c spilt) x ∧
    (lanesOf x.act == [0] && tget (x.c.strm x.st).rets 0 == [] && (match privWordsAt x .read [(0, 2)] (bench .c spilt) with
      | .val ps t => t.consist? x.key == some x.c && decide (badLine t ps = .good) && soundB t &&
          (match ps.find? (fun q => q.lane == 0) with
           | some p => p.read (correctPieces (ps.foldl (fun v p => p.usePriv x v false) t) ps (some (coreOf x.key))) 0 == 0
           | none => false)
      | _ => false)) = true := issues_of (by decide +kernel)

theorem witness_BadTransfersTrap_bounds : ∃ x, Issues (packBrn 0x30 7 0 0x400) { transfer := true } benchC x ∧
    (branchLanes x 7 0 != [] && decide (x.c.csize ≤ (branchTarget x 0x400).toNat)) = true := issues_of (by decide +kernel)
theorem witness_BadTransfersTrap_computed : ∃ x, Issues (packReg 0x31 0x78 1 0x78 0 0) { uses := [(2, 1, .src false true)], transfer := true }
    (bench .c (withV 1 0x1000)) x ∧ decide (0 ∈ lanesOf x.act ∧ x.c.csize ≤ (src1 x 1 0).toNat) = true := issues_of (by decide +kernel)
theorem witness_BadTransfersTrap_misaligned : ∃ x, Issues (packReg 0x33 0x78 1 0x78 0 0) { uses := [(2, 1, .src false true)], transfer := true }
    (bench .c (withV 1 0xFFD)) x ∧ decide (0 ∈ lanesOf x.act ∧ (∀ l ∈ lanesOf x.act, (src1 x 1 l).toNat < x.c.csize) ∧
      (src1 x 1 0).toNat % 4 ≠ 0) = true := issues_of (by decide +kernel)
/-- A full return stack with no private memory to spill to. -/
theorem witness_BadTransfersTrap_push : ∃ x, Issues (packBrn 0x32 7 0 2) { transfer := true } (bench .c (fun c => { deep c with privWords := 0 })) x ∧
    (branchLanes x 7 0 == [0] && (tget (x.c.strm x.st).rets 0).length == 8 && x.c.privWords == 0
      && decide ((branchTarget x 2).toNat < x.c.csize) && (branchTarget x 2).toNat % 4 == 0) = true := issues_of (by decide +kernel)
theorem witness_BadTransfersTrap_pop : ∃ x, Issues (packReg 0x34 0x78 0x78 0x78 0 0) { transfer := true } benchC x ∧
    (x.act != 0 && decide (∀ l ∈ lanesOf x.act, tget (x.c.strm x.st).rets l = [] ∧ tget (x.c.strm x.st).spilled l = 0)) = true :=
  issues_of (by decide +kernel)

theorem witness_ExitYieldNopAndHints_exit : ∃ x, Issues (packReg 0x35 0x78 0x78 0x78 0 0) { transfer := true } benchC x ∧ (x.act != 0) = true :=
  issues_of (by decide +kernel)
/-- YIELD of one of two runs, and of the only run. -/
theorem witness_ExitYieldNopAndHints_yield : ∃ x, Issues (packReg 0x36 0x78 0x78 0x78 0 0) {} (bench .c (fun c =>
    { c with lmask := 3, c := { c.c with pc := [(1, 0x40)] } })) x ∧
    (x.run == 1 && x.c.alive .c &&& ~~~((x.c.strm x.st).deferred ||| x.run) == 2 && x.hints.sched.isNone) = true := issues_of (by decide +kernel)
theorem witness_ExitYieldNopAndHints_yield_alone : ∃ x, Issues (packReg 0x36 0x78 0x78 0x78 0 0) {} benchC x ∧
    (x.c.alive .c &&& ~~~((x.c.strm x.st).deferred ||| x.run) == 0) = true := issues_of (by decide +kernel)
theorem witness_ExitYieldNopAndHints_nop : ∃ x, Issues (packReg 0x37 0 0 0 0 0) {} benchA x ∧ (x.act != 0) = true := issues_of (by decide +kernel)
theorem witness_ExitYieldNopAndHints_pending : ([packHnt 0 5, packHnt 3 (12#4 ++ 1#2 ++ 0#16), packHnt 4 (0#3 ++ 0#19),
    packHnt 5 (0#2 ++ 0#2 ++ 1#1 ++ 0#1 ++ 0#1 ++ 0#15), packHnt 6 (3#6 ++ 0#1 ++ 0#15)] : List Word).all (fun w =>
      meets w { hint := true } benchC (fun x => x.hints.const.isNone && x.hints.scope.isNone && x.hints.round.isNone
        && x.hints.mod.isNone && x.hints.sched.isNone)) = true := by decide +kernel
theorem witness_ExitYieldNopAndHints_guard : ∃ x, Issues (packHnt 1 (7#3 ++ 0#1 ++ 15#4 ++ 0#14)) { hint := true } benchC x ∧ (x.run != 0) = true :=
  issues_of (by decide +kernel)
theorem witness_ExitYieldNopAndHints_hold : ∃ x, Issues (packHnt 2 (0#18 ++ 8#4)) { hint := true } benchC x ∧ (x.run != 0) = true :=
  issues_of (by decide +kernel)

theorem witness_SoftwareTrapsAndHalt_traps : ([(.trap 1, true), (.scall 1, true), (.brk, false)] : List (Instr × Bool)).all (fun e =>
    match encode e.1 with
    | some u => meets u (if e.2 then { uses := [(2, 1, .src false true)], uniform := true, transfer := true } else {})
        (bench .c (fun c => { c with handler := some 0x100 })) (fun x => x.act != 0 && x.c.handler == some 0x100 && x.c.saved == none)
    | none => false) = true := by decide +kernel
theorem witness_SoftwareTrapsAndHalt_terminate : ∃ x, Issues (packReg 0x60 0x78 0x78 0x78 0 6) {} benchC x ∧
    (x.act != 0 && x.c.handler == none) = true := issues_of (by decide +kernel)
/-- A run whose guard window no lane passes. -/
theorem witness_SoftwareTrapsAndHalt_none_active : ∃ x, Issues (packReg 0x60 0x78 0x78 0x78 0 6) {} (bench .c (fun c =>
    { c with c := { c.c with guardLeft := (List.range 32).map (fun l => (l, 1)), guardPass := 0 } })) x ∧ (x.act == 0) = true :=
  issues_of (by decide +kernel)
theorem witness_SoftwareTrapsAndHalt_halt : ∃ x, Issues (packReg 0x60 0x78 0x78 0x78 0 7) {} benchC x ∧ (x.act != 0) = true :=
  issues_of (by decide +kernel)

theorem witness_SpecialRegisters_read : ([0, 1, 2, 3, 4, 5, 6, 7, 8, 9, 10, 11, 12] : List (BitVec 7)).all (fun b =>
    meets (packReg 0x60 4 0x78 b 0 1) { uses := [(1, 4, .dst (wideSpecial b) true true), (3, b, .special)] } benchC (fun x => x.act != 0)) = true := by
  decide +kernel
theorem witness_SpecialRegisters_write : ([0, 2, 3, 4, 5, 0x0A] : List (BitVec 7)).all (fun b =>
    meets (packReg 0x60 0x78 1 b 0 2) { uses := [(2, 1, .src (wideSpecial b) true), (3, b, .special)], uniform := true } benchA
      (fun x => x.act != 0 && x.c.level != 0)) = true := by decide +kernel
theorem witness_SpecialRegisters_cyc : ∃ x, Issues (packReg 0x60 4 0x78 0x78 0 3) { uses := [(1, 4, .dst true true true)] } benchC x ∧
    (x.act != 0) = true := issues_of (by decide +kernel)

/-- The program counter of lane 0 after an instruction of the C-stream. -/
def goesTo (i : Instr) (f : Consist → Consist) (pc : BitVec 32) : Bool :=
  goes (exec i (bench .c f)) (fun t => match t.consist? 0 with | some c => tget c.c.pc 0 == pc | none => false)

theorem test_bra_from_next : goesTo (.bra 7 0 2) id 12 = true := by decide +kernel
theorem test_bra_not_taken : goesTo (.bra 7 1 2) id 4 = true := by decide +kernel
theorem test_ret_pops : goesTo .ret deep 0x20 = true := by decide +kernel
theorem test_trap_starts_handler : goes (exec (.trap 1) (bench .c (fun c => withV 1 9 { c with handler := some 0x100 }))) (fun t =>
    match t.consist? 0 with
    | some c => c.trapv == 9 && c.trappc == 4 && tget c.a.pc 5 == 0x100 && c.level == 1
    | none => false) = true := by decide +kernel
theorem test_scall_marks_the_value : goes (exec (.scall 1) (bench .c (withV 1 9))) (fun t => match t.consist? 0 with
    | some c => c.trapv == 0x8000000000000009 && (match c.status with | .terminated _ => true | _ => false)
    | none => false) = true := by decide +kernel
theorem test_wrsr_refuses_rake_0 : goes (exec (.wrsr 1 0) (bench .a id)) (fun t => match t.consist? 0 with
    | some c => (match c.status with | .terminated r => r.trapc &&& 0x3F == Cause.bounds.code.setWidth 64 | _ => false)
    | none => false) = true := by decide +kernel

/-! ## Synchronisation -/

/-- The bench's consist, changed, in a convoy of its own, changed. -/
def convoyed (st : Strm) (f : Consist → Consist) (g : Convoy → Convoy) : State :=
  (bench st f).setConvoy 0 (g { (default : Convoy) with members := [0], size := 1, train := 1, bcnt := 4, spSize := 4096, stashKib := 64 })

/-- A barrier bound to slot 3 at byte 4092 of the scratchpad. -/
def bound (expect arrived : Nat) (phase : BitVec 32) (v : Convoy) : Convoy :=
  { v with bars := [(3, { word := 4092, expect := expect, arrived := arrived, phase := phase, drops := 0, rels := [] })] }

/-- What every barrier statement asks of its state. -/
def atBarrier (s : State) (x : Ctx) : Bool :=
  x.act != 0 && x.c.a.barWaits == [] && x.c.c.barWaits == [] && x.c.saved == none && !s.logged x.key &&
  (match s.convoy? x.c.convoy with | some v => decide ((src1 x 1 (lowest x.act)).toNat < v.bcnt) && v.members.contains x.key | none => false)

theorem witness_BarrierRules_barinit : ∃ x, Issues (packReg 0x38 0x78 1 2 0 0)
    { uses := [(2, 1, .src false true), (3, 2, .src false true)], uniform := true }
    (convoyed .a (fun c => withA 1 3 (withA 2 0x4000FFC c)) id) x ∧
    (atBarrier (convoyed .a (fun c => withA 1 3 (withA 2 0x4000FFC c)) id) x && src2 x 1 2 (lowest x.act) == 0x4000FFC) = true :=
  issues_of (by decide +kernel)
theorem witness_BarrierRules_arrive : ∃ x, Issues (packReg 0x38 4 1 0x78 0 1)
    { uses := [(1, 4, .dst false true true), (2, 1, .src false true)], uniform := true }
    (convoyed .a (withA 1 3) (bound 2 0 0)) x ∧ atBarrier (convoyed .a (withA 1 3) (bound 2 0 0)) x = true := issues_of (by decide +kernel)
theorem witness_BarrierRules_drop : ∃ x, Issues (packReg 0x38 0x78 1 0x78 0 5) { uses := [(2, 1, .src false true)], uniform := true }
    (convoyed .a (withA 1 3) (bound 1 0 0)) x ∧ atBarrier (convoyed .a (withA 1 3) (bound 1 0 0)) x = true := issues_of (by decide +kernel)
theorem witness_BarrierRules_arrive_last : ∃ x, Issues (packReg 0x38 4 1 0x78 0 3)
    { uses := [(1, 4, .dst false true true), (2, 1, .src false true)], uniform := true }
    (convoyed .a (withA 1 3) (bound 2 1 0)) x ∧ atBarrier (convoyed .a (withA 1 3) (bound 2 1 0)) x = true := issues_of (by decide +kernel)
/-- Phase 0 has completed at a count of 1, and phase 1 has not. -/
theorem witness_BarrierRules_phases : completed 1 0 ∧ completed 0x80000000 1 ∧ ¬ completed 1 1 := by
  refine ⟨⟨by decide, by decide⟩, ⟨by decide, by decide⟩, fun h => h.1 rfl⟩
theorem witness_BarrierRules_wait : ∃ x, Issues (packReg 0x38 0x78 1 2 0 2)
    { uses := [(2, 1, .src false true), (3, 2, .src false true)], uniform := true }
    (convoyed .a (withA 1 3) (bound 2 0 1)) x ∧ (atBarrier (convoyed .a (withA 1 3) (bound 2 0 1)) x && src2 x 1 2 (lowest x.act) == 0) = true :=
  issues_of (by decide +kernel)
theorem witness_BarrierRules_test : ∃ x, Issues (packReg 0x38 1 1 2 0 4)
    { uses := [(1, 1, .pred), (2, 1, .src false true), (3, 2, .src false true)], uniform := true }
    (convoyed .a (withA 1 3) (bound 2 0 1)) x ∧ atBarrier (convoyed .a (withA 1 3) (bound 2 0 1)) x = true := issues_of (by decide +kernel)
theorem witness_BarrierRules_unbind : ∃ x, Issues (packReg 0x38 0x78 1 0x78 0 6) { uses := [(2, 1, .src false true)], uniform := true }
    (convoyed .a (withA 1 3) (bound 2 0 1)) x ∧ atBarrier (convoyed .a (withA 1 3) (bound 2 0 1)) x = true := issues_of (by decide +kernel)
theorem witness_BarrierRules_phase : ∃ x, Issues (packReg 0x38 4 1 0x78 0 7)
    { uses := [(1, 4, .dst false true true), (2, 1, .src false true)], uniform := true }
    (convoyed .c (withV 1 3) (bound 2 0 1)) x ∧ atBarrier (convoyed .c (withV 1 3) (bound 2 0 1)) x = true := issues_of (by decide +kernel)
/-- Slot 4 lies beyond the count, slot 2 is not bound, and slot 3 is at its phase. -/
theorem witness_BarrierRules_trap_or_wait : ([4, 2, 3] : List DWord).all (fun slot =>
    meets (packReg 0x38 0x78 1 2 0 2) { uses := [(2, 1, .src false true), (3, 2, .src false true)], uniform := true }
      (convoyed .a (withA 1 slot) (bound 2 0 0)) (fun x => x.act != 0 && src1 x 1 (lowest x.act) == slot)) = true := by decide +kernel

/-- Each barrier instruction at slots 4 and 2. -/
theorem witness_BarrierRules_traps : ([4, 2] : List DWord).all (fun slot =>
    ([(packReg 0x38 0x78 1 2 0 0, { uses := [(2, 1, .src false true), (3, 2, .src false true)], uniform := true }),
      (packReg 0x38 4 1 0x78 0 1, { uses := [(1, 4, .dst false true true), (2, 1, .src false true)], uniform := true }),
      (packReg 0x38 4 1 0x78 0 3, { uses := [(1, 4, .dst false true true), (2, 1, .src false true)], uniform := true }),
      (packReg 0x38 1 1 2 0 4, { uses := [(1, 1, .pred), (2, 1, .src false true), (3, 2, .src false true)], uniform := true }),
      (packReg 0x38 0x78 1 0x78 0 5, { uses := [(2, 1, .src false true)], uniform := true }),
      (packReg 0x38 0x78 1 0x78 0 6, { uses := [(2, 1, .src false true)], uniform := true }),
      (packReg 0x38 4 1 0x78 0 7, { uses := [(1, 4, .dst false true true), (2, 1, .src false true)], uniform := true })] :
        List (Word × OpInfo)).all (fun e => meets e.1 e.2 (convoyed .a (withA 1 slot) (bound 2 0 0)) (fun x =>
      x.act != 0 && src1 x 1 (lowest x.act) == slot && x.c.a.barWaits == [] && x.c.c.barWaits == []))) = true := by decide +kernel
/-- A word at byte 2, which is no multiple of 4. -/
theorem witness_BarrierRules_descriptor : ∃ x, Issues (packReg 0x38 0x78 1 2 0 0)
    { uses := [(2, 1, .src false true), (3, 2, .src false true)], uniform := true } (convoyed .a (fun c => withA 1 3 (withA 2 2 c)) id) x ∧
    (atBarrier (convoyed .a (fun c => withA 1 3 (withA 2 2 c)) id) x && src2 x 1 2 (lowest x.act) == 2) = true := issues_of (by decide +kernel)
/-- BARARW of one of two arrivals. -/
theorem witness_BarrierRules_arrive_waits : ∃ x, Issues (packReg 0x38 4 1 0x78 0 3)
    { uses := [(1, 4, .dst false true true), (2, 1, .src false true)], uniform := true }
    (convoyed .a (withA 1 3) (bound 2 0 0)) x ∧ atBarrier (convoyed .a (withA 1 3) (bound 2 0 0)) x = true := issues_of (by decide +kernel)

/-- `fenceReady` of every class, found by evaluation. -/
def readyToFence (s : State) (x : Ctx) : Bool :=
  !s.logged x.key && !s.loggedOut x.key && x.c.tokens == 0 && x.c.matrix.queue == [] && x.c.inflight == []
theorem witness_FenceOrders_free : ∃ x, Issues (packFen 0x39 0xFF 0xFF 12) {} benchA x ∧ (x.act != 0 && readyToFence benchA x) = true :=
  issues_of (by decide +kernel)
theorem witness_FenceOrders_none_active : ∃ x, Issues (packFen 0x39 0xFF 0xFF 12) {} (bench .c (fun c =>
    { c with c := { c.c with guardLeft := (List.range 32).map (fun l => (l, 1)), guardPass := 0 } })) x ∧ (x.act == 0) = true :=
  issues_of (by decide +kernel)

/-- A write of the bench's consist is in its core's side log. -/
def logged (s : State) : State :=
  s.setCore 0 { s.core 0 with log := [{ consist := 0, handler := false, sess := 0, level := 3, page := 1, id := 7, writes := [{ va := 4096, space := 2, red := none, size := 4, data := 5, access := none, rel := none }] }] }
theorem witness_FenceOrders_logged : ∃ x, Issues (packFen 0x39 0xC0 0x01 1) {} (logged benchA) x ∧
    (x.act != 0 && (logged benchA).logged x.key && (0xC0#8).getLsbD 6) = true := issues_of (by decide +kernel)
/-- The write is to the I/O space. -/
theorem witness_FenceOrders_out : ∃ x, Issues (packFen 0x39 0x10 0x01 1) {} (logged benchA) x ∧
    (x.act != 0 && (logged benchA).loggedOut x.key && (0x10#8).getLsbD 4) = true := issues_of (by decide +kernel)

/-- The timeline that register 1 names, found by evaluation. -/
def namesTimeline (s : State) (x : Ctx) (p : Timeline → DWord → Bool) : Bool :=
  let y := src1 x 1 (lowest x.act)
  x.act != 0 && y.extractLsb' 16 16 == 0 && (x.c.strm x.st).tlWaits == [] &&
  (match timelineOf s x (y.extractLsb' 0 16) with | .ok tl => p tl (wideB x 1 2) | _ => false)

theorem witness_TimelineAndTokenResults_read : ∃ x, Issues (packReg 0x3A 4 1 0x78 0 1)
    { uses := [(1, 4, .dst true true true), (2, 1, .src false true)], uniform := true } (bench .c (withV 1 0xFFF)) x ∧
    namesTimeline (bench .c (withV 1 0xFFF)) x (fun _ _ => true) = true := issues_of (by decide +kernel)
theorem witness_TimelineAndTokenResults_poll : ∃ x, Issues (packReg 0x3A 1 1 2 0 2)
    { uses := [(1, 1, .pred), (2, 1, .src false true), (3, 2, .src true true)], uniform := true } (bench .a (withA 2 1)) x ∧
    namesTimeline (bench .a (withA 2 1)) x (fun tl n => decide (tl.counter.toNat < n.toNat)) = true := issues_of (by decide +kernel)
theorem witness_TimelineAndTokenResults_wait : ∃ x, Issues (packReg 0x3A 0x78 1 2 0 0)
    { uses := [(2, 1, .src false true), (3, 2, .src true true)], uniform := true } benchA x ∧
    namesTimeline benchA x (fun tl n => decide (n.toNat ≤ tl.counter.toNat)) = true := issues_of (by decide +kernel)
/-- The session of the bench, changed. -/
def inSession (s : State) (f : Session → Session) : State := s.setSession 0 (f (s.session 0))
/-- The timeline of a HALTED Freight context is closed. -/
def closedTimeline : State := inSession (bench .a (fun c => withA 1 0x1000 (withA 2 1 c)))
  (fun v => { v with freight := [(0, { (default : FreightCtx) with halted := true })] })
theorem witness_TimelineAndTokenResults_closed : ∃ x, Issues (packReg 0x3A 0x78 1 2 0 0)
    { uses := [(2, 1, .src false true), (3, 2, .src true true)], uniform := true } closedTimeline x ∧
    namesTimeline closedTimeline x (fun tl n => tl.closed && decide (tl.counter.toNat < n.toNat)) = true := issues_of (by decide +kernel)
theorem witness_TimelineAndTokenResults_signal : ∃ x, Issues (packReg 0x3A 0x78 1 2 0 3)
    { uses := [(2, 1, .src false true), (3, 2, .src true true)], uniform := true } (bench .a (withA 2 5)) x ∧
    (namesTimeline (bench .a (withA 2 5)) x (fun _ n => n == 5) && !(bench .a (withA 2 5)).logged x.key) = true := issues_of (by decide +kernel)
/-- The Manifest timeline is no software timeline. -/
theorem witness_TimelineAndTokenResults_signal_other : ∃ x, Issues (packReg 0x3A 0x78 1 2 0 3)
    { uses := [(2, 1, .src false true), (3, 2, .src true true)], uniform := true } (bench .a (withA 1 0x5000)) x ∧
    namesTimeline (bench .a (withA 1 0x5000)) x (fun _ _ => true) = true := issues_of (by decide +kernel)
theorem witness_TimelineAndTokenResults_tktest : ∃ x, Issues (packImm 0x3B 1 0x78 0 (2#2 ++ 0xFF#8)) { uses := [(1, 1, .pred)] } benchA x ∧
    (x.act != 0) = true := issues_of (by decide +kernel)
theorem witness_TimelineAndTokenResults_tkwait : ([0, 0x80] : List (BitVec 8)).all (fun t =>
    meets (packImm 0x3B 0x78 0x78 0 (0#2 ++ 0xFF#8)) {} (bench .a (fun c => { c with tokens := t })) (fun x => x.act != 0 && x.c.tokens == t)) = true := by
  decide +kernel
theorem witness_TimelineAndTokenResults_tkany : ([0x7F, 0xFF] : List (BitVec 8)).all (fun t =>
    meets (packImm 0x3B 4 0x78 0 (1#2 ++ 0xFF#8)) { uses := [(1, 4, .lanesReg)] } (bench .a (fun c => { c with tokens := t }))
      (fun x => x.act != 0 && x.c.tokens == t)) = true := by decide +kernel

theorem test_bararr_counts : goes (exec (.bararr 4 1 0) (convoyed .c (withV 1 3) (bound 2 0 5))) (fun t =>
    match t.convoy? 0, t.consist? 0 with
    | some v, some c => (match tfind 3 v.bars with | some b => b.arrived == 1 && b.phase == 5 | none => false) && c.v 4 0 == 5
    | _, _ => false) = true := by decide +kernel
theorem test_last_arrival_completes_the_phase : goes (exec (.bararr 4 1 0) (convoyed .c (withV 1 3) (bound 1 0 5))) (fun t =>
    match t.convoy? 0 with
    | some v => (match tfind 3 v.bars with | some b => b.arrived == 0 && b.phase == 6 | none => false) && tget v.scratch 4092 == 6
    | none => false) = true := by decide +kernel

/-! ## Memory -/

/-- The bench, its front ends not fresh from another consist, with the translation of page 0 in its core's TLB. -/
def mapped (s : State) : State :=
  let e : TlbEntry :=
    { sess := 0, va := 0, size := 4096, frame := 28, cow := 0, w := true, x := true, supo := false, mask := 0, sframe := 0,
      pframe := 0, fmSealed := false }
  s.setCore 0 { s.core 0 with tlb := [e], last := [(0, 1), (1, 1)] }

/-- One lane at offset `off` of page 0, with latch b0 valid for the compare value of CAS. -/
def access (off : DWord) : State :=
  mapped (bench .a (fun c => withA 1 off { c with lmask := 1, a := { c.a with latchValid := 1 } }))

/-- `Reaches`, found by evaluation. -/
def reachesB (r : AccessRow) (x : Ctx) (s : State) (a : BitVec 7) (h : BitVec 6) (o : BitVec 2) : Bool :=
  let ls := lanesOf x.act
  x.act != 0 && (!r.op.isWrite || x.c.hmask &&& x.act == 0) && (decide (orderOf x o < 2) || !s.logged x.key) && soundB s &&
  (match checkAccess x h.toNat r.op.isWrite r.size (offOf x a) ls s with
   | .val win t => t == s && !(win.chk && !isLine x.key) &&
     (let ps := startPieces win x s r.size (offOf x a) ls
      decide (∀ l ∈ ls, ∃ p ∈ ps, p.lane = l) &&
      (match reach { x.c.asker x.key x.st with
           waiter := if r.op.buffered && win.space != 2 then .logged s.nextUid else (x.c.asker x.key x.st).waiter }
         (if r.op.isWrite then .write else .read) (r.op.buffered && win.space != 2) win.space ps s with
       | .val qs t => t == s && qs.all (fun p => match p.spot with | .mem b => decide (b + p.len ≤ 2 ^ 40) | _ => false)
           && decide (badLine s qs = .good)
       | _ => false))
   | _ => false)

/-- Every access instruction through h0 at offset 0xFF0, the last 16 bytes of the page, from one lane. -/
theorem witness_MemoryAndScratchpadAccesses_memory : (accessRows 4 1 0 0).all (fun r => match encode r.instr with
    | some u => meets u (accessInfo r.op r.size 4 1 0 (access 0xFF0)) (access 0xFF0)
        (fun x => reachesB r x (learnPops (accessInfo r.op r.size 4 1 0 (access 0xFF0)) x (access 0xFF0)) 1 0 0)
    | none => false) = true := by decide +kernel

theorem witness_MemoryAndScratchpadAccesses_scratchpad : ((accessRows 4 1 2 0).filter (fun r => r.op == .store || r.op == .load false || r.op == .load true)).all
    (fun r => match encode r.instr with
    | some u => meets u (accessInfo r.op r.size 4 1 0 (convoyed .a (withA 1 0xFF0) id)) (convoyed .a (withA 1 0xFF0) id)
        (fun x => x.act != 0 && x.c.hmask == 0 && decide (∀ l ∈ lanesOf x.act, offOf x 1 l % r.size = 0 ∧ offOf x 1 l + r.size ≤ 4096)
          && (match (convoyed .a (withA 1 0xFF0) id).convoy? x.c.convoy with
              | some v => !v.spCheck && v.bars == [] && v.spSize == 4096 | none => false)
          && !(convoyed .a (withA 1 0xFF0) id).logged x.key)
    | none => false) = true := by decide +kernel

/-- Offset 1 is misaligned for every access of more than a byte, and offset 2^60 lies beyond the address space. -/
theorem witness_AccessChecksTrap_align : ((accessRows 4 1 0 0).filter (fun r => r.size != 1)).all (fun r => match encode r.instr with
    | some u => meets u (accessInfo r.op r.size 4 1 0 (access 1)) (access 1)
        (fun x => x.c.hmask == 0 && x.c.privWords == 0 && decide (0 ∈ lanesOf x.act) && offOf x 1 0 % r.size != 0)
    | none => false) = true := by decide +kernel
theorem witness_AccessChecksTrap_bounds : (accessRows 4 1 0 0).all (fun r => match encode r.instr with
    | some u => meets u (accessInfo r.op r.size 4 1 0 (access 0x1000000000000000)) (access 0x1000000000000000)
        (fun x => x.c.hmask == 0 && x.c.privWords == 0 && decide (0 ∈ lanesOf x.act) && offOf x 1 0 % r.size == 0 && decide (2 ^ 60 < offOf x 1 0 + r.size))
    | none => false) = true := by decide +kernel

/-- SBIND of 4 KiB of page 0 at KiB 60 of the stash, by slot 7. -/
def binds : State := convoyed .a (withA 4 0x043C07) id
theorem witness_MemoryControlAndInvalidation_sbind : ∃ x, Issues (packMem 0x46 4 1 0 0 0) { uses := [(1, 4, .src false true), (2, 1, .offset)], uniform := true }
    binds x ∧ (x.hints.scope == none && x.act != 0 && src1 x 4 (lowest x.act) == 0x043C07 &&
      soundB binds && (match windowOf x 0 (offOf x 1 (lowest x.act)) binds with
       | .val w t => t == binds && w.outside x.c (lowest x.act) 0 4096 == none && decide (4096 ≤ w.bound)
       | _ => false)
      && (match binds.convoy? x.c.convoy with | some v => decide (60 + 4 ≤ v.stashKib) && v.binds == [] | none => false)) = true :=
  issues_of (by decide +kernel)
theorem witness_MemoryControlAndInvalidation_slots : ([1, 2] : List (BitVec 3)).all (fun f =>
    meets (packMem 0x46 4 0x78 0 0 f) { uses := [(1, 4, .src false true)], uniform := true } binds (fun x => x.hints.scope == none && x.act != 0
      && soundB binds && (binds.convoy? x.c.convoy).isSome)) = true := by decide +kernel
theorem witness_MemoryControlAndInvalidation_pref : ∃ x, Issues (packMem 0x46 0x78 1 0 0 3) { uses := [(2, 1, .offset)] } binds x ∧
    (x.hints.scope == none && x.act != 0 && soundB binds && binds.poison == []) = true := issues_of (by decide +kernel)
theorem witness_MemoryControlAndInvalidation_cflush : ∃ x, Issues (packMem 0x46 0x78 1 0 0 4) { uses := [(2, 1, .offset)] } (mapped binds) x ∧
    (x.hints.scope == none && x.act != 0 && soundB (mapped binds) && (match checkAccess x 0 false 1 (offOf x 1) (lanesOf x.act) (mapped binds) with
      | .val w t => t == mapped binds && !w.switches &&
        (match reach (x.c.asker x.key x.st) .read false w.space (startPieces w x t 1 (offOf x 1) (lanesOf x.act)) t with
         | .val _ u => u == t | _ => false)
      | _ => false)) = true := issues_of (by decide +kernel)
theorem witness_MemoryControlAndInvalidation_tlbinv : ∃ x, Issues (packReg 0x62 0x78 1 2 0 0)
    { uses := [(2, 1, .src false false), (3, 2, .src false false)], uniform := true } (mapped (bench .a (withA 2 2))) x ∧
    (x.act != 0 && decide ((src1 x 2 (lowest x.act)).toNat < 3) && !(mapped (bench .a (withA 2 2))).logged x.key
      && ((mapped (bench .a (withA 2 2))).session x.c.sess).fmSize == 0) = true := issues_of (by decide +kernel)
theorem witness_MemoryControlAndInvalidation_tlbinva : ∃ x, Issues (packReg 0x62 0x78 0x78 2 0 1)
    { uses := [(3, 2, .src false false)], uniform := true } benchA x ∧
    (x.act != 0 && decide ((src1 x 2 (lowest x.act)).toNat < 3) && !benchA.logged x.key && (benchA.session x.c.sess).fmSize == 0) = true :=
  issues_of (by decide +kernel)

/-- Machine address of offset 0xFF0 of the bench's code page. -/
def benchAt : Nat := 28 * 4096 + 0xFF0
theorem test_st32 : goes (exec (.st32 4 1 0 0) (bench .a (fun c => withA 4 0x11223344 (withA 1 0xFF0 (alone c))))) (fun t =>
    t.word benchAt 4 == 0x11223344 && t.byte (benchAt + 4) == 0) = true := by decide +kernel
theorem test_aadd : goes (exec (.aadd 4 1 0 0) ((bench .a (fun c => withA 4 5 (withA 1 0xFF0 (alone c)))).writeNat benchAt 4 0xFFFFFFFF)) (fun t =>
    t.word benchAt 4 == 4 && (match t.consist? 0 with | some c => c.inflight.map (fun f => f.vals) == [[0xFFFFFFFF, 0]] | none => false)) = true := by
  decide +kernel
theorem test_ld8s_extends : goes (exec (.ld8s 4 1 0 0) ((bench .a (fun c => withA 1 0xFF0 (alone c))).writeNat benchAt 1 0x80)) (fun t =>
    match t.consist? 0 with | some c => c.inflight.map (fun f => f.vals) == [[0xFFFFFF80, 0xFFFFFFFF]] | none => false) = true := by decide +kernel

/-! ## Matrix sequence -/

/-- K 16, a stride of 16 for A and of 256 for C; v1 names tile 1 of A, or one row from row 0 on; v4 an index of patterns 1 > 0. -/
def tiled : State := bench .c (fun c => withV 1 1 (withV 4 0x44444444 { c with matrix := { c.matrix with
  ntiles := 8, nslots := 8, cfg := [(0, 16), (3, 16), (6, 256)] } }))
def tiledCtx : Ctx := (findCtx tiled).getD { key := 0, c := default, st := .c, run := 0, pc := 0, hints := default, act := 0 }

/-- Code 4 is MMAS's index; the other instructions, whose format has no scales, have z there. -/
theorem witness_TileInstructionsQueue_issue : ((tileRows tiledCtx tiled 0 1 4 0 0 0).filter (fun r => r.op == 1)
      ++ (tileRows tiledCtx tiled 0 1 0x78 0 0 0).filter (fun r => r.op != 1)).all (fun r => match encode r.instr with
    | some u => meets u r.info tiled (fun x => x == tiledCtx && x.act != 0 && decide (x.c.matrix.queue.length < 8))
    | none => false) = true := by decide +kernel
theorem witness_TileInstructionsQueue_valid : ∀ r ∈ tileRows tiledCtx tiled 0 1 4 0 0 0, r.valid := by
  intro r hr
  simp only [tileRows, List.mem_cons, List.not_mem_nil, or_false] at hr
  rcases hr with rfl | rfl | rfl | rfl | rfl | rfl | rfl | rfl | rfl
  · show mmaValid _ _ _ _ _
    unfold mmaValid
    decide +kernel
  · refine ⟨?_, fun q r hq hr => ?_⟩
    · unfold mmaValid
      decide +kernel
    · have hp : ∀ q, q < (tget tiledCtx.c.matrix.cfg 0 + 2 * panelDepth 0 - 1) / (2 * panelDepth 0) → ∀ r, r < 64 →
          sparsePattern (tileRegs tiledCtx 4 1) 0 q r / 4 > sparsePattern (tileRegs tiledCtx 4 1) 0 q r % 4 := by decide +kernel
      exact hp q hq r hr
  all_goals decide +kernel
theorem witness_TileInstructionsQueue_full : ∃ x, Issues (packTil 0x50 0 0x78 0x78 0 0 1) { uniform := true }
    (bench .c (fun c => { c with matrix := { c.matrix with queue := List.replicate 8 default } })) x ∧
    (x.act != 0 && decide (8 ≤ x.c.matrix.queue.length)) = true := issues_of (by decide +kernel)

/-- The oldest entries of core 0's row queue: segments 0 and 1 of row 3, of the bench's consist. -/
def popped : State := benchC.setCore 0 { benchC.core 0 with rowOwner := some 0, rows :=
  [{ consist := 0, row := 3, seg := 0, vals := [] }, { consist := 0, row := 3, seg := 1, vals := [] }] }
theorem witness_RowPopsDeliver_msync : ∃ x, Issues (packTil 0x52 0 0x78 0x78 0 0 6) {} benchC x ∧
    (x.act != 0 && x.c.matrix.queue == []) = true := issues_of (by decide +kernel)
theorem witness_RowPopsDeliver_pop : ([0, 1] : List (BitVec 3)).all (fun f =>
    meets (packReg 0x53 3 0x78 0x78 0 f) { uses := [(1, 3, .dst false true true)] } popped (fun x => x.act != 0 &&
      ((popped.core (coreOf x.key)).rowsOf x.key).map (fun e => (e.consist, e.seg)) == [(x.key, 0), (x.key, 1)])) = true := by decide +kernel
theorem witness_RowPopsDeliver_half : ∃ x, Issues (packReg 0x53 3 0x78 0x78 0 1) { uses := [(1, 3, .dst false true true)] }
    (popped.setCore 0 { popped.core 0 with rows := (popped.core 0).rows.drop 1 }) x ∧ (x.act != 0 && x.key == 0) = true :=
  issues_of (by decide +kernel)
theorem witness_RowPopsDeliver_none : ∃ x, Issues (packReg 0x53 3 0x78 0x78 0 0) { uses := [(1, 3, .dst false true true)] } benchC x ∧
    (x.act != 0 && (benchC.core (coreOf x.key)).rowsOf x.key == [] && x.c.matrix.rowsPending == 0) = true := issues_of (by decide +kernel)

theorem test_macz_queues : goes (exec (.macz 2) tiled) (fun t => match t.consist? 0 with
    | some c => c.matrix.queue.map (fun o => (o.op, o.unit)) == [(4, 2)] && c.matrix.issued == 1 | none => false) = true := by
  decide +kernel
/-- Element 5 of the row goes to lane 5. -/
theorem test_mpop : goes (exec (.mpop 3 0) (popped.setCore 0 { popped.core 0 with rows := [⟨0, 3, 0, (List.range 32).map (BitVec.ofNat 32)⟩] })) (fun t => match t.consist? 0 with
    | some c => c.v 3 5 == 5 && c.v 3 31 == 31 | none => false) = true := by decide +kernel

/-! ## Textures and rasters -/

/-- Lane 0, whose handle 4 holds page 0; its selector in v1 names the descriptor at byte 512: one RGBA8 texel at byte 1024. -/
def textured (st : Strm) : State := mapped ((bench st (fun c => withV 1 0x10000008 (alone c))).setConvoy 0 { (default : Convoy) with
  members := [0], size := 1, train := 1, handles := [(4, some (BitVec.ofNat 256 (2 ^ 138 + 7 * 2 ^ 134 + 4096 * 2 ^ 64)))] })
def texels : State := (textured .c).writeNat (28 * 4096 + 512) 64 (0x400 + 3 * 2 ^ 116)

/-- `Samples`, found by evaluation. -/
def samplesB (f : TexForm) (x : Ctx) (s : State) (a b : BitVec 7) : Bool :=
  x.act != 0 && (match readDescriptors x b (lanesOf x.act) s with
  | .val ds v => ds.all (fun e => texValid e.2) &&
    (match reachTexels x (ds.map (fun (d : Nat × BitVec 512) => TexReq.mk d.1 d.2 (requestTaps d.2 (texLambda x f a d.2 d.1)
        (texReg x a 2 d.1) (texCoord (texReg x a 0 d.1)) (texCoord (texReg x a 1 d.1))))) v with
     | .val rs u => (match readTexels x rs u with
       | .val _ t => t.consist? x.key == some x.c
       | _ => false)
     | _ => false)
  | _ => false)
theorem samples_of {f : TexForm} {x : Ctx} {s : State} {a b : BitVec 7} (h : samplesB f x s a b = true) :
    ∃ u ds vals, Samples f x s u a b ds vals := by
  unfold samplesB at h
  simp only [Bool.and_eq_true, bne_iff_ne, ne_eq] at h
  obtain ⟨ha, h⟩ := h
  split at h
  · rename_i ds v hds
    simp only [Bool.and_eq_true, List.all_eq_true] at h
    obtain ⟨hv, h⟩ := h
    split at h
    · rename_i rs u hrs
      split at h
      · rename_i done t hd
        exact ⟨t, ds, _, ha, hv, by simpa using h, v, rs, u, done, hds, hrs, hd, rfl⟩
      · simp at h
    · simp at h
  · simp at h
theorem witness_TextureRequestsLeave : ([(0, .sample, 4, true), (1, .level, 4, false), (2, .gradient, 8, false)] :
    List (BitVec 3 × TexForm × Nat × Bool)).all (fun r =>
      meets (packReg 0x48 0x78 8 1 0 r.1) { uses := [(1, 0x7A, .lqFour), (2, 8, .group 4 r.2.2.1), (3, 1, .group 1 1)], cross := r.2.2.2 }
        texels (fun x => samplesB r.2.1 x texels 8 1)) = true := by decide +kernel
theorem witness_TextureRequestsLeave_query : ∃ x, Issues (packReg 0x48 0x78 8 1 0 3)
    { uses := [(1, 0x7A, .lqFour), (2, 8, .group 1 1), (3, 1, .group 1 1)] } texels x ∧
    (x.act != 0 && (match readDescriptors x 1 (lanesOf x.act) texels with
      | .val ds v => v.consist? x.key == some x.c && ds.all (fun e => texValid e.2) | _ => false)) = true := issues_of (by decide +kernel)
/-- The texel 0xFF000080 of bytes 0x80, 0, 0, 0xFF: R is 128/255, rounded to nearest, and A 1.0. -/
theorem test_texl : goes (exec (.texl 8 1) (texels.writeNat (28 * 4096 + 1024) 4 0xFF000080)) (fun t => match t.consist? 0 with
    | some c => c.inflight.map (fun f => f.vals) == [[0x3F008081, 0, 0, 0x3F800000]] | none => false) = true := by decide +kernel

/-- A search from any place finds a slot, where all will do. -/
theorem picks {n : Nat} (k : Nat) (p : Nat → Bool) (h : ∀ j, p j = true) :
    ∃ j, ((List.range (n + 1)).map (fun i => (k + i) % (n + 1))).find? p = some j := by
  rw [List.range_succ_eq_map]
  exact ⟨_, List.find?_cons_of_pos (h _)⟩

/-- A station with no pass has a slot to give. -/
theorem freePass_of (s : State) (g : Nat) (h : (s.station g).passes = []) : ∃ j, s.freePass g = some j :=
  picks (n := 511) _ _ (fun j => by simp [h, tget, tfind]; decide)

/-- A pass over 64 by 64 samples with 128 bytes of parameter buffer, and a draw of one primitive. -/
def passDesc : BitVec 512 := BitVec.ofNat 512 (64 * 2 ^ 32 + 64 * 2 ^ 48 + 128 * 2 ^ 256)
def drawDesc : BitVec 256 := BitVec.ofNat 256 (2 ^ 32)
/-- They stand at bytes 512 and 1024, which a1 and a2 name; a4 names pass 511 of station 0. -/
def rastered : State := ((mapped (bench .a (fun c => withA 1 512 (withA 2 1024 (withA 4 0x41FF { c with lmask := 1 }))))).writeNat
  (28 * 4096 + 512) 64 passDesc.toNat).writeNat (28 * 4096 + 1024) 32 drawDesc.toNat
/-- That pass is OPEN. -/
def opened : State := rastered.setStation 0 { rastered.station 0 with passes := [(511, { (default : RasterPass) with state := 1 })] }

/-- What an issuer reads, found by evaluation. -/
def readsB (x : Ctx) (s : State) (p n : Nat) (f : Nat → State → Bool) : Bool :=
  match (x.issuer s).read p n s with
  | .val y v => v.consist? x.key == some x.c && f y v
  | _ => false

theorem witness_RasterPassesOpenDrawFlush_begin : ∃ x, Issues (packReg 0x49 3 1 0x78 0 0)
    { uses := [(1, 3, .dst false true false), (2, 1, .src false false)], uniform := true } rastered x ∧
    (x.act != 0 && !isLine x.key && decide ((src1 x 1 (lowest x.act)).toNat = 512) && readsB x rastered 512 64 (fun y v =>
      BitVec.ofNat 512 y == passDesc && (v.station ((stationOf x.key).getD 0)).passes == [])) = true := issues_of (by decide +kernel)
theorem witness_RasterPassesOpenDrawFlush_valid : passValid passDesc = true ∧ 64 + 8 * passTiles passDesc ≤ passField passDesc 287 256 := by
  decide +kernel
theorem witness_RasterPassesOpenDrawFlush_free (v : State) (h : (v.station 0).passes = []) : ∃ j, v.freePass 0 = some j := freePass_of v 0 h
theorem witness_RasterPassesOpenDrawFlush_draw : ∃ x, Issues (packReg 0x49 3 2 4 0 1)
    { uses := [(1, 3, .dst false true false), (2, 2, .src false false), (3, 4, .src false false)], uniform := true } opened x ∧
    (x.act != 0 && !isLine x.key && decide ((src1 x 2 (lowest x.act)).toNat = 1024) && readsB x opened 1024 32 (fun y v =>
      drawValid (BitVec.ofNat 256 y) && !v.logged x.key && decide ((src2 x 2 4 (lowest x.act)).toNat = 0x4000 + 511) &&
      (let p := tget (v.station ((stationOf x.key).getD 0)).passes 511
       p.state == 1 && p.sess == x.c.sess))) = true := issues_of (by decide +kernel)
theorem witness_RasterPassesOpenDrawFlush_flush : ([opened, logged opened] : List State).all (fun s =>
    meets (packReg 0x49 3 4 0x78 0 2) { uses := [(1, 3, .dst false true false), (2, 4, .src false false)], uniform := true } s
      (fun x => x.act != 0 && !isLine x.key && decide ((src1 x 4 (lowest x.act)).toNat = 0x4000 + 511) &&
        (let p := tget (s.station ((stationOf x.key).getD 0)).passes 511
         p.state == 1 && p.sess == x.c.sess))) = true := by decide +kernel
theorem witness_RasterPassesOpenDrawFlush_none : ∃ x, Issues (packReg 0x49 3 4 0x78 0 2)
    { uses := [(1, 3, .dst false true false), (2, 4, .src false false)], uniform := true } rastered x ∧
    (x.act != 0 && (x.openPass (src1 x 4 (lowest x.act)).toNat rastered).isNone) = true := issues_of (by decide +kernel)
theorem test_rflush : goes (exec (.rflush 3 4 0) opened) (fun t => (t.station 0).flushed == [511] &&
    (tget (t.station 0).passes 511).state == 2 && (match t.consist? 0 with | some c => tget c.aregs 96 == 1 | none => false)) = true := by
  decide +kernel

/-! ## Freight -/

/-- Layout 0 of context 0: one element of four bytes, in one slice. -/
def layout : BitVec 512 := BitVec.ofNat 512 (1 + 2 ^ 16 + 2 ^ 32 + 2 ^ 48 + 2 * 2 ^ 434 + 2 ^ 456)
/-- The same of two slices. -/
def layoutTwo : BitVec 512 := layout ||| (1#512 <<< 439)
def freighted (r : BitVec 512) (tokens : BitVec 8) : State := inSession (convoyed .a (fun c => { c with tokens := tokens }) id)
  (fun v => { v with freight := [(0, { (default : FreightCtx) with layouts := [(0, r)] })] })
/-- A slice arrives, the last or not, or finds its token BUSY. -/
theorem witness_FreightSlicesArrive : ([freighted layout 0, freighted layoutTwo 0, freighted layout 0x80] : List State).all (fun s =>
    (List.range 6).all (fun f => meets (packCpy 0x54 7 1 2 (BitVec.ofNat 3 f))
      { uses := [(2, 1, .src false false), (3, 2, .src false false)], uniform := true } s (fun x => x.act != 0 &&
        src1 x 1 (lowest x.act) == 0 && src2 x 1 2 (lowest x.act) == 0 &&
        (match s.convoy? x.c.convoy with | some v => (tget v.assemblies 0).slices == [] | none => false) &&
        (let y := tget (s.session x.c.sess).freight 0
         let r := tget y.layouts 0
         layValid r && layField r 455 448 == x.c.sess && layField r 447 444 == 0 && (layHandles f r).all (fun h => h != 1) &&
           layField r 438 437 == 0 && layBytes r == 4 && decide (0 < laySlices r) && !y.halted)))) = true := by decide +kernel
theorem test_frcopy_accepts : goes (exec (.frcopy 7 1 2) (freighted layout 0)) (fun t =>
    (tget (t.session 0).freight 0).queue.map (fun o => (o.number, o.form)) == [(1, 0)] &&
      (match t.consist? 0 with | some c => c.tokens == 0x80 | none => false)) = true := by decide +kernel

/-! ## Dispatch -/

/-- A header of one consist of one convoy, with a single lane, v0, a0 and four bytes of code at 0. -/
def header : BitVec 1024 := BitVec.ofNat 1024 (4 * 2 ^ 64 + 2 ^ 320 + 2 ^ 498 + 2 ^ 505)
/-- A waybill of one convoy of it. -/
def waybill : BitVec 256 := mkWaybill 1024 0 0 1 0
/-- Words of the bench's page: the waybill at 512, a join record with its counter at `n` at 768, the header at 1024. -/
def paged (n : Nat) (s : State) : State :=
  ((s.writeNat (28 * 4096 + 512) 32 waybill.toNat).writeNat (28 * 4096 + 768) 40 (n + waybill.toNat * 2 ^ 64)).writeNat
    (28 * 4096 + 1024) 128 header.toNat
/-- The bench's launch. -/
def launch0 : Launch := { (default : Launch) with count := 1, next := 1, header := header, hdrAddr := 1024 }
/-- One lane: a1 names the waybill, a2 is 1, a4 names the record, a5 is level 0 of launch 0. -/
def dispatching (n : Nat) (f : Session → Session) : State := mapped (paged n (inSession (convoyed .a (fun c =>
  withA 1 512 (withA 2 1 (withA 4 768 (withA 5 0 { c with lmask := 1 })))) id) (fun v =>
    f { v with depths := List.replicate 16 4, launches := [(0, launch0)] })))
/-- No launch slot is taken. -/
def launchless (n : Nat) : State := dispatching n (fun v => { v with launches := [] })
/-- Rank r's siding holds a waybill of launch 0 that used the bench's reservation, and has no other slot. -/
def full (r : Nat) (m : Bool) : State := dispatching 1 (fun v =>
  { v with depths := [], maintenance := m, sidings := [(r, [{ (default : Queued) with bits := waybill, reserved := some 0 }])] })

/-- Do the registers of a dispatch instruction hold these values, with nothing logged? -/
def holds (s : State) (x : Ctx) (a b : BitVec 7) (p q : Nat) : Bool :=
  x.act != 0 && !s.logged x.key && decide ((src1 x a (lowest x.act)).toNat = p) && decide ((src2 x a b (lowest x.act)).toNat = q)

def dispatchInfo (a b : BitVec 7) : OpInfo :=
  { uses := [(1, 3, .dst false true false), (2, a, .src false false), (3, b, .src false false)], uniform := true }

theorem witness_EnqueuesComplete_spawn : ∃ x, Issues (packReg 0x56 3 1 2 0 0) (dispatchInfo 1 2) (dispatching 1 id) x ∧
    (holds (dispatching 1 id) x 1 2 512 1 && (let u := (dispatching 1 id)
      u.consist? x.key == some x.c && (x.launch u).next == 1 && hdrGroup (x.launch u).header == 1 &&
      (u.sidingSpace x.c.sess (u.convoyOf x.c).rank (some x.c.convoy)).isSome)) = true := issues_of (by decide +kernel)
theorem witness_EnqueuesComplete_spawn_full : ([full 0 false, full 0 true] : List State).all (fun s =>
    meets (packReg 0x56 3 1 2 0 0) (dispatchInfo 1 2) s (fun x => holds s x 1 2 512 1 && (let u := s
      u.consist? x.key == some x.c && (u.sidingSpace x.c.sess (u.convoyOf x.c).rank (some x.c.convoy)).isNone))) = true := by
  decide +kernel
theorem witness_EnqueuesComplete_enq : ∃ x, Issues (packReg 0x56 3 1 2 0 2) (dispatchInfo 1 2) (dispatching 1 id) x ∧
    (holds (dispatching 1 id) x 1 2 512 1 && readsB x (dispatching 1 id) 512 32 (fun y v =>
      let wb := BitVec.ofNat 256 y
      decide ((x.issuer (dispatching 1 id)).rank ≤ 1) && wbValid wb && wbHdr wb == 1024 && wbJoinp wb == 0 &&
        (x.launch (dispatching 1 id)).hdrAddr == 1024 && wbCount wb % hdrGroup header == 0 &&
        (v.sidingSpace x.c.sess 1 (some x.c.convoy)).isSome)) = true := issues_of (by decide +kernel)

/-- A session with no launch has a launch slot to give. -/
theorem freeLaunch_of (s : State) (v : Nat) (h : (s.session v).launches = []) : ∃ j, s.freeLaunch v = some j :=
  picks (n := 1023) _ _ (fun j => by simp [h, tget, tfind]; decide)
theorem joinRoom_of (s : State) (e : Issuer) (j : Joining) (p : Plan) (c : Nat) (q : List Piece) (r : Option Nat)
    (hc : j.cont = some (p, c, q)) (h : (s.session e.sess).launches = []) (hl : s.levelsCancelled e.sess (hdrLevels p.hdr.bits) = false)
    (hs : s.sidingSpace e.sess p.rank e.conv = some r) : ∃ slot, s.joinRoom e j = some (slot, r) := by
  obtain ⟨k, hk⟩ := freeLaunch_of s e.sess h
  exact ⟨k, by simp [State.joinRoom, hc, hl, hk, hs]⟩

theorem witness_EnqueuesComplete_launch : ∃ x, Issues (packReg 0x56 3 1 2 0 4) (dispatchInfo 1 2) (launchless 1) x ∧
    (holds (launchless 1) x 1 2 512 1 && (let u := (launchless 1)
      let e := x.issuer u
      decide (e.rank ≤ 1) && (match (e.read 512 32 u).bind (fun y u => e.plan (BitVec.ofNat 256 y) 1 512 u) with
        | .val plan v => v.consist? x.key == some x.c && plan.arm.isNone && (v.session x.c.sess).launches == [] &&
            (v.sidingSpace x.c.sess 1 (some x.c.convoy)).isSome
        | _ => false))) = true := issues_of (by decide +kernel)
theorem witness_EnqueuesComplete_launch_slot (v : State) (h : (v.session 0).launches = []) : ∃ new, v.freeLaunch 0 = some new :=
  freeLaunch_of v 0 h

theorem witness_DispatchesComplete_deq_empty : ∃ x, Issues (packReg 0x56 3 1 2 0 3) (dispatchInfo 1 2) (dispatching 1 id) x ∧
    (holds (dispatching 1 id) x 1 2 512 1 && (tget ((dispatching 1 id).session x.c.sess).sidings 1 == [])) = true :=
  issues_of (by decide +kernel)
theorem witness_DispatchesComplete_deq : ∃ x, Issues (packReg 0x56 3 1 2 0 3) (dispatchInfo 1 2) (full 1 false) x ∧
    (holds (full 1 false) x 1 2 512 1 && ((tget ((full 1 false).session x.c.sess).sidings 1).length == 1) &&
      (let u := (full 1 false)
       match (x.issuer u).pieces .write 512 32 u with
       | .val ps v => v.consist? x.key == some x.c && v.session x.c.sess == (full 1 false).session x.c.sess && soundB v &&
           ps.all (fun g => match g.spot with | .mem n => decide (n + g.len ≤ 2 ^ 40) | _ => false)
       | _ => false)) = true := issues_of (by decide +kernel)
/-- What a JOIN by 1 finds at byte 768, by evaluation. -/
def joinsB (s : State) (x : Ctx) (f : Joining → State → Bool) : Bool :=
  match (x.issuer s).join 768 1 s with
  | .val j v => v.consist? x.key == some x.c && f j v
  | _ => false
theorem witness_DispatchesComplete_join : ∃ x, Issues (packReg 0x56 3 4 2 0 1) (dispatchInfo 4 2) (dispatching 2 id) x ∧
    (holds (dispatching 2 id) x 4 2 768 1 && joinsB (dispatching 2 id) x (fun j v => j.count == 2 && j.cont.isNone &&
      (v.joinRoom (x.issuer (dispatching 2 id)) j == some (0, none)) && soundB v &&
      j.spot.all (fun g => match g.spot with | .mem n => decide (n + g.len ≤ 2 ^ 40) | _ => false))) = true := issues_of (by decide +kernel)
theorem witness_DispatchesComplete_join_last : ∃ x, Issues (packReg 0x56 3 4 2 0 1) (dispatchInfo 4 2) (launchless 1) x ∧
    (holds (launchless 1) x 4 2 768 1 && joinsB (launchless 1) x (fun j v => match j.cont with
      | some (plan, _, _) => (v.session x.c.sess).launches == [] && !v.levelsCancelled x.c.sess (hdrLevels plan.hdr.bits) &&
          (v.sidingSpace x.c.sess plan.rank (some x.c.convoy)).isSome
      | none => false)) = true := issues_of (by decide +kernel)
theorem witness_DispatchesComplete_cntrd : ∃ x, Issues (packReg 0x56 3 5 0x78 0 6)
    { uses := [(1, 3, .dst false true false), (2, 5, .src false false)], uniform := true } (dispatching 1 id) x ∧
    (x.act != 0 && levelOf (src1 x 5 (lowest x.act)).toNat == some (0, 0)) = true := issues_of (by decide +kernel)
/-- CANCEL of a launch with a convoy left, which runs, and of one with none. -/
theorem witness_DispatchesComplete_cancel : ([dispatching 1 id, full 1 false, launchless 1] : List State).all (fun s =>
    meets (packReg 0x56 0x78 5 0x78 0 5) { uses := [(2, 5, .src false false)], uniform := true } s (fun x =>
      x.act != 0 && levelOf (src1 x 5 (lowest x.act)).toNat == some (0, 0) &&
        ((s.levelAt x.c.sess 0 0).count == if (s.session 0).launches == [] then 0 else 1))) = true := by decide +kernel
theorem witness_DispatchesComplete_cancel_running : (match (dispatching 1 id).convoy? 0 with
    | some c => c.holds 0 && withinLevel launch0 0 0 0 && c.members == [0]
    | none => false) = true ∧ ((dispatching 1 id).consist? 0).map (fun y => y.status) = some .running := by decide +kernel

theorem test_join_counts : goes (exec (.join 3 4 2 0) (dispatching 2 id)) (fun t => t.word (28 * 4096 + 768) 4 == 1 &&
    (match t.consist? 0 with | some c => tget c.aregs 96 == 2 | none => false)) = true := by decide +kernel
theorem test_spawn_counts : goes (exec (.spawn 3 1 2 0) (dispatching 1 id)) (fun t =>
    (tget (t.session 0).launches 0).count == 2 && (tget (t.session 0).launches 0).next == 2 &&
      (match t.consist? 0 with | some c => tget c.aregs 96 == 1 | none => false)) = true := by decide +kernel
theorem test_cancel_delivers : goes (exec (.cancel 5 0) (dispatching 1 id)) (fun t => (tget (t.session 0).launches 0).cancelled &&
    (match t.consist? 0 with | some c => c.async.map (fun f => f.cause) == [.cancel] | none => false)) = true := by decide +kernel

/-! ## Bands -/

/-- A stream of two bands of 16 by 16 pixels in a frame of 48 lines of 10 ns, from scan time 0. -/
def strm : Stream :=
  { (default : Stream) with
    state := 1, hact := 16, vact := 32, vtot := 48, lper := 10, mfld := 0x800, hist := 0x400, page := 99, meCur := 0x100, meRef := 0x200, mePitch := 16, meW := 8, meH := 8 }
/-- The band program of stream 0 of die 0, one lane, with a1 and a2. -/
def banding (st : Strm) (a1 a2 : DWord) (f : Stream → Stream) : State :=
  let k := lineKey 0 0 0 0
  let s := (lineBench st (fun c => withA 1 a1 (withA 2 a2 (withV 1 0 { c with lmask := 1 })))).setConvoy 0
    { (default : Convoy) with core := 256, line := true, members := [k], size := 1, train := 1, spSize := 4096 }
  s.setStream 0 0 (f strm)

/-- Scan time runs on, no further than the stream's horizon; nothing else of the stream changes. -/
theorem scan_runs (s : State) (d k : Nat) : (s.scan d k).stream d k = (s.stream d k).run s.tick := by
  simp [State.scan, State.stream, State.setStream, State.die, State.setDie, tget_tset_same]
theorem scan_later (s : State) (d k : Nat) : (s.stream d k).t ≤ ((s.scan d k).stream d k).t := by
  rw [scan_runs]
  simp only [Stream.run]
  omega
theorem scan_within (s : State) (d k : Nat) : ((s.scan d k).stream d k).t ≤ max (s.stream d k).t (s.stream d k).horizon := by
  rw [scan_runs]
  exact Nat.min_le_left _ _

/-- Band n of the stream that the band program sees, by evaluation: its number, not out of range, and a test of the stream. -/
def bandB (s : State) (x : Ctx) (n : Nat) (p : Stream → Bool) : Bool :=
  x.act != 0 && x.band s == (0, 0) && bandNumber x 1 == n && (let y := (s.scan 0 0).stream 0 0
    !y.badBand n && p y)

def bandInfo (u : Use) (w : Bool) : OpInfo := { uses := [(1, 3, u), (2, 1, .src w false)], uniform := true }
/-- Band 1's window opens at 0; band 4's at the deadline of band 3, beyond every time before band 1 settles. -/
theorem witness_BandReadsAndOperations_lwait : ([1, 4] : List Nat).all (fun n =>
    meets (packReg 0x58 3 1 0x78 0 0) (bandInfo .lwait true) (banding .a (BitVec.ofNat 64 n) 0 id)
      (fun x => bandB (banding .a (BitVec.ofNat 64 n) 0 id) x n (fun y => y.lastSettled == 0))) = true := by decide +kernel
theorem witness_BandReadsAndOperations_times : strm.opens 1 = 0 ∧ max strm.t strm.horizon < strm.opens 4 := by decide
theorem witness_BandReadsAndOperations_lwait_z : ∃ x, Issues (packReg 0x58 0x78 1 0x78 0 0)
    { uses := [(1, 0x78, .lwait), (2, 1, .src true false)], uniform := true } (banding .a 1 0 id) x ∧
    bandB (banding .a 1 0 id) x 1 (fun y => y.lastSettled == 0) = true := issues_of (by decide +kernel)
theorem witness_BandReadsAndOperations_dlread : ∃ x, Issues (packReg 0x58 3 1 0x78 0 6) (bandInfo (.dst false true false) true)
    (banding .a 1 0 id) x ∧ bandB (banding .a 1 0 id) x 1 (fun _ => true) = true := issues_of (by decide +kernel)
/-- Band 5 lies beyond two frames. -/
theorem witness_BandReadsAndOperations_dlread_bounds : ∃ x, Issues (packReg 0x58 3 1 0x78 0 6) (bandInfo (.dst false true false) true)
    (banding .a 5 0 id) x ∧ (x.act != 0 && bandNumber x 1 == 5 && (((banding .a 5 0 id).scan 0 0).stream 0 0).badBand 5) = true :=
  issues_of (by decide +kernel)
theorem witness_BandReadsAndOperations_tmstat : ∃ x, Issues (packReg 0x58 4 1 0x78 0 5)
    { uses := [(1, 4, .dst true true false), (2, 1, .src false false)], uniform := true } (banding .a 6 0 id) x ∧ (x.act != 0) = true :=
  issues_of (by decide +kernel)

/-- The image of a band's word can be read; the stream has no operation. -/
def imageB (s : State) (x : Ctx) (b : BitVec 7) (write : Bool) (p : Window → Nat → Stream → State → Bool) : Bool :=
  let u := s.scan 0 0
  let y := u.stream 0 0
  match imageWindow x (src1 x b (lowest x.act)) y.imageSize write u with
  | .val (win, off) v => v.consist? x.key == some x.c && !v.logged x.key && y.op.isNone && p win off y v
  | _ => false
def sendInfo : OpInfo := { uses := [(1, 3, .dst false true false), (2, 1, .src false false), (3, 2, .src false false)], uniform := true }

/-- Band 1 has settled. -/
theorem witness_BandReadsAndOperations_late : ([1, 4] : List (BitVec 3)).all (fun f =>
    meets (packReg 0x58 3 1 2 0 f) sendInfo (banding .a 1 0 (fun y => { y with counters := [(7, 1)] }))
      (fun x => bandB (banding .a 1 0 (fun y => { y with counters := [(7, 1)] })) x 1 (fun y => y.lastSettled == 1) &&
        imageB (banding .a 1 0 (fun y => { y with counters := [(7, 1)] })) x 2 false (fun _ _ _ _ => true))) = true := by decide +kernel
/-- Band 1's window is open, as `witness_BandReadsAndOperations_times` and `scan_later` say. -/
theorem witness_BandReadsAndOperations_sent : ([1, 4] : List (BitVec 3)).all (fun f =>
    meets (packReg 0x58 3 1 2 0 f) sendInfo (banding .a 1 0 id) (fun x => bandB (banding .a 1 0 id) x 1 (fun y => y.lastSettled == 0) &&
      imageB (banding .a 1 0 id) x 2 false (fun win off y v =>
        match reach (x.terminusAsker v) .read false win.space (win.pieces v x.c 0 off y.imageSize) v with
        | .val ps r => (correctPieces (ps.foldl Piece.sample r) ps).consist? x.key == some x.c && decide (badLine r ps = .good)
        | _ => false))) = true := by decide +kernel
theorem witness_BandReadsAndOperations_warp : ∃ x, Issues (packReg 0x58 0x78 1 2 0 3)
    { uses := [(2, 1, .src false false), (3, 2, .src false false)], uniform := true } (banding .a 1 0 id) x ∧
    (bandB (banding .a 1 0 id) x 1 (fun _ => true) && imageB (banding .a 1 0 id) x 2 true (fun win off y v =>
      match reach (x.terminusAsker v) .write false win.space (win.pieces v x.c 0 off y.imageSize) v with
      | .val _ r1 => (match reach (x.terminusAsker v) .read false 0 (warpField y (y.place 1).2) r1 with
        | .val mf r2 => (match reach (x.terminusAsker v) .read false 0 (warpHistory r2 y mf (y.place 1).2) r2 with
          | .val hist r3 => (correctPieces r3 (mf ++ hist)).consist? x.key == some x.c && decide (badLine r3 (mf ++ hist) = .good)
          | _ => false)
        | _ => false)
      | _ => false)) = true := issues_of (by decide +kernel)
theorem witness_BandReadsAndOperations_search : ∃ x, Issues (packReg 0x58 0x7A 1 2 0 2)
    { uses := [(1, 0x7A, .lqTwo), (2, 1, .src false false), (3, 2, .src false false)] } (banding .a 0 1 id) x ∧
    (let s := banding .a 0 1 id
     let y := s.stream 0 0
     let ps := (lanesOf x.act).flatMap (fun l => searchPieces y ((src1 x 1 l).toNat % 65536) ((src1 x 1 l).toNat / 65536) 1)
     x.act != 0 && x.band s == (0, 0) && (src1 x 2 (lowest x.act)).toNat == 1 &&
     decide (∀ l ∈ lanesOf x.act, (src1 x 1 l).toNat < 2 ^ 32 ∧ 8 * ((src1 x 1 l).toNat % 65536) + 8 ≤ y.meW.toNat
       ∧ 8 * ((src1 x 1 l).toNat / 65536) + 8 ≤ y.meH.toNat) &&
     !s.logged x.key && y.op.isNone && ps.all (fun p => decide (p.va + p.len ≤ 2 ^ 60)) &&
     (match reach (x.terminusAsker s) .read false 0 ps s with
      | .val qs v => decide (badLine v qs = .good) && (correctPieces v qs).consist? x.key == some x.c
      | _ => false)) = true := issues_of (by decide +kernel)

/-! ## Manifest -/

theorem witness_ManifestInstructionsComplete_requests : ([0, 1] : List (BitVec 3)).all (fun f =>
    meets (packReg 0x61 3 1 2 0 f) (dispatchInfo 1 2) (bench .a (withA 2 1023)) (fun x => x.act != 0 &&
      src1 x 1 (lowest x.act) == 0 && src1 x 2 (lowest x.act) == 1023 && ((bench .a id).session x.c.sess).mReqs == [] &&
      !(bench .a id).logged x.key)) = true := by decide +kernel
theorem witness_ManifestInstructionsComplete_wait : ∃ x, Issues (packReg 0x61 3 1 2 0 0) (dispatchInfo 1 2)
    (inSession benchA (fun v => { v with mReqs := List.replicate 64 default })) x ∧ (x.act != 0 &&
      decide (64 ≤ ((inSession benchA (fun v => { v with mReqs := List.replicate 64 default })).session x.c.sess).mReqs.length)) = true :=
  issues_of (by decide +kernel)
theorem witness_ManifestInstructionsComplete_bounds : ∃ x, Issues (packReg 0x61 3 1 2 0 0) (dispatchInfo 1 2) (bench .a (withA 1 1)) x ∧
    (x.act != 0 && decide ((src1 x 1 (lowest x.act)).toNat % 4096 ≠ 0)) = true := issues_of (by decide +kernel)
/-- The bench's page is not copy-on-write: it has no frame-map entry. -/
theorem witness_ManifestInstructionsComplete_query : ([0, 1, 2] : List DWord).all (fun n =>
    meets (packReg 0x61 3 1 2 0 2) (dispatchInfo 1 2) (bench .a (withA 2 n)) (fun x => x.act != 0 &&
      src1 x 2 (lowest x.act) == n && ((bench .a id).mappedPage x.c.sess 0).isNone && ((bench .a id).quietLeaf x.c.sess 0).isSome)) = true := by
  decide +kernel
/-- Frame 0 is FREE. -/
theorem witness_ManifestInstructionsComplete_retire : ∃ x, Issues (packReg 0x61 3 1 2 0 3) (dispatchInfo 1 2) (bench .a (withA 2 15)) x ∧
    (x.act != 0 && src1 x 2 (lowest x.act) == 15 && benchA.frameKind 0 == 0) = true := issues_of (by decide +kernel)
theorem test_mretire : goes (exec (.mretire 3 1 2) (bench .a (withA 2 15))) (fun t => t.frameKind 15 == 5 && t.frameKind 16 == 3) = true := by
  decide +kernel
theorem test_mquery : goes (exec (.mquery 3 1 2) (bench .a id)) (fun t => match t.consist? 0 with
    | some c => tget c.aregs 96 == 0x400 | none => false) = true := by decide +kernel

/-! ## Events of consists and of the Dispatch engine -/

def flying (k : Latency) : Inflight := { kind := k, strm := .c, lane := 31, dest := .reg 3 false true, vals := [7, 0], clk := default }
def flight : State := bench .c (fun c => { c with inflight := [flying .load, flying .texture, flying .variable] })
theorem witness_ConsistEventsTakeEffect_lands : (match flight.consist? 0 with
    | some c => ([.load, .texture, .variable] : List Latency).all (fun e =>
        (c.inflight.filter (fun g => g.kind == e && (e == .variable || g.lane == 31)))[0]? == some (flying e))
    | none => false) = true := by decide +kernel
/-- Lane 3's A-stream waits for the C-stream's queue, and its C-stream for the A-stream's. -/
def lockedBench : Consist :=
  let c := benchConsist false
  { c with a := { c.a with wants := [(3, { pops := [(.ca, 1)], pushes := [] })] }, c := { c.c with wants := [(3, { pops := [(.ac, 1)], pushes := [] })] } }
theorem witness_ConsistEventsTakeEffect_qlock : lockedBench.status = .running ∧ lockedBench.saved = none ∧
    (List.range 32).filter lockedBench.locked = 3 :: [] ∧ (bench .a (fun _ => lockedBench)).consist? 0 = some lockedBench := by decide +kernel
/-- Lane 0 is ahead of the others; 256 instructions of the others' run have been issued. -/
def turned : Consist :=
  let c := benchConsist false
  { c with a := { c.a with pc := [(0, 4)], headCount := 256, headLanes := 0xFFFFFFFE, stalled := true } }
theorem witness_ConsistEventsTakeEffect_deferral : turned.eligible .a &&& ~~~(headRun turned.a (turned.eligible .a)) ≠ 0 ∧
    dueDeferral turned .a (headRun turned.a (turned.eligible .a)) = true ∧ turned.status = .running ∧ turned.a.held = false := by decide +kernel
theorem witness_ConsistEventsTakeEffect_tier :
    let c := { benchConsist false with a := { (benchConsist false).a with stalled := true }, c := { (benchConsist false).c with stalled := true } }
    isLine 0 = false ∧ c.status = .running ∧ c.lowTier = false ∧ c.inHold = false ∧ c.idleStrm .a = true ∧ c.idleStrm .c = true := by decide +kernel
theorem witness_ConsistEventsTakeEffect_recall : ({ benchConsist false with lowTier := true } : Consist).lowTier = true := rfl
theorem witness_ConsistEventsTakeEffect_async : ([.running, .draining] : List Status).all (fun st =>
    match (bench .a (fun c => { c with status := st, async := [{ cause := .cancel, value := 0, tokens := 1, held := false }] })).consist? 0 with
    | some c => (c.async.find? (fun f => !(f.held && c.saved.isSome))).isSome && !c.parked && c.status == st && c.saved == none && c.bandOp == 0
    | none => false) = true := by decide +kernel
theorem witness_ConsistEventsTakeEffect_held : (let c := { handling (benchConsist false) with async :=
      [{ cause := .freight, value := 0, tokens := 1, held := true }] }
    c.saved.isSome && c.async.all (fun f => f.held)) = true := by decide
theorem test_load_lands : goes (exec (.loadDataReturn 0 31 0) flight) (fun t => match t.consist? 0 with
    | some c => c.v 3 31 == 7 && c.v 3 30 == 0 && c.inflight.length == 2 | none => false) = true := by decide +kernel

/-- The bench's consist ended in a way, in a convoy of n. -/
def ended (st : Status) (n : Nat) : State := convoyed .a (fun c => { c with status := st }) (fun v => { v with size := n })
theorem witness_DispatchEventsTakeEffect_exit : ([.draining, .terminated { trapc := 0, trapv := 0, trappc := 0 }, .halted 5] : List Status).all (fun st =>
    ([1, 2] : List Nat).all (fun n => match (ended st n).consist? 0, (ended st n).convoy? 0 with
      | some c, some v => soundB (ended st n) && !c.parked && (ended st n).drained 0 c && c.async == [] && v.ended + 1 ≤ n && v.size == n && v.train == 1 && !v.line
      | _, _ => false)) = true := by decide +kernel
/-- A write to page 0 in the side log, and one to a page that is not there. -/
def logs (va : Nat) : State := benchA.setCore 0 { benchA.core 0 with
  log := [⟨0, false, 0, 3, va / 4096, [⟨va, 0, none, 4, 5, none, none⟩], 7⟩] }
theorem witness_DispatchEventsTakeEffect_log : (match ((logs 0xFF0).core 0).log with
    | [e] => (match e.resolve e.writes (logs 0xFF0) with
      | .val l u => l.all (fun p => p.2.red == none && decide (p.1 + p.2.size ≤ 2 ^ 40)) && soundB u
      | _ => false)
    | _ => false) = true := by decide +kernel
theorem witness_DispatchEventsTakeEffect_log_fault : (match ((logs 0x200000).core 0).log with
    | [e] => (match e.resolve e.writes (logs 0x200000) with
      | .out (.trapIn u _ _) => (u.consist? 0).isSome
      | _ => false)
    | _ => false) = true := by decide +kernel

/-- Core 0 is session 0's; its siding of rank 0 holds the launch's waybill. -/
def binding : State :=
  let s := State.reset.setDie 0 { State.reset.die 0 with bank0 := [(0, 1)] }
  s.setSession 0 { s.session 0 with state := .live, depths := List.replicate 16 64, launches := [(0, launch0)], sidings := [(0,
    [{ (default : Queued) with bits := waybill }])] }
theorem pickSlots_one (s : State) (core : Nat) (h : s.consistsOn core = []) : ∃ k, s.pickSlots core 1 = some [k] := by
  have : ∃ k, ((List.range 16).map (fun j => simtKey core (4 * ((Config.corePick s.tick + j) % 16) + 0 % 4))).find? (fun k =>
      !([] : List Nat).contains k && !([] : List Nat).contains k) = some k := by
    rw [List.range_succ_eq_map]
    exact ⟨_, List.find?_cons_of_pos (by rfl)⟩
  obtain ⟨k, hk⟩ := this
  exact ⟨k, by simp only [State.pickSlots, h, List.map_nil, List.range_one, List.foldl_cons, List.foldl_nil, hk]; rfl⟩
theorem witness_DispatchEventsTakeEffect_placement : ∃ k, binding.placement 0 0 0 = some [(0, [k])] := by
  obtain ⟨k, hk⟩ := pickSlots_one binding 0 (by decide +kernel)
  have hr : binding.roomOn 0 launch0.header = some [k] := by
    have h1 : ((binding.core 0).halting || !binding.storesFree 0 launch0.header) = false := by decide +kernel
    have h2 : hdrConsists launch0.header = 1 := by decide +kernel
    simp only [State.roomOn, h1, h2, hk, Bool.false_eq_true, if_false]
  have hq : tget (binding.session 0).sidings 0 = [{ (default : Queued) with bits := waybill }] := by decide +kernel
  have hl : tget (binding.session 0).launches 0 = launch0 := by decide +kernel
  have hg : hdrGroup launch0.header = 1 := by decide +kernel
  have hf : (List.range 16).any (fun i => decide (binding.sidingFree 0 i < 1)) = false := by decide +kernel
  refine ⟨k, ?_⟩
  have hd : (default : Queued).slot = 0 := rfl
  simp only [State.placement, hq, hd, hl, hg, hf, hr, Bool.false_eq_true, if_false, Nat.sub_self, Nat.not_lt_zero, List.take_zero]
theorem witness_DispatchEventsTakeEffect_bind : binding.bindSession 0 = some 0 ∧
    (∀ r, r < 16 → r ≠ 0 → tget (binding.session 0).sidings r = []) := by decide +kernel
/-- No other siding has a waybill to place, so rank 0 is next. -/
theorem witness_DispatchEventsTakeEffect_next : binding.nextRank 0 0 = some 0 := by
  obtain ⟨k, hk⟩ := witness_DispatchEventsTakeEffect_placement
  have hn : ∀ r, r < 16 → r ≠ 0 → binding.placement 0 0 r = none := by
    intro r h h0
    simp only [State.placement, witness_DispatchEventsTakeEffect_bind.2 r h h0]
  have : (List.range 16).filter (fun r => (binding.placement 0 0 r).isSome) = (List.range 16).filter (fun r => r == 0) := by
    apply List.filter_congr
    intro r hr
    by_cases h0 : r = 0
    · simp [h0, hk]
    · simp [h0, hn r (List.mem_range.mp hr) h0]
  simp only [State.nextRank, this]
  rfl

/-- Launch 3 owes the record at byte 768, whose counter is 2, a JOIN. -/
def owing : State := dispatching 2 (fun v => { v with joins := [{ slot := 3, record := 768, launch := default }] })
theorem witness_DispatchEventsTakeEffect_join : (match (owing.session 0).joins.find? (fun j => j.slot == 3) with
    | some j => (match (owing.engineIssuer 0 j).join 768 1 owing with
      | .val g u => g.cont.isNone && g.count == 2 && u.joinRoom (owing.engineIssuer 0 j) g == some (0, none) && soundB u && g.spot.all (fun p => match p.spot with | .mem n => decide (n + p.len ≤ 2 ^ 40) | _ => false)
      | _ => false)
    | none => false) = true := by decide +kernel
/-- A flip that gives core 63 to session 5. -/
def flipping : State := State.reset.setDie 0 { State.reset.die 0 with bank1 := [(63, 6)], flip := true }
theorem witness_DispatchEventsTakeEffect_flip : (flipping.die 0).flip = true ∧ (∀ i, i < 64 → (flipping.core i).halting = false) := by decide +kernel
def halting : State := (convoyed .a id id).setCore 0 { (convoyed .a id id).core 0 with halting := true }
theorem witness_DispatchEventsTakeEffect_swap : soundB halting = true ∧ (halting.core 0).halting = true ∧ (halting.convoysOn 0).all (fun e =>
    halting.swappable e.1 e.2 && e.2.trainKeys == []) = true ∧ (halting.convoysOn 0).length = 1 ∧ halting.coreSession 0 = none := by decide +kernel
/-- Core 0 is session 0's, and its shadow storage holds a parked convoy. -/
def shadowed : State :=
  let s := binding.setConvoy 9 { (default : Convoy) with parked := true, train := 1, size := 1, members := [parkedBase] }
  (s.setConsist parkedBase { benchConsist false with parked := true, convoy := 9 }).setCore 0 { s.core 0 with shadow := some 9 }
theorem witness_DispatchEventsTakeEffect_resume : (match shadowed.parkedOn 0, shadowed.convoy? 9 with
    | [9], some v => decide (v.train ≤ 1) && shadowed.resumable v
    | _, _ => false) = true := by decide +kernel
theorem test_resume : goes (exec (.convoyResume 0) shadowed) (fun t => match t.consist? 0 with | some c => !c.parked | none => false) = true := by
  decide +kernel

/-! ## Events of translation -/

/-- Core 7 has an entry for page 0, and core 0 none. -/
def probing : State := (mapped benchA).setCore 7 ((mapped benchA).core 0) |>.setCore 0 default
theorem witness_TranslationEventsTakeEffect_probe : (probing.tlbHit 0 0 0).isNone = true ∧ (probing.probe 0 0 0).isSome = true := by decide +kernel
/-- Page 0 is mapped; page 1 is pending. -/
def walking : State := benchA.writeNat (27 * 4096 + 8) 8 (2 ^ 62)
theorem witness_TranslationEventsTakeEffect_walk : (walking.tlbHit 0 0 0).isNone = true ∧ walking.walksHeld 0 (coreAgent 0) = false ∧
    (match walking.walk (some 0) 0 0 with | (.fill _, _) => true | _ => false) = true ∧ (walking.tlbHit 0 0 4096).isNone = true ∧
    (match walking.walk (some 0) 0 4096 with | (.pend, u) => (u.session 0).faults == [] | _ => false) = true := by decide +kernel
def posting : State := inSession State.reset (fun v => { v with state := .live, frBase := 0x100000, frSize := 4, unposted := [(4096, true, 3)] })
theorem witness_TranslationEventsTakeEffect_post : (let x := posting.session 0
    let n := posting.word x.frBase 8
    x.unposted == [(4096, true, 3)] && x.frSize == 4 && decide (n - posting.word (x.frBase + 8) 8 < x.frSize) &&
      decide (x.frBase + 64 + 16 * x.frSize ≤ 2 ^ 40) && decide (n + 1 < 2 ^ 64) && soundB posting) = true := by decide +kernel
/-- Page 0 is entry 0 of the frame map at frame 40: patches 1 of it in frame 42, the others in the shared frame 41. -/
def breaking : State :=
  let s := inSession benchA (fun v => { v with fmBase := 40 * 4096, fmSize := 1, breaks := [0] })
  let s := (s.writeNat (27 * 4096) 8 (2 ^ 63 + 3 * 2 ^ 60 + 2 ^ 11 + 2 ^ 10)).writeNat (40 * 4096) 16 (2 ^ 76 + 2 * 2 ^ 72 + 42 * 2 ^ 36 + 41)
  { s with ownership := tset (tset s.ownership 41 0x40000000) 42 0x60000000 }
theorem witness_TranslationEventsTakeEffect_break : (match breaking.mappedPage 0 0 with
    | some (l, m) => (breaking.session 0).breaks.contains (0 / 1024) && leafCow l.bits == 3 && !m.mask.getLsbD 0 && m.mask != 0 &&
        m.pframe == 42 && m.sframe == 41 && decide (Memory.wf breaking.mem = true) && soundB breaking && decide (breaking.lineState (41 * 4096) 1024 = .good) && entryFrame l.bits == 0 && l.addr == 27 * 4096
    | none => false) = true := by decide +kernel
theorem test_break_copies : goes (exec (.cowBreak 0 0) (breaking.writeNat (41 * 4096 + 1023) 1 0x5A)) (fun t =>
    t.byte (42 * 4096 + 1023) == 0x5A && (t.session 0).breaks == []) = true := by decide +kernel

/-! ## Events of the engines -/

/-- The bench's consist with one tile instruction queued. -/
def tiling (op : TileOp) (f : MatrixSeq → MatrixSeq) : State := bench .c (fun c => { c with matrix := f { c.matrix with
  ntiles := 8, nslots := 8, queue := [op] } })
/-- The work of the oldest, by evaluation. -/
def workB (s : State) (p : State → Bool) (q : Cause → State → Bool) : Bool :=
  match s.consist? 0 with
  | some c => (match c.matrix.queue with
    | op :: _ => !c.parked && !c.matrix.done &&
      (let after := fun (k : Clock) => ((c.matrix.ends.take 1).map (fun (e : Nat × Release) => e.2.clk)).foldl Clock.join k
       let b := s.beginOp (after op.clk) (after op.wclk)
       let u := if c.matrix.started then s else b.2.modMatrix 0 (fun m => { m with started := true, thread := b.1, progress := 0 })
       match u.consist? 0 with
       | some c0 => (match tileWork (tileCtx 0 c0 op) u with
         | .ok _ v => p v
         | .fail cause _ v => q cause v
         | _ => false)
       | none => false)
    | [] => false)
  | none => false
/-- MACZ executes; MMA on tiles that hold nothing fails. -/
theorem witness_UnitEventsTakeEffect_tile : (workB (tiling { (default : TileOp) with op := 4, unit := 2 } id) (fun v => (v.consist? 0).isSome) (fun _ _ => false)
    && workB (tiling { (default : TileOp) with op := 0, unit := 0, kcnt := 8, val := 1 } id) (fun _ => false) (fun e v => e == .matrix && (v.consist? 0).isSome))
    = true := by decide +kernel
theorem witness_UnitEventsTakeEffect_tile_done : (match (tiling { (default : TileOp) with op := 4 } (fun m => { m with done := true })).consist? 0 with
    | some c => c.matrix.done && c.matrix.queue.length == 1 | none => false) = true := by decide +kernel
def granting : State :=
  let s := tiling { (default : TileOp) with op := 7, unit := 2, val := 1 } (fun m => { m with started := true, tiles := [(2, .acc [(31, 9)])] })
  s.setCore 0 { s.core 0 with rowWait := [(0, 5)] }
theorem witness_UnitEventsTakeEffect_grant : (granting.core 0).rowWait = [(0, 5)] ∧ coreOf 0 = 0 ∧ (granting.core 0).ownerOf 0 = none ∧
    (granting.core 0).rowsOf 0 = [] := by decide +kernel
def pushing : State := granting.setCore 0 { granting.core 0 with rowWait := [], rowOwner := some 0 }
theorem witness_UnitEventsTakeEffect_push : (match pushing.consist? 0 with
    | some c => !c.parked && c.matrix.started && !c.matrix.done && tget c.matrix.tiles 2 == .acc [(31, 9)] &&
        (pushing.core (coreOf 0)).ownerOf 0 == some 0 && (pushing.core (coreOf 0)).rowWait == [] && (pushing.core (coreOf 0)).rowsOf 0 == []
    | none => false) = true := by decide +kernel
theorem test_mrow_push : goes (exec (.mrowPush 0) pushing) (fun t => ((t.core 0).rowsOf 0).map (fun e => (e.row, e.seg, e.vals.getD 31 0)) == [(0, 0, 9)]) = true := by
  decide +kernel

/-- Context 2 of session 0 holds a fill of one element, for the bench's convoy and its token 7. -/
def working (f : FreightCtx → FreightCtx) : State := inSession (convoyed .a (fun c => { c with tokens := 0x80 }) id) (fun v =>
  { v with freight := [(2, f { (default : FreightCtx) with accepted := 1, queue :=
      [{ number := 1, form := 1, layout := layout, fill := 0x5A5A5A5A, convoy := 0, tokens := [(0, 7)], clk := [], wclk := [] }] })] })
theorem witness_UnitEventsTakeEffect_freight : (let s := working id
    let f := tget (s.session 0).freight 2
    match f.queue with
    | op :: _ =>
      let after := fun (k : Clock) => ((f.ends.take 1).map (fun (e : Nat × Release) => e.2.clk)).foldl Clock.join k
      let b := s.beginOp (after op.clk) (after op.wclk)
      let u := if f.started then s else b.2.modFreight 0 2 (fun f => { f with started := true, thread := b.1, progress := 0 })
      let g := tget (u.session 0).freight 2
      !f.written && f.failure.isNone && !f.halted && (op.tokens.map (fun e => e.1)).find? (fun k => (u.consist? k).isSome) == some 0 &&
        (match u.consist? 0 with
         | some c => (match (FreightRun.mk c op g.thread (freightAgent u 0 2)).go 2 (op.units - g.progress) g.progress u with
           | .ok _ _ => true | _ => false)
         | none => false)
    | [] => false) = true := by decide +kernel
theorem witness_UnitEventsTakeEffect_freight_ends : ([working (fun f => { f with written := true }), working (fun f => { f with failure := some 5 })] :
    List State).all (fun s => let f := tget (s.session 0).freight 2
      f.queue.length == 1 && (f.written || f.failure == some 5) && (s.convoy? 0).isSome && (s.consist? 0).isSome) = true := by decide +kernel
def assembling : State := convoyed .a (fun c => { c with status := .draining }) (fun v => { v with assemblies := [(2,
  { (default : Assembly) with slices := [(0, 0, 7)] })] })
theorem witness_UnitEventsTakeEffect_abandon : (match assembling.convoy? 0 with
    | some y => (tget y.assemblies 2).slices != [] && y.members.all (fun k => assembling.atExit k) | none => false) = true := by decide +kernel
theorem test_fill : goes (exec (.freightOperationStart 0 2) (working id)) (fun t => t.word (28 * 4096) 4 == 0x5A5A5A5A &&
    t.byte (28 * 4096 + 4) == 0) = true := by decide +kernel

/-- Slot 511 of station 0 holds a pass over one sample. -/
def passing (f : RasterPass → RasterPass) (flushed : List Nat) : State :=
  let p : RasterPass :=
    { (default : RasterPass) with
      state := 1, desc := BitVec.ofNat 512 (2 ^ 32 + 2 ^ 48 + 128 * 2 ^ 256), counter := 4, numbered := 5, opener := (0, some (benchConsist false)) }
  benchA.setStation 0 { benchA.station 0 with flushed := flushed, passes := [(511, f p)] }
/-- Its draw is of one primitive with three equal corners. -/
theorem witness_UnitEventsTakeEffect_bin : (let s := passing (fun p => { p with draws := [(drawDesc, 0, some (benchConsist false))] }) []
    let ready := (s.station 0).passes.filter (fun (e : Nat × RasterPass) => e.2.state != 0 && e.2.draws != [] && e.2.failure.isNone)
    ready.length == 1 && s.tick == 0 && (match binDraw 0 511 (drawField drawDesc 63 32) (s.modPass 0 511 (fun p => { p with drawer := some (0, (benchConsist false).uid) })) with
      | .ok _ _ => true | _ => false)) = true := by decide +kernel
theorem witness_UnitEventsTakeEffect_render : (let s := passing (fun p => { p with state := 2, tilesDone := [(0, 1)] }) [511]
    let p := tget (s.station 0).passes 511
    (s.station 0).flushed == [511] && p.draws == [] && p.failure.isNone &&
      (match renderPass 0 511 ((List.range (passTiles p.desc)).filter (fun t => tget p.tilesDone t == 0 || p.holding.contains t)) s with
       | .ok _ _ => true | _ => false)) = true := by decide +kernel
theorem witness_UnitEventsTakeEffect_raster_fault : (let s := passing (fun p => { p with state := 2, failure := some (.bounds, 3), flusher := some (0, (benchConsist false).uid) }) [511]
    match (s.station 0).passes.find? (fun (e : Nat × RasterPass) => e.2.failure.isSome), s.consist? 0 with
    | some (j, p), some c => j == 511 && p.flusher == some (0, c.uid)
    | _, _ => false) = true := by decide +kernel
theorem witness_UnitEventsTakeEffect_raster_abandon : (let s := passing id []
    (tget (s.station 0).passes 511).state == 1 && (s.session (tget (s.station 0).passes 511).sess).launches == []) = true := by decide +kernel

/-- The stream of the band program, whose consist waits for an operation of a kind. -/
def awaiting (kind : Nat) : State :=
  let k := lineKey 0 0 0 0
  let o : BandOp := ⟨kind, k, 1, 1, 0x78, false, 1, List.replicate 768 0, [], 0⟩
  (banding .a 1 0 (fun y => { y with op := some o })).modConsist k (fun c => { c with bandOp := 2 })
theorem witness_BandEventsTakeEffect_copies : ([0, 1] : List Nat).all (fun n => match (((awaiting n).scan 0 0).stream 0 0).op with
    | some o => o.kind == n && (awaiting n).bandAlive o | none => false) = true := by decide +kernel
theorem witness_BandEventsTakeEffect_warp : (let s := awaiting 2
    let u := s.scan 0 0
    let x := u.stream 0 0
    match x.op, s.consist? (lineKey 0 0 0 0) with
    | some o, some c => o.kind == 2 && s.bandAlive o && (match imageWindow (o.ctx c) o.word x.imageSize true u with
      | .val (win, off) v => (match reach ((o.ctx c).terminusAsker v) .write false win.space (win.pieces v c 0 off x.imageSize) v with
        | .val _ v1 => v1.consist? o.consist == some c | _ => false)
      | _ => false)
    | _, _ => false) = true := by decide +kernel
theorem witness_BandEventsTakeEffect_search : (match ((awaiting 3).stream 0 0).op with
    | some o => o.kind == 3 && ((awaiting 3).consist? o.consist).isSome | none => false) = true := by decide +kernel
theorem witness_BandEventsTakeEffect_window :
    (let x := ((banding .a 1 0 id).scan 0 0).stream 0 0
     x.state == 1 && x.settled == [] && (tget x.bands 1).snap == none && !(tget x.bands 1).copying) = true ∧
    ((let x := ((banding .a 1 0 (fun y => { y with bands := [(1, { (default : BandSlot) with snap := some [(0x400, 2, some [1, 2])] })] })).scan 0 0).stream 0 0
      let slot := tget x.bands (x.lastSettled + 1)
      x.state == 1 && x.settled == [] && !slot.copying && slot.snap == some [(0x400, 2, some [1, 2])]) = true ∧
     ∀ who u, readHistory who [(0x400, 2, some [1, 2])] u = .ok (some [(0x400, 2, some [1, 2])]) u) ∧
    (let x := ((banding .a 1 0 (fun y => { y with bands := [(1, { (default : BandSlot) with copying := true })] })).scan 0 0).stream 0 0
     x.state == 1 && (tget x.bands (x.lastSettled + 1)).copying) = true :=
  ⟨by decide +kernel, ⟨by decide +kernel, fun _ _ => rfl⟩, by decide +kernel⟩
/-- Band 1 settles; the history band read for the next window is there. -/
theorem witness_BandEventsTakeEffect_settle : (let s := banding .a 1 0 id
    let y := s.stream 0 0
    y.state == 1 && decide (y.deadline 1 ≤ y.horizon) && y.lastSettled == 0 && (match y.historyPieces (y.place 2).2 with
      | some ps => (match readHistory (streamAsker y.sess 0 0) ps (s.setStream 0 0 y.settle) with
        | .ok _ v => v.stream 0 0 == y.settle | _ => false)
      | none => false)) = true := by decide +kernel
theorem witness_BandEventsTakeEffect_tap : (let s := banding .a 1 0 (fun y => { y with settled := [(1, List.replicate 768 0, [])] })
    let y := s.stream 0 0
    match y.settled with
    | e :: _ => decide (y.hist + y.imageSize * (y.place e.1).2 + y.imageSize ≤ 2 ^ 60) &&
      (match reach (streamAsker y.sess 0 0) .write false 0 (vaPieces 0 (y.hist + y.imageSize * (y.place e.1).2) y.imageSize) s with
       | .val _ v => v.stream 0 0 == y | _ => false)
    | [] => false) = true := by decide +kernel
/-- The encoder takes the first band of a frame, and the second. -/
theorem witness_BandEventsTakeEffect_encoder : ([(1, 0, 0), (2, 1, 1)] : List (Nat × Nat × Nat)).all (fun e =>
    let y := (banding .a 1 0 (fun y =>
      { y with counters := [(7, e.1)], tapped := e.2.1, encLatched := BitVec.ofNat 64 e.2.2, enc := 1 + 255 * 2 ^ 10 })).stream 0 0
    y.state == 1 && decide (y.tapped + 1 ≤ y.lastSettled) && y.settled == [] &&
      decide (y.tapTime (y.tapped + 1) ≤ y.deadline (y.lastSettled + 1)) && ((y.place (y.tapped + 1)).2 == 0) == (e.2.1 == 0) &&
      (e.2.1 != 0 || (y.frameCoded && y.enc.getLsbD 0)) && y.encodes == (e.2.1 == 1)) = true := by decide +kernel
/-- A ring of one byte has no room for any tile row: an OBU has a header of one byte at least. Which length a coding has is
free, so nothing evaluates the other case. -/
def coded : State := banding .a 1 0 (fun y => { y with
  counters := [(7, 2)], tapped := 2, encLatched := 1, coding := [[0], [255]], bsSize := 1 })
theorem witness_BandEventsTakeEffect_tile_row : (let y := coded.stream 0 0
    let bands := min 4 (y.bandsPerFrame - 4 * y.tileRows)
    y.state == 1 && !y.frameCoded && decide (bands ≤ y.coding.length) && decide ((y.bsRd.toNat + y.bsSize - y.bsWr.toNat - 1) % y.bsSize = 0) &&
      (match readMotion (streamAsker y.sess 0 0) (y.tileMotion bands) coded with | .ok _ v => v.stream 0 0 == y | _ => false)) = true ∧
    ∀ (y : Stream) tick motion codes, 0 < (y.obus tick motion codes).length :=
  ⟨by decide +kernel, fun y tick motion codes => by simp only [Stream.obus, obu, List.length_append, List.length_cons]; omega⟩
theorem witness_BandEventsTakeEffect_stop : (let y := (banding .a 1 0 (fun y => { y with counters := [(7, 2)], stopAt := some 2 })).stream 0 0
    y.stopAt == some 2 && y.state == 1 && decide (2 ≤ y.lastSettled) && y.settled == []) = true := by decide +kernel
theorem witness_BandEventsTakeEffect_move : (let s := inSession (banding .a 1 0 id) (fun v => { v with home := 3 })
    let y := s.stream 0 0
    y.state == 1 && (s.session y.sess).home == 3 && (s.stream 3 0).state == 0 && s.linkOpen 0 3 &&
      y.lastSettled % y.bandsPerFrame == 0 && y.settled == [] && y.op.isNone) = true := by decide +kernel
/-- The fill image is what a band takes that nothing else is there for; a miss is counted and posted. -/
theorem test_settle_misses : goes (exec (.bandSettle 0 0) (banding .a 1 0 id)) (fun t => let y := t.stream 0 0
    y.lastSettled == 1 && y.t == 160 && tget y.counters 1 == 1 && tget y.counters 5 == 1 && y.events == [0x4B000001]) = true := by decide +kernel

/-! ## Events of the Manifest and of sessions -/

/-- SHAKE256 of the empty message (FIPS 202's example): bytes 46 B9 DD 2B 0B A8 8D 13 first. -/
theorem test_shake : (shake256 []).head? = some 0x138DA80B2BDDB946 := by decide +kernel

/-- Page 0 is hashable, its own, frame 42; entry 0 of the frame map at frame 40; the digest is forced; one seal. -/
def sealing (isSealed : Bool) (seals : List Seal) (f : Session → Session) : State :=
  let s := inSession benchA (fun v => f { v with fmBase := 40 * 4096, fmSize := 1, seals := seals })
  let s := (s.writeNat (27 * 4096) 8 (2 ^ 63 + 2 ^ 60 + 2 ^ 59 + 2 ^ 11 + 2 ^ 10)).writeNat (40 * 4096) 16
    ((if isSealed then 2 ^ 77 else 0) + 2 ^ 76 + 42 * 2 ^ 36)
  let s := s.setFrame 42 3 0
  s.setDie 0 { s.die 0 with mfForce := true, mfDlo := 7 }
def sealOf (state : Nat) (wanted : Bool) : Seal :=
  ⟨0, 0, BitVec.ofNat 64 (2 ^ 63 + 2 ^ 60 + 2 ^ 59 + 2 ^ 11 + 2 ^ 10), state, 7, none, false, none, wanted⟩
theorem witness_SealAndManifestEventsTakeEffect_hash : (let s := sealing true [sealOf 1 false] id
    (s.session 0).seals[0]? == some (sealOf 1 false) && (match s.sealPage 0 (sealOf 1 false) with
      | some (l, m) => (match (s.consolidate 0 0 l m).bind (fun _ s => s.manifestRead 0 (m.pframe * 4096) 4096) with
        | .ok _ u => (u.session 0).seals == (s.session 0).seals && (u.die (u.session 0).home).mfForce
        | _ => false)
      | none => false)) = true := by decide +kernel
theorem witness_SealAndManifestEventsTakeEffect_lookup : (let s := sealing true [sealOf 2 false] id
    (s.session 0).seals[0]? == some (sealOf 2 false) && s.sessions.all (fun x => x.2.seals.all (fun y => y.state != 3)) &&
    (match s.readFrames 0 ((s.frameMap 0 0).pframe :: s.candidates (s.session 0).title 7) with
     | .ok _ u => (u.session 0).seals == (s.session 0).seals | _ => false)) = true := by decide +kernel
theorem witness_SealAndManifestEventsTakeEffect_commit : (let s := sealing true [sealOf 3 false] id
    (s.session 0).seals[0]? == some (sealOf 3 false) && (s.session 0).mReqs == [] && (let c := match s.sealPage 0 (sealOf 3 false) with
      | some (l, m) => s.commitSeal 0 (sealOf 3 false) l m
      | none => s.unseal 0 (sealOf 3 false)
     (c.session 0).seals == (s.session 0).seals && (c.session 0).mReqs == [])) = true := by decide +kernel
theorem witness_SealAndManifestEventsTakeEffect_abort : (let s := sealing true [sealOf 2 true] id
    (s.session 0).seals[0]? == some (sealOf 2 true) && (s.session 0).mReqs == []) = true := by decide +kernel
/-- The page was written since the last visit, or not. -/
theorem witness_SealAndManifestEventsTakeEffect_visit : ([3, 0] : List (BitVec 2)).all (fun g =>
    let s := { sealing false [] (fun v => { v with quiescence := true }) with grants := [(42, g)] }
    (s.session 0).quiescence && (s.session 0).state == .live && (match s.sealable 0 0 with
      | some (_, m) => tget s.grants m.pframe == g | none => false)) = true := by decide +kernel
theorem witness_SealAndManifestEventsTakeEffect_request : (let r : ManifestReq := ⟨9, true, 0, 1, false, 1, []⟩
    let x := (inSession benchA (fun v => { v with mReqs := [r] })).session 0
    x.mReqs == [r] && r.next == r.count && x.seals == [] && x.state == .live) = true := by decide +kernel
def slots (s : State) (d : Nat) (l : List (Nat × Nat)) : State :=
  s.setDie d { s.die d with slots := l.map (fun e => (e.1, { (default : KeySlot) with state := e.2 })) }
theorem witness_SealAndManifestEventsTakeEffect_revoked : (let s := slots State.reset 0 [(511, 2)]
    s.slotState 0 511 == 2 && s.worldFrames 0 511 == []) = true := by decide +kernel
theorem test_forced_digest : goes (exec (.sealHash 0 0) (sealing true [sealOf 1 false] id)) (fun t =>
    (t.session 0).seals.map (fun e => (e.state, e.digest)) == [(2, 7)]) = true := by decide +kernel

/-! ## Commands -/

/-- Die 0's management queue runs. -/
def running (s : State) : State := s.setQueue 256 { s.queue 256 with stopped := false }

/-- `Takes`, found by evaluation. -/
def takesB (q : Nat) (i : Instr) (s : State) (p : State → Bool) : Bool :=
  let u := s.setQueue q { s.queue q with sqHead := (s.queue q).sqHead + 1, busy := true, torn := 0 }
  s.queueOpen q && !u.denied q (s.queueDie q) i && (decide (q < 256) || (match namedSession i with
    | some v => (s.session v).state == .free || (s.session v).home == s.queueDie q
    | none => true)) && p u
theorem takes_of {q : Nat} {i : Instr} {s : State} {p : State → Bool} (h : takesB q i s p = true) : ∃ u, Takes q i s u ∧ p u = true := by
  simp only [takesB, Bool.and_eq_true, Bool.or_eq_true, Bool.not_eq_true', decide_eq_true_eq] at h
  obtain ⟨⟨⟨ho, hd⟩, hn⟩, hp⟩ := h
  refine ⟨_, ⟨ho, rfl, hd, ?_⟩, hp⟩
  rcases hn with hn | hn
  · exact .inl hn
  · refine .inr (fun v hv => ?_)
    rw [hv] at hn
    simpa using hn

/-- A die whose cores no session has gives a session up to 64 of them. -/
theorem grant_of (s : State) (d v n : Nat) (h : (s.die d).nextBank = []) (ha : (s.die d).activeBank = []) (hr : (s.die d).routers = [])
    (hn : 1 ≤ n) (hm : n ≤ 64) : (s.grant d v n).isSome = true := by
  have hc : ∀ i, (s.die d).cutOff i = false := fun i => by simp [Die.cutOff, Die.routerGone, hr, tget_nil]; decide
  have hf : (s.freeCores d).length = 64 := by
    unfold State.freeCores
    rw [List.filter_eq_self.mpr (by intro i _; simp [h, ha, hc i, tget_nil])]
    simp
  have h0 : ¬ n ≤ 0 := by omega
  simp only [State.grant, h, List.filter_nil, List.map_nil, List.length_nil, h0, if_false, Nat.sub_zero, List.length_take, hf,
    Nat.min_eq_left hm, Nat.lt_irrefl, Option.isSome_some]

/-- Session 5 in a state, at home on die 0, with the slots of sessions 5 and 6 LOADED there and 5's on die 3. -/
def managed (st : SessState) (f : Session → Session) : State :=
  slots (slots ((running State.reset).setSession 5 (f { State.reset.session 5 with state := st })) 0 [(0, 1), (70, 1), (71, 1)]) 3 [(0, 1), (70, 1)]
theorem managed_grants (st : SessState) (d : Nat) (hd : d = 0 ∨ d = 3) (u : State) (hu : u.die d = (managed st id).die d) :
    (u.grant d 5 64).isSome = true ∧ (u.grant d 6 64).isSome = true := by
  have h : (u.die d).nextBank = [] ∧ (u.die d).activeBank = [] ∧ (u.die d).routers = [] := by
    rw [hu]
    rcases hd with rfl | rfl <;> cases st <;> decide +kernel
  exact ⟨grant_of u d 5 64 h.1 h.2.1 h.2.2 (by decide) (by decide), grant_of u d 6 64 h.1 h.2.1 h.2.2 (by decide) (by decide)⟩

theorem witness_CommandsComplete_slip : ∃ u, Takes 256 (.sessSlip 256 5 6 0 64) (managed .depot id) u ∧
    (let s := managed .depot id
     (s.session 5).state == .depot && (s.session 6).state == .free && (s.session 6).slipping.isNone && s.commands == [] &&
       u.slotState 0 71 == 1 && u.die 0 == s.die 0) = true := takes_of (by decide +kernel)
theorem witness_CommandsComplete_move_here : ∃ u, Takes 256 (.sessMove 256 5 0 64) (managed .live id) u ∧
    (((managed .live id).session 5).state == .live && ((managed .live id).session 5).home == 0 && u.die 0 == (managed .live id).die 0) = true :=
  takes_of (by decide +kernel)
theorem witness_CommandsComplete_move_away : ∃ u, Takes 256 (.sessMove 256 5 3 64) (managed .live id) u ∧
    (let s := managed .live id
     (s.session 5).state == .live && (s.session 5).home == 0 && u.slotState 3 70 == 1 && u.streamsOf 5 == [] &&
       u.largeRuns 5 == [] && u.die 3 == s.die 3) = true := takes_of (by decide +kernel)
theorem witness_CommandsComplete_extend : ∃ u, Takes 256 (.sessMoveExtend 256 5 3 64) (managed .live id) u ∧
    (((managed .live id).session 5).state == .live && u.die 3 == (managed .live id).die 3) = true := takes_of (by decide +kernel)
theorem witness_CommandsComplete_end : ([.sessEnd 256 5, .sessEndKill 256 5] : List Instr).all (fun i =>
    ([.live, .build] : List SessState).all (fun st => takesB 256 i (managed st id) (fun _ => ((managed st id).session 5).state == st &&
      soundB (managed st id)))) = true := by decide +kernel
/-- The session's own ring holds no command, and one. -/
theorem witness_CommandsComplete_park : ([0, 1] : List (BitVec 32)).all (fun n =>
    let s := (managed .build id).setQueue 5 { (managed .build id).queue 5 with sqTail := n }
    takesB 256 (.sessEndPark 256 5) s (fun _ => (s.session 5).state == .build && ((s.queue 5).sqHead == (s.queue 5).sqTail) == (n == 0))) = true := by
  decide +kernel

theorem witness_CommandsComplete_keyLoad : ∃ u, Takes 256 (.keyLoad 256 320 3 0) ((running State.reset).setDie 0 { State.reset.die 0 with ide := [0] }) u ∧
    ((u.die 0).ide != [] && u.slotState 3 320 == 0) = true := takes_of (by decide +kernel)
theorem witness_CommandsComplete_keyDrop : ∃ u, Takes 256 (.keyDrop 256 70 3) (managed .live id) u ∧ (u.slotState 3 70 == 1) = true :=
  takes_of (by decide +kernel)
theorem witness_CommandsComplete_layouts : takesB 256 (.layoutPut 256 5 15 65535 0) (managed .build id) (fun u => (u.session 5).works) = true ∧
    takesB 256 (.layoutPutReset 256 5 15) (managed .live (fun v => { v with freight := [(15, { (default : FreightCtx) with halted := true })] }))
      (fun u => (u.session 5).works && (tget (u.session 5).freight 15).halted) = true := by decide +kernel
/-- Session 0 of the bench, with a header at byte 1024 of its page and a waybill of it at host address 64. -/
def submitting (depths : List Nat) (m : Bool) : State :=
  let s := paged 0 (inSession (running benchA) (fun v => { v with depths := depths, maintenance := m }))
  { s with hostMem := writeLE s.hostMem 64 32 waybill.toNat }
theorem witness_CommandsComplete_submit : ([(List.replicate 16 64, false), ([], false), ([], true)] : List (List Nat × Bool)).all (fun e =>
    let s := submitting e.1 e.2
    takesB 256 (.submit 256 0 64 0 false) s (fun u => (s.session 0).works &&
      (match (u.hostIssuer 0 0 false).plan (BitVec.ofNat 256 (leNat (readBytes u.hostMem 64 32))) 0 0 u with
       | .val _ w => w.queues == u.queues && (w.session 0).state == (s.session 0).state && (w.session 0).maintenance == (s.session 0).maintenance &&
           w.commands == u.commands && (w.session 0).launches == [] && ((w.sidingFree 0 0 == 0) == (e.1 == []))
       | _ => false))) = true := by decide +kernel
/-- 64 by 16 pixels; the header at byte 1024 of session 0's page. -/
def streamOps : StreamOps := ⟨0, 3, 64, 16, 16, 64, 1, false, 0, 0, 0, 4096, 9, 1024, 0⟩
def streaming (f : Session → Session) (n : Nat) : State :=
  let s := paged 0 (inSession (running benchA) f)
  s.setStream 0 3 { (default : Stream) with state := n, vact := 16 }
/-- The header for a stream of die 0, by evaluation. -/
def startsB (u : State) (p : State → Bool) : Bool :=
  match (u.hostIssuer 0 0 true).header (mkWaybill 1024 0 0 1 0) 2 0 u with
  | .val h w => bandHeader h.bits && (w.consistsOn (256 + 1)).isEmpty && w.allotmentFits 0 h.bits && w.queues == u.queues &&
      (w.session 0).state == (u.session 0).state && p w
  | _ => false
theorem witness_CommandsComplete_stream_start : takesB 256 (.streamSetStart 256 streamOps) (streaming id 0) (fun u =>
    streamOpsValid streamOps && (u.session 0).works && (u.stream 0 3).state == 0 && streamOps.header % 128 == 0 && startsB u (fun _ => true)) = true := by
  decide +kernel
theorem witness_CommandsComplete_stream_stop : takesB 256 (.streamSetStop 256 0 3) (streaming id 1) (fun u =>
    (u.session 0).home == 0 && (u.stream 0 3).state == 1 && (u.stream 0 3).sess == 0 && (u.stream 0 3).stopAt.isNone) = true := by
  decide +kernel
theorem witness_CommandsComplete_stream_restart : takesB 256 (.streamSetRestart 256 0 3 1024 0) (streaming id 2)
    (fun u => (u.session 0).home == 0 && (u.stream 0 3).state == 2 && (u.stream 0 3).sess == 0 &&
      startsB u (fun w => w.stream 0 3 == u.stream 0 3)) = true := by decide +kernel
/-- The data lie beyond the completion ring. -/
theorem witness_CommandsComplete_reads : ([.attest 256 (some 5) 0 (2 ^ 40), .capsRead 256 (2 ^ 40) 4096, .rasLog 256 (2 ^ 40) 4096 true,
    .rasLog 256 (2 ^ 40) 4096 false] : List Instr).all (fun i => takesB 256 i (managed .live id) (fun u => (u.session 5).state == .live &&
      decide (((managed .live id).queue 256).cqBase.toNat + 16 * 2 ^ ((managed .live id).queue 256).qk ≤ 2 ^ 40))) = true := by decide +kernel

/-- Die 0's management queue with one command word at host address 0. -/
def queued (w : Nat) (torn : Nat) : State :=
  let s := State.reset.setQueue 256 { State.reset.queue 256 with stopped := false, sqTail := 1, torn := torn, qk := 6, sqBase := 0, cqBase := 4096 }
  { s with hostMem := writeLE s.hostMem 0 64 w }
/-- KEY_DROP; no opcode; a reserved part; the wrong stamp, the first and the ninth time. -/
theorem witness_QueuesCarryCommands_fetch : ([(6, 0), (0xFF, 0), (6 + 2 ^ 480, 0), (6 + 2 ^ 16, 0), (6 + 2 ^ 16, 8)] : List (Nat × Nat)).all (fun e =>
    let s := queued e.1 e.2
    let x := s.queue 256
    let w := BitVec.ofNat 512 (leNat (readBytes s.hostMem (x.sqBase.toNat + 64 * (x.sqHead.toNat % 2 ^ x.qk)) 64))
    s.queueOpen 256 && x.sqHead != x.sqTail && x.torn == e.2 && ((w.extractLsb' 16 16 == (x.sqHead.setWidth 16 : BitVec 16)) == !(e.1 / 2 ^ 16 % 2 == 1)) &&
      w.extractLsb' 496 16 == (x.sqHead.setWidth 16 : BitVec 16) && ((w.extractLsb' 480 16 == 0) == (e.1 < 2 ^ 480)) &&
      ((readCommand 256 (w.extractLsb' 0 8).toNat (w.extractLsb' 8 8).toNat (w.extractLsb' 32 448)).isSome == (e.1 != 0xFF))) = true := by decide +kernel
theorem witness_QueuesCarryCommands_registers : ((managed .live id).session 5).state = .live ∧ (256 : Nat) ≤ 259 ∧ (259 : Nat) < 260 := by decide +kernel
/-- A command that die 0's management queue, or the queue of session 5, has sent to die 3. -/
def forwarding (q : Nat) (i : Instr) : State := State.reset.setDie 3 { State.reset.die 3 with forwarded := [⟨q, 0, i⟩] }
theorem witness_QueuesCarryCommands_forward : ([(256, .keyDrop 256 511 3, false), (5, .keyDrop 5 511 3, true)] : List (Nat × Instr × Bool)).all (fun e =>
    let s := forwarding e.1 e.2.1
    (s.die 3).forwarded.length == 1 && s.linkOpen (s.queueDie e.1) 3 &&
      ((s.setDie 3 { s.die 3 with forwarded := [] }).denied e.1 3 e.2.1 == e.2.2)) = true := by decide +kernel
theorem witness_QueuesCarryCommands_resume : ({ State.reset with commands := [⟨256, 0, .submit 256 0 64 0 false⟩] } : State).commands
    = [⟨256, 0, .submit 256 0 64 0 false⟩] := rfl
/-- The record of a command of no opcode is Invalid, 2. -/
theorem test_unknown_command : goes (exec (.commandFetch 256) (queued 0xFF 0)) (fun t => readBytes t.hostMem 4096 4 == [0, 0, 2, 0] &&
    (t.queue 256).cqTail == 1 && (t.queue 256).sqHead == 1) = true := by decide +kernel

/-! ## Links, errors and power -/

theorem witness_LinksAndHostTakeEffect_links : linkOk 3 0 = true ∧ (State.reset.link 3 0).down = false ∧ (State.reset.link 3 0).failures < 3 ∧
    (State.reset.link 3 0).counter.toNat + 1 < 2 ^ 48 := by decide +kernel
theorem witness_LinksAndHostTakeEffect_resync : ({ State.reset with links := [(3, { (default : Link) with failures := 3 })] } : State).mustResync 0 3 = true := by
  decide +kernel
theorem witness_LinksAndHostTakeEffect_host : State.reset.lineState (2 ^ 40 - 8) 8 = .good ∧ 2 ^ 40 - 8 + 8 ≤ 2 ^ 40 ∧
    State.reset.functionThere 0 = true ∧ State.reset.hostWaits (agentId (State.reset.functionDie 0) 9 (functionNumber 0)) (2 ^ 40 - 8) 8 = false ∧
    soundB State.reset = true ∧ State.reset.abortSeals (2 ^ 40 - 8) 8 = none := by decide +kernel
/-- Each block of die 0's BAR0 at its last register. -/
theorem witness_LinksAndHostTakeEffect_registers : ([0x100FF8, 0x101FF8, 0x20FFF8] : List Nat).all (fun off =>
    State.reset.functionThere 0 && off % 8 == 0 && decide (off + 8 ≤ barSize 0) && (match State.reset.barBlock 0 off with
      | some (_, _, o) => o % 8 == 0 | none => false)) = true := by decide +kernel
theorem witness_LinksAndHostTakeEffect_tdi : ((managed .live id).session 5).state = .live ∧ 5 ≠ 0 := by decide +kernel
theorem test_host_write : goes (exec (.hostAccess 0 0xFFFFFFFFFC 4 true 0x11223344) State.reset) (fun t => t.byte 0xFFFFFFFFFF == 0x11 &&
    t.byte 0xFFFFFFFFFC == 0x44) = true := by decide +kernel
/-- Store 1 and store 3; the address of the last line. -/
theorem witness_ErrorAndPowerEventsTakeEffect_clean : ([1, 3] : List Nat).all (fun k => let o : ErrorOps := ⟨k, 0, 2 ^ 40 - 128, false, 0, 0, none, none⟩
    decide (1 ≤ o.store) && decide (o.store ≤ 3) && decide (o.addr < 2 ^ 40) && !o.dirty &&
      (tget (tget State.reset.lines (injectedPlace 3 o.store o.unit)) (o.addr / 128)).isNone) = true := by decide +kernel
theorem witness_ErrorAndPowerEventsTakeEffect_point : (State.reset.die 3).pointOk 0 500 400 = true ∨ (State.reset.die 3).pointOk 0 500 400 = false := by decide +kernel
/-- THR and TRIP, and readings beyond them. -/
theorem witness_ErrorAndPowerEventsTakeEffect_sensors : (State.reset.die 3).thr.toInt < (32767 : BitVec 16).toInt ∧
    (32768 : BitVec 16).toInt < (State.reset.die 3).thr.toInt - 16 ∧ (State.reset.die 3).trip.toInt < (32767 : BitVec 16).toInt := by decide +kernel
theorem witness_ErrorAndPowerEventsTakeEffect_routers : ([1, 2] : List Nat).all (fun n =>
    (tget ((State.reset.setDie 3 { State.reset.die 3 with routers := [(63, { (default : Router) with state := n })] }).die 3).routers 63).state == n) = true := by
  decide +kernel
theorem test_power_average_lowers : goes (exec (.powerAverage 0 375001) State.reset) (fun t => (t.station 0).curPt + 1 == (State.reset.station 0).curPt) = true := by
  decide +kernel

/-! ## SESS_NEW -/

theorem grant_keeps {s a : State} {d v n : Nat} (h : s.grant d v n = some a) : a.ownership = s.ownership ∧ (a.die d).retire = (s.die d).retire := by
  have hp : ∀ x b, (Die.plan x b).retire = x.retire := fun x b => by unfold Die.plan; simp only; split <;> rfl
  have hs : ∀ b, ((s.setDie d ((s.die d).plan b)).die d).retire = (s.die d).retire := fun b => by
    simp only [State.die, State.setDie, tget_tset_same, hp]
  simp only [State.grant] at h
  split at h
  · cases h; exact ⟨rfl, hs _⟩
  · split at h
    · cases h
    · cases h; exact ⟨rfl, hs _⟩

/-- A session with all 64 cores of die 3. -/
def sessionOps : SessNewOps :=
  { title := 63, sess := 5, die := 3, cores := 64, sqBase := 4096, cqBase := 8192, qk := 6, depths := List.replicate 16 64,
    classes := List.replicate 16 3, weight := 255, fmSize := 256, frSize := 1, windows := [], depot := true, quiescence := true,
    maintenance := false }

/-- A die of which no frame is in use gives the frames of a new session. -/
theorem frames_of (a : State) (l1 : a.ownership.length = 0) (l2 : (a.die 3).retire.length = 0) : ∃ root b fm c fr w,
    a.allocRun 3 8 3 5 = some (root, b) ∧ b.allocRun 3 (mapFrames 256) 4 5 = some (fm, c) ∧
      c.allocRun 3 (ringFrames 1) 3 5 = some (fr, w) ∧ (w.allocSidings 3 5 (List.replicate 16 64)).isSome = true := by
  obtain ⟨root, b, hb, b1, b2⟩ := allocRun_of a 3 8 3 5 ⟨2 ^ 23, by decide⟩ (by decide) (by rw [l1, l2]; decide)
  have m1 : mapFrames 256 = 1 := by decide
  have m2 : ringFrames 1 = 1 := by decide
  have b3 := congrArg List.length (b2 3)
  obtain ⟨fm, c, hc, c1, c2⟩ := allocRun_of b 3 (mapFrames 256) 4 5 ⟨2 ^ 26, by decide⟩ (by decide) (by
    have : 2 ^ 26 / mapFrames 256 = 2 ^ 26 := by decide
    omega)
  have c3 := congrArg List.length (c2 3)
  obtain ⟨fr, w, hw, w1, w2⟩ := allocRun_of c 3 (ringFrames 1) 3 5 ⟨2 ^ 26, by decide⟩ (by decide) (by
    have : 2 ^ 26 / ringFrames 1 = 2 ^ 26 := by decide
    omega)
  have w3 := congrArg List.length (w2 3)
  refine ⟨root, b, fm, c, fr, w, hb, hc, hw, ?_⟩
  have : ((List.replicate 16 64).map (fun n => framesFor (32 * n))).sum = 16 := by decide
  simp only [State.allocSidings, this, Option.isSome_map]
  exact allocFrames_of 3 3 5 16 w (by omega)

theorem witness_CommandsComplete_new : ∃ u, Takes 256 (.sessNew 256 sessionOps) (managed .free id) u ∧ sessNewValid sessionOps = true ∧
    ((managed .free id).session 5).state = .free ∧ ((managed .free id).session 5).slipping = none ∧ u.slotState 3 70 = 1 ∧
    ∃ a root b fm c fr w, u.grant 3 5 64 = some a ∧ a.allocRun 3 8 3 5 = some (root, b) ∧ b.allocRun 3 (mapFrames 256) 4 5 = some (fm, c) ∧
      c.allocRun 3 (ringFrames 1) 3 5 = some (fr, w) ∧ (w.allocSidings 3 5 (List.replicate 16 64)).isSome = true := by
  obtain ⟨u, hu, hp⟩ := takes_of (q := 256) (i := .sessNew 256 sessionOps) (s := managed .free id)
    (p := fun u => u.ownership.isEmpty && decide (u.die 3 = (managed .free id).die 3) && decide (u.slotState 3 70 = 1) && (u.die 3).retire.isEmpty)
    (by decide +kernel)
  simp only [Bool.and_eq_true, decide_eq_true_eq, List.isEmpty_iff] at hp
  obtain ⟨⟨⟨ho, hd⟩, hs⟩, hr⟩ := hp
  refine ⟨u, hu, by decide +kernel, by decide +kernel, by decide +kernel, hs, ?_⟩
  have hg := (managed_grants .free 3 (.inr rfl) u hd).1
  obtain ⟨a, ha⟩ := Option.isSome_iff_exists.mp hg
  obtain ⟨k1, k2⟩ := grant_keeps ha
  obtain ⟨root, b, fm, c, fr, w, h⟩ := frames_of a (by rw [k1, ho]; rfl) (by rw [k2, hr]; rfl)
  exact ⟨a, root, b, fm, c, fr, w, ha, h⟩
/-- The next bank gives the session a core, which the bank in use gives it too, or not: a flip is due or it is not. -/
def banked (flip : Bool) : State :=
  let s := managed .free id
  s.setDie 3 { s.die 3 with bank1 := [(0, 6)], bank0 := if flip then [] else [(0, 6)] }
theorem witness_CommandsComplete_new_flips (flip : Bool) : ∃ u, Takes 256 (.sessNew 256 { sessionOps with cores := 1 }) (banked flip) u ∧
    sessNewValid { sessionOps with cores := 1 } = true ∧ u.slotState 3 70 = 1 ∧
    ∃ a root b fm c fr w, u.grant 3 5 1 = some a ∧ (a.die 3).flip = flip ∧ a.allocRun 3 8 3 5 = some (root, b) ∧
      b.allocRun 3 (mapFrames 256) 4 5 = some (fm, c) ∧
      c.allocRun 3 (ringFrames 1) 3 5 = some (fr, w) ∧ (w.allocSidings 3 5 (List.replicate 16 64)).isSome = true := by
  obtain ⟨u, hu, hp⟩ := takes_of (q := 256) (i := .sessNew 256 { sessionOps with cores := 1 }) (s := banked flip)
    (p := fun u => decide (u.slotState 3 70 = 1) && (match u.grant 3 5 1 with
      | some a => (a.die 3).flip == flip && a.ownership.length == 0 && (a.die 3).retire.length == 0 | none => false))
    (by cases flip <;> decide +kernel)
  simp only [Bool.and_eq_true, decide_eq_true_eq] at hp
  obtain ⟨hs, hp⟩ := hp
  refine ⟨u, hu, by decide +kernel, hs, ?_⟩
  split at hp
  · rename_i a ha
    simp only [Bool.and_eq_true, beq_iff_eq] at hp
    obtain ⟨root, b, fm, c, fr, w, h⟩ := frames_of a hp.1.2 hp.2
    exact ⟨a, root, b, fm, c, fr, w, ha, hp.1.1, h⟩
  · cases hp

/-! ## Events of sessions -/

/-- Session 5 with a command in progress. -/
def inProgress (st : SessState) (what : Instr) (f : Session → Session) : State :=
  { managed st f with commands := [⟨256, 0, what⟩] }
theorem witness_SessionEventsTakeEffect_slip_refused : (let s := (managed .live id).setSession 6 { (managed .live id).session 6 with
      slipping := some (0, 1), slipOf := some 5 }
    (s.session 6).slipping == some (0, 1) && (s.session 6).slipOf == some 5 && (s.session 5).state != .depot) = true := by decide +kernel
/-- Session 6 becomes a slip of the depot 5, with a core of die 0. -/
def slips : State := (managed .depot id).setSession 6 { (managed .depot id).session 6 with slipping := some (0, 1), slipOf := some 5 }
theorem witness_SessionEventsTakeEffect_slip : (slips.session 6).slipping = some (0, 1) ∧ (slips.session 6).slipOf = some 5 ∧
    (slips.session 5).state = .depot ∧ slips.slotState 0 71 = 1 ∧
    ∃ w u, slips.readFrames 5 (slips.tableRun 5) = .ok () w ∧ w.slip 5 6 0 1 = some u := by
  refine ⟨by decide +kernel, by decide +kernel, by decide +kernel, by decide +kernel, ?_⟩
  have hr : slips.tableRun 5 = List.range 8 ++ [0] := by
    simp only [State.tableRun, (tables_nothing slips rfl rfl 5).1]; decide +kernel
  rw [hr]
  have h : (match slips.readFrames 5 (List.range 8 ++ [0]) with
      | .ok _ w => decide ((w.die 0).nextBank = []) && decide ((w.die 0).activeBank = []) && decide ((w.die 0).routers = []) &&
          decide (w.ownership = []) && decide ((w.die 0).retire = []) && decide (w.mem = []) && decide (w.hostMem = []) &&
          decide ((w.session 5).root = 0) && decide ((w.session 5).fmSize = 0) &&
          decide ((w.session 5).frSize = 0) && decide ((w.session 5).depths = [])
      | _ => false) = true := by decide +kernel
  split at h
  · rename_i w hw
    simp only [Bool.and_eq_true, decide_eq_true_eq] at h
    obtain ⟨⟨⟨⟨⟨⟨⟨⟨⟨⟨g1, g2⟩, g3⟩, o⟩, r⟩, m⟩, hm⟩, rt⟩, fm⟩, fr⟩, dp⟩ := h
    have ts : w.tables 5 = [(4, 0)] := by rw [(tables_nothing w m hm 5).1, rt]
    obtain ⟨a, ha⟩ := Option.isSome_iff_exists.mp (grant_of w 0 6 1 g1 g2 g3 (by decide) (by decide))
    obtain ⟨k1, k2⟩ := grant_keeps ha
    obtain ⟨u, hu⟩ := Option.isSome_iff_exists.mp (slip_of w a 5 6 0 1 0 ha ts (by rw [fm]; decide) (by rw [fr]; decide) dp
      (by rw [k1, k2, o, r]; decide))
    exact ⟨w, u, hw, hu⟩
  · cases h
/-- Session 5's tables move to die 3. -/
def movingTables : State := managed .moving (fun v => { v with moveFrom := some 0, moveTo := 3 })
theorem witness_SessionEventsTakeEffect_tables : (let x := movingTables.session 5
     x.state == .moving && x.moveFrom == some 0 && movingTables.linkOpen 0 3 && !x.tablesMoved && x.seals == [] && x.breaks == [] &&
       x.freight.all (fun e => e.2.queue == [])) = true ∧
    ∃ w u root fm fr, movingTables.readFrames 5 (movingTables.tableRun 5) = .ok () w ∧ w.cloneSession true 5 5 3 = some (u, root, fm, fr) := by
  refine ⟨by decide +kernel, ?_⟩
  have hr : movingTables.tableRun 5 = List.range 8 ++ [0] := by
    simp only [State.tableRun, (tables_nothing movingTables rfl rfl 5).1]; decide +kernel
  rw [hr]
  have h : (match movingTables.readFrames 5 (List.range 8 ++ [0]) with
      | .ok _ w => decide (w.ownership = []) && decide ((w.die 3).retire = []) && decide (w.mem = []) && decide (w.hostMem = []) &&
          decide ((w.session 5).root = 0) && decide ((w.session 5).fmSize = 0) && decide ((w.session 5).frSize = 0)
      | _ => false) = true := by decide +kernel
  split at h
  · rename_i w hw
    simp only [Bool.and_eq_true, decide_eq_true_eq] at h
    obtain ⟨⟨⟨⟨⟨⟨o, r⟩, m⟩, hm⟩, rt⟩, fm⟩, fr⟩ := h
    have ts : w.tables 5 = [(4, 0)] := by rw [(tables_nothing w m hm 5).1, rt]
    obtain ⟨c, hc⟩ := Option.isSome_iff_exists.mp (cloneSession_of w true 5 5 3 0 ts (by rw [fm]; decide) (by rw [fr]; decide) (by rw [o, r]; decide))
    exact ⟨w, c.1, c.2.1, c.2.2.1, c.2.2.2, hw, hc⟩
  · cases h
theorem witness_SessionEventsTakeEffect_park : (let s := inProgress .build (.sessEndPark 256 5) id
    (s.session 5).state == .build && s.quiet 5 && s.commands.any (fun w => w.what == .sessEndPark 256 5)) = true ∧
    ∃ u, (inProgress .build (.sessEndPark 256 5) id).convert 5 = .ok () u ∧
      u.commands = (inProgress .build (.sessEndPark 256 5) id).commands :=
  ⟨by decide +kernel, convert_nothing _ rfl rfl 5⟩
/-- Session 5 moves from die 0 to die 3, its tables moved; frame 2^26 - 1 of die 0 is its own. -/
def drifting (transit : List Nat) (runs : List (Nat × Nat × Nat)) : State := (managed .moving (fun v => { v with
  tablesMoved := true, moveFrom := some 0, moveTo := 3, home := 3, transit := transit, runs := runs, root := 2 ^ 36 })).setFrame (2 ^ 26 - 1) 3 5
theorem witness_SessionEventsTakeEffect_drift : ([([], []), ([2 ^ 26 - 1], []), ([2 ^ 26 - 1], [(2 ^ 26 - 1, 3 * 2 ^ 26, 1)])] :
    List (List Nat × List (Nat × Nat × Nat))).all (fun e =>
    let s := drifting e.1 e.2
    let x := s.session 5
    x.state == .moving && x.tablesMoved && x.moveFrom == some (frameDie (2 ^ 26 - 1)) && s.frameKind (2 ^ 26 - 1) == 3 &&
      s.frameOwner (2 ^ 26 - 1) == 5 && (x.transit == e.1) && s.linkOpen 0 3 &&
      (match s.readFrames 5 ((List.range (x.runOf (2 ^ 26 - 1)).2.2).map (fun j => (x.runOf (2 ^ 26 - 1)).1 + j)) with
       | .ok _ w => w.ownership.length == 1 && (w.die 3).retire == [] && w.mem == [] && w.hostMem == []
       | _ => false) &&
      ((x.runOf (2 ^ 26 - 1)).2.1.isSome == !(e.2 == []))) = true := by decide +kernel
/-- With nothing in memory a drift has no page to compare with. -/
theorem witness_SessionEventsTakeEffect_drift_no_merge (w : State) (hm : w.mem = []) (hh : w.hostMem = []) :
    w.readFrames 5 (w.driftMates 5 (2 ^ 26 - 1)) = .ok () w ∧ w.driftMerge 5 (2 ^ 26 - 1) = none := by
  obtain ⟨h1, h2⟩ := drift_nothing w hm hh 5 (2 ^ 26 - 1)
  exact ⟨by rw [h1]; rfl, h2⟩
theorem witness_SessionEventsTakeEffect_drift_room (s : State) (ho : s.ownership.length = 1) (hr : (s.die 3).retire = []) : ∃ g, s.pickRun 3 1 = some g :=
  pickRun_of s 3 1 (by decide) ⟨2 ^ 26, by decide⟩ (by rw [ho, hr]; decide)
/-- Die 0 holds nothing of it any more, and its slot there is LOADED, or EMPTY. -/
theorem witness_SessionEventsTakeEffect_transfer : ([1, 0] : List Nat).all (fun n =>
    let s := slots (managed .moving (fun v => { v with tablesMoved := true, moveFrom := some 0, moveTo := 3, home := 3 })) 0 [(0, 1), (70, n)]
    let x := s.session 5
    x.state == .moving && x.tablesMoved && s.streamsOf 5 == [] && x.mReqs == [] && s.convoys == [] && s.framesOf 0 3 5 == [] && s.framesOf 0 4 5 == [] &&
      s.slotState 0 70 == n && (s.die 0).activeBank == []) = true := by decide +kernel
theorem witness_SessionEventsTakeEffect_depot_end : (let s := inProgress .depot (.sessEnd 256 5) id
    (s.session 5).state == .depot && soundB s && !s.slipping 5 && s.commands.any (fun w => isEnding w.what && commandSession w.what == some 5)) = true := by decide +kernel
theorem witness_SessionEventsTakeEffect_ends : ([1, 2] : List Nat).all (fun n =>
    let s := slots (slots (managed .ending (fun v => { v with ending := n })) 0 [(70, if n = 1 then 1 else 0)]) 3 [(70, if n = 1 then 1 else 0)]
    let x := s.session 5
    x.state == .ending && x.ending == n && s.quiet 5 && s.dies.all (fun e => e.2.streams == []) &&
      (n == 1 || (List.range 4).all (fun d => s.slotState d 70 == 0))) = true := by decide +kernel

end Sys2Proof.Tests
end

/-!
Trap delivery (R104 to R106, R108): what the results in flight write when they land, what dropping the hints of a stream
leaves, and the two things a delivered trap can do.
-/

namespace Sys2Proof.Machine

open Sys2Proof

/-! ## Results in flight land (R32, R138) -/

/-- Of a consist only latches, registers, queues and the list of results in flight have changed. -/
def Consist.SameButResults (c c' : Consist) : Prop :=
  c' = { c with a := { c.a with latch := c'.a.latch, latchValid := c'.a.latchValid },
                c := { c.c with latch := c'.c.latch, latchValid := c'.c.latchValid },
                vregs := c'.vregs, aregs := c'.aregs, sregs := c'.sregs,
                lq := c'.lq, xqAC := c'.xqAC, xqCA := c'.xqCA, sq := c'.sq, inflight := c'.inflight }

theorem Consist.SameButResults.refl (c : Consist) : c.SameButResults c := rfl

theorem Consist.SameButResults.trans {a b c : Consist} (h : a.SameButResults b) (k : b.SameButResults c) :
    a.SameButResults c := by
  unfold Consist.SameButResults at *; rw [h] at k; exact k

theorem Consist.SameButResults.putLatch {c c' : Consist} (h : c.SameButResults c') (st : Strm) (n : Nat)
    (ls : List Nat) (g : Nat → DWord) : c.SameButResults (c'.setStrm st ((c'.strm st).putLatch n ls g)) := by
  refine h.trans ?_
  cases st <;> rfl

theorem Consist.SameButResults.putReg {c c' : Consist} (h : c.SameButResults c') (st : Strm) (d : BitVec 7) (wide : Bool)
    (ls : List Nat) (g : Nat → DWord) : c.SameButResults (c'.putReg st d wide ls g) := by
  refine h.trans ?_
  have hreg := putReg_spec c' st d wide ls g
  unfold Consist.SameButResults
  generalize c'.putReg st d wide ls g = w at hreg ⊢
  rw [hreg]

theorem Consist.SameButResults.setQueue {c c' : Consist} (h : c.SameButResults c') (q : Queue) (l : Nat)
    (e : List QEntry) : c.SameButResults (c'.setQueue q l e) := by
  refine h.trans ?_
  cases q <;> rfl

theorem Consist.sameButResults_land (c : Consist) (f : Inflight) : c.SameButResults (c.land f) := by
  unfold Consist.land
  cases f.dest with
  | reg code wide regWrite =>
    have hlatch := (Consist.SameButResults.refl c).putLatch f.strm (latchOf code) [f.lane] (fun _ => pairOf f.vals)
    dsimp only
    split
    · split
      · exact hlatch.putReg ..
      · split
        · exact (hlatch.putReg ..).putReg ..
        · exact hlatch.putReg ..
    · exact hlatch
  | queue code latch id =>
    have hlatch : c.SameButResults (if latch then
        c.setStrm f.strm ((c.strm f.strm).putLatch (latchOf code) [f.lane] (fun _ => pairOf f.vals)) else c) := by
      split
      · exact (Consist.SameButResults.refl c).putLatch ..
      · exact .refl c
    dsimp only
    cases writeQueue f.strm (codeOf f.strm code) with
    | some q => exact hlatch.setQueue ..
    | none => exact hlatch
  | none => exact .refl c

theorem Consist.sameButResults_foldl_land (fs : List Inflight) (c : Consist) :
    c.SameButResults (fs.foldl Consist.land c) := by
  induction fs generalizing c with
  | nil => exact .refl c
  | cons f fs ih => exact (c.sameButResults_land f).trans (ih (c.land f))

theorem Consist.sameButResults_settle (c : Consist) : c.SameButResults c.settle := by
  have h := c.sameButResults_foldl_land (c.inflight.filter (fun f => f.kind == .load || f.kind == .variable))
  exact h.trans rfl

@[simp] theorem Consist.settle_saved (c : Consist) : c.settle.saved = c.saved := by
  rw [c.sameButResults_settle]
@[simp] theorem Consist.settle_handler (c : Consist) : c.settle.handler = c.handler := by
  rw [c.sameButResults_settle]
@[simp] theorem Consist.settle_status (c : Consist) : c.settle.status = c.status := by
  rw [c.sameButResults_settle]
@[simp] theorem Consist.settle_cid (c : Consist) : c.settle.cid = c.cid := by
  rw [c.sameButResults_settle]

/-- Landing results writes a stream's latches and leaves the rest of it. -/
theorem Consist.settle_strm (c : Consist) (st : Strm) :
    c.settle.strm st =
      { c.strm st with latch := (c.settle.strm st).latch, latchValid := (c.settle.strm st).latchValid } := by
  cases st
  case a => exact congrArg Consist.a c.sameButResults_settle
  case c => exact congrArg Consist.c c.sameButResults_settle

@[simp] theorem Consist.settle_preds (c : Consist) (st : Strm) :
    (c.settle.strm st).preds = (c.strm st).preds := by
  rw [c.settle_strm]
@[simp] theorem Consist.settle_guardLeft (c : Consist) (st : Strm) :
    (c.settle.strm st).guardLeft = (c.strm st).guardLeft := by
  rw [c.settle_strm]
@[simp] theorem Consist.settle_guardPass (c : Consist) (st : Strm) :
    (c.settle.strm st).guardPass = (c.strm st).guardPass := by
  rw [c.settle_strm]
@[simp] theorem Consist.settle_hold (c : Consist) (st : Strm) :
    (c.settle.strm st).hold = (c.strm st).hold := by
  rw [c.settle_strm]

/-- No load and no division is in flight once results have landed. -/
theorem Consist.settle_no_loads (c : Consist) :
    c.settle.inflight.filter (fun f => f.kind == .load || f.kind == .variable) = [] := by
  rw [List.filter_eq_nil_iff]
  intro f hf
  have hkind := (List.mem_filter.mp hf).2
  simpa using hkind

/-! ## Hints are dropped (R40, R104) -/

theorem tfind_eq_none_of_lt {V : Type} (k : Nat) (t : Table V) (h : ∀ e ∈ t, k < e.1) : tfind k t = none := by
  induction t with
  | nil => rfl
  | cons e t ih =>
    have hne : e.1 ≠ k := (h e (List.mem_cons_self ..)).ne'
    rw [tfind, if_neg hne]
    exact ih fun e' he' => h e' (List.mem_cons_of_mem _ he')

/-- Setting every lane of a table of hints back to the first of its hints. -/
theorem tget_foldl_first (hs : Table Hints) (hsorted : Table.sorted hs = true) (t : Table (BitVec 32)) (l : Nat) :
    tget (hs.foldl (fun t h => tset t h.1 h.2.first) t) l = ((tfind l hs).map (fun y => y.first)).getD (tget t l) := by
  induction hs generalizing t with
  | nil => rfl
  | cons e hs ih =>
    obtain ⟨k, y⟩ := e
    obtain ⟨habove, htail⟩ := (sorted_cons k y hs).mp hsorted
    rw [List.foldl_cons, ih htail, tfind, tget_tset]
    by_cases hkl : k = l
    · subst hkl
      simp [tfind_eq_none_of_lt k hs habove]
    · simp [hkl, Ne.symm hkl]

theorem StreamSt.dropHints_pc (x : StreamSt) (h : Table.sorted x.hints = true) (l : Nat) :
    tget x.dropHints.pc l = ((tfind l x.hints).map (fun y => y.first)).getD (tget x.pc l) :=
  tget_foldl_first x.hints h x.pc l

/-- A stream whose results have landed and whose hints are dropped: each lane is back at the first of its hints. -/
theorem Consist.settle_dropHints_pc (c : Consist) (st : Strm) (h : Table.sorted (c.strm st).hints = true) (l : Nat) :
    tget (c.settle.strm st).dropHints.pc l =
      ((tfind l (c.strm st).hints).map (fun y => y.first)).getD (tget (c.strm st).pc l) := by
  rw [c.settle_strm]
  exact StreamSt.dropHints_pc _ h l

/-! ## The handler starts (R105) -/

theorem handlerStream_pc (x : StreamSt) (entry : BitVec 32) (lanes : Lanes) (l : Nat) (hl : l < 32) :
    tget (handlerStream x entry lanes).pc l = entry := by
  have h : tget (setLanes [] (List.range 32) (fun _ => entry)) l = entry := by
    rw [tget_setLanes, if_pos (List.mem_range.mpr hl)]
  exact h

/-- A CID with the supervisor's level in its bits 17:16. -/
def supervisorCid (cid : BitVec 32) : BitVec 32 := (cid &&& ~~~(0x30000#32)) ||| 0x10000#32

theorem supervisorCid_level (cid : BitVec 32) : (supervisorCid cid).extractLsb' 16 2 = 1 := by
  simp [supervisorCid, BitVec.extractLsb'_or, BitVec.extractLsb'_and]

theorem supervisorCid_getLsbD (cid : BitVec 32) (b : Nat) (hb : b < 16 ∨ 18 ≤ b) :
    (supervisorCid cid).getLsbD b = cid.getLsbD b := by
  have masks : ∀ i : Fin 32, (i.val < 16 ∨ 18 ≤ i.val) →
      (0x30000#32).getLsbD i = false ∧ (0x10000#32).getLsbD i = false := by decide
  by_cases h32 : b < 32
  · obtain ⟨hmask, hbit⟩ := masks ⟨b, h32⟩ hb
    simp only at hmask hbit
    simp only [supervisorCid, BitVec.getLsbD_or, BitVec.getLsbD_and, BitVec.getLsbD_not, hmask, hbit, h32]
    simp
  · rw [BitVec.getLsbD_of_ge _ _ (Nat.le_of_not_lt h32), BitVec.getLsbD_of_ge _ _ (Nat.le_of_not_lt h32)]

section Deliver

variable (c : Consist) (cause : Cause) (v : DWord) (isAsync : Bool) (st : Strm) (lanes : Lanes) (pc stood : BitVec 32)

/-- R105: what a trap makes of a consist whose launch names a handler and which runs none. -/
theorem Consist.deliver_handler (h : BitVec 32) (hsaved : c.saved = none) (hhandler : c.handler = some h) :
    c.deliver cause v isAsync st lanes pc stood =
      { c.settle with
        trapc := trapcOf cause isAsync st lanes, trapv := v, trappc := pc,
        cancelled := c.settle.cancelled || cause == Cause.cancel,
        saved := some { a := c.settle.a.dropHints, c := c.settle.c.dropHints, level := c.settle.cid.extractLsb' 16 2,
                        pc := stood },
        a := handlerStream c.settle.a.dropHints h lanes, c := c.settle.c.dropHints,
        cid := supervisorCid c.settle.cid } := by
  simp only [Consist.deliver, Consist.settle_saved, Consist.settle_handler, hsaved, hhandler, supervisorCid]

/-- R105, R106: a trap with no handler to start, or inside one, ends the consist with its record. -/
theorem Consist.deliver_terminates (h : c.handler = none ∨ c.saved ≠ none) :
    (c.deliver cause v isAsync st lanes pc stood).status =
      .terminated { trapc := trapcOf cause isAsync st lanes, trapv := v, trappc := pc } := by
  unfold Consist.deliver
  dsimp only
  split
  next hd hsaved hhandler =>
    rw [Consist.settle_saved] at hsaved
    rw [Consist.settle_handler] at hhandler
    simp [hsaved, hhandler] at h
  · rfl

end Deliver

theorem trapStartsHandler : TrapStartsHandler := by
  intro c cause v isAsync st lanes pc stood h hsaved hhandler hsortedA hsortedC
  rw [c.deliver_handler cause v isAsync st lanes pc stood h hsaved hhandler]
  refine ⟨-- the record, the level and what the consist is doing
    rfl, rfl, rfl, ?level, c.settle_status, ?cid,
    -- the handler's stream
    rfl, rfl, rfl, handlerStream_pc _ h lanes, c.settle_preds .a, rfl,
    c.settle_no_loads,
    -- the streams set aside
    _, rfl, ?savedLevel, rfl, rfl, rfl, rfl, rfl,
    c.settle_guardLeft .a, c.settle_guardLeft .c, c.settle_guardPass .a, c.settle_guardPass .c,
    c.settle_hold .a, c.settle_hold .c,
    c.settle_dropHints_pc .a hsortedA, c.settle_dropHints_pc .c hsortedC⟩
  case level => exact congrArg BitVec.toNat (supervisorCid_level c.settle.cid)
  case cid =>
    intro b hb
    rw [supervisorCid_getLsbD _ b hb, c.settle_cid]
  case savedLevel => exact congrArg (BitVec.extractLsb' 16 2) c.settle_cid

theorem trapTerminates : TrapTerminates := by
  intro c cause v isAsync st lanes pc stood h
  exact c.deliver_terminates cause v isAsync st lanes pc stood h

/-- Settles O9: a trap either starts the handler or ends the consist, by which of the two `Consist.deliver` chooses. -/
theorem trapsStartHandlersOrTerminate : Obligations.TrapsStartHandlersOrTerminate :=
  ⟨trapStartsHandler, trapTerminates⟩

end Sys2Proof.Machine

/-!
What the steps on frames, on keys and on the commands in progress leave alone: the sessions, the queues, the commands in
progress, the consists, and of each die its key slots, its streams and whether a flip of its partition map is due.
-/

namespace Sys2Proof.Machine

open Sys2Proof

/-- The sessions, queues, commands in progress and consists of two states are the same, and so are the key slots, the
streams and the pending flip of each die. -/
structure State.SameBooks (s t : State) : Prop where
  sessions : t.sessions = s.sessions
  queues : t.queues = s.queues
  commands : t.commands = s.commands
  consists : t.consists = s.consists
  slots : ∀ d, (t.die d).slots = (s.die d).slots
  streams : ∀ d, (t.die d).streams = (s.die d).streams
  flip : ∀ d, (t.die d).flip = (s.die d).flip

namespace State.SameBooks

variable {s t u : State}

theorem refl (s : State) : s.SameBooks s := ⟨rfl, rfl, rfl, rfl, fun _ => rfl, fun _ => rfl, fun _ => rfl⟩

theorem trans (h : s.SameBooks t) (k : t.SameBooks u) : s.SameBooks u where
  sessions := k.sessions.trans h.sessions
  queues := k.queues.trans h.queues
  commands := k.commands.trans h.commands
  consists := k.consists.trans h.consists
  slots := fun d => (k.slots d).trans (h.slots d)
  streams := fun d => (k.streams d).trans (h.streams d)
  flip := fun d => (k.flip d).trans (h.flip d)

theorem of_eq (hs : t.sessions = s.sessions) (hq : t.queues = s.queues) (hc : t.commands = s.commands)
    (hk : t.consists = s.consists) (hd : t.dies = s.dies) : s.SameBooks t := by
  have e : ∀ d, t.die d = s.die d := fun d => by simp only [State.die, hd]
  exact ⟨hs, hq, hc, hk, fun d => by rw [e], fun d => by rw [e], fun d => by rw [e]⟩

theorem foldl {α : Type} {f : State → α → State} (h : ∀ (s : State) (a : α), s.SameBooks (f s a)) (l : List α) (s : State) :
    s.SameBooks (List.foldl f s l) := by
  induction l generalizing s with
  | nil => exact refl s
  | cons a l ih => exact (h s a).trans (ih (f s a))

/-- What comes before a step may change the rest of the state. -/
theorem after (k : t.SameBooks u) (hs : t.sessions = s.sessions) (hq : t.queues = s.queues)
    (hc : t.commands = s.commands) (hk : t.consists = s.consists) (hd : t.dies = s.dies) : s.SameBooks u :=
  (of_eq hs hq hc hk hd).trans k

theorem session (h : s.SameBooks t) (v : Nat) : t.session v = s.session v := by simp only [State.session, h.sessions]
theorem queue (h : s.SameBooks t) (q : Nat) : t.queue q = s.queue q := by simp only [State.queue, h.queues]
theorem stream (h : s.SameBooks t) (d n : Nat) : t.stream d n = s.stream d n := by simp only [State.stream, h.streams]
theorem slotState (h : s.SameBooks t) (d k : Nat) : t.slotState d k = s.slotState d k := by
  simp only [State.slotState, h.slots]

end State.SameBooks

/-! ## Frames and the bytes of memory (R347, R393) -/

theorem sameBooks_setDie (s : State) (d : Nat) (x : Die) (hs : x.slots = (s.die d).slots)
    (ht : x.streams = (s.die d).streams) (hf : x.flip = (s.die d).flip) : s.SameBooks (s.setDie d x) := by
  have e : ∀ j, (s.setDie d x).die j = if j = d then x else s.die j := fun j => s.die_setDie d j x
  refine ⟨rfl, rfl, rfl, rfl, fun j => ?_, fun j => ?_, fun j => ?_⟩
  all_goals
    rw [e]
    split
    next hj => rw [hj]; assumption
    next => rfl

theorem sameBooks_logRecord (s : State) (d : Nat) (r : BitVec 192) : s.SameBooks (s.logRecord d r) :=
  sameBooks_setDie _ _ _ rfl rfl rfl

theorem sameBooks_fire (s : State) (d : Nat) (clean : Bool) : s.SameBooks (s.fire d clean) := by
  unfold State.fire
  refine (sameBooks_setDie s d { s.die d with injCtl := (s.die d).injCtl &&& ~~~(1#16) } rfl rfl rfl).trans ?_
  exact .after (sameBooks_logRecord _ _ _) rfl rfl rfl rfl rfl

theorem sameBooks_injectAt (s : State) (a n : Nat) (who : Option Nat) : s.SameBooks (s.injectAt a n who) := by
  unfold State.injectAt
  refine .after (.foldl (fun s d => ?_) _ _) rfl rfl rfl rfl rfl
  split
  · exact sameBooks_fire s d false
  · exact .refl s

theorem sameBooks_setBytes (bs : List Byte) (s : State) (a : Nat) : s.SameBooks (s.setBytes a bs) := by
  induction bs generalizing s a with
  | nil => exact .refl s
  | cons b bs ih =>
    refine State.SameBooks.trans ?_ (ih _ _)
    unfold State.setByte
    split <;> exact .of_eq rfl rfl rfl rfl rfl

theorem sameBooks_dropCopies (s : State) (a n : Nat) (who : Option Nat) : s.SameBooks (s.dropCopies a n who) :=
  .of_eq rfl rfl rfl rfl rfl

theorem sameBooks_write (s : State) (a : Nat) (bs : List Byte) (who : Option Nat) : s.SameBooks (s.write a bs who) := by
  unfold State.write
  split
  · exact .refl s
  · have hg : (s.setBytes a bs).SameBooks ((s.setBytes a bs).grantAt a bs.length) := by
      unfold State.grantAt
      dsimp only
      split <;> exact .of_eq rfl rfl rfl rfl rfl
    exact (((sameBooks_setBytes bs s a).trans hg).trans (sameBooks_dropCopies _ _ _ _)).trans (sameBooks_injectAt _ _ _ _)

theorem sameBooks_engineWrite (s : State) (a : Nat) (bs : List Byte) : s.SameBooks (s.engineWrite a bs) := by
  unfold State.engineWrite
  split
  · exact .refl s
  · exact ((sameBooks_setBytes bs s a).trans (sameBooks_dropCopies _ _ _ _)).trans (sameBooks_injectAt _ _ _ _)

theorem sameBooks_zeroFrame (s : State) (f : Nat) : s.SameBooks (s.zeroFrame f) := by
  unfold State.zeroFrame
  exact .after (sameBooks_injectAt _ _ _ _) rfl rfl rfl rfl rfl

theorem sameBooks_setFrame (s : State) (f kind owner : Nat) : s.SameBooks (s.setFrame f kind owner) :=
  .of_eq rfl rfl rfl rfl rfl

theorem sameBooks_freeFrame (s : State) (f : Nat) : s.SameBooks (s.freeFrame f) := by
  unfold State.freeFrame
  dsimp only
  split
  · exact .after (sameBooks_setDie _ _ _ rfl rfl rfl) rfl rfl rfl rfl rfl
  · exact .of_eq rfl rfl rfl rfl rfl

theorem sameBooks_freeFrames (s : State) (fs : List Nat) : s.SameBooks (s.freeFrames fs) :=
  .foldl sameBooks_freeFrame fs s

theorem sameBooks_giveFrame (s : State) (f kind owner : Nat) : s.SameBooks ((s.zeroFrame f).setFrame f kind owner) :=
  (sameBooks_zeroFrame s f).trans (sameBooks_setFrame _ f kind owner)

theorem sameBooks_allocRun {s t : State} {d n kind owner f : Nat} (h : s.allocRun d n kind owner = some (f, t)) :
    s.SameBooks t := by
  unfold State.allocRun at h
  split at h
  · cases h; exact .refl s
  · obtain ⟨g, -, h⟩ := Option.map_eq_some_iff.mp h
    cases h
    exact .foldl (fun s j => sameBooks_giveFrame s (f + j) kind owner) _ _

theorem sameBooks_allocFrames (d kind owner n : Nat) {s t : State} {fs : List Nat}
    (h : s.allocFrames d kind owner n = some (fs, t)) : s.SameBooks t := by
  induction n generalizing s fs with
  | zero => cases h; exact .refl _
  | succ n ih =>
    simp only [State.allocFrames, State.allocFrame] at h
    split at h
    · cases h
    next f u hu =>
      obtain ⟨g, -, hg⟩ := Option.map_eq_some_iff.mp hu
      obtain ⟨r, hr, e⟩ := Option.map_eq_some_iff.mp h
      cases hg
      cases e
      exact (sameBooks_giveFrame s _ kind owner).trans (ih hr)

theorem sameBooks_allocSidings {s t : State} {d v : Nat} {depths : List Nat} (h : s.allocSidings d v depths = some t) :
    s.SameBooks t := by
  obtain ⟨r, hr, rfl⟩ := Option.map_eq_some_iff.mp h
  exact sameBooks_allocFrames d 3 v _ hr

/-! ## Shared frames and frame maps (R348, R336) -/

theorem sameBooks_unlist (s : State) (f : Nat) : s.SameBooks (s.unlist f) := by
  unfold State.unlist
  split
  · exact .refl s
  · exact sameBooks_setDie _ _ _ rfl rfl rfl

theorem sameBooks_removeTitleFrame (s : State) (f : Nat) : s.SameBooks (s.removeTitleFrame f) := by
  unfold State.removeTitleFrame
  exact .after ((sameBooks_unlist _ f).trans (sameBooks_freeFrame _ f)) rfl rfl rfl rfl rfl

theorem sameBooks_lowerRef (s : State) (f : Nat) : s.SameBooks (s.lowerRef f) := by
  unfold State.lowerRef
  dsimp only
  split
  · exact .refl s
  · split
    · split
      · exact .of_eq rfl rfl rfl rfl rfl
      · exact sameBooks_removeTitleFrame s f
    · exact .of_eq rfl rfl rfl rfl rfl

theorem sameBooks_removeUnused (s : State) : s.SameBooks s.removeUnused := by
  unfold State.removeUnused
  refine .foldl (fun s e => ?_) _ s
  split
  · exact .refl s
  · exact sameBooks_removeTitleFrame s e.1

theorem sameBooks_dropRefs (s : State) (v : Nat) : s.SameBooks (s.dropRefs v) := by
  unfold State.dropRefs
  refine .foldl (fun s i => ?_) _ s
  dsimp only
  split
  · exact (sameBooks_engineWrite s _ _).trans (sameBooks_lowerRef _ _)
  · exact .refl s

end Sys2Proof.Machine

/-!
The events of sessions (R17 to R19, R22, R23, R361 to R364): slips, parking, transfers, and the end of a session.
-/

namespace Sys2Proof.Machine

open Sys2Proof

/-! ## Commands that complete -/

/-- A command in progress completes if a test gives it a status. -/
def State.finishCommand (f : Waiting → Option Nat) (s : State) (w : Waiting) : State :=
  match f w with
  | some status => ({ s with commands := s.commands.erase w } : State).reply w.q w.stamp status 0
  | none => s

theorem State.finishCommands_eq_foldl (s : State) (f : Waiting → Option Nat) :
    s.finishCommands f = s.commands.foldl (State.finishCommand f) s := rfl

theorem State.commands_finishCommand (f : Waiting → Option Nat) (s : State) (w : Waiting) :
    (State.finishCommand f s w).commands = if (f w).isSome then s.commands.erase w else s.commands := by
  unfold State.finishCommand
  cases f w <;> rfl

/-- Completing a command writes a record into host memory, moves a queue on, and takes the command out of those in
progress. -/
theorem State.finishCommand_eq (f : Waiting → Option Nat) (s : State) (w : Waiting) :
    ∃ m qs cs, State.finishCommand f s w = { s with hostMem := m, queues := qs, commands := cs } := by
  unfold State.finishCommand
  cases f w with
  | none => exact ⟨_, _, _, rfl⟩
  | some status => exact ⟨_, _, _, rfl⟩

/-- See `State.finishCommand_eq`. -/
theorem State.finishCommands_eq (s : State) (f : Waiting → Option Nat) :
    ∃ m qs cs, s.finishCommands f = { s with hostMem := m, queues := qs, commands := cs } := by
  rw [s.finishCommands_eq_foldl f]
  generalize s.commands = l
  induction l generalizing s with
  | nil => exact ⟨_, _, _, rfl⟩
  | cons w l ih =>
    obtain ⟨m, qs, cs, e⟩ := State.finishCommand_eq f s w
    rw [List.foldl_cons, e]
    obtain ⟨m', qs', cs', e'⟩ := ih { s with hostMem := m, queues := qs, commands := cs }
    exact ⟨m', qs', cs', e'⟩

@[simp] theorem State.session_finishCommands (s : State) (f : Waiting → Option Nat) (v : Nat) :
    (s.finishCommands f).session v = s.session v := by
  obtain ⟨_, _, _, e⟩ := s.finishCommands_eq f
  rw [e]; rfl

@[simp] theorem State.mem_finishCommands (s : State) (f : Waiting → Option Nat) : (s.finishCommands f).mem = s.mem := by
  obtain ⟨_, _, _, e⟩ := s.finishCommands_eq f
  rw [e]

/-- The commands in progress after some have completed. -/
theorem State.commands_finishCommands (s : State) (f : Waiting → Option Nat) :
    (s.finishCommands f).commands = s.commands.diff (s.commands.filter (fun w => (f w).isSome)) := by
  have gen : ∀ (l : List Waiting) (s : State), (l.foldl (State.finishCommand f) s).commands
      = s.commands.diff (l.filter (fun w => (f w).isSome)) := by
    intro l
    induction l with
    | nil => intro s; rfl
    | cons w l ih =>
      intro s
      rw [List.foldl_cons, ih, State.commands_finishCommand]
      cases h : f w <;> simp [h]
  exact gen s.commands s

/-- A command that has completed is in progress no more. -/
theorem State.not_mem_finishCommands {s : State} {f : Waiting → Option Nat} {w : Waiting}
    (h : w ∈ (s.finishCommands f).commands) : f w = none := by
  rw [s.commands_finishCommands f] at h
  by_contra hf
  have hc := List.count_pos_iff.mpr h
  rw [List.count_diff, List.count_filter (p := fun w => (f w).isSome) (Option.isSome_iff_ne_none.mpr hf)] at hc
  omega

theorem State.byte_of_mem {s t : State} (h : t.mem = s.mem) {j : Nat} (hj : j < 2 ^ 40) : t.byte j = s.byte j := by
  simp only [State.byte, if_pos hj, h]

/-! ## Translations -/

theorem tget_map {V : Type} [Inhabited V] (t : Table V) (f : V → V) (hf : f default = default) (k : Nat) :
    tget (t.map (fun e => (e.1, f e.2))) k = f (tget t k) := by
  induction t with
  | nil => exact hf.symm
  | cons e t ih =>
    obtain ⟨i, w⟩ := e
    simp only [List.map_cons, tget, tfind] at ih ⊢
    split
    · rfl
    · exact ih

/-- R345: no core keeps a translation of a session whose translations are dropped. -/
theorem State.tlb_dropTranslations (s : State) (v k : Nat) :
    ∀ e ∈ ((s.dropTranslations v).core k).tlb, e.sess ≠ v := by
  have h : (s.dropTranslations v).core k
      = { s.core k with tlb := (s.core k).tlb.filter (fun t => t.sess != v) } :=
    tget_map s.cores (fun c => { c with tlb := c.tlb.filter (fun t => t.sess != v) }) rfl k
  intro e he
  rw [h] at he
  simpa using (List.mem_filter.mp he).2

/-! ## Slips (R19, R362) -/

/-- A slip whose depot is there, its slot LOADED, makes the session of the model's slip. -/
theorem slipComplete_of_depot {s w u : State} {v die cores depot : Nat} (hs : (s.session v).slipping = some (die, cores))
    (ho : (s.session v).slipOf = some depot) (hd : (s.session depot).state = .depot) (hk : s.slotState die (65 + v) = 1)
    (hr : s.readFrames depot (s.tableRun depot) = .ok () w) (hu : w.slip depot v die cores = some u) :
    ∃ t, exec (.slipComplete v) s = .next t ∧ (t.session v).state = (u.session v).state ∧
      (t.session v).home = (u.session v).home ∧ ∀ j, j < 2 ^ 40 → t.byte j = u.byte j := by
  refine ⟨_, rfl, ?_⟩
  simp only [hs, ho, hd, hk, hr, hu, ne_eq, not_true_eq_false, if_false]
  split
  · exact ⟨rfl, rfl, fun _ _ => rfl⟩
  · refine ⟨?_, ?_, fun j hj => State.byte_of_mem (by simp) hj⟩ <;> simp

/-- A slip whose depot is a depot no more is refused, and its identifier is FREE. -/
theorem slipComplete_refused {s : State} {v die cores depot : Nat} (hs : (s.session v).slipping = some (die, cores))
    (ho : (s.session v).slipOf = some depot) (hd : (s.session depot).state ≠ .depot) :
    ∃ t, exec (.slipComplete v) s = .next t ∧ t.session v = default ∧ ∀ j, j < 2 ^ 40 → t.byte j = s.byte j := by
  refine ⟨_, rfl, ?_⟩
  simp only [hs, ho, ne_eq, hd, not_false_eq_true, if_true]
  refine ⟨?_, fun j hj => State.byte_of_mem (by simp) hj⟩
  rw [State.session_bump, State.session_finishCommands]
  simp [State.session, tget_tdel]

/-! ## Parking (R18, R361, R385) -/

theorem bytes_setSession (s : State) (v : Nat) (x : Session) : ∀ n a, (s.setSession v x).bytes a n = s.bytes a n
  | 0, _ => rfl
  | n + 1, a => by simp only [State.bytes, bytes_setSession s v x n, State.byte_setSession]

/-- The leaves under a table depend on memory alone. -/
theorem leavesAt_setSession (s : State) (v : Nat) (x : Session) : ∀ level table va,
    (s.setSession v x).leavesAt level table va = s.leavesAt level table va
  | 0, _, _ => rfl
  | level + 1, table, va => by
    simp only [State.leavesAt, leavesAt_setSession s v x level]
    rfl

/-- R385: what a session is measured by are its tables, its frame map and memory. -/
theorem measure_setSession (s : State) (v : Nat) (x : Session) (hr : x.root = (s.session v).root)
    (hf : x.fmBase = (s.session v).fmBase) : (s.setSession v x).measure v = s.measure v := by
  have hl : (s.setSession v x).leaves v = s.leaves v := by
    simp only [State.leaves, leavesAt_setSession, State.session_setSession_same, hr]
  have hm : ∀ i, (s.setSession v x).frameMap v i = s.frameMap v i := fun i => by
    simp only [State.frameMap, State.session_setSession_same, hf]
    rfl
  have hp : ∀ va l, (s.setSession v x).pageFrame v va l = s.pageFrame v va l := fun va l => by
    simp only [State.pageFrame, hm]
    rfl
  have hd : (s.setSession v x).measured v = s.measured v := by simp only [State.measured, hl, hp]
  unfold State.measure
  simp only [hd, bytes_setSession]

/-- R361: a session whose pages have converted is a DEPOT, with its measurement. -/
theorem convert_depot {s u : State} {v : Nat} (h : s.convert v = .ok () u) :
    (u.session v).state = .depot ∧ (u.session v).measured = u.measure v := by
  have bind_ok : ∀ {x : Doing Unit} {f : Unit → State → Doing Unit}, x.bind f = .ok () u → ∃ s, f () s = .ok () u := by
    intro x f h
    cases x with
    | ok a s => exact ⟨s, h⟩
    | _ => cases h
  unfold State.convert at h
  obtain ⟨s1, h⟩ := bind_ok h
  obtain ⟨s2, h⟩ := bind_ok h
  simp only [Doing.ok.injEq, true_and] at h
  subst h
  simp only [State.modSession, State.session_setSession_same, true_and]
  exact Eq.symm (measure_setSession s2 v _ rfl rfl)

theorem sessParkComplete_depot {s u : State} {v : Nat} (hb : (s.session v).state = .build) (hq : s.quiet v = true)
    (ha : ∃ w ∈ s.commands, ∃ q, w.what = .sessEndPark q v) (hu : s.convert v = .ok () u) :
    ∃ t, exec (.sessParkComplete v) s = .next t ∧ (t.session v).state = .depot ∧ (t.session v).measured = u.measure v ∧
      ∀ w ∈ t.commands, ∀ q, w.what ≠ .sessEndPark q v := by
  obtain ⟨w₀, hw₀, q₀, e₀⟩ := ha
  obtain ⟨hstate, hmeasured⟩ := convert_depot hu
  refine ⟨_, rfl, ?_⟩
  simp only [hb, hq, hu]
  split
  next hno =>
    -- the command that asks for it is there
    simp only [Bool.not_true, bne_self_eq_false, Bool.or_false, Bool.not_eq_true', List.any_eq_false] at hno
    exact absurd (by simp [e₀]) (hno w₀ hw₀)
  next =>
    refine ⟨by simpa using hstate, by simpa using hmeasured, fun w hw q e => ?_⟩
    have := State.not_mem_finishCommands hw
    simp [e] at this

/-! ## Key slots (R352) -/

@[simp] theorem State.slotState_bump (s : State) (d k : Nat) : s.bump.slotState d k = s.slotState d k := rfl
@[simp] theorem State.slotState_modSession (s : State) (v d k : Nat) (f : Session → Session) :
    (s.modSession v f).slotState d k = s.slotState d k := rfl
@[simp] theorem State.session_modSession_same (s : State) (v : Nat) (f : Session → Session) :
    (s.modSession v f).session v = f (s.session v) := State.session_setSession_same s v _

/-- R352: a LOADED slot is REVOKING once its revocation starts; every other slot stays as it is. -/
theorem slotState_revoke (s : State) (d k e j : Nat) (forced : Bool) : (s.revoke d k forced).slotState e j
    = if e = d ∧ j = k ∧ s.slotState d k = 1 then 2 else s.slotState e j := by
  unfold State.revoke
  split
  next h => rw [if_neg (fun c => h c.2.2)]
  next h =>
    have hz : ∀ t : State,
        t.SameBooks (if forced then (t.worldFrames d k).foldl (fun (s : State) f => s.zeroFrame f) t else t) := by
      intro t
      split
      · exact .foldl sameBooks_zeroFrame _ t
      · exact .refl t
    have h1 : s.slotState d k = 1 := by simpa using h
    rw [(hz _).slotState]
    simp only [State.slotState, State.die_setDie] at h1 ⊢
    by_cases hd : e = d
    · subst hd
      by_cases hj : j = k
      · subst hj; simp [h1]
      · simp [hj, tget_tset]
    · simp [hd]

theorem sessions_revoke (s : State) (d k : Nat) (forced : Bool) : (s.revoke d k forced).sessions = s.sessions := by
  unfold State.revoke
  split
  · rfl
  · dsimp only
    split
    · exact (State.SameBooks.foldl sameBooks_zeroFrame _ _).sessions
    · rfl

/-- Revoking a slot on each of a list of dies leaves it LOADED on none of them. -/
theorem revoke_all (k : Nat) (forced : Bool) (l : List Nat) (s : State) :
    (l.foldl (fun (s : State) d => s.revoke d k forced) s).sessions = s.sessions ∧
      ∀ d, d ∈ l ∨ s.slotState d k ≠ 1 → (l.foldl (fun (s : State) d => s.revoke d k forced) s).slotState d k ≠ 1 := by
  induction l generalizing s with
  | nil => exact ⟨rfl, fun d h => h.resolve_left List.not_mem_nil⟩
  | cons j l ih =>
    obtain ⟨ih1, ih2⟩ := ih (s.revoke j k forced)
    refine ⟨ih1.trans (sessions_revoke s j k forced), fun d h => ih2 d ?_⟩
    by_cases hl : d ∈ l
    · exact .inl hl
    · refine .inr ?_
      rw [slotState_revoke]
      by_cases hj : d = j
      · subst hj
        by_cases h1 : s.slotState d k = 1 <;> simp [h1]
      · have : s.slotState d k ≠ 1 := h.resolve_left (by simp [hj, hl])
        simpa [hj] using this

/-! ## Transfers (R22, R363, R364) -/

/-- R363: the copies of its tables are the session's, at home on the destination, and no core keeps a translation of it. -/
theorem transferTablesMoved_moves {s w u : State} {v a root fm fr : Nat} (hm : (s.session v).state = .moving)
    (ha : (s.session v).moveFrom = some a) (hl : s.linkOpen a (s.session v).moveTo = true)
    (ht : (s.session v).tablesMoved = false) (hs : (s.session v).seals = []) (hb : (s.session v).breaks = [])
    (hf : ∀ e ∈ (s.session v).freight, e.2.queue = []) (hr : s.readFrames v (s.tableRun v) = .ok () w)
    (hu : w.cloneSession true v v (s.session v).moveTo = some (u, root, fm, fr)) :
    ∃ t, exec (.transferTablesMoved v) s = .next t ∧
      (let y := t.session v
       (y.home, y.tablesMoved, y.root, y.fmBase, y.frBase)
        = ((u.session v).moveTo, true, root * 4096, fm * 4096, fr * 4096)) ∧
      (∀ k, ∀ e ∈ (t.core k).tlb, e.sess ≠ v) := by
  have hq : ((s.session v).freight.any (fun e => !e.2.queue.isEmpty)) = false := by
    simpa using fun k c h => hf (k, c) h
  refine ⟨_, rfl, ?_⟩
  simp only [hm, ha, ht, hs, hb, hq, hr, hu, State.session_bump, State.core_bump]
  rw [if_neg (by simp [hl])]
  refine ⟨?_, fun k e he => State.tlb_dropTranslations _ v k e he⟩
  have hfree := (sameBooks_freeFrames u (s.keptFrames v ++ (List.range (mapFrames (s.session v).fmSize)).map
    (fun j => (s.session v).fmBase / 4096 + j))).session v
  simp [State.modSession, State.dropTranslations, State.session, State.setSession] at hfree ⊢
  exact congrArg Session.moveTo hfree

/-- The frames that drift with a frame hold it. -/
theorem Session.mem_runOf (x : Session) (f : Nat) :
    f ∈ (List.range (x.runOf f).2.2).map (fun j => (x.runOf f).1 + j) := by
  unfold Session.runOf
  split
  next src dst n h =>
    have hp := List.find?_some h
    simp only [Bool.and_eq_true, decide_eq_true_eq] at hp
    exact List.mem_map.mpr ⟨f - src, List.mem_range.mpr (show f - src < n by omega), show src + (f - src) = f by omega⟩
  next => exact List.mem_map.mpr ⟨0, by simp, rfl⟩

/-- A frame for which nothing is reserved drifts alone. -/
theorem Session.runOf_none {x : Session} {f : Nat} (h : (x.runOf f).2.1 = none) : x.runOf f = (f, none, 1) := by
  unfold Session.runOf at h ⊢
  split at h
  · cases h
  · rfl

section Drift

variable {s : State} {v f : Nat} (hm : (s.session v).state = .moving) (ht : (s.session v).tablesMoved = true)
  (hd : (s.session v).moveFrom = some (frameDie f)) (hk : s.frameKind f = 3 ∨ s.frameKind f = 4) (ho : s.frameOwner f = v)

include hm ht hd hk ho

/-- R364: the frame goes IN TRANSIT, with its run. -/
theorem frameDrift_leaves (hf : f ∉ (s.session v).transit) :
    ∃ t, exec (.frameDrift v f) s = .next t ∧ f ∈ (t.session v).transit ∧
      (∀ k, ∀ e ∈ (t.core k).tlb, e.sess ≠ v) ∧ ∀ j, t.byte j = s.byte j := by
  refine ⟨_, rfl, ?_⟩
  have hc : (s.session v).transit.contains f = false := by simpa using hf
  have hh : (s.frameKind f == 3 || s.frameKind f == 4) = true := by simpa using hk
  simp only [hm, ht, hd, hh, ho, hc, State.session_bump, State.core_bump]
  rw [if_neg (by simp), if_pos (by simp)]
  refine ⟨?_, fun k e he => State.tlb_dropTranslations _ v k e he, fun _ => rfl⟩
  have := (s.session v).mem_runOf f
  simp [State.modSession, State.dropTranslations, State.session, State.setSession] at this ⊢
  exact .inr this

/-- R364: a frame in transit goes with its run to the frames reserved for it, or, alone, merges with an equal page or is
copied. -/
theorem frameDrift_arrives (hf : f ∈ (s.session v).transit)
    (hl : s.linkOpen (frameDie ((s.session v).runOf f).1) (s.session v).moveTo = true) {w z : State}
    (hr : s.readFrames v ((List.range ((s.session v).runOf f).2.2).map (fun j => ((s.session v).runOf f).1 + j)) = .ok () w)
    (hz : w.readFrames v (w.driftMates v f) = .ok () z) :
    (∀ g, ((s.session v).runOf f).2.1 = some g → exec (.frameDrift v f) s
      = .next (w.driftCopy v ((s.session v).runOf f).1 g ((s.session v).runOf f).2.2).bump) ∧
    (((s.session v).runOf f).2.1 = none → z.driftMerge v f = none → ∀ g, z.pickRun (s.session v).moveTo 1 = some g →
      exec (.frameDrift v f) s = .next (z.driftCopy v f g 1).bump) ∧
    (((s.session v).runOf f).2.1 = none → ∀ u, z.driftMerge v f = some u → exec (.frameDrift v f) s = .next u.bump) := by
  have hh : (s.frameKind f == 3 || s.frameKind f == 4) = true := by simpa using hk
  refine ⟨fun g hg => ?_, fun hg hn g hp => ?_, fun hg u hu => ?_⟩
  · simp [execFrameDrift, hm, ht, hd, hh, ho, hf, hl, hr, hg, Doing.bind]
  · rw [Session.runOf_none hg] at hl hr
    simp only [List.range_one, List.map_cons, List.map_nil, Nat.add_zero] at hl hr
    simp [execFrameDrift, Session.runOf_none hg, hm, ht, hd, hh, ho, hf, hl, hr, hz, hn, hp, Doing.bind]
  · rw [Session.runOf_none hg] at hl hr
    simp only [List.range_one, List.map_cons, List.map_nil, Nat.add_zero] at hl hr
    simp [execFrameDrift, Session.runOf_none hg, hm, ht, hd, hh, ho, hf, hl, hr, hz, hu, Doing.bind]

end Drift

/-- R363: once nothing of the session is left at the source, its slot there is revoked; once that is EMPTY and no core
there is its own, it is LIVE. -/
theorem transferComplete_steps {s : State} {v a : Nat} (ha : (s.session v).moveFrom = some a)
    (hm : (s.session v).state = .moving) (ht : (s.session v).tablesMoved = true) (hs : ∀ e ∈ s.streamsOf v, e.1 ≠ a)
    (hq : (s.session v).mReqs = [])
    (hc : ∀ e ∈ s.convoys, ∀ c, e.2 = some c → c.sess = v →
      (if c.core < 256 then c.core / 64 else (c.core - 256) / 8) ≠ a)
    (h3 : s.framesOf a 3 v = []) (h4 : s.framesOf a 4 v = []) :
    (s.slotState a (65 + v) = 1 → ∃ t, exec (.transferComplete v) s = .next t ∧ t.slotState a (65 + v) = 2) ∧
    (s.slotState a (65 + v) = 0 → (∀ e ∈ (s.die a).activeBank, e.2 ≠ v + 1) →
      ∃ t, exec (.transferComplete v) s = .next t ∧ (t.session v).state = .live ∧ (t.session v).moveFrom = none ∧
        ∀ w ∈ t.commands, ∀ q cores, w.what ≠ .sessMove q v (s.session v).moveTo cores) := by
  refine ⟨fun hk => ⟨_, rfl, ?_⟩, fun hk hbank => ⟨_, rfl, ?_⟩⟩
  all_goals
    simp only [ha]
    split
    next hleft =>
      -- nothing is left at the source
      simp only [hm, ht, h3, h4, bne_self_eq_false, Bool.not_true, Bool.false_or, Bool.or_false, Bool.or_eq_true,
        List.any_eq_true, beq_iff_eq] at hleft
      obtain ⟨e, he, h⟩ | ⟨e, he, h⟩ := hleft
      · split at h
        next c hec =>
          simp only [Bool.and_eq_true, beq_iff_eq] at h
          exact absurd h.2 (hc e he c hec h.1)
        next => cases h
      · exact absurd h (hs e he)
  next =>
    exact (slotState_revoke s a (65 + v) a (65 + v) false).trans (by simp [hk])
  next =>
    have hb : (s.die a).activeBank.any (fun e => e.2 == v + 1) = false := by simpa using fun k b h => hbank (k, b) h
    rw [if_neg (by omega), if_neg (by omega), hb, if_neg Bool.false_ne_true]
    have hadv : ∀ t : State, (t.session v).mReqs = [] → t.advanceRequests v = t := by
      intro t h
      unfold State.advanceRequests
      simp only [h]
    rw [hadv _ (by simpa using hq)]
    refine ⟨by simp, by simp, fun w hw q cores e => ?_⟩
    have := State.not_mem_finishCommands hw
    simp [e] at this

/-! ## The end of a session (R17, R23) -/

/-- A session with no work has no convoy. -/
theorem State.convoys_of_quiet {s : State} {v : Nat} (h : s.quiet v = true) :
    ∀ e ∈ s.convoys, ∀ c, e.2 = some c → c.sess ≠ v := by
  intro e he c hc hv
  unfold State.quiet at h
  simp only [Bool.and_eq_true, Bool.not_eq_true', List.any_eq_false] at h
  obtain ⟨⟨⟨⟨⟨⟨⟨⟨hconvoys, -⟩, -⟩, -⟩, -⟩, -⟩, -⟩, -⟩, -⟩ := h
  have := hconvoys e he
  simp [hc, hv] at this

theorem State.dropParked_of_quiet {s : State} {v : Nat} (h : s.quiet v = true) : s.dropParked v = s := by
  unfold State.dropParked
  dsimp only
  rw [List.filter_eq_nil_iff.mpr (fun e he => ?_)]
  · rfl
  · split
    next c hc => simp [State.convoys_of_quiet h e he c hc]
    next => simp

theorem State.endStreams_of_nil {s : State} {v : Nat} (orphan : Bool) (h : s.streamsOf v = []) :
    s.endStreams v orphan = s := by
  simp only [State.endStreams, h, List.foldl_nil]

/-- R23: once its work is done, an ending session's slots are LOADED on no die. -/
theorem sessEndComplete_revokes {s : State} {v : Nat} (he : (s.session v).state = .ending) (h1 : (s.session v).ending = 1)
    (hq : s.quiet v = true) (hs : s.streamsOf v = []) :
    ∃ t, exec (.sessEndComplete v) s = .next t ∧ (t.session v).state = .ending ∧ (t.session v).ending = 2 ∧
      ∀ d, d < 4 → t.slotState d (65 + v) ≠ 1 := by
  have hdone : (if (s.session v).poisoned.isSome = true then s.endStreams v true else s.dropParked v) = s := by
    rw [State.endStreams_of_nil true hs, State.dropParked_of_quiet hq, ite_self]
  have hend : s.ended v = true := by simp [State.ended, hq, hs]
  obtain ⟨hsess, hslot⟩ := revoke_all (65 + v) (s.session v).forcedEnd (List.range 4) (s.dropRefs v)
  refine ⟨_, rfl, ?_⟩
  simp only [he, h1, ne_eq, not_true_eq_false, if_false, if_true, hdone, hend, Bool.not_true, Bool.false_eq_true]
  simp only [State.session_bump, State.session_modSession_same, State.slotState_bump, State.slotState_modSession]
  refine ⟨?_, trivial, fun d hd => hslot d (.inl (List.mem_range.mpr hd))⟩
  rw [State.session, hsess, (sameBooks_dropRefs s v).sessions]
  exact he

theorem sessions_endTitle (s : State) (t : Nat) : (s.endTitle t).sessions = s.sessions := by
  unfold State.endTitle
  split
  · rfl
  · have hfold : ∀ {α : Type} (f : State → α → State), (∀ s a, (f s a).sessions = s.sessions) →
        ∀ (l : List α) (s : State), (l.foldl f s).sessions = s.sessions := by
      intro α f hf l
      induction l with
      | nil => intro s; rfl
      | cons a l ih => intro s; exact (ih (f s a)).trans (hf s a)
    refine hfold _ (fun s d => ?_) _ s
    refine hfold _ (fun s f => ?_) _ s
    exact ((sameBooks_unlist _ f).trans (sameBooks_freeFrame _ f)).sessions

theorem session_releaseSession (s : State) (v : Nat) : (s.releaseSession v).session v = default := by
  unfold State.releaseSession State.session
  simp only [sessions_endTitle, tget_tdel, if_true]

theorem session_writePoisonEnd (s : State) (v u : Nat) (e : PoisonEnd) : (s.writePoisonEnd v e).session u = s.session u := by
  have hpost : ∀ (l : List Nat) (s : State),
      (l.foldl (fun (s : State) n => s.post v 0 0 2 (BitVec.ofNat 32 n) 0) s).session u = s.session u := by
    intro l
    induction l with
    | nil => intro s; rfl
    | cons n l ih => intro s; exact ih (s.post v 0 0 2 (BitVec.ofNat 32 n) 0)
  unfold State.writePoisonEnd
  rw [hpost]
  cases e.log <;> cases e.consumer <;> rfl

/-- R23: once its slots are EMPTY, an ending session's identifier is FREE. -/
theorem sessEndComplete_frees {s : State} {v : Nat} (he : (s.session v).state = .ending) (h1 : (s.session v).ending ≠ 1)
    (hk : ∀ d, d < 4 → s.slotState d (65 + v) = 0) :
    ∃ t, exec (.sessEndComplete v) s = .next t ∧ (t.session v).state = .free := by
  have hempty : ((List.range 4).any (fun d => s.slotState d (65 + v) != 0)) = false := by
    simpa using hk
  refine ⟨_, rfl, ?_⟩
  simp only [he, h1, ne_eq, not_true_eq_false, if_false, hempty, Bool.false_eq_true, State.session_bump]
  split
  · rw [session_releaseSession]; rfl
  next e _ =>
    refine (congrArg Session.state (session_writePoisonEnd _ v v e)).trans ?_
    rw [State.session_setQueue_other, session_releaseSession]; rfl

end Sys2Proof.Machine

/-!
The first step of an end (R23): with no injection armed and no line corrupt, what it stops and drops leaves the session
ENDING.
-/

namespace Sys2Proof.Machine

open Sys2Proof

/-- From a sound state, the session stays in its state and the manner of its end, and the state stays sound. -/
def State.KeepsLife (v : Nat) (s t : State) : Prop :=
  s.sound → t.sound ∧ (t.session v).state = (s.session v).state ∧ (t.session v).forcedEnd = (s.session v).forcedEnd

section KeepsLife

variable {v : Nat} {s t u : State}

theorem State.KeepsLife.refl (v : Nat) (s : State) : s.KeepsLife v s := fun h => ⟨h, rfl, rfl⟩

theorem State.KeepsLife.trans (h : s.KeepsLife v t) (k : t.KeepsLife v u) : s.KeepsLife v u := by
  intro hs
  obtain ⟨h1, h2, h3⟩ := h hs
  obtain ⟨k1, k2, k3⟩ := k h1
  exact ⟨k1, k2.trans h2, k3.trans h3⟩

theorem State.KeepsLife.of_eq (hs : t.sessions = s.sessions) (hc : t.corrupt = s.corrupt) (hd : t.dies = s.dies) :
    s.KeepsLife v t := by
  intro h
  simp only [State.sound, State.session, State.die, hs, hc, hd] at h ⊢
  exact ⟨h, trivial, trivial⟩

theorem State.KeepsLife.foldl {α : Type} {f : State → α → State} (h : ∀ (s : State) (a : α), s.KeepsLife v (f s a))
    (l : List α) (s : State) : s.KeepsLife v (List.foldl f s l) := by
  induction l generalizing s with
  | nil => exact .refl v s
  | cons a l ih => exact (h s a).trans (ih (f s a))

/-- A change of a session that leaves its state and the manner of its end. -/
theorem keepsLife_modSession (s : State) (v w : Nat) (f : Session → Session) (hf : ∀ x, (f x).state = x.state)
    (hg : ∀ x, (f x).forcedEnd = x.forcedEnd) : s.KeepsLife v (s.modSession w f) := by
  intro h
  refine ⟨h, ?_⟩
  rw [State.modSession, State.session_setSession]
  split
  next e => rw [hf, hg, e]; exact ⟨rfl, rfl⟩
  next => exact ⟨rfl, rfl⟩

theorem keepsLife_setDie (s : State) (v d : Nat) (x : Die) (hx : x.injCtl = (s.die d).injCtl) :
    s.KeepsLife v (s.setDie d x) := by
  rintro ⟨hc, hd⟩
  refine ⟨⟨hc, fun j => ?_⟩, rfl, rfl⟩
  rw [State.die_setDie]
  split
  · rw [hx]; exact hd d
  · exact hd j

theorem keepsLife_modConsist (s : State) (v k : Nat) (f : Consist → Consist) : s.KeepsLife v (s.modConsist k f) := by
  unfold State.modConsist
  split
  · exact .of_eq rfl rfl rfl
  · exact .refl v s

theorem keepsLife_post (s : State) (v q : Nat) (stamp : BitVec 16) (status kind : Nat) (detail : BitVec 32) (value : DWord) :
    s.KeepsLife v (s.post q stamp status kind detail value) := .of_eq rfl rfl rfl

/-! ## Levels (R276, R284) -/

theorem keepsLife_lowerLevels (s : State) (v w n : Nat) (g : Nat × Nat × Nat) (clk : Clock) :
    s.KeepsLife v (s.lowerLevels w g n clk) := by
  unfold State.lowerLevels
  dsimp only
  split
  · refine .trans ?_ (keepsLife_post _ v w _ _ _ _ _)
    exact keepsLife_modSession s v w _ (fun _ => rfl) (fun _ => rfl)
  · exact keepsLife_modSession s v w _ (fun _ => rfl) (fun _ => rfl)

theorem keepsLife_lowerLaunch (s : State) (v w slot n : Nat) (clk : Clock) : s.KeepsLife v (s.lowerLaunch w slot n clk) := by
  unfold State.lowerLaunch
  refine .trans ?_ (keepsLife_lowerLevels _ v w n _ clk)
  exact keepsLife_modSession s v w _ (fun _ => rfl) (fun _ => rfl)

theorem keepsLife_dropAssemblies (s : State) (v conv : Nat) : s.KeepsLife v (s.dropAssemblies conv) := by
  unfold State.dropAssemblies
  split
  · exact .refl v s
  · refine .trans ?_ (.foldl (fun s (t : Nat × Nat × Nat) => keepsLife_modConsist s v t.2.1 _) _ _)
    exact .of_eq rfl rfl rfl

theorem keepsLife_cancelConvoy (s : State) (v conv : Nat) : s.KeepsLife v (s.cancelConvoy conv) := by
  unfold State.cancelConvoy
  split
  · exact .refl v s
  · refine .trans ?_ (keepsLife_dropAssemblies _ v conv)
    exact .foldl (fun s k => keepsLife_modConsist s v k _) _ s

theorem keepsLife_dropWaybills (s : State) (v w : Nat) (p : Queued → Bool) : s.KeepsLife v (s.dropWaybills w p) := by
  unfold State.dropWaybills
  dsimp only
  refine .trans ?_ (.foldl (fun s (q : Queued) => keepsLife_lowerLaunch s v w q.slot (wbCount q.bits) []) _ _)
  exact keepsLife_modSession s v w _ (fun _ => rfl) (fun _ => rfl)

theorem keepsLife_markCancelled (s : State) (v w lvl i : Nat) : s.KeepsLife v (s.markCancelled w lvl i) := by
  unfold State.markCancelled
  refine keepsLife_modSession s v w _ (fun x => ?_) (fun x => ?_)
  all_goals split <;> rfl

theorem keepsLife_cancelLevel (s : State) (v w lvl i : Nat) : s.KeepsLife v (s.cancelLevel w lvl i) := by
  unfold State.cancelLevel
  dsimp only
  split
  · exact .refl v s
  · refine .trans ?_ (.foldl (fun s k => keepsLife_cancelConvoy s v k) _ _)
    exact .trans (keepsLife_markCancelled s v w lvl i) (keepsLife_dropWaybills _ v w _)

/-! ## Parked convoys (R287) -/

/-- With no line corrupt, a line that leaves a core is lost to nobody. -/
theorem keepsLife_evictLine (s : State) (v core l : Nat) : s.KeepsLife v (s.evictLine core l) := by
  intro h
  have hc : tget s.corrupt l = (0, 0, 0) := by rw [h.1]; rfl
  unfold State.evictLine
  simp only [hc]
  rw [if_pos (by simp)]
  exact State.KeepsLife.of_eq (s := s) rfl rfl rfl h

theorem keepsLife_flushLines (s : State) (v core : Nat) (mine : CacheLine → Bool) (drop : Bool) :
    s.KeepsLife v (s.flushLines core mine drop) := by
  unfold State.flushLines
  refine .foldl (fun s e => ?_) _ s
  dsimp only
  split
  · exact keepsLife_evictLine s v core e.1
  · exact .trans (keepsLife_evictLine s v core e.1) (.of_eq rfl rfl rfl)

theorem keepsLife_reportExit (s : State) (v : Nat) (c : Convoy) : s.KeepsLife v (s.reportExit c) := by
  unfold State.reportExit
  split
  · exact .refl v s
  · exact keepsLife_modSession s v c.sess _ (fun _ => rfl) (fun _ => rfl)

theorem keepsLife_orphan (s : State) (v conv : Nat) (c : Convoy) : s.KeepsLife v (s.orphan conv c) := by
  unfold State.orphan
  dsimp only
  split
  · refine .trans ?_ (keepsLife_post _ v _ _ _ _ _ _)
    exact keepsLife_setDie s v _ _ rfl
  · exact .refl v s

theorem keepsLife_endConvoy (s : State) (v conv : Nat) (c : Convoy) : s.KeepsLife v (s.endConvoy conv c) := by
  have hflush : s.KeepsLife v ((s.reportExit c).flushLines c.core (fun l => l.inStash conv none) true) :=
    (keepsLife_reportExit s v c).trans (keepsLife_flushLines _ v c.core _ true)
  unfold State.endConvoy
  dsimp only
  split
  · exact hflush
  · refine hflush.trans ?_
    split
    · refine .trans ?_ (keepsLife_orphan _ v conv c)
      exact .of_eq rfl rfl rfl
    · refine .trans ?_ (keepsLife_lowerLaunch _ v c.sess c.slot 1 c.exitClk)
      exact .of_eq rfl rfl rfl

theorem keepsLife_fromShadow (s : State) (v core conv w : Nat) : s.KeepsLife v (s.fromShadow core conv w) := by
  unfold State.fromShadow
  refine .trans ?_ (keepsLife_modSession _ v w _ (fun _ => rfl) (fun _ => rfl))
  exact .of_eq rfl rfl rfl

theorem keepsLife_dropParked (s : State) (v w : Nat) : s.KeepsLife v (s.dropParked w) := by
  unfold State.dropParked
  refine .foldl (fun s e => ?_) _ s
  split
  · exact .refl v s
  next c _ =>
    refine .trans (keepsLife_fromShadow s v c.core e.1 w) (.trans ?_ (keepsLife_endConvoy _ v e.1 _))
    refine .trans (.trans ?_ (.foldl (fun s y => ?_) _ _)) (.of_eq rfl rfl rfl)
    · exact .of_eq rfl rfl rfl
    · exact .of_eq rfl rfl rfl

theorem keepsLife_endStreams (s : State) (v w : Nat) (orphan : Bool) : s.KeepsLife v (s.endStreams w orphan) := by
  unfold State.endStreams
  refine .foldl (fun s e => ?_) _ s
  exact keepsLife_setDie s v e.1 _ rfl

end KeepsLife

/-- R23: a session that does not move is ENDING once its end has begun, and not by force. -/
theorem beginEnd_ending {s : State} {v : Nat} (hs : s.sound) (hm : (s.session v).state ≠ .moving) :
    ((s.beginEnd v).session v).state = .ending ∧ ((s.beginEnd v).session v).forcedEnd = false := by
  have hf : ((s.session v).state == .moving) = false := by simpa using hm
  unfold State.beginEnd
  simp only [hf, Bool.false_eq_true, if_false]
  generalize hu : s.modSession v (fun x => { x with state := .ending, ending := 1, forcedEnd := false }) = u
  have hsound : u.sound := hu ▸ hs
  have hlife := ((State.KeepsLife.foldl (fun s (e : Nat × Level) => keepsLife_cancelLevel s v v 3 e.1)
    ((s.session v).jobs.filter (fun e => e.2.count != 0)) u).trans (keepsLife_dropParked _ v v)).trans
    (keepsLife_endStreams _ v v false)
  obtain ⟨-, h1, h2⟩ := hlife hsound
  rw [h1, h2, ← hu]
  simp

/-- R17: a SESS_END of a depot goes on once no slip from it is in progress. -/
theorem depotEndProceed_ending {s : State} {v : Nat} (hs : s.sound) (hd : (s.session v).state = .depot)
    (hn : s.slipping v = false) (ha : ∃ w ∈ s.commands, isEnding w.what = true ∧ commandSession w.what = some v) :
    ∃ t, exec (.depotEndProceed v) s = .next t ∧ (t.session v).state = .ending := by
  have hasked : s.commands.any (fun w => isEnding w.what && commandSession w.what == some v) = true := by
    simpa using ha
  refine ⟨_, rfl, ?_⟩
  simp only [hasked, hd, hn, beq_self_eq_true, Bool.not_false, Bool.and_self, if_true, State.session_bump,
    State.session_modSession_same]
  exact (beginEnd_ending hs (by simp [hd])).1

/-- Settles O53: each event's step is the one that its clause names, and what follows it in the step leaves that effect. -/
theorem sessionEventsTakeEffect : Obligations.SessionEventsTakeEffect := by
  intro s v
  refine ⟨fun die cores depot hs ho => ⟨fun hd hk w u hr hu => slipComplete_of_depot hs ho hd hk hr hu,
      fun hd _ => slipComplete_refused hs ho hd⟩,
    fun hb hq ha u hu _ => sessParkComplete_depot hb hq ha hu,
    fun a hm ha hl ht hs hb hf w u root fm fr hr hu => transferTablesMoved_moves hm ha hl ht hs hb hf hr hu,
    fun f hm ht hd hk ho => ⟨fun hf => frameDrift_leaves hm ht hd hk ho hf,
      fun hf hl w z hr hz => frameDrift_arrives hm ht hd hk ho hf hl hr hz⟩,
    fun a ha hm ht hs hq hc h3 h4 => transferComplete_steps ha hm ht hs hq hc h3 h4,
    fun hs hd hn ha => depotEndProceed_ending hs hd hn ha,
    fun he h1 hq hs => sessEndComplete_revokes he h1 hq hs,
    fun he h1 hk => sessEndComplete_frees he h1 hk⟩

end Sys2Proof.Machine

/-!
Commands (R373, R378 to R380): a queue that takes a command carries it out, and then either its record stands in the
completion ring or the command waits among those in progress.
-/

namespace Sys2Proof.Machine

open Sys2Proof

/-! ## What a reply leaves -/

@[simp] theorem State.session_reply (s : State) (q : Nat) (stamp : BitVec 16) (status : Nat) (detail : BitVec 32) (v : Nat) :
    (s.reply q stamp status detail).session v = s.session v := rfl
@[simp] theorem State.die_reply (s : State) (q : Nat) (stamp : BitVec 16) (status : Nat) (detail : BitVec 32) (d : Nat) :
    (s.reply q stamp status detail).die d = s.die d := rfl
@[simp] theorem State.stream_reply (s : State) (q : Nat) (stamp : BitVec 16) (status : Nat) (detail : BitVec 32) (d n : Nat) :
    (s.reply q stamp status detail).stream d n = s.stream d n := rfl
@[simp] theorem State.stream_bump (s : State) (d n : Nat) : s.bump.stream d n = s.stream d n := rfl
@[simp] theorem State.mem_reply (s : State) (q : Nat) (stamp : BitVec 16) (status : Nat) (detail : BitVec 32) :
    (s.reply q stamp status detail).mem = s.mem := rfl

@[simp] theorem State.dies_reply (s : State) (q : Nat) (stamp : BitVec 16) (status : Nat) (detail : BitVec 32) :
    (s.reply q stamp status detail).dies = s.dies := rfl

theorem State.queue_reply_other (s : State) (q : Nat) (stamp : BitVec 16) (status : Nat) (detail : BitVec 32) {j : Nat}
    (hj : j ≠ q) : (s.reply q stamp status detail).queue j = s.queue j := by
  simp only [State.reply, State.post, State.queue, State.setQueue, tget_tset, if_neg hj]

/-- The 16 bytes of the record that ends a command (R379). -/
def replyRecord (stamp : BitVec 16) (status : Nat) : List Byte :=
  leBytes 2 stamp.toNat ++ leBytes 1 status ++ List.replicate 13 0

theorem replyRecord_length (stamp : BitVec 16) (status : Nat) : (replyRecord stamp status).length = 16 := by
  simp [replyRecord, leBytes_length]

/-- The place of a queue's next completion record (R379). -/
def CmdQueue.recordAt (x : CmdQueue) : Nat := x.cqBase.toNat + 16 * (x.cqTail.toNat % 2 ^ x.qk)

theorem State.hostMem_reply (s : State) (q : Nat) (stamp : BitVec 16) (status : Nat) :
    (s.reply q stamp status 0).hostMem = writeBytes s.hostMem (s.queue q).recordAt (replyRecord stamp status) := by
  have hz : leBytes 1 0 ++ (leBytes 4 (0 : BitVec 32).toNat ++ leBytes 8 (0 : DWord).toNat) = List.replicate 13 0 := by decide
  have hr : replyRecord stamp status = leBytes 2 stamp.toNat ++ leBytes 1 status ++ leBytes 1 0
      ++ leBytes 4 (0 : BitVec 32).toNat ++ leBytes 8 (0 : DWord).toNat := by
    simp only [replyRecord, ← hz, List.append_assoc]
  rw [hr]
  rfl

/-- A record lies in the ring (R375). -/
theorem CmdQueue.recordAt_in_ring (x : CmdQueue) : x.cqBase.toNat ≤ x.recordAt ∧
    x.recordAt + 16 ≤ x.cqBase.toNat + 16 * 2 ^ x.qk := by
  have : x.cqTail.toNat % 2 ^ x.qk < 2 ^ x.qk := Nat.mod_lt _ (Nat.two_pow_pos _)
  unfold CmdQueue.recordAt
  omega

/-! ## Commands in progress -/

/-- A command that is not complete takes its place among those in progress. -/
def State.await (s : State) (w : Waiting) : State := { s with commands := s.commands ++ [w] }

@[simp] theorem State.session_await (s : State) (w : Waiting) (v : Nat) : (s.await w).session v = s.session v := rfl
@[simp] theorem State.queue_await (s : State) (w : Waiting) (q : Nat) : (s.await w).queue q = s.queue q := rfl
@[simp] theorem State.die_await (s : State) (w : Waiting) (d : Nat) : (s.await w).die d = s.die d := rfl
@[simp] theorem State.slotState_await (s : State) (w : Waiting) (d k : Nat) :
    (s.await w).slotState d k = s.slotState d k := rfl
@[simp] theorem State.stream_await (s : State) (w : Waiting) (d n : Nat) : (s.await w).stream d n = s.stream d n := rfl
@[simp] theorem State.consist?_await (s : State) (w : Waiting) (k : Nat) : (s.await w).consist? k = s.consist? k := rfl
theorem State.mem_commands_await (s : State) (w : Waiting) : w ∈ (s.await w).bump.commands :=
  List.mem_append_right _ (List.mem_singleton.mpr rfl)

/-! ## Carrying out -/

section Takes

variable {q : Nat} {i : Instr} {s u a : State}

/-- The queue when the command is carried out: its head has advanced, and it is busy. -/
theorem Takes.queue (h : Takes q i s u) :
    u.queue q = { s.queue q with sqHead := (s.queue q).sqHead + 1, busy := true, torn := 0 } := by
  rw [h.start, State.queue_setQueue_same]

theorem Takes.carry (h : Takes q i s u) (hp : u.unfetched i = false) :
    s.carry q i = State.settleCommand q ((s.queue q).sqHead.setWidth 16) i (perform i (s.queueDie q) u) := by
  obtain ⟨hopen, hu, hdenied, hhere⟩ := h
  subst hu
  unfold State.carry
  simp only [hopen, Bool.not_true, Bool.false_eq_true, if_false]
  have hd : ∀ x, (s.setQueue q x).queueDie q = s.queueDie q := fun _ => rfl
  have hs : ∀ x v, (s.setQueue q x).session v = s.session v := fun _ _ => rfl
  simp only [hd, hs, hdenied, hp, Bool.false_eq_true, if_false]
  rw [if_neg]
  rintro ⟨hq, hne⟩
  rcases hhere with hlt | hall
  · omega
  · cases hn : namedSession i with
    | none => simp [hn] at hne
    | some v =>
      simp only [hn] at hne
      rcases hall v hn with hfree | hhome
      · simp [hfree] at hne
      · split at hne
        · exact hne rfl
        · exact hne hhome

/-- A command that a session's own queue takes names that session, if it names one (R373). -/
theorem Takes.owner (h : Takes q i s u) {v : Nat} (hn : namedSession i = some v) : 256 ≤ q ∨ q = v := by
  by_cases hq : q < 256
  · right
    have hd := h.allowed
    simp only [State.denied, hq, decide_true, Bool.true_and, Bool.or_eq_false_iff, Bool.not_eq_false'] at hd
    have ho := hd.2.1
    unfold ownQueueTakes at ho
    split at ho
    case h_8 => simp [namedSession, commandSession] at hn
    case h_9 => cases ho
    all_goals
      rw [hn] at ho
      simpa using Eq.symm (by simpa using ho)
  · exact .inl (by omega)

/-- What stands in the completion ring and in the queue's registers once a command has its record. -/
theorem Takes.answered (h : Takes q i s u) {status : Nat} {P : State → Prop} (he : exec i s = .next (s.carry q i).bump)
    (hc : s.carry q i = a.reply q ((s.queue q).sqHead.setWidth 16) status 0) (hq : a.queue q = u.queue q)
    (hP : P (a.reply q ((s.queue q).sqHead.setWidth 16) status 0).bump) :
    ∃ t, exec i s = .next t ∧ Answered q status s t ∧ P t := by
  rw [hc] at he
  have hx : a.queue q = { s.queue q with sqHead := (s.queue q).sqHead + 1, busy := true, torn := 0 } := hq.trans h.queue
  refine ⟨_, he, ?_, hP⟩
  have hr : (a.reply q ((s.queue q).sqHead.setWidth 16) status 0).queue q
      = { a.queue q with cqTail := (a.queue q).cqTail + 1, msix := (a.queue q).msix + 1, busy := false } := by
    simp [State.reply, State.post, State.queue, State.setQueue]
  have hplace : (a.queue q).recordAt = (s.queue q).recordAt := by rw [hx]; rfl
  have hring := readBytes_writeBytes (replyRecord ((s.queue q).sqHead.setWidth 16) status) a.hostMem (s.queue q).recordAt
  rw [replyRecord_length] at hring
  constructor
  case free => rw [State.queue_bump, hr]
  case head => rw [State.queue_bump, hr, hx]
  case tail => rw [State.queue_bump, hr, hx]
  case ring => rw [State.bump_hostMem, State.hostMem_reply, hplace]; exact hring

/-- A command whose effect is complete is answered: its record follows the effect, which stands in `a`. -/
theorem Takes.answers (h : Takes q i s u) {status : Nat} {P : State → Prop} (he : exec i s = .next (s.carry q i).bump)
    (hp : u.unfetched i = false) (hd : perform i (s.queueDie q) u = (a, some status)) (hq : a.queue q = u.queue q)
    (hf : 256 ≤ q ∨ (a.session q).state ≠ .free)
    (hP : P (a.reply q ((s.queue q).sqHead.setWidth 16) status 0).bump) :
    ∃ t, exec i s = .next t ∧ Answered q status s t ∧ P t := by
  refine h.answered he ?_ hq hP
  rw [h.carry hp, hd]
  exact if_neg (fun c => hf.elim (fun hq => absurd c.1 (by omega)) (fun hs => hs c.2))

/-- R17: a session cannot be parked while its own ring holds a command; the command is answered Busy. -/
theorem Takes.refuses (h : Takes q i s u) {P : State → Prop} (he : exec i s = .next (s.carry q i).bump)
    (hp : u.unfetched i = true) (hP : P (u.reply q ((s.queue q).sqHead.setWidth 16) 1 0).bump) :
    ∃ t, exec i s = .next t ∧ Answered q 1 s t ∧ P t := by
  refine h.answered he ?_ rfl hP
  obtain ⟨hopen, hu, hdenied, -⟩ := h
  subst hu
  unfold State.carry
  have hd : ∀ x, (s.setQueue q x).queueDie q = s.queueDie q := fun _ => rfl
  simp only [hopen, hd, hdenied, hp, Bool.not_true, Bool.false_eq_true, if_false, if_true]

theorem Takes.carry_waits (h : Takes q i s u) (hp : u.unfetched i = false) (hd : perform i (s.queueDie q) u = (a, none)) :
    s.carry q i = a.await { q := q, stamp := (s.queue q).sqHead.setWidth 16, what := i } := by
  rw [h.carry hp, hd]; rfl

/-- A command that is not complete waits among those in progress, with what it has done in `a`. -/
theorem Takes.waits (h : Takes q i s u) {P : State → Prop} (he : exec i s = .next (s.carry q i).bump)
    (hp : u.unfetched i = false) (hd : perform i (s.queueDie q) u = (a, none)) (hq : a.queue q = u.queue q)
    (hc : a.commands = u.commands)
    (hP : P (a.await { q := q, stamp := (s.queue q).sqHead.setWidth 16, what := i }).bump) :
    ∃ t, exec i s = .next t ∧ Held q i s t ∧ P t := by
  rw [h.carry_waits hp hd] at he
  have hx : a.queue q = { s.queue q with sqHead := (s.queue q).sqHead + 1, busy := true, torn := 0 } := hq.trans h.queue
  have hu : u.commands = s.commands := by rw [h.start]; rfl
  refine ⟨_, he, ?_, hP⟩
  constructor
  case busy => rw [State.queue_bump, State.queue_await, hx]
  case head => rw [State.queue_bump, State.queue_await, hx]
  case tail => rw [State.queue_bump, State.queue_await, hx]
  case waits => rw [← hu, ← hc]; rfl

/-- A command that completes at the flip of a partition map (R285, R379) waits while one is due, and is done when none is. -/
theorem Takes.completesAtFlip (h : Takes q i s u) {due : Bool} {P : State → Prop} (he : exec i s = .next (s.carry q i).bump)
    (hp : u.unfetched i = false) (hd : perform i (s.queueDie q) u = (a, if due then none else some 0))
    (hq : a.queue q = u.queue q) (hc : a.commands = u.commands) (hf : 256 ≤ q)
    (hw : P (a.await { q := q, stamp := (s.queue q).sqHead.setWidth 16, what := i }).bump)
    (hr : P (a.reply q ((s.queue q).sqHead.setWidth 16) 0 0).bump) :
    ∃ t, exec i s = .next t ∧ (due = true → Held q i s t) ∧ (due = false → Answered q 0 s t) ∧ P t := by
  cases due with
  | true =>
    obtain ⟨t, ht, held, hP⟩ := h.waits he hp hd hq hc hw
    exact ⟨t, ht, fun _ => held, fun e => absurd e (by decide), hP⟩
  | false =>
    obtain ⟨t, ht, done, hP⟩ := h.answers he hp hd hq (.inl hf) hr
    exact ⟨t, ht, fun e => absurd e (by decide), fun _ => done, hP⟩

theorem Takes.session (h : Takes q i s u) (v : Nat) : u.session v = s.session v := by rw [h.start]; rfl
theorem Takes.die (h : Takes q i s u) (d : Nat) : u.die d = s.die d := by rw [h.start]; rfl
theorem Takes.commands (h : Takes q i s u) : u.commands = s.commands := by rw [h.start]; rfl
theorem Takes.hostMem (h : Takes q i s u) : u.hostMem = s.hostMem := by rw [h.start]; rfl
theorem Takes.mem (h : Takes q i s u) : u.mem = s.mem := by rw [h.start]; rfl
theorem Takes.queue_other (h : Takes q i s u) {j : Nat} (hj : j ≠ q) : u.queue j = s.queue j := by
  rw [h.start, State.queue_setQueue, if_neg hj]
theorem Takes.stream (h : Takes q i s u) (d n : Nat) : u.stream d n = s.stream d n := by rw [h.start]; rfl
theorem Takes.slotState (h : Takes q i s u) (d k : Nat) : u.slotState d k = s.slotState d k := by rw [h.start]; rfl

end Takes

end Sys2Proof.Machine

/-!
The commands about sessions (R17 to R19, R22, R23, R285, R380): SESS_NEW, SESS_SLIP, SESS_MOVE and SESS_END with their
options.
-/

namespace Sys2Proof.Machine

open Sys2Proof

/-! ## Cores (R285) -/

/-- Giving a session cores writes a die's partition map and nothing else. -/
theorem grant_eq {s a : State} {d v n : Nat} (h : s.grant d v n = some a) :
    ∃ b, a = s.setDie d ((s.die d).plan b) := by
  unfold State.grant at h
  dsimp only at h
  split at h
  · cases h; exact ⟨_, rfl⟩
  · split at h
    · cases h
    · cases h; exact ⟨_, rfl⟩

theorem queue_grant {s a : State} {d v n : Nat} (h : s.grant d v n = some a) (q : Nat) : a.queue q = s.queue q := by
  obtain ⟨b, rfl⟩ := grant_eq h; rfl
theorem commands_grant {s a : State} {d v n : Nat} (h : s.grant d v n = some a) : a.commands = s.commands := by
  obtain ⟨b, rfl⟩ := grant_eq h; rfl

/-- What a table reads other than the default stands in it. -/
theorem mem_of_tget {V : Type} {t : Table (Option V)} {k : Nat} {x : V} (h : tget t k = some x) : (k, some x) ∈ t := by
  induction t with
  | nil => cases h
  | cons e t ih =>
    obtain ⟨i, w⟩ := e
    simp only [tget, tfind] at h ih
    split at h
    next hi =>
      subst hi
      rw [show w = some x from h]
      exact List.mem_cons_self
    next => exact List.mem_cons_of_mem _ (ih h)

section SessionCommands

variable {s u : State} {q v : Nat}

/-! ## SESS_NEW (R17, R350) -/

/-- R350: the slots of a title are loaded, and nothing else of the part changes. -/
theorem loadTitle_keeps (s : State) (t : Nat) : (s.loadTitle t).sessions = s.sessions ∧ (s.loadTitle t).queues = s.queues ∧
    (s.loadTitle t).commands = s.commands ∧ ∀ d, ((s.loadTitle t).die d).flip = (s.die d).flip := by
  unfold State.loadTitle
  generalize List.range 4 = l
  induction l generalizing s with
  | nil => exact ⟨rfl, rfl, rfl, fun _ => rfl⟩
  | cons d l ih =>
    rw [List.foldl_cons]
    split
    · exact ih s
    · obtain ⟨h1, h2, h3, h4⟩ := ih (s.setDie d { s.die d with
        slots := tput (1 + t) { state := 1, forced := false, key := 0 } (s.die d).slots })
      refine ⟨h1, h2, h3, fun e => (h4 e).trans ?_⟩
      rw [State.die_setDie]
      split
      next he => rw [he]
      next => rfl

/-- The session that SESS_NEW makes of its operands and its first frames (R17). -/
def newSession (o : SessNewOps) (root fm fr : Nat) : Session :=
  { (default : Session) with
    state := if o.depot then .build else .live, title := o.title, home := o.die, depotOpt := o.depot,
    quiescence := o.quiescence, maintenance := o.maintenance, weight := o.weight, root := root * 4096,
    fmBase := fm * 4096, fmSize := o.fmSize, frBase := fr * 4096, frSize := o.frSize, windows := o.windows,
    depths := o.depths, classes := o.classes }

/-- The command queue of a new session (R375). -/
def newQueue (o : SessNewOps) : CmdQueue :=
  { sqBase := o.sqBase, cqBase := o.cqBase, sqTail := 0, sqHead := 0, cqTail := 0, stopped := false, qk := o.qk,
    torn := 0, msix := 0, busy := false }

/-- SESS_NEW with cores and frames to give makes the session and its queue; it is done once the session has its cores. -/
theorem doSessNew_makes {o : SessNewOps} (hv : sessNewValid o = true) (hfree : (u.session o.sess).state = .free)
    (hslip : (u.session o.sess).slipping = none) (hk : u.slotState o.die (65 + o.sess) = 1)
    {a b c w : State} {root fm fr : Nat}
    (ha : u.grant o.die o.sess o.cores = some a) (hb : a.allocRun o.die 8 3 o.sess = some (root, b))
    (hc : b.allocRun o.die (mapFrames o.fmSize) 4 o.sess = some (fm, c))
    (hw : c.allocRun o.die (ringFrames o.frSize) 3 o.sess = some (fr, w))
    (hs : (w.allocSidings o.die o.sess o.depths).isSome = true) :
    ∃ t, doSessNew o u = (t, if (a.die o.die).flip then none else some 0) ∧
      (∀ j, j ≠ o.sess → t.queue j = u.queue j) ∧ t.commands = u.commands ∧
      t.session o.sess = newSession o root fm fr ∧ t.queue o.sess = newQueue o := by
  obtain ⟨z, hz⟩ := Option.isSome_iff_exists.mp hs
  have hbooks : a.SameBooks z :=
    (((sameBooks_allocRun hb).trans (sameBooks_allocRun hc)).trans (sameBooks_allocRun hw)).trans (sameBooks_allocSidings hz)
  have htaken : (u.session o.sess).taken = false := by simp [Session.taken, hfree, hslip]
  generalize hm : (z.setSession o.sess (newSession o root fm fr)).setQueue o.sess (newQueue o) = m
  have hdo : doSessNew o u = (m.loadTitle o.title, if ((m.loadTitle o.title).die o.die).flip then none else some 0) := by
    unfold doSessNew
    simp only [hv, htaken, hk, ha, hb, hc, hw, hz, Bool.not_true, Bool.false_eq_true, if_false, ne_eq, not_true_eq_false,
      Option.bind_some, Option.map_some, ← hm, newSession, newQueue]
  obtain ⟨k1, k2, k3, k4⟩ := loadTitle_keeps m o.title
  have hsess : (m.loadTitle o.title).session o.sess = newSession o root fm fr := by
    rw [State.session, k1, ← hm]; simp [State.setQueue, State.setSession]
  have hqueue : ∀ j, (m.loadTitle o.title).queue j = if j = o.sess then newQueue o else u.queue j := by
    intro j
    rw [State.queue, k2, ← queue_grant ha j, ← hbooks.queue j, ← hm]
    simp only [State.setQueue, State.setSession, tget_tset, State.queue]
  have hflip : ((m.loadTitle o.title).die o.die).flip = (a.die o.die).flip := by
    rw [k4, ← hbooks.flip, ← hm]; rfl
  rw [hflip] at hdo
  refine ⟨_, hdo, fun j hj => by rw [hqueue, if_neg hj], ?_, hsess, by rw [hqueue, if_pos rfl]⟩
  rw [k3, ← commands_grant ha, ← hbooks.commands, ← hm]
  rfl

/-- SESS_NEW, as the Signal box carries it out. -/
theorem sessNew_makes {o : SessNewOps} (h : Takes q (.sessNew q o) s u) (hq : 256 ≤ q) (hs : o.sess ≤ 255)
    (hv : sessNewValid o = true) (hfree : (s.session o.sess).state = .free) (hslip : (s.session o.sess).slipping = none)
    (hk : u.slotState o.die (65 + o.sess) = 1) {a b c w : State} {root fm fr : Nat}
    (ha : u.grant o.die o.sess o.cores = some a) (hb : a.allocRun o.die 8 3 o.sess = some (root, b))
    (hc : b.allocRun o.die (mapFrames o.fmSize) 4 o.sess = some (fm, c))
    (hw : c.allocRun o.die (ringFrames o.frSize) 3 o.sess = some (fr, w))
    (hz : (w.allocSidings o.die o.sess o.depths).isSome = true) :
    ∃ t, exec (.sessNew q o) s = .next t ∧
      ((a.die o.die).flip = true → Held q (.sessNew q o) s t) ∧ ((a.die o.die).flip = false → Answered q 0 s t) ∧
      (let y := t.session o.sess
       (y.state, y.title, y.home, y.root, y.fmBase, y.frBase)
        = (if o.depot then .build else .live, o.title, o.die, root * 4096, fm * 4096, fr * 4096) ∧
       (y.fmSize, y.frSize, y.depths, y.classes, y.weight, y.windows)
        = (o.fmSize, o.frSize, o.depths, o.classes, o.weight, o.windows)) ∧
      (let r := t.queue o.sess
       (r.sqBase, r.cqBase, r.qk, r.sqHead, r.sqTail, r.stopped) = (o.sqBase, o.cqBase, o.qk, 0, 0, false)) := by
  obtain ⟨t, hdo, hother, hcmd, hx, hr⟩ := doSessNew_makes hv ((h.session _).symm ▸ hfree) ((h.session _).symm ▸ hslip) hk
    ha hb hc hw hz
  have hne : o.sess ≠ q := by omega
  obtain ⟨t', ht, held, done, hy, hq'⟩ := h.completesAtFlip
    (P := fun t => t.session o.sess = newSession o root fm fr ∧ t.queue o.sess = newQueue o) rfl rfl hdo (hother q hne.symm)
    hcmd hq
    ⟨by simpa using hx, by simpa using hr⟩
    ⟨by simpa using hx, by rw [State.queue_bump, State.queue_reply_other _ _ _ _ _ hne, hr]⟩
  refine ⟨t', ht, held, done, ?_, ?_⟩
  · rw [hy]; exact ⟨rfl, rfl⟩
  · rw [hq']; rfl

/-! ## SESS_SLIP (R19) -/

/-- SESS_SLIP of a depot reserves the identifier of the new session. -/
theorem sessSlip_reserves {depot die cores : Nat} (h : Takes q (.sessSlip q depot v die cores) s u) (hv : v ≤ 255)
    (hdep : depot ≤ 255) (hdie : die ≤ 3) (h1 : 1 ≤ cores) (h64 : cores ≤ 64) (hd : (s.session depot).state = .depot)
    (hfree : (s.session v).state = .free) (hslip : (s.session v).slipping = none)
    (hend : ∀ w ∈ s.commands, isEnding w.what = true → commandSession w.what ≠ some depot)
    (hk : u.slotState die (65 + v) = 1) (hg : (u.grant die v cores).isSome = true) :
    ∃ t, exec (.sessSlip q depot v die cores) s = .next t ∧ Held q (.sessSlip q depot v die cores) s t ∧
      ((t.session v).slipOf, (t.session v).slipping, (t.session v).title)
        = (some depot, some (die, cores), (s.session depot).title) := by
  have hany : u.commands.any (fun w => isEnding w.what && commandSession w.what == some depot) = false := by
    simpa [h.commands] using hend
  have hdo : doSessSlip depot v die cores u = (u.setSession v { (default : Session) with
      title := (s.session depot).title, slipOf := some depot, slipping := some (die, cores) }, none) := by
    unfold doSessSlip
    rw [if_neg (by omega), if_neg (by simp [h.session, hd, Session.taken, hfree, hslip, hany]), if_neg (by simp [hk]),
      if_neg (by cases e : u.grant die v cores <;> simp [e] at hg ⊢)]
    simp only [h.session]
  obtain ⟨t, ht, held, hP⟩ := h.waits (P := fun t => t.session v = _) rfl rfl hdo rfl rfl
    (by rw [State.session_bump, State.session_await, State.session_setSession_same])
  exact ⟨t, ht, held, by rw [hP]⟩

/-! ## SESS_MOVE (R22, R285, R363) -/

/-- New cores on a die are a new inactive bank, in force at the flip. -/
theorem Takes.repartitions {i : Instr} {die cores : Nat} {w : State} (h : Takes q i s u) (hq : 256 ≤ q)
    (he : exec i s = .next (s.carry q i).bump) (hp : u.unfetched i = false)
    (hd : perform i (s.queueDie q) u = repartition v die cores u) (hw : u.grant die v cores = some w) :
    ∃ t, exec i s = .next t ∧ (t.die die).nextBank = (w.die die).nextBank ∧
      ((w.die die).flip = true → Held q i s t) ∧ ((w.die die).flip = false → Answered q 0 s t) := by
  have hr : repartition v die cores u = (w, if (w.die die).flip then none else some 0) := by
    unfold repartition
    rw [hw]
  obtain ⟨t, ht, held, done, hP⟩ := h.completesAtFlip
    (P := fun t => (t.die die).nextBank = (w.die die).nextBank) he hp (hd.trans hr)
    (queue_grant hw q) (commands_grant hw) hq (by simp) (by simp)
  exact ⟨t, ht, hP, held, done⟩

/-- SESS_MOVE on the home die gives the session a new number of cores. -/
theorem sessMove_home {die cores : Nat} {w : State} (h : Takes q (.sessMove q v die cores) s u) (hq : 256 ≤ q) (hv : v ≤ 255)
    (hl : (s.session v).state = .live) (hdie : die ≤ 3) (h1 : 1 ≤ cores) (h64 : cores ≤ 64) (hd : die = (s.session v).home)
    (hw : u.grant die v cores = some w) :
    ∃ t, exec (.sessMove q v die cores) s = .next t ∧ (t.die die).nextBank = (w.die die).nextBank ∧
      ((w.die die).flip = true → Held q (.sessMove q v die cores) s t) ∧
      ((w.die die).flip = false → Answered q 0 s t) := by
  refine h.repartitions hq rfl rfl ?_ hw
  show doSessMove v die cores u = _
  unfold doSessMove
  simp only [h.session, hl]
  rw [if_neg (by omega), if_neg (by simp), if_pos hd]

/-- SESS_MOVE with the extend option gives the session cores on another die than its own. -/
theorem sessMoveExtend_elsewhere {die cores : Nat} {w : State} (h : Takes q (.sessMoveExtend q v die cores) s u) (hq : 256 ≤ q)
    (hv : v ≤ 255) (hl : (s.session v).state = .live) (hdie : die ≤ 3) (h64 : cores ≤ 64) (hd : die ≠ (s.session v).home)
    (hw : u.grant die v cores = some w) :
    ∃ t, exec (.sessMoveExtend q v die cores) s = .next t ∧ (t.die die).nextBank = (w.die die).nextBank ∧
      ((w.die die).flip = true → Held q (.sessMoveExtend q v die cores) s t) ∧
      ((w.die die).flip = false → Answered q 0 s t) := by
  refine h.repartitions hq rfl rfl ?_ hw
  show doSessMoveExtend v die cores u = _
  unfold doSessMoveExtend
  simp only [h.session, hl]
  rw [if_neg (by omega), if_neg (by simp), if_neg hd]

/-- SESS_MOVE to another die starts the transfer. -/
theorem sessMove_away {die cores : Nat} (h : Takes q (.sessMove q v die cores) s u) (hv : v ≤ 255)
    (hl : (s.session v).state = .live) (hdie : die ≤ 3) (h1 : 1 ≤ cores) (h64 : cores ≤ 64) (hd : die ≠ (s.session v).home)
    (hk : u.slotState die (65 + v) = 1) (hst : u.streamsOf v = []) (hrun : u.largeRuns v = [])
    (hg : (u.grant die v cores).isSome = true) :
    ∃ t, exec (.sessMove q v die cores) s = .next t ∧ Held q (.sessMove q v die cores) s t ∧
      ((t.session v).state, (t.session v).moveFrom, (t.session v).moveTo, (t.session v).tablesMoved)
        = (.moving, some (s.session v).home, die, false) := by
  obtain ⟨w, hw⟩ := Option.isSome_iff_exists.mp hg
  have hdo : doSessMove v die cores u = (w.setSession v { s.session v with
      state := .moving, moveFrom := some (s.session v).home, moveTo := die, tablesMoved := false, transit := [], runs := [] },
      none) := by
    unfold doSessMove
    simp only [h.session, hl, hst, hrun, hw]
    rw [if_neg (by omega), if_neg (by simp), if_neg hd, if_neg (by simp [hk])]
    simp [State.reserveRuns]
  obtain ⟨t, ht, held, hP⟩ := h.waits (P := fun t => t.session v = _) rfl rfl hdo
    (by rw [State.queue_setSession_other, queue_grant hw q]) (show w.commands = u.commands from commands_grant hw)
    (by rw [State.session_bump, State.session_await, State.session_setSession_same])
  exact ⟨t, ht, held, by rw [hP]⟩

/-! ## SESS_END (R17, R23) -/

/-- SESS_END makes the session ENDING, and is in progress until it has ended. -/
theorem sessEnd_ends (h : Takes q (.sessEnd q v) s u) (hs : s.sound) (hv : v ≤ 255)
    (hl : (s.session v).state = .live ∨ (s.session v).state = .build) :
    ∃ t, exec (.sessEnd q v) s = .next t ∧ (t.session v).state = .ending ∧ (t.session v).forcedEnd = false ∧
      { q := q, stamp := (s.queue q).sqHead.setWidth 16, what := .sessEnd q v } ∈ t.commands := by
  have hdo : perform (.sessEnd q v) (s.queueDie q) u = (u.beginEnd v, none) := by
    show doSessEnd v u = _
    unfold doSessEnd
    rw [if_neg (by omega), h.session]
    rcases hl with hl | hl <;> rw [hl]
  have hsound : u.sound := by rw [h.start]; exact hs
  obtain ⟨hst, hforced⟩ := beginEnd_ending (v := v) hsound (by rw [h.session]; rcases hl with hl | hl <;> simp [hl])
  refine ⟨_, rfl, ?_⟩
  rw [h.carry_waits rfl hdo]
  rw [State.session_bump, State.session_await]
  exact ⟨hst, hforced, State.mem_commands_await _ _⟩

/-- SESS_END with the park option waits for the session's work. -/
theorem sessEndPark_waits (h : Takes q (.sessEndPark q v) s u) (hq : 256 ≤ q) (hv : v ≤ 255)
    (hb : (s.session v).state = .build) (hring : (s.queue v).sqHead = (s.queue v).sqTail) :
    ∃ t, exec (.sessEndPark q v) s = .next t ∧ Held q (.sessEndPark q v) s t ∧ t.session v = s.session v := by
  have hu : u.unfetched (.sessEndPark q v) = false := by
    simp [State.unfetched, h.queue_other (j := v) (by omega), hring]
  have hdo : perform (.sessEndPark q v) (s.queueDie q) u = (u, none) := by
    show doSessEndPark v u = _
    unfold doSessEndPark
    rw [if_neg (by omega), h.session, hb, if_neg (by simp)]
  exact h.waits (P := fun t => t.session v = s.session v) rfl hu hdo rfl rfl
    (by rw [State.session_bump, State.session_await, h.session])

/-- SESS_END with the park option is answered Busy while the session's own ring holds a command. -/
theorem sessEndPark_busy (h : Takes q (.sessEndPark q v) s u) (hq : 256 ≤ q) (hv : v ≤ 255)
    (hring : (s.queue v).sqHead ≠ (s.queue v).sqTail) :
    ∃ t, exec (.sessEndPark q v) s = .next t ∧ Answered q 1 s t ∧ t.session v = s.session v := by
  have hu : u.unfetched (.sessEndPark q v) = true := by
    simp [State.unfetched, h.queue_other (j := v) (by omega), hring]
    omega
  exact h.refuses (P := fun t => t.session v = s.session v) rfl hu (by rw [State.session_bump, State.session_reply, h.session])

/-- R389: no consist of a session is left once its work has stopped. -/
theorem consist_stopWork {s : State} {v k : Nat} {c : Consist} (hc : (s.stopWork v).consist? k = some c) : c.sess ≠ v := by
  unfold State.stopWork State.consist? at hc
  rw [(sameBooks_removeUnused _).consists] at hc
  dsimp only at hc
  have hmem := mem_of_tget hc
  intro hv
  have hf := (List.mem_filter.mp hmem).2
  rw [Bool.not_eq_true', List.contains_eq_mem, decide_eq_false_iff_not] at hf
  exact hf (List.mem_map.mpr ⟨(k, some c), List.mem_filter.mpr ⟨(List.mem_filter.mp hmem).1, by simpa using hv⟩, rfl⟩)

theorem consists_endStreams (s : State) (v : Nat) (orphan : Bool) : (s.endStreams v orphan).consists = s.consists := by
  unfold State.endStreams
  generalize s.streamsOf v = l
  induction l generalizing s with
  | nil => rfl
  | cons e l ih => exact (ih _).trans rfl

/-- Records posted leave the consists alone. -/
theorem consists_posts {α : Type} (r : α → BitVec 32) (v : Nat) (l : List α) (s : State) :
    (l.foldl (fun (s : State) e => s.post v 0 0 2 (r e) 0) s).consists = s.consists := by
  induction l generalizing s with
  | nil => rfl
  | cons e l ih => exact (ih _).trans rfl

/-- SESS_END with the kill option makes the session ENDING by force, and no consist of it is left. -/
theorem sessEndKill_ends (h : Takes q (.sessEndKill q v) s u) (hv : v ≤ 255)
    (hl : (s.session v).state = .live ∨ (s.session v).state = .build) :
    ∃ t, exec (.sessEndKill q v) s = .next t ∧ (t.session v).state = .ending ∧ (t.session v).forcedEnd = true ∧
      (∀ k c, t.consist? k = some c → c.sess ≠ v) ∧
      { q := q, stamp := (s.queue q).sqHead.setWidth 16, what := .sessEndKill q v } ∈ t.commands := by
  have hdo : ∃ w : State, perform (.sessEndKill q v) (s.queueDie q) u
        = (w.modSession v (fun x => { x with state := .ending, ending := 1, forcedEnd := true }), none) ∧
      ∃ z : State, w.consists = (z.stopWork v).consists := by
    show ∃ w : State, doSessEndKill v u = _ ∧ _
    unfold doSessEndKill
    rw [if_neg (by omega), h.session]
    rcases hl with hl | hl <;>
    · rw [hl]
      exact ⟨_, rfl, _, (consists_posts _ _ _ _).trans (consists_endStreams _ _ _)⟩
  obtain ⟨w, hdo, z, hz⟩ := hdo
  refine ⟨_, rfl, ?_⟩
  rw [h.carry_waits rfl hdo]
  refine ⟨?_, ?_, fun k c hk => ?_, State.mem_commands_await _ _⟩
  · rw [State.session_bump, State.session_await, State.session_modSession_same]
  · rw [State.session_bump, State.session_await, State.session_modSession_same]
  · rw [State.consist?_bump, State.consist?_await] at hk
    have hk' : w.consist? k = some c := hk
    rw [State.consist?, hz] at hk'
    exact consist_stopWork hk'

end SessionCommands

/-- The commands about sessions have their effect (the first part of O54). -/
theorem sessionCommandsComplete : SessionCommandsComplete := by
  intro s u q v hv
  refine ⟨?_, fun depot die cores h _ => sessSlip_reserves h hv,
    fun die cores h hq hl hd h1 h64 => ⟨fun hh w hw => sessMove_home h hq hv hl hd h1 h64 hh hw,
      fun hh hk hs hr hg => sessMove_away h hv hl hd h1 h64 hh hk hs hr hg⟩,
    fun die cores w h hq hl hd h64 hh hw => sessMoveExtend_elsewhere h hq hv hl hd h64 hh hw,
    fun h hs _ hl => sessEnd_ends h hs hv hl,
    fun h hq hb => ⟨fun hr => sessEndPark_waits h hq hv hb hr, fun hr => sessEndPark_busy h hq hv hr⟩,
    fun h _ hl => sessEndKill_ends h hv hl⟩
  rintro o h hq rfl hval hfree hslip hk a root b fm c fr w ha hb hc hw hz
  exact sessNew_makes h hq hv hval hfree hslip hk ha hb hc hw hz

end Sys2Proof.Machine

/-!
The commands about keys, layouts and what the Signal box writes to the host (R259, R268, R350, R352, R384, R385, R391).
-/

namespace Sys2Proof.Machine

open Sys2Proof

/-! ## Host memory beside a completion record -/

/-- Bytes that a write does not reach read as before. -/
theorem readBytes_writeBytes_apart (bs : List Byte) (m : Table Byte) (b : Nat) : ∀ (n a : Nat),
    (∀ j, j < n → a + j < b ∨ b + bs.length ≤ a + j) → readBytes (writeBytes m b bs) a n = readBytes m a n
  | 0, _, _ => rfl
  | n + 1, a, h => by
    rw [readBytes, readBytes, tget_writeBytes_other bs m b a (h 0 (Nat.succ_pos n)),
      readBytes_writeBytes_apart bs m b n (a + 1) (fun j hj => by have := h (j + 1) (by omega); omega)]

section WorkCommands

variable {q v : Nat} {i : Instr} {s u : State}

/-- What a command writes to the host outside its completion ring is there once it has been answered. -/
theorem Takes.host_read (h : Takes q i s u) {a : State} {at1 : Nat} {bs : List Byte} (ha : a.queue q = u.queue q)
    (hm : a.hostMem = writeBytes u.hostMem at1 bs)
    (hr : ∀ k, k < 16 * 2 ^ (s.queue q).qk → (s.queue q).cqBase.toNat + k < at1 ∨
      at1 + bs.length ≤ (s.queue q).cqBase.toNat + k) (stamp : BitVec 16) (status : Nat) :
    readBytes (a.reply q stamp status 0).bump.hostMem at1 bs.length = bs := by
  have hplace : (a.queue q).recordAt = (s.queue q).recordAt := by rw [ha, h.queue]; rfl
  obtain ⟨h1, h2⟩ := (s.queue q).recordAt_in_ring
  rw [State.bump_hostMem, State.hostMem_reply, hplace, hm, readBytes_writeBytes_apart, readBytes_writeBytes]
  intro j hj
  rw [replyRecord_length]
  by_contra hc
  have := hr (at1 + j - (s.queue q).cqBase.toNat) (by omega)
  omega

/-- A command that writes a run of bytes to the host and is answered leaves every other byte outside its ring alone. -/
theorem Takes.host_other (h : Takes q i s u) {a : State} {at1 k : Nat} {bs : List Byte} (ha : a.queue q = u.queue q)
    (hm : a.hostMem = writeBytes u.hostMem at1 bs) (hk : k < at1 ∨ at1 + bs.length ≤ k)
    (hr : k < (s.queue q).cqBase.toNat ∨ (s.queue q).cqBase.toNat + 16 * 2 ^ (s.queue q).qk ≤ k) (stamp : BitVec 16)
    (status : Nat) : tget (a.reply q stamp status 0).bump.hostMem k = tget s.hostMem k := by
  have hplace : (a.queue q).recordAt = (s.queue q).recordAt := by rw [ha, h.queue]; rfl
  obtain ⟨h1, h2⟩ := (s.queue q).recordAt_in_ring
  rw [State.bump_hostMem, State.hostMem_reply, hplace, hm, tget_writeBytes_other, tget_writeBytes_other _ _ _ _ hk, h.hostMem]
  rw [replyRecord_length]
  omega

/-- A queue that takes a command is a die's, or that of a session that is not FREE (R373). -/
theorem Takes.there (h : Takes q i s u) : 256 ≤ q ∨ (s.session q).state ≠ .free := by
  have ho := h.opened
  unfold State.queueOpen State.queueThere at ho
  by_cases hq : 256 ≤ q
  · exact .inl hq
  · right
    simp only [hq, decide_false, Bool.false_and, Bool.or_false, Bool.and_eq_true] at ho
    simpa using ho.1.1.1.2

/-! ## Keys (R350, R352) -/

/-- KEY_LOAD loads an EMPTY slot. -/
theorem keyLoad_loads {slot die blob : Nat} (h : Takes q (.keyLoad q slot die blob) s u) (hq : 256 ≤ q) (hdie : die ≤ 3)
    (hslot : slot ≤ 320) (hk : s.slotState die slot = 0) (hide : (s.die (s.queueDie q)).ide ≠ []) :
    ∃ t, exec (.keyLoad q slot die blob) s = .next t ∧ Answered q 0 s t ∧ t.slotState die slot = 1 ∧
      (tget (t.die die).slots slot).key = BitVec.ofNat 512 (leNat (readBytes s.hostMem blob 64)) ∧
      ∀ k, k ≠ slot → t.slotState die k = s.slotState die k := by
  have hdo : doKeyLoad slot die blob (s.queueDie q) u = (u.setDie die { u.die die with
      slots := tput slot { state := 1, forced := false, key := BitVec.ofNat 512 (leNat (u.hostBytes blob 64)) }
        (u.die die).slots },
      some 0) := by
    unfold doKeyLoad
    rw [if_neg (by omega), if_neg (by simp [h.slotState, hk]), if_neg (by rw [h.die]; exact hide)]
  obtain ⟨t, ht, done, hP⟩ := h.answers (P := fun t => t.die die = _) rfl rfl hdo rfl (.inl hq)
    (by rw [State.die_bump, State.die_reply, State.die_setDie, if_pos rfl])
  refine ⟨t, ht, done, ?_, ?_, fun k hk => ?_⟩
  · rw [State.slotState, hP, tget_tput, if_pos rfl]
  · rw [hP, tget_tput, if_pos rfl, State.hostBytes, h.hostMem]
  · rw [State.slotState, hP, tget_tput, if_neg hk, h.die, State.slotState]

/-- A revocation leaves queues and commands in progress alone. -/
theorem revoke_keeps (s : State) (d k : Nat) :
    (s.revoke d k false).queues = s.queues ∧ (s.revoke d k false).commands = s.commands := by
  unfold State.revoke
  split
  · exact ⟨rfl, rfl⟩
  · exact ⟨rfl, rfl⟩

/-- KEY_DROP starts the revocation of a LOADED slot. -/
theorem keyDrop_revokes {slot die : Nat} (h : Takes q (.keyDrop q slot die) s u) (hdie : die ≤ 3) (hslot : slot ≤ 511)
    (hk : s.slotState die slot = 1) :
    ∃ t, exec (.keyDrop q slot die) s = .next t ∧ Held q (.keyDrop q slot die) s t ∧ t.slotState die slot = 2 := by
  have hk' : u.slotState die slot = 1 := (h.slotState die slot).trans hk
  have hdo : doKeyDrop slot die u = (u.revoke die slot false, none) := by
    unfold doKeyDrop
    rw [if_neg (by omega), if_neg (by simp [hk'])]
  obtain ⟨hqueues, hcommands⟩ := revoke_keeps u die slot
  exact h.waits (P := fun t => t.slotState die slot = 2) rfl rfl hdo (by rw [State.queue, hqueues]; rfl) hcommands
    (by rw [State.slotState_bump, State.slotState_await, slotState_revoke, if_pos ⟨rfl, rfl, hk'⟩])

/-! ## LAYOUT_PUT (R259, R268) -/

/-- A session that takes work is not FREE (R17). -/
theorem Session.not_free_of_works {x : Session} (h : x.works = true) : x.state ≠ .free := by
  intro hf
  simp [Session.works, hf] at h

/-- A command that names a session, which is not FREE after it, is answered. -/
theorem Takes.answerable (h : Takes q i s u) (hn : namedSession i = some v) {a : State} (ha : (a.session v).state ≠ .free) :
    256 ≤ q ∨ (a.session q).state ≠ .free := by
  rcases h.owner hn with hq | rfl
  · exact .inl hq
  · exact .inr ha

theorem session_modFreight (s : State) (v ctx : Nat) (f : FreightCtx → FreightCtx) : (s.modFreight v ctx f).session v
    = { s.session v with freight := tset (s.session v).freight ctx (f (tget (s.session v).freight ctx)) } :=
  State.session_setSession_same _ _ _

/-- A command that changes a Freight context of its session is answered, the context changed. -/
theorem Takes.changesFreight (h : Takes q i s u) (hn : namedSession i = some v) (hw : (s.session v).works = true) {ctx : Nat}
    {f : FreightCtx → FreightCtx} (he : exec i s = .next (s.carry q i).bump) (hp : u.unfetched i = false)
    (hd : perform i (s.queueDie q) u = (u.modFreight v ctx f, some 0)) :
    ∃ t, exec i s = .next t ∧ Answered q 0 s t ∧
      tget (t.session v).freight ctx = f (tget (s.session v).freight ctx) := by
  refine h.answers (P := fun t => tget (t.session v).freight ctx = f (tget (s.session v).freight ctx)) he hp hd
    (State.queue_setSession_other _ _ _ _) (h.answerable hn ?_) ?_
  · rw [session_modFreight, h.session]
    exact Session.not_free_of_works hw
  · rw [State.session_bump, State.session_reply, session_modFreight, h.session, tget_tset_same]

/-- LAYOUT_PUT stores the record. -/
theorem layoutPut_stores {ctx n at1 : Nat} (h : Takes q (.layoutPut q v ctx n at1) s u) (hv : v ≤ 255) (hc : ctx ≤ 15)
    (hn : n ≤ 65535) (hw : (s.session v).works = true) :
    ∃ t, exec (.layoutPut q v ctx n at1) s = .next t ∧ Answered q 0 s t ∧
      ∀ k, tget (tget (t.session v).freight ctx).layouts k
        = if k = n then BitVec.ofNat 512 (leNat (readBytes s.hostMem at1 64))
          else tget (tget (s.session v).freight ctx).layouts k := by
  have hdo : doLayoutPut v ctx n at1 u = (u.modFreight v ctx (fun f => { f with
      layouts := tset f.layouts n (BitVec.ofNat 512 (leNat (u.hostBytes at1 64))) }), some 0) := by
    unfold doLayoutPut
    rw [if_neg (by omega), h.session, hw, if_neg (by simp)]
  obtain ⟨t, ht, done, hf⟩ := h.changesFreight rfl hw rfl rfl hdo
  refine ⟨t, ht, done, fun k => ?_⟩
  rw [hf, tget_tset, State.hostBytes, h.hostMem]

/-- LAYOUT_PUT with reset lets a HALTED context go on. -/
theorem layoutPutReset_runs {ctx : Nat} (h : Takes q (.layoutPutReset q v ctx) s u) (hv : v ≤ 255) (hc : ctx ≤ 15)
    (hw : (s.session v).works = true) (hh : (tget (s.session v).freight ctx).halted = true) :
    ∃ t, exec (.layoutPutReset q v ctx) s = .next t ∧ Answered q 0 s t ∧
      tget (t.session v).freight ctx = { tget (s.session v).freight ctx with
        halted := false, accepted := (tget (s.session v).freight ctx).counter.toNat } := by
  have hdo : doLayoutReset v ctx u = (u.modFreight v ctx (fun f =>
      if f.halted then { f with halted := false, accepted := f.counter.toNat } else f), some 0) := by
    unfold doLayoutReset
    rw [if_neg (by omega), h.session, hw, if_neg (by simp)]
  obtain ⟨t, ht, done, hf⟩ := h.changesFreight rfl hw rfl rfl hdo
  exact ⟨t, ht, done, by rw [hf, if_pos hh]⟩

/-! ## What the Signal box writes to the host (R384, R385, R391) -/

/-- A command that writes a run of bytes to the host is answered, and the bytes are there where the completion ring is
apart from them; no other byte changes, of the host's memory outside that ring or of the part's. -/
theorem Takes.writesHost (h : Takes q i s u) {a : State} {at1 : Nat} {bs : List Byte}
    (he : exec i s = .next (s.carry q i).bump) (hp : u.unfetched i = false) (hd : perform i (s.queueDie q) u = (a, some 0))
    (hq : a.queue q = u.queue q)
    (hm : a.hostMem = writeBytes u.hostMem at1 bs) (hmem : a.mem = u.mem) (hf : 256 ≤ q ∨ (a.session q).state ≠ .free) :
    ∃ t, exec i s = .next t ∧ Answered q 0 s t ∧ (∀ k, k < 2 ^ 40 → t.byte k = s.byte k) ∧ t.dies = a.dies ∧
      (∀ k, k < at1 ∨ at1 + bs.length ≤ k →
        (k < (s.queue q).cqBase.toNat ∨ (s.queue q).cqBase.toNat + 16 * 2 ^ (s.queue q).qk ≤ k) →
        tget t.hostMem k = tget s.hostMem k) ∧
      ((∀ k, k < 16 * 2 ^ (s.queue q).qk →
          (s.queue q).cqBase.toNat + k < at1 ∨ at1 + bs.length ≤ (s.queue q).cqBase.toNat + k) →
        readBytes t.hostMem at1 bs.length = bs) := by
  generalize hr : a.reply q ((s.queue q).sqHead.setWidth 16) 0 0 = r
  have hrmem : r.mem = s.mem := by rw [← hr, State.mem_reply, hmem, h.mem]
  have hrdies : r.dies = a.dies := by rw [← hr, State.dies_reply]
  obtain ⟨t, ht, done, rfl⟩ := h.answers (P := fun t => t = r.bump) he hp hd hq hf (by rw [hr])
  refine ⟨_, ht, done, fun k hk => State.byte_of_mem ?_ hk, ?_, fun k hk hring => ?_, fun hring => ?_⟩
  · exact hrmem
  · exact hrdies
  · rw [← hr]; exact h.host_other hq hm hk hring _ _
  · rw [← hr]; exact h.host_read hq hm hring _ _

/-- ATTEST of a session that is not FREE writes a token. -/
theorem attest_writes {nonce : BitVec 256} {at1 : Nat} (h : Takes q (.attest q (some v) nonce at1) s u) (hv : v ≤ 255)
    (hf : (s.session v).state ≠ .free) :
    ∃ t, exec (.attest q (some v) nonce at1) s = .next t ∧ Answered q 0 s t ∧ (∀ k, k < 2 ^ 40 → t.byte k = s.byte k) ∧
      let bytes := u.token (some v) nonce (s.queueDie q)
      (∀ k, k < 16 * 2 ^ (s.queue q).qk →
        (s.queue q).cqBase.toNat + k < at1 ∨ at1 + bytes.length ≤ (s.queue q).cqBase.toNat + k) →
      readBytes t.hostMem at1 bytes.length = bytes := by
  have hdo : doAttest (some v) nonce at1 (s.queueDie q) u
      = (u.putHost at1 (u.token (some v) nonce (s.queueDie q)), some 0) := by
    unfold doAttest
    simp only [h.session, hf, if_false, if_true, if_neg (show ¬ 255 < v by omega)]
  generalize u.token (some v) nonce (s.queueDie q) = bs at hdo ⊢
  generalize ha : u.putHost at1 bs = a at hdo
  have hsess : a.session v = s.session v := by rw [← h.session, ← ha]; rfl
  obtain ⟨t, ht, done, hmem, -, -, hread⟩ := h.writesHost (at1 := at1) (bs := bs) rfl rfl hdo
    (by rw [← ha]; rfl) (by rw [← ha]; rfl) (by rw [← ha]; rfl) (h.answerable rfl (by rw [hsess]; exact hf))
  exact ⟨t, ht, done, hmem, hread⟩

/-- CAPS_READ writes as much of the capability list as fits, to its buffer and the completion ring alone. -/
theorem capsRead_writes {at1 len : Nat} (h : Takes q (.capsRead q at1 len) s u) :
    ∃ t, exec (.capsRead q at1 len) s = .next t ∧ Answered q 0 s t ∧ (∀ k, k < 2 ^ 40 → t.byte k = s.byte k) ∧
      (∀ k, k < at1 ∨ at1 + len ≤ k →
        (k < (s.queue q).cqBase.toNat ∨ (s.queue q).cqBase.toNat + 16 * 2 ^ (s.queue q).qk ≤ k) →
        tget t.hostMem k = tget s.hostMem k) ∧
      ((∀ k, k < 16 * 2 ^ (s.queue q).qk →
          (s.queue q).cqBase.toNat + k < at1 ∨ at1 + len ≤ (s.queue q).cqBase.toNat + k) →
        let bytes := (u.capList (s.queueDie q)).take len
        readBytes t.hostMem at1 bytes.length = bytes) := by
  have hlen : ((u.capList (s.queueDie q)).take len).length ≤ len := List.length_take_le _ _
  have hdo : doCapsRead at1 len (s.queueDie q) u = (u.putHost at1 ((u.capList (s.queueDie q)).take len), some 0) := rfl
  generalize (u.capList (s.queueDie q)).take len = bs at hdo hlen ⊢
  generalize ha : u.putHost at1 bs = a at hdo
  have hsess : a.session q = s.session q := by rw [← h.session, ← ha]; rfl
  obtain ⟨t, ht, done, hmem, -, hother, hread⟩ := h.writesHost (at1 := at1) (bs := bs) rfl rfl hdo (by rw [← ha]; rfl)
    (by rw [← ha]; rfl) (by rw [← ha]; rfl) (by rw [hsess]; exact h.there)
  exact ⟨t, ht, done, hmem, fun k hk => hother k (hk.imp_right (by omega)),
    fun hr => hread (fun k hk => (hr k hk).imp_right (by omega))⟩

/-- RAS_LOG writes the die's log, and clears it when it is told to. -/
theorem rasLog_writes {at1 len : Nat} {clear : Bool} (h : Takes q (.rasLog q at1 len clear) s u) (hq : 256 ≤ q) :
    ∃ t, exec (.rasLog q at1 len clear) s = .next t ∧ Answered q 0 s t ∧
      (t.die (s.queueDie q)).log = (if clear then [] else (s.die (s.queueDie q)).log) ∧
      ((∀ k, k < 16 * 2 ^ (s.queue q).qk →
          (s.queue q).cqBase.toNat + k < at1 ∨ at1 + len ≤ (s.queue q).cqBase.toNat + k) →
        let bytes := (((s.die (s.queueDie q)).log.flatMap (fun r => leBytes 32 r.toNat)).take len)
        readBytes t.hostMem at1 bytes.length = bytes) := by
  generalize hd : s.queueDie q = d
  have hlen : (((s.die d).log.flatMap (fun r => leBytes 32 r.toNat)).take len).length ≤ len := List.length_take_le _ _
  generalize hb : ((s.die d).log.flatMap (fun r => leBytes 32 r.toNat)).take len = bs at hlen ⊢
  obtain ⟨a, hdo, hqueue, hhost, hmem, hlog⟩ : ∃ a, doRasLog at1 len clear d u = (a, some 0) ∧ a.queue q = u.queue q ∧
      a.hostMem = writeBytes u.hostMem at1 bs ∧ a.mem = u.mem ∧ (a.die d).log = if clear then [] else (s.die d).log := by
    refine ⟨_, rfl, ?_⟩
    rw [h.die, hb]
    cases clear with
    | true => exact ⟨rfl, rfl, rfl, by rw [if_pos rfl, State.die_setDie, if_pos rfl]; rfl⟩
    | false => exact ⟨rfl, rfl, rfl, congrArg Die.log (h.die d)⟩
  obtain ⟨t, ht, done, -, hdies, -, hread⟩ := h.writesHost rfl rfl (by rw [hd]; exact hdo) hqueue hhost hmem (.inl hq)
  refine ⟨t, ht, done, ?_, fun hr => hread (fun k hk => (hr k hk).imp_right (by omega))⟩
  rw [← hlog]
  simp only [State.die, hdies]

end WorkCommands

end Sys2Proof.Machine

/-!
SUBMIT (R271 to R281) and STREAM_SET (R303 to R306): a launch is accepted and a band program starts without a change to the
queues, to the sessions' states or to the other streams.
-/

namespace Sys2Proof.Machine

open Sys2Proof

/-! ## A launch's join record (R279) -/

theorem Got.bind_eq_val {α β : Type} {g : Got α} {f : α → State → Got β} {b : β} {t : State} (h : g.bind f = .val b t) :
    ∃ a u, g = .val a u ∧ f a u = .val b t := by
  cases g with
  | val a u => exact ⟨a, u, rfl, h⟩
  | out e => cases h

/-- R195: pieces of virtual memory that are reached through the page tables alone stand at machine addresses. -/
theorem reach_mem {who : Asker} {k : AccKind} (ps : List Piece) (hps : ∀ p ∈ ps, p.spot = .late none) {s t : State}
    {out : List Piece} (h : reach who k false 0 ps s = .val out t) : ∀ p ∈ out, ∃ a, p.spot = .mem a := by
  induction ps generalizing s t out with
  | nil => cases h; simp
  | cons p ps ih =>
    obtain ⟨hp, hps⟩ := List.forall_mem_cons.mp hps
    simp only [reach, hp, show (0 : Nat) ≠ 2 by decide, if_false, Bool.false_eq_true] at h
    split at h
    · cases h
    · split at h
      next a w _ =>
        split at h
        · cases h
        · obtain ⟨l, x, hl, e⟩ := Got.bind_eq_val h
          cases e
          exact List.forall_mem_cons.mpr ⟨⟨a, rfl⟩, ih hps hl⟩
      next =>
        split at h
        · cases h
        · split at h <;> cases h

theorem pieces_mem {e : Issuer} {k : AccKind} {va n : Nat} {s t : State} {ps : List Piece}
    (h : e.pieces k va n s = .val ps t) :
    ∀ p ∈ ps, ∃ a, p.spot = .mem a := by
  unfold Issuer.pieces at h
  split at h
  · cases h
  · refine reach_mem _ (fun p hp => ?_) h
    obtain ⟨c, -, rfl⟩ := List.mem_map.mp hp
    rfl

theorem arming_mem {e : Issuer} {record : Nat} {s t : State} {a : Arming} (h : e.arming record s = .val (some a) t) :
    ∀ p ∈ a.spot, ∃ m, p.spot = .mem m := by
  unfold Issuer.arming at h
  split at h
  · cases h
  · obtain ⟨x, u, -, h⟩ := Got.bind_eq_val h
    dsimp only at h
    split at h
    · cases h
    · split at h
      · cases h
      · split at h
        · cases h
        · split at h
          · cases h
          · obtain ⟨y, u, -, h⟩ := Got.bind_eq_val h
            obtain ⟨ps, u, hps, h⟩ := Got.bind_eq_val h
            cases h
            exact pieces_mem hps

/-- The control word of the record that a planned launch arms is in memory. -/
theorem plan_arm_mem {e : Issuer} {w : BitVec 256} {rank at1 : Nat} {s t : State} {p : Plan} {a : Arming}
    (h : e.plan w rank at1 s = .val p t) (ha : p.arm = some a) : ∀ q ∈ a.spot, ∃ m, q.spot = .mem m := by
  unfold Issuer.plan at h
  split at h
  · cases h
  · obtain ⟨y, u, -, h⟩ := Got.bind_eq_val h
    obtain ⟨b, u, hb, h⟩ := Got.bind_eq_val h
    cases h
    subst ha
    exact arming_mem hb

/-! ## A launch that is accepted (R276, R279, R282) -/

/-- Two states have the same queues, and a session in both has the same state and launches. -/
structure State.SameLaunches (v : Nat) (s t : State) : Prop where
  queues : t.queues = s.queues
  state : (t.session v).state = (s.session v).state
  launches : (t.session v).launches = (s.session v).launches

theorem State.SameLaunches.trans {v : Nat} {s t u : State} (h : s.SameLaunches v t) (k : t.SameLaunches v u) :
    s.SameLaunches v u := ⟨k.queues.trans h.queues, k.state.trans h.state, k.launches.trans h.launches⟩

theorem State.SameBooks.sameLaunches {s t : State} (h : s.SameBooks t) (v : Nat) : s.SameLaunches v t :=
  ⟨h.queues, by rw [h.session], by rw [h.session]⟩

theorem sameLaunches_modSession (s : State) (v : Nat) (f : Session → Session) (hs : ∀ x, (f x).state = x.state)
    (hl : ∀ x, (f x).launches = x.launches) : s.SameLaunches v (s.modSession v f) :=
  ⟨rfl, by rw [State.session_modSession_same, hs], by rw [State.session_modSession_same, hl]⟩

theorem sameLaunches_raiseLevels (s : State) (v : Nat) (g : Nat × Nat × Nat) (n : Nat) :
    s.SameLaunches v (s.raiseLevels v g n) := sameLaunches_modSession s v _ (fun _ => rfl) (fun _ => rfl)

theorem sameLaunches_pushSiding (s : State) (v r : Nat) (w : Queued) : s.SameLaunches v (s.pushSiding v r w) :=
  sameLaunches_modSession s v _ (fun _ => rfl) (fun _ => rfl)

/-- Arming a record that is in memory changes memory. -/
theorem sameBooks_armPieces (l : List Piece) (hl : ∀ p ∈ l, ∃ m, p.spot = .mem m) (c : Nat) (s : State) :
    s.SameBooks (l.foldl (fun (s : State) (p : Piece) => p.write s 0 (c / 2 ^ (8 * p.pos))) s) := by
  induction l generalizing s with
  | nil => exact .refl s
  | cons p l ih =>
    obtain ⟨⟨m, hm⟩, hl⟩ := List.forall_mem_cons.mp hl
    refine State.SameBooks.trans ?_ (ih hl _)
    unfold Piece.write
    simp only [hm, show (0 : Nat) ≠ 2 by decide, false_and, if_false]
    exact sameBooks_write _ _ _ _

/-- A launch that is accepted has its count and header in its slot; queues and the session's state stay. -/
theorem acceptLaunch_slot (s : State) (v : Nat) (p : Plan) (slot : Nat) (r : Option Nat) (sup : Bool) (clk : Clock)
    (hp : ∀ a, p.arm = some a → ∀ q ∈ a.spot, ∃ m, q.spot = .mem m) :
    (s.acceptLaunch v p slot r sup clk).queues = s.queues ∧
      ((s.acceptLaunch v p slot r sup clk).session v).state = (s.session v).state ∧
      (tget ((s.acceptLaunch v p slot r sup clk).session v).launches slot).count = BitVec.ofNat 64 (wbCount p.wb) ∧
      (tget ((s.acceptLaunch v p slot r sup clk).session v).launches slot).header = p.hdr.bits := by
  obtain ⟨l, u, hu, hcount, hheader, hsame⟩ : ∃ (l : Launch) (u : State),
      u = ({ s with nextUid := s.nextUid + 1 } : State).modSession v (fun x => { x with launches := tset x.launches slot l }) ∧
      l.count = BitVec.ofNat 64 (wbCount p.wb) ∧ l.header = p.hdr.bits ∧
      u.SameLaunches v (s.acceptLaunch v p slot r sup clk) := by
    refine ⟨?_, _, rfl, ?count, ?header, ?same⟩
    case same =>
      unfold State.acceptLaunch
      refine .trans ?_ (sameLaunches_pushSiding _ v _ _)
      split
      · exact sameLaunches_raiseLevels _ v _ _
      next a ha =>
        dsimp only
        refine .trans ?_ (sameLaunches_raiseLevels _ v a.levels 1)
        refine .trans ?_ (sameLaunches_modSession _ v (fun x => { x with holds := tput (wbJoinp p.wb) a.levels x.holds })
          (fun _ => rfl) (fun _ => rfl))
        refine .trans ?_ ((sameBooks_armPieces a.spot (hp a ha) a.ctl _).sameLaunches v)
        exact sameLaunches_raiseLevels _ v _ _
    all_goals rfl
  obtain ⟨hq, hs, hl⟩ := hsame
  rw [hq, hs, hl, hu]
  simp only [State.session_modSession_same, tget_tset_same, hcount, hheader]
  exact ⟨rfl, rfl, trivial, trivial⟩

section Submit

variable {q v at1 rank : Nat} {sup : Bool} {s u w : State} {p : Plan}

/-- With a slot free in the siding, a launch of the host takes an unreserved one (R274). -/
theorem sidingSpace_of_free (h : w.sidingFree v rank ≠ 0) : w.sidingSpace v rank none = some none := by
  unfold State.sidingSpace
  rw [if_pos h]

theorem sidingSpace_of_full (h : w.sidingFree v rank = 0) : w.sidingSpace v rank none = none := by
  unfold State.sidingSpace
  rw [if_neg (by simp [h])]

/-- SUBMIT of a launch that passes its checks accepts it in the slots that are free. -/
theorem submit_accepts (h : Takes q (.submit q v at1 rank sup) s u) (hv : v ≤ 255) (hr : rank ≤ 15) (ha : at1 % 32 = 0)
    (hw : (s.session v).works = true)
    (hp : (u.hostIssuer v rank sup).plan (BitVec.ofNat 256 (leNat (readBytes u.hostMem at1 32))) rank 0 u = .val p w)
    (hq : w.queues = u.queues) (hst : (w.session v).state = (s.session v).state) {slot : Nat}
    (hslot : w.freeLaunch v = some slot) (hfree : w.sidingFree v rank ≠ 0) :
    ∃ t, exec (.submit q v at1 rank sup) s = .next t ∧ Answered q 0 s t ∧
      (tget (t.session v).launches slot).count = BitVec.ofNat 64 (wbCount p.wb) ∧
      (tget (t.session v).launches slot).header = p.hdr.bits := by
  have hdo : doSubmit v at1 rank sup u = (w.acceptLaunch v p slot none sup [], some 0) := by
    unfold doSubmit
    simp only [if_neg (show ¬ (255 < v ∨ 15 < rank ∨ at1 % 32 ≠ 0) by omega), h.session, hw, Bool.not_true,
      Bool.false_eq_true, if_false, State.hostBytes, hp, hslot, sidingSpace_of_free hfree]
  obtain ⟨hqueues, hstate, hcount, hheader⟩ := acceptLaunch_slot w v p slot none sup []
    (fun a harm => plan_arm_mem hp harm)
  generalize w.acceptLaunch v p slot none sup [] = a at hdo hqueues hstate hcount hheader
  refine h.answers (P := fun t => (tget (t.session v).launches slot).count = _ ∧ (tget (t.session v).launches slot).header = _)
    rfl rfl hdo (by rw [State.queue, hqueues, hq]; rfl) (h.answerable rfl ?_) ?_
  · rw [hstate, hst]
    exact Session.not_free_of_works hw
  · rw [State.session_bump, State.session_reply]
    exact ⟨hcount, hheader⟩

/-- SUBMIT of a launch with no slot free waits, or is refused in maintenance mode. -/
theorem submit_full (h : Takes q (.submit q v at1 rank sup) s u) (hv : v ≤ 255) (hr : rank ≤ 15) (ha : at1 % 32 = 0)
    (hw : (s.session v).works = true)
    (hp : (u.hostIssuer v rank sup).plan (BitVec.ofNat 256 (leNat (readBytes u.hostMem at1 32))) rank 0 u = .val p w)
    (hq : w.queues = u.queues) (hst : (w.session v).state = (s.session v).state)
    (hm : (w.session v).maintenance = (s.session v).maintenance) (hc : w.commands = u.commands)
    (hfull : w.freeLaunch v = none ∨ w.sidingFree v rank = 0) :
    ((s.session v).maintenance = false → ∃ t, exec (.submit q v at1 rank sup) s = .next t ∧
        Held q (.submit q v at1 rank sup) s t) ∧
      ((s.session v).maintenance = true → ∃ t, exec (.submit q v at1 rank sup) s = .next t ∧ Answered q 3 s t) := by
  have hdo : doSubmit v at1 rank sup u = if (s.session v).maintenance then (w, some 3) else (w, none) := by
    unfold doSubmit
    simp only [if_neg (show ¬ (255 < v ∨ 15 < rank ∨ at1 % 32 ≠ 0) by omega), h.session, hw, Bool.not_true,
      Bool.false_eq_true, if_false, State.hostBytes, hp, ← hm]
    rcases hfull with hl | hs
    · rw [hl]
    · rw [sidingSpace_of_full hs]
      cases w.freeLaunch v <;> rfl
  have hqueue : w.queue q = u.queue q := by rw [State.queue, hq]; rfl
  refine ⟨fun hmain => ?_, fun hmain => ?_⟩
  · obtain ⟨t, ht, held, -⟩ := h.waits (P := fun _ => True) rfl rfl (hdo.trans (by rw [hmain]; rfl)) hqueue hc trivial
    exact ⟨t, ht, held⟩
  · obtain ⟨t, ht, done, -⟩ := h.answers (P := fun _ => True) rfl rfl (hdo.trans (by rw [hmain]; rfl)) hqueue
      (h.answerable rfl (by rw [hst]; exact Session.not_free_of_works hw)) trivial
    exact ⟨t, ht, done⟩

end Submit

end Sys2Proof.Machine

/-!
STREAM_SET (R303 to R306): a band program starts with its stream LIVE, and a stream is told to stop.
-/

namespace Sys2Proof.Machine

open Sys2Proof

/-! ## The start of a convoy (R272) -/

/-- What threads learn of each other is kept apart from sessions, queues and dies. -/
theorem learnAll_keeps (s : State) (uid : Nat) (st : Strm) (l : List Nat) (c : Clock) :
    (s.learnAll uid st l c).sessions = s.sessions ∧ (s.learnAll uid st l c).queues = s.queues ∧
      (s.learnAll uid st l c).dies = s.dies := by
  unfold State.learnAll
  induction l generalizing s with
  | nil => exact ⟨rfl, rfl, rfl⟩
  | cons n l ih =>
    obtain ⟨h1, h2, h3⟩ := ih (s.learn (laneThread uid n st) c)
    have hl : (s.learn (laneThread uid n st) c).sessions = s.sessions ∧ (s.learn (laneThread uid n st) c).queues = s.queues ∧
        (s.learn (laneThread uid n st) c).dies = s.dies := by
      unfold State.learn State.learnFor
      split <;> exact ⟨rfl, rfl, rfl⟩
    exact ⟨h1.trans hl.1, h2.trans hl.2.1, h3.trans hl.2.2⟩

/-- A convoy that starts leaves sessions, queues and dies alone. -/
theorem startConvoy_keeps (s : State) (x : Start) (core conv : Nat) (keys : List Nat) (train member : Nat) (tk : List Nat) :
    (s.startConvoy x core conv keys train member tk).sessions = s.sessions ∧
      (s.startConvoy x core conv keys train member tk).queues = s.queues ∧
      (s.startConvoy x core conv keys train member tk).dies = s.dies := by
  unfold State.startConvoy
  dsimp only
  generalize hu : s.setConvoy conv _ = u
  have hs : u.sessions = s.sessions ∧ u.queues = s.queues ∧ u.dies = s.dies := by rw [← hu]; exact ⟨rfl, rfl, rfl⟩
  rw [← hs.1, ← hs.2.1, ← hs.2.2]
  clear hu hs
  generalize (List.range keys.length).zip keys = l
  induction l generalizing u with
  | nil => exact ⟨rfl, rfl, rfl⟩
  | cons e l ih =>
    rw [List.foldl_cons]
    obtain ⟨h1, h2, h3⟩ := ih _
    rw [h1, h2, h3]
    obtain ⟨k1, k2, k3⟩ := learnAll_keeps _ _ .c (List.range 32) x.clk
    rw [k1, k2, k3]
    obtain ⟨k1, k2, k3⟩ := learnAll_keeps _ _ .a (List.range 32) x.clk
    rw [k1, k2, k3]
    exact ⟨rfl, rfl, rfl⟩

/-! ## Streams -/

theorem stream_setStream_same (s : State) (d n : Nat) (x : Stream) : (s.setStream d n x).stream d n = x := by
  unfold State.stream State.setStream
  rw [State.die_setDie, if_pos rfl, tget_tset_same]

/-- A stream of a session on its home die is the one the session means by its number. -/
theorem ownStream_home {s : State} {v n : Nat} (hn : n ≤ 15) (hst : (s.stream (s.session v).home n).state ≠ 0)
    (hv : (s.stream (s.session v).home n).sess = v) :
    s.ownStream v n = some ((s.session v).home, s.stream (s.session v).home n) := by
  have hfind : (s.streamsOf v).find? (fun e => e.2 == n) = some ((s.session v).home, n) := by
    unfold State.streamsOf State.homeFirst
    dsimp only
    rw [List.flatMap_cons, List.find?_append]
    generalize hl : ((List.range 16).filter (fun k => (tget (s.die (s.session v).home).streams k).state != 0 &&
      (tget (s.die (s.session v).home).streams k).sess == v)).map (fun k => ((s.session v).home, k)) = l
    have hmem : ((s.session v).home, n) ∈ l := by
      rw [← hl]
      refine List.mem_map.mpr ⟨n, List.mem_filter.mpr ⟨List.mem_range.mpr (by omega), ?_⟩, rfl⟩
      simp only [State.stream] at hst hv
      simp [hst, hv]
    obtain ⟨e, he⟩ := Option.isSome_iff_exists.mp (List.find?_isSome (p := fun e => e.2 == n).mpr
      ⟨_, hmem, beq_self_eq_true n⟩)
    rw [he, Option.some_or]
    have h2 : e.2 = n := by simpa using List.find?_some he
    have h1 := List.mem_of_find?_eq_some he
    rw [← hl] at h1
    obtain ⟨k, -, rfl⟩ := List.mem_map.mp h1
    rw [← h2]
  unfold State.ownStream
  rw [hfind]
  rfl

/-- R303, R305: a band program whose header is good, with a quadrant and an allotment to spare, starts; `go` makes its
stream LIVE. -/
theorem startBand_starts {s w : State} {v d n header : Nat} {frame : DWord} {go : Nat → State → State} {h : Header}
    (hh : (s.hostIssuer v 0 true).header (mkWaybill header frame 0 1 0) 2 0 s = .val h w) (ha : header % 128 = 0)
    (hb : header < 2 ^ 60) (hband : bandHeader h.bits = true)
    (hc : ∀ e ∈ w.consistsOn (256 + 8 * d + n / 2), quadOf e.1 ≠ n % 2) (hfit : w.allotmentFits d h.bits = true) :
    ∃ a, s.startBand v d n header frame go = (a, some 0) ∧
      a.sessions = (go w.nextUid { w with nextUid := w.nextUid + 1 }).sessions ∧
      a.queues = (go w.nextUid { w with nextUid := w.nextUid + 1 }).queues ∧
      a.dies = (go w.nextUid { w with nextUid := w.nextUid + 1 }).dies := by
  have hany : (w.consistsOn (256 + 8 * d + n / 2)).any (fun e => quadOf e.1 == n % 2) = false := by
    rw [List.any_eq_false]
    exact fun e he => by simpa using hc e he
  have hhdr : ¬ (header % 128 ≠ 0 ∨ 2 ^ 60 ≤ header ∨ bandHeader h.bits = false) := by
    simp only [ha, hband, Bool.true_eq_false, or_false, ne_eq, not_true_eq_false, false_or, not_le]
    exact hb
  unfold State.startBand
  simp only [hh, if_neg hhdr, hany, hfit, Bool.false_eq_true, if_false, Bool.not_true]
  exact ⟨_, rfl, startConvoy_keeps _ _ _ _ _ _ _ _⟩

section StreamSet

variable {q v : Nat} {i : Instr} {s u w : State}

/-- A command that starts a band program is answered, and its stream is as `x` says. -/
theorem Takes.startsBand (h : Takes q i s u) (hn : namedSession i = some v) {d n header : Nat} {frame : DWord}
    {go : Nat → State → State} {hd : Header} {x : Nat → Stream} (he : exec i s = .next (s.carry q i).bump)
    (hp : u.unfetched i = false) (hdo : perform i (s.queueDie q) u = u.startBand v d n header frame go)
    (hgo : ∀ c, go c { w with nextUid := w.nextUid + 1 } = ({ w with nextUid := w.nextUid + 1 } : State).setStream d n (x c))
    (hh : (u.hostIssuer v 0 true).header (mkWaybill header frame 0 1 0) 2 0 u = .val hd w) (hq : w.queues = u.queues)
    (hst : (w.session v).state ≠ .free) (ha : header % 128 = 0) (hb : header < 2 ^ 60) (hband : bandHeader hd.bits = true)
    (hc : ∀ e ∈ w.consistsOn (256 + 8 * d + n / 2), quadOf e.1 ≠ n % 2) (hfit : w.allotmentFits d hd.bits = true) :
    ∃ t c, exec i s = .next t ∧ Answered q 0 s t ∧ t.stream d n = x c := by
  obtain ⟨a, hstart, hsessions, hqueues, hdies⟩ := startBand_starts (go := go) hh ha hb hband hc hfit
  rw [hgo] at hsessions hqueues hdies
  have hstream : a.stream d n = x w.nextUid := by
    rw [← stream_setStream_same { w with nextUid := w.nextUid + 1 } d n (x w.nextUid)]
    simp only [State.stream, State.die, hdies]
  have hsess : (a.session v).state ≠ .free := by rw [State.session, hsessions]; exact hst
  obtain ⟨t, ht, done, hx⟩ := h.answers (P := fun t => t.stream d n = x w.nextUid) he hp (hdo.trans hstart)
    (by rw [State.queue, hqueues]; exact congrArg (fun l => tget l q) hq) (h.answerable hn hsess)
    (by rw [State.stream_bump, State.stream_reply, hstream])
  exact ⟨t, _, ht, done, hx⟩

/-- The stream that STREAM_SET with start makes of its operands (R305, R306). -/
def newStream (o : StreamOps) (conv : Nat) : Stream :=
  { (default : Stream) with
    state := 1, sess := o.sess, convoy := conv, hact := o.hact, vact := o.vact, vtot := o.vtot, lper := o.lper,
    lead := o.lead, depth := o.depth, hist := o.hist, mfld := o.mfld, bsBase := o.bsBase, bsSize := o.bsSize,
    fill := 0x380038000000#48, wph := 0x3F800000#32, enc := 0x3FC00#64, page := o.page }

/-- STREAM_SET with start starts a stream that is OFF. -/
theorem streamSetStart_starts {o : StreamOps} {hd : Header} (h : Takes q (.streamSetStart q o) s u) (hv : o.sess ≤ 255)
    (hval : streamOpsValid o = true) (hw : (s.session o.sess).works = true)
    (hoff : (s.stream (s.session o.sess).home o.stream).state = 0)
    (hh : (u.hostIssuer o.sess 0 true).header (mkWaybill o.header o.frame 0 1 0) 2 0 u = .val hd w) (hq : w.queues = u.queues)
    (hst : (w.session o.sess).state = (s.session o.sess).state) (ha : o.header % 128 = 0) (hb : o.header < 2 ^ 60)
    (hband : bandHeader hd.bits = true)
    (hc : ∀ e ∈ w.consistsOn (256 + 8 * (s.session o.sess).home + o.stream / 2), quadOf e.1 ≠ o.stream % 2)
    (hfit : w.allotmentFits (s.session o.sess).home hd.bits = true) :
    ∃ t c, exec (.streamSetStart q o) s = .next t ∧ Answered q 0 s t ∧
      t.stream (s.session o.sess).home o.stream = newStream o c := by
  refine h.startsBand (go := fun conv s' => s'.setStream (s.session o.sess).home o.stream (newStream o conv))
    rfl rfl rfl ?_ (fun _ => rfl) hh hq ?_ ha hb hband hc hfit
  · show doStreamStart o u = _
    unfold doStreamStart
    simp only [h.session, h.stream, hval, hw, hoff, if_neg (show ¬ (255 < o.sess ∨ true = false) by simp; omega),
      Bool.not_true, Bool.false_eq_true, if_false, bne_self_eq_false, newStream]
  · rw [hst]
    exact Session.not_free_of_works hw

/-- STREAM_SET with stop tells a stream to stop after the frame in progress. -/
theorem streamSetStop_stops {n : Nat} (h : Takes q (.streamSetStop q v n) s u) (hv : v ≤ 255) (hn : n ≤ 15)
    (hon : (s.stream (s.session v).home n).state ≠ 0) (hs : (s.stream (s.session v).home n).sess = v)
    (hstop : (s.stream (s.session v).home n).stopAt = none) :
    ∃ t, exec (.streamSetStop q v n) s = .next t ∧ Held q (.streamSetStop q v n) s t ∧
      t.stream (s.session v).home n = { s.stream (s.session v).home n with
        stopAt := some (s.stream (s.session v).home n).lastOfFrame } := by
  have hown : u.ownStream v n = some ((s.session v).home, s.stream (s.session v).home n) := by
    rw [ownStream_home hn, h.session, h.stream]
    · rw [h.session, h.stream]; exact hon
    · rw [h.session, h.stream]; exact hs
  have hdo : doStreamStop v n u = (u.setStream (s.session v).home n { s.stream (s.session v).home n with
      stopAt := some (s.stream (s.session v).home n).lastOfFrame }, none) := by
    unfold doStreamStop
    rw [if_neg (by omega), hown]
    simp only [State.modStream, h.stream, hstop, Option.isSome_none, Bool.false_eq_true, if_false]
  exact h.waits (P := fun t => t.stream _ _ = _) rfl rfl hdo rfl rfl
    (by rw [State.stream_bump, State.stream_await, stream_setStream_same])

/-- STREAM_SET with restart starts the band program of an ORPHAN stream again. -/
theorem streamSetRestart_starts {n at1 : Nat} {frame : DWord} {hd : Header}
    (h : Takes q (.streamSetRestart q v n at1 frame) s u) (hv : v ≤ 255) (hn : n ≤ 15)
    (hf : (s.session v).state ≠ .free) (hon : (s.stream (s.session v).home n).state = 2)
    (hs : (s.stream (s.session v).home n).sess = v)
    (hh : (u.hostIssuer v 0 true).header (mkWaybill at1 frame 0 1 0) 2 0 u = .val hd w) (hq : w.queues = u.queues)
    (hstream : w.stream (s.session v).home n = s.stream (s.session v).home n)
    (hst : (w.session v).state = (s.session v).state) (ha : at1 % 128 = 0) (hb : at1 < 2 ^ 60)
    (hband : bandHeader hd.bits = true)
    (hc : ∀ e ∈ w.consistsOn (256 + 8 * (s.session v).home + n / 2), quadOf e.1 ≠ n % 2)
    (hfit : w.allotmentFits (s.session v).home hd.bits = true) :
    ∃ t c, exec (.streamSetRestart q v n at1 frame) s = .next t ∧ Answered q 0 s t ∧
      t.stream (s.session v).home n = { s.stream (s.session v).home n with state := 1, convoy := c } := by
  have hown : u.ownStream v n = some ((s.session v).home, s.stream (s.session v).home n) := by
    rw [ownStream_home hn, h.session, h.stream]
    · rw [h.session, h.stream, hon]; decide
    · rw [h.session, h.stream]; exact hs
  refine h.startsBand (go := fun conv s' => s'.modStream (s.session v).home n (fun t => { t with state := 1, convoy := conv }))
    (x := fun c => { s.stream (s.session v).home n with state := 1, convoy := c })
    rfl rfl rfl ?_ (fun c => ?_) hh hq (by rw [hst]; exact hf) ha hb hband hc hfit
  · show doStreamRestart v n at1 frame u = _
    unfold doStreamRestart
    rw [if_neg (by omega), hown]
    simp only [hon, ne_eq, not_true_eq_false, if_false]
  · have hx : ({ w with nextUid := w.nextUid + 1 } : State).stream (s.session v).home n
        = s.stream (s.session v).home n := hstream
    rw [State.modStream, hx]

end StreamSet

/-- The commands about keys, layouts, launches, streams and the host have their effect (the second part of O54). -/
theorem workCommandsComplete : WorkCommandsComplete := by
  intro s u q v hv
  refine ⟨fun slot die blob h hq hd hs hk hi => keyLoad_loads h hq hd hs hk hi,
    fun slot die h _ hd hs hk => keyDrop_revokes h hd hs hk,
    fun ctx n at1 h hc hn hw => layoutPut_stores h hv hc hn hw,
    fun ctx h hc hw hh => layoutPutReset_runs h hv hc hw hh,
    fun at1 rank sup p w h hr ha hw hp hq hst hm hcmd => ⟨fun slot hl hf => submit_accepts h hv hr ha hw hp hq hst hl hf,
      fun hfull => submit_full h hv hr ha hw hp hq hst hm hcmd hfull⟩,
    ?start, ?stop, ?restart,
    fun nonce at1 h hf => attest_writes h hv hf, ?caps, ?capsRead,
    fun at1 len clear h hq => rasLog_writes h hq⟩
  case start =>
    rintro o hd w h rfl hval hw hoff hh hq hst ha hb hband hc hfit
    obtain ⟨t, c, ht, done, hx⟩ := streamSetStart_starts h hv hval hw hoff hh hq hst ha hb hband hc hfit
    refine ⟨t, ht, done, ?_⟩
    rw [hx]
    exact ⟨rfl, rfl⟩
  case stop =>
    rintro n d h hn rfl hon hs hstop
    exact streamSetStop_stops h hv hn hon hs hstop
  case restart =>
    rintro n d at1 frame hd w h hn rfl hf hon hs hh hq hstream hst ha hb hband hc hfit
    exact streamSetRestart_starts h hv hn hf hon hs hh hq hstream hst ha hb hband hc hfit
  case caps =>
    intro at1 len h
    obtain ⟨t, ht, done, hmem, hother, -⟩ := capsRead_writes h
    exact ⟨t, ht, done, hmem, hother⟩
  case capsRead =>
    intro at1 len h hr
    obtain ⟨t, ht, -, -, -, hread⟩ := capsRead_writes h
    exact ⟨t, ht, hread hr⟩

/-- Settles O54: what each command does is the effect that its clause names, and its record or its place among the commands
in progress follows from how the queue carries it out. -/
theorem commandsComplete : Obligations.CommandsComplete := ⟨sessionCommandsComplete, workCommandsComplete⟩

end Sys2Proof.Machine

/-!
Instruction words (R26, R27, R49): decoding the word of an instruction gives the instruction back, and a word that
decodes is the word of its instruction. The second holds major by major: a word is the
pack of its fields, and a row of the decoder's table answers its instruction only where the fields that the row fixes
hold what the encoder puts there.
-/

namespace Sys2Proof.Laws.Encode

open Sys2Proof

/-! ## A word is its fields (R26) -/

theorem packReg_eq_iff (w : Word) (m d a b : BitVec 7) (x : BitVec 1) (f : BitVec 3) : packReg m d a b x f = w ↔
    fld w 25 7 = m ∧ fld w 18 7 = d ∧ fld w 11 7 = a ∧ fld w 4 7 = b ∧ fld w 3 1 = x ∧ fld w 0 3 = f := by
  constructor
  · rintro rfl
    exact ⟨packReg_maj .., packReg_d .., packReg_a .., packReg_b .., packReg_w .., packReg_f ..⟩
  · rintro ⟨rfl, rfl, rfl, rfl, rfl, rfl⟩
    simp (disch := rfl) only [packReg, fld, BitVec.extractLsb'_append_extractLsb'_eq_extractLsb']
    exact ext_all w

theorem packAcc_eq_iff (w : Word) (m d a b : BitVec 7) (c : BitVec 3) (x : BitVec 1) : packAcc m d a b c x = w ↔
    fld w 25 7 = m ∧ fld w 18 7 = d ∧ fld w 11 7 = a ∧ fld w 4 7 = b ∧ fld w 1 3 = c ∧ fld w 0 1 = x := by
  constructor
  · rintro rfl
    exact ⟨packAcc_maj .., packAcc_d .., packAcc_a .., packAcc_b .., packAcc_c .., packAcc_w ..⟩
  · rintro ⟨rfl, rfl, rfl, rfl, rfl, rfl⟩
    simp (disch := rfl) only [packAcc, fld, BitVec.extractLsb'_append_extractLsb'_eq_extractLsb']
    exact ext_all w

theorem packImm_eq_iff (w : Word) (m d a : BitVec 7) (x : BitVec 1) (n : BitVec 10) : packImm m d a x n = w ↔
    fld w 25 7 = m ∧ fld w 18 7 = d ∧ fld w 11 7 = a ∧ fld w 10 1 = x ∧ fld w 0 10 = n := by
  constructor
  · rintro rfl
    exact ⟨packImm_maj .., packImm_d .., packImm_a .., packImm_w .., packImm_n ..⟩
  · rintro ⟨rfl, rfl, rfl, rfl, rfl⟩
    simp (disch := rfl) only [packImm, fld, BitVec.extractLsb'_append_extractLsb'_eq_extractLsb']
    exact ext_all w

theorem packBrn_eq_iff (w : Word) (m : BitVec 7) (p : BitVec 3) (x : BitVec 1) (d : BitVec 21) : packBrn m p x d = w ↔
    fld w 25 7 = m ∧ fld w 22 3 = p ∧ fld w 21 1 = x ∧ fld w 0 21 = d := by
  constructor
  · rintro rfl
    exact ⟨packBrn_maj .., packBrn_p .., packBrn_x .., packBrn_d ..⟩
  · rintro ⟨rfl, rfl, rfl, rfl⟩
    simp (disch := rfl) only [packBrn, fld, BitVec.extractLsb'_append_extractLsb'_eq_extractLsb']
    exact ext_all w

theorem packMem_eq_iff (w : Word) (m v a : BitVec 7) (h : BitVec 6) (o : BitVec 2) (f : BitVec 3) :
    packMem m v a h o f = w ↔
      fld w 25 7 = m ∧ fld w 18 7 = v ∧ fld w 11 7 = a ∧ fld w 5 6 = h ∧ fld w 3 2 = o ∧ fld w 0 3 = f := by
  constructor
  · rintro rfl
    exact ⟨packMem_maj .., packMem_v .., packMem_a .., packMem_h .., packMem_o .., packMem_f ..⟩
  · rintro ⟨rfl, rfl, rfl, rfl, rfl, rfl⟩
    simp (disch := rfl) only [packMem, fld, BitVec.extractLsb'_append_extractLsb'_eq_extractLsb']
    exact ext_all w

theorem packFen_eq_iff (w : Word) (m : BitVec 7) (p x : BitVec 8) (c : BitVec 4) : packFen m p x c = w ↔
    fld w 25 7 = m ∧ fld w 17 8 = p ∧ fld w 9 8 = x ∧ fld w 5 4 = c ∧ fld w 0 5 = 0#5 := by
  constructor
  · rintro rfl
    exact ⟨packFen_maj .., packFen_p .., packFen_x .., packFen_c .., packFen_fixed0 ..⟩
  · rintro ⟨rfl, rfl, rfl, rfl, h0⟩
    rw [packFen, ← h0]
    simp (disch := rfl) only [fld, BitVec.extractLsb'_append_extractLsb'_eq_extractLsb']
    exact ext_all w

theorem packTil_eq_iff (w : Word) (m : BitVec 7) (t : BitVec 5) (a b : BitVec 7) (x : BitVec 2) (z : BitVec 1)
    (f : BitVec 3) : packTil m t a b x z f = w ↔ fld w 25 7 = m ∧ fld w 20 5 = t ∧ fld w 13 7 = a ∧ fld w 6 7 = b ∧
      fld w 4 2 = x ∧ fld w 3 1 = z ∧ fld w 0 3 = f := by
  constructor
  · rintro rfl
    exact ⟨packTil_maj .., packTil_t .., packTil_a .., packTil_b .., packTil_x .., packTil_z .., packTil_f ..⟩
  · rintro ⟨rfl, rfl, rfl, rfl, rfl, rfl, rfl⟩
    simp (disch := rfl) only [packTil, fld, BitVec.extractLsb'_append_extractLsb'_eq_extractLsb']
    exact ext_all w

theorem packCpy_eq_iff (w : Word) (m : BitVec 7) (k : BitVec 3) (a b : BitVec 7) (f : BitVec 3) :
    packCpy m k a b f = w ↔
      fld w 25 7 = m ∧ fld w 22 3 = k ∧ fld w 15 7 = a ∧ fld w 8 7 = b ∧ fld w 3 5 = 0#5 ∧ fld w 0 3 = f := by
  constructor
  · rintro rfl
    exact ⟨packCpy_maj .., packCpy_k .., packCpy_a .., packCpy_b .., packCpy_fixed3 .., packCpy_f ..⟩
  · rintro ⟨rfl, rfl, rfl, rfl, h0, rfl⟩
    rw [packCpy, ← h0]
    simp (disch := rfl) only [fld, BitVec.extractLsb'_append_extractLsb'_eq_extractLsb']
    exact ext_all w

theorem packHnt_eq_iff (w : Word) (k : BitVec 3) (n : BitVec 22) : packHnt k n = w ↔
    fld w 25 7 = 0x7F#7 ∧ fld w 22 3 = k ∧ fld w 0 22 = n := by
  constructor
  · rintro rfl
    exact ⟨packHnt_fixed25 .., packHnt_k .., packHnt_n ..⟩
  · rintro ⟨hm, rfl, rfl⟩
    rw [packHnt, ← hm]
    simp (disch := rfl) only [fld, BitVec.extractLsb'_append_extractLsb'_eq_extractLsb']
    exact ext_all w

/-- A field is the two parts it is cut into. -/
theorem fld_split (w : Word) (lo m k : Nat) : fld w lo (m + k) = fld w (lo + k) m ++ fld w lo k :=
  (BitVec.extractLsb'_append_extractLsb'_eq_extractLsb' rfl).symm

/-! ## What a decoder answers has the word -/

/-- A word's major, from its number. -/
theorem major_of_toNat {w : Word} {n : Nat} (h : (fld w 25 7).toNat = n) : fld w 25 7 = BitVec.ofNat 7 n := by
  rw [← h, BitVec.ofNat_toNat, BitVec.setWidth_eq]

/-- Whatever instruction a decoder answers for a word has that word. -/
def Encodes (w : Word) (d : Decoded) : Prop := ∀ i, d = .ok i → encode i = some w

theorem encodes_ok (w : Word) (i : Instr) : Encodes w (.ok i) ↔ encode i = some w := by
  simp [Encodes]

theorem encodes_illop (w : Word) : Encodes w .illop := by simp [Encodes]

/-- A row with fixed fields answers its instruction only where they hold what they must. -/
theorem encodes_fixedFields (w : Word) (zeros : Bool) (zs : List (Bool × Nat)) (i : Instr) :
    Encodes w (fixedFields zeros zs i) ↔ (zeros = true → (∀ z ∈ zs, z.1 = true) → encode i = some w) := by
  unfold fixedFields Encodes
  cases zeros with
  | false => simp
  | true =>
    cases h : zs.find? (fun z => !z.1) with
    | none =>
      have hz : ∀ z ∈ zs, z.1 = true := by simpa using h
      simp only [if_true, Decoded.ok.injEq, forall_eq', true_implies]
      exact ⟨fun he _ => he, fun he => he hz⟩
    | some z =>
      have hz : ¬ ∀ z ∈ zs, z.1 = true := fun a => by
        simpa [a z (List.mem_of_find?_eq_some h)] using List.find?_some h
      simp only [if_true, reduceCtorEq, hz, false_implies, implies_true]

/-- A subfunction field of three bits holds one of eight codes. -/
theorem threeBits {P : BitVec 3 → Prop} (h0 : P 0#3) (h1 : P 1#3) (h2 : P 2#3) (h3 : P 3#3) (h4 : P 4#3) (h5 : P 5#3)
    (h6 : P 6#3) (h7 : P 7#3) (f : BitVec 3) : P f := by
  obtain ⟨⟨n, hn⟩⟩ := f
  interval_cases n <;> assumption

/-- A subfunction field of two bits holds one of four codes. -/
theorem twoBits {P : BitVec 2 → Prop} (h0 : P 0#2) (h1 : P 1#2) (h2 : P 2#2) (h3 : P 3#2) (f : BitVec 2) : P f := by
  obtain ⟨⟨n, hn⟩⟩ := f
  interval_cases n <;> assumption

/-! ## The majors (R26, R49) -/

/-- The majors whose words are one instruction each. -/
noncomputable def plainMajors : List (Nat × (Word → Decoded)) :=
  [ (0x02, decode02), (0x04, decode04), (0x05, decode05), (0x06, decode06), (0x0A, decode0A), (0x0C, decode0C),
    (0x0E, decode0E), (0x0F, decode0F), (0x11, decode11), (0x19, decode19), (0x1A, decode1A), (0x1B, decode1B),
    (0x1C, decode1C), (0x20, decode20), (0x21, decode21), (0x23, decode23), (0x24, decode24), (0x30, decode30),
    (0x32, decode32), (0x37, decode37), (0x39, decode39), (0x50, decode50), (0x51, decode51) ]

/-- The majors with a subfunction in bits 2 to 0. -/
noncomputable def subMajors : List (Nat × (Word → Decoded)) :=
  [ (0x01, decode01), (0x03, decode03), (0x07, decode07), (0x09, decode09), (0x0B, decode0B), (0x10, decode10),
    (0x12, decode12), (0x13, decode13), (0x14, decode14), (0x15, decode15), (0x18, decode18), (0x1E, decode1E),
    (0x1F, decode1F), (0x22, decode22), (0x25, decode25), (0x26, decode26), (0x27, decode27), (0x28, decode28),
    (0x29, decode29), (0x2A, decode2A), (0x31, decode31), (0x33, decode33), (0x34, decode34), (0x35, decode35),
    (0x36, decode36), (0x38, decode38), (0x3A, decode3A), (0x40, decode40), (0x41, decode41), (0x42, decode42),
    (0x43, decode43), (0x44, decode44), (0x45, decode45), (0x46, decode46), (0x48, decode48), (0x49, decode49),
    (0x52, decode52), (0x53, decode53), (0x54, decode54), (0x56, decode56), (0x58, decode58), (0x60, decode60),
    (0x61, decode61), (0x62, decode62) ]

/-- The row's fields are all the fields of the word. -/
theorem encodes_plainMajors (w : Word) : ∀ e ∈ plainMajors, (fld w 25 7).toNat = e.1 → Encodes w (e.2 w) := by
  intro e he hm
  replace hm := major_of_toNat hm
  fin_cases he
  all_goals
    simp only [encodes_ok, encodes_fixedFields,
      decode02, decode04, decode05, decode06, decode0A, decode0C, decode0E, decode0F, decode11, decode19, decode1A,
      decode1B, decode1C, decode20, decode21, decode23, decode24, decode30, decode32, decode37, decode39, decode50,
      decode51] at hm ⊢
    intros
    refine congrArg some ?_
    simp_all [packReg_eq_iff, packAcc_eq_iff, packImm_eq_iff, packBrn_eq_iff, packFen_eq_iff, packTil_eq_iff]

/-- Each code of the subfunction is a row, whose fields are the other fields of the word, or none. -/
theorem encodes_subMajors (w : Word) : ∀ e ∈ subMajors, (fld w 25 7).toNat = e.1 → Encodes w (e.2 w) := by
  intro e he hm
  replace hm := major_of_toNat hm
  fin_cases he
  all_goals
    simp only at hm ⊢
    induction hf : fld w 0 3 using threeBits
  all_goals
    simp only [hf, BitVec.toNat_ofNat, Nat.reducePow, Nat.reduceMod, encodes_ok, encodes_illop, encodes_fixedFields,
      decode01, decode03, decode07, decode09, decode0B, decode10, decode12, decode13, decode14, decode15, decode18,
      decode1E, decode1F, decode22, decode25, decode26, decode27, decode28, decode29, decode2A, decode31, decode33,
      decode34, decode35, decode36, decode38, decode3A, decode40, decode41, decode42, decode43, decode44, decode45,
      decode46, decode48, decode49, decode52, decode53, decode54, decode56, decode58, decode60, decode61, decode62]
  all_goals
    intros
    refine congrArg some ?_
    simp_all [packReg_eq_iff, packMem_eq_iff, packTil_eq_iff, packCpy_eq_iff]

/-- Immediate shifts cut the immediate into the shift's kind, two zero bits and the count. -/
theorem encodes_decode08 {w : Word} (hm : (fld w 25 7).toNat = 0x08) : Encodes w (decode08 w) := by
  have hm := major_of_toNat hm
  have hn : fld w 0 10 = fld w 8 2 ++ fld w 6 2 ++ fld w 0 6 := by rw [← fld_split w 6 2 2, ← fld_split w 0 4 6]
  induction hf : fld w 8 2 using twoBits
  all_goals
    simp only [decode08, hf, BitVec.toNat_ofNat, Nat.reducePow, Nat.reduceMod, encodes_fixedFields]
    intros
    refine congrArg some ?_
    simp_all [packImm_eq_iff]

theorem encodes_decode0D {w : Word} (hm : (fld w 25 7).toNat = 0x0D) : Encodes w (decode0D w) := by
  have hm := major_of_toNat hm
  have hn : fld w 0 10 = fld w 7 3 ++ fld w 0 7 := fld_split w 0 3 7
  rw [decode0D, encodes_fixedFields]
  intros
  refine congrArg some ?_
  simp_all [packImm_eq_iff]

theorem encodes_decode16 {w : Word} (hm : (fld w 25 7).toNat = 0x16) : Encodes w (decode16 w) := by
  have hm := major_of_toNat hm
  have hn : fld w 0 10 = fld w 3 7 ++ fld w 0 3 := fld_split w 0 7 3
  rw [decode16, encodes_fixedFields]
  intros
  refine congrArg some ?_
  simp_all [packImm_eq_iff]

theorem encodes_decode2B {w : Word} (hm : (fld w 25 7).toNat = 0x2B) : Encodes w (decode2B w) := by
  have hm := major_of_toNat hm
  have hn : fld w 0 10 = fld w 5 5 ++ fld w 4 1 ++ fld w 1 3 ++ fld w 0 1 := by
    rw [← fld_split w 4 5 1, ← fld_split w 1 6 3, ← fld_split w 0 9 1]
  rw [decode2B, encodes_fixedFields]
  intros
  refine congrArg some ?_
  simp_all [packImm_eq_iff]

/-- The token waits cut the immediate into the wait's kind and the mask. -/
theorem encodes_decode3B {w : Word} (hm : (fld w 25 7).toNat = 0x3B) : Encodes w (decode3B w) := by
  have hm := major_of_toNat hm
  have hn : fld w 0 10 = fld w 8 2 ++ fld w 0 8 := fld_split w 0 2 8
  induction hf : fld w 8 2 using twoBits
  all_goals
    simp only [decode3B, hf, BitVec.toNat_ofNat, Nat.reducePow, Nat.reduceMod, encodes_illop, encodes_fixedFields]
  all_goals
    intros
    refine congrArg some ?_
    simp_all [packImm_eq_iff]

/-- The word of a hint, from its kind and its payload (R40). -/
theorem hint_word {w : Word} {i : Instr} {k : BitVec 3} {n : BitVec 22} (hi : encode i = some (packHnt k n))
    (hm : fld w 25 7 = 0x7F#7) (hk : fld w 22 3 = k) (hn : fld w 0 22 = n) : encode i = some w :=
  hi.trans (congrArg some ((packHnt_eq_iff ..).mpr ⟨hm, hk, hn⟩))

theorem encodes_decode7F {w : Word} (hm : (fld w 25 7).toNat = 0x7F) : Encodes w (decode7F w) := by
  have hm := major_of_toNat hm
  unfold decode7F
  induction hk : fld w 22 3 using threeBits
  all_goals
    simp only [BitVec.toNat_ofNat, Nat.reducePow, Nat.reduceMod, encodes_ok, encodes_illop, encodes_fixedFields,
      beq_iff_eq]
  case h0 => exact hint_word rfl hm hk rfl
  case h1 =>
    intro (hz : fld w 0 14 = 0#14) _
    refine hint_word rfl hm hk ?_
    rw [← hz, ← fld_split w 18 3 1, ← fld_split w 14 4 4]; exact fld_split w 0 8 14
  case h2 =>
    intro (hz : fld w 4 18 = 0#18) _
    refine hint_word rfl hm hk ?_
    rw [← hz]; exact fld_split w 0 18 4
  case h3 =>
    intro (hz : fld w 0 16 = 0#16) _
    refine hint_word rfl hm hk ?_
    rw [← hz, ← fld_split w 16 4 2]; exact fld_split w 0 6 16
  case h4 =>
    intro (hz : fld w 0 19 = 0#19) _
    refine hint_word rfl hm hk ?_
    rw [← hz]; exact fld_split w 0 3 19
  case h5 =>
    intro (hz : fld w 0 15 = 0#15) _
    refine hint_word rfl hm hk ?_
    rw [← hz, ← fld_split w 18 2 2, ← fld_split w 17 4 1, ← fld_split w 16 5 1, ← fld_split w 15 6 1]
    exact fld_split w 0 7 15
  case h6 =>
    intro (hz : fld w 0 15 = 0#15) _
    refine hint_word rfl hm hk ?_
    rw [← hz, ← fld_split w 15 6 1]; exact fld_split w 0 7 15

/-- The majors whose words cut the immediate, and the hints' major. -/
noncomputable def cutMajors : List (Nat × (Word → Decoded)) :=
  [ (0x08, decode08), (0x0D, decode0D), (0x16, decode16), (0x2B, decode2B), (0x3B, decode3B), (0x7F, decode7F) ]

theorem encodes_cutMajors (w : Word) : ∀ e ∈ cutMajors, (fld w 25 7).toNat = e.1 → Encodes w (e.2 w) := by
  simp only [cutMajors, List.forall_mem_cons, List.not_mem_nil, false_implies, implies_true, and_true]
  exact ⟨encodes_decode08, encodes_decode0D, encodes_decode16, encodes_decode2B, encodes_decode3B, encodes_decode7F⟩

theorem mem_of_lookup {V : Type} {n : Nat} {v : V} {l : List (Nat × V)} (h : l.lookup n = some v) : (n, v) ∈ l := by
  obtain ⟨l₁, l₂, rfl, -⟩ := List.lookup_eq_some_iff.mp h
  exact List.mem_append_right l₁ List.mem_cons_self

/-- The decoder refuses a word, or reads it by its major's table. -/
theorem decode_cases (w : Word) : decode w = .illop ∨
    ∃ n table, (n, table) ∈ plainMajors ++ subMajors ++ cutMajors ∧ (fld w 25 7).toNat = n ∧ decode w = table w := by
  unfold decode
  split
  case h_74 => exact .inl rfl
  all_goals
    refine .inr ⟨_, _, ?_, ‹(fld w 25 7).toNat = _›, rfl⟩
    exact mem_of_lookup rfl

/-- Whatever the decoder answers for a word has that word. -/
theorem encodes_decode (w : Word) : Encodes w (decode w) := by
  obtain h | ⟨n, table, hmem, hm, h⟩ := decode_cases w
  · rw [h]; exact encodes_illop w
  · rw [h]
    simp only [List.mem_append] at hmem
    obtain (hmem | hmem) | hmem := hmem
    · exact encodes_plainMajors w _ hmem hm
    · exact encodes_subMajors w _ hmem hm
    · exact encodes_cutMajors w _ hmem hm

/-- Settles O2: the word is read by its major's table, which answers no instruction that has another word. -/
theorem decodedWordsEncode : Obligations.DecodedWordsEncode := encodes_decode

/-! ## The word of an instruction decodes -/

/-- Settles O1, by the round trip of each instruction that has a word; an event has none. -/
theorem encodedInstructionsDecode : Obligations.EncodedInstructionsDecode := by
  intro i
  cases i with
  | iadd => apply RoundTrip.iadd | isub => apply RoundTrip.isub | imin => apply RoundTrip.imin
  | imax => apply RoundTrip.imax | umin => apply RoundTrip.umin | umax => apply RoundTrip.umax
  | iabsd => apply RoundTrip.iabsd | iaddi => apply RoundTrip.iaddi | and => apply RoundTrip.and
  | or => apply RoundTrip.or | xor => apply RoundTrip.xor | andn => apply RoundTrip.andn | not => apply RoundTrip.not
  | andi => apply RoundTrip.andi | ori => apply RoundTrip.ori | xori => apply RoundTrip.xori
  | shl => apply RoundTrip.shl | shr => apply RoundTrip.shr | sar => apply RoundTrip.sar | ror => apply RoundTrip.ror
  | bfe => apply RoundTrip.bfe | bfi => apply RoundTrip.bfi | shli => apply RoundTrip.shli
  | shri => apply RoundTrip.shri | sari => apply RoundTrip.sari | rori => apply RoundTrip.rori
  | imul => apply RoundTrip.imul | imulh => apply RoundTrip.imulh | umulh => apply RoundTrip.umulh
  | idiv => apply RoundTrip.idiv | udiv => apply RoundTrip.udiv | irem => apply RoundTrip.irem
  | urem => apply RoundTrip.urem | imad => apply RoundTrip.imad | popc => apply RoundTrip.popc
  | clz => apply RoundTrip.clz | ctz => apply RoundTrip.ctz | brev => apply RoundTrip.brev
  | bswap => apply RoundTrip.bswap | sext8 => apply RoundTrip.sext8 | sext16 => apply RoundTrip.sext16
  | icmp => apply RoundTrip.icmp | icmpi => apply RoundTrip.icmpi | movi => apply RoundTrip.movi
  | sel => apply RoundTrip.sel | pand => apply RoundTrip.pand | por => apply RoundTrip.por
  | pxor => apply RoundTrip.pxor | pandn => apply RoundTrip.pandn | pmov => apply RoundTrip.pmov
  | pnz => apply RoundTrip.pnz | ptoi => apply RoundTrip.ptoi | lea => apply RoundTrip.lea
  | shfli => apply RoundTrip.shfli | shflu => apply RoundTrip.shflu | shfld => apply RoundTrip.shfld
  | shflx => apply RoundTrip.shflx | swapp => apply RoundTrip.swapp | bcast => apply RoundTrip.bcast
  | vany => apply RoundTrip.vany | vall => apply RoundTrip.vall | vbal => apply RoundTrip.vbal
  | matchLanes => apply RoundTrip.matchLanes | rdadd => apply RoundTrip.rdadd | rdmin => apply RoundTrip.rdmin
  | rdmax => apply RoundTrip.rdmax | rdand => apply RoundTrip.rdand | rdor => apply RoundTrip.rdor
  | rdxor => apply RoundTrip.rdxor | rdfadd => apply RoundTrip.rdfadd | rdfmax => apply RoundTrip.rdfmax
  | scadd => apply RoundTrip.scadd | scfadd => apply RoundTrip.scfadd | rake => apply RoundTrip.rake
  | fadd => apply RoundTrip.fadd | fsub => apply RoundTrip.fsub | fmul => apply RoundTrip.fmul
  | fdiv => apply RoundTrip.fdiv | fmin => apply RoundTrip.fmin | fmax => apply RoundTrip.fmax
  | fcpsgn => apply RoundTrip.fcpsgn | ffma => apply RoundTrip.ffma | ffms => apply RoundTrip.ffms
  | fcmp => apply RoundTrip.fcmp | faddi => apply RoundTrip.faddi | frndn => apply RoundTrip.frndn
  | frndz => apply RoundTrip.frndz | frndu => apply RoundTrip.frndu | frndd => apply RoundTrip.frndd
  | ffrac => apply RoundTrip.ffrac | fabs => apply RoundTrip.fabs | fneg => apply RoundTrip.fneg
  | fclass => apply RoundTrip.fclass | hadd2 => apply RoundTrip.hadd2 | hmul2 => apply RoundTrip.hmul2
  | badd2 => apply RoundTrip.badd2 | bmul2 => apply RoundTrip.bmul2 | hfma2 => apply RoundTrip.hfma2
  | bfma2 => apply RoundTrip.bfma2 | dadd => apply RoundTrip.dadd | dsub => apply RoundTrip.dsub
  | dmul => apply RoundTrip.dmul | ddiv => apply RoundTrip.ddiv | dsqrt => apply RoundTrip.dsqrt
  | dfma => apply RoundTrip.dfma | dcmp => apply RoundTrip.dcmp | rcp => apply RoundTrip.rcp
  | rsq => apply RoundTrip.rsq | sqrt => apply RoundTrip.sqrt | ex2 => apply RoundTrip.ex2
  | lg2 => apply RoundTrip.lg2 | sint => apply RoundTrip.sint | cost => apply RoundTrip.cost
  | tanh => apply RoundTrip.tanh | itof => apply RoundTrip.itof | utof => apply RoundTrip.utof
  | ftoi => apply RoundTrip.ftoi | ftou => apply RoundTrip.ftou | ftod => apply RoundTrip.ftod
  | dtof => apply RoundTrip.dtof | itod => apply RoundTrip.itod | dtoi => apply RoundTrip.dtoi
  | ftoh2 => apply RoundTrip.ftoh2 | htofl => apply RoundTrip.htofl | htofh => apply RoundTrip.htofh
  | ftob2 => apply RoundTrip.ftob2 | btofl => apply RoundTrip.btofl | btofh => apply RoundTrip.btofh
  | x8e4 => apply RoundTrip.x8e4 | x8e5 => apply RoundTrip.x8e5 | x6a => apply RoundTrip.x6a
  | x6b => apply RoundTrip.x6b | xi4o => apply RoundTrip.xi4o | xi8 => apply RoundTrip.xi8
  | p8e4 => apply RoundTrip.p8e4 | p8e5 => apply RoundTrip.p8e5 | p6a => apply RoundTrip.p6a
  | p6b => apply RoundTrip.p6b | pi4o => apply RoundTrip.pi4o | pi8 => apply RoundTrip.pi8
  | rmake => apply RoundTrip.rmake | rnum => apply RoundTrip.rnum | rden => apply RoundTrip.rden
  | rmed => apply RoundTrip.rmed | rgcd => apply RoundTrip.rgcd | rflr => apply RoundTrip.rflr
  | rtof => apply RoundTrip.rtof | ftor => apply RoundTrip.ftor | rmode => apply RoundTrip.rmode
  | bra => apply RoundTrip.bra | call => apply RoundTrip.call | brx => apply RoundTrip.brx
  | callx => apply RoundTrip.callx | ret => apply RoundTrip.ret | exit => apply RoundTrip.exit
  | yield => apply RoundTrip.yield | nop => apply RoundTrip.nop | barinit => apply RoundTrip.barinit
  | bararr => apply RoundTrip.bararr | barwait => apply RoundTrip.barwait | bararw => apply RoundTrip.bararw
  | bartest => apply RoundTrip.bartest | bardrop => apply RoundTrip.bardrop | barinv => apply RoundTrip.barinv
  | barph => apply RoundTrip.barph | fence => apply RoundTrip.fence | tlwait => apply RoundTrip.tlwait
  | tlread => apply RoundTrip.tlread | tlpoll => apply RoundTrip.tlpoll | tlsig => apply RoundTrip.tlsig
  | tkwait => apply RoundTrip.tkwait | tkany => apply RoundTrip.tkany | tktest => apply RoundTrip.tktest
  | ld8 => apply RoundTrip.ld8 | ld8s => apply RoundTrip.ld8s | ld16 => apply RoundTrip.ld16
  | ld16s => apply RoundTrip.ld16s | ld32 => apply RoundTrip.ld32 | ld64 => apply RoundTrip.ld64
  | ld128 => apply RoundTrip.ld128 | ldnt => apply RoundTrip.ldnt | st8 => apply RoundTrip.st8
  | st16 => apply RoundTrip.st16 | st32 => apply RoundTrip.st32 | st64 => apply RoundTrip.st64
  | st128 => apply RoundTrip.st128 | stnt => apply RoundTrip.stnt | aadd => apply RoundTrip.aadd
  | amin => apply RoundTrip.amin | amax => apply RoundTrip.amax | aumin => apply RoundTrip.aumin
  | aand => apply RoundTrip.aand | aor => apply RoundTrip.aor | axor => apply RoundTrip.axor
  | axch => apply RoundTrip.axch | aadd64 => apply RoundTrip.aadd64 | amin64 => apply RoundTrip.amin64
  | amax64 => apply RoundTrip.amax64 | aand64 => apply RoundTrip.aand64 | aor64 => apply RoundTrip.aor64
  | axor64 => apply RoundTrip.axor64 | axch64 => apply RoundTrip.axch64 | afadd => apply RoundTrip.afadd
  | cas32 => apply RoundTrip.cas32 | cas64 => apply RoundTrip.cas64 | redadd => apply RoundTrip.redadd
  | redmin => apply RoundTrip.redmin | redmax => apply RoundTrip.redmax | redand => apply RoundTrip.redand
  | redor => apply RoundTrip.redor | redxor => apply RoundTrip.redxor | redfadd => apply RoundTrip.redfadd
  | redbfadd => apply RoundTrip.redbfadd | sbind => apply RoundTrip.sbind | sflush => apply RoundTrip.sflush
  | sdrop => apply RoundTrip.sdrop | pref => apply RoundTrip.pref | cflush => apply RoundTrip.cflush
  | texs => apply RoundTrip.texs | texl => apply RoundTrip.texl | texg => apply RoundTrip.texg
  | texq => apply RoundTrip.texq | rbegin => apply RoundTrip.rbegin | rdraw => apply RoundTrip.rdraw
  | rflush => apply RoundTrip.rflush | mma => apply RoundTrip.mma | mmas => apply RoundTrip.mmas
  | mlda => apply RoundTrip.mlda | mldw => apply RoundTrip.mldw | macz => apply RoundTrip.macz
  | macld => apply RoundTrip.macld | macst => apply RoundTrip.macst | mrow => apply RoundTrip.mrow
  | msync => apply RoundTrip.msync | mcfg => apply RoundTrip.mcfg | mpop => apply RoundTrip.mpop
  | mpopb => apply RoundTrip.mpopb | frcopy => apply RoundTrip.frcopy | frfill => apply RoundTrip.frfill
  | frgath => apply RoundTrip.frgath | frscat => apply RoundTrip.frscat | frred => apply RoundTrip.frred
  | frpf => apply RoundTrip.frpf | spawn => apply RoundTrip.spawn | join => apply RoundTrip.join
  | enq => apply RoundTrip.enq | deq => apply RoundTrip.deq | launch => apply RoundTrip.launch
  | cancel => apply RoundTrip.cancel | cntrd => apply RoundTrip.cntrd | lwait => apply RoundTrip.lwait
  | lemit => apply RoundTrip.lemit | mesrch => apply RoundTrip.mesrch | warpb => apply RoundTrip.warpb
  | fbset => apply RoundTrip.fbset | tmstat => apply RoundTrip.tmstat | dlread => apply RoundTrip.dlread
  | trap => apply RoundTrip.trap | rdsr => apply RoundTrip.rdsr | wrsr => apply RoundTrip.wrsr
  | cyc => apply RoundTrip.cyc | eret => apply RoundTrip.eret | brk => apply RoundTrip.brk
  | scall => apply RoundTrip.scall | halt => apply RoundTrip.halt | mseal => apply RoundTrip.mseal
  | mharv => apply RoundTrip.mharv | mquery => apply RoundTrip.mquery | mretire => apply RoundTrip.mretire
  | tlbinv => apply RoundTrip.tlbinv | tlbinva => apply RoundTrip.tlbinva | hintConst => apply RoundTrip.hintConst
  | hintGuard => apply RoundTrip.hintGuard | hintHold => apply RoundTrip.hintHold
  | hintScope => apply RoundTrip.hintScope | hintRound => apply RoundTrip.hintRound
  | hintMod => apply RoundTrip.hintMod | hintSched => apply RoundTrip.hintSched
  | _ => exact nofun

/-- Settles O3: the encoder makes each of these words, so each decodes. -/
theorem specWordsDecode : Obligations.SpecWordsDecode := by
  intro e he
  refine encodedInstructionsDecode e.2 e.1 ?_
  revert e
  decide

end Sys2Proof.Laws.Encode

/-!
Bytes of machine memory (R58, R111, R331): what a write leaves there is what a read finds. A write also sets grants,
drops copies of lines and may set off an injector; none of the three changes a byte.
-/

namespace Sys2Proof.Machine

open Sys2Proof

/-! ## What changes no byte (R184, R360, R393) -/

theorem byte_fire (s : State) (d : Nat) (clean : Bool) (j : Nat) : (s.fire d clean).byte j = s.byte j := rfl

theorem byte_foldl {α : Type} {f : State → α → State} {j : Nat} (hf : ∀ s e, (f s e).byte j = s.byte j) (es : List α)
    (s : State) : (es.foldl f s).byte j = s.byte j := by
  induction es generalizing s with
  | nil => rfl
  | cons e es ih => rw [List.foldl_cons, ih, hf]

theorem byte_injectAt (s : State) (a n : Nat) (who : Option Nat) (j : Nat) :
    (s.injectAt a n who).byte j = s.byte j := by
  unfold State.injectAt
  refine byte_foldl (fun s d => ?_) _ _
  split
  · exact byte_fire s d false j
  · rfl

theorem byte_grantAt (s : State) (a n j : Nat) : (s.grantAt a n).byte j = s.byte j := by
  unfold State.grantAt
  dsimp only
  split <;> rfl

theorem byte_dropCopies (s : State) (a n : Nat) (who : Option Nat) (j : Nat) :
    (s.dropCopies a n who).byte j = s.byte j := rfl

/-- A write's bytes are those that it sets. -/
theorem byte_write (s : State) (a : Nat) (bs : List Byte) (who : Option Nat) (j : Nat) :
    (s.write a bs who).byte j = (s.setBytes a bs).byte j := by
  unfold State.write
  split
  next hbs => rw [hbs]; rfl
  next => rw [byte_injectAt, byte_dropCopies, byte_grantAt]

/-! ## Bytes of LP6 DRAM (R331) -/

/-- Bytes set below 2^40 are bytes of LP6 DRAM. -/
theorem setBytes_eq (bs : List Byte) (s : State) (a : Nat) (h : a + bs.length ≤ 2 ^ 40) :
    s.setBytes a bs = { s with mem := writeBytes s.mem a bs } := by
  induction bs generalizing s a with
  | nil => rfl
  | cons b bs ih =>
    rw [List.length_cons] at h
    rw [State.setBytes, ih _ _ (by omega), State.setByte, if_pos (by omega), writeBytes]

theorem byte_setBytes_other (bs : List Byte) (s : State) (a j : Nat) (h : a + bs.length ≤ 2 ^ 40)
    (hj : j < a ∨ a + bs.length ≤ j) : (s.setBytes a bs).byte j = s.byte j := by
  rw [setBytes_eq bs s a h]
  simp only [State.byte, tget_writeBytes_other bs s.mem a j hj]

theorem bytes_eq_readBytes (s : State) (a n : Nat) (h : a + n ≤ 2 ^ 40) : s.bytes a n = readBytes s.mem a n := by
  induction n generalizing a with
  | zero => rfl
  | succ n ih => rw [State.bytes, readBytes, ih (a + 1) (by omega), State.byte, if_pos (by omega)]

/-- What is read depends on the bytes read alone. -/
theorem bytes_congr {s t : State} (a n : Nat) (h : ∀ j, a ≤ j → j < a + n → t.byte j = s.byte j) :
    t.bytes a n = s.bytes a n := by
  induction n generalizing a with
  | zero => rfl
  | succ n ih =>
    rw [State.bytes, State.bytes, h a (Nat.le_refl a) (by omega), ih (a + 1) (fun j hj hn => h j (by omega) (by omega))]

theorem bytes_setBytes_same (bs : List Byte) (s : State) (a : Nat) (h : a + bs.length ≤ 2 ^ 40) :
    (s.setBytes a bs).bytes a bs.length = bs := by
  rw [bytes_eq_readBytes _ _ _ h, setBytes_eq bs s a h]
  exact readBytes_writeBytes bs s.mem a

theorem word_writeNat_same (s : State) (a n v : Nat) (h : a + n ≤ 2 ^ 40) :
    (s.writeNat a n v).word a n = v % 256 ^ n := by
  have hlen : a + (leBytes n v).length ≤ 2 ^ 40 := by rwa [leBytes_length]
  have hread : (s.writeNat a n v).bytes a n = leBytes n v := by
    calc (s.writeNat a n v).bytes a n = (s.setBytes a (leBytes n v)).bytes a n :=
          bytes_congr a n (fun j _ _ => byte_write s a (leBytes n v) none j)
      _ = leBytes n v := by simpa only [leBytes_length] using bytes_setBytes_same (leBytes n v) s a hlen
  rw [State.word, hread, leNat_leBytes]

theorem byte_writeNat_other (s : State) (a n v b : Nat) (h : a + n ≤ 2 ^ 40) (hb : b < a ∨ a + n ≤ b) :
    (s.writeNat a n v).byte b = s.byte b := by
  rw [State.writeNat, byte_write]
  exact byte_setBytes_other _ s a b (by rwa [leBytes_length]) (by rwa [leBytes_length])

/-- Settles O36: a write is a write of the bytes of its number in LP6 DRAM, and what else it does changes no byte. -/
theorem storedBytesAreRead : Obligations.StoredBytesAreRead := fun s a n v h =>
  ⟨word_writeNat_same s a n v h, fun b hb => byte_writeNat_other s a n v b h hb, fun b m hb =>
    congrArg leNat (bytes_congr b m (fun j _ _ => byte_writeNat_other s a n v j h (by omega)))⟩

end Sys2Proof.Machine

/-!
The front end's turn (R25, R28, R35, R84, R86): it fetches a word and runs what the word decodes to; the checks of a
word come in one order, and the first that applies is what the machine does.
-/

namespace Sys2Proof.Machine

open Sys2Proof

/-! ## The checks of R28, each by its condition -/

/-- Check 1 fails: the word is no instruction here, or a pending hint is misused. -/
def illopWord (w : Word) (o : OpInfo) (x : Ctx) : Bool :=
  wordAbsent (isLine x.key) w || o.illop || ownIllop w x || (!o.hint && hintMisused w x.c x.hints)

/-- The bit that stands for a stream among those a word is legal in (R49). -/
def streamBit : Strm → Nat
  | .c => 1
  | .a => 2

@[simp] theorem streamBit_c : streamBit .c = 1 := rfl
@[simp] theorem streamBit_a : streamBit .a = 2 := rfl
@[simp] theorem and_streamBit (st : Strm) : 3 &&& streamBit st = streamBit st := by cases st <;> rfl
@[simp] theorem streamBit_ne_zero (st : Strm) : streamBit st ≠ 0 := by cases st <;> decide

/-- Check 2 fails: the word is not legal in the stream. -/
def streamWord (w : Word) (x : Ctx) : Bool := decide (wordStreams w &&& streamBit x.st = 0)

/-- Check 3 fails: the level is below the word's. -/
def privWord (w : Word) (x : Ctx) : Bool := decide (x.c.level < wordLevel w) || ownPriv w x

section Checks

variable {w : Word} {o : OpInfo} {x : Ctx}

theorem illopWord_iff : illopWord w o x = true ↔
    (wordAbsent (isLine x.key) w = true ∨ o.illop = true ∨ ownIllop w x = true ∨
      (o.hint = false ∧ hintMisused w x.c x.hints = true)) := by
  simp only [illopWord, Bool.or_eq_true, Bool.and_eq_true, Bool.not_eq_true', or_assoc]

theorem privWord_iff : privWord w x = true ↔ (x.c.level < wordLevel w ∨ ownPriv w x = true) := by
  simp only [privWord, Bool.or_eq_true, decide_eq_true_eq]

variable (w o x) in
/-- The four checks, in their order. -/
theorem decodeCheck_eq : decodeCheck w o x =
    if illopWord w o x then some (.illop, decodeValue w 0)
    else if streamWord w x then some (.stream, decodeValue w 0)
    else if privWord w x then some (.priv, decodeValue w 0)
    else (badOperand o x).map (fun p => (.illopnd, decodeValue w p)) := by
  unfold decodeCheck illopWord streamWord privWord streamBit
  cases x.st <;> cases badOperand o x <;> simp only [decide_eq_true_eq, Option.map_some, Option.map_none]

theorem decodeCheck_illop (h : illopWord w o x = true) : decodeCheck w o x = some (.illop, decodeValue w 0) := by
  rw [decodeCheck_eq, if_pos h]

theorem decodeCheck_stream (hi : ¬ illopWord w o x = true) (h : streamWord w x = true) :
    decodeCheck w o x = some (.stream, decodeValue w 0) := by
  rw [decodeCheck_eq, if_neg hi, if_pos h]

theorem decodeCheck_priv (hi : ¬ illopWord w o x = true) (hs : ¬ streamWord w x = true) (h : privWord w x = true) :
    decodeCheck w o x = some (.priv, decodeValue w 0) := by
  rw [decodeCheck_eq, if_neg hi, if_neg hs, if_pos h]

/-- With the first three checks passed, the operands decide. -/
theorem decodeCheck_operands (hi : ¬ illopWord w o x = true) (hs : ¬ streamWord w x = true)
    (hp : ¬ privWord w x = true) :
    decodeCheck w o x = (badOperand o x).map (fun p => (.illopnd, decodeValue w p)) := by
  rw [decodeCheck_eq, if_neg hi, if_neg hs, if_neg hp]

/-! ## What comes after them (R35, R86, R138) -/

variable {s : State} (body : Ctx → State → Eff)

theorem issue_hazard (hx : findCtx s = some x) (hc : decodeCheck w o x = none) (hh : hazard o x = true) :
    issue w o body s = .next (stall x s) := by
  simp only [issue, hx, hc, hh, if_true]

theorem issue_latch (hx : findCtx s = some x) (hc : decodeCheck w o x = none) (hh : hazard o x = false) {n : Nat}
    (hn : invalidLatch o x = some n) : issue w o body s =
      .next (trapAt x o.hint .latch (BitVec.ofNat 64 (n + if x.st = .a then 8 else 0)) (switchIn x s)) := by
  simp only [issue, hx, hc, hh, hn, Bool.false_eq_true, if_false]
  cases x.st <;> rfl

theorem issue_queues (hx : findCtx s = some x) (hc : decodeCheck w o x = none) (hh : hazard o x = false)
    (hn : invalidLatch o x = none) (ha : x.act ≠ 0) (hr : readyLanes w o x = 0) :
    issue w o body s = .next (stall x (noteWants w o x x.act s)) := by
  simp only [issue, hx, hc, hh, hn, Bool.false_eq_true, if_false]
  rw [if_pos ⟨hr, ha⟩]

end Checks

/-- Settles O5: `decodeCheck_eq` and the three laws after it give one outcome each. -/
theorem checksComeInOrder : Obligations.ChecksComeInOrder := by
  intro w o body s x hx u illop elsewhere below
  have hillop : illop ↔ illopWord w o x = true := illopWord_iff.symm
  have hstream : elsewhere ↔ streamWord w x = true := by
    cases hst : x.st <;> simp only [elsewhere, streamWord, streamBit, hst, decide_eq_true_eq]
  have hpriv : below ↔ privWord w x = true := privWord_iff.symm
  rw [hillop, hstream, hpriv]
  refine ⟨fun h1 => issue_refused body hx (decodeCheck_illop h1),
    fun h1 h2 => issue_refused body hx (decodeCheck_stream h1 h2),
    fun h1 h2 h3 => issue_refused body hx (decodeCheck_priv h1 h2 h3),
    fun h1 h2 h3 => ⟨fun p hp => issue_refused body hx ?_, fun hp => ?_⟩⟩
  · rw [decodeCheck_operands h1 h2 h3, hp]
    rfl
  · have hc : decodeCheck w o x = none := by rw [decodeCheck_operands h1 h2 h3, hp]; rfl
    exact ⟨issue_hazard body hx hc, fun hh => ⟨fun n => issue_latch body hx hc hh, issue_queues body hx hc hh⟩⟩

/-! ## A turn (R25, R84, R338) -/

/-- A run's context is that of the consist and stream in focus. -/
theorem focus_of_findCtx {s : State} {x : Ctx} (h : findCtx s = some x) : s.focus = (x.key, x.st) := by
  unfold findCtx at h
  dsimp only at h
  split at h
  · contradiction
  · split at h
    · split at h
      · contradiction
      · obtain rfl := Option.some.inj h
        rfl
    · contradiction

/-- A turn whose fetch reaches memory runs the word that is fetched. -/
theorem step_of_fetches {s t : State} {w : Word} (h : Fetches s t w) : step s = runWord w t := by
  obtain ⟨k, st, u, hturn, x, hx, hpc, a, v, hva, hline, rfl, rfl⟩ := h
  obtain ⟨rfl, rfl⟩ : k = x.key ∧ st = x.st := Prod.ext_iff.mp (focus_of_findCtx hx)
  have hfetch : fetch x { u with focus := (x.key, x.st) } = .word
      (v.byte (a + 3) ++ v.byte (a + 2) ++ v.byte (a + 1) ++ v.byte a) (v.readDone a 4 (some (coreOf x.key))) := by
    unfold fetch
    rw [if_neg (Nat.not_le.mpr hpc), hva]
    dsimp only
    rw [hline]
    rfl
  simp only [step, hturn, frontStep, hx, hfetch]

/-- A turn whose word decodes runs the instruction. -/
theorem step_of_decodes {s t : State} {w : Word} {i : Instr} (h : Fetches s t w) (hi : decode w = .ok i) :
    step s = exec i t := by
  rw [step_of_fetches h, runWord, hi]

/-- Settles O4: the turn's word decodes, or the turn is an event's. -/
theorem stepRunsDecodedInstruction : Obligations.StepRunsDecodedInstruction :=
  ⟨fun _ _ _ _ => step_of_decodes, fun _ _ _ hturn => by rw [step, hturn]⟩

/-! ## Words that are no instruction (R27, R28) -/

/-- R28: TRAPV of a cause without a position is the word. -/
theorem decodeValue_zero (w : Word) : decodeValue w 0 = w.setWidth 64 := by
  apply BitVec.eq_of_toNat_eq
  have hw := w.isLt
  rw [decodeValue, BitVec.toNat_append, BitVec.toNat_setWidth, Nat.mod_eq_of_lt (by omega)]
  simp

theorem undecodableWordsTrap : UndecodableWordsTrap := by
  intro s t w x h hx
  rw [step_of_fetches h]
  refine ⟨fun hd => ?_, fun i pos hd habsent hown hmis hstr hlev hpriv => ?_⟩
  · rw [runWord, hd, ← decodeValue_zero]
    exact issue_refused _ hx (decodeCheck_illop (by simp [illopWord]))
  · rw [runWord, hd]
    refine issue_refused _ hx ?_
    have hstream : streamWord w x = false := by
      cases hst : x.st <;> simpa [streamWord, streamBit, hst] using hstr
    rw [decodeCheck_operands (by simp [illopWord, habsent, hown, hmis]) (by simp [hstream])
      (by simp [privWord, hlev, hpriv])]
    rfl

/-! ## Privileged words (R28, R109) -/

section Privileged

variable {u : Word} {o : OpInfo} {s : State} {x : Ctx}

/-- A word that passes the first two checks traps with PRIV below its level. -/
theorem issue_below (body : Ctx → State → Eff) (hx : findCtx s = some x) (hi : illopWord u o x = false)
    (hs : streamWord u x = false) (hlev : x.c.level < wordLevel u) :
    issue u o body s = .next (trapAt x o.hint .priv (u.setWidth 64) (switchIn x s)) := by
  rw [← decodeValue_zero]
  refine issue_refused body hx (decodeCheck_priv (by simp [hi]) (by simp [hs]) ?_)
  simp [privWord, hlev]

end Privileged

/-- A meaning that issues a word, and refuses it for no reason of its own. -/
def Issued (f : State → Out) (u : Word) : Prop :=
  ∃ o body, (∀ s, f s = issue u o body s) ∧ o.illop = false ∧ o.hint = false

theorem Issued.congr {f g : State → Out} {u : Word} (h : ∀ s, f s = g s) (hg : Issued g u) : Issued f u :=
  (funext h : f = g) ▸ hg

theorem issued_eret : Issued execEret (packReg 0x60 0x78 0x78 0x78 0 4) := ⟨_, _, fun _ => rfl, rfl, rfl⟩

theorem issued_halt : Issued execHalt (packReg 0x60 0x78 0x78 0x78 0 7) := ⟨_, _, fun _ => rfl, rfl, rfl⟩

theorem issued_dispatchOp (fn : BitVec 3) (d a b : BitVec 7) (w : BitVec 1) (hasD hasB rel : Bool)
    (body : Ctx → Nat → Nat → State → Got (Option DWord)) :
    Issued (dispatchOp fn d a b w hasD hasB rel body) (packReg 0x56 d a b w fn) := ⟨_, _, fun _ => rfl, rfl, rfl⟩

theorem issued_manifestOp (fn : BitVec 3) (d a b : BitVec 7) (body : Ctx → Nat → Nat → State → Eff) :
    Issued (manifestOp fn d a b body) (packReg 0x61 d a b 0 fn) := ⟨_, _, fun _ => rfl, rfl, rfl⟩

theorem issued_tlbControl {u : Word} (o : OpInfo) (ho : o.illop = false) (hh : o.hint = false) (b : BitVec 7)
    (whole : Bool) (a : BitVec 7) : Issued (tlbControl u o b whole a) u := ⟨o, _, fun _ => rfl, ho, hh⟩

/-- The instructions that need a level, with that level and the streams they are legal in. -/
noncomputable def privilegedForms (d a b : BitVec 7) (w : BitVec 1) : List (Instr × Nat × List Strm) :=
  [ (.eret, 1, [.a, .c]), (.halt, 3, [.a, .c]), (.deq d a b w, 1, [.a]), (.mquery d a b, 1, [.a]),
    (.mretire d a b, 3, [.a]), (.tlbinv a b, 1, [.a]), (.tlbinva b, 1, [.a]) ]

section Forms

variable {d a b : BitVec 7} {w : BitVec 1} {e : Instr × Nat × List Strm} {u : Word}

/-- Each of them issues its word, and refuses it for no reason but those that R28 lists. -/
theorem issued_privilegedForms (he : e ∈ privilegedForms d a b w) (hu : encode e.1 = some u) : Issued (exec e.1) u := by
  simp only [privilegedForms, List.mem_cons, List.not_mem_nil, or_false] at he
  obtain rfl | rfl | rfl | rfl | rfl | rfl | rfl := he
  all_goals obtain rfl := Option.some.inj hu
  · exact .congr (fun _ => exec_eret) issued_eret
  · exact .congr (fun _ => exec_halt) issued_halt
  · refine .congr (fun _ => exec_deq) ?_
    unfold execDeq
    exact issued_dispatchOp ..
  · refine .congr (fun _ => exec_mquery) ?_
    unfold execMquery
    exact issued_manifestOp ..
  · refine .congr (fun _ => exec_mretire) ?_
    unfold execMretire
    exact issued_manifestOp ..
  · refine .congr (fun _ => exec_tlbinv) ?_
    unfold execTlbinv
    exact issued_tlbControl _ rfl rfl ..
  · refine .congr (fun _ => exec_tlbinva) ?_
    unfold execTlbinva
    exact issued_tlbControl _ rfl rfl ..

/-- What R49 and R50 say of their words. -/
theorem word_privilegedForms (he : e ∈ privilegedForms d a b w) (hu : encode e.1 = some u) :
    wordAbsent false u = false ∧ wordLevel u = e.2.1 ∧ ∀ x : Ctx, (x.st ∈ e.2.2 → streamWord u x = false) ∧
      ((e.1 = .eret → x.c.level = 0) → ownIllop u x = false) := by
  simp only [privilegedForms, List.mem_cons, List.not_mem_nil, or_false] at he
  obtain rfl | rfl | rfl | rfl | rfl | rfl | rfl := he
  all_goals
    obtain rfl := Option.some.inj hu
    refine ⟨?_, ?_, fun x => ⟨fun hst => ?_, fun hl => ?_⟩⟩
    all_goals simp_all [wordAbsent, wordLevel, wordStreams, ownIllop, streamWord, packReg_maj, packReg_f]

end Forms

theorem privilegedInstructionsTrap : PrivilegedInstructionsTrap := by
  intro s x d a b w e he u hu hx hst hlev hline huser hmis
  obtain ⟨o, body, hexec, ho, hhint⟩ := issued_privilegedForms he hu
  obtain ⟨habsent, hlevel, hword⟩ := word_privilegedForms he hu
  obtain ⟨hstream, hown⟩ := hword x
  have hi : illopWord u o x = false := by simp [illopWord, hline, habsent, ho, hown huser, hmis]
  rw [hexec, issue_below body hx hi (hstream hst) (hlevel ▸ hlev), hhint]

/-- Settles O11: a word that does not decode fails the first check or the fourth, and a privileged word the third. -/
theorem undecodableAndPrivilegedWordsTrap : Obligations.UndecodableAndPrivilegedWordsTrap :=
  ⟨undecodableWordsTrap, privilegedInstructionsTrap⟩

end Sys2Proof.Machine

/-!
What a synchronising instruction does to the state beside its result (R63, R74 to R77, R265, R266): the lanes learn what
other agents have done, which changes clocks alone, and the run completes or waits.
-/

namespace Sys2Proof.Machine

open Sys2Proof

/-! ## What lanes learn (R63) -/

/-- Of two states only what threads have seen differs. -/
def State.SameButClocks (s t : State) : Prop := t = { s with clocks := t.clocks, engineClocks := t.engineClocks }

namespace State.SameButClocks

variable {s t u : State}

theorem refl (s : State) : s.SameButClocks s := rfl

theorem trans (h : s.SameButClocks t) (k : t.SameButClocks u) : s.SameButClocks u := by
  unfold State.SameButClocks at *
  rw [h] at k
  exact k

theorem foldl {α : Type} {f : State → α → State} (h : ∀ (s : State) (a : α), s.SameButClocks (f s a)) (l : List α) (s : State) :
    s.SameButClocks (l.foldl f s) := by
  induction l generalizing s with
  | nil => exact refl s
  | cons a l ih => exact (h s a).trans (ih (f s a))

theorem consist? (h : s.SameButClocks t) (k : Nat) : t.consist? k = s.consist? k := by rw [h]; rfl

theorem session (h : s.SameButClocks t) (v : Nat) : t.session v = s.session v := by rw [h]; rfl

theorem logged (h : s.SameButClocks t) (k : Nat) : t.logged k = s.logged k := by rw [h]; rfl

theorem timelineOf (h : s.SameButClocks t) (x : Ctx) (id : BitVec 16) :
    Machine.timelineOf t x id = Machine.timelineOf s x id := by rw [h]; rfl

theorem keeps (h : s.SameButClocks t) (key : Nat) : s.Keeps key t := .of_eq (by rw [h]) (fun k _ => h.consist? k)

end State.SameButClocks

theorem sameButClocks_learnPops (o : OpInfo) (x : Ctx) (s : State) : s.SameButClocks (learnPops o x s) :=
  learnPops_eq o x s

theorem sameButClocks_learnFor (s : State) (ks : List Nat) (thread : Nat) (c : Clock) :
    s.SameButClocks (s.learnFor ks thread c) := by
  unfold State.learnFor
  split <;> rfl

theorem sameButClocks_learnAll (s : State) (uid : Nat) (st : Strm) (ls : List Nat) (c : Clock) :
    s.SameButClocks (s.learnAll uid st ls c) :=
  .foldl (fun s _ => sameButClocks_learnFor s _ _ c) ls s

theorem sameButClocks_acquire (x : Ctx) (s : State) (scope : Nat) (rels : List Release) :
    s.SameButClocks (x.acquire s scope rels) :=
  .foldl (fun s (r : Release) => sameButClocks_learnAll s _ _ _ r.clk) _ s

theorem sameButClocks_takeTokens (x : Ctx) (mask : BitVec 8) (s : State) : s.SameButClocks (x.takeTokens mask s) := by
  refine .foldl (fun s t => ?_) _ s
  split
  · exact .foldl (fun s (r : Release) => sameButClocks_learnAll s _ _ _ r.clk) _ s
  · exact .refl s

theorem sameButClocks_fenceLane (x : Ctx) (scope : Nat) (p q : BitVec 8) (s : State) (lane : Nat) :
    s.SameButClocks (x.fenceLane scope p q s lane) := by
  unfold Ctx.fenceLane
  exact State.SameButClocks.trans (.foldl (fun s (r : Release) => sameButClocks_learnFor s _ _ r.clk) _ s) rfl

/-! ## The stream of a context -/

/-- The context that a front end finds is that of its consist. -/
theorem consist?_of_findCtx {s : State} {x : Ctx} (h : findCtx s = some x) : s.consist? x.key = some x.c := by
  unfold findCtx at h
  dsimp only at h
  split at h
  · contradiction
  next c hc =>
    split at h
    · split at h
      · contradiction
      · obtain rfl := Option.some.inj h
        exact hc
    · contradiction

theorem Issues.consist {w : Word} {o : OpInfo} {s : State} {x : Ctx} (h : Issues w o s x) :
    s.consist? x.key = some x.c := consist?_of_findCtx h.found

theorem modStrm_eq {s : State} {x : Ctx} {c : Consist} (h : s.consist? x.key = some c) (f : StreamSt → StreamSt) :
    s.modStrm x f = s.setConsist x.key (c.setStrm x.st (f (c.strm x.st))) := by
  simp only [State.modStrm, State.modConsist, h]

/-! ## Completion (R31, R33, R95) -/

section Completes

variable {o : OpInfo} {x : Ctx} {s u v t : State}

/-- The law of every body that writes no result: its run completes, and beside its own effect nothing else changes. -/
theorem completed_retire {b : Consist} (ht : o.transfer = false) (hu : u.consist? x.key = some b)
    (hv : v.consist? x.key = some b) (hk : u.Keeps x.key v) : Completed o x u (retire o x (switchIn x v)) := by
  have hb : (switchIn x v).consist? x.key = some b := by rw [consist?_switchIn, hv]
  obtain ⟨q, c, hc, hq, hcq, hpop, _, _⟩ := retire_spec o x _ b hb
  have hst : c.strm x.st = (b.strm x.st).retired o x.run x.hints (b.alive x.st) := by
    rw [hcq, Consist.strm_setStrm_same]
  have hother : c.strm x.st.other = b.strm x.st.other := by
    rw [hcq, hq]; cases x.st <;> rfl
  obtain ⟨hlatch, hvalid, hpreds⟩ := retired_latch (b.strm x.st) o x.run x.hints (b.alive x.st)
  refine ⟨hk.switchIn.trans (State.keeps_retire o x _ b hb), b, c, hu, hc, ?_, ?_, ?_, ?_, ?_, ?_, hst ▸ hlatch,
    hst ▸ hvalid, hst ▸ hpreds, hother, fun p j hj => ?_, hst ▸ passed_retired _ o x.run x.hints _ ht⟩
  · unfold Consist.Keeps
    rw [hcq, hq]; cases x.st <;> rfl
  · rw [hcq, Consist.setStrm_csw, hq]
  · rw [hcq, Consist.setStrm_inflight, hq]
  · rw [hcq, Consist.setStrm_vregs, hq]
  · rw [hcq, Consist.setStrm_aregs, hq]
  · rw [hcq, Consist.setStrm_sregs, hq]
  · rw [hcq, Consist.queueOf_setStrm, hpop p j hj]

/-- Completing changes no byte. -/
theorem Completed.byte (h : Completed o x u t) (j : Nat) : t.byte j = u.byte j := by
  rw [h.keeps.bytes, byte_switchIn]

/-- Completing changes no session. -/
theorem Completed.session (h : Completed o x u t) (k : Nat) : t.session k = u.session k := by
  rw [State.session, h.keeps.sessions, switchIn_eq]
  rfl

/-- A run that has completed from a state in which the instruction has written a predicate. -/
theorem Completed.wrotePred {p : Nat} {f : Nat → Bool} (h : Completed o x v t) (hk : s.Keeps x.key v)
    (hv : v.consist? x.key = some (x.c.setStrm x.st ((x.c.strm x.st).putPred p x.act (maskWhere f)))) :
    WrotePred o x p f x.c.csw s t := by
  obtain ⟨b, c, hb, hc, hkeep, hcsw, hfly, hvr, har, hsr, hlatch, hvalid, hpreds, hother, hpop, hpass⟩ := h.consist
  obtain rfl := Option.some.inj (hb.symm.trans hv)
  have hput : (x.c.strm x.st).putPred p x.act (maskWhere f) =
      { x.c.strm x.st with preds := ((x.c.strm x.st).putPred p x.act (maskWhere f)).preds } := by
    unfold StreamSt.putPred; split <;> rfl
  rw [Consist.strm_setStrm_same] at hlatch hvalid hpreds hpass
  refine ⟨hk.switchIn.trans h.keeps, c, hc, ?_, ?_, ?_, ?_, ?_, ?_, fun q l hl => ?_, ?_, ?_, ?_, fun q l hl => ?_,
    passed_congr (by rw [hput]) hpass⟩
  · unfold Consist.Keeps at hkeep ⊢
    rw [hkeep]; cases x.st <;> rfl
  · rw [hcsw, Consist.setStrm_csw]
  · rw [hfly, Consist.setStrm_inflight]
  · rw [hvr, Consist.setStrm_vregs]
  · rw [har, Consist.setStrm_aregs]
  · rw [hsr, Consist.setStrm_sregs]
  · rw [← pred_putPred _ p q l _ _ hl]
    unfold StreamSt.pred
    rw [hpreds]
  · rw [hlatch, hput]
  · rw [hvalid, hput]
  · rw [hother]; cases x.st <;> rfl
  · rw [hpop q l hl, Consist.queueOf_setStrm]

/-- A run that has completed from a state in which the instruction has written its result. -/
theorem Completed.wrote {w : Word} {d : BitVec 7} {wide nw : Bool} {f : Nat → DWord} {z : State} (hi : Issues w o s x)
    (h : Completed o x v t) (hk : s.Keeps x.key v)
    (hv : v.consist? x.key = some (putResult z x.c x.st d wide nw (lanesOf x.act) f)) :
    Wrote o x d wide nw f x.c.csw s t := by
  obtain ⟨b, c, hb, hc, hkeep, hcsw, hfly, hvr, har, hsr, hlatch, hvalid, hpreds, hother, hpop, hpass⟩ := h.consist
  obtain ⟨C, hC, k1, k2, k3, k4, k5, k6, k7, k8⟩ := putResult_fields z x x.c.csw d wide nw f
  have k9 := putResult_queues z x x.c.csw d wide nw f
  rw [Ctx.withCsw_self] at hC k9
  rw [← hC] at hv k9
  obtain rfl := Option.some.inj (hb.symm.trans hv)
  refine ⟨hk.switchIn.trans h.keeps, c, hc, ?_, hcsw.trans k2, hfly.trans k3, fun m l hl => ?_, fun m l hl => ?_,
    fun m => ?_, fun m l hl => ?_, ?_, ?_, hother.trans k8, queuesMove_of hi k9 hpop, passed_congr ?_ hpass⟩
  · unfold Consist.Keeps at hkeep k1 ⊢
    rw [hkeep, k1]
  · rw [← k4 m l hl]; unfold Consist.v; rw [hvr]
  · rw [← k5 m l hl, har]
  · rw [← k6 m, hsr]
  · rw [hlatch, k7]
    unfold newLatch
    by_cases ha : x.act = 0
    · simp [ha]
    · rw [if_neg ha]
      unfold StreamSt.putLatch
      simp only
      rw [tget_lanes_tset _ _ _ _ _ _ (lanesOf_lt _) hl]
      simp only [mem_lanesOf, hl, true_and]
  · rw [hvalid, k7]; split <;> rfl
  · rw [hpreds, k7]; split <;> rfl
  · rw [k7]; split <;> rfl

/-- An instruction that waits with nothing done but what its pops would bring stalls its run where it stands. -/
theorem outcome_wait_learnPops : outcome o x s (.wait (learnPops o x s)) = stall x s := by
  rw [outcome, unlearn_learnPops]

/-- An instruction whose effect is on clocks alone completes with nothing else changed. -/
theorem completed_of_sameButClocks {w : Word} (h : Issues w o s x) (ht : o.transfer = false)
    (hv : (learnPops o x s).SameButClocks v) : Completed o x s (outcome o x s (.ok v)) := by
  have hs := (sameButClocks_learnPops o x s).trans hv
  exact completed_retire ht h.consist (by rw [hs.consist?, h.consist]) (hs.keeps x.key)

/-- The mask of one truth value for every lane. -/
theorem maskWhere_const (yes : Bool) : maskWhere (fun _ => yes) = if yes then BitVec.allOnes 32 else 0 := by
  apply BitVec.eq_of_getLsbD_eq
  intro l hl
  rw [getLsbD_maskWhere _ l hl]
  cases yes
  case true => rw [if_pos rfl, BitVec.getLsbD_allOnes, decide_eq_true hl]
  case false => simp

/-- An instruction that gives one truth value to every active lane, and else changes clocks alone. -/
theorem wrotePred_of_sameButClocks {w : Word} {p : Nat} {yes : Bool} (h : Issues w o s x) (ht : o.transfer = false)
    (hv : (learnPops o x s).SameButClocks v) :
    WrotePred o x p (fun _ => yes) x.c.csw s (outcome o x s
      (.ok (v.modStrm x (fun sx => sx.putPred p x.act (if yes then BitVec.allOnes 32 else 0))))) := by
  have hs := (sameButClocks_learnPops o x s).trans hv
  have hc : v.consist? x.key = some x.c := by rw [hs.consist?, h.consist]
  rw [modStrm_eq hc, ← maskWhere_const]
  exact (completed_retire ht (State.consist?_setConsist_same ..) (State.consist?_setConsist_same ..)
    (.refl ..)).wrotePred ((hs.keeps x.key).trans (State.keeps_setConsist ..)) (State.consist?_setConsist_same ..)

/-- An instruction that writes a result, and else changes clocks alone. -/
theorem wrote_of_sameButClocks {w : Word} {d : BitVec 7} {wide nw : Bool} {f : Nat → DWord} {z : State}
    (h : Issues w o s x) (ht : o.transfer = false) (hv : (learnPops o x s).SameButClocks v) :
    Wrote o x d wide nw f x.c.csw s (outcome o x s
      (.ok (v.setConsist x.key (putResult z x.c x.st d wide nw (lanesOf x.act) f)))) := by
  have hs := (sameButClocks_learnPops o x s).trans hv
  exact (completed_retire ht (State.consist?_setConsist_same ..) (State.consist?_setConsist_same ..)
    (.refl ..)).wrote h ((hs.keeps x.key).trans (State.keeps_setConsist ..)) (State.consist?_setConsist_same ..)

end Completes

/-! ## FENCE (R74) -/

theorem tokensBefore_of_free {s : State} {x : Ctx} (h : x.c.tokens = 0) : x.tokensBefore s = false := by
  simp [Ctx.tokensBefore, h]

theorem tilesBefore_of_none {s : State} {x : Ctx} (h : x.c.matrix.queue = []) : x.tilesBefore s = false := by
  simp [Ctx.tilesBefore, h]

theorem textureBefore_of_none {s : State} {x : Ctx} (h : ∀ f ∈ x.c.inflight, f.kind ≠ .texture) :
    x.textureBefore s = false := by
  rw [Ctx.textureBefore, List.any_eq_false]
  intro f hf
  simp [h f hf]

/-- With nothing outstanding that PRED names, a FENCE has nothing to wait for. -/
theorem fenceWaits_of_ready {s : State} {x : Ctx} {p : BitVec 8} (h : fenceReady s x p) : x.fenceWaits s p = false := by
  obtain ⟨hwrites, hout, htokens, htiles, htexture⟩ := h
  have hf : (p.getLsbD 3 || p.getLsbD 2) = true → x.tokensBefore s = false :=
    fun hp => tokensBefore_of_free (htokens (by simpa using hp))
  have hm : (p.getLsbD 1 || p.getLsbD 0) = true → x.tilesBefore s = false :=
    fun hp => tilesBefore_of_none (htiles (by simpa using hp))
  have hr : p.getLsbD 7 = true → x.textureBefore s = false := fun hp => textureBefore_of_none (htexture hp)
  simp only [Ctx.fenceWaits, Bool.or_eq_false_iff, Bool.and_eq_false_imp]
  exact ⟨⟨⟨⟨hwrites, hout⟩, by simpa using hf⟩, by simpa using hm⟩, hr⟩

/-- A FENCE waits while a logged write that PRED names is outstanding. -/
theorem fenceWaits_of_logged {s : State} {x : Ctx} {p : BitVec 8}
    (h : (p.getLsbD 6 = true ∧ s.logged x.key = true) ∨ (p.getLsbD 4 = true ∧ s.loggedOut x.key = true)) :
    x.fenceWaits s p = true := by
  obtain ⟨hp, hl⟩ | ⟨hp, hl⟩ := h
  all_goals simp [Ctx.fenceWaits, hp, hl]

section Fence

variable {s : State} {x : Ctx} {p q : BitVec 8} {sc : BitVec 4}

/-- What a FENCE with an active lane answers. -/
theorem execFence_of_issues (h : Issues (packFen 0x39 p q sc) {} s x) : execFence p q sc s = .next (outcome {} x s
    (if x.act = 0 then .ok s else if x.fenceWaits s p then .wait s
      else .ok ((lanesOf x.act).foldl (x.fenceLane sc.toNat p q) s))) := issue_of_issues h _

theorem fence_completes (h : Issues (packFen 0x39 p q sc) {} s x) (hr : x.act = 0 ∨ fenceReady s x p) :
    ∃ t, exec (.fence p q sc) s = .next t ∧ Completed {} x s t := by
  rw [exec_fence, execFence_of_issues h]
  refine ⟨_, rfl, ?_⟩
  by_cases hact : x.act = 0
  · rw [if_pos hact]
    exact completed_of_sameButClocks h rfl (.refl s)
  · rw [if_neg hact, fenceWaits_of_ready (hr.resolve_left hact), if_neg Bool.false_ne_true]
    exact completed_of_sameButClocks h rfl (.foldl (sameButClocks_fenceLane x sc.toNat p q) _ s)

theorem fence_waits (h : Issues (packFen 0x39 p q sc) {} s x) (hact : x.act ≠ 0) (hw : x.fenceWaits s p = true) :
    exec (.fence p q sc) s = .next (stall x s) := by
  rw [exec_fence, execFence_of_issues h, if_neg hact, if_pos hw]
  exact congrArg _ outcome_wait_learnPops

end Fence

/-- Settles O32: a FENCE that waits for nothing changes clocks alone. -/
theorem fenceOrders : Obligations.FenceOrders := fun _ _ _ _ _ h =>
  ⟨fence_completes h, fun hact hl => fence_waits h hact (fenceWaits_of_logged hl)⟩

/-! ## Timelines (R75 to R77) -/

/-- The identifier that a timeline instruction of a run names (R76). -/
def timelineId (x : Ctx) (a : BitVec 7) : BitVec 16 := (src1 x a (lowest x.act)).extractLsb' 0 16

/-- A timeline instruction of a run finds a timeline: lanes are active, the identifier is of 16 bits and names it, and no
TLWAIT of the stream is noted. -/
structure FindsTimeline (s : State) (x : Ctx) (a : BitVec 7) (tl : Timeline) : Prop where
  active : x.act ≠ 0
  short : (src1 x a (lowest x.act)).extractLsb' 16 16 = 0
  fresh : (x.c.strm x.st).tlWaits = []
  named : timelineOf s x (timelineId x a) = .ok tl

/-- Forgetting the TLWAITs of a run that has none changes nothing of its consist. -/
theorem leaveTl_of_fresh {s : State} {x : Ctx} (hc : s.consist? x.key = some x.c)
    (hf : (x.c.strm x.st).tlWaits = []) : s.leaveTl x = s.setConsist x.key x.c := by
  rw [State.leaveTl, modStrm_eq hc, if_pos hf, Consist.setStrm_strm]

section Timelines

variable {w : Word} {o : OpInfo} {s : State} {x : Ctx} {a b d : BitVec 7} {tl : Timeline}

/-- Operand fields of TLREAD. -/
abbrev readFields (d a : BitVec 7) : OpInfo :=
  { uses := [(1, d, .dst true true true), (2, a, .src false true)], uniform := true }

/-- Operand fields of TLPOLL. -/
abbrev pollFields (d a b : BitVec 7) : OpInfo :=
  { uses := [(1, d, .pred), (2, a, .src false true), (3, b, .src true true)], uniform := true }

/-- Operand fields of TLWAIT and of TLSIG. -/
abbrev valueFields (a b : BitVec 7) : OpInfo :=
  { uses := [(2, a, .src false true), (3, b, .src true true)], uniform := true }

/-- What a timeline instruction answers that finds its timeline. -/
theorem timelineOp_of_issues (h : Issues w { o with uniform := true } s x) (hf : FindsTimeline s x a tl)
    (body : Ctx → BitVec 16 → Timeline → State → Eff) :
    timelineOp w o a body s = .next (outcome { o with uniform := true } x s
      (body x (timelineId x a) tl (learnPops { o with uniform := true } x s))) := by
  have hn := hf.named
  rw [← (sameButClocks_learnPops { o with uniform := true } x s).timelineOf] at hn
  unfold timelineId at hn
  rw [timelineOp, issue_of_issues h]
  simp only [hf.active, hf.short, hf.fresh, hn, List.any_nil, if_false, ne_eq, not_true_eq_false, Bool.false_eq_true]
  rfl

section Results

variable (hf : FindsTimeline s x a tl)
include hf

theorem tlread_result {nw : BitVec 1} (h : Issues (packReg 0x3A d a 0x78 nw 1) (readFields d a) s x) :
    ∃ t, exec (.tlread d a nw) s = .next t ∧
      Wrote (readFields d a) x d true (nw == 1) (fun _ => tl.counter) x.c.csw s t := by
  rw [exec_tlread, execTlread, timelineOp_of_issues h hf]
  exact ⟨_, rfl, wrote_of_sameButClocks h rfl (.refl _)⟩

theorem tlpoll_result (h : Issues (packReg 0x3A d a b 0 2) (pollFields d a b) s x) :
    ∃ t, exec (.tlpoll d a b) s = .next t ∧ WrotePred (pollFields d a b) x d.toNat
      (fun _ => decide ((wideB x a b).toNat ≤ tl.counter.toNat)) x.c.csw s t := by
  rw [exec_tlpoll, execTlpoll, timelineOp_of_issues h hf]
  refine ⟨_, rfl, wrotePred_of_sameButClocks h rfl ?_⟩
  split
  · exact sameButClocks_acquire ..
  · exact .refl _

theorem tlwait_completes (h : Issues (packReg 0x3A 0x78 a b 0 0) (valueFields a b) s x)
    (hn : (wideB x a b).toNat ≤ tl.counter.toNat) :
    ∃ t, exec (.tlwait a b) s = .next t ∧ Completed (valueFields a b) x s t := by
  rw [exec_tlwait, execTlwait, timelineOp_of_issues h hf]
  dsimp only
  rw [if_pos hn]
  have hs := sameButClocks_learnPops (valueFields a b) x s
  rw [leaveTl_of_fresh (by rw [hs.consist?, h.consist]) hf.fresh]
  have ha := sameButClocks_acquire x ((learnPops (valueFields a b) x s).setConsist x.key x.c) (scopeOr x 7)
    (tl.rels (wideB x a b))
  refine ⟨_, rfl, completed_retire rfl h.consist ?_ ?_⟩
  · rw [ha.consist?, State.consist?_setConsist_same]
  · exact ((hs.keeps x.key).trans (State.keeps_setConsist ..)).trans (ha.keeps x.key)

theorem tlwait_closed (h : Issues (packReg 0x3A 0x78 a b 0 0) (valueFields a b) s x)
    (hn : tl.counter.toNat < (wideB x a b).toNat) (hcl : tl.closed = true) :
    exec (.tlwait a b) s = .next (trapAt x false .prot (timelineValue (timelineId x a) true)
      (switchIn x (s.leaveTl x))) := by
  rw [exec_tlwait, execTlwait, timelineOp_of_issues h hf]
  dsimp only
  rw [if_neg (Nat.not_le.mpr hn), if_pos hcl]
  have hs := sameButClocks_learnPops (valueFields a b) x s
  rw [leaveTl_of_fresh (by rw [hs.consist?, h.consist]) hf.fresh, leaveTl_of_fresh h.consist hf.fresh, outcome]
  have hu : unlearn s ((learnPops (valueFields a b) x s).setConsist x.key x.c) = s.setConsist x.key x.c := by
    rw [hs]; rfl
  rw [hu]

theorem tlsig_result (h : Issues (packReg 0x3A 0x78 a b 0 3) (valueFields a b) s x)
    (hk : (timelineId x a).extractLsb' 12 4 = 0) (hl : s.logged x.key = false) :
    ∃ t, exec (.tlsig a b) s = .next t ∧ PassedHere (valueFields a b) x t ∧ (∀ j, t.byte j = s.byte j) ∧
      (∀ k, k ≠ x.c.sess → t.session k = s.session k) ∧
      ∀ k, (tget (t.session x.c.sess).soft k).count =
        let old := (tget (s.session x.c.sess).soft k).count
        if k = ((timelineId x a).extractLsb' 0 12).toNat ∧ old.toNat < (wideB x a b).toNat then wideB x a b else old := by
  have hs := sameButClocks_learnPops (valueFields a b) x s
  rw [exec_tlsig, execTlsig, timelineOp_of_issues h hf]
  dsimp only
  rw [if_neg (not_not_intro hk), hs.logged, hl, if_neg Bool.false_ne_true]
  generalize hv : State.setSession _ _ _ = v
  have hc : v.consist? x.key = some x.c := by
    rw [← hv, State.consist?_setSession_other, hs.consist?, h.consist]
  have hdone : Completed (valueFields a b) x v (retire (valueFields a b) x (switchIn x v)) :=
    completed_retire rfl hc hc (.refl ..)
  refine ⟨_, rfl, ⟨v, hc, hdone⟩, fun j => ?_, fun k hk => ?_, fun k => ?_⟩
  · rw [outcome, hdone.byte, ← hv, State.byte_setSession, (hs.keeps x.key).bytes]
  · rw [outcome, hdone.session, ← hv, State.session_setSession, if_neg hk, hs.session]
  · rw [outcome, hdone.session, ← hv, State.session_setSession_same, hs.session]
    dsimp only
    rw [tget_tset]
    by_cases hki : k = ((timelineId x a).extractLsb' 0 12).toNat
    · subst hki; simp
    · rw [if_neg hki, if_neg (fun h => hki h.1)]

theorem tlsig_other (h : Issues (packReg 0x3A 0x78 a b 0 3) (valueFields a b) s x)
    (hk : (timelineId x a).extractLsb' 12 4 ≠ 0) :
    exec (.tlsig a b) s = .next (trapAt x false .prot (timelineValue (timelineId x a) false) (switchIn x s)) := by
  rw [exec_tlsig, execTlsig, timelineOp_of_issues h hf]
  dsimp only
  rw [if_pos hk]
  rfl

end Results

end Timelines

theorem timelineResults : TimelineResults := by
  intro s x a b d nw tl y id n hact hshort hfresh hnamed
  have hf : FindsTimeline s x a tl := ⟨hact, hshort, hfresh, hnamed⟩
  exact ⟨tlread_result hf, tlpoll_result hf, fun h => ⟨tlwait_completes hf h, tlwait_closed hf h⟩,
    fun h => ⟨tlsig_result hf h, tlsig_other hf h⟩⟩

/-! ## Tokens (R265, R266) -/

section Tokens

variable {s : State} {x : Ctx} {d : BitVec 7} {m : BitVec 8} {nw : BitVec 1} (hact : x.act ≠ 0)
include hact

theorem tktest_result (h : Issues (packImm 0x3B d 0x78 0 (2#2 ++ m)) { uses := [(1, d, .pred)] } s x) :
    ∃ t, exec (.tktest d m) s = .next t ∧
      WrotePred { uses := [(1, d, .pred)] } x d.toNat (fun _ => x.c.tokens &&& m == 0) x.c.csw s t := by
  rw [exec_tktest, execTktest, issue_of_issues h, if_neg hact]
  refine ⟨_, rfl, wrotePred_of_sameButClocks h rfl ?_⟩
  split
  · exact sameButClocks_takeTokens ..
  · exact .refl _

theorem tkwait_completes (h : Issues (packImm 0x3B 0x78 0x78 0 (0#2 ++ m)) {} s x) (hm : x.c.tokens &&& m = 0) :
    ∃ t, exec (.tkwait m) s = .next t ∧ Completed {} x s t := by
  rw [exec_tkwait, execTkwait, issue_of_issues h, if_neg hact, if_neg (not_not_intro hm)]
  exact ⟨_, rfl, completed_of_sameButClocks h rfl (sameButClocks_takeTokens ..)⟩

theorem tkwait_waits (h : Issues (packImm 0x3B 0x78 0x78 0 (0#2 ++ m)) {} s x) (hm : x.c.tokens &&& m ≠ 0) :
    exec (.tkwait m) s = .next (stall x s) := by
  rw [exec_tkwait, execTkwait, issue_of_issues h, if_neg hact, if_pos hm, outcome_wait_learnPops]

theorem tkany_result (h : Issues (packImm 0x3B d 0x78 nw (1#2 ++ m)) { uses := [(1, d, .lanesReg)] } s x)
    (hm : m &&& ~~~x.c.tokens ≠ 0) :
    ∃ t, exec (.tkany d nw m) s = .next t ∧ Wrote { uses := [(1, d, .lanesReg)] } x d false (nw == 1)
      (fun _ => (m &&& ~~~x.c.tokens).setWidth 64) x.c.csw s t := by
  rw [exec_tkany, execTkany, issue_of_issues h]
  dsimp only
  rw [if_neg hact, if_neg hm]
  exact ⟨_, rfl, wrote_of_sameButClocks h rfl (sameButClocks_takeTokens ..)⟩

theorem tkany_waits (h : Issues (packImm 0x3B d 0x78 nw (1#2 ++ m)) { uses := [(1, d, .lanesReg)] } s x)
    (hm : m &&& ~~~x.c.tokens = 0) : exec (.tkany d nw m) s = .next (stall x s) := by
  rw [exec_tkany, execTkany, issue_of_issues h]
  dsimp only
  rw [if_neg hact, if_pos hm, outcome_wait_learnPops]

end Tokens

theorem tokenResults : TokenResults := fun _ _ _ _ _ hact =>
  ⟨tktest_result hact, fun h => ⟨tkwait_completes hact h, tkwait_waits hact h⟩,
    fun _ h => ⟨tkany_result hact h, tkany_waits hact h⟩⟩

/-- Settles O33: a timeline or token instruction that goes on changes clocks alone beside its result and, of TLSIG, its
timeline. -/
theorem timelineAndTokenResults : Obligations.TimelineAndTokenResults := ⟨timelineResults, tokenResults⟩

end Sys2Proof.Machine

/-!
What completing an instruction makes of the consist that issues it (R31, R40, R91): of the completed run's stream the issue
unit writes program counters, hints and its own counts, the operands' queue entries are popped, and nothing else changes.
-/

namespace Sys2Proof.Machine

open Sys2Proof

/-! ## Lanes of the head run (R91) -/

/-- What a turn's context holds is that of its consist: the run that heads the stream. -/
theorem context_of_findCtx {s : State} {x : Ctx} (h : findCtx s = some x) :
    canIssue s x.key x.st x.c = true ∧ x.run = headRun (x.c.strm x.st) (x.c.eligible x.st) ∧
      x.act = activeOf (x.c.strm x.st) x.run ∧ x.pc = tget (x.c.strm x.st).pc (lowest x.run) ∧ x.run ≠ 0 ∧
      x.hints = (tfind (lowest x.run) (x.c.strm x.st).hints).getD Hints.none := by
  unfold findCtx at h
  dsimp only at h
  split at h
  · contradiction
  · split at h
    next hissue =>
      split at h
      · contradiction
      next hrun =>
        obtain rfl := Option.some.inj h
        simp only [Bool.or_eq_true, decide_eq_true_eq, not_or] at hrun
        exact ⟨hissue, rfl, rfl, rfl, hrun.1, rfl⟩
    · contradiction

theorem getLsbD_headRun {sx : StreamSt} {live : Lanes} {l : Nat} (hl : l < 32) (h : (headRun sx live).getLsbD l = true) :
    live.getLsbD l = true ∧ ∀ j, j < 32 → (headRun sx live).getLsbD j = true → tget sx.pc j = tget sx.pc l ∧
      tfind j sx.hints = tfind l sx.hints ∧ tget sx.guardLeft j = tget sx.guardLeft l := by
  unfold headRun at h ⊢
  split at h
  · simp at h
  next a ls hls =>
    dsimp only at h ⊢
    rw [getLsbD_maskWhere _ l hl] at h
    simp only [Bool.and_eq_true, List.contains_iff_mem, List.mem_filter, beq_iff_eq] at h
    obtain ⟨⟨⟨hmem, hpc⟩, hhint⟩, hguard⟩ := h
    rw [← hls] at hmem
    refine ⟨((mem_lanesOf _ _).mp hmem).2, fun j hj hjr => ?_⟩
    rw [getLsbD_maskWhere _ j hj] at hjr
    simp only [Bool.and_eq_true, List.contains_iff_mem, List.mem_filter, beq_iff_eq] at hjr
    obtain ⟨⟨⟨-, hpc'⟩, hhint'⟩, hguard'⟩ := hjr
    exact ⟨hpc'.trans hpc.symm, hhint'.trans hhint.symm, hguard'.trans hguard.symm⟩

theorem lowest_mem {m : Lanes} (h : m ≠ 0) : lowest m < 32 ∧ m.getLsbD (lowest m) = true := by
  have hne : lanesOf m ≠ [] := fun e => h ((lanesOf_eq_nil m).mp e)
  obtain ⟨a, ls, hls⟩ := List.exists_cons_of_ne_nil hne
  have hlow : lowest m = a := by simp [lowest, hls]
  rw [hlow]
  exact (mem_lanesOf m a).mp (by rw [hls]; exact List.mem_cons_self ..)

/-- Every lane of the run stands at the context's address. -/
theorem pc_of_findCtx {s : State} {x : Ctx} (h : findCtx s = some x) {l : Nat} (hl : l < 32) (hr : x.run.getLsbD l = true) :
    tget (x.c.strm x.st).pc l = x.pc := by
  obtain ⟨-, hrun, -, hpc, hne, -⟩ := context_of_findCtx h
  obtain ⟨hlow, hlr⟩ := lowest_mem hne
  have hhead : (headRun (x.c.strm x.st) (x.c.eligible x.st)).getLsbD (lowest x.run) = true := by rwa [← hrun]
  rw [hpc]
  exact ((getLsbD_headRun hlow hhead).2 l hl (by rwa [← hrun])).1

/-! ## Completion -/

/-- Consist `b` becomes `c` when its context's run completes an instruction. -/
structure Retires (o : OpInfo) (x : Ctx) (b c : Consist) : Prop where
  same : c = { b with a := c.a, c := c.c, lq := c.lq, xqAC := c.xqAC, xqCA := c.xqCA, sq := c.sq }
  strm : c.strm x.st = (b.strm x.st).retired o x.run x.hints (b.alive x.st)
  other : c.strm x.st.other = b.strm x.st.other
  pops : QueuesPop o x b c

namespace Retires

variable {o : OpInfo} {x : Ctx} {b c : Consist}

theorem keeps (h : Retires o x b c) : b.Keeps c := by unfold Consist.Keeps; rw [h.same]
theorem csw (h : Retires o x b c) : c.csw = b.csw := by rw [h.same]
theorem inflight (h : Retires o x b c) : c.inflight = b.inflight := by rw [h.same]
theorem vregs (h : Retires o x b c) : c.vregs = b.vregs := by rw [h.same]
theorem aregs (h : Retires o x b c) : c.aregs = b.aregs := by rw [h.same]
theorem sregs (h : Retires o x b c) : c.sregs = b.sregs := by rw [h.same]
theorem status (h : Retires o x b c) : c.status = b.status := by rw [h.same]
theorem handler (h : Retires o x b c) : c.handler = b.handler := by rw [h.same]
theorem saved (h : Retires o x b c) : c.saved = b.saved := by rw [h.same]

theorem hinted (h : Retires o x b c) : StreamSt.Hinted o x.run (b.strm x.st) (c.strm x.st) :=
  h.strm ▸ hinted_retired ..

theorem passed (h : Retires o x b c) (ht : o.transfer = false) : StreamSt.Passed o x.run (b.strm x.st) (c.strm x.st) :=
  h.strm ▸ passed_retired _ _ _ _ _ ht

theorem latch (h : Retires o x b c) : (c.strm x.st).latch = (b.strm x.st).latch := by
  rw [h.strm]; exact (retired_latch ..).1
theorem latchValid (h : Retires o x b c) : (c.strm x.st).latchValid = (b.strm x.st).latchValid := by
  rw [h.strm]; exact (retired_latch ..).2.1
theorem preds (h : Retires o x b c) : (c.strm x.st).preds = (b.strm x.st).preds := by
  rw [h.strm]; exact (retired_latch ..).2.2

theorem rets (h : Retires o x b c) : (c.strm x.st).rets = (b.strm x.st).rets := by
  obtain ⟨_, _, _, _, _, _, _, e⟩ := retired_eq (b.strm x.st) o x.run x.hints (b.alive x.st)
  rw [h.strm, e]
theorem spilled (h : Retires o x b c) : (c.strm x.st).spilled = (b.strm x.st).spilled := by
  obtain ⟨_, _, _, _, _, _, _, e⟩ := retired_eq (b.strm x.st) o x.run x.hints (b.alive x.st)
  rw [h.strm, e]
theorem exited (h : Retires o x b c) : (c.strm x.st).exited = (b.strm x.st).exited := by
  obtain ⟨_, _, _, _, _, _, _, e⟩ := retired_eq (b.strm x.st) o x.run x.hints (b.alive x.st)
  rw [h.strm, e]

/-- A transfer of control sets the program counters itself. -/
theorem pc_transfer (h : Retires o x b c) (ht : o.transfer = true) : (c.strm x.st).pc = (b.strm x.st).pc := by
  obtain ⟨_, _, _, _, _, _, _, e⟩ := retired_eq (b.strm x.st) o x.run x.hints (b.alive x.st)
  rw [h.strm, e]
  exact if_pos ht

end Retires

/-- What completing makes of the consist that issues, and that it keeps everything else. -/
theorem complete_retires {o : OpInfo} {x : Ctx} {v : State} {b : Consist} (hv : v.consist? x.key = some b) :
    ∃ c, (complete o x v).consist? x.key = some c ∧ Retires o x b c ∧ v.Keeps x.key (complete o x v) := by
  obtain ⟨q, c, hc, hq, hcq, hpop, hothers, heq⟩ := retire_spec o x v b hv
  have hkeep := State.keeps_retire o x v b hv
  refine ⟨c, hc, ⟨?_, ?_, ?_, fun p j hj => ?_⟩, ⟨hkeep.agenda, hkeep.focus, hkeep.bytes, hkeep.host, hkeep.io, hkeep.lines,
    hkeep.texLines, hkeep.others, hkeep.convoys, hkeep.sessions, hkeep.cores, hkeep.tlbs, hkeep.stations, hkeep.dies,
    hkeep.links, hkeep.queues, hkeep.ownership, hkeep.refs, hkeep.grants, hkeep.poison, hkeep.corrupt, hkeep.commands,
    hkeep.hostRead⟩⟩
  · rw [hcq, hq]; cases x.st <;> rfl
  · rw [hcq, Consist.strm_setStrm_same]
  · rw [hcq, hq]; cases x.st <;> rfl
  · rw [hcq, Consist.queueOf_setStrm, hpop p j hj]

/-- The step in which an instruction completes, after the front end's turn. -/
theorem retire_retires {o : OpInfo} {x : Ctx} {v : State} {b : Consist} (hv : v.consist? x.key = some b) :
    ∃ c, (retire o x (switchIn x v)).consist? x.key = some c ∧ Retires o x b c ∧
      (switchIn x v).Keeps x.key (retire o x (switchIn x v)) := by
  have hb : (switchIn x v).consist? x.key = some b := by rw [consist?_switchIn, hv]
  obtain ⟨c, hc, hr, -⟩ := complete_retires (o := o) hb
  exact ⟨c, hc, hr, State.keeps_retire o x _ b hb⟩

/-- An instruction that names no queue learns nothing from a pop. -/
theorem learnPops_of_uses_nil {o : OpInfo} {x : Ctx} {s : State} (h : o.uses = []) : learnPops o x s = s := by
  simp [learnPops, popsOf, h]

/-- The law of a body that changes its own consist alone. -/
theorem issue_retires {w : Word} {o : OpInfo} {s v : State} {x : Ctx} {b : Consist} {body : Ctx → State → Eff}
    (h : Issues w o s x) (hb : body x (learnPops o x s) = .ok v) (hv : v.consist? x.key = some b)
    (hk : (learnPops o x s).Keeps x.key v) :
    ∃ t c, issue w o body s = .next t ∧ (switchIn x s).Keeps x.key t ∧ t.consist? x.key = some c ∧ Retires o x b c := by
  obtain ⟨c, hc, hr, hkeep⟩ := retire_retires (o := o) hv
  exact ⟨_, c, issue_ok h hb, ((State.keeps_learnPops o x s).trans hk).switchIn.trans hkeep, hc, hr⟩

end Sys2Proof.Machine

/-! The modes of a consist (R83, R207): RAKE and RMODE write fields of CSW. -/

namespace Sys2Proof.Machine

open Sys2Proof

/-! ## A field of a 32-bit register -/

/-- Is this the mask of the w bits from lo on? -/
def fieldMask (mask : BitVec 32) (lo w : Nat) : Prop := ∀ i : Fin 32, mask.getLsbD i = decide (lo ≤ i.val ∧ i.val < lo + w)

section Field

variable {mask : BitVec 32} {lo w : Nat} (hm : fieldMask mask lo w) (r : BitVec 32) (v : BitVec w)
include hm

/-- The bits of a register with one field replaced. -/
theorem getLsbD_putField (b : Nat) (hb : b < 32) : ((r &&& ~~~mask) ||| (v.setWidth 32 <<< lo)).getLsbD b =
    if lo ≤ b ∧ b < lo + w then v.getLsbD (b - lo) else r.getLsbD b := by
  have hmask : mask.getLsbD b = decide (lo ≤ b ∧ b < lo + w) := hm ⟨b, hb⟩
  simp only [BitVec.getLsbD_or, BitVec.getLsbD_and, BitVec.getLsbD_not, BitVec.getLsbD_shiftLeft, BitVec.getLsbD_setWidth,
    hmask, hb, decide_true, Bool.true_and]
  by_cases hlo : lo ≤ b
  · have hsub : b - lo < 32 := by omega
    by_cases hhi : b < lo + w
    · simp [hlo, hhi, hsub]
    · have hv : v.getLsbD (b - lo) = false := BitVec.getLsbD_of_ge _ _ (by omega)
      simp [hlo, hhi, hv]
  · simp [hlo, Nat.lt_of_not_le hlo]

/-- The field reads as what was put there. -/
theorem extractLsb'_putField (h32 : lo + w ≤ 32) : ((r &&& ~~~mask) ||| (v.setWidth 32 <<< lo)).extractLsb' lo w = v := by
  apply BitVec.eq_of_getLsbD_eq
  intro i hi
  rw [BitVec.getLsbD_extractLsb', getLsbD_putField hm r v _ (by omega), if_pos (by omega), Nat.add_sub_cancel_left]
  simp [hi]

/-- Any other field reads as before. -/
theorem extractLsb'_putField_other (at' n : Nat) (h : at' + n ≤ lo ∨ lo + w ≤ at') (h32 : at' + n ≤ 32) :
    ((r &&& ~~~mask) ||| (v.setWidth 32 <<< lo)).extractLsb' at' n = r.extractLsb' at' n := by
  apply BitVec.eq_of_getLsbD_eq
  intro i hi
  rw [BitVec.getLsbD_extractLsb', BitVec.getLsbD_extractLsb', getLsbD_putField hm r v _ (by omega), if_neg (by omega)]

end Field

/-! ## RAKE (R83) -/

/-- Where CSW holds the rake size of a stream. -/
def rakeAt : Strm → Nat
  | .a => 29
  | .c => 26

/-- The mask of that field. -/
def rakeMask : Strm → BitVec 32
  | .a => 0xE0000000
  | .c => 0x1C000000

theorem fieldMask_rake (st : Strm) : fieldMask (rakeMask st) (rakeAt st) 3 := by
  cases st <;> simp only [fieldMask, rakeMask, rakeAt] <;> decide

theorem withRake_eq (csw : BitVec 32) (st : Strm) (n : BitVec 3) :
    withRake csw st n.toNat = (csw &&& ~~~rakeMask st) ||| (n.setWidth 32 <<< rakeAt st) := by
  have hn : BitVec.ofNat 32 n.toNat = n.setWidth 32 := BitVec.ofNat_toNat 32 n
  cases st <;> simp only [withRake, rakeMask, rakeAt, hn] <;> rfl

theorem rakeLog_eq (c : Consist) (st : Strm) : rakeLog c st = (c.csw.extractLsb' (rakeAt st) 3).toNat := by cases st <;> rfl

theorem rake_completes {s : State} {x : Ctx} {n : BitVec 3} (h : Issues (packImm 0x16 0x78 0x78 0 (0#7 ++ n)) {} s x) :
    ∃ t c, exec (.rake n) s = .next t ∧ (switchIn x s).Keeps x.key t ∧ t.consist? x.key = some c ∧
      Retires {} x { x.c with csw := withRake x.c.csw x.st n.toNat } c := by
  rw [exec_rake, execRake]
  exact issue_retires h rfl (State.consist?_setConsist_same ..) (State.keeps_setConsist ..)

/-! ## RMODE (R207) -/

theorem fieldMask_rmode : fieldMask 0x7C0 6 5 := by unfold fieldMask; decide

theorem rmode_completes {s : State} {x : Ctx} {r e : BitVec 1} {m : BitVec 3}
    (h : Issues (packImm 0x2B 0x78 0x78 0 (0#5 ++ r ++ m ++ e)) {} s x) :
    ∃ t c, exec (.rmode r m e) s = .next t ∧ (switchIn x s).Keeps x.key t ∧ t.consist? x.key = some c ∧
      Retires {} x { x.c with csw := (x.c.csw &&& ~~~(0x7C0#32)) ||| ((r ++ m ++ e).setWidth 32 <<< 6) } c := by
  rw [exec_rmode, execRmode]
  exact issue_retires h rfl (State.consist?_setConsist_same ..) (State.keeps_setConsist ..)

/-- The bits of RMODE's three fields side by side. -/
theorem getLsbD_rmodeFields (r e : BitVec 1) (m : BitVec 3) : (r ++ m ++ e).getLsbD 0 = (e == 1) ∧
    (∀ i, i < 3 → (r ++ m ++ e).getLsbD (1 + i) = m.getLsbD i) ∧ (r ++ m ++ e).getLsbD 4 = (r == 1) := by
  have one : ∀ b : BitVec 1, b.getLsbD 0 = (b == 1) := by decide
  refine ⟨?_, fun i hi => ?_, ?_⟩
  · rw [BitVec.getLsbD_append]; simpa using one e
  · have h1 : ¬ 1 + i < 1 := by omega
    rw [BitVec.getLsbD_append, if_neg h1, Nat.add_sub_cancel_left, BitVec.getLsbD_append, if_pos hi]
  · rw [BitVec.getLsbD_append, if_neg (by decide), BitVec.getLsbD_append, if_neg (by decide)]; exact one r

/-- Settles O25: both write CSW alone, RAKE the field of its stream and RMODE its own. -/
theorem modeInstructions : Obligations.ModeInstructions := by
  intro s x r e m n
  refine ⟨fun h => ?_, fun h => ?_⟩
  · obtain ⟨t, c, hexec, hkeep, hc, hr⟩ := rake_completes h
    have hcsw : c.csw = (x.c.csw &&& ~~~rakeMask x.st) ||| (n.setWidth 32 <<< rakeAt x.st) := by
      rw [hr.csw, ← withRake_eq]
    refine ⟨t, c, hexec, hkeep, hc, ?_, ?_, ?_, fun b hb => ?_, hr.vregs, hr.aregs, hr.sregs, ?_⟩
    · have hk := hr.keeps
      unfold Consist.Keeps at hk ⊢
      exact hk
    · rw [rakeLog_eq, hcsw, extractLsb'_putField (fieldMask_rake _) _ _ (by cases x.st <;> decide)]
    · rw [rakeLog_eq, rakeLog_eq, hcsw, extractLsb'_putField_other (fieldMask_rake _)]
      · cases x.st <;> decide
      · cases x.st <;> decide
    · rw [hcsw, getLsbD_putField (fieldMask_rake _) _ _ _ (by omega), if_neg]
      cases x.st <;> simp only [rakeAt] <;> omega
    · have hp := hr.passed rfl
      cases hst : x.st <;> rw [hst] at hp <;> exact hp
  · obtain ⟨t, c, hexec, hkeep, hc, hr⟩ := rmode_completes h
    obtain ⟨he, hm, hr1⟩ := getLsbD_rmodeFields r e m
    have hbit : ∀ b, b < 32 → c.csw.getLsbD b =
        if 6 ≤ b ∧ b < 11 then (r ++ m ++ e).getLsbD (b - 6) else x.c.csw.getLsbD b := fun b hb =>
      (congrArg (BitVec.getLsbD · b) hr.csw).trans (getLsbD_putField fieldMask_rmode x.c.csw (r ++ m ++ e) b hb)
    refine ⟨t, c, hexec, hkeep, hc, ?_, ?_, ?_, ?_, fun b hb => ?_, hr.vregs, hr.aregs, hr.sregs, ?_⟩
    · have hk := hr.keeps
      unfold Consist.Keeps at hk ⊢
      exact hk
    · exact (hbit 6 (by decide)).trans he
    · apply BitVec.eq_of_getLsbD_eq
      intro i hi
      rw [BitVec.getLsbD_extractLsb', hbit (7 + i) (by omega), if_pos (by omega), ← hm i hi, show 7 + i - 6 = 1 + i by omega]
      simp [hi]
    · exact (hbit 10 (by decide)).trans hr1
    · by_cases h32 : b < 32
      · exact (hbit b h32).trans (if_neg (by omega))
      · rw [BitVec.getLsbD_of_ge _ _ (by omega), BitVec.getLsbD_of_ge _ _ (by omega)]
    · have hp := hr.passed rfl
      cases hst : x.st <;> rw [hst] at hp <;> exact hp

end Sys2Proof.Machine

/-! EXIT, YIELD, NOP and the hints (R40 to R47, R93, R102). -/

namespace Sys2Proof.Machine

open Sys2Proof

/-! ## Program counters of a run that jumps (R91, R99) -/

/-- The stream of a context when each lane of its run stands where `next` says. -/
def StreamSt.jumped (sx : StreamSt) (run : Lanes) (next : Nat → BitVec 32) : StreamSt :=
  { sx with pc := setLanes sx.pc (lanesOf run) next }

theorem StreamSt.tget_jumped (sx : StreamSt) (run : Lanes) (next : Nat → BitVec 32) {l : Nat} (hl : l < 32) :
    tget (sx.jumped run next).pc l = if run.getLsbD l then next l else tget sx.pc l := by
  rw [StreamSt.jumped, tget_setLanes]
  simp only [mem_lanesOf, hl, true_and]

/-- Where the lanes of a run stand after some of them jumped. -/
def jumpNext (x : Ctx) (ls : List Nat) (target : Nat → Nat) (l : Nat) : BitVec 32 :=
  if ls.contains l then BitVec.ofNat 32 (target l) else x.pc + 4

theorem jump_eq {s : State} {x : Ctx} {c : Consist} (h : s.consist? x.key = some c) (ls : List Nat) (target : Nat → Nat) :
    jump x ls target s
      = s.setConsist x.key (c.setStrm x.st ((c.strm x.st).jumped x.run (jumpNext x ls target))) := by
  rw [jump, modStrm_eq h]; rfl

/-! ## EXIT (R102) -/

theorem Consist.queueOf_afterExit (c : Consist) (q : Queue) {l : Nat} (hl : l < 32) :
    c.afterExit.queueOf q l = if ((c.a.exited &&& c.c.exited) ||| c.fmask).getLsbD l then [] else c.queueOf q l := by
  cases q <;> simp only [Consist.afterExit, Consist.queueOf, tget, tfind_foldl_tdel, mem_lanesOf, hl, true_and] <;>
    split <;> rfl

theorem Consist.afterExit_status (c : Consist) : c.afterExit.status =
    if c.status = .running ∧ c.lmask &&& ~~~c.fmask &&& ~~~(c.a.exited &&& c.c.exited) = 0 then .draining else c.status := by
  simp only [Consist.afterExit, Consist.allGone, decide_eq_true_eq]

theorem Consist.setStrm_setStrm (c : Consist) (st : Strm) (y z : StreamSt) : (c.setStrm st y).setStrm st z = c.setStrm st z := by
  cases st <;> rfl

/-- The consist of a context whose active lanes leave its stream. -/
def Ctx.left (x : Ctx) : Consist :=
  let sx := (x.c.strm x.st).jumped x.run (jumpNext x [] (fun _ => 0))
  (x.c.setStrm x.st { sx with exited := sx.exited ||| x.act }).afterExit

/-- An instruction that names no queue pops nothing. -/
theorem popsFor_of_uses_nil {o : OpInfo} {x : Ctx} (h : o.uses = []) (q : Queue) (l : Nat) : popsFor o x q l = 0 := by
  simp [popsFor, popsOf, h, total]

theorem Retires.queueOf_of_uses_nil {o : OpInfo} {x : Ctx} {b c : Consist} (h : Retires o x b c) (ho : o.uses = []) (q : Queue)
    {l : Nat} (hl : l < 32) : c.queueOf q l = b.queueOf q l := by
  rw [h.pops q l hl, popsFor_of_uses_nil ho, List.drop_zero]

theorem Retires.exited_both {o : OpInfo} {x : Ctx} {b c : Consist} (h : Retires o x b c) :
    c.a.exited = b.a.exited ∧ c.c.exited = b.c.exited := by
  have hs := h.exited
  have ho := congrArg StreamSt.exited h.other
  cases hst : x.st <;> rw [hst] at hs ho
  · exact ⟨ho, hs⟩
  · exact ⟨hs, ho⟩

theorem Ctx.strm_left (x : Ctx) : x.left.strm x.st =
    { (x.c.strm x.st).jumped x.run (jumpNext x [] (fun _ => 0)) with exited := (x.c.strm x.st).exited ||| x.act } :=
  Consist.strm_setStrm_same ..

theorem Ctx.strm_other_left (x : Ctx) : x.left.strm x.st.other = x.c.strm x.st.other := by
  unfold Ctx.left Consist.afterExit
  cases x.st <;> rfl

theorem Ctx.keeps_left (x : Ctx) : x.left.vregs = x.c.vregs ∧ x.left.aregs = x.c.aregs ∧ x.left.sregs = x.c.sregs ∧
    x.left.csw = x.c.csw ∧ x.left.fmask = x.c.fmask := by
  unfold Ctx.left Consist.afterExit
  cases x.st <;> exact ⟨rfl, rfl, rfl, rfl, rfl⟩

theorem Ctx.queueOf_left (x : Ctx) (q : Queue) {l : Nat} (hl : l < 32) : x.left.queueOf q l =
    if ((x.left.a.exited &&& x.left.c.exited) ||| x.c.fmask).getLsbD l then [] else x.c.queueOf q l := by
  unfold Ctx.left
  dsimp only
  rw [Consist.queueOf_afterExit _ q hl, Consist.queueOf_setStrm, Consist.setStrm_fmask]
  rfl

theorem Ctx.status_left (x : Ctx) : x.left.status =
    if x.c.status = .running ∧ x.c.lmask &&& ~~~x.c.fmask &&& ~~~(x.left.a.exited &&& x.left.c.exited) = 0 then .draining
    else x.c.status := by
  unfold Ctx.left
  dsimp only
  rw [Consist.afterExit_status, Consist.setStrm_status, Consist.setStrm_fmask, Consist.setStrm_lmask]
  rfl

theorem exit_completes {s : State} {x : Ctx} (h : Issues (packReg 0x35 0x78 0x78 0x78 0 0) { transfer := true } s x) :
    ∃ t c, exec .exit s = .next t ∧ (switchIn x s).Keeps x.key t ∧ t.consist? x.key = some c ∧
      Retires { transfer := true } x x.left c := by
  have hc : (learnPops { transfer := true } x s).consist? x.key = some x.c := by rw [consist?_learnPops, h.consist]
  rw [exec_exit, execExit]
  refine issue_retires h rfl ?_ ?_
  · rw [jump_eq hc]
    simp only [State.modConsist, State.consist?_setConsist_same, Consist.strm_setStrm_same, Consist.setStrm_setStrm]
    rfl
  · rw [jump_eq hc]
    simp only [State.modConsist, State.consist?_setConsist_same]
    exact (State.keeps_setConsist ..).trans (State.keeps_setConsist ..)

/-! ## YIELD (R92, R93) -/

/-- Do two runs, one deferred and one not, stand at the same address, or is every lane deferred (R92)? -/
def StreamSt.deferralsEnd (sx : StreamSt) (alive late : Lanes) : Prop :=
  alive &&& ~~~late = 0 ∨
    ∃ l ∈ lanesOf (alive &&& ~~~late), ∃ j ∈ lanesOf (alive &&& late), tget sx.pc l = tget sx.pc j

theorem StreamSt.undefer_spec (sx : StreamSt) (alive : Lanes) : (sx.undefer alive).pc = sx.pc ∧
    (sx.deferralsEnd alive sx.deferred → (sx.undefer alive).deferred = 0) ∧
    (¬ sx.deferralsEnd alive sx.deferred → (sx.undefer alive).deferred = sx.deferred) := by
  have hend : ((lanesOf (alive &&& ~~~sx.deferred)).any (fun l => (lanesOf (alive &&& sx.deferred)).any (fun j =>
      tget sx.pc l == tget sx.pc j)) || decide (alive &&& ~~~sx.deferred = 0)) = true
        ↔ sx.deferralsEnd alive sx.deferred := by
    simp only [deferralsEnd, Bool.or_eq_true, List.any_eq_true, beq_iff_eq, decide_eq_true_eq]
    exact Or.comm
  unfold StreamSt.undefer
  dsimp only
  split
  next h => exact ⟨rfl, fun _ => rfl, fun k => absurd (hend.mp h) k⟩
  next h => exact ⟨rfl, fun k => absurd (hend.mpr k) h, fun _ => rfl⟩

theorem deferred_retired {sx : StreamSt} {run alive : Lanes} {hints : Hints} (h : hints.sched = none) :
    ((sx.retired {} run hints alive).deferralsEnd alive sx.deferred → (sx.retired {} run hints alive).deferred = 0) ∧
    (¬ (sx.retired {} run hints alive).deferralsEnd alive sx.deferred →
      (sx.retired {} run hints alive).deferred = sx.deferred) := by
  obtain ⟨y, hy, hd⟩ : ∃ y : StreamSt, sx.retired {} run hints alive = y.undefer alive ∧ y.deferred = sx.deferred := by
    simp only [StreamSt.retired, h]
    exact ⟨_, rfl, rfl⟩
  obtain ⟨hpc, hends, hstays⟩ := y.undefer_spec alive
  have hsame : (y.undefer alive).deferralsEnd alive y.deferred ↔ y.deferralsEnd alive y.deferred := by
    simp only [StreamSt.deferralsEnd, hpc]
  rw [hy, ← hd, hsame]
  exact ⟨hends, hstays⟩

/-- The consist of a context whose run is deferred. -/
def Ctx.yielded (x : Ctx) : Consist := x.c.setStrm x.st ((x.c.strm x.st).defer (x.c.alive x.st) x.run)

theorem yield_completes {s : State} {x : Ctx} (h : Issues (packReg 0x36 0x78 0x78 0x78 0 0) {} s x) :
    ∃ t c, exec .yield s = .next t ∧ (switchIn x s).Keeps x.key t ∧ t.consist? x.key = some c ∧ Retires {} x x.yielded c := by
  have hc : (learnPops {} x s).consist? x.key = some x.c := by rw [consist?_learnPops, h.consist]
  rw [exec_yield, execYield]
  refine issue_retires h rfl ?_ ?_
  · rw [modStrm_eq hc, State.consist?_setConsist_same]; rfl
  · rw [modStrm_eq hc]; exact State.keeps_setConsist ..

/-- A completion changes the deferral of its stream alone, beside what completing changes. -/
theorem Retires.completed_deferred {o : OpInfo} {x : Ctx} {s t : State} {b c : Consist} {d : Lanes}
    (hr : Retires o x (b.setStrm x.st { b.strm x.st with deferred := d }) c) (ho : o.transfer = false)
    (hs : s.consist? x.key = some b) (hk : (switchIn x s).Keeps x.key t) (hc : t.consist? x.key = some c) :
    Completed o x s t := by
  have hp := hr.passed ho
  have hl := hr.latch
  have hv := hr.latchValid
  have hq := hr.preds
  have hot := hr.other
  have hkeep := hr.keeps
  rw [Consist.strm_setStrm_same] at hp hl hv hq
  refine ⟨hk, b, c, hs, hc, ?_, ?_, ?_, ?_, ?_, ?_, hl, hv, hq, ?_, fun q l hl => ?_, ?_⟩
  · unfold Consist.Keeps at hkeep ⊢
    rw [hkeep]; cases x.st <;> rfl
  · rw [hr.csw, Consist.setStrm_csw]
  · rw [hr.inflight, Consist.setStrm_inflight]
  · rw [hr.vregs, Consist.setStrm_vregs]
  · rw [hr.aregs, Consist.setStrm_aregs]
  · rw [hr.sregs, Consist.setStrm_sregs]
  · rw [hot]; cases x.st <;> rfl
  · rw [hr.pops q l hl, Consist.queueOf_setStrm]
  · exact ⟨hp.pcs, ⟨hp.hints.pending, hp.hints.left, hp.hints.pass, hp.hints.hold⟩, hp.exited, hp.absent, hp.rets, hp.spilled,
      hp.barWaits, hp.tlWaits⟩

theorem exitYieldNop : ExitYieldNop := by
  intro s x
  refine ⟨fun h => ?_, fun h => ?_, fun h => ?_⟩
  · obtain ⟨t, c, hexec, hkeep, hc, hr⟩ := exit_completes h
    have hst := Ctx.strm_left x
    obtain ⟨hea, hec⟩ := hr.exited_both
    obtain ⟨hv, ha, hs, hw, hf⟩ := x.keeps_left
    refine ⟨t, c, hexec, hkeep, hc, ?_, ?_, fun l hl => ?_, fun q l hl => ?_, ?_, hr.vregs.trans hv, hr.aregs.trans ha,
      hr.sregs.trans hs, hr.csw.trans hw, ?_⟩
    · rw [hr.exited, hst]
    · rw [hr.other, Ctx.strm_other_left]
    · rw [hr.pc_transfer rfl, hst]
      exact StreamSt.tget_jumped _ _ _ hl
    · rw [hr.queueOf_of_uses_nil rfl q hl, hea, hec, x.queueOf_left q hl]
    · have hh := hr.hinted
      rw [hst] at hh
      exact ⟨hh.pending, hh.left, hh.pass, hh.hold⟩
    · rw [hr.status, hea, hec, x.status_left]
  · obtain ⟨t, c, hexec, hkeep, hc, hr⟩ := yield_completes h
    refine ⟨t, c, hexec, hr.completed_deferred rfl h.consist hkeep hc, hc, fun hs => ?_⟩
    have hb : x.yielded.strm x.st = (x.c.strm x.st).defer (x.c.alive x.st) x.run := Consist.strm_setStrm_same ..
    have hlive : x.yielded.alive x.st = x.c.alive x.st := by
      unfold Ctx.yielded Consist.alive
      cases x.st <;> rfl
    obtain ⟨hends, hstays⟩ := deferred_retired (sx := x.yielded.strm x.st) (run := x.run) (alive := x.yielded.alive x.st) hs
    rw [← hr.strm, hlive, hb] at hends hstays
    by_cases he : (c.strm x.st).deferralsEnd (x.c.alive x.st) ((x.c.strm x.st).defer (x.c.alive x.st) x.run).deferred
    · exact (hends he).trans (if_pos he).symm
    · exact (hstays he).trans (if_neg he).symm
  · rw [exec_nop, execNop]
    exact ⟨_, issue_ok h rfl,
      completed_retire rfl h.consist ((consist?_learnPops ..).trans h.consist) (State.keeps_learnPops ..)⟩

/-! ## Hints (R40 to R47) -/

/-- A hint that is not refused changes the stream of its run as it says. -/
theorem hint_completes {w : Word} {s : State} {x : Ctx} {f : Ctx → StreamSt → StreamSt} (h : Issues w { hint := true } s x) :
    ∃ u, hint w false f s = .next u ∧ HintDone x (f x (x.c.strm x.st)) s u := by
  have hb : (match (learnPops { hint := true } x s).consist? x.key with
      | none => Eff.stop (learnPops { hint := true } x s)
      | some c => .ok ((learnPops { hint := true } x s).setConsist x.key (c.setStrm x.st (f x (c.strm x.st)))))
      = .ok ((learnPops { hint := true } x s).setConsist x.key (x.c.setStrm x.st (f x (x.c.strm x.st)))) := by
    rw [consist?_learnPops, h.consist]
  refine ⟨_, issue_ok h hb, completed_retire rfl (State.consist?_setConsist_same ..) (State.consist?_setConsist_same ..) ?_⟩
  rw [learnPops_of_uses_nil rfl]
  exact State.Keeps.refl ..

theorem tfind_foldl_tput {V : Type} (v : V) (ls : List Nat) (t : Table V) (j : Nat) :
    tfind j (ls.foldl (fun t l => tput l v t) t) = if j ∈ ls then some v else tfind j t := by
  induction ls generalizing t with
  | nil => simp
  | cons a ls ih =>
    rw [List.foldl_cons, ih, tfind_tput]
    by_cases h : j = a
    · subst h; simp
    · simp [h]

/-- A hint that is the first of its kind becomes pending. -/
theorem pend_pends {w : Word} {s : State} {x : Ctx} {has : Hints → Bool} {put : Hints → Hints}
    (h : Issues w { hint := true } s x) (hno : has x.hints = false) :
    ∃ u, pend w has put s = .next u ∧ Pends x put s u := by
  unfold pend
  simp only [h.found, hno]
  obtain ⟨u, hu, hd⟩ := hint_completes h
  refine ⟨u, hu, _, fun l hl => ?_, hd⟩
  rw [tfind_foldl_tput]
  simp only [mem_lanesOf, hl, true_and]
  cases tfind (lowest x.run) (x.c.strm x.st).hints <;> rfl

theorem hintsPend (s : State) (x : Ctx) (k : BitVec 22) (sc : BitVec 4) (o t f : BitVec 2) (m : BitVec 3) (i j n : BitVec 1)
    (stalls : BitVec 6) :
    (Issues (packHnt 0 k) { hint := true } s x → x.hints.const = none →
      ∃ u, exec (.hintConst k) s = .next u ∧ Pends x (fun h => { h with const := some k }) s u) ∧
    (Issues (packHnt 3 (sc ++ o ++ 0#16)) { hint := true } s x → x.hints.scope = none →
      ∃ u, exec (.hintScope sc o) s = .next u ∧ Pends x (fun h => { h with scope := some (sc, o) }) s u) ∧
    (Issues (packHnt 4 (m ++ 0#19)) { hint := true } s x → x.hints.round = none →
      ∃ u, exec (.hintRound m) s = .next u ∧ Pends x (fun h => { h with round := some m }) s u) ∧
    (Issues (packHnt 5 (t ++ f ++ i ++ j ++ n ++ 0#15)) { hint := true } s x → x.hints.mod = none →
      ∃ u, exec (.hintMod t f i j n) s = .next u ∧ Pends x (fun h => { h with mod := some (t ++ f ++ i ++ j ++ n) }) s u) ∧
    (Issues (packHnt 6 (stalls ++ i ++ 0#15)) { hint := true } s x → x.hints.sched = none →
      ∃ u, exec (.hintSched stalls i) s = .next u ∧ Pends x (fun h => { h with sched := some (stalls ++ i) }) s u) := by
  rw [exec_hintConst, exec_hintScope, exec_hintRound, exec_hintMod, exec_hintSched]
  refine ⟨fun h hf => ?_, fun h hf => ?_, fun h hf => ?_, fun h hf => ?_, fun h hf => ?_⟩
  · exact pend_pends h (by rw [hf]; rfl)
  · exact pend_pends h (by rw [hf]; rfl)
  · exact pend_pends h (by rw [hf]; rfl)
  · exact pend_pends h (by rw [hf]; rfl)
  · exact pend_pends h (by rw [hf]; rfl)

/-- The pass bits of a window of `run` over those of the other lanes. -/
theorem getLsbD_guardPass {old run : Lanes} {p : Nat → Bool} {l : Nat} (hl : l < 32) :
    ((old &&& ~~~run) ||| maskWhere (fun l => run.getLsbD l && p l)).getLsbD l = if run.getLsbD l then p l else old.getLsbD l := by
  rw [BitVec.getLsbD_or, BitVec.getLsbD_and, BitVec.getLsbD_not, getLsbD_maskWhere _ l hl]
  cases run.getLsbD l <;> simp [hl]

theorem hintsTakeEffect : HintsTakeEffect := by
  intro s x k sc o t f m p i j n count stalls
  obtain ⟨hconst, hscope, hround, hmod, hsched⟩ := hintsPend s x k sc o t f m i j n stalls
  refine ⟨?_, fun h => ?_, fun h _ _ => ?_⟩
  · simp only [List.forall_mem_cons]
    exact ⟨hconst, fun h hf => hscope h hf.1, hround, hmod, hsched, fun _ h => absurd h List.not_mem_nil⟩
  · rw [exec_hintGuard, execHintGuard]
    obtain ⟨u, hu, hd⟩ := hint_completes h
    refine ⟨u, _, _, hu, fun l hl => ?_, fun l hl => getLsbD_guardPass hl, hd⟩
    rw [tget_setLanes]
    simp only [mem_lanesOf, hl, true_and]
  · rw [exec_hintHold, execHintHold]
    exact hint_completes h

/-- Settles O30: each of them changes the stream of its run, and EXIT the queues of the lanes that have left both. -/
theorem exitYieldNopAndHints : Obligations.ExitYieldNopAndHints := ⟨exitYieldNop, hintsTakeEffect⟩

end Sys2Proof.Machine

/-! Traps that software raises, HALT and ERET (R104 to R109). -/

namespace Sys2Proof.Machine

open Sys2Proof

/-! ## Steps that end where the body says (R104) -/

/-- A word whose body says where the turn ends. -/
theorem issue_stop {w : Word} {o : OpInfo} {s t : State} {x : Ctx} {body : Ctx → State → Eff} (h : Issues w o s x)
    (hb : body x (learnPops o x s) = .stop t) : issue w o body s = .next (switchIn x t).bump := by
  rw [issue_of_issues h, hb]; rfl

theorem State.keeps_bump (key : Nat) (s : State) : s.Keeps key s.bump := .of_eq rfl (fun _ _ => rfl)

/-- A change of one consist. -/
theorem State.modConsist_eq {s : State} {k : Nat} {c : Consist} (h : s.consist? k = some c) (f : Consist → Consist) :
    s.modConsist k f = s.setConsist k (f c) := by
  rw [State.modConsist, h]

/-- The law of a body that ends its turn with a change of its own consist. -/
theorem issue_stops {w : Word} {o : OpInfo} {s t : State} {x : Ctx} {c : Consist} {body : Ctx → State → Eff}
    (h : Issues w o s x) (hb : body x (learnPops o x s) = .stop t) (hc : t.consist? x.key = some c)
    (hk : (learnPops o x s).Keeps x.key t) :
    ∃ t, issue w o body s = .next t ∧ (switchIn x s).Keeps x.key t ∧ t.consist? x.key = some c := by
  refine ⟨_, issue_stop h hb, (((State.keeps_learnPops o x s).trans hk).switchIn).trans (State.keeps_bump ..), ?_⟩
  rw [← hc, ← consist?_switchIn x t]; rfl

/-- The law of a body whose last act changes its own consist. -/
theorem issue_stops_own {w : Word} {o : OpInfo} {s : State} {x : Ctx} {f : Consist → Consist} {body : Ctx → State → Eff}
    (h : Issues w o s x) (hb : body x (learnPops o x s) = .stop ((learnPops o x s).modConsist x.key f)) :
    ∃ t, issue w o body s = .next t ∧ (switchIn x s).Keeps x.key t ∧ t.consist? x.key = some (f x.c) := by
  rw [State.modConsist_eq ((consist?_learnPops ..).trans h.consist)] at hb
  exact issue_stops h hb (State.consist?_setConsist_same ..) (State.keeps_setConsist ..)

/-! ## HALT (R109, R379) -/

/-- The consist of a context that executes HALT. -/
def Ctx.halted (x : Ctx) : Consist :=
  { x.c.settle with status := .halted (0#31 ++ BitVec.ofBool (x.st == .a) ++ x.pc) }

theorem halt_stops {s : State} {x : Ctx} (h : Issues (packReg 0x60 0x78 0x78 0x78 0 7) {} s x) :
    ∃ t, exec .halt s = .next t ∧ (switchIn x s).Keeps x.key t ∧ t.consist? x.key = some x.halted := by
  rw [exec_halt, execHalt]
  exact issue_stops_own (f := fun c =>
    { c.settle with status := .halted (0#31 ++ BitVec.ofBool (x.st == .a) ++ x.pc) }) h rfl

theorem Consist.settle_trapRecord (c : Consist) :
    c.settle.trapc = c.trapc ∧ c.settle.trapv = c.trapv ∧ c.settle.trappc = c.trappc := by
  rw [c.sameButResults_settle]
  exact ⟨rfl, rfl, rfl⟩

theorem haltStops : HaltStops := by
  intro s x h
  obtain ⟨t, ht, hk, htc⟩ := halt_stops h
  obtain ⟨htc', htv, htp⟩ := x.c.settle_trapRecord
  exact ⟨t, _, ht, hk, htc, rfl, htc', htv, htp, rfl, rfl, rfl⟩

/-! ## TRAP, SCALL and BRK (R104, R109) -/

/-- Delivering a trap writes its record. -/
theorem Consist.deliver_record (c : Consist) (cause : Cause) (v : DWord) (isAsync : Bool) (st : Strm) (lanes : Lanes)
    (pc stood : BitVec 32) : (c.deliver cause v isAsync st lanes pc stood).trapc = trapcOf cause isAsync st lanes ∧
      (c.deliver cause v isAsync st lanes pc stood).trapv = v ∧ (c.deliver cause v isAsync st lanes pc stood).trappc = pc := by
  unfold Consist.deliver
  dsimp only
  split <;> exact ⟨rfl, rfl, rfl⟩

/-- The law of a body that traps once its instruction has completed: with an active lane. -/
theorem issue_trapAfter {w : Word} {o : OpInfo} {s v : State} {x : Ctx} {b : Consist} {body : Ctx → State → Eff} {cause : Cause}
    {value : DWord} (h : Issues w o s x) (hb : body x (learnPops o x s) = trapAfter o x cause value v)
    (hv : v.consist? x.key = some b) (hk : (learnPops o x s).Keeps x.key v) (hact : x.act ≠ 0) :
    ∃ t c, issue w o body s = .next t ∧ (switchIn x s).Keeps x.key t ∧ Retires o x b c ∧
      t.consist? x.key = some (c.deliver cause value false x.st x.run (x.pc + 4) (x.pc + 4)) := by
  obtain ⟨c, hc, hr, hkeep⟩ := complete_retires (o := o) hv
  rw [trapAfter, if_neg hact, State.modConsist_eq hc] at hb
  obtain ⟨t, ht, hkt, htc⟩ := issue_stops h hb (State.consist?_setConsist_same ..)
    (hk.trans (hkeep.trans (State.keeps_setConsist ..)))
  exact ⟨t, c, ht, hkt, hr, htc⟩

/-- What the handler of a software trap starts with, or how the consist ends. -/
theorem softwareTrap_delivered {x : Ctx} {c : Consist} {cause : Cause} {v : DWord} {pc : BitVec 32}
    (hhandler : c.handler = x.c.handler) (hsaved : c.saved = x.c.saved) (hstatus : c.status = x.c.status) :
    let t := c.deliver cause v false x.st x.run pc pc
    t.trapc = x.run ++ 0#22 ++ 0#1 ++ BitVec.ofBool (x.st == .a) ++ 0#2 ++ cause.code ∧ t.trapv = v ∧ t.trappc = pc ∧
      (∀ h, x.c.handler = some h → x.c.saved = none → t.status = x.c.status ∧ t.level = 1 ∧ t.a.latchValid = 0 ∧
        t.a.absent = ~~~x.run ∧ (∀ l, l < 32 → tget t.a.pc l = h)) ∧
      (x.c.handler = none ∨ x.c.saved ≠ none →
        t.status = .terminated { trapc := t.trapc, trapv := t.trapv, trappc := t.trappc }) := by
  intro t
  obtain ⟨htc, htv, htp⟩ := c.deliver_record cause v false x.st x.run pc pc
  refine ⟨htc, htv, htp, fun h hh hs => ?_, fun hends => ?_⟩
  · have ht := c.deliver_handler cause v false x.st x.run pc pc h (hsaved.trans hs) (hhandler.trans hh)
    change t = _ at ht
    rw [ht]
    exact ⟨(c.settle_status).trans hstatus, congrArg BitVec.toNat (supervisorCid_level c.settle.cid), rfl, rfl,
      handlerStream_pc _ h x.run⟩
  · rw [htc, htv, htp]
    exact c.deliver_terminates cause v false x.st x.run pc pc (by rwa [hhandler, hsaved])

/-- The law of a body that traps once its instruction has completed: with no active lane it completes. -/
theorem issue_trapAfter_inactive {w : Word} {o : OpInfo} {s v : State} {x : Ctx} {b : Consist} {body : Ctx → State → Eff}
    {cause : Cause} {value : DWord} (h : Issues w o s x) (hb : body x (learnPops o x s) = trapAfter o x cause value v)
    (hv : v.consist? x.key = some b) (hk : (learnPops o x s).Keeps x.key v) (hact : x.act = 0) :
    ∃ t c, issue w o body s = .next t ∧ (switchIn x s).Keeps x.key t ∧ t.consist? x.key = some c ∧ Retires o x b c := by
  rw [trapAfter, if_pos hact] at hb
  exact issue_retires h hb hv hk

/-- What O28 says of an instruction `e` that traps once it has completed. -/
def TrapsAfter (i : Instr) (o : OpInfo) (cause : Cause) (value : DWord) (s : State) (x : Ctx) : Prop :=
  (x.act ≠ 0 →
    ∃ t c, exec i s = .next t ∧ (switchIn x s).Keeps x.key t ∧ t.consist? x.key = some c ∧
      c.trapc = x.run ++ 0#22 ++ 0#1 ++ BitVec.ofBool (x.st == .a) ++ 0#2 ++ cause.code ∧
      c.trapv = value ∧ c.trappc = x.pc + 4 ∧
      (∀ h, x.c.handler = some h → x.c.saved = none →
        c.status = x.c.status ∧ c.level = 1 ∧ c.a.latchValid = 0 ∧ c.a.absent = ~~~x.run ∧ (∀ l, l < 32 → tget c.a.pc l = h)) ∧
      (x.c.handler = none ∨ x.c.saved ≠ none →
        c.status = .terminated { trapc := c.trapc, trapv := c.trapv, trappc := c.trappc })) ∧
  (x.act = 0 →
    ∃ t c, exec i s = .next t ∧ (switchIn x s).Keeps x.key t ∧ t.consist? x.key = some c ∧ x.c.Keeps c ∧ c.vregs = x.c.vregs ∧
      c.aregs = x.c.aregs ∧ c.sregs = x.c.sregs ∧ c.csw = x.c.csw ∧ QueuesPop o x x.c c ∧
      StreamSt.Hinted o x.run (x.c.strm x.st) (c.strm x.st) ∧
      (∀ l, l < 32 → tget (c.strm x.st).pc l = if x.run.getLsbD l then x.pc + 4 else tget (x.c.strm x.st).pc l))

/-- An instruction that traps once it has completed, from its body. -/
theorem trapsAfter {w : Word} {i : Instr} {o : OpInfo} {s v : State} {x : Ctx} {pc : Table (BitVec 32)} {body : Ctx → State → Eff}
    {cause : Cause} {value : DWord} (h : Issues w o s x) (hexec : exec i s = issue w o body s)
    (hb : body x (learnPops o x s) = trapAfter o x cause value v)
    (hv : v.consist? x.key = some (x.c.setStrm x.st { x.c.strm x.st with pc := pc })) (hk : (learnPops o x s).Keeps x.key v)
    (hpc : ∀ c, Retires o x (x.c.setStrm x.st { x.c.strm x.st with pc := pc }) c → ∀ l, l < 32 →
      tget (c.strm x.st).pc l = if x.run.getLsbD l then x.pc + 4 else tget (x.c.strm x.st).pc l) :
    TrapsAfter i o cause value s x := by
  unfold TrapsAfter
  rw [hexec]
  refine ⟨fun hact => ?_, fun hact => ?_⟩
  · obtain ⟨t, c, ht, hkeep, hr, htc⟩ := issue_trapAfter h hb hv hk hact
    exact ⟨t, _, ht, hkeep, htc, softwareTrap_delivered (hr.handler.trans (Consist.setStrm_handler ..))
      (hr.saved.trans (Consist.setStrm_saved ..)) (hr.status.trans (Consist.setStrm_status ..))⟩
  · obtain ⟨t, c, ht, hkeep, htc, hr⟩ := issue_trapAfter_inactive h hb hv hk hact
    have hh := hr.hinted
    have hkeeps := hr.keeps
    rw [Consist.strm_setStrm_same] at hh
    refine ⟨t, c, ht, hkeep, htc, ?_, hr.vregs.trans (Consist.setStrm_vregs ..), hr.aregs.trans (Consist.setStrm_aregs ..),
      hr.sregs.trans (Consist.setStrm_sregs ..), hr.csw.trans (Consist.setStrm_csw ..), fun q l hl => ?_,
      ⟨hh.pending, hh.left, hh.pass, hh.hold⟩, hpc c hr⟩
    · unfold Consist.Keeps at hkeeps ⊢
      rw [hkeeps]; cases x.st <;> rfl
    · rw [hr.pops q l hl, Consist.queueOf_setStrm]

theorem swtrap_trapsAfter {f : BitVec 3} {top : DWord} {a : BitVec 7} {i : Instr} {s : State} {x : Ctx}
    (hexec : exec i s = swtrap f top a s)
    (h : Issues (packReg 0x60 0x78 a 0x78 0 f) { uses := [(2, a, .src false true)], uniform := true, transfer := true } s x) :
    TrapsAfter i { uses := [(2, a, .src false true)], uniform := true, transfer := true } .swtrap
      (((src1 x a (lowest x.act)).setWidth 32).setWidth 64 ||| top) s x := by
  have hm := fun f => modStrm_eq (f := f) ((consist?_learnPops
    { uses := [(2, a, .src false true)], uniform := true, transfer := true } x s x.key).trans h.consist)
  rw [swtrap] at hexec
  refine trapsAfter h hexec rfl (pc := setLanes (x.c.strm x.st).pc (lanesOf x.run) (fun _ => x.pc + 4)) ?_ ?_ (fun c hr l hl => ?_)
  · rw [hm, State.consist?_setConsist_same]
  · rw [hm]; exact State.keeps_setConsist ..
  · rw [hr.pc_transfer rfl, Consist.strm_setStrm_same, tget_setLanes]
    simp only [mem_lanesOf, hl, true_and]

theorem brk_trapsAfter {s : State} {x : Ctx} (h : Issues (packReg 0x60 0x78 0x78 0x78 0 5) {} s x) :
    TrapsAfter .brk {} .brk 0 s x := by
  refine trapsAfter h exec_brk rfl (pc := (x.c.strm x.st).pc) ?_ (State.Keeps.refl ..) (fun c hr l hl => ?_)
  · exact ((consist?_learnPops ..).trans h.consist).trans (congrArg some (Consist.setStrm_strm ..).symm)
  · rw [(hr.passed rfl).pcs l hl, Consist.strm_setStrm_same]
    by_cases hrun : x.run.getLsbD l = true
    · simp only [hrun, if_true, pc_of_findCtx h.found hl hrun]
    · rw [if_neg hrun, if_neg hrun]

theorem softwareTraps : SoftwareTraps := by
  intro s x a
  simp only [List.forall_mem_cons]
  refine ⟨fun u hu h => ?_, fun u hu h => ?_, fun u hu h => ?_, fun _ h => absurd h List.not_mem_nil⟩
  · obtain rfl := Option.some.inj hu
    have ht := swtrap_trapsAfter (exec_trap (a := a)) h
    rwa [show ∀ y : DWord, y ||| 0 = y from fun y => BitVec.or_zero] at ht
  · obtain rfl := Option.some.inj hu
    exact swtrap_trapsAfter (exec_scall (a := a)) h
  · obtain rfl := Option.some.inj hu
    exact brk_trapsAfter h

/-- Settles O28: each completes and delivers its trap, and HALT stops its consist as its results have landed. -/
theorem softwareTrapsAndHalt : Obligations.SoftwareTrapsAndHalt := ⟨softwareTraps, haltStops⟩

/-! ## ERET (R105, R106, R109) -/

/-- A target in the code and aligned is not refused. -/
theorem badTarget_none {c : Consist} {ls : List Nat} {target : Nat → Nat} (hcode : ∀ l ∈ ls, target l < c.csize)
    (halign : ∀ l ∈ ls, target l % 4 = 0) : badTarget c ls target = none := by
  have h1 : ls.find? (fun l => decide (c.csize ≤ target l)) = none := by
    simpa using hcode
  have h2 : ls.find? (fun l => decide (target l % 4 ≠ 0)) = none := by
    simpa using halign
  rw [badTarget, h1, h2]

theorem eret_leaves {s : State} {x : Ctx} {v : Saved} (h : Issues (packReg 0x60 0x78 0x78 0x78 0 4) { transfer := true } s x)
    (hsaved : x.c.saved = some v) (hgood : (if x.c.cancelled then none else badTarget x.c [0] (fun _ => x.c.trappc.toNat)) = none) :
    ∃ t, exec .eret s = .next t ∧ (switchIn x s).Keeps x.key t ∧ t.consist? x.key = some (x.c.leaveHandler v) := by
  rw [exec_eret, execEret]
  refine issue_stops_own (f := fun c => c.leaveHandler v) h ?_
  simp only [hsaved, hgood]

theorem fieldMask_level : fieldMask 0x30000 16 2 := by unfold fieldMask; decide

/-- The lanes of a returning trap that stood where it was taken resume at TRAPPC (R106). -/
def resumed (pc : Table (BitVec 32)) (lanes : Lanes) (stood target : BitVec 32) : Table (BitVec 32) :=
  setLanes pc ((lanesOf lanes).filter (fun l => tget pc l == stood)) (fun _ => target)

theorem tget_resumed (pc : Table (BitVec 32)) (trapc : DWord) (stood target : BitVec 32) {l : Nat} (hl : l < 32) :
    tget (resumed pc (trapc.extractLsb' 32 32) stood target) l
      = if trapc.getLsbD (32 + l) = true ∧ tget pc l = stood then target else tget pc l := by
  rw [resumed, tget_setLanes]
  simp only [List.mem_filter, mem_lanesOf, BitVec.getLsbD_extractLsb', hl, decide_true, Bool.true_and, true_and, beq_iff_eq]

/-- What leaving a handler that was not cancelled makes of a consist. -/
theorem Consist.leaveHandler_spec (c : Consist) (v : Saved) (hc : c.cancelled = false) :
    let r := c.leaveHandler v
    r = { c with saved := none, cid := r.cid, a := r.a, c := r.c } ∧
      r.cid = (c.cid &&& ~~~(0x30000#32)) ||| (v.level.setWidth 32 <<< 16) ∧
      r.a = { v.a with preds := c.a.preds, rets := c.a.rets, spilled := c.a.spilled, exited := v.a.exited ||| c.a.exited,
                       pc := r.a.pc, barWaits := r.a.barWaits } ∧
      r.c = { v.c with pc := r.c.pc, barWaits := r.c.barWaits } ∧
      r.a.pc = (if c.trapc.getLsbD 8 then resumed v.a.pc (c.trapc.extractLsb' 32 32) v.pc c.trappc else v.a.pc) ∧
      r.c.pc = (if c.trapc.getLsbD 8 then v.c.pc else resumed v.c.pc (c.trapc.extractLsb' 32 32) v.pc c.trappc) := by
  intro r
  have hr : r = c.leaveHandler v := rfl
  clear_value r
  unfold Consist.leaveHandler at hr
  dsimp only at hr
  rw [if_neg (Bool.eq_false_iff.mp hc)] at hr
  cases h8 : c.trapc.getLsbD 8
  · rw [h8, if_neg Bool.false_ne_true] at hr
    subst hr
    exact ⟨rfl, rfl, rfl, rfl, rfl, rfl⟩
  · rw [h8, if_pos rfl] at hr
    subst hr
    exact ⟨rfl, rfl, rfl, rfl, rfl, rfl⟩

/-- Settles O10: the handler is left as `Consist.leaveHandler` says, with or without CANCEL. -/
theorem eretReturns : Obligations.EretReturns := by
  intro s x v h hsaved
  refine ⟨fun hcan hcode halign => ?_, fun hcan => ?_⟩
  · have hgood : (if x.c.cancelled then none else badTarget x.c [0] (fun _ => x.c.trappc.toNat)) = none := by
      rw [hcan, badTarget_none (fun _ _ => hcode) (fun _ _ => halign)]; rfl
    obtain ⟨t, ht, hk, htc⟩ := eret_leaves h hsaved hgood
    obtain ⟨hr, hcid, ha, hc, hapc, hcpc⟩ := x.c.leaveHandler_spec v hcan
    refine ⟨t, _, ht, htc, hk, ?_, ?_, ?_, ?_, ?_, ?_, ?_, ?_, ?_, ?_, ?_, ?_, ?_, ?_, ?_, fun l hl => ?_, fun l hl => ?_⟩
    iterate 2 rw [hr]
    · rw [hcid]
      exact extractLsb'_putField fieldMask_level _ _ (by decide)
    iterate 4 rw [hr]
    iterate 2 rw [ha]
    iterate 2 rw [hc]
    · rw [ha]
    · rw [hc]
    · rw [ha]
    · rw [hc]
    · rw [hapc]
      cases x.c.trapc.getLsbD 8
      · rfl
      · rw [if_pos rfl, tget_resumed _ _ _ _ hl]
        simp only [true_and]
    · rw [hcpc]
      cases x.c.trapc.getLsbD 8
      · rw [if_neg Bool.false_ne_true, tget_resumed _ _ _ _ hl]
        simp only [true_and]
      · rfl
  · obtain ⟨t, ht, hk, htc⟩ := eret_leaves h hsaved (if_pos hcan)
    have hr : x.c.leaveHandler v = { x.c.leaveHandler v with status := .draining } ∧
        (x.c.leaveHandler v).a.exited = BitVec.allOnes 32 ∧ (x.c.leaveHandler v).c.exited = BitVec.allOnes 32 := by
      unfold Consist.leaveHandler
      dsimp only
      rw [if_pos hcan]
      exact ⟨rfl, rfl, rfl⟩
    exact ⟨t, _, ht, htc, hk, by rw [hr.1], hr.2.1, hr.2.2⟩

end Sys2Proof.Machine

/-! The special registers and CYC (R100, R107 to R109, R176). -/

namespace Sys2Proof.Machine

open Sys2Proof

/-! ## Results written (R31 to R33) -/

/-- Nothing that the instruction pops for a lane is missing. -/
def PopsThere (o : OpInfo) (x : Ctx) : Prop := ∀ q l, l < 32 → popsFor o x q l ≤ (x.c.queueOf q l).length

theorem Issues.popsThere {w : Word} {o : OpInfo} {s : State} {x : Ctx} (h : Issues w o s x) : PopsThere o x := h.pops

/-- Completing after a result was written to D leaves what the result and the pops make of the consist. -/
theorem Retires.wrote {o : OpInfo} {x : Ctx} {s t z : State} {c : Consist} {d : BitVec 7} {wide nw : Bool} {f : Nat → DWord}
    (hr : Retires o x (putResult z x.c x.st d wide nw (lanesOf x.act) f) c) (ht : o.transfer = false) (hpops : PopsThere o x)
    (hk : (switchIn x s).Keeps x.key t) (hc : t.consist? x.key = some c) : Wrote o x d wide nw f x.c.csw s t := by
  obtain ⟨C, hC, k1, k2, k3, k4, k5, k6, k7, k8⟩ := putResult_fields z x x.c.csw d wide nw f
  have k9 := putResult_queues z x x.c.csw d wide nw f
  rw [Ctx.withCsw_self] at hC k9
  rw [← hC] at hr k9
  have hkeep := hr.keeps
  refine ⟨hk, c, hc, ?_, hr.csw.trans k2, hr.inflight.trans k3, fun m l hl => ?_, fun m l hl => ?_,
    fun m => ?_, fun m l hl => ?_, ?_, ?_, hr.other.trans k8, fun q l hl => ?_, passed_congr ?_ (hr.passed ht)⟩
  · unfold Consist.Keeps at hkeep k1 ⊢
    rw [hkeep, k1]
  · rw [← k4 m l hl]; unfold Consist.v; rw [hr.vregs]
  · rw [← k5 m l hl, hr.aregs]
  · rw [← k6 m, hr.sregs]
  · rw [hr.latch, k7]
    unfold newLatch
    by_cases ha : x.act = 0
    · simp [ha]
    · rw [if_neg ha]
      unfold StreamSt.putLatch
      dsimp only
      rw [tget_lanes_tset _ _ _ _ _ _ (lanesOf_lt _) hl]
      simp only [mem_lanesOf, hl, true_and]
  · rw [hr.latchValid, k7]; split <;> rfl
  · rw [hr.preds, k7]; split <;> rfl
  · obtain ⟨new, h1, h2⟩ := k9 q l hl
    exact ⟨new, by rw [hr.pops q l hl, h1, List.drop_append_of_le_length (hpops q l hl)], h2⟩
  · rw [k7]; split <;> rfl

/-! ## RDSR (R109) -/

theorem rdsr_wrote {s : State} {x : Ctx} {d b : BitVec 7} {w : BitVec 1}
    (h : Issues (packReg 0x60 d 0x78 b w 1) { uses := [(1, d, .dst (wideSpecial b) true true), (3, b, .special)] } s x) :
    ∃ t, exec (.rdsr d b w) s = .next t ∧ Wrote { uses := [(1, d, .dst (wideSpecial b) true true), (3, b, .special)] } x d
      (wideSpecial b) (w == 1) (fun _ => x.c.special b) x.c.csw s t := by
  rw [exec_rdsr, execRdsr]
  exact ⟨_, issue_ok h rfl, wrote_of_writeLanes h rfl rfl⟩

/-! ## CYC (R109) -/

/-- A destination alone pops nothing. -/
theorem popsOf_dst (d : BitVec 7) (wide a n : Bool) (st : Strm) : popsOf { uses := [(1, d, .dst wide a n)] } st = [] := rfl

theorem cyc_wrote {s : State} {x : Ctx} {d : BitVec 7} {w : BitVec 1}
    (h : Issues (packReg 0x60 d 0x78 0x78 w 3) { uses := [(1, d, .dst true true true)] } s x) (hact : x.act ≠ 0) :
    ∃ t now, exec (.cyc d w) s = .next t ∧ (t.core (coreOf x.key)).cyc = now ∧
      Wrote { uses := [(1, d, .dst true true true)] } x d true (w == 1) (fun _ => now) x.c.csw
        (s.setCore (coreOf x.key) { s.core (coreOf x.key) with cyc := now }) t := by
  rw [exec_cyc, execCyc]
  have hlearn : learnPops { uses := [(1, d, .dst true true true)] } x s = s := by rw [learnPops, if_pos (popsOf_dst ..)]
  let now := (s.core (coreOf x.key)).cyc + BitVec.ofNat 64 (Config.cycAdvance s.tick)
  let u := s.setCore (coreOf x.key) { s.core (coreOf x.key) with cyc := now }
  obtain ⟨c, hc, hr, hk⟩ := retire_retires (o := { uses := [(1, d, .dst true true true)] }) (x := x)
    (State.consist?_setConsist_same u x.key (putResult u x.c x.st d true (w == 1) (lanesOf x.act) (fun _ => now)))
  have hkeep := (State.keeps_setConsist u x.key (putResult u x.c x.st d true (w == 1) (lanesOf x.act) (fun _ => now))).switchIn.trans hk
  refine ⟨_, now, issue_ok h (by rw [hlearn]; exact if_neg hact), ?_, hr.wrote rfl h.popsThere hkeep hc⟩
  have hcores := hkeep.cores
  rw [State.core, hcores, cores_switchIn, tget_tset]
  simp [u, State.core, State.setCore, tget_tset]

/-! ## WRSR (R107 to R109, R176) -/

/-- The special registers that WRSR may write. -/
def writableSpecials : List (BitVec 7) := [0, 2, 3, 4, 5, 0x0A]

/-- The values that a special register refuses (R107, R108, R176). -/
def specialRefused (c : Consist) (b : BitVec 7) (v : DWord) : Prop :=
  let lo : BitVec 32 := v.setWidth 32
  let badRake := fun (r : BitVec 3) => r = 0 ∨ 5 < r.toNat
  (b = 0 ∧ (badRake (lo.extractLsb' 29 3) ∨ badRake (lo.extractLsb' 26 3) ∨ 4 < (lo.extractLsb' 7 3).toNat))
    ∨ (b = 2 ∧ c.privWords < lo.toNat) ∨ (b = 0x0A ∧ v.toNat % 32 ≠ 0)

theorem specialFixed_of_writable {b : BitVec 7} (hb : b ∈ writableSpecials) : specialFixed b = false := by
  revert b; decide

/-- A mask of the low half of a double word. -/
theorem setWidth_low_and (v : DWord) (m : BitVec 32) : (v.setWidth 32 &&& m).setWidth 64 = v &&& m.setWidth 64 := by
  apply BitVec.eq_of_getLsbD_eq
  intro i hi
  simp only [BitVec.getLsbD_setWidth, BitVec.getLsbD_and, hi, decide_true, Bool.true_and]
  by_cases h : i < 32
  · simp [h]
  · simp [h, BitVec.getLsbD_of_ge m i (Nat.le_of_not_lt h)]

theorem setWidth_low (v : DWord) : (v.setWidth 32).setWidth 64 = v &&& 0xFFFFFFFF := by
  have h := setWidth_low_and v (BitVec.allOnes 32)
  rwa [BitVec.and_allOnes] at h

/-- A special register that is none of those which changed reads as before. -/
theorem Consist.special_congr {c c' : Consist} {n : BitVec 7} (h0 : n.toNat = 0 → c'.csw = c.csw)
    (h2 : n.toNat = 2 → c'.stklim = c.stklim) (h3 : n.toNat = 3 → c'.trapc = c.trapc) (h4 : n.toNat = 4 → c'.trapv = c.trapv)
    (h5 : n.toNat = 5 → c'.trappc = c.trappc) (h10 : n.toNat = 10 → c'.htbl = c.htbl)
    (hsame : c' = { c with csw := c'.csw, stklim := c'.stklim, trapc := c'.trapc, trapv := c'.trapv, trappc := c'.trappc,
                           htbl := c'.htbl, a := c'.a, c := c'.c, lq := c'.lq, xqAC := c'.xqAC, xqCA := c'.xqCA,
                           sq := c'.sq }) : c'.special n = c.special n := by
  unfold Consist.special
  split
  case h_1 h => rw [h0 h]
  case h_3 h => rw [h2 h]
  case h_4 h => rw [h3 h]
  case h_5 h => rw [h4 h]
  case h_6 h => rw [h5 h]
  case h_11 h => rw [h10 h]
  case h_14 => rfl
  all_goals rw [hsame]

/-- A consist after a write of one of its writable special registers. -/
def Consist.withSpecial (c : Consist) (b : BitVec 7) (v : DWord) : Consist :=
  { c with csw := if b.toNat = 0 then v.setWidth 32 &&& cswMask else c.csw
           stklim := if b.toNat = 2 then v.setWidth 32 else c.stklim
           trapc := if b.toNat = 3 then v &&& trapcMask else c.trapc
           trapv := if b.toNat = 4 then v else c.trapv
           trappc := if b.toNat = 5 then v.setWidth 32 else c.trappc
           htbl := if b.toNat = 10 then v else c.htbl }

theorem Consist.special_withSpecial (c : Consist) {b : BitVec 7} (v : DWord) (hb : b ∈ writableSpecials) (n : BitVec 7) :
    (c.withSpecial b v).special n = if n = b then writtenSpecial b v else c.special n := by
  by_cases hn : n = b
  · rw [if_pos hn, hn]
    simp only [writableSpecials, List.mem_cons, List.not_mem_nil, or_false] at hb
    obtain rfl | rfl | rfl | rfl | rfl | rfl := hb
    · exact setWidth_low_and v cswMask
    · exact setWidth_low v
    · rfl
    · rfl
    · exact setWidth_low v
    · rfl
  · have hne : ∀ k : Nat, n.toNat = k → b.toNat ≠ k := fun k h h' => hn (BitVec.eq_of_toNat_eq (h.trans h'.symm))
    rw [if_neg hn]
    exact Consist.special_congr (fun h => if_neg (hne 0 h)) (fun h => if_neg (hne 2 h)) (fun h => if_neg (hne 3 h))
      (fun h => if_neg (hne 4 h)) (fun h => if_neg (hne 5 h)) (fun h => if_neg (hne 10 h)) rfl

theorem cswBad_eq_true (v : BitVec 32) : cswBad v = true ↔
    ((v.extractLsb' 29 3 = 0 ∨ 5 < (v.extractLsb' 29 3).toNat) ∨ (v.extractLsb' 26 3 = 0 ∨ 5 < (v.extractLsb' 26 3).toNat)
      ∨ 4 < (v.extractLsb' 7 3).toNat) := by
  simp only [cswBad, Bool.or_eq_true, beq_iff_eq, decide_eq_true_eq, or_assoc]

/-- A write of a special register is refused with the value, or makes the consist with it. -/
theorem Consist.putSpecial_spec (c : Consist) {b : BitVec 7} (v : DWord) (hb : b ∈ writableSpecials) :
    (specialRefused c b v → c.putSpecial b v = .error (if b = 0x0A then v else (v.setWidth 32).setWidth 64)) ∧
    (¬ specialRefused c b v → c.putSpecial b v = .ok (c.withSpecial b v)) := by
  have hcsw := cswBad_eq_true (v.setWidth 32)
  simp only [writableSpecials, List.mem_cons, List.not_mem_nil, or_false] at hb
  obtain rfl | rfl | rfl | rfl | rfl | rfl := hb
  · have hr : specialRefused c 0 v ↔ cswBad (v.setWidth 32) = true := by
      rw [hcsw]; simp [specialRefused]
    rw [hr]
    exact ⟨fun h => if_pos h, fun h => if_neg h⟩
  · have hr : specialRefused c 2 v ↔ c.privWords < (v.setWidth 32).toNat := by simp [specialRefused]
    rw [hr]
    exact ⟨fun h => if_pos h, fun h => if_neg h⟩
  · exact ⟨fun h => by simp [specialRefused] at h, fun _ => rfl⟩
  · exact ⟨fun h => by simp [specialRefused] at h, fun _ => rfl⟩
  · exact ⟨fun h => by simp [specialRefused] at h, fun _ => rfl⟩
  · have hr : specialRefused c 10 v ↔ v.toNat % 32 ≠ 0 := by simp [specialRefused]
    rw [hr]
    exact ⟨fun h => if_pos h, fun h => if_neg h⟩

/-- The operand fields of a WRSR of a register that may be written. -/
def wrsrInfo (a b : BitVec 7) : OpInfo := { uses := [(2, a, .src (wideSpecial b) true), (3, b, .special)], uniform := true }

/-- A change of a convoy and one of a consist are apart. -/
theorem State.keeps_modConvoy_setConsist (s : State) (key k : Nat) (c : Consist) (o : OpInfo) (x : Ctx) (f : Convoy → Convoy) :
    (s.modConvoy k f).Keeps key (((learnPops o x s).setConsist key c).modConvoy k f) ∧
      (((learnPops o x s).setConsist key c).modConvoy k f).consist? key = some c := by
  have hconvoy : ((learnPops o x s).setConsist key c).convoy? k = s.convoy? k := by
    rw [learnPops_eq]; rfl
  unfold State.modConvoy
  rw [hconvoy]
  cases s.convoy? k with
  | none =>
    exact ⟨.of_eq (by rw [learnPops_eq]; rfl) (fun j hj => by
      rw [State.consist?_setConsist, if_neg hj, consist?_learnPops]), State.consist?_setConsist_same ..⟩
  | some v =>
    exact ⟨.of_eq (by rw [learnPops_eq]; rfl) (fun j hj => by
      change ((learnPops o x s).setConsist key c).consist? j = s.consist? j
      rw [State.consist?_setConsist, if_neg hj, consist?_learnPops]), State.consist?_setConsist_same ..⟩

/-- The state that a WRSR of `b` starts its completion from: a write of HTBL discards the entries its convoy keeps. -/
def entriesDropped (b : BitVec 7) (x : Ctx) (s : State) : State :=
  if b = 0x0A then s.modConvoy x.c.convoy (fun v => { v with handles := [] }) else s

theorem wrsr_refused {s : State} {x : Ctx} {a b : BitVec 7} (hb : b ∈ writableSpecials)
    (h : Issues (packReg 0x60 0x78 a b 0 2) (wrsrInfo a b) s x) (hact : x.act ≠ 0) {v : DWord}
    (hv : opVal x a (wideSpecial b) 0 (kInt x) (lowest x.act) = v) (hr : specialRefused x.c b v) :
    exec (.wrsr a b) s = .next (trapAt x false .bounds (if b = 0x0A then v else (v.setWidth 32).setWidth 64) (switchIn x s)) := by
  rw [exec_wrsr, execWrsr, specialFixed_of_writable hb]
  refine issue_trap (o := wrsrInfo a b) h ?_
  rw [← hv] at hr ⊢
  dsimp only
  rw [if_neg hact]
  change (match x.c.putSpecial b (opVal x a (wideSpecial b) 0 (kInt x) (lowest x.act)) with
    | .error bad => Eff.trap .bounds bad
    | .ok c => _) = _
  rw [(x.c.putSpecial_spec _ hb).1 hr]

theorem wrsr_completes {s : State} {x : Ctx} {a b : BitVec 7} (hb : b ∈ writableSpecials)
    (h : Issues (packReg 0x60 0x78 a b 0 2) (wrsrInfo a b) s x) (hact : x.act ≠ 0) {v : DWord}
    (hv : opVal x a (wideSpecial b) 0 (kInt x) (lowest x.act) = v) (hr : ¬ specialRefused x.c b v) :
    ∃ t c, exec (.wrsr a b) s = .next t ∧ (switchIn x (entriesDropped b x s)).Keeps x.key t ∧ t.consist? x.key = some c ∧
      Retires (wrsrInfo a b) x (x.c.withSpecial b v) c := by
  rw [exec_wrsr, execWrsr, specialFixed_of_writable hb]
  have hstate : ∃ u : State, (entriesDropped b x s).Keeps x.key u ∧ u.consist? x.key = some (x.c.withSpecial b v) ∧
      u = if b == 0x0A then ((learnPops (wrsrInfo a b) x s).setConsist x.key (x.c.withSpecial b v)).modConvoy x.c.convoy
        (fun v => { v with handles := [] }) else (learnPops (wrsrInfo a b) x s).setConsist x.key (x.c.withSpecial b v) := by
    unfold entriesDropped
    by_cases hten : b = 0x0A
    · rw [if_pos hten, if_pos (beq_iff_eq.mpr hten)]
      obtain ⟨hkeep, hcons⟩ := s.keeps_modConvoy_setConsist x.key x.c.convoy (x.c.withSpecial b v) (wrsrInfo a b) x
        (fun v => { v with handles := [] })
      exact ⟨_, hkeep, hcons, rfl⟩
    · rw [if_neg hten, if_neg (fun e => hten (beq_iff_eq.mp e))]
      exact ⟨_, (State.keeps_learnPops ..).trans (State.keeps_setConsist ..), State.consist?_setConsist_same .., rfl⟩
  obtain ⟨u, hku, huc, hu⟩ := hstate
  obtain ⟨c, hc, hret, hk⟩ := retire_retires (o := wrsrInfo a b) (x := x) huc
  refine ⟨_, c, issue_ok (t := u) (o := wrsrInfo a b) h ?_, hku.switchIn.trans hk, hc, hret⟩
  rw [← hv] at hr hu
  rw [hu]
  dsimp only
  rw [if_neg hact]
  change (match x.c.putSpecial b (opVal x a (wideSpecial b) 0 (kInt x) (lowest x.act)) with
    | .error bad => Eff.trap .bounds bad
    | .ok c => _) = _
  rw [(x.c.putSpecial_spec _ hb).2 hr]
  rfl

/-- Settles O29: RDSR and CYC write their result, and WRSR its register or nothing. -/
theorem specialRegisters : Obligations.SpecialRegisters := by
  intro s x a b d w
  refine ⟨rdsr_wrote, fun hb _ => ?_, cyc_wrote⟩
  intro at2 h hact v lo badRake refused
  refine ⟨fun hr => ?_, fun hr => ?_⟩
  · exact wrsr_refused hb h hact rfl hr
  · obtain ⟨t, c, ht, hk, hc, hret⟩ := wrsr_completes hb h hact rfl hr
    refine ⟨t, c, ht, hc, fun n _ => ?_, hret.vregs, hret.aregs, hret.sregs, hret.pops, hret.passed rfl, hk⟩
    rw [← x.c.special_withSpecial v hb n, hret.same]
    exact Consist.special_congr (fun _ => rfl) (fun _ => rfl) (fun _ => rfl) (fun _ => rfl) (fun _ => rfl) (fun _ => rfl) rfl

end Sys2Proof.Machine

/-!
Accesses of a consist's own memory that make room in caches and write bytes, where no copy is corrupt and no injection is armed
(R181, R184, R393): no consist and no core changes, nor any byte off what is written.
-/

namespace Sys2Proof.Machine

open Sys2Proof

/-- Of a sound state only bytes at the addresses `at'`, caches and grants have changed. -/
structure State.Stores (at' : Nat → Prop) (s t : State) : Prop where
  sound : t.sound
  consists : t.consists = s.consists
  cores : t.cores = s.cores
  bytes : ∀ a, a < 2 ^ 40 → ¬ at' a → t.byte a = s.byte a

namespace State.Stores

variable {at' : Nat → Prop} {s t u : State}

theorem refl (h : s.sound) : s.Stores at' s := ⟨h, rfl, rfl, fun _ _ _ => rfl⟩

theorem trans (h : s.Stores at' t) (k : t.Stores at' u) : s.Stores at' u :=
  ⟨k.sound, k.consists.trans h.consists, k.cores.trans h.cores, fun a ha hat => (k.bytes a ha hat).trans (h.bytes a ha hat)⟩

theorem foldl {α : Type} {f : State → α → State} (l : List α) (hf : ∀ e ∈ l, ∀ s : State, s.sound → s.Stores at' (f s e))
    (h : s.sound) : s.Stores at' (l.foldl f s) := by
  induction l generalizing s with
  | nil => exact refl h
  | cons e l ih =>
    have h1 := hf e (List.mem_cons_self ..) s h
    exact h1.trans (ih (fun e' he' => hf e' (List.mem_cons_of_mem _ he')) h1.sound)

theorem mono {at'' : Nat → Prop} (h : s.Stores at' t) (hat : ∀ a, at' a → at'' a) : s.Stores at'' t :=
  ⟨h.sound, h.consists, h.cores, fun a ha hn => h.bytes a ha (fun k => hn (hat a k))⟩

end State.Stores

/-! ## Caches (R184, R386) -/

section Sound

variable {at' : Nat → Prop} {s : State} (h : s.sound)
include h

/-- A sound state of which only the tables of lines changed. -/
theorem State.sound.stores_setLines (core : Nat) (t : Table (Option CacheLine)) : s.Stores at' (s.setLines core t) :=
  ⟨h, rfl, rfl, fun _ _ _ => rfl⟩

theorem State.sound.corrupt_line (l : Nat) : tget s.corrupt l = (0, 0, 0) := by rw [h.1]; rfl

theorem State.sound.armedFor (d a n : Nat) : s.armedFor d a n = false := by
  simp only [State.armedFor, h.2 d, Bool.false_and]

theorem State.sound.stores_evictLine (core l : Nat) : s.Stores at' (s.evictLine core l) := by
  unfold State.evictLine
  simp only [h.corrupt_line l]
  rw [if_pos (Or.inr (Or.inl (by decide)))]
  exact h.stores_setLines ..

theorem State.sound.stores_bringLine (core l : Nat) (c : CacheLine) : s.Stores at' (s.bringLine core l c) := by
  unfold State.bringLine
  generalize ((tget s.lines core).filter _).map _ = mates
  have hroom : s.Stores at' (if c.stash.isSome ∨ mates.length < s.l1Ways core (l % 128) then s
      else match mates[s.free.toNat % mates.length]? with
        | some m => s.evictLine core m
        | none => s) := by
    split
    · exact .refl h
    · split
      · exact h.stores_evictLine ..
      · exact .refl h
  dsimp only
  generalize (if c.stash.isSome ∨ mates.length < s.l1Ways core (l % 128) then s
      else match mates[s.free.toNat % mates.length]? with
        | some m => s.evictLine core m
        | none => s) = u at hroom
  have hline := hroom.trans (hroom.sound.stores_setLines core (tset (tget u.lines core) l (some c)))
  rw [if_neg]
  · exact hline
  · rw [hline.sound.armedFor]
    simp

theorem State.sound.stores_useLines (core a n : Nat) (keep : Keep) (wrote : Bool) :
    s.Stores at' (s.useLines core a n keep wrote) := by
  unfold State.useLines
  refine .foldl _ (fun l _ s h => ?_) h
  split
  · exact h.stores_setLines ..
  · exact h.stores_setLines ..
  · exact h.stores_bringLine ..
  · exact h.stores_bringLine ..
  · exact .refl h

theorem State.sound.stores_usePriv (p : Piece) (x : Ctx) (wrote : Bool) : s.Stores at' (p.usePriv x s wrote) := by
  unfold Piece.usePriv
  split
  · exact h.stores_useLines ..
  · exact .refl h

/-- Nothing is met that a read would correct. -/
theorem State.sound.readDone (a n : Nat) (who : Option Nat) : s.readDone a n who = s := by
  have hcorrect : ∀ l, s.correctLine l = s := by
    intro l
    unfold State.correctLine
    simp [h.corrupt_line l]
  have hlines : ∀ ls : List Nat, ls.foldl State.correctLine s = s := by
    intro ls
    induction ls with
    | nil => rfl
    | cons l ls ih => rw [List.foldl_cons, hcorrect, ih]
  have hfire : ∀ ds : List Nat, ds.foldl (fun s d =>
      let x := s.die d
      if s.armedFor d a n && (x.injStore == 2 || x.injStore == 3) && s.writeEnters d a who && s.free.getLsbD d then
        s.fire d true
      else s) s = s := by
    intro ds
    induction ds with
    | nil => rfl
    | cons d ds ih =>
      rw [List.foldl_cons]
      simp only [h.armedFor, Bool.false_and, Bool.false_eq_true, if_false]
      exact ih
  unfold State.readDone
  rw [hlines]
  exact hfire _

theorem State.sound.stores_correctPieces (ps : List Piece) (who : Option Nat) : s.Stores at' (correctPieces s ps who) := by
  unfold correctPieces
  refine .foldl _ (fun p _ s h => ?_) h
  split
  · split
    · rw [h.readDone]
      exact .refl h
    · exact .refl h
  · exact .refl h

/-! ## Bytes (R331) -/

theorem State.sound.injectAt (a n : Nat) (who : Option Nat) : s.injectAt a n who = s := by
  have hfire : ∀ ds : List Nat, ds.foldl (fun s d => if s.armedFor d a n && s.writeEnters d a who then s.fire d false else s) s
      = s := by
    intro ds
    induction ds with
    | nil => rfl
    | cons d ds ih =>
      rw [List.foldl_cons]
      simp only [h.armedFor, Bool.false_and, Bool.false_eq_true, if_false]
      exact ih
  unfold State.injectAt
  have hnone : (s.corrupt.filter (fun e => e.2.2.1 == 3 && (linesOf a n).contains e.1)).foldl
      (fun t e => tset t e.1 (e.2.1, 2, e.2.2.2)) s.corrupt = s.corrupt := by rw [h.1]; rfl
  dsimp only
  rw [hnone]
  exact hfire _

end Sound

/-- Bytes set elsewhere leave a byte of LP6 DRAM alone. -/
theorem byte_setBytes_off (bs : List Byte) (s : State) (a j : Nat) (hj : j < 2 ^ 40) (h : j < a ∨ a + bs.length ≤ j) :
    (s.setBytes a bs).byte j = s.byte j := by
  induction bs generalizing s a with
  | nil => rfl
  | cons b bs ih =>
    rw [List.length_cons] at h
    rw [State.setBytes, ih _ _ (by omega)]
    by_cases ha : a < 2 ^ 40
    · rw [byte_setByte s a j b ha hj, if_neg (by omega)]
    · simp only [State.byte, State.setByte, if_neg ha, if_pos hj]

theorem setBytes_consists (bs : List Byte) (s : State) (a : Nat) :
    (s.setBytes a bs).consists = s.consists ∧ (s.setBytes a bs).cores = s.cores ∧
      (s.setBytes a bs).corrupt = s.corrupt ∧ (s.setBytes a bs).dies = s.dies := by
  induction bs generalizing s a with
  | nil => exact ⟨rfl, rfl, rfl, rfl⟩
  | cons b bs ih =>
    obtain ⟨h1, h2, h3, h4⟩ := ih (s.setByte a b) (a + 1)
    have hb : (s.setByte a b).consists = s.consists ∧ (s.setByte a b).cores = s.cores ∧
        (s.setByte a b).corrupt = s.corrupt ∧ (s.setByte a b).dies = s.dies := by
      unfold State.setByte; split <;> exact ⟨rfl, rfl, rfl, rfl⟩
    obtain ⟨k1, k2, k3, k4⟩ := hb
    exact ⟨h1.trans k1, h2.trans k2, h3.trans k3, h4.trans k4⟩

theorem State.sound.stores_write {s : State} (h : s.sound) (a : Nat) (bs : List Byte) (who : Option Nat) :
    s.Stores (fun j => a ≤ j ∧ j < a + bs.length) (s.write a bs who) := by
  have hbytes := fun j => byte_write s a bs who j
  unfold State.write at hbytes ⊢
  by_cases hbs : bs = []
  · rw [if_pos hbs]; exact .refl h
  · rw [if_neg hbs] at hbytes ⊢
    obtain ⟨h1, h2, h3, h4⟩ := setBytes_consists bs s a
    have hsame : ∀ t : State, (t.grantAt a bs.length).consists = t.consists ∧ (t.grantAt a bs.length).cores = t.cores ∧
        (t.grantAt a bs.length).corrupt = t.corrupt ∧ (t.grantAt a bs.length).dies = t.dies := by
      intro t; unfold State.grantAt; dsimp only; split <;> exact ⟨rfl, rfl, rfl, rfl⟩
    obtain ⟨g1, g2, g3, g4⟩ := hsame (s.setBytes a bs)
    have hsound : (((s.setBytes a bs).grantAt a bs.length).dropCopies a bs.length who).sound := by
      refine ⟨g3.trans (h3.trans h.1), fun d => ?_⟩
      have hd := h.2 d
      rw [State.die] at hd ⊢
      rw [← hd]
      exact congrArg (fun t => (tget t d : Die).injCtl.getLsbD 0) (g4.trans h4)
    rw [hsound.injectAt]
    refine ⟨hsound, g1.trans h1, g2.trans h2, fun j hj hn => ?_⟩
    rw [byte_dropCopies, byte_grantAt]
    exact byte_setBytes_off bs s a j hj (by omega)

end Sys2Proof.Machine

/-! Branches, calls and returns (R98, R99, R101). -/

namespace Sys2Proof.Machine

open Sys2Proof

/-! ## Runs that jump (R91, R99) -/

/-- The law of a body whose last act moves the lanes of its run. -/
theorem issue_jumps {w : Word} {o : OpInfo} {s u : State} {x : Ctx} {b : Consist} {body : Ctx → State → Eff} {ls : List Nat}
    {target : Nat → Nat} (h : Issues w o s x) (hb : body x (learnPops o x s) = .ok (jump x ls target u))
    (hu : u.consist? x.key = some b) :
    ∃ t c, issue w o body s = .next t ∧ (switchIn x u).Keeps x.key t ∧ t.consist? x.key = some c ∧
      Retires o x (b.setStrm x.st ((b.strm x.st).jumped x.run (jumpNext x ls target))) c := by
  rw [jump_eq hu] at hb
  obtain ⟨c, hc, hr, hkeep⟩ := retire_retires (o := o) (x := x) (State.consist?_setConsist_same u x.key
    (b.setStrm x.st ((b.strm x.st).jumped x.run (jumpNext x ls target))))
  exact ⟨_, c, issue_ok h hb, ((State.keeps_setConsist ..).switchIn).trans hkeep, hc, hr⟩

theorem jumpNext_congr {x : Ctx} {ls : List Nat} {f g : Nat → Nat} (h : ∀ l ∈ ls, f l = g l) (l : Nat) :
    jumpNext x ls f l = jumpNext x ls g l := by
  unfold jumpNext
  by_cases hl : l ∈ ls
  · rw [h l hl]
  · have hc : ls.contains l = false := by simpa using hl
    rw [hc]; rfl

/-- The addresses of lanes that go where their words say. -/
theorem jumpNext_toNat {x : Ctx} {n : Nat} {ls : List Nat} (f : Nat → BitVec n) (l : Nat) :
    jumpNext x ls (fun l => (f l).toNat) l = if l ∈ ls then (f l).setWidth 32 else x.pc + 4 := by
  simp only [jumpNext, List.contains_iff_mem, BitVec.ofNat_toNat]

theorem Retires.jumped {o : OpInfo} {x : Ctx} {u t : State} {b c : Consist} {at' next : Nat → BitVec 32}
    (hr : Retires o x (b.setStrm x.st ((b.strm x.st).jumped x.run at')) c) (ht : o.transfer = true)
    (hb : u.consist? x.key = some b) (hpc : (b.strm x.st).pc = (x.c.strm x.st).pc)
    (hk : (switchIn x u).Keeps x.key t) (hc : t.consist? x.key = some c) (hn : ∀ l, l < 32 → at' l = next l) :
    Jumped o x next u t := by
  have hkeep := hr.keeps
  have hl := hr.latch
  have hv := hr.latchValid
  have hp := hr.preds
  have hrets := hr.rets
  have hspilled := hr.spilled
  have hexited := hr.exited
  have hh := hr.hinted
  have hpcs := hr.pc_transfer ht
  rw [Consist.strm_setStrm_same] at hl hv hp hrets hspilled hexited hh hpcs
  refine ⟨hk, b, c, hb, hc, ?_, hr.csw.trans (Consist.setStrm_csw ..), hr.inflight.trans (Consist.setStrm_inflight ..),
    hr.vregs.trans (Consist.setStrm_vregs ..), hr.aregs.trans (Consist.setStrm_aregs ..),
    hr.sregs.trans (Consist.setStrm_sregs ..), hl, hv, hp, ?_, hrets, hspilled, hexited, fun q l hl => ?_, fun l hl => ?_,
    ⟨hh.pending, hh.left, hh.pass, hh.hold⟩⟩
  · unfold Consist.Keeps at hkeep ⊢
    rw [hkeep]; cases x.st <;> rfl
  · rw [hr.other]; cases x.st <;> rfl
  · rw [hr.pops q l hl, Consist.queueOf_setStrm]
  · rw [hpcs, StreamSt.tget_jumped _ _ _ hl, hn l hl, hpc]

/-! ## Targets (R99, R101) -/

/-- What BRA, CALL, BRX and CALLX do: the lanes `ls` go where `target` says, a call pushes its return address first. -/
def goBody (isCall : Bool) (ls : Ctx → List Nat) (target : Ctx → Nat → Nat) (x : Ctx) (s : State) : Eff :=
  match badTarget x.c (ls x) (target x) with
  | some (cause, v) => .trap cause v
  | none =>
    if isCall then (pushReturn x (ls x) s).andThen (fun _ s => .ok (jump x (ls x) (target x) s))
    else .ok (jump x (ls x) (target x) s)

theorem branch_eq (maj : BitVec 7) (isCall : Bool) (p : BitVec 3) (sense : BitVec 1) (d : BitVec 21) (s : State) :
    branch maj isCall p sense d s = issue (packBrn maj p sense d) { transfer := true }
      (goBody isCall (branchLanes · p sense) (fun x _ => (branchTarget x d).toNat)) s := rfl

theorem branchTo_eq (maj : BitVec 7) (isCall : Bool) (a : BitVec 7) (s : State) :
    branchTo maj isCall a s = issue (packReg maj 0x78 a 0x78 0 0) { uses := [(2, a, .src false true)], transfer := true }
      (goBody isCall (fun x => lanesOf x.act) (fun x l => (src1 x a l).toNat)) s := rfl

theorem branch_badTarget {x : Ctx} {p : BitVec 3} {sense : BitVec 1} {d : BitVec 21}
    (h : branchLanes x p sense ≠ [] → (branchTarget x d).toNat < x.c.csize ∧ (branchTarget x d).toNat % 4 = 0) :
    badTarget x.c (branchLanes x p sense) (fun _ => (branchTarget x d).toNat) = none :=
  badTarget_none (fun _ hl => (h (List.ne_nil_of_mem hl)).1) (fun _ hl => (h (List.ne_nil_of_mem hl)).2)

/-! ## BRA and BRX (R99, R101) -/

theorem goBody_of_branch {x : Ctx} {ls : Ctx → List Nat} {target : Ctx → Nat → Nat} (s : State)
    (h : badTarget x.c (ls x) (target x) = none) : goBody false ls target x s = .ok (jump x (ls x) (target x) s) := by
  simp only [goBody, h, Bool.false_eq_true, if_false]

/-- The law of a branch whose lanes go where their words say. -/
theorem issue_branch {w : Word} {o : OpInfo} {s : State} {x : Ctx} {n : Nat} {ls : Ctx → List Nat} {f : Ctx → Nat → BitVec n}
    (h : Issues w o s x) (ht : o.transfer = true) (hgood : badTarget x.c (ls x) (fun l => (f x l).toNat) = none) :
    ∃ t, issue w o (goBody false ls (fun x l => (f x l).toNat)) s = .next t ∧
      Jumped o x (fun l => if l ∈ ls x then (f x l).setWidth 32 else x.pc + 4) s t := by
  obtain ⟨t, c, hexec, hk, hc, hr⟩ := issue_jumps h (goBody_of_branch (ls := ls) (target := fun x l => (f x l).toNat) _ hgood)
    ((consist?_learnPops ..).trans h.consist)
  exact ⟨t, hexec, hr.jumped ht h.consist rfl ((State.keeps_learnPops o x s).switchIn.trans hk) hc
    (fun l _ => jumpNext_toNat (f x) l)⟩

theorem Jumped.congr {o : OpInfo} {x : Ctx} {f g : Nat → BitVec 32} {u t : State} (h : Jumped o x f u t)
    (hfg : ∀ l, l < 32 → f l = g l) : Jumped o x g u t := by
  obtain ⟨hk, b, c, hb, hc, h1, h2, h3, h4, h5, h6, h7, h8, h9, h10, h11, h12, h13, hq, hpc, hh⟩ := h
  refine ⟨hk, b, c, hb, hc, h1, h2, h3, h4, h5, h6, h7, h8, h9, h10, h11, h12, h13, hq, fun l hl => ?_, hh⟩
  rw [hpc l hl, hfg l hl]

theorem branchesJump : BranchesJump := by
  intro s x p sense d a
  refine ⟨fun h hgood => ?_, fun h hgood => ?_⟩
  · rw [exec_bra, execBra, branch_eq]
    obtain ⟨t, ht, hj⟩ := issue_branch (f := fun x _ => branchTarget x d) (ls := (branchLanes · p sense)) h rfl
      (branch_badTarget hgood)
    exact ⟨t, ht, hj.congr (fun l _ => by rw [BitVec.setWidth_eq])⟩
  · rw [exec_brx, execBrx, branchTo_eq]
    obtain ⟨t, ht, hj⟩ := issue_branch (f := fun x l => src1 x a l) (ls := fun x => lanesOf x.act) h rfl
      (badTarget_none (fun l hl => (hgood l hl).1) (fun l hl => (hgood l hl).2))
    exact ⟨t, ht, hj.congr (fun l hl => by simp only [mem_lanesOf, hl, true_and])⟩

/-! ## The return stack (R98) -/

/-- How far below the end of the PBASE block a stream's spilled entry lies. -/
def spillDepth (st : Strm) (j : Nat) : Nat := 2 * j + (match st with | .a => 1 | .c => 2)

theorem spillWord_eq (c : Consist) (st : Strm) (j : Nat) :
    spillWord c st j = if spillDepth st j ≤ c.privWords then some (c.privWords - spillDepth st j) else none := rfl

theorem pushFits_iff (x : Ctx) (l : Nat) : pushFits x l ↔ (tget (x.c.strm x.st).rets l).length < 8 ∨
    x.c.stklim.toNat + spillDepth x.st (tget (x.c.strm x.st).spilled l) ≤ x.c.privWords := Iff.rfl

theorem spillsOf_eq (x : Ctx) (ls : List Nat) : spillsOf x ls = ls.filterMap (fun l =>
    if (tget (x.c.strm x.st).rets l).length < 8 then none
    else some (l, x.c.privWords - spillDepth x.st (tget (x.c.strm x.st).spilled l))) := rfl

/-- What a push spills: nothing while there is room in the core, a word where it fits. -/
theorem pushSpill_spec (x : Ctx) (l : Nat) :
    ((tget (x.c.strm x.st).rets l).length < 8 → pushSpill x l = some none) ∧
    (¬ (tget (x.c.strm x.st).rets l).length < 8 → pushFits x l →
      pushSpill x l = some (some (x.c.privWords - spillDepth x.st (tget (x.c.strm x.st).spilled l)))) ∧
    (¬ pushFits x l → pushSpill x l = none) := by
  rw [pushFits_iff]
  unfold pushSpill
  dsimp only
  rw [spillWord_eq]
  refine ⟨fun h => if_pos h, fun h hf => ?_, fun hf => ?_⟩
  · have hfit := hf.resolve_left h
    rw [if_neg h, if_pos (by omega)]
    exact if_neg (by omega)
  · obtain ⟨h, hfit⟩ := not_or.mp hf
    rw [if_neg h]
    by_cases hword : spillDepth x.st (tget (x.c.strm x.st).spilled l) ≤ x.c.privWords
    · rw [if_pos hword]
      exact if_pos (by omega)
    · rw [if_neg hword]

theorem pushSpill_isNone (x : Ctx) (l : Nat) : (pushSpill x l).isNone = true ↔ ¬ pushFits x l := by
  obtain ⟨hroom, hfit, hno⟩ := pushSpill_spec x l
  refine ⟨fun h hf => ?_, fun h => by rw [hno h]; rfl⟩
  by_cases hr : (tget (x.c.strm x.st).rets l).length < 8
  · simp [hroom hr] at h
  · simp [hfit hr hf] at h

/-- The word that a lane's push spills to, with its lane. -/
def pushedWord (x : Ctx) (l : Nat) : Option (Nat × Nat) := match pushSpill x l with | some (some w) => some (l, w) | _ => none

/-- The words that the pushes of lanes spill to, where all fit. -/
theorem filterMap_pushedWord (x : Ctx) (ls : List Nat) (h : ∀ l ∈ ls, pushFits x l) :
    ls.filterMap (pushedWord x) = spillsOf x ls := by
  rw [spillsOf_eq]
  apply List.filterMap_congr
  intro l hl
  obtain ⟨hroom, hfit, -⟩ := pushSpill_spec x l
  unfold pushedWord
  by_cases hr : (tget (x.c.strm x.st).rets l).length < 8
  · rw [if_pos hr, hroom hr]
  · rw [if_neg hr, hfit hr (h l hl)]

theorem mem_spillsOf {x : Ctx} {ls : List Nat} {l : Nat} :
    l ∈ (spillsOf x ls).map (fun e => e.1) ↔ l ∈ ls ∧ ¬ (tget (x.c.strm x.st).rets l).length < 8 := by
  unfold spillsOf
  simp only [List.mem_map, List.mem_filterMap]
  constructor
  · rintro ⟨⟨j, w⟩, ⟨k, hk, he⟩, rfl⟩
    split at he
    · contradiction
    · simp only [Option.some.injEq, Prod.mk.injEq] at he
      obtain ⟨rfl, -⟩ := he
      exact ⟨hk, by assumption⟩
  · rintro ⟨hl, hn⟩
    exact ⟨_, ⟨l, hl, if_neg hn⟩, rfl⟩

/-- Memory after the words that pushes spill are written. -/
def spillsWritten (x : Ctx) (ps : List Piece) (u : State) : State :=
  ps.foldl (fun s p => p.write (p.usePriv x s true) 0 (((tget (x.c.strm x.st).rets p.lane).getLast?.getD 0).toNat)
    (some (coreOf x.key))) u

/-- The stream of a context after the pushes of lanes. -/
def StreamSt.called (sx : StreamSt) (pc : BitVec 32) (ls spilled : List Nat) : StreamSt :=
  { sx with rets := setLanes sx.rets ls (fun l => (pc + 4) :: (tget sx.rets l).take 7),
            spilled := setLanes sx.spilled spilled (fun l => tget sx.spilled l + 1) }

theorem pushReturn_eq (x : Ctx) (ls : List Nat) (s : State) : pushReturn x ls s =
    if ls.any (fun l => (pushSpill x l).isNone) then .out (.trap .rstack 0)
    else (privWordsAt x .write (ls.filterMap (pushedWord x)) s).bind (fun ps s =>
      .val () ((spillsWritten x ps s).modStrm x
        (fun sx => sx.called x.pc ls ((ls.filterMap (pushedWord x)).map (fun e => e.1))))) := rfl

theorem pushReturn_val {x : Ctx} {ls : List Nat} {s u : State} {ps : List Piece} (hfit : ∀ l ∈ ls, pushFits x l)
    (hps : privWordsAt x .write (spillsOf x ls) s = .val ps u) :
    pushReturn x ls s = .val () ((spillsWritten x ps u).modStrm x
      (fun sx => sx.called x.pc ls ((spillsOf x ls).map (fun e => e.1)))) := by
  have hany : ¬ ls.any (fun l => (pushSpill x l).isNone) = true := by
    simp only [List.any_eq_true, not_exists, not_and, pushSpill_isNone, not_not]
    exact hfit
  rw [pushReturn_eq, if_neg hany, filterMap_pushedWord x ls hfit, hps]
  rfl

theorem pushReturn_rstack {x : Ctx} {ls : List Nat} (s : State) (h : ∃ l ∈ ls, ¬ pushFits x l) :
    pushReturn x ls s = .out (.trap .rstack 0) := by
  have hany : ls.any (fun l => (pushSpill x l).isNone) = true := by
    simpa only [List.any_eq_true, pushSpill_isNone] using h
  rw [pushReturn_eq, if_pos hany]

theorem privWordsAt_spots {x : Ctx} {k : AccKind} {ws : List (Nat × Nat)} {s u : State} {ps : List Piece}
    (h : privWordsAt x k ws s = .val ps u) : ∀ p ∈ ps, ∃ a, p.spot = .mem a := by
  refine reach_mem _ (fun p hp => ?_) h
  obtain ⟨e, -, rfl⟩ := List.mem_map.mp hp
  rfl

/-- Spilling changes bytes of the words spilled to alone. -/
theorem spillsWritten_stores {x : Ctx} {ps : List Piece} {u : State} (hspots : ∀ p ∈ ps, ∃ a, p.spot = .mem a)
    (hu : u.sound) : u.Stores (touched ps) (spillsWritten x ps u) := by
  refine .foldl _ (fun p hp s hs => ?_) hu
  obtain ⟨a, ha⟩ := hspots p hp
  have hpriv := hs.stores_usePriv (at' := touched ps) p x true
  refine hpriv.trans ?_
  unfold Piece.write
  rw [ha]
  dsimp only
  rw [if_neg (fun h => absurd h.1 (by decide))]
  refine (hpriv.sound.stores_write a (leBytes p.len _) _).mono (fun j hj => ?_)
  rw [leBytes_length] at hj
  exact ⟨p, hp, a, ha, hj⟩

/-- What pushes of lanes leave alone: the consists, the cores, and the bytes that they do not spill to. -/
theorem spillsWritten_leaves {x : Ctx} {ls : List Nat} {ps : List Piece} {s u : State}
    (hps : privWordsAt x .write (spillsOf x ls) s = .val ps u) (hs : spillsOf x ls = [] ∨ u.sound) :
    (spillsWritten x ps u).consists = u.consists ∧ (spillsWritten x ps u).cores = u.cores ∧
      ∀ a, a < 2 ^ 40 → ¬ touched ps a → (spillsWritten x ps u).byte a = u.byte a := by
  obtain hnone | hsound := hs
  · rw [hnone] at hps
    simp only [privWordsAt, List.map_nil, reach, Got.val.injEq] at hps
    obtain ⟨rfl, -⟩ := hps
    exact ⟨rfl, rfl, fun _ _ _ => rfl⟩
  · have h := spillsWritten_stores (x := x) (privWordsAt_spots hps) hsound
    exact ⟨h.consists, h.cores, h.bytes⟩

/-! ## CALL and CALLX (R98, R99, R101) -/

/-- What a front end's turn makes of another consist depends on that consist and on what the core issued last. -/
theorem consist?_switchIn_congr {x : Ctx} {u v : State} {k : Nat} (hcores : v.cores = u.cores)
    (hk : v.consist? k = u.consist? k) : (switchIn x v).consist? k = (switchIn x u).consist? k := by
  have hcore : v.core (coreOf x.key) = u.core (coreOf x.key) := by rw [State.core, State.core, hcores]
  rw [switchIn, switchIn, State.consist?_switchTo, State.consist?_switchTo, hcore, hk]

/-- The law of a call whose pushes fit. -/
theorem issue_call {w : Word} {o : OpInfo} {s u : State} {x : Ctx} {n : Nat} {ls : Ctx → List Nat} {f : Ctx → Nat → BitVec n}
    {ps : List Piece} (h : Issues w o s x) (ht : o.transfer = true)
    (hgood : badTarget x.c (ls x) (fun l => (f x l).toNat) = none) (hfit : ∀ l ∈ ls x, pushFits x l)
    (hps : privWordsAt x .write (spillsOf x (ls x)) (learnPops o x s) = .val ps u) (hu : u.consist? x.key = some x.c)
    (hs : spillsOf x (ls x) = [] ∨ u.sound) :
    ∃ t, issue w o (goBody true ls (fun x l => (f x l).toNat)) s = .next t ∧
      Pushed o x (ls x) (fun l => (f x l).setWidth 32) ps u t := by
  obtain ⟨hconsists, hcores, hbytes⟩ := spillsWritten_leaves hps hs
  have hw : (spillsWritten x ps u).consist? x.key = some x.c := by rw [← hu]; simp only [State.consist?, hconsists]
  have hcall := modStrm_eq hw (fun sx => sx.called x.pc (ls x) ((spillsOf x (ls x)).map (fun e => e.1)))
  have hbody : goBody true ls (fun x l => (f x l).toNat) x (learnPops o x s) = .ok (jump x (ls x) (fun l => (f x l).toNat)
      ((spillsWritten x ps u).setConsist x.key
        (x.c.setStrm x.st ((x.c.strm x.st).called x.pc (ls x) ((spillsOf x (ls x)).map (fun e => e.1)))))) := by
    rw [← hcall]
    simp only [goBody, hgood, if_true, pushReturn_val hfit hps]
    rfl
  obtain ⟨t, c, hexec, hk, hc, hr⟩ := issue_jumps h hbody (State.consist?_setConsist_same ..)
  rw [Consist.strm_setStrm_same, Consist.setStrm_setStrm] at hr
  have hkeep := hr.keeps
  have hrets := hr.rets
  have hspilled := hr.spilled
  have hh := hr.hinted
  have hpcs := hr.pc_transfer ht
  rw [Consist.strm_setStrm_same] at hrets hspilled hh hpcs
  refine ⟨t, hexec, c, hc, fun l hl => ?_, fun l hl => ?_, fun l hl => ?_, ?_, hr.vregs.trans (Consist.setStrm_vregs ..),
    hr.aregs.trans (Consist.setStrm_aregs ..), hr.sregs.trans (Consist.setStrm_sregs ..),
    hr.csw.trans (Consist.setStrm_csw ..), hr.inflight.trans (Consist.setStrm_inflight ..), ?_, fun q l hl => ?_,
    ⟨hh.pending, hh.left, hh.pass, hh.hold⟩, fun k hkey => ?_, fun a ha hat => ?_⟩
  · rw [hrets, hspilled]
    simp only [StreamSt.jumped, StreamSt.called, tget_setLanes, hl, if_true, mem_spillsOf, true_and]
    refine ⟨rfl, ?_⟩
    by_cases hroom : (tget (x.c.strm x.st).rets l).length < 8
    · simp [hroom]
    · simp [hroom]
  · rw [hrets, hspilled]
    simp only [StreamSt.jumped, StreamSt.called, tget_setLanes, hl, if_false, mem_spillsOf, false_and, and_self]
  · rw [hpcs, StreamSt.tget_jumped _ _ _ hl, jumpNext_toNat]
    rfl
  · unfold Consist.Keeps at hkeep ⊢
    rw [hkeep]; cases x.st <;> rfl
  · rw [hr.other]; cases x.st <;> rfl
  · rw [hr.pops q l hl, Consist.queueOf_setStrm]
  · rw [hk.others k hkey]
    refine consist?_switchIn_congr hcores ?_
    rw [State.consist?_setConsist, if_neg hkey]
    simp only [State.consist?, hconsists]
  · rw [hk.bytes, byte_switchIn]
    exact hbytes a ha hat

theorem callsPush : CallsPush := by
  intro s u x p sense d a ps atX
  refine ⟨?_, ?_⟩
  all_goals intro h ls hgood hfit hps hu hs
  · rw [exec_call, execCall, branch_eq]
    rw [← learnPops_of_uses_nil (o := { transfer := true }) (x := x) (s := s) rfl] at hps
    obtain ⟨t, ht, hp⟩ := issue_call (f := fun x _ => branchTarget x d) (ls := (branchLanes · p sense)) h rfl
      (branch_badTarget hgood) hfit hps hu hs
    refine ⟨t, ht, ?_⟩
    simpa only [BitVec.setWidth_eq] using hp
  · rw [exec_callx, execCallx, branchTo_eq]
    exact issue_call (f := fun x l => src1 x a l) (ls := fun x => lanesOf x.act) h rfl
      (badTarget_none (fun l hl => (hgood l hl).1) (fun l hl => (hgood l hl).2)) hfit hps hu hs

/-! ## RET (R98, R101) -/

/-- The words of a consist's own memory that a RET reloads. -/
def reloads (x : Ctx) : List (Nat × Nat) := (lanesOf x.act).filterMap (fun l => (popSpill x l).map (fun w => (l, w)))

/-- Where a RET takes a lane: its newest entry in the core, or what was reloaded. -/
def retTarget (x : Ctx) (ps : List Piece) (s : State) (l : Nat) : Nat :=
  match tget (x.c.strm x.st).rets l with
  | r :: _ => r.toNat
  | [] => ((ps.find? (fun p => p.lane == l)).map (fun p => p.read s 0)).getD 0

/-- The state after a RET's reloads. -/
def reloaded (x : Ctx) (ps : List Piece) (u : State) : State :=
  correctPieces (ps.foldl (fun s p => p.usePriv x s false) u) ps (some (coreOf x.key))

/-- The stream of a context whose lanes have popped an entry each. -/
def StreamSt.returned (sx : StreamSt) (ls spilled : List Nat) : StreamSt :=
  { sx with rets := setLanes sx.rets ls (fun l => (tget sx.rets l).drop 1),
            spilled := setLanes sx.spilled spilled (fun l => tget sx.spilled l - 1) }

/-- What RET does once its reloads are there. -/
def retBody (x : Ctx) (ps : List Piece) (s : State) : Eff :=
  match badLine s ps with
  | .good =>
    match badTarget x.c ((lanesOf x.act).filter (canPop x)) (retTarget x ps (reloaded x ps s)) with
    | some (cause, v) => .trapIn (reloaded x ps s) cause v
    | none =>
      if (lanesOf x.act).any (fun l => !canPop x l) then .trapIn (reloaded x ps s) .rstack 1
      else .ok (jump x (lanesOf x.act) (retTarget x ps (reloaded x ps s))
        ((reloaded x ps s).modStrm x (fun sx => sx.returned (lanesOf x.act) ((reloads x).map (fun e => e.1)))))
  | bad => consumePoison x bad s

/-- What RET does. -/
def retEffect (x : Ctx) (s : State) : Eff := (privWordsAt x .read (reloads x) s).andThen (retBody x)

theorem execRet_eq (s : State) : execRet s = issue (packReg 0x34 0x78 0x78 0x78 0 0) { transfer := true } retEffect s := rfl

/-- The law of a RET whose entries are there. -/
theorem ret_returns {s u : State} {x : Ctx} {top : Nat → BitVec 32} {ps : List Piece}
    (h : Issues (packReg 0x34 0x78 0x78 0x78 0 0) { transfer := true } s x)
    (hcode : ∀ l ∈ lanesOf x.act, (top l).toNat < x.c.csize ∧ (top l).toNat % 4 = 0)
    (hps : privWordsAt x .read (reloads x) s = .val ps u) (hgood : badLine u ps = .good)
    (hc : (reloaded x ps u).consist? x.key = some x.c) (hpop : ∀ l ∈ lanesOf x.act, canPop x l = true)
    (htop : ∀ l ∈ lanesOf x.act, retTarget x ps (reloaded x ps u) l = (top l).toNat) :
    ∃ t, exec .ret s = .next t ∧ Jumped { transfer := true } x (fun l => if x.act.getLsbD l then top l else x.pc + 4)
      ((reloaded x ps u).modStrm x (fun sx => sx.returned (lanesOf x.act) ((reloads x).map (fun e => e.1)))) t := by
  have hbad : badTarget x.c ((lanesOf x.act).filter (canPop x)) (retTarget x ps (reloaded x ps u)) = none := by
    refine badTarget_none (fun l hl => ?_) (fun l hl => ?_)
    all_goals
      obtain ⟨hact, -⟩ := List.mem_filter.mp hl
      rw [htop l hact]
    · exact (hcode l hact).1
    · exact (hcode l hact).2
  have hall : ¬ (lanesOf x.act).any (fun l => !canPop x l) = true := by
    simpa using hpop
  have hbody : retEffect x (learnPops { transfer := true } x s) =
      .ok (jump x (lanesOf x.act) (retTarget x ps (reloaded x ps u))
        ((reloaded x ps u).modStrm x (fun sx => sx.returned (lanesOf x.act) ((reloads x).map (fun e => e.1))))) := by
    rw [learnPops_of_uses_nil rfl, retEffect, hps]
    simp only [Got.andThen, retBody, hgood, hbad]
    exact if_neg hall
  have hpopped : ((reloaded x ps u).modStrm x (fun sx => sx.returned (lanesOf x.act) ((reloads x).map (fun e => e.1)))).consist?
      x.key = some (x.c.setStrm x.st ((x.c.strm x.st).returned (lanesOf x.act) ((reloads x).map (fun e => e.1)))) := by
    rw [modStrm_eq hc, State.consist?_setConsist_same]
  rw [exec_ret, execRet_eq]
  obtain ⟨t, c, hexec, hk, htc, hr⟩ := issue_jumps h hbody hpopped
  refine ⟨t, hexec, hr.jumped rfl hpopped (by rw [Consist.strm_setStrm_same]; rfl) hk htc (fun l hl => ?_)⟩
  rw [jumpNext_congr htop, jumpNext_toNat]
  simp only [mem_lanesOf, hl, true_and, BitVec.setWidth_eq]

/-- A pop of an entry in the core reloads nothing. -/
theorem popSpill_of_rets {x : Ctx} {l : Nat} (h : tget (x.c.strm x.st).rets l ≠ []) : popSpill x l = none :=
  if_neg (fun k => h k.1)

/-- A pop of a spilled entry reloads the word that it was spilled to. -/
theorem popSpill_of_spilled {x : Ctx} {l : Nat} (hr : tget (x.c.strm x.st).rets l = []) (hs : tget (x.c.strm x.st).spilled l ≠ 0)
    (hd : spillDepth x.st (tget (x.c.strm x.st).spilled l - 1) ≤ x.c.privWords) :
    popSpill x l = some (x.c.privWords - spillDepth x.st (tget (x.c.strm x.st).spilled l - 1)) := by
  unfold popSpill
  dsimp only
  rw [if_pos ⟨hr, hs⟩, spillWord_eq, if_pos hd]

theorem reloads_of_rets {x : Ctx} (h : ∀ l ∈ lanesOf x.act, tget (x.c.strm x.st).rets l ≠ []) : reloads x = [] := by
  rw [reloads, List.filterMap_eq_nil_iff]
  intro l hl
  rw [popSpill_of_rets (h l hl)]
  rfl

theorem reloads_of_spilled {x : Ctx} (h : ∀ l ∈ lanesOf x.act, tget (x.c.strm x.st).rets l = [] ∧
    tget (x.c.strm x.st).spilled l ≠ 0 ∧ spillDepth x.st (tget (x.c.strm x.st).spilled l - 1) ≤ x.c.privWords) :
    reloads x = (lanesOf x.act).map (fun l =>
      (l, x.c.privWords - spillDepth x.st (tget (x.c.strm x.st).spilled l - 1))) := by
  rw [reloads, ← List.filterMap_eq_map]
  apply List.filterMap_congr
  intro l hl
  obtain ⟨hr, hs, hd⟩ := h l hl
  rw [popSpill_of_spilled hr hs hd]
  rfl

theorem reloaded_consist? {x : Ctx} {ps : List Piece} {u : State} (hu : u.sound) (k : Nat) :
    (reloaded x ps u).consist? k = u.consist? k := by
  have hpriv : u.Stores (fun _ => False) (ps.foldl (fun s p => p.usePriv x s false) u) :=
    .foldl _ (fun p _ s hs => hs.stores_usePriv p x false) hu
  have h := hpriv.trans (hpriv.sound.stores_correctPieces ps (some (coreOf x.key)))
  simp only [State.consist?, reloaded, h.consists]

theorem returnsPop : ReturnsPop := by
  intro s u x top ps h ls sx hcode
  refine ⟨fun hrets => ?_, ?_⟩
  · have hne : ∀ l ∈ ls, tget sx.rets l ≠ [] := fun l hl => by
      obtain ⟨rest, hr⟩ := hrets l hl
      rw [hr]
      exact fun e => List.cons_ne_nil _ _ e
    have hnone : reloads x = [] := reloads_of_rets hne
    obtain ⟨t, ht, hj⟩ := ret_returns (u := s) (ps := []) h hcode (by rw [hnone]; rfl) rfl h.consist
      (fun l hl => by simp [canPop, show tget (x.c.strm x.st).rets l ≠ [] from hne l hl])
      (fun l hl => by
        obtain ⟨rest, hr⟩ := hrets l hl
        simp only [retTarget, show tget (x.c.strm x.st).rets l = top l :: rest from hr])
    refine ⟨t, ht, ?_⟩
    rw [hnone] at hj
    exact hj
  · intro depth read hspilled hps hu hgood hsound htop
    have hreload := reloads_of_spilled (x := x) hspilled
    obtain ⟨t, ht, hj⟩ := ret_returns (ps := ps) (u := u) h hcode (by rw [hreload]; exact hps) hgood
      ((reloaded_consist? hsound _).trans hu)
      (fun l hl => by simp [canPop, show tget (x.c.strm x.st).spilled l ≠ 0 from (hspilled l hl).2.1])
      (fun l hl => by
        obtain ⟨p, hfind, hread⟩ := htop l hl
        simp only [retTarget, show tget (x.c.strm x.st).rets l = [] from (hspilled l hl).1, hfind]
        exact hread)
    refine ⟨t, ht, ?_⟩
    rw [hreload, List.map_map] at hj
    rw [show ((fun e : Nat × Nat => e.1) ∘ fun l =>
      (l, x.c.privWords - spillDepth x.st (tget (x.c.strm x.st).spilled l - 1))) = id from rfl, List.map_id] at hj
    exact hj

/-- Settles O26: transfers of control move the lanes of their run as their targets say, and calls and returns move entries
of the return stack, with the words of its own memory that these are spilled to. -/
theorem transfersOfControl : Obligations.TransfersOfControl := ⟨branchesJump, callsPush, returnsPop⟩

end Sys2Proof.Machine

/-! Targets and return stacks that trap (R98, R99, R101). -/

namespace Sys2Proof.Machine

open Sys2Proof

/-! ## The first bad target (R25, R101) -/

theorem lanesOf_pairwise (m : Lanes) : (lanesOf m).Pairwise (· < ·) :=
  List.Pairwise.filter _ List.pairwise_lt_range

/-- The lowest lane of a mask that passes a test. -/
theorem find?_lanesOf {m : Lanes} {p : Nat → Bool} {l : Nat} (hl : l ∈ lanesOf m) (hp : p l = true)
    (hlow : ∀ j ∈ lanesOf m, j < l → p j = false) : (lanesOf m).find? p = some l := by
  obtain ⟨as, bs, hsplit⟩ := List.append_of_mem hl
  rw [List.find?_eq_some_iff_append]
  refine ⟨hp, as, bs, hsplit, fun j hj => ?_⟩
  have hpair := lanesOf_pairwise m
  rw [hsplit, List.pairwise_append] at hpair
  have hlt : j < l := hpair.2.2 j hj l (List.mem_cons_self ..)
  have hmem : j ∈ lanesOf m := by rw [hsplit]; exact List.mem_append_left _ hj
  simp [hlow j hmem hlt]

theorem find?_const_true {ls : List Nat} (h : ls ≠ []) {p : Nat → Bool} (hp : ∀ l, p l = true) : ∃ l, ls.find? p = some l := by
  cases ls with
  | nil => exact absurd rfl h
  | cons l ls => exact ⟨l, by simp [hp l]⟩

theorem badTarget_bounds {c : Consist} {ls : List Nat} {target : Nat → Nat} {l : Nat}
    (h : ls.find? (fun l => decide (c.csize ≤ target l)) = some l) :
    badTarget c ls target = some (.bounds, BitVec.ofNat 64 (target l)) := by
  rw [badTarget, h]

theorem badTarget_align {c : Consist} {ls : List Nat} {target : Nat → Nat} {l : Nat} (hcode : ∀ l ∈ ls, target l < c.csize)
    (h : ls.find? (fun l => decide (target l % 4 ≠ 0)) = some l) :
    badTarget c ls target = some (.align, BitVec.ofNat 64 (target l)) := by
  have h1 : ls.find? (fun l => decide (c.csize ≤ target l)) = none := by simpa using hcode
  rw [badTarget, h1, h]

/-- The law of a branch or a call with a bad target. -/
theorem issue_badTarget {w : Word} {o : OpInfo} {s : State} {x : Ctx} {isCall : Bool} {ls : Ctx → List Nat}
    {target : Ctx → Nat → Nat} {cause : Cause} {v : DWord} (h : Issues w o s x)
    (hbad : badTarget x.c (ls x) (target x) = some (cause, v)) :
    issue w o (goBody isCall ls target) s = .next (trapAt x o.hint cause v (switchIn x s)) :=
  issue_trap h (by simp only [goBody, hbad])

/-- The law of a call whose return stacks cannot push. -/
theorem issue_call_rstack {w : Word} {o : OpInfo} {s : State} {x : Ctx} {ls : Ctx → List Nat} {target : Ctx → Nat → Nat}
    (h : Issues w o s x) (hgood : badTarget x.c (ls x) (target x) = none) (hfit : ∃ l ∈ ls x, ¬ pushFits x l) :
    issue w o (goBody true ls target) s = .next (trapAt x o.hint .rstack 0 (switchIn x s)) :=
  issue_trap h (by simp only [goBody, hgood, if_true, pushReturn_rstack _ hfit]; rfl)

/-! ## Return stacks with nothing to pop (R98) -/

theorem ret_rstack {s : State} {x : Ctx} (h : Issues (packReg 0x34 0x78 0x78 0x78 0 0) { transfer := true } s x)
    (hact : x.act ≠ 0)
    (hempty : ∀ l ∈ lanesOf x.act, tget (x.c.strm x.st).rets l = [] ∧ tget (x.c.strm x.st).spilled l = 0) :
    exec .ret s = .next (trapAt x false .rstack 1 (switchIn x s)) := by
  have hpop : ∀ l ∈ lanesOf x.act, canPop x l = false := fun l hl => by
    obtain ⟨hr, hs⟩ := hempty l hl
    simp [canPop, hr, hs]
  have hreload : reloads x = [] := by
    rw [reloads, List.filterMap_eq_nil_iff]
    intro l hl
    rw [popSpill, if_neg (fun k => k.2 (hempty l hl).2)]
    rfl
  have hnone : (lanesOf x.act).filter (canPop x) = [] := by
    rw [List.filter_eq_nil_iff]
    exact fun l hl => by simp [hpop l hl]
  have hany : (lanesOf x.act).any (fun l => !canPop x l) = true := by
    obtain ⟨hlt, hmem⟩ := lowest_mem hact
    rw [List.any_eq_true]
    exact ⟨lowest x.act, (mem_lanesOf _ _).mpr ⟨hlt, hmem⟩, by simp [hpop _ ((mem_lanesOf _ _).mpr ⟨hlt, hmem⟩)]⟩
  have hbody : retEffect x (learnPops { transfer := true } x s) = .trapIn (learnPops { transfer := true } x s) .rstack 1 := by
    rw [retEffect, hreload]
    change retBody x [] (learnPops { transfer := true } x s) = _
    have hgood : badLine (learnPops { transfer := true } x s) [] = .good := rfl
    simp only [retBody, hgood, hnone, badTarget, List.find?_nil, hany, if_true]
    rfl
  rw [exec_ret, execRet_eq, issue_of_issues h, hbody]
  simp only [outcome, unlearn_learnPops]

/-! ## Bad targets (R99, R101) -/

theorem branch_bounds {maj : BitVec 7} {isCall : Bool} {s : State} {x : Ctx} {p : BitVec 3} {sense : BitVec 1} {d : BitVec 21}
    (h : Issues (packBrn maj p sense d) { transfer := true } s x) (hne : branchLanes x p sense ≠ [])
    (hcode : x.c.csize ≤ (branchTarget x d).toNat) : branch maj isCall p sense d s
      = .next (trapAt x false .bounds (BitVec.ofNat 64 (branchTarget x d).toNat) (switchIn x s)) := by
  obtain ⟨l, hl⟩ := find?_const_true hne (p := fun _ => decide (x.c.csize ≤ (branchTarget x d).toNat))
    (fun _ => decide_eq_true hcode)
  exact issue_badTarget (ls := (branchLanes · p sense)) (target := fun x _ => (branchTarget x d).toNat) h
    (badTarget_bounds (target := fun _ => (branchTarget x d).toNat) hl)

theorem branchTo_badTarget {maj : BitVec 7} {isCall : Bool} {s : State} {x : Ctx} {a : BitVec 7} {first : Nat}
    (h : Issues (packReg maj 0x78 a 0x78 0 0) { uses := [(2, a, .src false true)], transfer := true } s x)
    (hmem : first ∈ lanesOf x.act) :
    (x.c.csize ≤ (src1 x a first).toNat → (∀ l ∈ lanesOf x.act, l < first → (src1 x a l).toNat < x.c.csize) →
      branchTo maj isCall a s = .next (trapAt x false .bounds (src1 x a first) (switchIn x s))) ∧
    ((∀ l ∈ lanesOf x.act, (src1 x a l).toNat < x.c.csize) → (src1 x a first).toNat % 4 ≠ 0 →
      (∀ l ∈ lanesOf x.act, l < first → (src1 x a l).toNat % 4 = 0) →
      branchTo maj isCall a s = .next (trapAt x false .align (src1 x a first) (switchIn x s))) := by
  have hvalue : BitVec.ofNat 64 (src1 x a first).toNat = src1 x a first := by rw [BitVec.ofNat_toNat, BitVec.setWidth_eq]
  refine ⟨fun hcode hlow => ?_, fun hcode hbad hlow => ?_⟩
  all_goals refine issue_badTarget (ls := fun x => lanesOf x.act) (target := fun x l => (src1 x a l).toNat) h ?_
  · rw [badTarget_bounds (find?_lanesOf hmem (decide_eq_true hcode)
      (fun j hj hjl => decide_eq_false (Nat.not_le.mpr (hlow j hj hjl)))), hvalue]
  · rw [badTarget_align hcode (find?_lanesOf hmem (decide_eq_true hbad)
      (fun j hj hjl => decide_eq_false (not_not.mpr (hlow j hj hjl)))), hvalue]

/-- Settles O27: the targets are checked first, in the order of the lanes, and then the return stacks. -/
theorem badTransfersTrap : Obligations.BadTransfersTrap := by
  intro s x p sense d a
  refine ⟨?_, ?_, fun h hcode halign hfit => ?_, fun h hact hempty => ⟨_, ret_rstack h hact hempty, rfl⟩⟩
  · simp only [List.forall_mem_cons]
    exact ⟨branch_bounds, branch_bounds, fun _ h => absurd h List.not_mem_nil⟩
  · simp only [List.forall_mem_cons]
    exact ⟨fun h => ⟨fun first hmem => (branchTo_badTarget h hmem).1, fun first hmem => (branchTo_badTarget h hmem).2⟩,
      fun h => ⟨fun first hmem => (branchTo_badTarget h hmem).1, fun first hmem => (branchTo_badTarget h hmem).2⟩,
      fun _ h => absurd h List.not_mem_nil⟩
  · rw [exec_call, execCall, branch_eq]
    exact issue_call_rstack (ls := (branchLanes · p sense)) (target := fun x _ => (branchTarget x d).toNat) h
      (branch_badTarget (fun _ => ⟨hcode, halign⟩)) hfit

end Sys2Proof.Machine

/-!
The two-source integer instructions (R133, R136, R139, R140, R142): the model's operations compute what the rules state, and
which word each of them has.
-/

namespace Sys2Proof.Machine

open Sys2Proof

section Operations

variable {n : Nat}

theorem clampInt_eq_clampTo (v : Int) : clampInt n v = clampTo n v := by
  unfold clampInt clampTo
  have hpos : (0 : Int) < 2 ^ (n - 1) := by positivity
  generalize (2 ^ (n - 1) : Int) = m at hpos
  congr 1
  split
  · omega
  · split <;> omega

theorem ofInt_sub_toInt (p q : BitVec n) : BitVec.ofInt n (p.toInt - q.toInt) = p - q := by
  rw [Int.sub_eq_add_neg, BitVec.ofInt_add, BitVec.ofInt_neg, BitVec.ofInt_toInt, BitVec.ofInt_toInt, BitVec.sub_eq_add_neg]

theorem intAdd_eq (sat : Bool) (p q : BitVec n) : intAdd sat n p q = if sat then clampTo n (p.toInt + q.toInt) else p + q := by
  rw [intAdd, wrapOrSat, clampInt_eq_clampTo, BitVec.ofInt_add, BitVec.ofInt_toInt, BitVec.ofInt_toInt]

theorem intSub_eq (sat : Bool) (p q : BitVec n) : intSub sat n p q = if sat then clampTo n (p.toInt - q.toInt) else p - q := by
  rw [intSub, wrapOrSat, clampInt_eq_clampTo, ofInt_sub_toInt]

theorem intMul_eq (sat : Bool) (p q : BitVec n) : intMul sat n p q = if sat then clampTo n (p.toInt * q.toInt) else p * q := by
  rw [intMul, wrapOrSat, clampInt_eq_clampTo, BitVec.ofInt_mul, BitVec.ofInt_toInt, BitVec.ofInt_toInt]

theorem intMin_eq (p q : BitVec n) : intMin n p q = if p.sle q then p else q := by
  simp only [intMin, BitVec.sle_iff_toInt_le]

theorem intMax_eq (p q : BitVec n) : intMax n p q = if p.sle q then q else p := by
  simp only [intMax, BitVec.sle_iff_toInt_le]

theorem uintMin_eq (p q : BitVec n) : uintMin n p q = if p.ule q then p else q := by
  simp only [uintMin, BitVec.ule_iff_toNat_le]

theorem uintMax_eq (p q : BitVec n) : uintMax n p q = if p.ule q then q else p := by
  simp only [uintMax, BitVec.ule_iff_toNat_le]

theorem intAbsd_eq (p q : BitVec n) : intAbsd n p q = if p.sle q then q - p else p - q := by
  rw [intAbsd, ← BitVec.ofInt_natCast]
  by_cases h : p.toInt ≤ q.toInt
  · rw [if_pos (BitVec.sle_iff_toInt_le.mpr h), ← ofInt_sub_toInt, Int.ofNat_natAbs_of_nonpos (by omega)]
    congr 1; omega
  · rw [if_neg (fun k => h (BitVec.sle_iff_toInt_le.mp k)), ← ofInt_sub_toInt, Int.natAbs_of_nonneg (by omega)]

theorem intMulh_eq (p q : BitVec n) : intMulh n p q = BitVec.ofInt n ((p.toInt * q.toInt) / (2 ^ n : Int)) := by
  rw [intMulh, Int.fdiv_eq_ediv_of_nonneg _ (by positivity)]

theorem shiftL_eq (p : BitVec n) (k : Nat) : shiftL n p k = p <<< k := by
  rw [shiftL]
  split
  · rfl
  · exact (BitVec.shiftLeft_eq_zero (by omega)).symm

theorem shiftR_eq (p : BitVec n) (k : Nat) : shiftR n p k = p >>> k := by
  rw [shiftR]
  split
  · rfl
  · exact (BitVec.ushiftRight_eq_zero (by omega)).symm

theorem rotR_eq (p : BitVec n) (k : Nat) : rotR n p k = p.rotateRight k := BitVec.rotateRight_mod_eq_rotateRight

/-- The number that a field of a word holds (R142). -/
theorem toNat_field (p : BitVec n) (pos len : Nat) : (p.extractLsb' pos len).toNat = p.toNat / 2 ^ pos % 2 ^ len := by
  rw [BitVec.extractLsb'_toNat, Nat.shiftRight_eq_div_pow]

theorem signExtend_field (len : Nat) (hlen : 0 < len) (f : BitVec len) : f.signExtend n =
    if 2 ^ (len - 1) ≤ f.toNat then BitVec.ofInt n ((f.toNat : Int) - 2 ^ len) else BitVec.ofNat n f.toNat := by
  have hpow : 2 ^ len = 2 * 2 ^ (len - 1) := by rw [← pow_succ', Nat.sub_add_cancel hlen]
  rw [BitVec.signExtend, BitVec.toInt_eq_toNat_cond]
  by_cases h : 2 ^ (len - 1) ≤ f.toNat
  · rw [if_pos h, if_neg (by omega)]
    push_cast
    rfl
  · rw [if_neg h, if_pos (by omega), BitVec.ofInt_natCast]

theorem bfe_eq (p q : BitVec n) : bfe n p q =
    let pos := q.toNat % 256
    let len := min (q.toNat / 256 % 256) (n - pos)
    let f := p.toNat / 2 ^ pos % 2 ^ len
    if q.toNat / 65536 % 2 = 1 ∧ 0 < len ∧ 2 ^ (len - 1) ≤ f then BitVec.ofInt n ((f : Int) - 2 ^ len)
    else BitVec.ofNat n f := by
  unfold bfe fieldLen fieldPos
  dsimp only
  generalize q.toNat % 256 = pos
  generalize min (q.toNat / 256 % 256) (n - pos) = len
  rw [← toNat_field]
  by_cases hlen : len = 0
  · subst hlen
    simp
  · rw [if_neg hlen]
    by_cases hsign : q.toNat / 65536 % 2 = 1
    · rw [if_pos hsign, signExtend_field len (by omega)]
      simp only [hsign, true_and, show 0 < len by omega]
    · rw [if_neg hsign, if_neg (fun h => hsign h.1)]
      apply BitVec.eq_of_toNat_eq
      simp

end Operations

/-- What makes an instruction a two-source one: its word, and the operation that it applies. -/
structure TwoSource (i : Instr) (op : Bool → WidthOp) (d a b : BitVec 7) (w : BitVec 1) (maj : BitVec 7) (fn : BitVec 3) :
    Prop where
  encoded : encode i = some (packReg maj d a b w fn)
  major : maj ∈ ([0x01, 0x03, 0x07, 0x09] : List (BitVec 7))
  meaning : ∀ s, exec i s = alu2 maj fn op d a b w s

theorem alu2_congr {maj : BitVec 7} {fn : BitVec 3} {f g : Bool → WidthOp} (h : ∀ sat n p q, f sat n p q = g sat n p q)
    (d a b : BitVec 7) (w : BitVec 1) (s : State) : alu2 maj fn f d a b w s = alu2 maj fn g d a b w s := by
  have hfg : f = g := by funext sat n p q; exact h sat n p q
  rw [hfg]

theorem twoSource_spec (d a b : BitVec 7) (w : BitVec 1) :
    ∀ e ∈ twoSource d a b w, ∃ maj fn, TwoSource e.1 e.2 d a b w maj fn := by
  simp only [twoSource, List.forall_mem_cons]
  refine ⟨?_, ?_, ?_, ?_, ?_, ?_, ?_, ?_, ?_, ?_, ?_, ?_, ?_, ?_, ?_, ?_, ?_, ?_, ?_, fun _ h => absurd h List.not_mem_nil⟩
  · exact ⟨_, _, rfl, by decide, alu2_congr (fun sat _ => intAdd_eq sat) d a b w⟩
  · exact ⟨_, _, rfl, by decide, alu2_congr (fun sat _ => intSub_eq sat) d a b w⟩
  · exact ⟨_, _, rfl, by decide, alu2_congr (fun _ _ => intMin_eq) d a b w⟩
  · exact ⟨_, _, rfl, by decide, alu2_congr (fun _ _ => intMax_eq) d a b w⟩
  · exact ⟨_, _, rfl, by decide, alu2_congr (fun _ _ => uintMin_eq) d a b w⟩
  · exact ⟨_, _, rfl, by decide, alu2_congr (fun _ _ => uintMax_eq) d a b w⟩
  · exact ⟨_, _, rfl, by decide, alu2_congr (fun _ _ => intAbsd_eq) d a b w⟩
  · exact ⟨_, _, rfl, by decide, alu2_congr (fun sat _ => intMul_eq sat) d a b w⟩
  · exact ⟨_, _, rfl, by decide, alu2_congr (fun _ _ => intMulh_eq) d a b w⟩
  · exact ⟨_, _, rfl, by decide, fun _ => rfl⟩
  · exact ⟨_, _, rfl, by decide, fun _ => rfl⟩
  · exact ⟨_, _, rfl, by decide, fun _ => rfl⟩
  · exact ⟨_, _, rfl, by decide, fun _ => rfl⟩
  · exact ⟨_, _, rfl, by decide, fun _ => rfl⟩
  · exact ⟨_, _, rfl, by decide, alu2_congr (fun _ _ p q => shiftL_eq p (q.toNat % 256)) d a b w⟩
  · exact ⟨_, _, rfl, by decide, alu2_congr (fun _ _ p q => shiftR_eq p (q.toNat % 256)) d a b w⟩
  · exact ⟨_, _, rfl, by decide, fun _ => rfl⟩
  · exact ⟨_, _, rfl, by decide, alu2_congr (fun _ _ p q => rotR_eq p (q.toNat % 256)) d a b w⟩
  · exact ⟨_, _, rfl, by decide, alu2_congr (fun _ _ => bfe_eq) d a b w⟩

/-- W of a two-source word (R26, R33). -/
theorem wordNw_packReg {maj d a b : BitVec 7} {w : BitVec 1} {fn : BitVec 3}
    (h : maj ∈ ([0x01, 0x03, 0x07, 0x09] : List (BitVec 7))) : wordNw (packReg maj d a b w fn) = (w == 1) := by
  have hbit : (packReg maj d a b w fn).getLsbD 3 = (w == 1) := by
    have hw := packReg_w maj d a b w fn
    have h0 := congrArg (BitVec.getLsbD · 0) hw
    simp only [fld, BitVec.getLsbD_extractLsb'] at h0
    have one : ∀ v : BitVec 1, v.getLsbD 0 = (v == 1) := by decide
    rw [← one w, ← h0]
    simp
  rw [wordNw, packReg_maj, hbit]
  have hmaj : ∀ m ∈ ([0x01, 0x03, 0x07, 0x09] : List (BitVec 7)),
      m.toNat ∉ [0x0A, 0x19, 0x1A, 0x20, 0x21, 0x23] ∧
      m.toNat ∉ [0x02, 0x04, 0x05, 0x06, 0x08, 0x0D, 0x0E, 0x16, 0x1C, 0x2B, 0x3B] ∧
      ¬ ((0x40 ≤ m.toNat ∧ m.toNat ≤ 0x46) ∨ (0x50 ≤ m.toNat ∧ m.toNat ≤ 0x52) ∨ m.toNat ∈ [0x30, 0x32, 0x39, 0x54, 0x7F]) := by
    decide
  obtain ⟨h1, h2, h3⟩ := hmaj maj h
  rw [if_neg h1, if_neg h2, if_neg h3]

end Sys2Proof.Machine

/-! Runs that split where queue operations can complete for some of their lanes alone (R31, R33, R86, R89). -/

namespace Sys2Proof.Machine

open Sys2Proof

/-! ## Which lanes are ready (R86) -/

theorem total_eq_zero {q : Queue} {ps : List (Queue × Nat)} (h : ∀ p ∈ ps, p.1 ≠ q) : total q ps = 0 := by
  induction ps with
  | nil => rfl
  | cons p ps ih =>
    rw [total_cons, if_neg (h p (List.mem_cons_self ..)), ih (fun r hr => h r (List.mem_cons_of_mem _ hr))]

/-- What an instruction pops is there: what each of its pops takes from its queue. -/
theorem forall_pops_iff {ps : List (Queue × Nat)} {P : Queue → Nat → Prop} (h0 : ∀ q, P q 0) :
    (∀ p ∈ ps, P p.1 (total p.1 ps)) ↔ ∀ q, P q (total q ps) := by
  refine ⟨fun h q => ?_, fun h p _ => h p.1⟩
  by_cases hq : ∃ p ∈ ps, p.1 = q
  · obtain ⟨p, hp, rfl⟩ := hq
    exact h p hp
  · rw [total_eq_zero (fun p hp e => hq ⟨p, hp, e⟩)]
    exact h0 q

theorem pushesOf_info3 (u : Word) (d a b : BitVec 7) (st : Strm) : pushesOf u (info3 d a b) st =
    if wordNw u then [] else ((writeQueue st (codeOf st d)).map (fun q => (q, 1))).toList := by
  unfold pushesOf info3
  simp only [List.filterMap_cons, List.filterMap_nil]
  cases wordNw u
  · cases writeQueue st (codeOf st d) <;> rfl
  · rfl

/-- A lane's queue holds `n` entries to pop, each of them filled (R31). -/
def PopsHere (x : Ctx) (l : Nat) (q : Queue) (n : Nat) : Prop :=
  n ≤ (x.c.queueOf q l).length ∧ ∀ v ∈ (x.c.queueOf q l).take n, v.filled = true

theorem popsHere_zero (x : Ctx) (l : Nat) (q : Queue) : PopsHere x l q 0 := ⟨Nat.zero_le _, fun v hv => by simp at hv⟩

theorem queueReady_info3 {u : Word} {x : Ctx} {d a b : BitVec 7} {l : Nat} :
    queueReady u (info3 d a b) x l = true ↔
      (∀ q, PopsHere x l q (total q (popsOf (info3 d a b) x.st))) ∧
      (wordNw u = false → ∀ q, writeQueue x.st (codeOf x.st d) = some q →
        x.c.deaf q l = true ∨ (x.c.queueOf q l).length < q.depth) := by
  have hwant : wantOf u (info3 d a b) x l = { pops := popsOf (info3 d a b) x.st, pushes := pushesOf u (info3 d a b) x.st } := rfl
  rw [← forall_pops_iff (popsHere_zero x l)]
  unfold queueReady
  simp only [hwant, PopsHere, Bool.and_eq_true, List.all_eq_true, decide_eq_true_eq, Bool.or_eq_true, pushesOf_info3]
  refine and_congr Iff.rfl ?_
  cases wordNw u
  · cases hq : writeQueue x.st (codeOf x.st d) with
    | none => exact ⟨fun _ _ q hq => (by cases hq), fun _ p hp => absurd hp List.not_mem_nil⟩
    | some q =>
      refine ⟨fun h _ r hr => ?_, fun h p hp => ?_⟩
      · obtain rfl := Option.some.inj hr
        exact h (q, 1) (List.mem_singleton.mpr rfl)
      · obtain rfl := List.mem_singleton.mp hp
        exact h rfl q rfl
  · exact ⟨fun _ h => absurd h (by decide), fun _ p hp => absurd hp List.not_mem_nil⟩

theorem readyLanes_info3 {u : Word} {x : Ctx} {d a b : BitVec 7} {l : Nat} (hl : l < 32) :
    (readyLanes u (info3 d a b) x).getLsbD l = true ↔ x.act.getLsbD l = true ∧ queueReady u (info3 d a b) x l = true := by
  unfold readyLanes
  by_cases hnone : popsOf (info3 d a b) x.st = [] ∧ pushesOf u (info3 d a b) x.st = []
  · have hready : queueReady u (info3 d a b) x l = true := by
      have hwant : wantOf u (info3 d a b) x l = { pops := popsOf (info3 d a b) x.st, pushes := pushesOf u (info3 d a b) x.st } := rfl
      unfold queueReady
      rw [hwant, hnone.1, hnone.2]
      rfl
    rw [if_pos hnone]
    simp [hready]
  · rw [if_neg hnone]
    have huniform : (info3 d a b).uniform = false := rfl
    simp only [huniform, Bool.false_and, Bool.false_eq_true, if_false, BitVec.getLsbD_and, getLsbD_maskWhere _ l hl,
      Bool.and_eq_true]
    exact ⟨fun h => h.2, fun h => ⟨h.1, h⟩⟩

/-! ## The split (R86, R89) -/

/-- The context of the lanes of a run whose queue operations can complete. -/
def Ctx.split (x : Ctx) (w : Word) (o : OpInfo) : Ctx :=
  { x with c := noted w o x (x.act &&& ~~~readyLanes w o x), run := x.run &&& ~~~(x.act &&& ~~~readyLanes w o x),
           act := readyLanes w o x }

/-- The law of a body that completes for the lanes that are ready while others are not. -/
theorem issue_split {w : Word} {o : OpInfo} {s t : State} {x : Ctx} {body : Ctx → State → Eff} (hfound : findCtx s = some x)
    (hcheck : decodeCheck w o x = none) (hhazard : hazard o x = false) (hlatch : invalidLatch o x = none)
    (hready : readyLanes w o x ≠ 0) (hleft : x.act &&& ~~~readyLanes w o x ≠ 0)
    (hb : body (x.split w o) (learnPops o (x.split w o) (noteWants w o x (x.act &&& ~~~readyLanes w o x) s)) = .ok t) :
    issue w o body s = .next (retire o (x.split w o) (switchIn (x.split w o) t)) := by
  unfold Ctx.split at hb
  simp only [issue, hfound, hcheck, hhazard, hlatch, Bool.false_eq_true, if_false, if_neg hleft]
  rw [if_neg (fun h => hready h.1)]
  simp only [hb]
  rfl

/-- The stream of a context with the wants of its blocked lanes kept. -/
theorem strm_noted (w : Word) (o : OpInfo) (x : Ctx) (ls : Lanes) : (noted w o x ls).strm x.st =
    { x.c.strm x.st with wants := setLanes (x.c.strm x.st).wants (lanesOf ls) (wantOf w o x) } :=
  Consist.strm_setStrm_same ..

theorem opVal_congr {x y : Ctx} (hst : y.st = x.st) (hhints : y.hints = x.hints) (hc : y.c = x.c.setStrm x.st (y.c.strm x.st))
    (hlatch : (y.c.strm x.st).latch = (x.c.strm x.st).latch) (code : BitVec 7) (wide : Bool) (off : Nat) (kw : DWord) (l : Nat) :
    opVal y code wide off kw l = opVal x code wide off kw l := by
  have hqueue : ∀ q, y.c.queueOf q l = x.c.queueOf q l := fun q => by rw [hc, Consist.queueOf_setStrm]
  have hv : ∀ n, y.c.v n l = x.c.v n l := fun n => by rw [hc]; simp only [Consist.v, Consist.setStrm_vregs]
  have ha : y.c.aregs = x.c.aregs := by rw [hc, Consist.setStrm_aregs]
  have hs : y.c.sregs = x.c.sregs := by rw [hc, Consist.setStrm_sregs]
  have hci : y.c.ci = x.c.ci := by rw [hc, Consist.setStrm_ci]
  have hk : constOf y = constOf x := by simp only [constOf, hhints]
  unfold opVal
  simp only [hst, hqueue, hv, ha, hs, hci, hk, hlatch]

theorem split_c (x : Ctx) (w : Word) (o : OpInfo) : (x.split w o).c = x.c.setStrm x.st ((x.split w o).c.strm x.st) ∧
    ((x.split w o).c.strm x.st).latch = (x.c.strm x.st).latch := by
  have hst : (x.split w o).c.strm x.st = _ := strm_noted w o x _
  refine ⟨?_, by rw [hst]⟩
  rw [hst]
  rfl

theorem kInt_split (x : Ctx) (w : Word) (o : OpInfo) : kInt (x.split w o) = kInt x := rfl

theorem opVal_split (x : Ctx) (w : Word) (o : OpInfo) (code : BitVec 7) (wide : Bool) (off : Nat) (kw : DWord) (l : Nat) :
    opVal (x.split w o) code wide off kw l = opVal x code wide off kw l :=
  opVal_congr (x := x) (y := x.split w o) rfl rfl (split_c x w o).1 (split_c x w o).2 code wide off kw l

theorem src1_split (x : Ctx) (w : Word) (o : OpInfo) (a : BitVec 7) (l : Nat) : src1 (x.split w o) a l = src1 x a l := by
  rw [src1, src1, kInt_split, opVal_split]

theorem src2_split (x : Ctx) (w : Word) (o : OpInfo) (a b : BitVec 7) (l : Nat) : src2 (x.split w o) a b l = src2 x a b l := by
  have hst : (x.split w o).st = x.st := rfl
  rw [src2, src2, kInt_split, opVal_split, hst]

theorem wants_retired (sx : StreamSt) (o : OpInfo) (run : Lanes) (hints : Hints) (alive : Lanes) :
    (sx.retired o run hints alive).wants = (lanesOf run).foldl (fun t l => tdel l t) sx.wants := by
  have eu : ∀ y : StreamSt, (y.undefer alive).wants = y.wants := by
    intro y; unfold StreamSt.undefer; dsimp only; split <;> rfl
  have es : ∀ (y : StreamSt) h, (y.schedule alive run h).wants = y.wants := by
    intro y h; unfold StreamSt.schedule StreamSt.defer; dsimp only; split <;> rfl
  unfold StreamSt.retired
  dsimp only
  rw [eu]
  have hcount : ∀ y : StreamSt, ∀ more, (y.countRun run more (lanesOf run)).wants = (lanesOf run).foldl (fun t l => tdel l t) y.wants :=
    fun _ _ => rfl
  have huse : ∀ y : StreamSt, (if o.hint then y else y.useHints o.transfer (lanesOf run)).wants = y.wants := by
    intro y; split <;> rfl
  have hstep : (if o.transfer then sx else sx.stepOn (lanesOf run)).wants = sx.wants := by split <;> rfl
  split
  · rw [es, hcount, huse, hstep]
  · rw [hcount, huse, hstep]

/-! ## Two-source integer instructions that split -/

/-- What the ready lanes pop is there. -/
theorem popsThere_split {x : Ctx} {u : Word} {d a b : BitVec 7} : PopsThere (info3 d a b) (x.split u (info3 d a b)) := by
  intro q l hl
  unfold popsFor
  by_cases hact : (readyLanes u (info3 d a b) x).getLsbD l = true
  · have hq := (queueReady_info3.mp ((readyLanes_info3 hl).mp hact).2).1 q
    rw [if_pos ⟨hact, fun h => absurd h Bool.false_ne_true⟩, (split_c ..).1, Consist.queueOf_setStrm]
    exact hq.1
  · rw [if_neg (fun h => hact h.1)]
    exact Nat.zero_le _

/-- What a split completion leaves of the lanes that stay. -/
theorem Retires.left {x : Ctx} {u : Word} {o : OpInfo} {z : State} {c : Consist} {d : BitVec 7} {wide nw : Bool} {f : Nat → DWord}
    (hr : Retires o (x.split u o) (putResult z (x.split u o).c x.st d wide nw (lanesOf (x.split u o).act) f) c)
    (ht : o.transfer = false) {l : Nat} (hl : l < 32) (hleft : (x.act &&& ~~~readyLanes u o x).getLsbD l = true) :
    tget (c.strm x.st).pc l = tget (x.c.strm x.st).pc l ∧ tget (c.strm x.st).wants l = wantOf u o x l ∧
      ∀ q, c.queueOf q l = x.c.queueOf q l := by
  obtain ⟨C, hC, -, -, -, -, -, -, hstrm, -⟩ := putResult_fields z (x.split u o) (x.split u o).c.csw d wide nw f
  have hqueues := putResult_queues z (x.split u o) (x.split u o).c.csw d wide nw f
  rw [Ctx.withCsw_self] at hC hqueues
  change C = putResult z (x.split u o).c x.st d wide nw (lanesOf (x.split u o).act) f at hC
  change ∀ q l, l < 32 → ∃ new, (putResult z (x.split u o).c x.st d wide nw (lanesOf (x.split u o).act) f).queueOf q l = _ ∧ _
    at hqueues
  rw [← hC] at hr hqueues
  have hsame : (C.strm x.st).pc = (x.c.strm x.st).pc ∧
      (C.strm x.st).wants = setLanes (x.c.strm x.st).wants (lanesOf (x.act &&& ~~~readyLanes u o x)) (wantOf u o x) := by
    have hnoted := strm_noted u o x (x.act &&& ~~~readyLanes u o x)
    have hpc := congrArg StreamSt.pc hnoted
    have hwants := congrArg StreamSt.wants hnoted
    change C.strm x.st = _ at hstrm
    rw [hstrm]
    split <;> exact ⟨hpc, hwants⟩
  have hready : (readyLanes u o x).getLsbD l = false := by
    rw [BitVec.getLsbD_and, BitVec.getLsbD_not] at hleft
    simp only [hl, decide_true, Bool.true_and, Bool.and_eq_true, Bool.not_eq_true'] at hleft
    exact hleft.2
  have hrun : ¬ (x.split u o).run.getLsbD l = true := by
    change ¬ (x.run &&& ~~~(x.act &&& ~~~readyLanes u o x)).getLsbD l = true
    rw [BitVec.getLsbD_and, BitVec.getLsbD_not, hleft]
    simp
  refine ⟨?_, ?_, fun q => ?_⟩
  · rw [(show tget (c.strm x.st).pc l = _ from (hr.passed ht).pcs l hl), if_neg hrun]
    exact congrArg (tget · l) hsame.1
  · have hw : (c.strm x.st).wants = _ := (congrArg StreamSt.wants hr.strm).trans (wants_retired ..)
    rw [hw, tget, tfind_foldl_tdel, if_neg (fun h => hrun ((mem_lanesOf _ _).mp h).2)]
    change tget (C.strm x.st).wants l = _
    rw [hsame.2, tget_setLanes, if_pos ((mem_lanesOf _ _).mpr ⟨hl, hleft⟩)]
  · obtain ⟨new, hnew, hentries⟩ := hqueues q l hl
    have hpop : popsFor o (x.split u o) q l = 0 := if_neg (fun h => Bool.false_ne_true (hready.symm.trans h.1))
    have hpush : pushesFor (x.split u o) d wide nw f q l = [] :=
      if_neg (fun h => Bool.false_ne_true (hready.symm.trans h.2.2.1))
    rw [hpush] at hentries
    have hnil : new = [] := List.eq_nil_of_length_eq_zero hentries.1
    rw [hr.pops q l hl, hpop, List.drop_zero, hnew, hnil, List.append_nil, (split_c ..).1, Consist.queueOf_setStrm]

theorem atWidth2_eq (st : Strm) (f : WidthOp) (p q : DWord) : atWidth2 st f p q = atWidth st f p q := by cases st <;> rfl

/-- The law of a two-source integer instruction whose run splits. -/
theorem alu2_splits {maj : BitVec 7} {fn : BitVec 3} {op : Bool → WidthOp} {d a b : BitVec 7} {w : BitVec 1} {s : State} {x : Ctx}
    {u : Word} (hu : u = packReg maj d a b w fn) (hfound : findCtx s = some x) (hcheck : decodeCheck u (info3 d a b) x = none)
    (hhazard : hazard (info3 d a b) x = false) (hlatch : invalidLatch (info3 d a b) x = none)
    (hready : readyLanes u (info3 d a b) x ≠ 0) (hleft : x.act &&& ~~~readyLanes u (info3 d a b) x ≠ 0) :
    ∃ t, alu2 maj fn op d a b w s = .next t ∧
      Wrote (info3 d a b) (x.split u (info3 d a b)) d false (w == 1)
        (fun l => atWidth x.st (op (satOf x)) (src1 x a l) (src2 x a b l)) x.c.csw
        (noteWants u (info3 d a b) x (x.act &&& ~~~readyLanes u (info3 d a b) x) s) t ∧
      (∀ c, t.consist? x.key = some c → ∀ l, l < 32 →
        (x.act &&& ~~~readyLanes u (info3 d a b) x).getLsbD l = true →
        tget (c.strm x.st).pc l = tget (x.c.strm x.st).pc l ∧ tget (c.strm x.st).wants l = wantOf u (info3 d a b) x l ∧
        ∀ q, c.queueOf q l = x.c.queueOf q l) := by
  obtain ⟨y, hy⟩ : ∃ y, y = x.split u (info3 d a b) := ⟨_, rfl⟩
  obtain ⟨s', hs'⟩ : ∃ s', s' = noteWants u (info3 d a b) x (x.act &&& ~~~readyLanes u (info3 d a b) x) s := ⟨_, rfl⟩
  obtain ⟨z, hz⟩ : ∃ z, z = learnPops (info3 d a b) y s' := ⟨_, rfl⟩
  obtain ⟨f, hf⟩ : ∃ f : Nat → DWord, f = fun l => atWidth x.st (op (satOf x)) (src1 x a l) (src2 x a b l) := ⟨_, rfl⟩
  have hbody : writeLanes y d false (w == 1) (fun l => atWidth2 y.st (op (satOf y)) (src1 y a l) (src2 y a b l)) z
      = .ok (z.setConsist y.key (putResult z y.c y.st d false (w == 1) (lanesOf y.act) f)) := by
    have hst : y.st = x.st := by rw [hy]; rfl
    have hsat : satOf y = satOf x := by rw [hy]; rfl
    rw [hf, writeLanes, hst, hsat]
    simp only [hy, src1_split, src2_split, atWidth2_eq]
  have hissue := issue_split (body := fun x => writeLanes x d false (w == 1)
    (fun l => atWidth2 x.st (op (satOf x)) (src1 x a l) (src2 x a b l))) (w := u) hfound hcheck hhazard hlatch hready hleft
    (t := z.setConsist y.key (putResult z y.c y.st d false (w == 1) (lanesOf y.act) f)) (by rw [← hs', ← hy, ← hz]; exact hbody)
  obtain ⟨c, hc, hr, hk⟩ := retire_retires (o := info3 d a b) (x := y)
    (State.consist?_setConsist_same z y.key (putResult z y.c y.st d false (w == 1) (lanesOf y.act) f))
  have hkeep : (switchIn y s').Keeps y.key (retire (info3 d a b) y (switchIn y (z.setConsist y.key
      (putResult z y.c y.st d false (w == 1) (lanesOf y.act) f)))) :=
    (((hz ▸ State.keeps_learnPops (info3 d a b) y s').trans (State.keeps_setConsist ..)).switchIn).trans hk
  have hcsw : y.c.csw = x.c.csw := by rw [hy, (split_c ..).1, Consist.setStrm_csw]
  refine ⟨retire (info3 d a b) y (switchIn y (z.setConsist y.key (putResult z y.c y.st d false (w == 1) (lanesOf y.act) f))),
    ?_, ?_, fun c' hc' l hl hstay => ?_⟩
  · rw [alu2, ← hu, hissue, hy]
  · rw [← hy, ← hs', ← hf, ← hcsw]
    exact hr.wrote rfl (hy ▸ popsThere_split) hkeep hc
  · have hkey : y.key = x.key := by rw [hy]; rfl
    rw [← hkey, hc] at hc'
    obtain rfl := Option.some.inj hc'
    rw [hy] at hr
    exact hr.left rfl hl hstay

/-- Settles O59: a lane is ready as its pops and pushes are, and the run completes for its ready lanes as for a run of them
alone. -/
theorem queueOperationsSplitRuns : Obligations.QueueOperationsSplitRuns := by
  intro s x d a b w e he u hu o ready left y
  obtain ⟨maj, fn, hencoded, hmaj, hmeaning⟩ := twoSource_spec d a b w e he
  have hword : u = packReg maj d a b w fn := Option.some.inj (hu.symm.trans hencoded)
  refine ⟨fun l hl => ?_, fun hfound hcheck hhazard hlatch hready hleft => ?_⟩
  · have hnw : wordNw u = false ↔ w = 0 := by
      have one : ∀ v : BitVec 1, (v == 1) = false ↔ v = 0 := by decide
      rw [hword, wordNw_packReg hmaj, one]
    rw [readyLanes_info3 hl, queueReady_info3, hnw]
    rfl
  · rw [hmeaning]
    exact alu2_splits hword hfound hcheck hhazard hlatch hready hleft

end Sys2Proof.Machine

/-! What happens to a consist between its instructions (R85, R89, R92, R96, R97, R104, R138, R302). -/

namespace Sys2Proof.Machine

open Sys2Proof

/-! ## Results land (R32, R85, R138) -/

/-- A result that names a register writes it for its lane. -/
theorem Consist.land_reg {c : Consist} {f : Inflight} (hlane : f.lane < 32) {code : BitVec 7} {wide : Bool}
    (hdest : f.dest = .reg code wide true) :
    (f.strm = .c → ∀ n, codeOf .c code = .v n → ∀ m l, l < 32 → (c.land f).v m l =
      if l = f.lane ∧ m = n then (pairOf f.vals).setWidth 32
      else if l = f.lane ∧ wide = true ∧ m = n + 1 then (pairOf f.vals).extractLsb' 32 32 else c.v m l) ∧
    (f.strm = .a → wide = false → ∀ n, codeOf .a code = .a n → ∀ m l, l < 32 → tget (c.land f).aregs (32 * m + l) =
      if l = f.lane ∧ m = n then pairOf f.vals else tget c.aregs (32 * m + l)) := by
  have hls : ∀ i ∈ [f.lane], i < 32 := fun i hi => (List.mem_singleton.mp hi) ▸ hlane
  refine ⟨fun hst n hn m l hl => ?_, fun hst hw n hn m l hl => ?_⟩
  · have hland : c.land f = (c.setStrm .c ((c.strm .c).putLatch (latchOf code) [f.lane] (fun _ => pairOf f.vals))).putReg .c code wide
        [f.lane] (fun _ => pairOf f.vals) := by
      simp only [Consist.land, hdest, hst, if_true]
    rw [hland, putReg_v _ _ _ _ _ _ _ _ hls hl, hn]
    simp only [List.mem_singleton, Consist.v, Consist.setStrm_vregs]
    by_cases hlane' : l = f.lane
    · by_cases hm : m = n
      · simp [hlane', hm]
      · simp [hlane', hm]
    · simp [hlane']
  · have hland : c.land f = (c.setStrm .a ((c.strm .a).putLatch (latchOf code) [f.lane] (fun _ => pairOf f.vals))).putReg .a code false
        [f.lane] (fun _ => pairOf f.vals) := by
      simp only [Consist.land, hdest, hst, hw, if_true, Bool.false_eq_true, if_false]
    rw [hland, putReg_a _ _ _ _ _ _ _ _ hls hl, hn]
    simp only [List.mem_singleton, Consist.setStrm_aregs]
    simp only [and_comm]

/-- A result that names a queue fills the slots of its lane that it reserved. -/
theorem Consist.land_queue {c : Consist} {f : Inflight} {code : BitVec 7} {latch : Bool} {id : Nat} {q : Queue}
    (hdest : f.dest = .queue code latch id) (hq : writeQueue f.strm (codeOf f.strm code) = some q) :
    (c.land f).queueOf q f.lane = fillSlots id f.clk f.vals (c.queueOf q f.lane) ∧
      (∀ l, l ≠ f.lane → (c.land f).queueOf q l = c.queueOf q l) ∧ (c.land f).vregs = c.vregs ∧ (c.land f).aregs = c.aregs := by
  obtain ⟨b, hb, hqueue, hv, ha⟩ : ∃ b : Consist,
      c.land f = b.setQueue q f.lane (fillSlots id f.clk f.vals (b.queueOf q f.lane)) ∧
        (∀ l, b.queueOf q l = c.queueOf q l) ∧ b.vregs = c.vregs ∧ b.aregs = c.aregs := by
    simp only [Consist.land, hdest, hq]
    refine ⟨_, rfl, ?_⟩
    split
    · exact ⟨fun l => Consist.queueOf_setStrm .., Consist.setStrm_vregs .., Consist.setStrm_aregs ..⟩
    · exact ⟨fun _ => rfl, rfl, rfl⟩
  rw [hb]
  refine ⟨?_, fun l hl => ?_, ?_, ?_⟩
  · rw [Consist.queueOf_setQueue, if_pos ⟨rfl, rfl⟩, hqueue]
  · rw [Consist.queueOf_setQueue, if_neg (fun h => hl h.2), hqueue]
  · rw [← hv]; cases q <;> rfl
  · rw [← ha]; cases q <;> rfl

/-- What landing a result makes of a consist. -/
theorem Consist.landed (c : Consist) (f : Inflight) (hlane : f.lane < 32) :
    Landed f c { c.land f with inflight := c.inflight.erase f } where
  keeps := by
    have h := c.sameButResults_land f
    unfold Consist.SameButResults at h
    unfold Consist.Keeps
    rw [h]
  inflight := rfl
  registers := fun code wide hdest => Consist.land_reg hlane hdest
  slots := fun code latch id q hdest hq => Consist.land_queue hdest hq

/-! ## Where a queue lock or a fault of an engine traps (R89, R104) -/

/-- Is a queue-locked lane locked in the C-stream, as it has left the A-stream or waits on itself? -/
def lockedInC (c : Consist) (l : Nat) : Bool := !(c.alive .a).getLsbD l || c.blockOf .c l == Block.self

/-- The stream in which QLOCK is taken for some lanes. -/
def qlockStrm (c : Consist) (lanes : List Nat) : Strm := if lanes.all (lockedInC c) then .c else .a

/-- The lane whose instruction QLOCK names. -/
def qlockLane (c : Consist) (low : Nat) (lanes : List Nat) : Nat :=
  if lanes.all (lockedInC c) then low else (lanes.find? (fun l => !lockedInC c l)).getD low

/-- The stream in which a fault of an engine is taken. -/
def faultStrm (c : Consist) : Strm := if c.alive .a ≠ 0 then .a else .c

/-- The run at which it is taken. -/
def faultRun (c : Consist) : Lanes := headRun (c.strm (faultStrm c)) (c.eligible (faultStrm c))

/-- The address that a trap at a lane of a stream reports. -/
def standing (c : Consist) (st : Strm) (l : Nat) : BitVec 32 := c.trapPc st l (tget (c.strm st).pc l)

/-! ## Events of one consist -/

/-- The step of an event that changes one consist. -/
theorem becomes_setConsist (s : State) (k : Nat) (c : Consist) :
    s.Keeps k (s.setConsist k c).bump ∧ (s.setConsist k c).bump.consist? k = some c :=
  ⟨(State.keeps_setConsist s k c).trans (State.keeps_bump ..), State.consist?_setConsist_same ..⟩

theorem becomes_of_eq {s : State} {k : Nat} {i : Instr} {c : Consist} (h : exec i s = .next (s.setConsist k c).bump) :
    ∃ t, exec i s = .next t ∧ s.Keeps k t ∧ t.consist? k = some c := by
  obtain ⟨hk, hc⟩ := becomes_setConsist s k c
  exact ⟨_, h, hk, hc⟩

section Events

variable {s : State} {k : Nat} {c : Consist} (hc : s.consist? k = some c)
include hc

/-- A result of any kind returns. -/
theorem landing_becomes {i : Instr} {p : Inflight → Bool} {n : Nat} {f : Inflight} (hlane : f.lane < 32)
    (hexec : exec i s = .next (s.modConsist k (fun c => match (c.inflight.filter p)[n]? with
      | some f => { c.land f with inflight := c.inflight.erase f }
      | none => c)).bump) (hf : (c.inflight.filter p)[n]? = some f) :
    ∃ c', (∃ t, exec i s = .next t ∧ s.Keeps k t ∧ t.consist? k = some c') ∧ Landed f c c' := by
  refine ⟨_, becomes_of_eq (hexec.trans ?_), c.landed f hlane⟩
  rw [State.modConsist_eq hc]
  simp only [hf]

theorem resultsLand : ∀ e ∈ ([(.load, fun lane n => .loadDataReturn k lane n), (.texture, fun lane n => .textureResult k lane n),
        (.variable, fun _ n => .variableLatencyComplete k n)] : List (Latency × (Nat → Nat → Instr))),
      ∀ lane n f, lane < 32 → f.lane = lane →
        (c.inflight.filter (fun g => g.kind == e.1 && (e.1 == .variable || g.lane == lane)))[n]? = some f →
        ∃ c', (∃ t, exec (e.2 lane n) s = .next t ∧ s.Keeps k t ∧ t.consist? k = some c') ∧ Landed f c c' := by
  simp only [List.forall_mem_cons]
  refine ⟨fun lane n f hlane hl hf => ?_, fun lane n f hlane hl hf => ?_, fun lane n f hlane hl hf => ?_,
    fun _ h => absurd h List.not_mem_nil⟩
  · exact landing_becomes hc (p := fun g => g.kind == .load && g.lane == lane) (hl ▸ hlane) exec_loadDataReturn hf
  · exact landing_becomes hc (p := fun g => g.kind == .texture && g.lane == lane) (hl ▸ hlane) exec_textureResult hf
  · refine landing_becomes hc (p := fun g => g.kind == .variable) (hl ▸ hlane) exec_variableLatencyComplete ?_
    simpa only [beq_self_eq_true, Bool.true_or, Bool.and_true] using hf

theorem qlock_becomes (hrun : c.status = .running) (hsaved : c.saved = none) {low : Nat} {rest : List Nat}
    (hlocked : (List.range 32).filter c.locked = low :: rest) :
    ∃ st mask pc, (∃ t, exec (.qlockDetect k) s = .next t ∧ s.Keeps k t ∧
        t.consist? k = some (c.deliver .qlock (c.qlockValue low) false st mask pc pc)) ∧
      (∀ l, l < 32 → mask.getLsbD l = c.locked l) ∧
      (st = .c ↔ ∀ l, l < 32 → c.locked l = true → (c.alive .a).getLsbD l = false ∨ c.blockOf .c l = .self) := by
  have hmem : ∀ l, l ∈ low :: rest ↔ l < 32 ∧ c.locked l = true := fun l => by
    rw [← hlocked, List.mem_filter, List.mem_range]
  have hall : (low :: rest).all (lockedInC c) = true ↔
      ∀ l, l < 32 → c.locked l = true → (c.alive .a).getLsbD l = false ∨ c.blockOf .c l = .self := by
    simp only [List.all_eq_true, hmem, lockedInC, Bool.or_eq_true, Bool.not_eq_true', beq_iff_eq, and_imp]
  refine ⟨qlockStrm c (low :: rest), maskWhere (fun l => (low :: rest).contains l),
    standing c (qlockStrm c (low :: rest)) (qlockLane c low (low :: rest)), becomes_of_eq ?_, fun l hl => ?_, ?_⟩
  · rw [exec_qlockDetect, execQlockDetect]
    simp only [hc, hrun, hsaved, Option.isNone_none, and_self, if_true, hlocked]
    rfl
  · rw [getLsbD_maskWhere _ l hl, Bool.eq_iff_iff, List.contains_iff_mem, hmem]
    simp only [hl, true_and]
  · rw [← hall, qlockStrm]
    by_cases h : (low :: rest).all (lockedInC c) = true
    · simp only [h, if_true]
    · simp [h]

theorem deferral_becomes {aStream blocked : Bool} {st : Strm} (hst : st = if aStream then .a else .c) {run : Lanes}
    (hrun : run = headRun (c.strm st) (c.eligible st)) (hstatus : c.status = .running) (hmore : c.eligible st &&& ~~~run ≠ 0)
    (hheld : (c.strm st).held = false)
    (hdue : dueDeferral c st run = true ∨ (blocked = true ∧ (c.strm st).stalled = true)) :
    ∃ t, exec (.runDeferral k aStream blocked) s = .next t ∧ s.Keeps k t ∧ t.consist? k = some (c.setStrm st
      { c.strm st with deferred := if c.alive st &&& (c.strm st).deferred &&& ~~~run = 0 then (c.strm st).deferred ||| run else 0,
                       headCount := 0, headLanes := 0, stalled := false }) := by
  refine becomes_of_eq ?_
  have hcond : (dueDeferral c st run || (blocked && (c.strm st).stalled)) = true := by
    simpa only [Bool.or_eq_true, Bool.and_eq_true] using hdue
  have hsame : { (c.strm st).defer (c.alive st) run with headCount := 0, headLanes := 0, stalled := false, held := false } =
      { c.strm st with
        deferred := if c.alive st &&& (c.strm st).deferred &&& ~~~run = 0 then (c.strm st).deferred ||| run else 0
        headCount := 0, headLanes := 0, stalled := false } := by
    rw [← hheld]; rfl
  rw [exec_runDeferral, execRunDeferral, ← hst]
  simp only [hc, ← hrun]
  rw [if_pos ⟨hstatus, decide_eq_true hmore, hheld, hcond⟩, hsame]

theorem tierMove_becomes (hline : isLine k = false) (hrun : c.status = .running) (htier : c.lowTier = false)
    (hhold : c.inHold = false) (ha : c.idleStrm .a = true) (hcs : c.idleStrm .c = true) :
    ∃ t, exec (.registerTierMove k) s = .next t ∧ s.Keeps k t ∧ t.consist? k = some
      { c with lowTier := true, a := { c.a with latchValid := 0 }, c := { c.c with latchValid := 0 } } := by
  refine becomes_of_eq ?_
  rw [exec_registerTierMove, execRegisterTierMove]
  simp only [hc]
  rw [if_pos ⟨hline, hrun, htier, hhold, ha, hcs⟩]

theorem tierRecall_becomes (htier : c.lowTier = true) :
    ∃ t, exec (.registerTierRecall k) s = .next t ∧ s.Keeps k t ∧ t.consist? k = some { c with lowTier := false } := by
  refine becomes_of_eq ?_
  rw [exec_registerTierRecall, execRegisterTierRecall]
  simp only [hc, htier, if_true]

/-! ## Faults that engines delivered (R104, R106) -/

theorem fault_running {f : AsyncFault} (hf : c.async.find? (fun f => !(f.held && c.saved.isSome)) = some f)
    (hparked : c.parked = false) (hrun : c.status = .running) (hband : c.bandOp = 0) :
    ∃ st run pc, (∃ t, exec (.asyncTrapDelivery k) s = .next t ∧ s.Keeps k t ∧ t.consist? k = some
        (({ c with async := c.async.erase f, tokens := c.tokens &&& ~~~f.tokens } : Consist).deliver
          f.cause f.value true st run pc pc)) ∧
      (st = .a ↔ c.alive .a ≠ 0) ∧ run = headRun (c.strm st) (c.eligible st) := by
  have hdue : c.dueFault = some f := hf
  refine ⟨faultStrm c, faultRun c, standing c (faultStrm c) (lowest (faultRun c)), becomes_of_eq ?_, ?_, rfl⟩
  · rw [exec_asyncTrapDelivery, execAsyncTrapDelivery]
    simp only [hc, hdue, hparked, hrun, hband, Bool.false_eq_true, if_false, ne_eq, not_true_eq_false]
    rfl
  · unfold faultStrm
    by_cases h : c.alive .a = 0
    · simp [h]
    · simp [h]

theorem fault_draining {f : AsyncFault} (hf : c.async.find? (fun f => !(f.held && c.saved.isSome)) = some f)
    (hparked : c.parked = false) (hdrain : c.status = .draining) :
    ∃ c', (∃ t, exec (.asyncTrapDelivery k) s = .next t ∧ s.Keeps k t ∧ t.consist? k = some c') ∧
      c'.status = .terminated { trapc := trapcOf f.cause true .a 0, trapv := f.value, trappc := 0 } ∧
      c'.async = c.async.erase f ∧ c'.tokens = c.tokens &&& ~~~f.tokens := by
  have hdue : c.dueFault = some f := hf
  refine ⟨_, becomes_of_eq (c := { c with
    async := c.async.erase f, tokens := c.tokens &&& ~~~f.tokens, trapc := trapcOf f.cause true .a 0, trapv := f.value
    trappc := 0, status := .terminated { trapc := trapcOf f.cause true .a 0, trapv := f.value, trappc := 0 } }) ?_,
    rfl, rfl, rfl⟩
  rw [exec_asyncTrapDelivery, execAsyncTrapDelivery]
  simp only [hc, hdue, hparked, hdrain, Bool.false_eq_true, if_false]

theorem faults_held (hsaved : c.saved.isSome = true) (hheld : ∀ f ∈ c.async, f.held = true) :
    ∃ t, exec (.asyncTrapDelivery k) s = .next t ∧ s.Keeps k t ∧ t.consist? k = some c := by
  have hdue : c.dueFault = none := by
    rw [Consist.dueFault, List.find?_eq_none]
    intro f hf
    simp [hheld f hf, hsaved]
  refine ⟨s.bump, ?_, State.keeps_bump .., hc⟩
  rw [exec_asyncTrapDelivery, execAsyncTrapDelivery]
  simp only [hc, hdue]

end Events

/-- Settles O47: each event changes its consist alone, as its condition holds. -/
theorem consistEventsTakeEffect : Obligations.ConsistEventsTakeEffect := by
  intro s k c hc becomes
  refine ⟨resultsLand hc, fun hrun hsaved low rest hlocked => qlock_becomes hc hrun hsaved hlocked, ?_,
    tierMove_becomes hc, tierRecall_becomes hc, fun f hf hparked => ⟨fault_running hc hf hparked, fault_draining hc hf hparked⟩,
    faults_held hc⟩
  intro aStream blocked st sx run hstatus hmore hheld hdue
  exact deferral_becomes hc rfl rfl hstatus hmore hheld hdue

end Sys2Proof.Machine

/-! No instruction and no event is refused, and only a host access beyond its addresses stops the machine (R87, R331,
R374). -/

namespace Sys2Proof.Machine

open Sys2Proof

/-- A host access to addresses that are there answers (R374). -/
theorem execHostAccess_next {func addr size : Nat} {write : Bool} {data : DWord} {s : State}
    (h : ¬ ((addr < 2 ^ 40 ∧ 2 ^ 40 < addr + size) ∨ (2 ^ 40 ≤ addr ∧ 2 ^ 40 + barSize func < addr + size))) :
    ∃ t, execHostAccess func addr size write data s = .next t := by
  unfold execHostAccess
  rw [if_neg h]
  exact ⟨_, rfl⟩

/-- Posting a fault record ends in a next state, with records to post or without (R344). -/
theorem execFaultRecordPost_next (sess : Nat) (s : State) : ∃ t, execFaultRecordPost sess s = .next t := by
  unfold execFaultRecordPost
  dsimp only
  split
  · exact ⟨_, rfl⟩
  · split <;> exact ⟨_, rfl⟩

/-- The replay of a side log's head ends in a next state, whatever its pages answer (R196). -/
theorem execSideLogReplay_next (core : Nat) (s : State) : ∃ t, execSideLogReplay core s = .next t := by
  unfold execSideLogReplay
  split
  · exact ⟨_, rfl⟩
  · dsimp only
    split <;> exact ⟨_, rfl⟩

/-- Whatever is not a host access ends in a next state: an event by its definition, a word because every word that is
issued does. -/
theorem exec_next (i : Instr) (s : State) (h : ∀ f a n w d, i ≠ .hostAccess f a n w d) : ∃ t, exec i s = .next t := by
  cases i
  case hostAccess f a n w d => exact absurd rfl (h f a n w d)
  case faultRecordPost sess => exact execFaultRecordPost_next sess s
  case sideLogReplay core => exact execSideLogReplay_next core s
  case
    loadDataReturn | variableLatencyComplete | qlockDetect | runDeferral | registerTierMove | registerTierRecall |
    asyncTrapDelivery | consistExitReport | tlbProbe | pageWalk | cowBreak | tileExecute | tileComplete |
    rowQueueGrant | mrowPush | freightOperationStart | freightOperationComplete | freightFault |
    freightAssemblyAbandon | convoyExpand | engineJoin | partitionFlip | contextSwap | convoyResume | rasterDrawBin |
    rasterPassComplete | rasterFault | rasterPassAbandon | textureResult | bandWindowOpen | preparedImageReady |
    lemitCopyComplete | fbsetCopyComplete | warpbComplete | mesrchResult | bandSettle | tapHistoryWrite | encoderTap |
    encoderTileRow | streamStopEffect | streamMove | sealHash | sealLookup | sealCommit | sealAbort | quiescenceVisit
    | manifestRequestComplete | keyRevokeComplete | transferTablesMoved | frameDrift | transferComplete | slipComplete
    | sessParkComplete | depotEndProceed | sessEndComplete | submitResume | sqtail | restart | commandFetch |
    forwardedCommand | sessNew | sessSlip | sessMove | sessMoveExtend | sessEnd | sessEndPark | sessEndKill | keyLoad
    | keyDrop | layoutPut | layoutPutReset | submit | streamSetStart | streamSetStop | streamSetRestart | attest |
    capsRead | rasLog | dieLinkFlit | linkResync | linkDown | linkRekey | dieReset | uncorrectableError |
    dramCorrectionReport | rasctlClr | injctlArm | vfk | keyreq | registerWrite | powerAverage | supplyDip |
    supplyRecovery | throttle | thermalTrip | canarySample | routerRetireMark | routerRetired | throttleRelease |
    contestedCycle | tdispRequest | ideStreamActivation =>
    exact ⟨_, rfl⟩
  all_goals
    delta exec
    simp only [
      execIadd, execIsub, execImin, execImax, execUmin, execUmax, execIabsd, execIaddi, execAnd, execOr, execXor,
      execAndn, execNot, execAndi, execOri, execXori, execShl, execShr, execSar, execRor, execBfe, execBfi, execShli,
      execShri, execSari, execRori, execImul, execImulh, execUmulh, execIdiv, execUdiv, execIrem, execUrem, execImad,
      execPopc, execClz, execCtz, execBrev, execBswap, execSext8, execSext16, execIcmp, execIcmpi, execMovi, execSel,
      execPand, execPor, execPxor, execPandn, execPmov, execPnz, execPtoi, execLea, execShfli, execShflu, execShfld,
      execShflx, execSwapp, execBcast, execVany, execVall, execVbal, execMatchLanes, execRdadd, execRdmin, execRdmax,
      execRdand, execRdor, execRdxor, execRdfadd, execRdfmax, execScadd, execScfadd, execRake, execFadd, execFsub,
      execFmul, execFdiv, execFmin, execFmax, execFcpsgn, execFfma, execFfms, execFcmp, execFaddi, execFrndn, execFrndz,
      execFrndu, execFrndd, execFfrac, execFabs, execFneg, execFclass, execHadd2, execHmul2, execBadd2, execBmul2,
      execHfma2, execBfma2, execDadd, execDsub, execDmul, execDdiv, execDsqrt, execDfma, execDcmp, execRcp, execRsq,
      execSqrt, execEx2, execLg2, execSint, execCost, execTanh, execItof, execUtof, execFtoi, execFtou, execFtod,
      execDtof, execItod, execDtoi, execFtoh2, execHtofl, execHtofh, execFtob2, execBtofl, execBtofh, execX8e4,
      execX8e5, execX6a, execX6b, execXi4o, execXi8, execP8e4, execP8e5, execP6a, execP6b, execPi4o, execPi8, execRmake,
      execRnum, execRden, execRmed, execRgcd, execRflr, execRtof, execFtor, execRmode, execBra, execCall, execBrx,
      execCallx, execRet, execExit, execYield, execNop, execBarinit, execBararr, execBarwait, execBararw, execBartest,
      execBardrop, execBarinv, execBarph, execFence, execTlwait, execTlread, execTlpoll, execTlsig, execTkwait,
      execTkany, execTktest, execLd8, execLd8s, execLd16, execLd16s, execLd32, execLd64, execLd128, execLdnt, execSt8,
      execSt16, execSt32, execSt64, execSt128, execStnt, execAadd, execAmin, execAmax, execAumin, execAand, execAor,
      execAxor, execAxch, execAadd64, execAmin64, execAmax64, execAand64, execAor64, execAxor64, execAxch64, execAfadd,
      execCas32, execCas64, execRedadd, execRedmin, execRedmax, execRedand, execRedor, execRedxor, execRedfadd,
      execRedbfadd, execSbind, execSflush, execSdrop, execPref, execCflush, execTexs, execTexl, execTexg, execTexq,
      execRbegin, execRdraw, execRflush, execMma, execMmas, execMlda, execMldw, execMacz, execMacld, execMacst,
      execMrow, execMsync, execMcfg, execMpop, execMpopb, execFrcopy, execFrfill, execFrgath, execFrscat, execFrred,
      execFrpf, execSpawn, execJoin, execEnq, execDeq, execLaunch, execCancel, execCntrd, execLwait, execLemit,
      execMesrch, execWarpb, execFbset, execTmstat, execDlread, execTrap, execRdsr, execWrsr, execCyc, execEret,
      execBrk, execScall, execHalt, execMseal, execMharv, execMquery, execMretire, execTlbinv, execTlbinva,
      execHintConst, execHintGuard, execHintHold, execHintScope, execHintRound, execHintMod, execHintSched,
      alu1, alu2, aluImm, shiftReg, shiftImm, predOp, permute, vote, reduce, ffused, fpick, fcompare, fone, frnd,
      fmove, packedFma, packHalves, widenHalf, extract, pack, tlbControl, branch, branchTo, swtrap, tileMove,
      tileIssue, popRows, freightIssue, dispatchOp, bandRead, texture, manifestOp, manifestRequest, hint, pend,
      division, farith2, packed2, special, convert, slashForm, plainForm, barrier, timelineOp, access, rasterOp,
      issue_next]

/-- Settles O6: a host access is judged by its addresses, and whatever else there is goes on. -/
theorem onlyHostAccessStops : Obligations.OnlyHostAccessStops := by
  intro i s
  cases i
  case hostAccess func addr size write data =>
    by_cases hbad : (addr < 2 ^ 40 ∧ 2 ^ 40 < addr + size) ∨ (2 ^ 40 ≤ addr ∧ 2 ^ 40 + barSize func < addr + size)
    · exact .inr ⟨func, addr, size, write, data, rfl, hbad, if_pos hbad⟩
    · exact .inl (execHostAccess_next hbad)
  all_goals exact .inl (exec_next _ s nofun)

end Sys2Proof.Machine

/-! Texture requests: the descriptors and texels of the active lanes, the slots they reserve and the results on their way
(R85, R299 to R302). -/

namespace Sys2Proof.Machine

open Sys2Proof

/-! ## Operands (R28) -/

/-- The operand fields of a word that passes R28's checks name what their uses allow. -/
theorem useOk_of_checked {w : Word} {o : OpInfo} {x : Ctx} (h : decodeCheck w o x = none) {u : Nat × BitVec 7 × Use}
    (hu : u ∈ o.uses) : useOk x.c x.st u.2.2 u.2.1 = true := by
  have hbad : badOperand o x = none := by
    by_contra hne
    obtain ⟨p, hp⟩ := Option.ne_none_iff_exists'.mp hne
    rw [decodeCheck_eq, hp] at h
    simp [ite_eq_iff] at h
  unfold badOperand at hbad
  split at hbad
  · split at hbad <;> cases hbad
  next hnone =>
    have := List.find?_eq_none.mp hnone u hu
    simp only [Bool.or_eq_true, Bool.not_eq_true', not_or, Bool.not_eq_false] at this
    exact this.1

/-- A group of registers is no queue. -/
theorem readQueue_of_group {c : Consist} {st : Strm} {m n : Nat} {a : BitVec 7} (h : useOk c st (.group m n) a = true) :
    readQueue st (codeOf st a) = none := by
  simp only [useOk] at h
  split at h
  · rename_i hcode
    rw [hcode]
    rfl
  · cases h

/-- An instruction that reads groups of registers alone learns nothing from a pop. -/
theorem learnPops_of_groups {w : Word} {o : OpInfo} {s : State} {x : Ctx} (h : Issues w o s x)
    (hg : ∀ u ∈ o.uses, u.2.2.reads = true → ∃ m n, u.2.2 = .group m n) : learnPops o x s = s := by
  have hpops : popsOf o x.st = [] := by
    unfold popsOf
    refine List.filterMap_eq_nil_iff.mpr fun u hu => ?_
    obtain ⟨hmem, hreads⟩ : u ∈ o.uses ∧ u.2.2.reads = true := by
      rcases List.mem_append.mp hu with hu | hu <;>
        exact ⟨(List.mem_filter.mp hu).1, (Bool.and_eq_true _ _ ▸ (List.mem_filter.mp hu).2).1⟩
    obtain ⟨m, n, hgroup⟩ := hg u hmem hreads
    have hok := useOk_of_checked h.checked hmem
    rw [hgroup] at hok
    rw [readQueue_of_group hok]
    rfl
  unfold learnPops
  rw [hpops]
  rfl

/-! ## The lanes that ask (R299) -/

theorem lanes_readDescriptors {x : Ctx} {b : BitVec 7} {ls : List Nat} {s t : State} {ds : List (Nat × BitVec 512)}
    (h : readDescriptors x b ls s = .val ds t) : ds.map (fun e => e.1) = ls := by
  induction ls generalizing s ds t with
  | nil =>
    obtain ⟨rfl, -⟩ := Got.val.inj h
    rfl
  | cons l ls ih =>
    obtain ⟨e, u, -, h⟩ := Got.bind_eq_val h
    obtain ⟨r, v, hr, h⟩ := Got.bind_eq_val h
    obtain ⟨rfl, -⟩ := Got.val.inj h
    rw [List.map_cons, ih hr]

theorem lanes_reachTexels {x : Ctx} {rs : List TexReq} {s t : State} {l : List (TexReq × List Piece)}
    (h : reachTexels x rs s = .val l t) : l.map (fun e => e.1) = rs := by
  induction rs generalizing s l t with
  | nil =>
    obtain ⟨rfl, -⟩ := Got.val.inj h
    rfl
  | cons r rs ih =>
    unfold reachTexels at h
    split at h
    · cases h
    · obtain ⟨ps, u, -, h⟩ := Got.bind_eq_val h
      obtain ⟨m, v, hm, h⟩ := Got.bind_eq_val h
      obtain ⟨rfl, -⟩ := Got.val.inj h
      rw [List.map_cons, ih hm]

/-- What has been read for the requests: their lanes, in order, each with four values. -/
theorem lanes_readTexels {x : Ctx} {rs : List (TexReq × List Piece)} {s t : State} {l : List TexDone}
    (h : readTexels x rs s = .val l t) :
    l.map (fun d => d.lane) = rs.map (fun e => e.1.lane) ∧ ∀ d ∈ l, d.vals.length = 4 := by
  induction rs generalizing s l t with
  | nil =>
    obtain ⟨rfl, -⟩ := Got.val.inj h
    exact ⟨rfl, fun d hd => absurd hd List.not_mem_nil⟩
  | cons r rs ih =>
    unfold readTexels at h
    dsimp only at h
    split at h
    · cases h
    · cases h
    · cases h
    · split at h
      · obtain ⟨m, v, hm, h⟩ := Got.bind_eq_val h
        obtain ⟨rfl, -⟩ := Got.val.inj h
        obtain ⟨hlanes, hvals⟩ := ih hm
        exact ⟨by rw [List.map_cons, List.map_cons, hlanes], List.forall_mem_cons.mpr ⟨rfl, hvals⟩⟩
      · cases h

/-! ## Slots and results on their way (R85, R302) -/

/-- Entries that are judged without their words are as many as any words of that number. -/
theorem Entries.of_length {P : QEntry → Prop} {new : List QEntry} {vs ws : List Word} (h : Entries (fun e _ => P e) new vs)
    (hl : ws.length = vs.length) : Entries (fun e _ => P e) new ws := by
  obtain ⟨hlen, hall⟩ := h
  refine ⟨hlen.trans hl.symm, fun p hp => ?_⟩
  have hmem : p.1 ∈ (new.zip vs).map Prod.fst := by
    rw [List.map_fst_zip hlen.le]
    exact (List.of_mem_zip hp).1
  obtain ⟨r, hr, hrp⟩ := List.mem_map.mp hmem
  exact hrp ▸ hall r hr

/-- The result of a request on its way. -/
def texItem (s : State) (uid : Nat) (r : TexDone) : Inflight :=
  { kind := .texture, strm := .c, lane := r.lane, dest := .queue 0x7A false s.nextUid, vals := r.vals,
    clk := s.known (laneThread uid r.lane .c) }

/-- The slots of a request, reserved. -/
def texReserved (s : State) (c : Consist) (r : TexDone) : Consist :=
  r.vals.foldl (fun (c : Consist) _ => c.push .lq r.lane { val := 0, filled := false, id := s.nextUid, clk := default }) c

/-- A request's slots are reserved, and its result is on its way. -/
def texLaunched (s : State) (c : Consist) (r : TexDone) : Consist :=
  let k := laneThread c.uid r.lane .c
  let d := texReserved s c r
  { d with inflight := d.inflight ++ [texItem s c.uid r],
           texRels := (r.rel.map (fun q => (tget (s.known k).clk k, r.lane, q))).toList ++ d.texRels }

theorem launchTexels_eq {x : Ctx} {l : List TexDone} {s : State} {c : Consist} (h : s.consist? x.key = some c) :
    launchTexels x l s = { s.setConsist x.key (l.foldl (texLaunched s) c) with nextUid := s.nextUid + 1 } := by
  unfold launchTexels
  rw [State.modConsist_eq h]
  rfl

/-- Consist `c` becomes `d` when texture requests leave. -/
structure TexLaunch (l : List TexDone) (c d : Consist) : Prop where
  same : d = { c with lq := d.lq, xqAC := d.xqAC, xqCA := d.xqCA, sq := d.sq, inflight := d.inflight, texRels := d.texRels }
  sent : ∃ new, d.inflight = c.inflight ++ new ∧ new.map (fun f => (f.lane, f.vals)) = l.map (fun r => (r.lane, r.vals)) ∧
    ∀ f ∈ new, f.kind = .texture ∧ f.strm = .c ∧ ∃ id, f.dest = .queue 0x7A false id
  queues : ∀ q j, ∃ new, d.queueOf q j = c.queueOf q j ++ new ∧ Entries (fun e _ => e.filled = false) new
    (if q = .lq ∧ j ∈ l.map (fun r => r.lane) ∧ c.deaf .lq j = false then List.replicate 4 0 else [])

section Launch

variable {s : State} {c d e : Consist} {r : TexDone} {l : List TexDone}

theorem texReserved_same : c.SameButQueues (texReserved s c r) :=
  sameButQueues_pushes .lq r.lane (fun _ _ => QEntry.mk 0 false s.nextUid default) r.vals c

theorem texReserved_pushes : Pushes (fun e _ => e.filled = false) .lq r.lane r.vals c (texReserved s c r) :=
  pushes_words _ .lq r.lane (fun _ _ => QEntry.mk 0 false s.nextUid default) (fun _ _ => rfl) r.vals c

theorem texLaunched_queueOf (q : Queue) (j : Nat) : (texLaunched s c r).queueOf q j = (texReserved s c r).queueOf q j :=
  Consist.queueOf_congr _ _ rfl rfl rfl rfl

theorem TexLaunch.nil : TexLaunch [] c c :=
  ⟨rfl, ⟨[], (List.append_nil _).symm, rfl, nofun⟩, fun _ _ => ⟨[], (List.append_nil _).symm, by simpa using .nil _⟩⟩

/-- One request reserves its slots and sends its result. -/
theorem TexLaunch.one (hr : r.vals.length = 4) : TexLaunch [r] c (texLaunched s c r) := by
  have hsame := texReserved_same (s := s) (c := c) (r := r)
  unfold Consist.SameButQueues at hsame
  refine ⟨?_, ⟨[texItem s c.uid r], ?_, rfl, fun f hf => ?_⟩, fun q j => ?_⟩
  · unfold texLaunched
    rw [hsame]
  · unfold texLaunched
    rw [hsame]
  · obtain rfl := List.mem_singleton.mp hf
    exact ⟨rfl, rfl, _, rfl⟩
  · rw [texLaunched_queueOf]
    by_cases h : q = .lq ∧ j = r.lane
    · obtain ⟨rfl, rfl⟩ := h
      obtain ⟨new, hnew, hent⟩ := (texReserved_pushes (s := s) (c := c) (r := r)).new
      refine ⟨new, hnew, hent.of_length ?_⟩
      cases c.deaf .lq r.lane <;> simp [hr]
    · refine ⟨[], by rw [texReserved_pushes.other q j h, List.append_nil], ?_⟩
      rw [if_neg (fun e => h ⟨e.1, by simpa using e.2.1⟩)]
      exact .nil _

/-- Requests that leave one after the other, of different lanes. -/
theorem TexLaunch.cons (h : TexLaunch [r] c d) (k : TexLaunch l d e) (hr : r.lane ∉ l.map (fun r => r.lane)) :
    TexLaunch (r :: l) c e := by
  obtain ⟨n1, hn1, hl1, hf1⟩ := h.sent
  obtain ⟨n2, hn2, hl2, hf2⟩ := k.sent
  refine ⟨?_, ⟨n1 ++ n2, by rw [hn2, hn1, List.append_assoc], ?_, fun f hf => ?_⟩, fun q j => ?_⟩
  · rw [k.same, h.same]
  · rw [List.map_append, hl1, hl2]
    rfl
  · exact (List.mem_append.mp hf).elim (hf1 f) (hf2 f)
  · have hdeaf : d.deaf .lq j = c.deaf .lq j := by apply Consist.deaf_congr <;> rw [h.same]
    obtain ⟨m1, hm1, he1⟩ := h.queues q j
    obtain ⟨m2, hm2, he2⟩ := k.queues q j
    rw [hm2, hm1, List.append_assoc]
    refine ⟨m1 ++ m2, rfl, ?_⟩
    rw [hdeaf] at he2
    by_cases hj : j = r.lane
    · subst hj
      rw [if_neg (fun e => hr e.2.1)] at he2
      obtain rfl := List.eq_nil_of_length_eq_zero he2.1
      simpa using he1
    · rw [if_neg (fun e => hj (by simpa using e.2.1))] at he1
      obtain rfl := List.eq_nil_of_length_eq_zero he1.1
      simpa [hj] using he2

/-- What the requests of different lanes, four values each, make of their consist. -/
theorem texLaunch_foldl (hn : (l.map (fun r => r.lane)).Nodup) (hv : ∀ r ∈ l, r.vals.length = 4) (c : Consist) :
    TexLaunch l c (l.foldl (texLaunched s) c) := by
  induction l generalizing c with
  | nil => exact .nil
  | cons r l ih =>
    rw [List.map_cons] at hn
    obtain ⟨hr, hn⟩ := List.nodup_cons.mp hn
    obtain ⟨hv1, hv⟩ := List.forall_mem_cons.mp hv
    exact .cons (.one hv1) (ih hn hv _) hr

end Launch

/-- What a completed texture instruction leaves: its consist `c`, which `vals` has been sent for. -/
def TexSent (o : OpInfo) (x : Ctx) (vals : List (Nat × List Word)) (c : Consist) : Prop :=
  ({ x.c with texRels := c.texRels } : Consist).Keeps c ∧
    c.vregs = x.c.vregs ∧ c.aregs = x.c.aregs ∧ c.sregs = x.c.sregs ∧ c.csw = x.c.csw ∧
    c.strm x.st.other = x.c.strm x.st.other ∧ StreamSt.Passed o x.run (x.c.strm x.st) (c.strm x.st) ∧
    (∃ new, c.inflight = x.c.inflight ++ new ∧ new.map (fun f => (f.lane, f.vals)) = vals ∧
      ∀ f ∈ new, f.kind = .texture ∧ f.strm = .c ∧ ∃ id, f.dest = .queue 0x7A false id) ∧
    QueuesMove o x (slotsFor x true 4) (fun e _ => e.filled = false) x.c c

/-- The law of a body whose requests leave for every active lane. -/
theorem issue_launchTexels {w : Word} {o : OpInfo} {s u : State} {x : Ctx} {l : List TexDone}
    {body : Ctx → State → Eff} (h : Issues w o s x) (ht : o.transfer = false)
    (hb : body x (learnPops o x s) = .ok (launchTexels x l u)) (hu : u.consist? x.key = some x.c)
    (hl : l.map (fun r => r.lane) = lanesOf x.act) (hv : ∀ r ∈ l, r.vals.length = 4) :
    ∃ t, issue w o body s = .next t ∧ (∃ c, t.consist? x.key = some c ∧ TexSent o x (l.map (fun r => (r.lane, r.vals))) c) ∧
      ∀ j, t.byte j = u.byte j := by
  have hfold := texLaunch_foldl (s := u) (hl ▸ lanesOf_nodup x.act) hv x.c
  generalize hd : l.foldl (texLaunched u) x.c = d at hfold
  have heq := launchTexels_eq (l := l) hu
  rw [hd] at heq
  have hcons : (launchTexels x l u).consist? x.key = some d := by
    rw [heq]
    exact State.consist?_setConsist_same ..
  obtain ⟨c, hc, hret, hkeep⟩ := retire_retires (o := o) hcons
  refine ⟨_, issue_ok h hb, ⟨c, hc, ?_⟩, fun j => ?_⟩
  · obtain ⟨new, hnew, hvals, hitems⟩ := hfold.sent
    have hstrm : ∀ st, d.strm st = x.c.strm st := fun st => by rw [hfold.same]; cases st <;> rfl
    refine ⟨?_, ?_, ?_, ?_, ?_, ?_, ?_, ⟨new, ?_, hvals, hitems⟩, ?_⟩
    · have hk := hret.keeps
      unfold Consist.Keeps at hk ⊢
      rw [hk, hfold.same]
    · rw [hret.vregs, hfold.same]
    · rw [hret.aregs, hfold.same]
    · rw [hret.sregs, hfold.same]
    · rw [hret.csw, hfold.same]
    · rw [hret.other, hstrm]
    · exact hstrm x.st ▸ hret.passed ht
    · rw [hret.inflight, hnew]
    · refine queuesMove_of h (fun q j hj => ?_) hret.pops
      obtain ⟨m, hm, hent⟩ := hfold.queues q j
      refine ⟨m, hm, ?_⟩
      rw [hl] at hent
      simpa [slotsFor, mem_lanesOf, hj] using hent
  · rw [hkeep.bytes, byte_switchIn, heq]
    rfl

/-! ## The four instructions (R299) -/

/-- The operand fields of a texture instruction. -/
def texInfo (a b : BitVec 7) (m n : Nat) (cross : Bool) : OpInfo :=
  { uses := [(1, 0x7A, .lqFour), (2, a, .group m n), (3, b, .group 1 1)], cross := cross }

theorem learnPops_texInfo {w : Word} {a b : BitVec 7} {m n : Nat} {cross : Bool} {s : State} {x : Ctx}
    (h : Issues w (texInfo a b m n cross) s x) : learnPops (texInfo a b m n cross) x s = s :=
  learnPops_of_groups h (by simp [texInfo, Use.reads])

theorem textureBody_sample {f : TexForm} {x : Ctx} {s u : State} {a b : BitVec 7} {ds : List (Nat × BitVec 512)}
    {vals : List (Nat × List Word)} (hf : f ≠ .query) (h : Samples f x s u a b ds vals) :
    ∃ l, textureBody f a b x s = .ok (launchTexels x l u) ∧ l.map (fun r => r.lane) = lanesOf x.act ∧
      (∀ r ∈ l, r.vals.length = 4) ∧ l.map (fun r => (r.lane, r.vals)) = vals := by
  obtain ⟨v, rs, t, done, hds, hrs, hdone, hvals⟩ := h.read
  obtain ⟨hlanes, hfour⟩ := lanes_readTexels hdone
  have hne : lanesOf x.act ≠ [] := fun e => h.active ((lanesOf_eq_nil _).mp e)
  have hvalid : ds.find? (fun d => !texValid d.2) = none :=
    List.find?_eq_none.mpr fun d hd => by simp [h.valid d hd]
  refine ⟨done, ?_, ?_, hfour, hvals⟩
  · unfold textureBody
    dsimp only
    rw [if_neg hne, hds]
    simp only [Got.andThen, hvalid, if_neg hf, hrs, hdone, Eff.held]
  · have hreqs := congrArg (List.map TexReq.lane) (lanes_reachTexels hrs)
    rw [List.map_map, List.map_map] at hreqs
    rw [hlanes, ← lanes_readDescriptors hds]
    exact hreqs

theorem textureBody_query {x : Ctx} {s v : State} {a b : BitVec 7} {ds : List (Nat × BitVec 512)} (ha : x.act ≠ 0)
    (hds : readDescriptors x b (lanesOf x.act) s = .val ds v) (hvalid : ∀ e ∈ ds, texValid e.2 = true) :
    textureBody .query a b x s = .ok (launchTexels x
      (ds.map (fun d => { lane := d.1, vals := texQuery d.2 (texReg x a 0 d.1), rel := none })) v) := by
  have hne : lanesOf x.act ≠ [] := fun e => ha ((lanesOf_eq_nil _).mp e)
  have hfind : ds.find? (fun d => !texValid d.2) = none :=
    List.find?_eq_none.mpr fun d hd => by simp [hvalid d hd]
  unfold textureBody
  dsimp only
  rw [if_neg hne, hds]
  simp only [Got.andThen, hfind, if_true, Eff.held]

theorem texReg_zero (x : Ctx) (a : BitVec 7) (l : Nat) : texReg x a 0 l = (src1 x a l).toNat := by
  simp [texReg]

theorem texQuery_length (e : BitVec 512) (j : Nat) : (texQuery e j).length = 4 := by
  unfold texQuery
  split <;> rfl

theorem texture_eq (fn : BitVec 3) (f : TexForm) (m n : Nat) (a b : BitVec 7) (s : State) : texture fn f m n a b s =
    issue (packReg 0x48 0x78 a b 0 fn) (texInfo a b m n (f == .sample)) (textureBody f a b) s := rfl

/-- TEXS, TEXL and TEXG: the samples read are on their way. -/
theorem texture_samples {fn : BitVec 3} {f : TexForm} {n : Nat} {a b : BitVec 7} {s u : State} {x : Ctx}
    {ds : List (Nat × BitVec 512)} {vals : List (Nat × List Word)}
    (h : Issues (packReg 0x48 0x78 a b 0 fn) (texInfo a b 4 n (f == .sample)) s x) (hs : Samples f x s u a b ds vals)
    (hf : f ≠ .query) :
    ∃ t, texture fn f 4 n a b s = .next t ∧
      (∃ c, t.consist? x.key = some c ∧ TexSent (texInfo a b 4 n (f == .sample)) x vals c) ∧ ∀ j, t.byte j = u.byte j := by
  obtain ⟨l, hbody, hlanes, hfour, hvals⟩ := textureBody_sample hf hs
  rw [← hvals, texture_eq]
  exact issue_launchTexels h rfl (by rw [learnPops_texInfo h, hbody]) hs.same hlanes hfour

/-- TEXQ: the sizes of the levels asked for are on their way. -/
theorem texture_query {a b : BitVec 7} {s v : State} {x : Ctx} {ds : List (Nat × BitVec 512)}
    (h : Issues (packReg 0x48 0x78 a b 0 3) (texInfo a b 1 1 false) s x) (ha : x.act ≠ 0)
    (hds : readDescriptors x b (lanesOf x.act) s = .val ds v) (hv : v.consist? x.key = some x.c)
    (hvalid : ∀ e ∈ ds, texValid e.2 = true) :
    ∃ t, texture 3 .query 1 1 a b s = .next t ∧
      (∃ c, t.consist? x.key = some c ∧ TexSent (texInfo a b 1 1 false) x
        (ds.map (fun e => (e.1, texQuery e.2 (src1 x a e.1).toNat))) c) ∧ ∀ j, t.byte j = v.byte j := by
  have hlaunch := issue_launchTexels (body := textureBody .query a b) h rfl
    (by rw [learnPops_texInfo h, textureBody_query ha hds hvalid]) hv
    (by rw [List.map_map, ← lanes_readDescriptors hds]; rfl)
    (List.forall_mem_map.mpr fun d _ => texQuery_length ..)
  rw [texture_eq, show (TexForm.query == TexForm.sample) = false from rfl]
  simpa only [List.map_map, Function.comp_def, texReg_zero] using hlaunch

/-- Settles O40: the requests leave for the active lanes, one result each, and nothing else of the consist moves. -/
theorem textureRequestsLeave : Obligations.TextureRequestsLeave := by
  intro s x a b
  dsimp only
  refine ⟨fun r hr h u ds vals hs => ?_, fun h v ds ha hds hv hvalid => ?_⟩
  · simp only [List.mem_cons, List.not_mem_nil, or_false] at hr
    obtain rfl | rfl | rfl := hr
    all_goals
      obtain ⟨t, ht, ⟨c, hc, hsent⟩, hbytes⟩ := texture_samples h hs nofun
      exact ⟨t, ht, ⟨c, c.texRels, hc, hsent⟩, hbytes⟩
  · obtain ⟨t, ht, ⟨c, hc, hsent⟩, hbytes⟩ := texture_query h ha hds hv hvalid
    exact ⟨t, ht, hbytes, c, c.texRels, hc, hsent⟩

end Sys2Proof.Machine

/-! A halted core's convoy that its table lists twice, first as no convoy (R286): the context swap cannot park it. -/

namespace Sys2Proof.Machine

open Sys2Proof

/-- Core 0 has halted, and the table of convoys lists key 1 twice: as no convoy, and then as one on that core, whose session
the core has not. -/
def listedTwice : State :=
  { State.reset with convoys := [(1, none), (1, some default)], cores := [(0, { (default : Core) with halting := true })],
                     dies := [] }

theorem sound_listedTwice : listedTwice.sound :=
  ⟨rfl, fun _ => show (default : Die).injCtl.getLsbD 0 = false by decide +kernel⟩

/-- The core's convoys are what the table lists with it, and the one is of a session that the core has not. -/
theorem convoysOn_listedTwice : listedTwice.convoysOn 0 = [(1, default)] ∧ listedTwice.coreSession 0 = none := by
  decide +kernel

theorem swappable_listedTwice : listedTwice.swappable 1 default = true := by decide +kernel

/-- The convoy that a step's next state holds under a key. -/
def convoyAfter (o : Out) (k : Nat) : Option Convoy :=
  match o with
  | .next t => t.convoy? k
  | _ => none

/-- The swap looks the convoy up by its key, finds none, and leaves it as it is. -/
theorem contextSwap_listedTwice : convoyAfter (exec (.contextSwap 0) listedTwice) 1 = none := by
  decide +kernel

/-- Refutes O48: the clause of CONTEXT_SWAP takes the convoys of a halted core from the entries of their table, and looks
them up by key after the swap. No premise says that the table lists a key once. In `listedTwice` the entry that a look-up
finds is no convoy, so the second entry's is never parked. -/
theorem not_dispatchEventsTakeEffect : ¬ Obligations.DispatchEventsTakeEffect := by
  intro h
  obtain ⟨-, -, -, -, -, hswap, -⟩ := h listedTwice
  obtain ⟨hon, hsession⟩ := convoysOn_listedTwice
  obtain ⟨t, ht, -, hparked⟩ := hswap 0 sound_listedTwice (by decide +kernel) (by
    rw [hon]
    intro k v hkv
    obtain ⟨rfl, rfl⟩ := Prod.ext_iff.mp (List.mem_singleton.mp hkv)
    exact ⟨swappable_listedTwice, fun j hj => absurd hj List.not_mem_nil⟩)
  obtain ⟨y, hy, -⟩ := hparked 1 default (hon ▸ List.mem_singleton_self _) (hsession ▸ nofun)
  have hgone := contextSwap_listedTwice
  rw [ht] at hgone
  exact absurd (hy.symm.trans hgone) nofun

end Sys2Proof.Machine

/-! Floating-point instructions: each retires one result with its flags for every active lane, or takes FPX (R128, R129,
R157 to R170). -/

namespace Sys2Proof.Machine

open Sys2Proof

/-! ## Flags (R128, R129) -/

section Flags

variable {x : Ctx} {fl : Nat → Flags} {go : Ctx → State → Eff} {s : State}

/-- No enabled exception: the flags of all active lanes go into CSW, and the instruction goes on. -/
theorem raiseFlags_quiet (h : ∀ l ∈ lanesOf x.act, fl l &&& enabled x = 0) :
    raiseFlags x fl go s = go (x.withCsw (withFlags x.c.csw (allFlags x fl))) s := by
  have hnone : (lanesOf x.act).filter (fun l => fl l &&& enabled x != 0) = [] :=
    List.filter_eq_nil_iff.mpr fun l hl => by simp [h l hl]
  unfold enabled at hnone
  unfold raiseFlags
  dsimp only
  rw [hnone]
  rfl

/-- An enabled exception: FPX, with the lanes that raise one, the flags of all and the flags of the lowest. -/
theorem raiseFlags_raised {first : Nat} (hmem : first ∈ lanesOf x.act) (hraise : fl first &&& enabled x ≠ 0)
    (hlow : ∀ l ∈ lanesOf x.act, l < first → fl l &&& enabled x = 0) :
    raiseFlags x fl go s = .trap .fpx (fpxValue (maskWhere (fun l => x.act.getLsbD l && fl l &&& enabled x != 0))
      (allFlags x fl) (fl first)) := by
  have hhead : ((lanesOf x.act).filter (fun l => fl l &&& enabled x != 0)).head? = some first := by
    rw [List.head?_filter, find?_lanesOf hmem (by simpa using hraise) (fun l hl hlt => by simp [hlow l hl hlt])]
  obtain ⟨ls, hls⟩ := List.head?_eq_some_iff.mp hhead
  have hmask : maskWhere (fun j => (first :: ls).contains j) =
      maskWhere (fun l => x.act.getLsbD l && fl l &&& enabled x != 0) := by
    apply BitVec.eq_of_getLsbD_eq
    intro l hl
    rw [getLsbD_maskWhere _ l hl, getLsbD_maskWhere _ l hl, ← hls, Bool.eq_iff_iff]
    simp [mem_lanesOf, hl]
  unfold enabled at hls hmask
  unfold raiseFlags
  dsimp only
  rw [hls]
  dsimp only
  rw [hmask]
  rfl

end Flags

/-! ## Forms that retire an IEEE result (R124, R130, R151, R157 to R170) -/

/-- The word of an instruction issues a body that retires `value`, its flags first. -/
def RetiresFloat (x : Ctx) (d : BitVec 7) (w : BitVec 1) (i : Instr) (o : OpInfo) (wide late : Bool) (value : Nat → FRes) :
    Prop :=
  ∃ u body, encode i = some u ∧ (∀ s, exec i s = issue u o body s) ∧
    (∀ s, body x s = retireFloat x d wide late (w == 1) value s) ∧ o.transfer = false ∧ o.hint = false

/-- A form whose word does that. -/
def FloatForm.Retires (x : Ctx) (d : BitVec 7) (w : BitVec 1) (e : FloatForm) : Prop :=
  RetiresFloat x d w e.instr e.info e.wide e.late e.value

section Forms

variable {x : Ctx} {d a b : BitVec 7} {c : BitVec 3} {w : BitVec 1} {imm : BitVec 10} {e : FloatForm} {i : Instr}
  {maj : BitVec 7} {fn : BitVec 3} {wide wideA late : Bool} {m : Fmt}

/-- An instruction retires a value when its meaning issues a body that does. -/
theorem RetiresFloat.of_exec {o : OpInfo} {value : Nat → FRes} {u : Word} (ex : State → Out) (hexec : ∀ s, exec i s = ex s)
    (hu : encode i = some u) (hbody : ∃ body, (∀ s, ex s = issue u o body s) ∧
      ∀ s, body x s = retireFloat x d wide late (w == 1) value s)
    (htransfer : o.transfer = false) (hhint : o.hint = false) : RetiresFloat x d w i o wide late value := by
  obtain ⟨body, hissue, hvalue⟩ := hbody
  exact ⟨u, body, hu, fun s => (hexec s).trans (hissue s), hvalue, htransfer, hhint⟩

/-- A two-source form retires its IEEE result with CSW.RAT = 0 (R155, R157). -/
theorem retires_farith2 {f : Fmt → RoundCtl → Num → Num → FRes} {q : Bool → Nat → RNum → RNum → RNum}
    (hexec : ∀ s, exec i s = farith2 maj fn wide late f q d a b w s) (hu : encode i = some (packReg maj d a b w fn))
    (hrat : ¬ x.c.rat = true) :
    RetiresFloat x d w i (infoF3 wide d a b) wide late (fun l => f (fmtOf wide) (roundCtl x)
      ((fmtOf wide).read (roundCtl x).flush (fsrcA x wide a l)) ((fmtOf wide).read (roundCtl x).flush (fsrcB x wide a b l))) :=
  ⟨_, _, hu, hexec, fun _ => if_neg hrat, rfl, rfl⟩

/-- So does a fused form (R159). -/
theorem retires_ffused {sub : Bool} (hexec : ∀ s, exec i s = ffused maj wide sub d a b c w s)
    (hu : encode i = some (packAcc maj d a b c w)) (hrat : ¬ x.c.rat = true) :
    RetiresFloat x d w i (infoAcc wide d a b c) wide false (fun l =>
      let k := roundCtl x
      let rd := (fmtOf wide).read k.flush
      let z := rd (fsrcC x wide a b (addendCode d c) l)
      finish (fmtOf wide) k (fmaNum (k.mode == 3) (rd (fsrcA x wide a l)) (rd (fsrcB x wide a b l)) (if sub then z.flip else z))) :=
  ⟨_, _, hu, hexec, fun _ => if_neg hrat, rfl, rfl⟩

/-- So does FMIN or FMAX (R158). -/
theorem retires_fpick {greater : Bool} (hexec : ∀ s, exec i s = fpick fn greater d a b w s)
    (hu : encode i = some (packReg 0x18 d a b w fn)) (hrat : ¬ x.c.rat = true) :
    RetiresFloat x d w i (infoF3 false d a b) false false
      (fun l => pickBits .f32 (flushOn x) greater (fsrcA x false a l) (fsrcB x false a b l)) :=
  ⟨_, _, hu, hexec, fun _ => if_neg hrat, rfl, rfl⟩

/-- So does a one-source form of major 0x1E (R162, R163). -/
theorem retires_fone {f : Bool → Nat → FRes} {q : RNum → RNum} (hexec : ∀ s, exec i s = fone fn f q d a w s)
    (hu : encode i = some (packReg 0x1E d a 0x78 w fn)) (hrat : ¬ x.c.rat = true) :
    RetiresFloat x d w i (infoF2 d a) false false (fun l => f (flushOn x) (fsrcA x false a l)) :=
  ⟨_, _, hu, hexec, fun _ => if_neg hrat, rfl, rfl⟩

/-- A rounding form is one (R162). -/
theorem retires_frnd {mode : Nat} (hexec : ∀ s, exec i s = frnd fn mode d a w s)
    (hu : encode i = some (packReg 0x1E d a 0x78 w fn)) (hrat : ¬ x.c.rat = true) :
    RetiresFloat x d w i (infoF2 d a) false false (fun l =>
      let n := Fmt.f32.read (flushOn x) (fsrcA x false a l)
      finish .f32 plainRN (integral mode n, signalling [n])) :=
  retires_fone (f := fun flush v => finish .f32 plainRN (integral mode (Fmt.f32.read flush v), signalling [Fmt.f32.read flush v]))
    hexec hu hrat

/-- The forms that have a rational reading too (R155). -/
theorem retires_floatForms (hrat : ¬ x.c.rat = true) : ∀ e ∈ floatForms x d a b c w imm, e.Retires x d w := by
  simp only [floatForms, List.forall_mem_cons, FloatForm.Retires]
  refine ⟨?fadd, ?fsub, ?fmul, ?fdiv, ?fmin, ?fmax, ?ffma, ?ffms, ?faddi, ?frndn, ?frndz, ?frndu, ?frndd, ?ffrac, ?dadd,
    ?dsub, ?dmul, ?ddiv, ?dsqrt, ?dfma, List.forall_mem_nil _⟩
  case fadd => exact retires_farith2 (f := ieeeAdd) (fun _ => exec_fadd) rfl hrat
  case fsub => exact retires_farith2 (f := ieeeSub) (fun _ => exec_fsub) rfl hrat
  case fmul => exact retires_farith2 (f := ieeeMul) (fun _ => exec_fmul) rfl hrat
  case fdiv => exact retires_farith2 (f := divRound) (fun _ => exec_fdiv) rfl hrat
  case fmin => exact retires_fpick (fun _ => exec_fmin) rfl hrat
  case fmax => exact retires_fpick (fun _ => exec_fmax) rfl hrat
  case ffma => exact retires_ffused (sub := false) (fun _ => exec_ffma) rfl hrat
  case ffms => exact retires_ffused (sub := true) (fun _ => exec_ffms) rfl hrat
  case faddi => exact .of_exec (execFaddi d a w imm) (fun _ => exec_faddi) rfl ⟨_, fun _ => rfl, fun _ => if_neg hrat⟩ rfl rfl
  case frndn => exact retires_frnd (fun _ => exec_frndn) rfl hrat
  case frndz => exact retires_frnd (fun _ => exec_frndz) rfl hrat
  case frndu => exact retires_frnd (fun _ => exec_frndu) rfl hrat
  case frndd => exact retires_frnd (fun _ => exec_frndd) rfl hrat
  case ffrac => exact retires_fone (f := fun flush v => fracNum flush (Fmt.f32.read flush v)) (fun _ => exec_ffrac) rfl hrat
  case dadd => exact retires_farith2 (f := ieeeAdd) (fun _ => exec_dadd) rfl hrat
  case dsub => exact retires_farith2 (f := ieeeSub) (fun _ => exec_dsub) rfl hrat
  case dmul => exact retires_farith2 (f := ieeeMul) (fun _ => exec_dmul) rfl hrat
  case ddiv => exact retires_farith2 (f := divRound) (fun _ => exec_ddiv) rfl hrat
  case dsqrt => exact .of_exec (execDsqrt d a w) (fun _ => exec_dsqrt) rfl ⟨_, fun _ => rfl, fun _ => if_neg hrat⟩ rfl rfl
  case dfma => exact retires_ffused (sub := false) (fun _ => exec_dfma) rfl hrat

/-- A packed two-source form (R165). -/
theorem retires_packed2 {f : Fmt → RoundCtl → Num → Num → FRes} (hexec : ∀ s, exec i s = packed2 fn m f d a b w s)
    (hu : encode i = some (packReg 0x1F d a b w fn)) :
    RetiresFloat x d w i (infoF3 false d a b) false false (fun l => joinHalves (fun j => f m (roundCtl x)
      (m.read (roundCtl x).flush (half (packedSrc x [] a (negA x) l) j))
      (m.read (roundCtl x).flush (half (packedSrc x [(a, false)] b (negB x) l) j)))) :=
  ⟨_, _, hu, hexec, fun _ => rfl, rfl, rfl⟩

/-- A conversion (R169). -/
theorem retires_convert {f : RoundCtl → Nat → FRes} (hexec : ∀ s, exec i s = convert fn wide wideA f d a w s)
    (hu : encode i = some (packReg 0x26 d a 0x78 w fn)) :
    RetiresFloat x d w i { uses := [(1, d, .dst wide false true), (2, a, .src wideA true)] } wide false
      (fun l => f (roundCtl x) (convSrc x wideA a l)) :=
  ⟨_, _, hu, hexec, fun _ => rfl, rfl, rfl⟩

/-- The packed forms and the conversions, whatever CSW.RAT holds. -/
theorem retires_convertForms : ∀ e ∈ convertForms x d a b c w, e.Retires x d w := by
  simp only [convertForms, List.forall_mem_cons, FloatForm.Retires]
  refine ⟨?hadd2, ?hmul2, ?badd2, ?bmul2, ?hfma2, ?bfma2, ?itof, ?utof, ?ftoi, ?ftou, ?ftod, ?dtof, ?itod, ?dtoi, ?ftoh2,
    ?ftob2, ?htofl, ?htofh, ?btofl, ?btofh, List.forall_mem_nil _⟩
  case hadd2 => exact retires_packed2 (f := ieeeAdd) (fun _ => exec_hadd2) rfl
  case hmul2 => exact retires_packed2 (f := ieeeMul) (fun _ => exec_hmul2) rfl
  case badd2 => exact retires_packed2 (f := ieeeAdd) (fun _ => exec_badd2) rfl
  case bmul2 => exact retires_packed2 (f := ieeeMul) (fun _ => exec_bmul2) rfl
  case hfma2 => exact .of_exec (packedFma 0x20 .f16 d a b c w) (fun _ => exec_hfma2) rfl ⟨_, fun _ => rfl, fun _ => rfl⟩ rfl rfl
  case bfma2 => exact .of_exec (packedFma 0x21 .bf16 d a b c w) (fun _ => exec_bfma2) rfl ⟨_, fun _ => rfl, fun _ => rfl⟩ rfl rfl
  case itof =>
    exact retires_convert (f := fun k v => roundNum .f32 k (intNum (BitVec.ofNat 32 v).toInt))
      (fun _ => exec_itof) rfl
  case utof =>
    exact retires_convert (f := fun k v => roundNum .f32 k (intNum v))
      (fun _ => exec_utof) rfl
  case ftoi =>
    exact retires_convert (f := fun k v => toIntRange k.mode (-2 ^ 31) (2 ^ 31 - 1) (Fmt.f32.read k.flush v))
      (fun _ => exec_ftoi) rfl
  case ftou =>
    exact retires_convert (f := fun k v => toIntRange k.mode 0 (2 ^ 32 - 1) (Fmt.f32.read k.flush v))
      (fun _ => exec_ftou) rfl
  case ftod =>
    exact retires_convert (f := fun k v => reformat .f64 plainRN (Fmt.f32.read k.flush v))
      (fun _ => exec_ftod) rfl
  case dtof =>
    exact retires_convert (f := fun k v => reformat .f32 k (Fmt.f64.read k.flush v))
      (fun _ => exec_dtof) rfl
  case itod =>
    exact retires_convert (f := fun _ v => roundNum .f64 plainRN (intNum (BitVec.ofNat 32 v).toInt))
      (fun _ => exec_itod) rfl
  case dtoi =>
    exact retires_convert (f := fun k v => toIntRange k.mode (-2 ^ 31) (2 ^ 31 - 1) (Fmt.f64.read k.flush v))
      (fun _ => exec_dtoi) rfl
  case ftoh2 => exact .of_exec (packHalves 0 .f16 d a b w) (fun _ => exec_ftoh2) rfl ⟨_, fun _ => rfl, fun _ => rfl⟩ rfl rfl
  case ftob2 => exact .of_exec (packHalves 3 .bf16 d a b w) (fun _ => exec_ftob2) rfl ⟨_, fun _ => rfl, fun _ => rfl⟩ rfl rfl
  case htofl => exact .of_exec (widenHalf 1 .f16 0 d a w) (fun _ => exec_htofl) rfl ⟨_, fun _ => rfl, fun _ => rfl⟩ rfl rfl
  case htofh => exact .of_exec (widenHalf 2 .f16 1 d a w) (fun _ => exec_htofh) rfl ⟨_, fun _ => rfl, fun _ => rfl⟩ rfl rfl
  case btofl => exact .of_exec (widenHalf 4 .bf16 0 d a w) (fun _ => exec_btofl) rfl ⟨_, fun _ => rfl, fun _ => rfl⟩ rfl rfl
  case btofh => exact .of_exec (widenHalf 5 .bf16 1 d a w) (fun _ => exec_btofh) rfl ⟨_, fun _ => rfl, fun _ => rfl⟩ rfl rfl

/-- The cross-lane forms, whatever CSW.RAT holds. -/
theorem retires_treeForms : ∀ e ∈ treeForms x d a w, e.Retires x d w := by
  simp only [treeForms, List.forall_mem_cons, FloatForm.Retires]
  refine ⟨?rdfadd, ?rdfmax, ?scfadd, List.forall_mem_nil _⟩
  case rdfadd => exact .of_exec (execRdfadd d a w) (fun _ => exec_rdfadd) rfl ⟨_, fun _ => rfl, fun _ => rfl⟩ rfl rfl
  case rdfmax => exact .of_exec (execRdfmax d a w) (fun _ => exec_rdfmax) rfl ⟨_, fun _ => rfl, fun _ => rfl⟩ rfl rfl
  case scfadd => exact .of_exec (execScfadd d a w) (fun _ => exec_scfadd) rfl ⟨_, fun _ => rfl, fun _ => rfl⟩ rfl rfl

theorem retires_allFloatForms (he : e ∈ allFloatForms x d a b c w imm) : e.Retires x d w := by
  rcases List.mem_append.mp he with he | he
  · rcases List.mem_append.mp he with he | he
    · split at he
      · cases he
      next hrat => exact retires_floatForms hrat e he
    · exact retires_convertForms e he
  · exact retires_treeForms e he

end Forms

/-- Settles O17: a form's value is retired with the flags of all active lanes. -/
theorem floatingPointResults : Obligations.FloatingPointResults := by
  intro s x d a b c w imm e he u hu h hquiet
  obtain ⟨u', body, hu', hexec, hbody, htransfer, -⟩ := retires_allFloatForms he
  obtain rfl := Option.some.inj (hu'.symm.trans hu)
  rw [hexec, issue_of_issues h, hbody, retireFloat, raiseFlags_quiet hquiet]
  refine ⟨_, rfl, ?_⟩
  unfold Delivered
  cases e.late
  case true => exact sent_of_launchResult h htransfer
  case false => exact wrote_of_writeLanes h htransfer rfl

/-- Settles O18: FPX is taken before anything is written. -/
theorem enabledExceptionsTrap : Obligations.EnabledExceptionsTrap := by
  intro s x d a b c w imm first e he u hu h hmem hraise hlow
  obtain ⟨u', body, hu', hexec, hbody, -, hhint⟩ := retires_allFloatForms he
  obtain rfl := Option.some.inj (hu'.symm.trans hu)
  rw [hexec, issue_trap h ((hbody _).trans (raiseFlags_raised hmem hraise hlow)), hhint]
  rfl

end Sys2Proof.Machine

/-! Extractions and packs of narrow elements (R117 to R119, R122, R126, R171 to R173). -/

namespace Sys2Proof.Machine

open Sys2Proof

/-! ## Element codes (R117, R118, R126) -/

/-- A number with the `n` bits from bit `k` on replaced by those of `c`. -/
theorem testBit_replaceBits {word k n c : Nat} (hc : c < 2 ^ n) (t : Nat) :
    (word - word / 2 ^ k % 2 ^ n * 2 ^ k + c * 2 ^ k).testBit t =
      if k ≤ t ∧ t < k + n then c.testBit (t - k) else word.testBit t := by
  have hsplit : word - word / 2 ^ k % 2 ^ n * 2 ^ k + c * 2 ^ k =
      2 ^ k * (2 ^ n * (word / 2 ^ k / 2 ^ n) + c) + word % 2 ^ k := by
    have h1 := Nat.div_add_mod word (2 ^ k)
    have h2 := Nat.div_add_mod (word / 2 ^ k) (2 ^ n)
    have h3 : 2 ^ k * (word / 2 ^ k) =
        2 ^ k * (2 ^ n * (word / 2 ^ k / 2 ^ n)) + word / 2 ^ k % 2 ^ n * 2 ^ k := by
      rw [Nat.mul_comm (word / 2 ^ k % 2 ^ n), ← Nat.mul_add, h2]
    rw [Nat.mul_add, Nat.mul_comm c]
    omega
  rw [hsplit, Nat.testBit_two_pow_mul_add _ (Nat.mod_lt _ (Nat.two_pow_pos k))]
  by_cases hk : t < k
  · rw [if_pos hk, if_neg (by omega), Nat.testBit_mod_two_pow, decide_eq_true hk, Bool.true_and]
  · rw [if_neg hk, Nat.testBit_two_pow_mul_add _ hc]
    by_cases hn : t - k < n
    · rw [if_pos hn, if_pos (by omega)]
    · rw [if_neg hn, if_neg (by omega), Nat.testBit_div_two_pow, Nat.testBit_div_two_pow]
      congr 1
      omega

theorem width_mul_count_le (f : Elem) : f.width * f.count ≤ 128 := by cases f <;> decide

section Elements

variable {f : Elem} {word i j code : Nat}

/-- An element in the word ends where the next begins. -/
theorem width_mul_lt (h : i < j) : f.width * i + f.width ≤ f.width * j := Nat.mul_le_mul_left f.width h

theorem width_mul_add_le (hi : i < f.count) : f.width * i + f.width ≤ 128 :=
  (width_mul_lt hi).trans (width_mul_count_le f)

/-- The word whose element is replaced: spare bits of a 6-bit word are 0 (R172). -/
theorem testBit_insert (hc : code < 2 ^ f.width) (t : Nat) : (f.insert word i code).testBit t =
    if f.width * i ≤ t ∧ t < f.width * i + f.width then code.testBit (t - f.width * i)
    else (if f.six then word % 2 ^ 126 else word).testBit t := testBit_replaceBits hc t

/-- No element of a 6-bit word has a spare bit. -/
theorem testBit_spare {t : Nat} (ht : t < f.width * f.count) :
    (if f.six then word % 2 ^ 126 else word).testBit t = word.testBit t := by
  cases f
  case e6a | e6b =>
    have ht' : t < 126 := ht
    change (word % 2 ^ 126).testBit t = _
    rw [Nat.testBit_mod_two_pow, decide_eq_true ht', Bool.true_and]
  all_goals rfl

/-- The element replaced holds the code, and every other element is as it was. -/
theorem code_insert (hc : code < 2 ^ f.width) (hj : j < f.count) :
    f.code (f.insert word i code) j = if j = i then code else f.code word j := by
  apply Nat.eq_of_testBit_eq
  intro t
  unfold Elem.code
  rw [Nat.testBit_mod_two_pow, Nat.testBit_div_two_pow, testBit_insert hc]
  by_cases ht : t < f.width
  · rw [decide_eq_true ht, Bool.true_and]
    by_cases hji : j = i
    · subst hji
      rw [if_pos rfl, if_pos (by omega), Nat.add_sub_cancel]
    · have hoff : ¬ (f.width * i ≤ t + f.width * j ∧ t + f.width * j < f.width * i + f.width) := by
        rcases Nat.lt_or_gt_of_ne hji with h | h
        · have := width_mul_lt (f := f) h; omega
        · have := width_mul_lt (f := f) h; omega
      have hin : t + f.width * j < f.width * f.count := by
        have := width_mul_lt (f := f) hj; omega
      rw [if_neg hji, if_neg hoff, testBit_spare hin, Nat.testBit_mod_two_pow, Nat.testBit_div_two_pow,
        decide_eq_true ht, Bool.true_and]
  · rw [decide_eq_false ht, Bool.false_and]
    split
    · rw [Nat.testBit_lt_two_pow (hc.trans_le (Nat.pow_le_pow_right (by decide) (Nat.le_of_not_lt ht)))]
    · rw [Nat.testBit_mod_two_pow, decide_eq_false ht, Bool.false_and]

theorem insert_lt (hc : code < 2 ^ f.width) (hw : word < 2 ^ 128) (hi : i < f.count) :
    f.insert word i code < 2 ^ 128 := by
  apply Nat.lt_pow_two_of_testBit
  intro t ht
  have hend := width_mul_add_le hi
  rw [testBit_insert hc, if_neg (by omega)]
  have hbit : word.testBit t = false :=
    Nat.testBit_lt_two_pow (hw.trans_le (Nat.pow_le_pow_right (by decide) ht))
  split
  · rw [Nat.testBit_mod_two_pow, hbit, Bool.and_false]
  · exact hbit

end Elements

/-! ## Rounding to a code (R126) -/

theorem ite_fst_lt {p : Prop} [Decidable p] {β : Type} {a b : Nat × β} {n : Nat} (ha : p → a.1 < n) (hb : ¬ p → b.1 < n) :
    (if p then a else b).1 < n := by
  split
  · exact ha ‹_›
  · exact hb ‹_›

theorem signed_lt {m : Fmt} {neg : Bool} {mag : Nat} (h : mag < 2 ^ (m.ebits + m.fbits)) :
    m.signed neg mag < 2 ^ m.width := by
  have hw : m.width = m.ebits + m.fbits + 1 := by unfold Fmt.width; omega
  unfold Fmt.signed
  rw [hw, Nat.pow_succ]
  split <;> omega

/-- Rounding to a format without codes for ∞ and NaN gives a magnitude of its exponent and fraction bits. -/
theorem roundReal_lt {m : Fmt} {mode : Nat} {neg : Bool} {y : Exact} (hm : m.special = false) :
    (roundReal m { mode := mode, flush := false, sat := 0 } neg y).1 < 2 ^ m.width := by
  have hmax : m.maxMag < 2 ^ (m.ebits + m.fbits) := by
    have := Nat.two_pow_pos (m.ebits + m.fbits)
    unfold Fmt.maxMag
    simp only [hm, Bool.false_eq_true, if_false]
    omega
  unfold roundReal
  dsimp only
  simp only [hm, Bool.not_false, Bool.true_or, if_true, Bool.false_and, Bool.false_eq_true, if_false,
    OfNat.zero_ne_ofNat]
  refine ite_fst_lt (fun _ => signed_lt hmax) (fun hle => signed_lt ?_)
  exact Nat.lt_of_le_of_lt (Nat.le_of_not_lt hle) hmax

theorem roundNarrow_lt {m : Fmt} {mode : Nat} {n : Num} (hm : m.special = false) :
    (roundNarrow m mode n).1 < 2 ^ m.width := by
  have hpos := Nat.two_pow_pos (m.ebits + m.fbits)
  cases n with
  | nan q => exact Nat.two_pow_pos _
  | inf neg =>
    refine signed_lt ?_
    unfold Fmt.maxMag
    simp only [hm, Bool.false_eq_true, if_false]
    omega
  | fin neg k e =>
    simp only [roundNarrow, roundNum]
    split
    · exact signed_lt hpos
    · exact roundReal_lt hm

theorem roundIntCode_lt {mode : Nat} {lo hi : Int} {width : Nat} {n : Num} :
    (roundIntCode mode lo hi width n).1 < 2 ^ width := by
  unfold roundIntCode
  cases n with
  | nan q => exact Nat.two_pow_pos _
  | inf neg => exact BitVec.isLt _
  | fin neg k e =>
    exact ite_fst_lt (fun _ => BitVec.isLt _) (fun _ => ite_fst_lt (fun _ => BitVec.isLt _) (fun _ => BitVec.isLt _))

/-- A converted number is a code of the format's width. -/
theorem round_lt (f : Elem) (mode : Nat) (n : Num) : (f.round mode n).1 < 2 ^ f.width := by
  cases f
  case i8 | i4o => exact roundIntCode_lt
  all_goals exact roundNarrow_lt rfl

/-! ## Indices (R173) -/

theorem badIndex_eq_zero {x : Ctx} {f : Elem} {ix : Nat → Nat} (h : ∀ l ∈ lanesOf x.act, ix l < f.count) :
    badIndex x f ix = 0 := by
  apply BitVec.eq_of_getLsbD_eq
  intro l hl
  rw [badIndex, getLsbD_maskWhere _ l hl]
  by_cases ha : x.act.getLsbD l = true
  · simpa [ha] using h l ((mem_lanesOf _ _).mpr ⟨hl, ha⟩)
  · simp [ha]

theorem badIndex_ne_zero {x : Ctx} {f : Elem} {ix : Nat → Nat} (h : ∃ l ∈ lanesOf x.act, f.count ≤ ix l) :
    badIndex x f ix ≠ 0 := by
  obtain ⟨l, hl, hix⟩ := h
  obtain ⟨hlt, ha⟩ := (mem_lanesOf _ _).mp hl
  intro hzero
  have hbit := congrArg (BitVec.getLsbD · l) hzero
  simp [badIndex, getLsbD_maskWhere _ l hlt, ha, hix] at hbit

/-! ## Extractions (R171) -/

/-- Operand fields of an extraction. -/
abbrev extractFields (d a b : BitVec 7) : OpInfo :=
  { uses := [(1, d, .dst false false true), (2, a, .quad), (3, b, .src false true)] }

section Extract

variable {fn : BitVec 3} {f : Elem} {d a b : BitVec 7} {w : BitVec 1} {s : State} {x : Ctx}
  (h : Issues (packReg 0x28 d a b w fn) (extractFields d a b) s x)
include h

/-- Is a spare bit set in the word of an active lane (R119)? -/
def spareSet (f : Elem) (x : Ctx) (a : BitVec 7) : Bool :=
  f.six && (lanesOf x.act).any (fun l => decide (2 ^ 126 ≤ quadOf128 x.c a l))

/-- Does an active lane name a misplaced outlier mark (R122)? -/
def marksOutlier (f : Elem) (x : Ctx) (a b : BitVec 7) : Bool :=
  (lanesOf x.act).any (fun l => (f.value (quadOf128 x.c a l) (src1 x b l).toNat).2)

theorem extract_completes (hix : ∀ l ∈ lanesOf x.act, (src1 x b l).toNat < f.count) (hspare : spareSet f x a = false) :
    ∃ t, extract fn f d a b w s = .next t ∧ Wrote (extractFields d a b) x d false (w == 1)
      (fun l => BitVec.ofNat 64 (roundNum .f32 plainRN (f.value (quadOf128 x.c a l) (src1 x b l).toNat).1).1)
      (if marksOutlier f x a b then x.c.csw ||| 0x200000 else x.c.csw) s t := by
  rw [extract, issue_of_issues h]
  dsimp only
  rw [if_neg (not_not_intro (badIndex_eq_zero hix)), show (f.six && _) = _ from hspare, if_neg Bool.false_ne_true]
  refine ⟨_, rfl, wrote_of_writeLanes h rfl ?_⟩
  unfold marksOutlier
  split <;> rfl

theorem extract_bounds (hix : ∃ l ∈ lanesOf x.act, f.count ≤ (src1 x b l).toNat) :
    extract fn f d a b w s = .next (trapAt x false .bounds
      ((badIndex x f (fun l => (src1 x b l).toNat)).setWidth 64) (switchIn x s)) :=
  issue_trap h (if_pos (badIndex_ne_zero hix))

theorem extract_fmt (hix : ∀ l ∈ lanesOf x.act, (src1 x b l).toNat < f.count) (hspare : spareSet f x a = true) :
    extract fn f d a b w s = .next (trapAt x false .fmt 0x100 (switchIn x s)) :=
  issue_trap h ((if_neg (not_not_intro (badIndex_eq_zero hix))).trans (if_pos hspare))

end Extract

theorem spareSet_iff {f : Elem} {x : Ctx} {a : BitVec 7} :
    spareSet f x a = true ↔ f.width = 6 ∧ ∃ l ∈ lanesOf x.act, 2 ^ 126 ≤ quadOf128 x.c a l := by
  have hsix : f.six = true ↔ f.width = 6 := by cases f <;> decide
  rw [spareSet, Bool.and_eq_true, hsix]
  simp only [List.any_eq_true, decide_eq_true_eq]

/-- The six extractions with their formats are one operation. -/
theorem extract_results {i : Instr} {fn : BitVec 3} {f : Elem} {d a b : BitVec 7} {w : BitVec 1} {s : State} {x : Ctx}
    (hexec : exec i s = extract fn f d a b w s) (h : Issues (packReg 0x28 d a b w fn) (extractFields d a b) s x) :
    let ix := fun l => (src1 x b l).toNat
    let spare := f.width = 6 ∧ ∃ l ∈ lanesOf x.act, 2 ^ 126 ≤ quadOf128 x.c a l
    ((∀ l ∈ lanesOf x.act, ix l < f.count) → ¬ spare →
      ∃ t, exec i s = .next t ∧ Wrote (extractFields d a b) x d false (w == 1)
        (fun l => BitVec.ofNat 64 (roundNum .f32 plainRN (f.value (quadOf128 x.c a l) (ix l)).1).1)
        (if ∃ l ∈ lanesOf x.act, (f.value (quadOf128 x.c a l) (ix l)).2 = true then x.c.csw ||| 0x200000 else x.c.csw) s t) ∧
    ((∃ l ∈ lanesOf x.act, f.count ≤ ix l) → exec i s = .next (trapAt x false .bounds
      ((maskWhere (fun l => x.act.getLsbD l && decide (f.count ≤ ix l))).setWidth 64) (switchIn x s))) ∧
    ((∀ l ∈ lanesOf x.act, ix l < f.count) → spare → exec i s = .next (trapAt x false .fmt 0x100 (switchIn x s))) := by
  intro ix spare
  rw [hexec]
  refine ⟨fun hix hspare => ?_, fun hix => extract_bounds h hix, fun hix hspare => extract_fmt h hix (spareSet_iff.mpr hspare)⟩
  have hcompletes := extract_completes h hix (Bool.eq_false_iff.mpr (fun hs => hspare (spareSet_iff.mp hs)))
  simpa only [marksOutlier, List.any_eq_true] using hcompletes

theorem extractResults : ExtractResults := by
  intro s x d a b w e he u hu h
  simp only [List.mem_cons, List.not_mem_nil, or_false] at he
  obtain rfl | rfl | rfl | rfl | rfl | rfl := he
  all_goals obtain rfl := Option.some.inj hu
  · exact extract_results exec_x8e4 h
  · exact extract_results exec_x8e5 h
  · exact extract_results exec_x6a h
  · exact extract_results exec_x6b h
  · exact extract_results exec_xi4o h
  · exact extract_results exec_xi8 h

/-! ## Packs (R172) -/

/-- Operand fields of a pack. -/
abbrev packFields (d a b : BitVec 7) : OpInfo :=
  { uses := [(1, d, .quad), (2, a, .src false true), (3, b, .src false true)] }

theorem codeOf_c_v {d : BitVec 7} (h : d.toNat < 112) : codeOf .c d = .v d.toNat := by
  unfold codeOf
  simp only
  iterate 9 rw [if_neg (by omega)]

theorem codeOf_c_ne_v {d : BitVec 7} (h : 112 ≤ d.toNat) (n : Nat) : codeOf .c d ≠ .v n := by
  have := d.isLt
  unfold codeOf
  simp only
  repeat' split
  all_goals simp only [ne_eq, reduceCtorEq, not_false_eq_true, Code.v.injEq]
  omega

/-- A quad is four v registers of the C-stream from a multiple of 4 on. -/
theorem quad_of_useOk {c : Consist} {st : Strm} {d : BitVec 7} (h : useOk c st .quad d = true) :
    st = .c ∧ d.toNat % 4 = 0 ∧ d.toNat < 112 := by
  simp only [useOk] at h
  split at h
  next n hn =>
    simp only [Bool.and_eq_true, beq_iff_eq] at h
    cases st with
    | a => exact absurd hn (codeOf_a_ne_v d n)
    | c =>
      have h112 : d.toNat < 112 := Nat.lt_of_not_le fun hge => codeOf_c_ne_v hge n hn
      obtain rfl := Code.v.inj ((codeOf_c_v h112).symm.trans hn)
      exact ⟨rfl, h.1, h112⟩
  · contradiction

section Quad

variable {c : Consist} {d : BitVec 7} {ls : List Nat} {q : Nat → Nat} (h4 : d.toNat % 4 = 0) (h112 : d.toNat < 112)

/-- The first `n` registers of a quad written with 32-bit parts of a number of each lane. -/
def putQuad (c : Consist) (d : BitVec 7) (ls : List Nat) (q : Nat → Nat) (n : Nat) : Consist :=
  (List.range n).foldl (fun (c : Consist) j =>
    c.putReg .c (d + BitVec.ofNat 7 j) false ls (fun l => BitVec.ofNat 64 (q l / 2 ^ (32 * j)))) c

theorem putQuad_succ (n : Nat) : putQuad c d ls q (n + 1) = (putQuad c d ls q n).putReg .c (d + BitVec.ofNat 7 n) false ls
    (fun l => BitVec.ofNat 64 (q l / 2 ^ (32 * n))) := by
  rw [putQuad, List.range_succ, List.foldl_append]
  rfl

include h4 h112

theorem codeOf_quad {j : Nat} (hj : j < 4) : codeOf .c (d + BitVec.ofNat 7 j) = .v (d.toNat + j) := by
  have hnat : (d + BitVec.ofNat 7 j).toNat = d.toNat + j := by
    rw [BitVec.toNat_add, BitVec.toNat_ofNat]; omega
  rw [codeOf_c_v (by omega), hnat]

theorem putQuad_spec {n : Nat} (hn : n ≤ 4) : putQuad c d ls q n = { c with vregs := (putQuad c d ls q n).vregs } := by
  induction n with
  | zero => rfl
  | succ n ih =>
    rw [putQuad_succ, Consist.putReg, codeOf_quad h4 h112 (by omega), ih (by omega)]

theorem putQuad_v {n : Nat} (hn : n ≤ 4) (hls : ∀ i ∈ ls, i < 32) (m : Nat) {l : Nat} (hl : l < 32) :
    (putQuad c d ls q n).v m l = if l ∈ ls ∧ d.toNat ≤ m ∧ m < d.toNat + n then
      BitVec.ofNat 32 (q l / 2 ^ (32 * (m - d.toNat))) else c.v m l := by
  induction n with
  | zero => rw [if_neg (by omega)]; rfl
  | succ n ih =>
    rw [putQuad_succ, putReg_v _ _ _ _ _ _ m l hls hl, codeOf_quad h4 h112 (by omega), ih (by omega)]
    simp only [Bool.false_eq_true, false_and, if_false]
    by_cases hmem : l ∈ ls
    · by_cases hm : m = d.toNat + n
      · rw [if_pos hmem, if_pos hm, if_pos ⟨hmem, by omega, by omega⟩, hm, Nat.add_sub_cancel_left]
        exact BitVec.setWidth_ofNat_of_le (by decide) _
      · rw [if_pos hmem, if_neg hm]
        exact if_congr (and_congr_right fun _ => by omega) rfl rfl
    · simp [hmem]

/-- A lane's quad reads as the number written. -/
theorem quadOf128_putQuad (hls : ∀ i ∈ ls, i < 32) {l : Nat} (hmem : l ∈ ls) (hq : q l < 2 ^ 128) :
    quadOf128 (putQuad c d ls q 4) d l = q l := by
  have hl := hls l hmem
  simp only [quadOf128, putQuad_v h4 h112 (Nat.le_refl 4) hls _ hl, hmem, true_and]
  iterate 4 rw [if_pos (by omega)]
  simp only [BitVec.toNat_ofNat, Nat.sub_self, Nat.add_sub_cancel_left, Nat.mul_zero, Nat.mul_one, Nat.pow_zero, Nat.div_one]
  norm_num at hq ⊢
  omega

end Quad

theorem quadOf128_lt (c : Consist) (d : BitVec 7) (l : Nat) : quadOf128 c d l < 2 ^ 128 := by
  have h0 := (c.v d.toNat l).isLt
  have h1 := (c.v (d.toNat + 1) l).isLt
  have h2 := (c.v (d.toNat + 2) l).isLt
  have h3 := (c.v (d.toNat + 3) l).isLt
  unfold quadOf128
  norm_num at h0 h1 h2 h3 ⊢
  omega

/-- The consist of a pack: the quad and, with an active lane, its latch. -/
def packed (x : Ctx) (d : BitVec 7) (q : Nat → Nat) : Consist :=
  let c := putQuad x.c d (lanesOf x.act) q 4
  if lanesOf x.act = [] then c
  else c.setStrm x.st ((c.strm x.st).putLatch (latchOf d) (lanesOf x.act) (fun l => BitVec.ofNat 64 (q l)))

/-- Nothing but v registers and latches of the stream has changed. -/
theorem packed_spec {x : Ctx} {d : BitVec 7} (q : Nat → Nat) (h4 : d.toNat % 4 = 0) (h112 : d.toNat < 112) :
    packed x d q = { x.c with vregs := (putQuad x.c d (lanesOf x.act) q 4).vregs, a := (packed x d q).a, c := (packed x d q).c } ∧
    (packed x d q).strm x.st = { x.c.strm x.st with preds := ((packed x d q).strm x.st).preds,
                                                    latch := ((packed x d q).strm x.st).latch,
                                                    latchValid := ((packed x d q).strm x.st).latchValid } := by
  have hquad := putQuad_spec (c := x.c) (ls := lanesOf x.act) (q := q) h4 h112 (Nat.le_refl 4)
  unfold packed
  dsimp only
  rw [hquad]
  split
  · exact ⟨rfl, rfl⟩
  · cases x.st <;> exact ⟨rfl, rfl⟩

section Pack

variable {fn : BitVec 3} {f : Elem} {d a b : BitVec 7} {s : State} {x : Ctx}

/-- The rounding mode of a pack (R41, R172). -/
abbrev packMode (x : Ctx) : Nat := match x.hints.round with | some m => m.toNat | none => 0

/-- A lane's operand rounded to the element's format (R126). -/
abbrev packCode (f : Elem) (x : Ctx) (a : BitVec 7) (l : Nat) : Nat × Flags :=
  f.round (packMode x) (Fmt.f32.read (flushOn x) (src1 x a l).toNat)

/-- A lane's quad with that element in place (R172). -/
abbrev packWord (f : Elem) (x : Ctx) (d a b : BitVec 7) (l : Nat) : Nat :=
  f.insert (quadOf128 x.c d l) (src2 x a b l).toNat (packCode f x a l).1

variable (h : Issues (packReg 0x29 d a b 0 fn) (packFields d a b) s x)
  (hquiet : ∀ l ∈ lanesOf x.act, (src2 x a b l).toNat < f.count ∧ (packCode f x a l).2 &&& enabled x = 0)
include h hquiet

theorem pack_retires : ∃ t c, pack fn f d a b s = .next t ∧ (switchIn x s).Keeps x.key t ∧ t.consist? x.key = some c ∧
    Retires (packFields d a b) x
      (packed (x.withCsw (withFlags x.c.csw (allFlags x (fun l => (packCode f x a l).2)))) d (packWord f x d a b)) c := by
  refine issue_retires h ((if_neg (not_not_intro (badIndex_eq_zero fun l hl => (hquiet l hl).1))).trans
    (raiseFlags_quiet fun l hl => (hquiet l hl).2)) (State.consist?_setConsist_same ..) (State.keeps_setConsist ..)

/-- Packs: the element that B names holds A rounded, every other element and every register outside is as it was. -/
theorem pack_results {i : Instr} (hexec : exec i s = pack fn f d a b s) :
    ∃ t c, exec i s = .next t ∧ (switchIn x s).Keeps x.key t ∧ t.consist? x.key = some c ∧ x.c.Keeps c ∧
      c.csw = withFlags x.c.csw (allFlags x (fun l => (packCode f x a l).2)) ∧ c.aregs = x.c.aregs ∧ c.sregs = x.c.sregs ∧
      c.inflight = x.c.inflight ∧ QueuesPop (packFields d a b) x x.c c ∧
      StreamSt.Passed (packFields d a b) x.run (x.c.strm x.st) (c.strm x.st) ∧
      (∀ m l, l < 32 → (m < d.toNat ∨ d.toNat + 4 ≤ m ∨ x.act.getLsbD l = false) → c.v m l = x.c.v m l) ∧
      (∀ l, l < 32 → x.act.getLsbD l = true → ∀ j, j < f.count → f.code (quadOf128 c d l) j =
        if j = (src2 x a b l).toNat then (packCode f x a l).1 else f.code (quadOf128 x.c d l) j) := by
  obtain ⟨t, c, hout, hkeeps, hc, hret⟩ := pack_retires h hquiet
  obtain ⟨-, h4 : d.toNat % 4 = 0, h112 : d.toNat < 112⟩ := quad_of_useOk (useOk_of_checked h.checked (List.mem_cons_self ..))
  set csw := withFlags x.c.csw (allFlags x (fun l => (packCode f x a l).2))
  have hls : ∀ l ∈ lanesOf x.act, l < 32 := fun l hl => ((mem_lanesOf _ _).mp hl).1
  obtain ⟨hb, hstrm⟩ := packed_spec (x := x.withCsw csw) (packWord f x d a b) h4 h112
  set b' := packed (x.withCsw csw) d (packWord f x d a b)
  have hv : c.vregs = (putQuad (x.withCsw csw).c d (lanesOf x.act) (packWord f x d a b) 4).vregs := by
    rw [hret.vregs, hb]; rfl
  have hquad (m l : Nat) : c.v m l = (putQuad (x.withCsw csw).c d (lanesOf x.act) (packWord f x d a b) 4).v m l :=
    congrArg (tget · (32 * m + l)) hv
  refine ⟨t, c, hexec.trans hout, hkeeps, hc, ?_, ?_, ?_, ?_, ?_, ?_, ?_, ?_, ?_⟩
  · have hk := hret.keeps
    unfold Consist.Keeps at hk ⊢
    rw [hk, hb]
    rfl
  · rw [hret.csw, hb]; rfl
  · rw [hret.aregs, hb]; rfl
  · rw [hret.sregs, hb]; rfl
  · rw [hret.inflight, hb]; rfl
  · intro q l hl
    rw [hret.pops q l hl, Consist.queueOf_congr (c := x.c) (c' := b') q l] <;> rw [hb] <;> rfl
  · exact passed_congr hstrm (hret.passed rfl)
  · intro m l hl hout
    rw [hquad, putQuad_v h4 h112 (Nat.le_refl 4) hls m hl, if_neg]
    · rfl
    · rintro ⟨hmem, hlo, hhi⟩
      have hact := ((mem_lanesOf _ _).mp hmem).2
      rcases hout with hout | hout | hout
      · omega
      · omega
      · simp [hact] at hout
  · intro l hl hact j hj
    have hmem : l ∈ lanesOf x.act := (mem_lanesOf _ _).mpr ⟨hl, hact⟩
    have hcode := round_lt f (packMode x) (Fmt.f32.read (flushOn x) (src1 x a l).toNat)
    have hword : quadOf128 c d l = packWord f x d a b l := by
      rw [← quadOf128_putQuad (c := (x.withCsw csw).c) (q := packWord f x d a b) h4 h112 hls hmem
        (insert_lt hcode (quadOf128_lt x.c d l) (hquiet l hmem).1)]
      simp only [quadOf128, hquad]
    rw [hword]
    exact code_insert hcode hj

end Pack

theorem packResults : PackResults := by
  intro s x d a b e he u hu h
  simp only [List.mem_cons, List.not_mem_nil, or_false] at he
  obtain rfl | rfl | rfl | rfl | rfl | rfl := he
  all_goals
    obtain rfl := Option.some.inj hu
    intro mode r ix hquiet o
  · exact pack_results h hquiet exec_p8e4
  · exact pack_results h hquiet exec_p8e5
  · exact pack_results h hquiet exec_p6a
  · exact pack_results h hquiet exec_p6b
  · exact pack_results h hquiet exec_pi4o
  · exact pack_results h hquiet exec_pi8

/-- Settles O22: an extraction writes the element's exact value, a pack replaces one element of the quad. -/
theorem extractAndPackResults : Obligations.ExtractAndPackResults := ⟨extractResults, packResults⟩

end Sys2Proof.Machine

/-! Accesses to memory and to the scratchpad (R111, R182, R184 to R191): what a lane reads and writes, lane by lane. -/

namespace Sys2Proof.Machine

open Sys2Proof

/-! ## Numbers in memory (R111) -/

section Numbers

variable {mem : Nat → Byte} {a n : Nat}

theorem numberAt_succ : numberAt mem a (n + 1) = (mem a).toNat + 256 * numberAt mem (a + 1) n := by
  unfold numberAt
  rw [List.range_succ_eq_map, List.map_cons, List.sum_cons, List.map_map, ← List.sum_map_mul_left]
  congr 1
  · simp
  · congr 1
    refine List.map_congr_left fun j _ => ?_
    simp only [Function.comp_apply, Nat.succ_eq_add_one, Nat.pow_succ, Nat.add_assoc, Nat.add_comm 1 j]
    ring

theorem numberAt_lt : numberAt mem a n < 256 ^ n := by
  induction n generalizing a with
  | zero => exact Nat.one_pos
  | succ n ih =>
    have hhigh := ih (a := a + 1)
    have hlow := (mem a).isLt
    rw [numberAt_succ, Nat.pow_succ]
    omega

/-- A word of a state is the number that its bytes hold. -/
theorem word_eq_numberAt {s : State} (h : ∀ b, s.byte b = mem b) : s.word a n = numberAt mem a n := by
  unfold State.word
  induction n generalizing a with
  | zero => rfl
  | succ n ih => rw [State.bytes, leNat, h, ih, numberAt_succ]

theorem leNat_readBytes {t : Table Byte} (h : ∀ b, tget t b = mem b) : leNat (readBytes t a n) = numberAt mem a n := by
  induction n generalizing a with
  | zero => rfl
  | succ n ih => rw [readBytes, leNat, h, ih, numberAt_succ]

theorem getD_leBytes {v i : Nat} (hi : i < n) : (leBytes n v).getD i 0 = BitVec.ofNat 8 (v / 256 ^ i) := by
  induction n generalizing v i with
  | zero => omega
  | succ n ih =>
    cases i with
    | zero => simp [leBytes]
    | succ i =>
      rw [leBytes, List.getD_cons_succ, ih (by omega), Nat.div_div_eq_div_mul, Nat.pow_succ, Nat.mul_comm 256]

/-- A table of bytes after a number was laid out in it. -/
theorem tget_writeBytes_leBytes {t : Table Byte} {v b : Nat} (h : ∀ b, tget t b = mem b) :
    tget (writeBytes t a (leBytes n v)) b = memoryWith mem a n v b := by
  rw [tget_writeBytes, leBytes_length, memoryWith]
  split
  · exact getD_leBytes (by omega)
  · exact h b

end Numbers

/-! ## The pieces of a lane's access -/

/-- The number that the pieces of an access read. -/
def readSum (mem : Nat → Byte) (ps : List (Nat × Nat × Nat)) : Nat :=
  (ps.map (fun p => numberAt mem p.1 p.2.1 * 256 ^ p.2.2)).sum

/-- Memory with a number written through the pieces of an access. -/
def writePieces (mem : Nat → Byte) (v : Nat) (ps : List (Nat × Nat × Nat)) : Nat → Byte :=
  ps.foldl (fun mem p => memoryWith mem p.1 p.2.1 (v / 256 ^ p.2.2)) mem

theorem laneAccess_none {r : AccessRow} {mem : Nat → Byte} {x c : Nat} {ps : List (Nat × Nat × Nat)}
    (h : r.writes (readSum mem ps) (x % 2 ^ (8 * r.size)) (c % 2 ^ (8 * r.size)) = none) :
    laneAccess r mem x c ps = (readSum mem ps, mem) := by
  unfold readSum at h ⊢
  simp only [laneAccess, h]

theorem laneAccess_some {r : AccessRow} {mem : Nat → Byte} {x c v : Nat} {ps : List (Nat × Nat × Nat)}
    (h : r.writes (readSum mem ps) (x % 2 ^ (8 * r.size)) (c % 2 ^ (8 * r.size)) = some v) :
    laneAccess r mem x c ps = (readSum mem ps, writePieces mem v ps) := by
  unfold readSum at h ⊢
  simp only [laneAccess, h, writePieces]

/-- Pieces that follow one another from position `lo` to position `hi`, by length and position. -/
def Tiles : List (Nat × Nat) → Nat → Nat → Prop
  | [], lo, hi => lo = hi
  | p :: ps, lo, hi => p.2 = lo ∧ Tiles ps (lo + p.1) hi

/-- What such pieces read ends where they do. -/
theorem readSum_add_le {mem : Nat → Byte} {ps : List (Nat × Nat × Nat)} {lo hi : Nat}
    (h : Tiles (ps.map (fun p => p.2)) lo hi) : readSum mem ps + 256 ^ lo ≤ 256 ^ hi := by
  induction ps generalizing lo with
  | nil =>
    obtain rfl := h
    simp [readSum]
  | cons p ps ih =>
    obtain ⟨rfl, h⟩ := h
    have hrest := ih h
    have hone : (numberAt mem p.1 p.2.1 + 1) * 256 ^ p.2.2 ≤ 256 ^ p.2.1 * 256 ^ p.2.2 := Nat.mul_le_mul_right _ numberAt_lt
    rw [Nat.pow_add] at hrest
    unfold readSum at hrest ⊢
    rw [List.map_cons, List.sum_cons]
    linarith

theorem readSum_lt {mem : Nat → Byte} {ps : List (Nat × Nat × Nat)} {n : Nat} (h : Tiles (ps.map (fun p => p.2)) 0 n) :
    readSum mem ps < 2 ^ (8 * n) := by
  have := readSum_add_le (mem := mem) h
  rw [Nat.pow_mul]
  norm_num at this ⊢
  omega

/-! ## The rows of accesses (R186 to R190) -/

/-- Does the operation give V what it reads? -/
def AccOp.gives : AccOp → Bool
  | .store | .reduce _ => false
  | _ => true

/-- A row says what the model's operation does: how it is issued, what it gives, what it writes. -/
structure AccessRow.Says (r : AccessRow) (v a : BitVec 7) (h : BitVec 6) (o : BitVec 2) : Prop where
  issued : ∃ maj fn, encode r.instr = some (packMem maj v a h o fn) ∧ ∀ s, exec r.instr s = access maj fn r.op r.size v a h o s
  size : r.size ∈ [1, 2, 4, 8, 16]
  gives : r.gives = r.op.gives
  signed : r.signed = true → r.size ≤ 2
  loads : r.signed = decide (r.op = .load true)
  writes : ∀ m x c, m < 2 ^ (8 * r.size) →
    r.op.newValue r.size m x c = r.writes m (x % 2 ^ (8 * r.size)) (c % 2 ^ (8 * r.size))

section Rows

variable {v a : BitVec 7} {h : BitVec 6} {o : BitVec 2} {i : Instr} {maj : BitVec 7} {fn : BitVec 3} {n k : Nat}
  (hu : encode i = some (packMem maj v a h o fn))
include hu

theorem says_load {signed : Bool} (hexec : ∀ s, exec i s = access maj fn (.load signed) n v a h o s)
    (hn : n ∈ [1, 2, 4, 8, 16]) (hsigned : signed = true → n ≤ 2) :
    AccessRow.Says ⟨i, .load signed, n, true, signed, fun _ _ _ => none⟩ v a h o where
  issued := ⟨maj, fn, hu, hexec⟩
  size := hn
  gives := rfl
  signed := hsigned
  loads := by cases signed <;> rfl
  writes _ _ _ _ := rfl

theorem says_store (hexec : ∀ s, exec i s = access maj fn .store n v a h o s) (hn : n ∈ [1, 2, 4, 8, 16]) :
    AccessRow.Says ⟨i, .store, n, false, false, fun _ x _ => some x⟩ v a h o where
  issued := ⟨maj, fn, hu, hexec⟩
  size := hn
  gives := rfl
  signed := nofun
  loads := rfl
  writes _ _ _ _ := rfl

theorem says_cas (hexec : ∀ s, exec i s = access maj fn .cas n v a h o s) (hn : n ∈ [1, 2, 4, 8, 16]) :
    AccessRow.Says ⟨i, .cas, n, true, false, fun m x c => if m = c then some x else none⟩ v a h o where
  issued := ⟨maj, fn, hu, hexec⟩
  size := hn
  gives := rfl
  signed := nofun
  loads := rfl
  writes _ _ _ _ := rfl

theorem says_atomic {f : Nat → Nat → Nat} (hexec : ∀ s, exec i s = access maj fn (.atomic k) n v a h o s)
    (hn : n ∈ [1, 2, 4, 8, 16]) (hf : ∀ m x, m < 2 ^ (8 * n) → rmw k (8 * n) m x = f m (x % 2 ^ (8 * n))) :
    AccessRow.Says ⟨i, .atomic k, n, true, false, fun m x _ => some (f m x)⟩ v a h o where
  issued := ⟨maj, fn, hu, hexec⟩
  size := hn
  gives := rfl
  signed := nofun
  loads := rfl
  writes m x _ hm := congrArg some (hf m x hm)

theorem says_reduce {f : Nat → Nat → Nat} (hexec : ∀ s, exec i s = access maj fn (.reduce k) n v a h o s)
    (hn : n ∈ [1, 2, 4, 8, 16]) (hf : ∀ m x, m < 2 ^ (8 * n) → rmw k (8 * n) m x = f m (x % 2 ^ (8 * n))) :
    AccessRow.Says ⟨i, .reduce k, n, false, false, fun m x _ => some (f m x)⟩ v a h o where
  issued := ⟨maj, fn, hu, hexec⟩
  size := hn
  gives := rfl
  signed := nofun
  loads := rfl
  writes m x _ hm := congrArg some (hf m x hm)

end Rows

section Arithmetic

variable {n m x : Nat} (hm : m < 2 ^ n)

theorem ofNat_mod_word : BitVec.ofNat n (x % 2 ^ n) = BitVec.ofNat n x := by
  apply BitVec.eq_of_toNat_eq
  rw [BitVec.toNat_ofNat, BitVec.toNat_ofNat, Nat.mod_mod]

theorem rmw_add : rmw 0 n m x = (m + x % 2 ^ n) % 2 ^ n := by
  simp [rmw, BitVec.toNat_add]

theorem rmw_exchange : rmw 7 n m x = x % 2 ^ n := rfl

include hm

theorem toNat_ofNat_word : (BitVec.ofNat n m).toNat = m := (BitVec.toNat_ofNat ..).trans (Nat.mod_eq_of_lt hm)

theorem rmw_min : rmw 1 n m x = if (BitVec.ofNat n (x % 2 ^ n)).toInt < (BitVec.ofNat n m).toInt then x % 2 ^ n else m := by
  rw [ofNat_mod_word]
  exact (apply_ite BitVec.toNat _ _ _).trans (if_congr Iff.rfl (BitVec.toNat_ofNat ..) (toNat_ofNat_word hm))

theorem rmw_max : rmw 2 n m x = if (BitVec.ofNat n m).toInt < (BitVec.ofNat n (x % 2 ^ n)).toInt then x % 2 ^ n else m := by
  rw [ofNat_mod_word]
  exact (apply_ite BitVec.toNat _ _ _).trans (if_congr Iff.rfl (BitVec.toNat_ofNat ..) (toNat_ofNat_word hm))

theorem rmw_umin : rmw 3 n m x = min m (x % 2 ^ n) := by
  calc rmw 3 n m x = if (BitVec.ofNat n x).toNat < (BitVec.ofNat n m).toNat then (BitVec.ofNat n x).toNat
        else (BitVec.ofNat n m).toNat := apply_ite BitVec.toNat _ _ _
    _ = min m (x % 2 ^ n) := by
        rw [toNat_ofNat_word hm, BitVec.toNat_ofNat]
        split <;> omega

theorem rmw_and : rmw 4 n m x = Nat.land m (x % 2 ^ n) := by
  show (BitVec.ofNat n m &&& BitVec.ofNat n x).toNat = m &&& (x % 2 ^ n)
  rw [BitVec.toNat_and, toNat_ofNat_word hm, BitVec.toNat_ofNat]

theorem rmw_or : rmw 5 n m x = Nat.lor m (x % 2 ^ n) := by
  show (BitVec.ofNat n m ||| BitVec.ofNat n x).toNat = m ||| (x % 2 ^ n)
  rw [BitVec.toNat_or, toNat_ofNat_word hm, BitVec.toNat_ofNat]

theorem rmw_xor : rmw 6 n m x = Nat.xor m (x % 2 ^ n) := by
  show (BitVec.ofNat n m ^^^ BitVec.ofNat n x).toNat = m ^^^ (x % 2 ^ n)
  rw [BitVec.toNat_xor, toNat_ofNat_word hm, BitVec.toNat_ofNat]

theorem rmw_fadd : rmw 8 n m x = plainAdd .f32 m (x % 2 ^ n) := by
  show plainAdd .f32 (BitVec.ofNat n m).toNat (BitVec.ofNat n x).toNat = _
  rw [toNat_ofNat_word hm, BitVec.toNat_ofNat]

theorem rmw_bfadd : rmw 9 n m x = plainAddBf2 m (x % 2 ^ n) := by
  show plainAddBf2 (BitVec.ofNat n m).toNat (BitVec.ofNat n x).toNat = _
  rw [toNat_ofNat_word hm, BitVec.toNat_ofNat]

end Arithmetic

/-- Every row says what the model's operation does. -/
theorem says_accessRows {v a : BitVec 7} {h : BitVec 6} {o : BitVec 2} {r : AccessRow} (hr : r ∈ accessRows v a h o) :
    r.Says v a h o := by
  simp only [accessRows, List.mem_cons, List.not_mem_nil, or_false] at hr
  rcases hr with rfl | rfl | rfl | rfl | rfl | rfl | rfl | rfl | rfl | rfl | rfl | rfl | rfl | rfl | rfl | rfl | rfl | rfl |
    rfl | rfl | rfl | rfl | rfl | rfl | rfl | rfl | rfl | rfl | rfl | rfl | rfl | rfl | rfl | rfl | rfl | rfl | rfl | rfl | rfl | rfl
  · exact says_load (maj := 0x40) (fn := 0) rfl (fun _ => exec_ld8) (by decide) nofun
  · exact says_load (maj := 0x40) (fn := 1) rfl (fun _ => exec_ld8s) (by decide) (by decide)
  · exact says_load (maj := 0x40) (fn := 2) rfl (fun _ => exec_ld16) (by decide) nofun
  · exact says_load (maj := 0x40) (fn := 3) rfl (fun _ => exec_ld16s) (by decide) (by decide)
  · exact says_load (maj := 0x40) (fn := 4) rfl (fun _ => exec_ld32) (by decide) nofun
  · exact says_load (maj := 0x40) (fn := 5) rfl (fun _ => exec_ld64) (by decide) nofun
  · exact says_load (maj := 0x40) (fn := 6) rfl (fun _ => exec_ld128) (by decide) nofun
  · exact says_load (maj := 0x40) (fn := 7) rfl (fun _ => exec_ldnt) (by decide) nofun
  · exact says_store (maj := 0x41) (fn := 0) rfl (fun _ => exec_st8) (by decide)
  · exact says_store (maj := 0x41) (fn := 1) rfl (fun _ => exec_st16) (by decide)
  · exact says_store (maj := 0x41) (fn := 2) rfl (fun _ => exec_st32) (by decide)
  · exact says_store (maj := 0x41) (fn := 3) rfl (fun _ => exec_st64) (by decide)
  · exact says_store (maj := 0x41) (fn := 4) rfl (fun _ => exec_st128) (by decide)
  · exact says_store (maj := 0x41) (fn := 5) rfl (fun _ => exec_stnt) (by decide)
  · exact says_atomic (maj := 0x42) (fn := 0) rfl (fun _ => exec_aadd) (by decide) (fun _ _ _ => rmw_add)
  · exact says_atomic (maj := 0x42) (fn := 1) rfl (fun _ => exec_amin) (by decide) (fun _ _ => rmw_min)
  · exact says_atomic (maj := 0x42) (fn := 2) rfl (fun _ => exec_amax) (by decide) (fun _ _ => rmw_max)
  · exact says_atomic (maj := 0x42) (fn := 3) rfl (fun _ => exec_aumin) (by decide) (fun _ _ => rmw_umin)
  · exact says_atomic (maj := 0x42) (fn := 4) rfl (fun _ => exec_aand) (by decide) (fun _ _ => rmw_and)
  · exact says_atomic (maj := 0x42) (fn := 5) rfl (fun _ => exec_aor) (by decide) (fun _ _ => rmw_or)
  · exact says_atomic (maj := 0x42) (fn := 6) rfl (fun _ => exec_axor) (by decide) (fun _ _ => rmw_xor)
  · exact says_atomic (maj := 0x42) (fn := 7) rfl (fun _ => exec_axch) (by decide) (fun _ _ _ => rmw_exchange)
  · exact says_atomic (maj := 0x43) (fn := 0) rfl (fun _ => exec_aadd64) (by decide) (fun _ _ _ => rmw_add)
  · exact says_atomic (maj := 0x43) (fn := 1) rfl (fun _ => exec_amin64) (by decide) (fun _ _ => rmw_min)
  · exact says_atomic (maj := 0x43) (fn := 2) rfl (fun _ => exec_amax64) (by decide) (fun _ _ => rmw_max)
  · exact says_atomic (maj := 0x43) (fn := 3) rfl (fun _ => exec_aand64) (by decide) (fun _ _ => rmw_and)
  · exact says_atomic (maj := 0x43) (fn := 4) rfl (fun _ => exec_aor64) (by decide) (fun _ _ => rmw_or)
  · exact says_atomic (maj := 0x43) (fn := 5) rfl (fun _ => exec_axor64) (by decide) (fun _ _ => rmw_xor)
  · exact says_atomic (maj := 0x43) (fn := 6) rfl (fun _ => exec_axch64) (by decide) (fun _ _ _ => rmw_exchange)
  · exact says_atomic (maj := 0x43) (fn := 7) rfl (fun _ => exec_afadd) (by decide) (fun _ _ => rmw_fadd)
  · exact says_cas (maj := 0x44) (fn := 0) rfl (fun _ => exec_cas32) (by decide)
  · exact says_cas (maj := 0x44) (fn := 1) rfl (fun _ => exec_cas64) (by decide)
  · exact says_reduce (maj := 0x45) (fn := 0) rfl (fun _ => exec_redadd) (by decide) (fun _ _ _ => rmw_add)
  · exact says_reduce (maj := 0x45) (fn := 1) rfl (fun _ => exec_redmin) (by decide) (fun _ _ => rmw_min)
  · exact says_reduce (maj := 0x45) (fn := 2) rfl (fun _ => exec_redmax) (by decide) (fun _ _ => rmw_max)
  · exact says_reduce (maj := 0x45) (fn := 3) rfl (fun _ => exec_redand) (by decide) (fun _ _ => rmw_and)
  · exact says_reduce (maj := 0x45) (fn := 4) rfl (fun _ => exec_redor) (by decide) (fun _ _ => rmw_or)
  · exact says_reduce (maj := 0x45) (fn := 5) rfl (fun _ => exec_redxor) (by decide) (fun _ _ => rmw_xor)
  · exact says_reduce (maj := 0x45) (fn := 6) rfl (fun _ => exec_redfadd) (by decide) (fun _ _ => rmw_fadd)
  · exact says_reduce (maj := 0x45) (fn := 7) rfl (fun _ => exec_redbfadd) (by decide) (fun _ _ => rmw_bfadd)

/-- A sign-extended element as a number. -/
theorem toNat_signExtend_ofNat {w k m : Nat} (hm : m < 2 ^ w) (hk : w ≤ k) : ((BitVec.ofNat w m).signExtend k).toNat =
    if 2 ^ (w - 1) ≤ m then m + (2 ^ k - 2 ^ w) else m := by
  have hmk : m < 2 ^ k := hm.trans_le (Nat.pow_le_pow_right (by decide) hk)
  rw [BitVec.toNat_signExtend, BitVec.toNat_setWidth, toNat_ofNat_word hm, Nat.mod_eq_of_lt hmk, BitVec.msb_eq_decide,
    toNat_ofNat_word hm]
  by_cases hneg : 2 ^ (w - 1) ≤ m <;> simp [hneg]

/-- The words that a row gives are those that the model delivers (R186, R188). -/
theorem AccessRow.Says.words {v a : BitVec 7} {h : BitVec 6} {o : BitVec 2} {r : AccessRow} (hr : r.Says v a h o) {m : Nat}
    (hm : m < 2 ^ (8 * r.size)) (toQueue : Bool) : deliverWords r.op r.size toQueue m = givenWords r toQueue m := by
  have hloads := hr.loads
  by_cases hop : r.op = .load true
  · rw [hop, decide_eq_true rfl] at hloads
    have hsize := hr.signed hloads
    have hpos : r.size = 1 ∨ r.size = 2 := by
      have := hr.size
      simp only [List.mem_cons, List.not_mem_nil, or_false] at this
      omega
    have h32 := toNat_signExtend_ofNat (k := 32) hm (by omega)
    have h64 := toNat_signExtend_ofNat (k := 64) hm (by omega)
    have hword : (r.size + 3) / 4 = 1 := by omega
    simp only [deliverWords, givenWords, hop, hloads, h32, h64, hword, if_neg (show ¬ r.size = 16 by omega), true_and]
    cases toQueue <;> rfl
  · rw [decide_eq_false hop] at hloads
    unfold deliverWords givenWords
    simp only [hloads, Bool.false_eq_true, false_and, if_false]

end Sys2Proof.Machine

/-! The accesses of the lanes, one after the other, on whatever holds their bytes (R63, R191). -/

namespace Sys2Proof.Machine

open Sys2Proof

/-! ## What an access leaves of a state (R63, R184) -/

/-- Of two states only what threads have seen and what synchronising writes left differs. -/
def State.SameButOrder (s t : State) : Prop :=
  t = { s with clocks := t.clocks, engineClocks := t.engineClocks, syncs := t.syncs, spSyncs := t.spSyncs }

namespace State.SameButOrder

variable {s t u : State}

theorem refl (s : State) : s.SameButOrder s := rfl

theorem trans (h : s.SameButOrder t) (k : t.SameButOrder u) : s.SameButOrder u := by
  unfold State.SameButOrder at *
  rw [h] at k
  exact k

theorem foldl {α : Type} {f : State → α → State} (h : ∀ (s : State) (a : α), s.SameButOrder (f s a)) (l : List α) (s : State) :
    s.SameButOrder (l.foldl f s) := by
  induction l generalizing s with
  | nil => exact refl s
  | cons a l ih => exact (h s a).trans (ih (f s a))

end State.SameButOrder

theorem sameButOrder_of_clocks {s t : State} (h : s.SameButClocks t) : s.SameButOrder t := by
  unfold State.SameButOrder
  rw [h]

/-- An acquire teaches a thread (R63). -/
theorem sameButOrder_acquireAt (s : State) (thread scope : Nat) (p : Party) (ps : List Span) :
    s.SameButOrder (s.acquireAt thread scope p ps) :=
  sameButOrder_of_clocks (.foldl (fun s (r : Release) => sameButClocks_learnFor s [] thread r.clk) _ s)

/-- A write leaves its mark on the granules it touches (R63). -/
theorem sameButOrder_noteWrite (s : State) (atomic : Bool) (rel : Option Release) (ps : List Span) :
    s.SameButOrder (s.noteWrite atomic rel ps) := by
  refine .foldl (fun s p => ?_) ps s
  dsimp only
  split
  · exact .refl s
  · obtain ⟨g, bs⟩ := p
    cases g <;> rfl

/-! ## One lane's access (R191) -/

/-- The value that a lane's access reads: a store reads none. -/
def AccReq.reads (r : AccReq) (ps : List Piece) (s : State) : Nat :=
  match r.op with
  | .store => 0
  | _ => ps.foldl (fun n p => n + p.read s r.win.space * 2 ^ (8 * p.pos)) 0

/-- Does the access acquire (R51, R63)? -/
def AccReq.acquires (r : AccReq) : Bool :=
  match r.op with
  | .load _ | .atomic _ | .cas => r.ord % 2 == 1
  | _ => false

/-- A lane's access that nothing checks for races and no piece of which waits. -/
theorem AccReq.lane_plain {r : AccReq} {x : Ctx} {ps : List Piece} {s : State} (hsample : ps.foldl Piece.sample s = s)
    (hplain : r.checked x = false) (hhere : ∀ p ∈ ps, p.isLate = false) (l operand compare : Nat) :
    let new := r.op.newValue r.size (r.reads ps s) operand compare
    let me := r.record x s l new.isSome
    let now := ps.flatMap Piece.spans
    let u := r.lines x ps new.isSome (if r.acquires then s.acquireAt (threadOf me.thread) r.scope me.party now else s)
    r.lane x s l operand compare ps [] = .ok (r.reads ps s, new.elim u (fun v =>
      let t := ps.foldl (fun s p => p.write s r.win.space (v / 2 ^ (8 * p.pos)) (some (coreOf x.key))) u
      t.noteWrite (r.op != .store) (if 2 ≤ r.ord then some (t.release (threadOf me.thread) r.scope me.party) else none) now), []) := by
  have hlate : ps.filter Piece.isLate = [] := List.filter_eq_nil_iff.mpr fun p hp => by simp [hhere p hp]
  have hall : ps.filter (fun p => !p.isLate) = ps := List.filter_eq_self.mpr fun p hp => by simp [hhere p hp]
  obtain ⟨win, op, size, ord, scope, nt⟩ := r
  cases op
  all_goals
    simp only [AccReq.lane, AccReq.reads, AccReq.acquires, hsample, hplain, hlate, hall, Bool.false_eq_true, if_false,
      List.flatMap_nil, List.map_nil, List.nil_append]
    split <;> rename_i hnew <;> rw [hnew] <;> rfl

/-- States that hold a memory, as the pieces of an access see them: each piece reads and writes it at its place, and no
synchronisation and no use of a line changes it. -/
structure AccReq.Backed (r : AccReq) (x : Ctx) (place : Piece → Nat × Nat × Nat) (ps : List Piece)
    (holds : (Nat → Byte) → State → Prop) : Prop where
  here : ∀ p ∈ ps, p.isLate = false
  sample : ∀ p ∈ ps, ∀ s, p.sample s = s
  pos : ∀ p ∈ ps, (place p).2.2 = p.pos
  read : ∀ p ∈ ps, ∀ mem s, holds mem s → p.read s r.win.space = numberAt mem (place p).1 (place p).2.1
  write : ∀ p ∈ ps, ∀ mem s v who, holds mem s →
    holds (memoryWith mem (place p).1 (place p).2.1 v) (p.write s r.win.space v who)
  order : ∀ mem s t, s.SameButOrder t → holds mem s → holds mem t
  lines : ∀ p ∈ ps, ∀ mem s wrote, holds mem s → holds mem (r.lines x [p] wrote s)

/-- What a lane's access has done to a state that held `mem`. -/
def AccReq.Did (r : AccReq) (row : AccessRow) (holds : (Nat → Byte) → State → Prop) (mem : Nat → Byte) (operand compare : Nat)
    (ps : List (Nat × Nat × Nat)) (m : Nat) (t : State) : Prop :=
  let done := laneAccess row mem operand compare ps
  holds done.2 t ∧ (r.op ≠ .store → m = done.1)

section Lane

variable {r : AccReq} {x : Ctx} {place : Piece → Nat × Nat × Nat} {ps qs : List Piece} {holds : (Nat → Byte) → State → Prop}
  {row : AccessRow} {mem : Nat → Byte} {s : State}

theorem AccReq.Backed.mono (h : r.Backed x place ps holds) (hq : ∀ p ∈ qs, p ∈ ps) : r.Backed x place qs holds where
  here p hp := h.here p (hq p hp)
  sample p hp := h.sample p (hq p hp)
  pos p hp := h.pos p (hq p hp)
  read p hp := h.read p (hq p hp)
  write p hp := h.write p (hq p hp)
  order := h.order
  lines p hp := h.lines p (hq p hp)

theorem AccReq.Backed.sample_foldl (h : r.Backed x place ps holds) (s : State) : ps.foldl Piece.sample s = s := by
  induction ps with
  | nil => rfl
  | cons p ps ih =>
    rw [List.foldl_cons, h.sample p (List.mem_cons_self ..)]
    exact ih (h.mono fun q hq => List.mem_cons_of_mem _ hq)

theorem AccReq.Backed.read_foldl (h : r.Backed x place ps holds) (hs : holds mem s) (n : Nat) :
    ps.foldl (fun n p => n + p.read s r.win.space * 2 ^ (8 * p.pos)) n = n + readSum mem (ps.map place) := by
  induction ps generalizing n with
  | nil => rfl
  | cons p ps ih =>
    have hp := List.mem_cons_self (a := p) (l := ps)
    rw [List.foldl_cons, ih (h.mono fun q hq => List.mem_cons_of_mem _ hq), h.read p hp mem s hs]
    simp only [readSum, List.map_cons, List.sum_cons, h.pos p hp, Nat.pow_mul, Nat.add_assoc]

theorem AccReq.Backed.write_foldl (h : r.Backed x place ps holds) (hs : holds mem s) (v : Nat) (who : Option Nat) :
    holds (writePieces mem v (ps.map place))
      (ps.foldl (fun s p => p.write s r.win.space (v / 2 ^ (8 * p.pos)) who) s) := by
  induction ps generalizing mem s with
  | nil => exact hs
  | cons p ps ih =>
    have hp := List.mem_cons_self (a := p) (l := ps)
    have hw := h.write p hp mem s (v / 2 ^ (8 * p.pos)) who hs
    rw [← h.pos p hp, Nat.pow_mul] at hw
    have := ih (h.mono fun q hq => List.mem_cons_of_mem _ hq) hw
    rw [List.foldl_cons, ← h.pos p hp, Nat.pow_mul]
    exact this

theorem AccReq.Backed.lines_foldl (h : r.Backed x place ps holds) (hs : holds mem s) (wrote : Bool) :
    holds mem (r.lines x ps wrote s) := by
  induction ps generalizing s with
  | nil => exact hs
  | cons p ps ih =>
    exact ih (h.mono fun q hq => List.mem_cons_of_mem _ hq) (h.lines p (List.mem_cons_self ..) mem s wrote hs)

variable (h : r.Backed x place ps holds) (hplain : r.checked x = false) (hop : row.op = r.op) (hsize : row.size = r.size)
include h hplain hop hsize

/-- A lane that races with nobody reads and writes through its pieces. -/
theorem AccReq.Backed.lane (hs : holds mem s) (hfit : readSum mem (ps.map place) < 2 ^ (8 * row.size))
    (l operand : Nat) {compare compare' : Nat} (hwrites : ∀ m x, m < 2 ^ (8 * row.size) →
      row.op.newValue row.size m x compare = row.writes m (x % 2 ^ (8 * row.size)) (compare' % 2 ^ (8 * row.size))) :
    ∃ m t, r.lane x s l operand compare ps [] = .ok (m, t, []) ∧
      r.Did row holds mem operand compare' (ps.map place) m t := by
  have hreads : r.op ≠ .store → r.reads ps s = readSum mem (ps.map place) := by
    intro hne
    have hsum := h.read_foldl hs 0
    rw [Nat.zero_add] at hsum
    unfold AccReq.reads
    split
    next hst => exact absurd hst hne
    next => exact hsum
  have hnew : r.op.newValue r.size (r.reads ps s) operand compare =
      row.writes (readSum mem (ps.map place)) (operand % 2 ^ (8 * row.size)) (compare' % 2 ^ (8 * row.size)) := by
    rw [← hwrites _ _ hfit, hop, hsize]
    by_cases hne : r.op = .store
    · rw [hne]; rfl
    · rw [hreads hne]
  have hu (me : Access) (wrote : Bool) : holds mem (r.lines x ps wrote
      (if r.acquires then s.acquireAt (threadOf me.thread) r.scope me.party (ps.flatMap Piece.spans) else s)) := by
    refine h.lines_foldl ?_ wrote
    split
    · exact h.order _ _ _ (sameButOrder_acquireAt ..) hs
    · exact hs
  refine ⟨_, _, AccReq.lane_plain (h.sample_foldl s) hplain h.here l operand compare, ?_⟩
  rw [hnew]
  cases hw : row.writes (readSum mem (ps.map place)) (operand % 2 ^ (8 * row.size)) (compare' % 2 ^ (8 * row.size)) with
  | none =>
    unfold AccReq.Did
    rw [laneAccess_none hw]
    exact ⟨hu _ _, hreads⟩
  | some v =>
    unfold AccReq.Did
    rw [laneAccess_some hw]
    exact ⟨h.order _ _ _ (sameButOrder_noteWrite ..) (h.write_foldl (hu _ _) v _), hreads⟩

/-- Lanes that race with nobody act one after the other (R191). -/
theorem AccReq.Backed.lanes {operand compare compare' : Nat → Nat} {places : Nat → List (Nat × Nat × Nat)} {ls : List Nat}
    (hwrites : ∀ l m x, m < 2 ^ (8 * row.size) → row.op.newValue row.size m x (compare l) =
      row.writes m (x % 2 ^ (8 * row.size)) (compare' l % 2 ^ (8 * row.size))) (hs : holds mem s)
    (hplaces : ∀ l ∈ ls, (ps.filter (fun p => p.lane == l)).map place = places l)
    (hfit : ∀ l ∈ ls, ∀ mem, readSum mem (places l) < 2 ^ (8 * row.size)) :
    ∃ got t, r.lanes x operand compare ps [] ls s = .ok (got, t) ∧
      holds (lanesAccess row operand compare' places ls mem).2 t ∧
      (r.op ≠ .store → got = (lanesAccess row operand compare' places ls mem).1) := by
  induction ls generalizing mem s with
  | nil => exact ⟨[], s, rfl, hs, fun _ => rfl⟩
  | cons l ls ih =>
    obtain ⟨hl, hls⟩ := List.forall_mem_cons.mp hplaces
    obtain ⟨hf, hfs⟩ := List.forall_mem_cons.mp hfit
    have hmine : r.Backed x place (ps.filter (fun p => p.lane == l)) holds := h.mono fun q hq => (List.mem_filter.mp hq).1
    obtain ⟨m, u, hlane, hu, hm⟩ := hmine.lane hplain hop hsize hs (hl ▸ hf mem) l (operand l) (hwrites l)
    rw [hl] at hu hm
    obtain ⟨got, t, hrest, ht, hgot⟩ := ih hu hls hfs
    refine ⟨(l, m) :: got, t, ?_, ht, fun hne => ?_⟩
    · simp only [AccReq.lanes, hlane, hrest]
    · rw [lanesAccess, hgot hne, hm hne]

end Lane

/-! ## The values that the lanes are given -/

section Given

variable {row : AccessRow} {operand compare : Nat → Nat} {places : Nat → List (Nat × Nat × Nat)} {ls : List Nat}
  {mem : Nat → Byte}

theorem laneAccess_fst (mem : Nat → Byte) (x c : Nat) (ps : List (Nat × Nat × Nat)) :
    (laneAccess row mem x c ps).1 = readSum mem ps := by
  cases h : row.writes (readSum mem ps) (x % 2 ^ (8 * row.size)) (c % 2 ^ (8 * row.size)) with
  | none => rw [laneAccess_none h]
  | some v => rw [laneAccess_some h]

theorem lanesAccess_lanes : (lanesAccess row operand compare places ls mem).1.map Prod.fst = ls := by
  induction ls generalizing mem with
  | nil => rfl
  | cons l ls ih => rw [lanesAccess, List.map_cons, ih]

theorem lanesAccess_lt (hfit : ∀ l ∈ ls, ∀ mem, readSum mem (places l) < 2 ^ (8 * row.size)) :
    ∀ e ∈ (lanesAccess row operand compare places ls mem).1, e.2 < 2 ^ (8 * row.size) := by
  induction ls generalizing mem with
  | nil => exact nofun
  | cons l ls ih =>
    obtain ⟨hf, hfs⟩ := List.forall_mem_cons.mp hfit
    refine List.forall_mem_cons.mpr ⟨?_, ih hfs⟩
    exact laneAccess_fst (row := row) .. ▸ hf mem

end Given

end Sys2Proof.Machine

/-! The body of an access, and its results on their way to V (R85, R177, R186, R188, R189). -/

namespace Sys2Proof.Machine

open Sys2Proof

/-! ## The body of an access (R177) -/

/-- What an access's values make of the state: stores and reductions give none. -/
def accessFinish (x : Ctx) (v : BitVec 7) (op : AccOp) (size : Nat) (got : List (Nat × Nat)) (t : State) : State :=
  match op with
  | .store | .reduce _ => t
  | _ => deliverAccess x v op size got t

/-- The agent that asks for an access's translations. -/
def accessAsker (x : Ctx) (op : AccOp) (win : Window) (s : State) : Asker :=
  { x.c.asker x.key x.st with
    waiter := if op.buffered && win.space != 2 then .logged s.nextUid else (x.c.asker x.key x.st).waiter }

/-- The request that an access makes through its window. -/
def accessReq (x : Ctx) (op : AccOp) (size : Nat) (nt : Bool) (o : BitVec 2) (win : Window) : AccReq :=
  { win := win, op := op, size := size, ord := orderOf x o, scope := scopeOf x win, nt := nt }

theorem logEntries_nil {r : AccReq} {x : Ctx} {s : State} {operand : Nat → Nat} {ps : List Piece}
    (h : ∀ p ∈ ps, p.isLate = false) : r.logEntries x s operand ps = [] := by
  have hlate : ps.filter Piece.isLate = [] := List.filter_eq_nil_iff.mpr fun p hp => by simp [h p hp]
  simp [AccReq.logEntries, hlate]

theorem switchOff_none {ls going : List Nat} (h : going = ls) (c : Consist) :
    c.switchOff (maskWhere (fun l => ls.contains l && !going.contains l)) = c := by
  have hmask : maskWhere (fun l => ls.contains l && !going.contains l) = 0 := by
    apply BitVec.eq_of_getLsbD_eq
    intro l hl
    rw [getLsbD_maskWhere _ l hl, h]
    simp
  rw [hmask, Consist.switchOff, if_pos rfl]

section Body

variable {op : AccOp} {size : Nat} {nt : Bool} {v a : BitVec 7} {h : BitVec 6} {o : BitVec 2} {x : Ctx} {s t : State}
  {win : Window} {ps : List Piece} {got : List (Nat × Nat)}

/-- An access that passes its checks, whose pieces are all there and whole, does what its lanes do. -/
theorem accessBody_ok (hact : x.act ≠ 0) (hhelp : op.isWrite = true → x.c.hmask &&& x.act = 0)
    (hcheck : checkAccess x h.toNat op.isWrite size (offOf x a) (lanesOf x.act) s = .val win s)
    (horder : orderOf x o < 2 ∨ s.logged x.key = false)
    (hinside : ∀ l ∈ lanesOf x.act, ∃ p ∈ startPieces win x s size (offOf x a) (lanesOf x.act), p.lane = l)
    (hreach : reach (accessAsker x op win s) (if op.isWrite then .write else .read) (op.buffered && win.space != 2) win.space
      (startPieces win x s size (offOf x a) (lanesOf x.act)) s = .val ps s)
    (hlanes : (accessReq x op size nt o win).lanes x (dataOf x v size) (fun l => (opVal x 0x70 false 0 0 l).toNat) ps []
      (lanesOf x.act) s = .ok (got, t))
    (hgot : op ≠ .store → got ≠ []) (hhere : ∀ p ∈ ps, p.isLate = false) (hgood : badLine s ps = .good)
    (hcorrect : ∀ who, correctPieces t ps who = t) :
    accessBody op size nt v a h o x s = .ok ((accessFinish x v op size got t).modConsist x.key (fun c => c)) := by
  have hnone : ∀ l ∈ lanesOf x.act, (op.isWrite && x.c.hmask.getLsbD l) = false := by
    intro l hl
    obtain ⟨hlt, ha⟩ := (mem_lanesOf _ _).mp hl
    cases hw : op.isWrite with
    | false => rfl
    | true =>
      have hbit := congrArg (BitVec.getLsbD · l) (hhelp hw)
      simpa [BitVec.getLsbD_and, ha] using hbit
  have hls : (lanesOf x.act).filter (fun l => !(op.isWrite && x.c.hmask.getLsbD l)) = lanesOf x.act :=
    List.filter_eq_self.mpr fun l hl => by simp [hnone l hl]
  have hhelped : (lanesOf x.act).filter (fun l => op.isWrite && x.c.hmask.getLsbD l) = [] :=
    List.filter_eq_nil_iff.mpr fun l hl => by simp [hnone l hl]
  have hne : lanesOf x.act ≠ [] := fun e => hact ((lanesOf_eq_nil _).mp e)
  have hgoing : (lanesOf x.act).filter (fun l => (startPieces win x s size (offOf x a) (lanesOf x.act)).any
      (fun p => p.lane == l)) = lanesOf x.act :=
    List.filter_eq_self.mpr fun l hl => by
      obtain ⟨p, hp, rfl⟩ := hinside l hl
      exact List.any_eq_true.mpr ⟨p, hp, by simp⟩
  have hwait : (decide (2 ≤ orderOf x o) && s.logged x.key) = false := by
    rcases horder with ho | ho
    · simp [Nat.not_le.mpr ho]
    · simp [ho]
  unfold accessBody
  dsimp only
  rw [hls, if_neg hne, hcheck]
  simp only [Got.andThen]
  rw [hwait, if_neg Bool.false_ne_true, hgoing]
  have hwho : (if (op.buffered && win.space != 2) = true then
      { x.c.asker x.key x.st with waiter := .logged s.nextUid } else x.c.asker x.key x.st) = accessAsker x op win s := by
    unfold accessAsker
    split <;> rfl
  unfold accessReq at hlanes
  rw [hwho, hreach]
  simp only [switchOff_none rfl]
  rw [hlanes]
  simp only [logEntries_nil hhere, hhelped, List.map_nil, List.append_nil, ne_eq, not_true_eq_false, false_and,
    if_true, if_false]
  cases op
  case store => rfl
  all_goals simp only [hgood, hcorrect, accessFinish]
  all_goals rw [List.append_nil, if_neg (hgot nofun)]

end Body

/-! ## Results on their way (R85, R186, R188, R189) -/

section Deliver

variable {s : State} {x : Ctx} {v : BitVec 7} {size n : Nat} {toQueue : Bool} {c d e : Consist}

/-- Where an access's results go. -/
def loadDest (v : BitVec 7) (size : Nat) (toQueue : Bool) (id : Nat) : Dest :=
  if toQueue then .queue v true id else .reg v (size == 16) true

/-- The slots of a lane, reserved. -/
def loadReserved (toQueue : Bool) (id : Nat) (c : Consist) (f : Nat × List Word) : Consist :=
  if toQueue then
    f.2.foldl (fun (c : Consist) _ => c.push .lq f.1 { val := 0, filled := false, id := id, clk := default }) c
  else c

/-- A lane's words on their way. -/
def loadItem (s : State) (x : Ctx) (v : BitVec 7) (size : Nat) (toQueue : Bool) (uid : Nat) (f : Nat × List Word) : Inflight :=
  { kind := .load, strm := x.st, lane := f.1, dest := loadDest v size toQueue s.nextUid, vals := f.2,
    clk := s.known (laneThread uid f.1 x.st) }

/-- A lane's slots are reserved, and its words are on their way. -/
def loadLaunched (s : State) (x : Ctx) (v : BitVec 7) (size : Nat) (toQueue : Bool) (c : Consist) (f : Nat × List Word) :
    Consist :=
  let d := loadReserved toQueue s.nextUid c f
  { d with inflight := d.inflight ++ [loadItem s x v size toQueue d.uid f] }

theorem deliverAccess_eq {op : AccOp} {got : List (Nat × Nat)} (h : s.consist? x.key = some c)
    (hq : writeQueue x.st (codeOf x.st v) = if toQueue then some .lq else none) :
    deliverAccess x v op size got s = { s.setConsist x.key ((got.map (fun e => (e.1, deliverWords op size toQueue e.2))).foldl
      (loadLaunched s x v size toQueue) c) with nextUid := s.nextUid + 1 } := by
  unfold deliverAccess
  dsimp only
  rw [State.modConsist_eq h, hq, List.foldl_map]
  cases toQueue <;> rfl

/-- Consist `c` becomes `d` when the words `vals` of an access leave, of `n` words each in the queue. -/
structure LoadLaunch (x : Ctx) (v : BitVec 7) (size n : Nat) (toQueue : Bool) (id : Nat) (vals : List (Nat × List Word))
    (c d : Consist) : Prop where
  same : d = { c with lq := d.lq, xqAC := d.xqAC, xqCA := d.xqCA, sq := d.sq, inflight := d.inflight }
  sent : ∃ new, d.inflight = c.inflight ++ new ∧ new.map (fun f => (f.lane, f.vals)) = vals ∧
    ∀ f ∈ new, f.kind = .load ∧ f.strm = x.st ∧ f.dest = loadDest v size toQueue id
  queues : ∀ q j, ∃ new, d.queueOf q j = c.queueOf q j ++ new ∧ Entries (fun e _ => e.filled = false ∧ e.id = id) new
    (if toQueue = true ∧ q = .lq ∧ j ∈ vals.map Prod.fst ∧ c.deaf .lq j = false then List.replicate n 0 else [])

variable {id : Nat} {f : Nat × List Word} {vals : List (Nat × List Word)}

theorem loadReserved_same : c.SameButQueues (loadReserved toQueue id c f) := by
  unfold loadReserved
  split
  · exact sameButQueues_pushes .lq f.1 (fun _ _ => QEntry.mk 0 false id default) f.2 c
  · rfl

theorem loadReserved_pushes : Pushes (fun e _ => e.filled = false ∧ e.id = id) .lq f.1 f.2 c (loadReserved true id c f) :=
  pushes_words _ .lq f.1 (fun _ _ => QEntry.mk 0 false id default) (fun _ _ => ⟨rfl, rfl⟩) f.2 c

theorem LoadLaunch.nil : LoadLaunch x v size n toQueue id [] c c :=
  ⟨rfl, ⟨[], (List.append_nil _).symm, rfl, nofun⟩, fun _ _ => ⟨[], (List.append_nil _).symm, by simpa using .nil _⟩⟩

/-- One lane reserves its slots and sends its words. -/
theorem LoadLaunch.one (hf : toQueue = true → f.2.length = n) :
    LoadLaunch x v size n toQueue s.nextUid [f] c (loadLaunched s x v size toQueue c f) := by
  have hsame := loadReserved_same (toQueue := toQueue) (id := s.nextUid) (c := c) (f := f)
  unfold Consist.SameButQueues at hsame
  have hqueue (q : Queue) (j : Nat) : (loadLaunched s x v size toQueue c f).queueOf q j =
      (loadReserved toQueue s.nextUid c f).queueOf q j := Consist.queueOf_congr _ _ rfl rfl rfl rfl
  refine ⟨?_, ⟨[loadItem s x v size toQueue c.uid f], ?_, rfl, fun g hg => ?_⟩, fun q j => ?_⟩
  · unfold loadLaunched
    rw [hsame]
  · unfold loadLaunched
    rw [hsame]
  · obtain rfl := List.mem_singleton.mp hg
    exact ⟨rfl, rfl, rfl⟩
  · rw [hqueue]
    by_cases h : toQueue = true ∧ q = .lq ∧ j = f.1
    · obtain ⟨rfl, rfl, rfl⟩ := h
      obtain ⟨new, hnew, hent⟩ := (loadReserved_pushes (id := s.nextUid) (c := c) (f := f)).new
      refine ⟨new, hnew, hent.of_length ?_⟩
      cases c.deaf .lq f.1 <;> simp [hf rfl]
    · rw [if_neg (fun e => h ⟨e.1, e.2.1, by simpa using e.2.2.1⟩)]
      refine ⟨[], ?_, .nil _⟩
      rw [List.append_nil]
      cases toQueue with
      | false => rfl
      | true => exact loadReserved_pushes.other q j (fun e => h ⟨rfl, e⟩)

/-- Lanes that send one after the other. -/
theorem LoadLaunch.cons (h : LoadLaunch x v size n toQueue id [f] c d) (k : LoadLaunch x v size n toQueue id vals d e)
    (hf : f.1 ∉ vals.map Prod.fst) : LoadLaunch x v size n toQueue id (f :: vals) c e := by
  obtain ⟨n1, hn1, hl1, hf1⟩ := h.sent
  obtain ⟨n2, hn2, hl2, hf2⟩ := k.sent
  refine ⟨?_, ⟨n1 ++ n2, by rw [hn2, hn1, List.append_assoc], ?_, fun g hg => ?_⟩, fun q j => ?_⟩
  · rw [k.same, h.same]
  · rw [List.map_append, hl1, hl2]
    rfl
  · exact (List.mem_append.mp hg).elim (hf1 g) (hf2 g)
  · have hdeaf : d.deaf .lq j = c.deaf .lq j := by apply Consist.deaf_congr <;> rw [h.same]
    obtain ⟨m1, hm1, he1⟩ := h.queues q j
    obtain ⟨m2, hm2, he2⟩ := k.queues q j
    rw [hm2, hm1, List.append_assoc]
    refine ⟨m1 ++ m2, rfl, ?_⟩
    rw [hdeaf] at he2
    by_cases hj : j = f.1
    · subst hj
      rw [if_neg (fun e => hf e.2.2.1)] at he2
      obtain rfl := List.eq_nil_of_length_eq_zero he2.1
      simpa using he1
    · rw [if_neg (fun e => hj (by simpa using e.2.2.1))] at he1
      obtain rfl := List.eq_nil_of_length_eq_zero he1.1
      have hmem : j ∈ (f :: vals).map Prod.fst ↔ j ∈ vals.map Prod.fst := by simp [hj]
      simpa only [hmem, List.nil_append] using he2

/-- What the words of different lanes make of their consist. -/
theorem loadLaunch_foldl (hn : (vals.map Prod.fst).Nodup) (hv : toQueue = true → ∀ f ∈ vals, f.2.length = n) (c : Consist) :
    LoadLaunch x v size n toQueue s.nextUid vals c (vals.foldl (loadLaunched s x v size toQueue) c) := by
  induction vals generalizing c with
  | nil => exact .nil
  | cons f vals ih =>
    rw [List.map_cons] at hn
    obtain ⟨hf, hn⟩ := List.nodup_cons.mp hn
    exact .cons (.one fun hq => hv hq f (List.mem_cons_self ..))
      (ih hn (fun hq g hg => hv hq g (List.mem_cons_of_mem _ hg)) _) hf

theorem deliverWords_length (op : AccOp) (size : Nat) (m : Nat) : (deliverWords op size true m).length = (size + 3) / 4 := by
  simp [deliverWords]

theorem accessFinish_of_not_gives {op : AccOp} {got : List (Nat × Nat)} (h : op.gives = false) :
    accessFinish x v op size got s = s := by
  cases op with
  | store | reduce => rfl
  | load | atomic | cas => cases h

theorem accessFinish_of_gives {op : AccOp} {got : List (Nat × Nat)} (h : op.gives = true) :
    accessFinish x v op size got s = deliverAccess x v op size got s := by
  cases op with
  | store | reduce => cases h
  | load | atomic | cas => rfl

/-- The end of an access's body: its consist sends what the lanes were given, and nothing else changes. -/
theorem accessFinish_launches {op : AccOp} {got : List (Nat × Nat)} (hc : s.consist? x.key = some c)
    (hq : op.gives = true → writeQueue x.st (codeOf x.st v) = if toQueue then some .lq else none)
    (hlanes : op.gives = true → (got.map Prod.fst).Nodup) :
    ∃ d, ((accessFinish x v op size got s).modConsist x.key (fun c => c)).consist? x.key = some d ∧
      LoadLaunch x v size ((size + 3) / 4) toQueue s.nextUid
        (if op.gives then got.map (fun e => (e.1, deliverWords op size toQueue e.2)) else []) c d ∧
      s.Keeps x.key ((accessFinish x v op size got s).modConsist x.key (fun c => c)) ∧
      ((accessFinish x v op size got s).modConsist x.key (fun c => c)).mem = s.mem := by
  cases hop : op.gives with
  | false =>
    rw [accessFinish_of_not_gives hop, State.modConsist_eq hc]
    exact ⟨c, State.consist?_setConsist_same .., .nil, State.keeps_setConsist .., rfl⟩
  | true =>
    have hfold := loadLaunch_foldl (s := s) (x := x) (v := v) (size := size) (n := (size + 3) / 4) (toQueue := toQueue)
      (vals := got.map (fun e => (e.1, deliverWords op size toQueue e.2)))
      (by rw [List.map_map]; exact hlanes hop)
      (fun hq => hq ▸ List.forall_mem_map.mpr fun e _ => deliverWords_length op size e.2) c
    rw [accessFinish_of_gives hop, deliverAccess_eq hc (hq hop)]
    generalize (got.map (fun e => (e.1, deliverWords op size toQueue e.2))).foldl (loadLaunched s x v size toQueue) c = d at hfold
    have hd : ({ s.setConsist x.key d with nextUid := s.nextUid + 1 } : State).consist? x.key = some d :=
      State.consist?_setConsist_same ..
    have hsent : s.Keeps x.key { s.setConsist x.key d with nextUid := s.nextUid + 1 } :=
      .trans (State.keeps_setConsist s x.key d) (.of_eq rfl fun _ _ => rfl)
    rw [State.modConsist_eq hd]
    exact ⟨d, State.consist?_setConsist_same .., hfold,
      hsent.trans (State.keeps_setConsist ..), rfl⟩

end Deliver

/-- What a completed access leaves of its consist `c`, which `vals` have been sent for. -/
def AccessDone (o : OpInfo) (x : Ctx) (v : BitVec 7) (size : Nat) (gives toQueue : Bool) (id : Nat)
    (vals : List (Nat × List Word)) (c : Consist) : Prop :=
  x.c.Keeps c ∧ c.vregs = x.c.vregs ∧ c.aregs = x.c.aregs ∧ c.sregs = x.c.sregs ∧ c.csw = x.c.csw ∧
    c.strm x.st.other = x.c.strm x.st.other ∧ StreamSt.Passed o x.run (x.c.strm x.st) (c.strm x.st) ∧
    QueuesMove o x (slotsFor x toQueue ((size + 3) / 4)) (fun e _ => e.filled = false ∧ e.id = id) x.c c ∧
    (gives = false → c.inflight = x.c.inflight) ∧
    (gives = true → ∃ new, c.inflight = x.c.inflight ++ new ∧ new.map (fun f => (f.lane, f.vals)) = vals ∧
      ∀ f ∈ new, f.kind = .load ∧ f.strm = x.st ∧ f.dest = loadDest v size toQueue id)

/-- The law of an access whose lanes have left the state `t`. -/
theorem issue_access {w : Word} {info : OpInfo} {s t : State} {x : Ctx} {v : BitVec 7} {op : AccOp} {size : Nat}
    {toQueue : Bool} {got : List (Nat × Nat)} {body : Ctx → State → Eff} (h : Issues w info s x)
    (ht : info.transfer = false)
    (hbody : body x (learnPops info x s) = .ok ((accessFinish x v op size got t).modConsist x.key (fun c => c)))
    (hc : t.consist? x.key = some x.c) (hid : t.nextUid = s.nextUid)
    (hq : op.gives = true → writeQueue x.st (codeOf x.st v) = if toQueue then some .lq else none)
    (hnone : op.gives = false → toQueue = false) (hlanes : op.gives = true → got.map Prod.fst = lanesOf x.act) :
    ∃ T c, issue w info body s = .next T ∧ T.consist? x.key = some c ∧
      AccessDone info x v size op.gives toQueue s.nextUid (got.map (fun e => (e.1, deliverWords op size toQueue e.2))) c ∧
      (switchIn x t).Keeps x.key T ∧ T.mem = t.mem := by
  obtain ⟨d, hd, hlaunch, hkeep, hmem⟩ := accessFinish_launches (size := size) hc hq
    (fun hg => hlanes hg ▸ lanesOf_nodup x.act)
  generalize (accessFinish x v op size got t).modConsist x.key (fun c => c) = u at hbody hd hkeep hmem
  obtain ⟨c, hcons, hret, hkeep'⟩ := retire_retires (o := info) hd
  have hstrm : ∀ st, d.strm st = x.c.strm st := fun st => by rw [hlaunch.same]; cases st <;> rfl
  obtain ⟨new, hnew, hvals, hitems⟩ := hlaunch.sent
  refine ⟨_, c, issue_ok h hbody, hcons, ⟨?_, ?_, ?_, ?_, ?_, ?_, ?_, ?_, fun hg => ?_, fun hg => ⟨new, ?_, ?_, ?_⟩⟩,
    hkeep.switchIn.trans hkeep', ?_⟩
  · have hk := hret.keeps
    unfold Consist.Keeps at hk ⊢
    rw [hk, hlaunch.same]
  · rw [hret.vregs, hlaunch.same]
  · rw [hret.aregs, hlaunch.same]
  · rw [hret.sregs, hlaunch.same]
  · rw [hret.csw, hlaunch.same]
  · rw [hret.other, hstrm]
  · exact hstrm x.st ▸ hret.passed ht
  · refine queuesMove_of h (fun q j hj => ?_) hret.pops
    obtain ⟨m, hm, hent⟩ := hlaunch.queues q j
    refine ⟨m, hm, ?_⟩
    rw [hid] at hent
    cases hg : op.gives with
    | false => simpa [slotsFor, hnone hg] using hent
    | true =>
      rw [hg, if_pos rfl, List.map_map] at hent
      rw [show (Prod.fst ∘ fun e : Nat × Nat => (e.1, deliverWords op size toQueue e.2)) = Prod.fst from rfl, hlanes hg] at hent
      simpa [slotsFor, mem_lanesOf, hj] using hent
  · rw [hg] at hvals
    obtain rfl := List.map_eq_nil_iff.mp hvals
    rw [hret.inflight, hnew, List.append_nil]
  · rw [hret.inflight, hnew]
  · rw [hvals, hg, if_pos rfl]
  · exact hid ▸ hitems
  · obtain ⟨-, -, -, -, -, -, -, hretire⟩ := retire_spec info x (switchIn x u) d (by rw [consist?_switchIn, hd])
    rw [hretire, switchIn_eq]
    exact hmem

end Sys2Proof.Machine

/-! Accesses to LP6 DRAM: their lines, their bytes and their pieces (R177, R179, R184, R331). -/

namespace Sys2Proof.Machine

open Sys2Proof

/-! ## Accesses to memory (R184, R331) -/

/-- Of two states only memory below 2^40, write grants, lines and what keeps order differ. -/
def State.SameButMemory (s t : State) : Prop :=
  t = { s with mem := t.mem, grants := t.grants, lines := t.lines, texLines := t.texLines, clocks := t.clocks,
               engineClocks := t.engineClocks, syncs := t.syncs, spSyncs := t.spSyncs }

/-- Of two states only the lines of cores differ. -/
def State.SameButLines (s t : State) : Prop := t = { s with lines := t.lines }

namespace State.SameButMemory

variable {s t u : State}

theorem trans (h : s.SameButMemory t) (k : t.SameButMemory u) : s.SameButMemory u := by
  unfold State.SameButMemory at *
  rw [h] at k
  exact k

theorem of_order (h : s.SameButOrder t) : s.SameButMemory t := by
  unfold State.SameButMemory
  rw [h]

theorem of_lines (h : s.SameButLines t) : s.SameButMemory t := by
  unfold State.SameButMemory
  rw [h]

theorem sound (h : s.SameButMemory t) (hs : s.sound) : t.sound := by
  rw [h]
  exact hs

theorem consist? (h : s.SameButMemory t) (k : Nat) : t.consist? k = s.consist? k := by rw [h]; rfl

theorem nextUid (h : s.SameButMemory t) : t.nextUid = s.nextUid := by rw [h]

/-- Nothing else of the part has changed. -/
theorem keeps (h : s.SameButMemory t) (key : Nat) :
    ({ s with mem := t.mem, grants := t.grants, lines := t.lines, texLines := t.texLines } : State).Keeps key t := by
  rw [h]
  constructor <;> intros <;> rfl

end State.SameButMemory

namespace State.SameButLines

variable {s t u : State}

theorem refl (s : State) : s.SameButLines s := rfl

theorem trans (h : s.SameButLines t) (k : t.SameButLines u) : s.SameButLines u := by
  unfold State.SameButLines at *
  rw [h] at k
  exact k

theorem sound (h : s.SameButLines t) (hs : s.sound) : t.sound := by
  rw [h]
  exact hs

theorem byte (h : s.SameButLines t) (b : Nat) : t.byte b = s.byte b := by rw [h]; rfl

theorem foldl {α : Type} {f : State → α → State} (hf : ∀ (s : State) (a : α), s.sound → s.SameButLines (f s a)) (l : List α)
    {s : State} (h : s.sound) : s.SameButLines (l.foldl f s) := by
  induction l generalizing s with
  | nil => exact refl s
  | cons a l ih => exact (hf s a h).trans (ih ((hf s a h).sound h))

end State.SameButLines

section Lines

variable {s : State} (h : s.sound)
include h

/-- A line without an error leaves a cache, and nothing else happens (R386). -/
theorem State.sound.sameButLines_evictLine (core l : Nat) : s.SameButLines (s.evictLine core l) := by
  unfold State.evictLine
  simp only [h.corrupt_line l]
  rw [if_pos (Or.inr (Or.inl (by decide)))]
  rfl

theorem State.sound.sameButLines_bringLine (core l : Nat) (c : CacheLine) : s.SameButLines (s.bringLine core l c) := by
  unfold State.bringLine
  generalize ((tget s.lines core).filter _).map _ = mates
  have hroom : s.SameButLines (if c.stash.isSome ∨ mates.length < s.l1Ways core (l % 128) then s
      else match mates[s.free.toNat % mates.length]? with
        | some m => s.evictLine core m
        | none => s) := by
    split
    · rfl
    · split
      · exact h.sameButLines_evictLine ..
      · rfl
  dsimp only
  generalize (if c.stash.isSome ∨ mates.length < s.l1Ways core (l % 128) then s
      else match mates[s.free.toNat % mates.length]? with
        | some m => s.evictLine core m
        | none => s) = u at hroom
  have hline : s.SameButLines (u.setLines core (tset (tget u.lines core) l (some c))) := hroom.trans rfl
  rw [if_neg]
  · exact hline
  · rw [(hline.sound h).armedFor]
    simp

theorem State.sound.sameButLines_useLines (core a n : Nat) (keep : Keep) (wrote : Bool) :
    s.SameButLines (s.useLines core a n keep wrote) := by
  unfold State.useLines
  refine .foldl (fun s l h => ?_) _ h
  split
  · rfl
  · rfl
  · exact h.sameButLines_bringLine ..
  · exact h.sameButLines_bringLine ..
  · rfl

/-- A write below 2^40 changes memory, grants and copies alone. -/
theorem State.sound.sameButMemory_writeNat {a n v : Nat} (hend : a + n ≤ 2 ^ 40) (who : Option Nat) :
    s.SameButMemory (s.writeNat a n v who) := by
  unfold State.writeNat State.write
  rw [setBytes_eq _ s a (by rwa [leBytes_length]), leBytes_length]
  split
  · rfl
  · have hquiet : s.SameButMemory (({ s with mem := writeBytes s.mem a (leBytes n v) }.grantAt a n).dropCopies a n who) := by
      unfold State.grantAt
      dsimp only
      split <;> rfl
    rwa [(hquiet.sound h).injectAt]

/-- Nothing is corrected where nothing is wrong (R386). -/
theorem State.sound.correctPieces (ps : List Piece) (who : Option Nat) : correctPieces s ps who = s := by
  induction ps with
  | nil => rfl
  | cons p ps ih =>
    have hone : (match p.spot with
        | .mem a => if a < 2 ^ 40 then s.readDone a p.len who else s
        | _ => s) = s := by
      split
      · rw [h.readDone, ite_self]
      · rfl
    unfold Machine.correctPieces at ih ⊢
    rw [List.foldl_cons]
    exact (congrArg (List.foldl _ · ps) hone).trans ih

end Lines

/-- Bytes of LP6 DRAM after a number was written. -/
theorem byte_writeNat {s : State} {a n v : Nat} (hend : a + n ≤ 2 ^ 40) (who : Option Nat) (b : Nat) :
    (s.writeNat a n v who).byte b = memoryWith s.byte a n v b := by
  rw [State.writeNat, byte_write, setBytes_eq _ s a (by rwa [leBytes_length]), State.byte]
  split
  next hb =>
    rw [tget_writeBytes_leBytes (mem := fun b => tget s.mem b) (fun _ => rfl)]
    unfold memoryWith
    split
    · rfl
    · exact (if_pos hb).symm
  next hb =>
    unfold memoryWith
    rw [if_neg (by omega), State.byte, if_neg hb]

/-- Where a piece in memory stands. -/
def memPlace (p : Piece) : Nat × Nat × Nat := (placed p).getD default

/-- Does a piece stand in LP6 DRAM? -/
def Piece.InDram (p : Piece) : Prop := ∃ b, p.spot = .mem b ∧ b + p.len ≤ 2 ^ 40 ∧ 0 < p.len

/-- The states of an access to memory that started at `s`. -/
def State.HoldsMemory (s : State) (mem : Nat → Byte) (t : State) : Prop := s.SameButMemory t ∧ ∀ b, t.byte b = mem b

theorem backed_memory {r : AccReq} {x : Ctx} {ps : List Piece} {s : State} (hs : s.sound) (hps : ∀ p ∈ ps, p.InDram) :
    r.Backed x memPlace ps s.HoldsMemory where
  here p hp := by
    obtain ⟨b, hb, -, -⟩ := hps p hp
    rw [Piece.isLate, hb]
  sample p hp t := by
    obtain ⟨b, hb, -, -⟩ := hps p hp
    rw [Piece.sample, hb]
  pos p hp := by
    obtain ⟨b, hb, -, -⟩ := hps p hp
    rw [memPlace, placed, hb]
    rfl
  read p hp mem t ht := by
    obtain ⟨b, hb, hend, hlen⟩ := hps p hp
    simp only [Piece.read, memPlace, placed, hb, Option.getD_some]
    rw [if_neg (by omega), word_eq_numberAt ht.2]
  write p hp mem t v who ht := by
    obtain ⟨b, hb, hend, hlen⟩ := hps p hp
    simp only [Piece.write, memPlace, placed, hb, Option.getD_some]
    rw [if_neg (by omega)]
    refine ⟨ht.1.trans ((ht.1.sound hs).sameButMemory_writeNat hend who), fun j => ?_⟩
    rw [byte_writeNat hend, show t.byte = mem from funext ht.2]
  order mem t u hu ht := by
    refine ⟨ht.1.trans (.of_order hu), fun b => ?_⟩
    rw [← ht.2 b, hu]
    rfl
  lines p hp mem t wrote ht := by
    obtain ⟨b, hb, hend, hlen⟩ := hps p hp
    simp only [AccReq.lines, List.foldl_cons, List.foldl_nil, hb]
    rw [if_pos (by omega)]
    have hlines := (ht.1.sound hs).sameButLines_useLines (coreOf x.key) b p.len (r.keep x t p) wrote
    exact ⟨ht.1.trans (.of_lines hlines), fun j => (hlines.byte j).trans (ht.2 j)⟩

/-! ## The pieces of the lanes (R177, R179) -/

/-- What translation leaves of a piece. -/
def Piece.shape (p : Piece) : Nat × Nat × Nat := (p.lane, p.len, p.pos)

/-- Translation gives each piece a place, and leaves its lane, position and length. -/
theorem shape_reach {who : Asker} {k : AccKind} {buffered : Bool} {space : Nat} {ps qs : List Piece} {s t : State}
    (h : reach who k buffered space ps s = .val qs t) : qs.map Piece.shape = ps.map Piece.shape := by
  induction ps generalizing s qs t with
  | nil =>
    obtain ⟨rfl, -⟩ := Got.val.inj h
    rfl
  | cons p ps ih =>
    have key : ∀ {spot : Spot} {u : State},
        (reach who k buffered space ps u).bind (fun l s => .val ({ p with spot := spot } :: l) s) = .val qs t →
        qs.map Piece.shape = (p :: ps).map Piece.shape := by
      intro spot u hbind
      obtain ⟨l, w, hl, hval⟩ := Got.bind_eq_val hbind
      obtain ⟨rfl, -⟩ := Got.val.inj hval
      rw [List.map_cons, List.map_cons, ih hl]
      rfl
    unfold reach at h
    split at h
    · exact key (spot := p.spot) h
    · split at h
      · cases h
      · split at h
        · exact key h
        · split at h
          · split at h
            · cases h
            · exact key h
          · split at h
            · exact key h
            · split at h
              · cases h
              · split at h <;> cases h

/-- The pieces of one lane before translation. -/
def lanePieces (w : Window) (x : Ctx) (s : State) (size : Nat) (off : Nat → Nat) (l : Nat) : List Piece :=
  match w.kind with
  | .pad | .train =>
    match w.inPad s x.c (off l) size with
    | some (conv, o) => [{ lane := l, pos := 0, va := 0, len := size, spot := .pad conv o }]
    | none => []
  | _ => (w.vas x.c l (off l) size).map (fun p => { lane := l, pos := p.1, va := p.2.1, len := p.2.2, spot := .late none })

theorem startPieces_eq (w : Window) (x : Ctx) (s : State) (size : Nat) (off : Nat → Nat) (ls : List Nat) :
    startPieces w x s size off ls = ls.flatMap (lanePieces w x s size off) := rfl

section Pieces

variable {w : Window} {x : Ctx} {s : State} {size : Nat} {off : Nat → Nat} {ls : List Nat} {l : Nat}

theorem vas_shapes (c : Consist) (l o : Nat) (hsize : size ∈ [1, 2, 4, 8, 16]) :
    Tiles ((w.vas c l o size).map (fun p => (p.2.2, p.1))) 0 size ∧ ∀ p ∈ w.vas c l o size, 0 < p.2.2 := by
  simp only [List.mem_cons, List.not_mem_nil, or_false] at hsize
  unfold Window.vas
  split
  · rcases hsize with rfl | rfl | rfl | rfl | rfl <;> simp [Tiles, List.range_succ]
  · rcases hsize with rfl | rfl | rfl | rfl | rfl <;> simp [Tiles]

/-- A lane's pieces are its own, follow one another over the access, and are not empty. -/
theorem lanePieces_shapes (l : Nat) (hsize : size ∈ [1, 2, 4, 8, 16]) :
    (∀ p ∈ lanePieces w x s size off l, p.lane = l ∧ 0 < p.len) ∧
      (lanePieces w x s size off l = [] ∨ Tiles ((lanePieces w x s size off l).map (fun p => (p.len, p.pos))) 0 size) := by
  have hpos : 0 < size := Nat.pos_of_ne_zero fun e => by simp [e] at hsize
  obtain ⟨htiles, hlens⟩ := vas_shapes (w := w) x.c l (off l) hsize
  unfold lanePieces
  split
  · split
    · exact ⟨by simpa using hpos, .inr ⟨rfl, Nat.zero_add _⟩⟩
    · exact ⟨nofun, .inl rfl⟩
  · split
    · exact ⟨by simpa using hpos, .inr ⟨rfl, Nat.zero_add _⟩⟩
    · exact ⟨nofun, .inl rfl⟩
  · refine ⟨fun p hp => ?_, .inr ?_⟩
    · obtain ⟨q, hq, rfl⟩ := List.mem_map.mp hp
      exact ⟨rfl, hlens q hq⟩
    · rw [List.map_map]
      exact htiles

/-- The pieces of a lane, taken from those of different lanes. -/
theorem filter_flatMap_lane {f : Nat → List Piece} (hf : ∀ k, ∀ p ∈ f k, p.lane = k) (hn : ls.Nodup) (hl : l ∈ ls) :
    (ls.flatMap f).filter (fun p => p.lane == l) = f l := by
  induction ls with
  | nil => cases hl
  | cons k ls ih =>
    obtain ⟨hk, hn⟩ := List.nodup_cons.mp hn
    rw [List.flatMap_cons, List.filter_append]
    by_cases hkl : k = l
    · subst hkl
      have hrest : (ls.flatMap f).filter (fun p => p.lane == k) = [] := by
        refine List.filter_eq_nil_iff.mpr fun p hp => ?_
        obtain ⟨j, hj, hpj⟩ := List.mem_flatMap.mp hp
        have hne : j ≠ k := fun e => hk (e ▸ hj)
        simpa [hf j p hpj] using hne
      rw [hrest, List.append_nil]
      exact List.filter_eq_self.mpr fun p hp => by simp [hf k p hp]
    · have hfirst : (f k).filter (fun p => p.lane == l) = [] :=
        List.filter_eq_nil_iff.mpr fun p hp => by simpa [hf k p hp] using hkl
      rw [hfirst, List.nil_append]
      exact ih hn ((List.mem_cons.mp hl).resolve_left (Ne.symm hkl))

end Pieces

/-- Translated pieces have the shapes of the lanes' pieces, lane by lane. -/
theorem shapes_reached {w : Window} {x : Ctx} {s : State} {size : Nat} {off : Nat → Nat} {ps : List Piece}
    (hsize : size ∈ [1, 2, 4, 8, 16])
    (h : ps.map Piece.shape = (startPieces w x s size off (lanesOf x.act)).map Piece.shape) :
    (∀ p ∈ ps, 0 < p.len) ∧ ∀ l ∈ lanesOf x.act, ps.filter (fun p => p.lane == l) = [] ∨
      Tiles ((ps.filter (fun p => p.lane == l)).map (fun p => (p.len, p.pos))) 0 size := by
  rw [startPieces_eq] at h
  refine ⟨fun p hp => ?_, fun l hl => ?_⟩
  · have hmem : p.shape ∈ ((lanesOf x.act).flatMap (lanePieces w x s size off)).map Piece.shape :=
      h ▸ List.mem_map_of_mem hp
    obtain ⟨q, hq, hshape⟩ := List.mem_map.mp hmem
    obtain ⟨l, -, hql⟩ := List.mem_flatMap.mp hq
    have hlen : q.len = p.len := congrArg (fun e => e.2.1) hshape
    exact hlen ▸ ((lanePieces_shapes l hsize).1 q hql).2
  · have hmine : (ps.filter (fun p => p.lane == l)).map Piece.shape = (lanePieces w x s size off l).map Piece.shape := by
      rw [← filter_flatMap_lane (fun k p hp => ((lanePieces_shapes k hsize).1 p hp).1) (lanesOf_nodup x.act) hl]
      have hfilter := congrArg (List.filter (fun e => e.1 == l)) h
      rw [List.filter_map, List.filter_map] at hfilter
      exact hfilter
    rcases (lanePieces_shapes (w := w) (x := x) (s := s) (off := off) l hsize).2 with hnil | htiles
    · rw [hnil] at hmine
      exact .inl (List.map_eq_nil_iff.mp hmine)
    · have hpair := congrArg (List.map Prod.snd) hmine
      rw [List.map_map, List.map_map] at hpair
      exact .inr (hpair ▸ htiles)

end Sys2Proof.Machine

/-! Accesses to memory complete (R186 to R191). -/

namespace Sys2Proof.Machine

open Sys2Proof

/-! ## Accesses complete -/

/-- The operand fields of an access give V to the queue LQ, or to no queue. -/
theorem writeQueue_of_gives {w : Word} {op : AccOp} {size : Nat} {v a : BitVec 7} {o : BitVec 2} {s : State} {x : Ctx}
    (h : Issues w (accessInfo op size v a o s) s x) (hg : op.gives = true) :
    writeQueue x.st (codeOf x.st v) = if codeOf x.st v == .lq then some .lq else none := by
  have hload : ∀ n, useOk x.c x.st (.load n) v = true →
      writeQueue x.st (codeOf x.st v) = if codeOf x.st v == .lq then some .lq else none := by
    intro n hok
    cases hv : codeOf x.st v with
    | a | z | lq => rfl
    | _ => simp [useOk, hv] at hok
  have hatomic : useOk x.c x.st .atomic v = true →
      writeQueue x.st (codeOf x.st v) = if codeOf x.st v == .lq then some .lq else none := by
    intro hok
    cases hv : codeOf x.st v with
    | a | z => rfl
    | _ => simp [useOk, hv] at hok
  cases op with
  | store | reduce => cases hg
  | load => exact hload size (useOk_of_checked h.checked (List.mem_cons_self ..))
  | atomic | cas => exact hatomic (useOk_of_checked h.checked (List.mem_cons_self ..))

/-- Given the words that a row's values make, the lanes' values are sent as they are. -/
theorem words_given {r : AccessRow} {v a : BitVec 7} {h : BitVec 6} {o : BitVec 2} (hr : r.Says v a h o) {got : List (Nat × Nat)}
    (hgot : ∀ e ∈ got, e.2 < 2 ^ (8 * r.size)) (toQueue : Bool) :
    got.map (fun e => (e.1, deliverWords r.op r.size toQueue e.2)) = got.map (fun e => (e.1, givenWords r toQueue e.2)) :=
  List.map_congr_left fun e he => by rw [hr.words (hgot e he)]

section Row

variable {r : AccessRow} {v a : BitVec 7} {h : BitVec 6} {o : BitVec 2} {s t : State} {x : Ctx} {win : Window}
  {ps : List Piece} {got : List (Nat × Nat)} {vals : List (Nat × Nat)} {nt : Bool}

/-- The word of a row issues the body of its access. -/
theorem AccessRow.Says.issues (hr : r.Says v a h o) {u : Word} (hu : encode r.instr = some u) : ∃ nt, ∀ s,
    exec r.instr s = issue u (accessInfo r.op r.size v a o s) (accessBody r.op r.size nt v a h o) s := by
  obtain ⟨maj, fn, hu', hexec⟩ := hr.issued
  obtain rfl := Option.some.inj (hu'.symm.trans hu)
  exact ⟨_, hexec⟩

/-- An access whose checks pass and whose lanes leave the state `t` completes. -/
theorem AccessRow.Says.completes (hr : r.Says v a h o) {u : Word}
    (hexec : exec r.instr s = issue u (accessInfo r.op r.size v a o s) (accessBody r.op r.size nt v a h o) s)
    (hissue : Issues u (accessInfo r.op r.size v a o s) s x)
    (hbody : accessBody r.op r.size nt v a h o x (learnPops (accessInfo r.op r.size v a o s) x s) =
      .ok ((accessFinish x v r.op r.size (got) t).modConsist x.key (fun c => c)))
    (hc : t.consist? x.key = some x.c) (hid : t.nextUid = s.nextUid) (hgot : r.gives = true → got = vals)
    (hlanes : vals.map Prod.fst = lanesOf x.act) (hlt : ∀ e ∈ vals, e.2 < 2 ^ (8 * r.size)) :
    ∃ T c, exec r.instr s = .next T ∧ T.consist? x.key = some c ∧
      AccessDone (accessInfo r.op r.size v a o s) x v r.size r.gives (r.gives && codeOf x.st v == .lq) s.nextUid
        (vals.map (fun e => (e.1, givenWords r (r.gives && codeOf x.st v == .lq) e.2))) c ∧
      (switchIn x t).Keeps x.key T ∧ T.mem = t.mem := by
  have hgives := hr.gives
  obtain ⟨T, c, hT, hcons, hdone, hkeep, hmem⟩ := issue_access (toQueue := r.gives && codeOf x.st v == .lq) hissue rfl
    hbody hc hid
    (fun hg => by rw [hgives, hg, Bool.true_and]; exact writeQueue_of_gives hissue hg)
    (fun hg => by rw [hgives, hg, Bool.false_and]) (fun hg => by rw [hgot (hgives.trans hg)]; exact hlanes)
  refine ⟨T, c, hexec.trans hT, hcons, ?_, hkeep, hmem⟩
  rw [← hgives] at hdone
  obtain ⟨hown, hv, ha, hs, hcsw, hother, hpassed, hqueues, hstays, hsent⟩ := hdone
  refine ⟨hown, hv, ha, hs, hcsw, hother, hpassed, hqueues, hstays, fun hg => ?_⟩
  rw [← words_given hr hlt, ← hgot hg]
  exact hsent hg

end Row

/-- Pieces in LP6 DRAM by their machine addresses. -/
theorem map_memPlace {ps : List Piece} (h : ∀ p ∈ ps, p.InDram) : ps.map memPlace = ps.filterMap placed := by
  have hsome : ∀ p ∈ ps, placed p = some (memPlace p) := by
    intro p hp
    obtain ⟨b, hb, -, -⟩ := h p hp
    rw [memPlace, placed, hb]
    rfl
  rw [List.filterMap_congr hsome]
  exact congrFun List.filterMap_eq_map.symm ps

/-- The machine addresses of a lane's pieces hold no more than the access. -/
theorem readSum_reached {ps : List Piece} {n : Nat} (hdram : ∀ p ∈ ps, p.InDram)
    (h : ps = [] ∨ Tiles (ps.map (fun p => (p.len, p.pos))) 0 n) (mem : Nat → Byte) :
    readSum mem (ps.map memPlace) < 2 ^ (8 * n) := by
  rcases h with rfl | h
  · exact Nat.two_pow_pos _
  · refine readSum_lt ?_
    rw [List.map_map]
    have hshape : ∀ p ∈ ps, ((fun e : Nat × Nat × Nat => e.2) ∘ memPlace) p = (p.len, p.pos) := by
      intro p hp
      obtain ⟨b, hb, -, -⟩ := hdram p hp
      simp [memPlace, placed, hb]
    rwa [List.map_congr_left hshape]

theorem accessesActOnMemory : AccessesActOnMemory := by
  intro s x v a h o win ps r hr u hu info hissue hreach result toQueue
  have hsays := says_accessRows hr
  set S := learnPops info x s with hS
  have hclocks : s.SameButMemory S := .of_order (sameButOrder_of_clocks (sameButClocks_learnPops info x s))
  obtain ⟨hpos, hshapes⟩ := shapes_reached hsays.size (shape_reach hreach.translated)
  have hdram : ∀ p ∈ ps, p.InDram := by
    intro p hp
    obtain ⟨b, hb, hend⟩ := hreach.inMemory p hp
    exact ⟨b, hb, hend, hpos p hp⟩
  have hmine (l : Nat) : ∀ p ∈ ps.filter (fun p => p.lane == l), p.InDram := fun p hp => hdram p (List.mem_filter.mp hp).1
  have hplaces (l : Nat) := map_memPlace (hmine l)
  have hfit : ∀ l ∈ lanesOf x.act, ∀ mem, readSum mem ((ps.filter (fun p => p.lane == l)).filterMap placed) < 2 ^ (8 * r.size) :=
    fun l hl mem => hplaces l ▸ readSum_reached (hmine l) (hshapes l hl) mem
  have hstart : S.HoldsMemory s.byte S := ⟨rfl, fun b => by rw [hS, sameButClocks_learnPops info x s]; rfl⟩
  obtain ⟨nt, hexec⟩ := hsays.issues hu
  have hback := backed_memory (r := accessReq x r.op r.size nt o win) (x := x) hreach.whole.2 hdram
  obtain ⟨got, t, hlanes, ⟨ht, hbytes⟩, hgot⟩ := hback.lanes (row := r) (operand := dataOf x v r.size) (compare := fun l => (opVal x 0x70 false 0 0 l).toNat)
    hreach.plain rfl rfl (fun l m y => hsays.writes m y _) hstart (fun l _ => hplaces l) hfit
  have hst : s.SameButMemory t := hclocks.trans ht
  have hvals : result.1.map Prod.fst = lanesOf x.act := lanesAccess_lanes
  have hne : lanesOf x.act ≠ [] := fun e => hreach.active ((lanesOf_eq_nil _).mp e)
  obtain ⟨T, c, hT, hcons, hdone, hkeep, hmem⟩ := hsays.completes (hexec s) hissue
    (accessBody_ok hreach.active hreach.helpers hreach.checked hreach.order hreach.inside hreach.translated hlanes
      (fun hop hnil => hne (by rw [← hvals, ← hgot hop, hnil]; rfl)) hback.here hreach.whole.1
      ((ht.sound hreach.whole.2).correctPieces ps))
    ((hst.consist? _).trans hissue.consist) hst.nextUid
    (fun hg => hgot (fun hop => by rw [hsays.gives, show r.op = .store from hop] at hg; cases hg)) hvals
    (lanesAccess_lt hfit)
  have hturn := switchIn_eq x t
  obtain ⟨hgrants, hlines, htex⟩ : T.grants = t.grants ∧ T.lines = t.lines ∧ T.texLines = t.texLines := by
    refine ⟨hkeep.grants.trans ?_, hkeep.lines.trans ?_, hkeep.texLines.trans ?_⟩ <;> rw [hturn]
  refine ⟨T, c, hT, hcons, fun b hb => ?_, ?_, hdone⟩
  · rw [← hbytes b, State.byte, State.byte, if_pos hb, if_pos hb, hmem]
  · rw [hmem, hgrants, hlines, htex]
    exact (hst.keeps x.key).switchIn.trans hkeep

end Sys2Proof.Machine

/-! Accesses to the scratchpad complete (R182, R184). -/

namespace Sys2Proof.Machine

open Sys2Proof

/-! ## Accesses to the scratchpad (R182, R184) -/

/-- Of two states only convoys and what keeps order differ. -/
def State.SameButPads (s t : State) : Prop :=
  t = { s with convoys := t.convoys, clocks := t.clocks, engineClocks := t.engineClocks, syncs := t.syncs, spSyncs := t.spSyncs }

namespace State.SameButPads

variable {s t u : State}

theorem trans (h : s.SameButPads t) (k : t.SameButPads u) : s.SameButPads u := by
  unfold State.SameButPads at *
  rw [h] at k
  exact k

theorem of_order (h : s.SameButOrder t) : s.SameButPads t := by
  unfold State.SameButPads
  rw [h]

theorem consist? (h : s.SameButPads t) (k : Nat) : t.consist? k = s.consist? k := by rw [h]; rfl

theorem nextUid (h : s.SameButPads t) : t.nextUid = s.nextUid := by rw [h]

/-- Nothing else of the part has changed. -/
theorem keeps (h : s.SameButPads t) (key : Nat) : ({ s with convoys := t.convoys } : State).Keeps key t := by
  rw [h]
  constructor <;> intros <;> rfl

end State.SameButPads

/-- Where a piece in a scratchpad stands. -/
def padPlace (p : Piece) : Nat × Nat × Nat :=
  match p.spot with
  | .pad _ off => (off, p.len, p.pos)
  | _ => default

/-- Does a piece stand in the scratchpad of a convoy? -/
def Piece.InPad (conv : Nat) (p : Piece) : Prop := ∃ off, p.spot = .pad conv off ∧ 0 < p.len

/-- The states of an access to the scratchpad of a convoy without barriers that started at `s`. -/
def State.HoldsPad (s : State) (conv : Nat) (mem : Nat → Byte) (t : State) : Prop :=
  s.SameButPads t ∧ ∃ v, t.convoy? conv = some v ∧ v.bars = [] ∧ ∀ b, tget v.scratch b = mem b

/-- A write to a scratchpad without barriers changes its bytes alone. -/
theorem holdsPad_padWrite {s t : State} {conv off n v : Nat} {mem : Nat → Byte} (hn : 0 < n) (h : s.HoldsPad conv mem t) :
    s.HoldsPad conv (memoryWith mem off n v) (t.padWrite conv off (leBytes n v)) := by
  obtain ⟨hsame, cv, hcv, hbars, hscratch⟩ := h
  have hne : leBytes n v ≠ [] := fun e => by
    have := leBytes_length n v
    simp [e] at this
    omega
  have hmod : ∀ f, t.modConvoy conv f = t.setConvoy conv (f cv) := fun f => by rw [State.modConvoy, hcv]
  have hget : ∀ y, (t.setConvoy conv y).convoy? conv = some y := fun y => tget_tset_same t.convoys conv (some y)
  have hwrite : t.padWrite conv off (leBytes n v) =
      t.setConvoy conv { cv with scratch := writeBytes cv.scratch off (leBytes n v) } := by
    rw [State.padWrite, if_neg hne, hmod, State.breakBarriers, hget]
    dsimp only
    rw [hbars]
    rfl
  rw [hwrite]
  exact ⟨hsame.trans rfl, _, hget _, hbars, fun b => tget_writeBytes_leBytes hscratch⟩

theorem backed_pad {r : AccReq} {x : Ctx} {ps : List Piece} {s : State} {conv : Nat} (hps : ∀ p ∈ ps, p.InPad conv) :
    r.Backed x padPlace ps (s.HoldsPad conv) where
  here p hp := by
    obtain ⟨off, hoff, -⟩ := hps p hp
    rw [Piece.isLate, hoff]
  sample p hp t := by
    obtain ⟨off, hoff, -⟩ := hps p hp
    rw [Piece.sample, hoff]
  pos p hp := by
    obtain ⟨off, hoff, -⟩ := hps p hp
    rw [padPlace, hoff]
  read p hp mem t ht := by
    obtain ⟨off, hoff, -⟩ := hps p hp
    obtain ⟨-, cv, hcv, -, hscratch⟩ := ht
    simp only [Piece.read, padPlace, hoff, State.padBytes, hcv, Option.getD_some]
    exact leNat_readBytes hscratch
  write p hp mem t v who ht := by
    obtain ⟨off, hoff, hlen⟩ := hps p hp
    simp only [Piece.write, padPlace, hoff]
    exact holdsPad_padWrite hlen ht
  order mem t u hu ht := by
    obtain ⟨hsame, cv, hcv, hbars, hscratch⟩ := ht
    refine ⟨hsame.trans (.of_order hu), cv, ?_, hbars, hscratch⟩
    rw [← hcv, hu]
    rfl
  lines p hp mem t wrote ht := by
    obtain ⟨off, hoff, -⟩ := hps p hp
    simpa only [AccReq.lines, List.foldl_cons, List.foldl_nil, hoff] using ht

section Pad

variable {ps : List Piece} {conv : Nat} (h : ∀ p ∈ ps, p.InPad conv)
include h

/-- A scratchpad is not translated. -/
theorem reach_pad (who : Asker) (k : AccKind) (buffered : Bool) (space : Nat) (s : State) :
    reach who k buffered space ps s = .val ps s := by
  induction ps with
  | nil => rfl
  | cons p ps ih =>
    obtain ⟨hp, hps⟩ := List.forall_mem_cons.mp h
    obtain ⟨off, hoff, -⟩ := hp
    unfold reach
    rw [hoff]
    dsimp only
    rw [ih hps]
    rfl

/-- No line of LP6 DRAM is read. -/
theorem badLine_pad (s : State) : badLine s ps = .good := by
  unfold badLine
  split
  next p hp =>
    obtain ⟨off, hoff, -⟩ := h p (List.mem_of_find?_eq_some hp)
    have hbad := List.find?_some hp
    simp [hoff] at hbad
  next => rfl

/-- Nothing of LP6 DRAM is corrected. -/
theorem correctPieces_pad (s : State) (who : Option Nat) : correctPieces s ps who = s := by
  induction ps with
  | nil => rfl
  | cons p ps ih =>
    obtain ⟨⟨off, hoff, -⟩, hps⟩ := List.forall_mem_cons.mp h
    unfold correctPieces at ih ⊢
    rw [List.foldl_cons, hoff]
    exact ih hps

end Pad

section Lanes

variable {s : State} {x : Ctx} {cv : Convoy} {size : Nat} {a : BitVec 7}

/-- Every lane that is aligned in the scratchpad passes the checks of R177. -/
theorem checkAccess_pad {write : Bool} (hsize : ∀ l ∈ lanesOf x.act, offOf x a l % size = 0) :
    checkAccess x 2 write size (offOf x a) (lanesOf x.act) s = .val (fixedWindow s x.c 2) s := by
  have haligned : (lanesOf x.act).find? (fun l => offOf x a l % size != 0) = none :=
    List.find?_eq_none.mpr fun l hl => by simp [hsize l hl]
  have hinside : (lanesOf x.act).findSome? (fun l => (fixedWindow s x.c 2).outside x.c l (offOf x a l) size) = none :=
    List.findSome?_eq_none_iff.mpr fun l _ => rfl
  have hwindow : windowOf x 2 (offOf x a ((lanesOf x.act).headD 0)) s = .val (fixedWindow s x.c 2) s := rfl
  unfold checkAccess
  rw [hwindow]
  simp only [Got.bind, haligned, hinside]
  rw [if_neg]
  simp [fixedWindow]

variable (hcv : s.convoy? x.c.convoy = some cv)
include hcv

theorem convoyOf_eq : s.convoyOf x.c = cv := by rw [State.convoyOf, hcv]; rfl

/-- A lane whose bytes lie in the scratchpad has its one piece there. -/
theorem lanePieces_pad {l : Nat} (h : offOf x a l + size ≤ cv.spSize) :
    lanePieces (fixedWindow s x.c 2) x s size (offOf x a) l =
      [{ lane := l, pos := 0, va := 0, len := size, spot := .pad x.c.convoy (offOf x a l) }] := by
  have hin : (fixedWindow s x.c 2).inPad s x.c (offOf x a l) size = some (x.c.convoy, offOf x a l) := by
    rw [← convoyOf_eq hcv] at h
    exact if_pos h
  unfold lanePieces
  rw [show (fixedWindow s x.c 2).kind = .pad from rfl, hin]

variable (hsize : size ∈ [1, 2, 4, 8, 16]) (hin : ∀ l ∈ lanesOf x.act, offOf x a l + size ≤ cv.spSize)
include hsize hin

theorem filter_startPieces_pad {l : Nat} (hl : l ∈ lanesOf x.act) :
    (startPieces (fixedWindow s x.c 2) x s size (offOf x a) (lanesOf x.act)).filter (fun p => p.lane == l) =
      [{ lane := l, pos := 0, va := 0, len := size, spot := .pad x.c.convoy (offOf x a l) }] := by
  rw [startPieces_eq, filter_flatMap_lane (fun k p hp => ((lanePieces_shapes k hsize).1 p hp).1) (lanesOf_nodup x.act) hl]
  exact lanePieces_pad hcv (hin l hl)

theorem inPad_startPieces : ∀ p ∈ startPieces (fixedWindow s x.c 2) x s size (offOf x a) (lanesOf x.act), p.InPad x.c.convoy := by
  intro p hp
  rw [startPieces_eq] at hp
  obtain ⟨l, hl, hpl⟩ := List.mem_flatMap.mp hp
  have hlen := ((lanePieces_shapes l hsize).1 p hpl).2
  rw [lanePieces_pad hcv (hin l hl)] at hpl
  obtain rfl := List.mem_singleton.mp hpl
  exact ⟨_, rfl, hlen⟩

end Lanes

theorem scratchpadAccesses : ScratchpadAccesses := by
  intro s x v a o cv r hr hop u hu info hissue hact hcv hcheck hbars hmask horder hlanesIn result toQueue
  have hsays := says_accessRows hr
  have hsize := hsays.size
  set S := learnPops info x s with hS
  have horderS : s.SameButOrder S := sameButOrder_of_clocks (sameButClocks_learnPops info x s)
  have hcvS : S.convoy? x.c.convoy = some cv := by rw [← hcv, horderS]; rfl
  have hloggedS : S.logged x.key = s.logged x.key := (sameButClocks_learnPops info x s).logged _
  have hin : ∀ l ∈ lanesOf x.act, offOf x a l + r.size ≤ cv.spSize := fun l hl => (hlanesIn l hl).2
  set ps := startPieces (fixedWindow S x.c 2) x S r.size (offOf x a) (lanesOf x.act)
  have hmine : ∀ l ∈ lanesOf x.act, ps.filter (fun p => p.lane == l) = _ := fun l hl => filter_startPieces_pad hcvS hsize hin hl
  have hpad : ∀ p ∈ ps, p.InPad x.c.convoy := inPad_startPieces hcvS hsize hin
  have hinside : ∀ l ∈ lanesOf x.act, ∃ p ∈ ps, p.lane = l := by
    intro l hl
    have hp := List.mem_singleton_self ({ lane := l, pos := 0, va := 0, len := r.size, spot := .pad x.c.convoy (offOf x a l) } : Piece)
    rw [← hmine l hl] at hp
    exact ⟨_, (List.mem_filter.mp hp).1, rfl⟩
  have hplaces : ∀ l ∈ lanesOf x.act, (ps.filter (fun p => p.lane == l)).map padPlace = [(offOf x a l, r.size, 0)] :=
    fun l hl => by rw [hmine l hl]; rfl
  have hfit : ∀ l ∈ lanesOf x.act, ∀ mem, readSum mem [(offOf x a l, r.size, 0)] < 2 ^ (8 * r.size) :=
    fun l _ mem => readSum_lt ⟨rfl, Nat.zero_add _⟩
  have hstart : S.HoldsPad x.c.convoy (fun b => tget cv.scratch b) S := ⟨rfl, cv, hcvS, hbars, fun _ => rfl⟩
  have hwrites : ∀ (l m y : Nat), m < 2 ^ (8 * r.size) → r.op.newValue r.size m y (opVal x 0x70 false 0 0 l).toNat =
      r.writes m (y % 2 ^ (8 * r.size)) (0 % 2 ^ (8 * r.size)) := by
    intro l m y hm
    rw [← hsays.writes m y 0 hm]
    rcases hop with e | e | e <;> rw [e] <;> rfl
  obtain ⟨nt, hexec⟩ := hsays.issues hu
  have hback := backed_pad (r := accessReq x r.op r.size nt o (fixedWindow S x.c 2)) (x := x) (s := S) hpad
  have hplain : (accessReq x r.op r.size nt o (fixedWindow S x.c 2)).checked x = false := by
    have hchk : (fixedWindow S x.c 2).chk = cv.spCheck := congrArg Convoy.spCheck (convoyOf_eq hcvS)
    rw [AccReq.checked, show (accessReq x r.op r.size nt o (fixedWindow S x.c 2)).win.chk = _ from hchk, hcheck, Bool.false_and]
  obtain ⟨got, t, hlanes, ⟨ht, cv', hcv', -, hbytes⟩, hgot⟩ := hback.lanes (row := r) (operand := dataOf x v r.size)
    (compare := fun l => (opVal x 0x70 false 0 0 l).toNat) (compare' := fun _ => 0) hplain rfl rfl hwrites hstart hplaces hfit
  have hst : s.SameButPads t := (State.SameButPads.of_order horderS).trans ht
  have hvals : result.1.map Prod.fst = lanesOf x.act := lanesAccess_lanes
  have hne : lanesOf x.act ≠ [] := fun e => hact ((lanesOf_eq_nil _).mp e)
  obtain ⟨T, c, hT, hcons, hdone, hkeep, -⟩ := hsays.completes (hexec s) hissue
    (accessBody_ok hact (fun _ => by rw [hmask]; exact BitVec.zero_and) (checkAccess_pad fun l hl => (hlanesIn l hl).1)
      (hloggedS ▸ horder) hinside (reach_pad hpad ..) hlanes
      (fun hop hnil => hne (by rw [← hvals, ← hgot hop, hnil]; rfl)) hback.here (badLine_pad hpad S)
      (correctPieces_pad hpad t))
    ((hst.consist? _).trans hissue.consist) hst.nextUid
    (fun hg => hgot (fun hop => by rw [hsays.gives, show r.op = .store from hop] at hg; cases hg)) hvals
    (lanesAccess_lt hfit)
  have hconvoys : T.convoys = t.convoys := hkeep.convoys.trans (by rw [switchIn_eq x t])
  obtain ⟨hown, hv, ha, hs, hcsw, hother, hpassed, hqueues, hstays, hsent⟩ := hdone
  refine ⟨T, c, cv', hT, hcons, ?_, hbytes, ?_, hown, hv, ha, hs, hcsw, hother, hpassed, hqueues, hstays, fun hg => ?_⟩
  · rw [← hcv', State.convoy?, State.convoy?, hconvoys]
  · rw [hconvoys]
    exact (hst.keeps x.key).switchIn.trans hkeep
  · obtain ⟨new, hnew, hitems, -⟩ := hsent hg
    exact ⟨new, hnew, hitems⟩

/-- Settles O34: lane by lane the pieces are read and written where they stand, and what is read is sent to V. -/
theorem memoryAndScratchpadAccesses : Obligations.MemoryAndScratchpadAccesses := ⟨accessesActOnMemory, scratchpadAccesses⟩

end Sys2Proof.Machine

/-! Integer instructions: each form writes one result for every active lane, and the operation that it applies is the one
that its rule names (R132 to R147). -/

namespace Sys2Proof.Machine

open Sys2Proof

/-! ## Forms that write a result (R32, R33) -/

/-- The word of an instruction issues a body that writes `value` to D. -/
def WritesResult (x : Ctx) (d : BitVec 7) (w : BitVec 1) (i : Instr) (o : OpInfo) (value : Nat → DWord) : Prop :=
  ∃ u body, encode i = some u ∧ (∀ s, exec i s = issue u o body s) ∧
    (∀ s, body x s = writeLanes x d false (w == 1) value s) ∧ o.transfer = false

/-- Such an instruction completes with its value, and changes nothing else. -/
theorem WritesResult.wrote {x : Ctx} {d : BitVec 7} {w : BitVec 1} {i : Instr} {o : OpInfo} {value : Nat → DWord} {u : Word}
    {s : State} (hi : WritesResult x d w i o value) (hu : encode i = some u) (h : Issues u o s x) :
    ∃ t, exec i s = .next t ∧ Wrote o x d false (w == 1) value x.c.csw s t := by
  obtain ⟨u', body, hu', hexec, hbody, htransfer⟩ := hi
  obtain rfl := Option.some.inj (hu'.symm.trans hu)
  rw [hexec]
  exact ⟨_, issue_ok h (hbody _), wrote_of_writeLanes h htransfer rfl⟩

section Forms

variable {x : Ctx} {d a b : BitVec 7} {c : BitVec 3} {w : BitVec 1} {i : Instr} {o : OpInfo} {u : Word} {maj : BitVec 7}
  {fn : BitVec 3} {value : Nat → DWord}

/-- An instruction writes a value when its meaning issues a body that does. -/
theorem WritesResult.of_exec {result : Ctx → Nat → DWord}
    (hexec : ∀ s, exec i s = issue u o (fun x => writeLanes x d false (w == 1) (result x)) s) (hu : encode i = some u)
    (htransfer : o.transfer = false) (hvalue : ∀ l, result x l = value l) : WritesResult x d w i o value := by
  have hresult : result x = value := funext hvalue
  exact ⟨u, _, hu, hexec, fun _ => by rw [hresult], htransfer⟩

/-- A form of one source (R139, R143). -/
theorem writesResult_alu1 {f g : (n : Nat) → BitVec n → BitVec n} (hexec : ∀ s, exec i s = alu1 maj fn f d a w s)
    (hu : encode i = some (packReg maj d a 0x78 w fn)) (hf : ∀ n p, f n p = g n p) :
    WritesResult x d w i (info2 d a) (fun l => atWidth1 x.st g (src1 x a l)) := by
  have hfg : f = g := by funext n p; exact hf n p
  exact .of_exec hexec hu rfl (fun l => by rw [hfg])

/-- A form of two sources (R133, R136, R139, R140, R142). -/
theorem writesResult_alu2 {op : Bool → WidthOp} (hexec : ∀ s, exec i s = alu2 maj fn op d a b w s)
    (hu : encode i = some (packReg maj d a b w fn)) :
    WritesResult x d w i (info3 d a b) (fun l => atWidth x.st (op (satOf x)) (src1 x a l) (src2 x a b l)) :=
  .of_exec hexec hu rfl (fun _ => atWidth2_eq ..)

theorem immOf_eq_immediate (x : Ctx) (imm : BitVec 10) : immOf x imm = immediate x imm := by
  unfold immOf immediate
  cases x.hints.const <;> rfl

/-- A form with an immediate (R134, R139). -/
theorem writesResult_aluImm {sreg : Bool} {op : Bool → WidthOp} {g : WidthOp} {imm : BitVec 10}
    (hexec : ∀ s, exec i s = aluImm maj sreg op d a w imm s) (hu : encode i = some (packImm maj d a w imm))
    (hf : ∀ n p q, op (satOf x) n p q = g n p q) :
    WritesResult x d w i { uses := [(1, d, .dst false sreg true), (2, a, .src false true)] }
      (fun l => atWidth x.st g (src1 x a l) (immediate x imm)) := by
  have hg : op (satOf x) = g := by funext n p q; exact hf n p q
  exact .of_exec hexec hu rfl (fun _ => by rw [atWidth2_eq, hg, immOf_eq_immediate])

theorem atWidth1_eq_atWidth (st : Strm) (f : (n : Nat) → BitVec n → BitVec n) (p q : DWord) :
    atWidth1 st f p = atWidth st (fun n v _ => f n v) p q := by cases st <;> rfl

/-- A shift by an immediate amount (R141). -/
theorem writesResult_shiftImm {form : BitVec 2} {f : (n : Nat) → BitVec n → Nat → BitVec n}
    {g : (n : Nat) → BitVec n → BitVec n} {k : BitVec 6} (hexec : ∀ s, exec i s = shiftImm form f d a w k s)
    (hu : encode i = some (packImm 0x08 d a w (form ++ (0#2 : BitVec 2) ++ k))) (hf : ∀ n p, f n p k.toNat = g n p) :
    WritesResult x d w i (info2 d a) (fun l => atWidth x.st (fun n v _ => g n v) (src1 x a l) 0) := by
  have hg : (fun n v => f n v k.toNat) = g := by funext n p; exact hf n p
  exact .of_exec hexec hu rfl (fun _ => by rw [hg, atWidth1_eq_atWidth])

end Forms

/-! ## Operations on one source (R143) -/

section OneSource

variable {n : Nat}

theorem popCount_eq (p : BitVec n) : popCount n p = BitVec.ofNat n ((List.range n).countP (fun i => p.getLsbD i)) := by
  rw [popCount, List.countP_eq_length_filter]

/-- The highest bit set of a number that is not 0 is the first one that a search from the top meets. -/
theorem find?_top_bit {p : BitVec n} (h : p ≠ 0) :
    (List.range n).find? (fun i => p.getLsbD (n - 1 - i)) = some (n - 1 - p.toNat.log2) := by
  have hne : p.toNat ≠ 0 := fun hp => h (BitVec.eq_of_toNat_eq hp)
  have hlog : p.toNat.log2 < n := (Nat.log2_lt hne).mpr p.isLt
  rw [List.find?_range_eq_some]
  refine ⟨?_, List.mem_range.mpr (by omega), fun j hj => ?_⟩
  · rw [Nat.sub_sub_self (by omega)]
    exact Nat.testBit_log2 hne
  · have hbelow : p.toNat < 2 ^ (n - 1 - j) := (Nat.log2_lt hne).mp (by omega)
    simp [BitVec.getLsbD, Nat.testBit_lt_two_pow hbelow]

theorem leadingZeros_eq (p : BitVec n) :
    leadingZeros n p = BitVec.ofNat n (((List.range n).find? (fun i => p.getLsbD (n - 1 - i))).getD n) := by
  unfold leadingZeros
  by_cases h : p = 0
  · have hnone : (List.range n).find? (fun i => p.getLsbD (n - 1 - i)) = none :=
      List.find?_range_eq_none.mpr (fun i _ => by simp [h])
    rw [if_pos h, hnone, Option.getD_none]
  · rw [if_neg h, find?_top_bit h, Option.getD_some]

theorem leNat_append (as bs : List Byte) : leNat (as ++ bs) = leNat as + 256 ^ as.length * leNat bs := by
  induction as with
  | nil => simp [leNat]
  | cons b as ih =>
    rw [List.cons_append, leNat, leNat, ih, List.length_cons, pow_succ]
    ring

/-- The bytes of a number in the opposite order (R143). -/
theorem leNat_reverse_leBytes (k v : Nat) : leNat (leBytes k v).reverse =
    ((List.range k).map (fun j => v / 2 ^ (8 * j) % 256 * 2 ^ (8 * (k - 1 - j)))).sum := by
  induction k generalizing v with
  | zero => rfl
  | succ k ih =>
    have hrest : ∀ j ∈ List.range k, v / 256 / 2 ^ (8 * j) % 256 * 2 ^ (8 * (k - 1 - j)) =
        v / 2 ^ (8 * (j + 1)) % 256 * 2 ^ (8 * (k + 1 - 1 - (j + 1))) := by
      intro j _
      rw [Nat.div_div_eq_div_mul, show 256 * 2 ^ (8 * j) = 2 ^ (8 * (j + 1)) by ring,
        show k + 1 - 1 - (j + 1) = k - 1 - j by omega]
    rw [leBytes, List.reverse_cons, leNat_append, ih, List.length_reverse, leBytes_length, List.range_succ_eq_map,
      List.map_cons, List.map_map, List.sum_cons, List.map_congr_left hrest]
    have hlow : v / 2 ^ (8 * 0) % 256 * 2 ^ (8 * (k + 1 - 1 - 0)) = 256 ^ k * leNat [BitVec.ofNat 8 v] := by
      rw [show (256 : Nat) = 2 ^ 8 from rfl, ← pow_mul]
      simp [leNat, Nat.mul_comm]
    rw [hlow, Nat.add_comm]
    rfl

theorem byteSwap_eq (p : BitVec n) : byteSwap n p = BitVec.ofNat n
    (((List.range (n / 8)).map (fun j => p.toNat / 2 ^ (8 * j) % 256 * 2 ^ (8 * (n / 8 - 1 - j)))).sum) := by
  rw [byteSwap, leNat_reverse_leBytes]

theorem setWidth_eq_low (k : Nat) (p : BitVec n) : p.setWidth k = p.extractLsb' 0 k := by
  apply BitVec.eq_of_getLsbD_eq
  intro i hi
  simp [hi]

end OneSource

theorem writesResult_oneSource (x : Ctx) (d a : BitVec 7) (w : BitVec 1) : ∀ e ∈ oneSource d a w,
    WritesResult x d w e.1 (info2 d a) (fun l => atWidth1 x.st e.2 (src1 x a l)) := by
  simp only [oneSource, List.forall_mem_cons]
  refine ⟨?not, ?popc, ?clz, ?ctz, ?brev, ?bswap, ?sext8, ?sext16, List.forall_mem_nil _⟩
  case not => exact writesResult_alu1 (fun _ => exec_not) rfl (fun _ _ => rfl)
  case popc => exact writesResult_alu1 (fun _ => exec_popc) rfl (fun _ => popCount_eq)
  case clz => exact writesResult_alu1 (fun _ => exec_clz) rfl (fun _ => leadingZeros_eq)
  case ctz => exact writesResult_alu1 (fun _ => exec_ctz) rfl (fun _ _ => rfl)
  case brev => exact writesResult_alu1 (fun _ => exec_brev) rfl (fun _ _ => rfl)
  case bswap => exact writesResult_alu1 (fun _ => exec_bswap) rfl (fun _ => byteSwap_eq)
  case sext8 => exact writesResult_alu1 (fun _ => exec_sext8) rfl (fun _ p => by rw [sext8, setWidth_eq_low])
  case sext16 => exact writesResult_alu1 (fun _ => exec_sext16) rfl (fun _ p => by rw [sext16, setWidth_eq_low])

/-! ## Immediates (R134, R139, R141) -/

theorem writesResult_immediateForms (x : Ctx) (d a : BitVec 7) (w : BitVec 1) (imm : BitVec 10) (k : BitVec 6) :
    ∀ e ∈ immediateForms x d a w imm k, WritesResult x d w e.1 e.2.1 (fun l => e.2.2 (src1 x a l)) := by
  simp only [immediateForms, List.forall_mem_cons]
  refine ⟨?iaddi, ?movi, ?andi, ?ori, ?xori, ?shli, ?shri, ?sari, ?rori, List.forall_mem_nil _⟩
  case iaddi => exact writesResult_aluImm (fun _ => exec_iaddi) rfl (fun _ p q => intAdd_eq _ p q)
  case movi => exact .of_exec (fun _ => exec_movi) rfl rfl (fun _ => immOf_eq_immediate x imm)
  case andi => exact writesResult_aluImm (fun _ => exec_andi) rfl (fun _ _ _ => rfl)
  case ori => exact writesResult_aluImm (fun _ => exec_ori) rfl (fun _ _ _ => rfl)
  case xori => exact writesResult_aluImm (fun _ => exec_xori) rfl (fun _ _ _ => rfl)
  case shli => exact writesResult_shiftImm (fun _ => exec_shli) rfl (fun _ p => shiftL_eq p _)
  case shri => exact writesResult_shiftImm (fun _ => exec_shri) rfl (fun _ p => shiftR_eq p _)
  case sari => exact writesResult_shiftImm (fun _ => exec_sari) rfl (fun _ _ => rfl)
  case rori => exact writesResult_shiftImm (fun _ => exec_rori) rfl (fun _ p => rotR_eq p _)

/-- The two-source integer instructions write what their rules give (the first part of O12). -/
theorem twoSourceIntegerResults : TwoSourceIntegerResults := by
  intro s x d a b w e he u hu h
  obtain ⟨maj, fn, hencoded, -, hmeaning⟩ := twoSource_spec d a b w e he
  exact (writesResult_alu2 hmeaning hencoded).wrote hu h

/-- Settles O12: each form writes the value of its operation. -/
theorem integerResults : Obligations.IntegerResults :=
  ⟨twoSourceIntegerResults, fun _ x d a w e he _ hu h => (writesResult_oneSource x d a w e he).wrote hu h,
    fun _ x d a w imm k e he _ hu h => (writesResult_immediateForms x d a w imm k e he).wrote hu h⟩

/-! ## IMAD, BFI and LEA (R135, R142, R147) -/

section Wide

variable {n : Nat}

theorem intMad_eq (sat : Bool) (p q r : BitVec n) :
    intMad sat n p q r = if sat then clampTo n (p.toInt * q.toInt + r.toInt) else p * q + r := by
  rw [intMad, wrapOrSat, clampInt_eq_clampTo, BitVec.ofInt_add, BitVec.ofInt_mul, BitVec.ofInt_toInt, BitVec.ofInt_toInt,
    BitVec.ofInt_toInt]

theorem sum_two_pow_lt (P : Nat → Bool) (m : Nat) :
    ((List.range m).map (fun i => if P i then 2 ^ i else 0)).sum < 2 ^ m := by
  induction m with
  | zero => exact Nat.one_pos
  | succ m ih =>
    rw [List.range_succ, List.map_append, List.sum_append, List.map_singleton, List.sum_singleton, pow_succ]
    split <;> omega

/-- A sum of distinct powers of two is the number with those bits. -/
theorem testBit_sum_two_pow (P : Nat → Bool) (m j : Nat) :
    ((List.range m).map (fun i => if P i then 2 ^ i else 0)).sum.testBit j = (decide (j < m) && P j) := by
  induction m with
  | zero => simp
  | succ m ih =>
    have hterm : (if P m then 2 ^ m else 0) = 2 ^ m * (P m).toNat := by cases P m <;> simp
    rw [List.range_succ, List.map_append, List.sum_append, List.map_singleton, List.sum_singleton, hterm, Nat.add_comm,
      Nat.testBit_two_pow_mul_add _ (sum_two_pow_lt P m), ih, Nat.testBit_bool_toNat]
    rcases Nat.lt_trichotomy j m with hj | rfl | hj
    · simp [hj, Nat.lt_succ_of_lt hj]
    · simp
    · simp [show ¬ j < m by omega, show ¬ j < m + 1 by omega, show j - m ≠ 0 by omega]

/-- BFI takes the bits of its field from A and the others from D (R142). -/
theorem getLsbD_bfi (p q old : BitVec n) {i : Nat} (hi : i < n) : (bfi n p q old).getLsbD i =
    if fieldPos n q ≤ i ∧ i < fieldPos n q + fieldLen n q then p.getLsbD (i - fieldPos n q) else old.getLsbD i := by
  unfold bfi
  dsimp only
  generalize fieldPos n q = pos
  generalize fieldLen n q = len
  by_cases hlen : len = 0
  · rw [if_pos hlen, if_neg (by omega)]
  · rw [if_neg hlen]
    have hmask : (BitVec.ofNat n (2 ^ len - 1) <<< pos).getLsbD i = decide (pos ≤ i ∧ i < pos + len) := by
      rw [BitVec.getLsbD_shiftLeft, BitVec.getLsbD_ofNat, Nat.testBit_two_pow_sub_one, Bool.eq_iff_iff]
      simp only [Bool.and_eq_true, Bool.not_eq_true', decide_eq_true_eq, decide_eq_false_iff_not]
      omega
    rw [BitVec.getLsbD_or, BitVec.getLsbD_and, BitVec.getLsbD_and, BitVec.getLsbD_not, hmask]
    by_cases hin : pos ≤ i ∧ i < pos + len
    · rw [if_pos hin, decide_eq_true hin]
      simp only [hi, show ¬ i < pos by omega, BitVec.getLsbD_shiftLeft, decide_true, decide_false, Bool.not_true, Bool.not_false,
        Bool.and_false, Bool.false_or, Bool.true_and, Bool.and_true]
    · rw [if_neg hin, decide_eq_false hin]
      simp [hi]

theorem bfi_eq (p q old : BitVec n) : bfi n p q old =
    let pos := q.toNat % 256
    let len := min (q.toNat / 256 % 256) (n - pos)
    BitVec.ofNat n ((List.range n).map (fun i =>
      if (if pos ≤ i ∧ i < pos + len then p.getLsbD (i - pos) else old.getLsbD i) then 2 ^ i else 0)).sum := by
  apply BitVec.eq_of_getLsbD_eq
  intro i hi
  dsimp only
  rw [getLsbD_bfi p q old hi, BitVec.getLsbD_ofNat, decide_eq_true hi, Bool.true_and]
  exact ((testBit_sum_two_pow _ n i).trans (by rw [decide_eq_true hi, Bool.true_and]; rfl)).symm

theorem shiftLeft_eq_two_pow_mul (p : BitVec n) (k : Nat) : p <<< k = BitVec.ofNat n (2 ^ k) * p := by
  apply BitVec.eq_of_toNat_eq
  rw [BitVec.toNat_shiftLeft, BitVec.toNat_mul, BitVec.toNat_ofNat, Nat.mod_mul_mod, Nat.shiftLeft_eq, Nat.mul_comm]

end Wide

theorem atWidth3_congr {st : Strm} {f : (n : Nat) → BitVec n → BitVec n → BitVec n → BitVec n} {g : WidthOp} {r : DWord}
    (h : ∀ n p q, f n p q (r.setWidth n) = g n p q) (p q : DWord) : atWidth3 st f p q r = atWidth st g p q := by
  cases st
  case c => exact congrArg (BitVec.setWidth 64) (h 32 ..)
  case a => rw [atWidth3, atWidth, ← h, BitVec.setWidth_eq]

/-- IMAD, BFI, SEL, PTOI and LEA write what their rules give (the first part of O13). -/
theorem otherIntegerResults : OtherIntegerResults := by
  intro s x d a b c p w
  refine ⟨fun h => ?imad, fun h => ?bfi, fun h => ?sel, fun h => ?ptoi, fun h => ?lea⟩
  case imad =>
    exact (WritesResult.of_exec (fun _ => exec_imad) rfl rfl
      (fun _ => atWidth3_congr (fun _ y v => intMad_eq (satOf x) y v _) ..)).wrote rfl h
  case bfi =>
    exact (WritesResult.of_exec (fun _ => exec_bfi) rfl rfl (fun _ => atWidth3_congr (fun _ y v => bfi_eq y v _) ..)).wrote rfl h
  case sel => exact (WritesResult.of_exec (fun _ => exec_sel) rfl rfl (fun _ => rfl)).wrote rfl h
  case ptoi => exact (WritesResult.of_exec (fun _ => exec_ptoi) rfl rfl (fun _ => rfl)).wrote rfl h
  case lea =>
    exact (WritesResult.of_exec (fun _ => exec_lea) rfl rfl (fun _ => by rw [shiftLeft_eq_two_pow_mul])).wrote rfl h

/-! ## Divisions (R136 to R138) -/

/-- The lanes that a division traps for are the active ones whose divisor is 0. -/
theorem zeroLanes_eq_zero_iff {x : Ctx} {f : Nat → Bool} : zeroLanes x f = 0 ↔ ∀ l ∈ lanesOf x.act, f l = false := by
  rw [← lanesOf_eq_nil, List.eq_nil_iff_forall_not_mem]
  refine forall_congr' fun l => ?_
  simp only [mem_lanesOf]
  by_cases hl : l < 32
  · rw [zeroLanes, getLsbD_maskWhere _ l hl]
    simp [hl]
  · simp [hl]

section Divisions

variable {x : Ctx} {d a b : BitVec 7} {w : BitVec 1} {fn : BitVec 3} {s : State} {f : WidthOp}

/-- A division of divisors that are not 0 sends its result. -/
theorem division_sent {g : WidthOp} (hf : ∀ n p q, f n p q = g n p q) (h : Issues (packReg 0x09 d a b w fn) (info3 d a b) s x)
    (hdiv : ∀ l ∈ lanesOf x.act, src2 x a b l ≠ 0) : ∃ t, division fn f d a b w s = .next t ∧
      Sent (info3 d a b) .variable x d false (w == 1) (fun l => atWidth x.st g (src1 x a l) (src2 x a b l)) x.c.csw s t := by
  have hfg : f = g := by funext n p q; exact hf n p q
  have hzero : zeroLanes x (fun l => src2 x a b l == 0) = 0 :=
    zeroLanes_eq_zero_iff.mpr (fun l hl => beq_eq_false_iff_ne.mpr (hdiv l hl))
  have hvalue : (fun l => atWidth2 x.st f (src1 x a l) (src2 x a b l)) =
      fun l => atWidth x.st g (src1 x a l) (src2 x a b l) := by funext l; rw [atWidth2_eq, hfg]
  rw [division]
  exact ⟨_, issue_ok h (if_neg (not_not_intro hzero)), hvalue ▸ sent_of_launchResult h rfl⟩

/-- A division with a divisor of 0 traps with the lanes that have one. -/
theorem division_zdiv (h : Issues (packReg 0x09 d a b w fn) (info3 d a b) s x)
    (hdiv : ∃ l ∈ lanesOf x.act, src2 x a b l = 0) : division fn f d a b w s = .next (trapAt x false .zdiv
      ((maskWhere (fun l => x.act.getLsbD l && src2 x a b l == 0)).setWidth 64) (switchIn x s)) := by
  obtain ⟨l, hl, hzero⟩ := hdiv
  have hne : zeroLanes x (fun l => src2 x a b l == 0) ≠ 0 := fun hnone => by
    simpa [hzero] using zeroLanes_eq_zero_iff.mp hnone l hl
  exact issue_trap h (if_pos hne)

end Divisions

/-- Divisions by divisors that are not 0 send their results (the second part of O13). -/
theorem divisionsComplete : DivisionsComplete := by
  intro s x d a b w e he u hu h hdiv
  simp only [List.mem_cons, List.not_mem_nil, or_false] at he
  obtain rfl | rfl | rfl | rfl := he
  all_goals obtain rfl := Option.some.inj hu
  · rw [exec_idiv]
    exact division_sent (fun _ _ _ => rfl) h hdiv
  · rw [exec_udiv]
    exact division_sent (fun _ _ _ => BitVec.udiv_def.symm) h hdiv
  · rw [exec_irem]
    exact division_sent (fun _ _ _ => rfl) h hdiv
  · rw [exec_urem]
    exact division_sent (fun _ _ _ => BitVec.umod_def.symm) h hdiv

/-- Settles O13: the values are written, and those of divisions sent. -/
theorem wideAndDividedResults : Obligations.WideAndDividedResults := ⟨otherIntegerResults, divisionsComplete⟩

/-- Settles O14: the four divisions look for a divisor of 0 before anything is written. -/
theorem divisionByZeroTraps : Obligations.DivisionByZeroTraps := by
  intro s x d a b w i hi u hu h hdiv
  simp only [List.mem_cons, List.not_mem_nil, or_false] at hi
  obtain rfl | rfl | rfl | rfl := hi
  all_goals obtain rfl := Option.some.inj hu
  · exact exec_idiv.trans (division_zdiv h hdiv)
  · exact exec_udiv.trans (division_zdiv h hdiv)
  · exact exec_irem.trans (division_zdiv h hdiv)
  · exact exec_urem.trans (division_zdiv h hdiv)

end Sys2Proof.Machine

/-! Comparisons, predicate combinations and votes: each writes one predicate for every active lane (R144, R146, R150). -/

namespace Sys2Proof.Machine

open Sys2Proof

/-! ## Forms that write a predicate (R95) -/

/-- An instruction whose meaning issues a body that writes a predicate completes with it, and changes nothing else. -/
theorem wrotePred_of_exec {x : Ctx} {p : BitVec 7} {i : Instr} {o : OpInfo} {u : Word} {s : State} {result : Ctx → Nat → Bool}
    {value : Nat → Bool} (hexec : exec i s = issue u o (fun x => writePred x p (result x)) s) (h : Issues u o s x)
    (ht : o.transfer = false) (hvalue : ∀ l, result x l = value l) :
    ∃ t, exec i s = .next t ∧ WrotePred o x p.toNat value x.c.csw s t := by
  have hresult : result x = value := funext hvalue
  rw [hexec, ← hresult]
  exact ⟨_, issue_ok h rfl, wrotePred_of_writePred ht rfl⟩

/-- A combination of two predicates (R146). -/
theorem predOp_wrotePred {x : Ctx} {d a b : BitVec 7} {fn : BitVec 3} {i : Instr} {s : State} {f : Bool → Bool → Bool}
    (hexec : exec i s = predOp fn f d a b s)
    (h : Issues (packReg 0x10 d a b 0 fn) { uses := [(1, d, .pred), (2, a, .pred), (3, b, .pred)] } s x) :
    ∃ t, exec i s = .next t ∧ WrotePred { uses := [(1, d, .pred), (2, a, .pred), (3, b, .pred)] } x d.toNat
      (fun l => f ((x.c.strm x.st).pred a.toNat l) ((x.c.strm x.st).pred b.toNat l)) x.c.csw s t :=
  wrotePred_of_exec hexec h rfl (fun _ => rfl)

/-! ## Comparisons and votes (R144, R150) -/

theorem condHolds_eq_holds (f : BitVec 3) (n : Nat) (p q : BitVec n) : condHolds f n p q = holds f n p q := by
  unfold condHolds holds
  generalize f.toNat = k
  rcases k with _ | _ | _ | _ | _ | _ | _ | k <;> rfl

theorem any_voters (x : Ctx) (l : Nat) (P : Nat → Bool) :
    ((voters x l).map P).any id = decide (∃ m ∈ voters x l, P m = true) := by
  rw [Bool.eq_iff_iff]
  simp

theorem all_voters (x : Ctx) (l : Nat) (P : Nat → Bool) :
    ((voters x l).map P).all id = decide (∀ m ∈ voters x l, P m = true) := by
  rw [Bool.eq_iff_iff]
  simp

/-- A vote of the active lanes of the rake (R150). -/
theorem vote_wrotePred {x : Ctx} {d a : BitVec 7} {fn : BitVec 3} {i : Instr} {s : State} {f : List Bool → Bool}
    {value : Nat → Bool} (hexec : exec i s = vote fn f d a s)
    (h : Issues (packReg 0x13 d a 0x78 0 fn) { uses := [(1, d, .pred), (2, a, .pred)] } s x)
    (hvalue : ∀ l, f ((voters x l).map (fun m => (x.c.strm x.st).pred a.toNat m)) = value l) :
    ∃ t, exec i s = .next t ∧ WrotePred { uses := [(1, d, .pred), (2, a, .pred)] } x d.toNat value x.c.csw s t :=
  wrotePred_of_exec hexec h rfl hvalue

/-- Settles O15: each form writes the predicate that its rule gives. -/
theorem predicateResults : Obligations.PredicateResults := by
  intro s x d a b f imm pred cmp rakeOf
  have hcmp : ∀ p q, testWidth2 x.st (condHolds f) p q = cmp p q := by
    intro p q
    simp only [cmp, testWidth2]
    cases x.st <;> exact condHolds_eq_holds ..
  refine ⟨fun h => ?icmp, fun h => ?icmpi, fun e he u hu h => ?combine, fun h => ?pmov, fun h => ?pnz, fun h => ?vany,
    fun h => ?vall⟩
  case icmp => exact wrotePred_of_exec exec_icmp h rfl (fun _ => hcmp ..)
  case icmpi => exact wrotePred_of_exec exec_icmpi h rfl (fun _ => hcmp ..)
  case combine =>
    simp only [predicateForms, List.mem_cons, List.not_mem_nil, or_false] at he
    obtain rfl | rfl | rfl | rfl := he
    all_goals obtain rfl := Option.some.inj hu
    · exact predOp_wrotePred exec_pand h
    · exact predOp_wrotePred exec_por h
    · exact predOp_wrotePred exec_pxor h
    · exact predOp_wrotePred exec_pandn h
  case pmov => exact wrotePred_of_exec exec_pmov h rfl (fun _ => rfl)
  case pnz => exact wrotePred_of_exec exec_pnz h rfl (fun _ => rfl)
  case vany => exact vote_wrotePred exec_vany h (fun l => any_voters x l (pred a))
  case vall => exact vote_wrotePred exec_vall h (fun l => all_voters x l (pred a))

end Sys2Proof.Machine

/-! Values that cross lanes: permutes, votes into a register, reductions and scans (R148 to R151). -/

namespace Sys2Proof.Machine

open Sys2Proof

/-! ## Permutes (R148, R149) -/

theorem rakeBase_eq (x : Ctx) (l : Nat) : rakeBase x l = l / rakeSize x * rakeSize x := by
  have hdiv := Nat.div_add_mod' l (rakeSize x)
  unfold rakeBase
  omega

theorem laneSource_eq_given (x : Ctx) (a : BitVec 7) (j : Nat) : laneSource x a j = given x a j := rfl

/-- A permute that takes each lane's value from `source` (R149). -/
theorem writesResult_permute {x : Ctx} {d a b : BitVec 7} {w : BitVec 1} {i : Instr} {fn : BitVec 3}
    {pick : Nat → Nat → Nat → Nat} {source : Nat → Nat} (hexec : ∀ s, exec i s = permute fn pick d a b w s)
    (hu : encode i = some (packReg 0x12 d a b w fn))
    (hsource : ∀ l, l / rakeSize x * rakeSize x + pick (rakeSize x) (l % rakeSize x) (src1 x b l).toNat = source l) :
    WritesResult x d w i
      { uses := [(1, d, .dst false false true), (2, a, .src false false), (3, b, .src false true)], cross := true }
      (fun l => given x a (source l)) :=
  .of_exec hexec hu rfl (fun l => by rw [rakeBase_eq, hsource, laneSource_eq_given])

/-- The lowest active lane of a rake, whose index BCAST takes. -/
theorem headD_voters (x : Ctx) (l : Nat) :
    (voters x l).headD l = ((lanesOf x.act).find? (fun m => m / rakeSize x == l / rakeSize x)).getD l := by
  rw [voters, List.headD_eq_head?_getD, List.head?_filter]

/-- The permutes write what they are given (the first part of O16). -/
theorem permuteResults : PermuteResults := by
  intro s x d a b w r base two one by' e he u hu h
  suffices hform : WritesResult x d w e.1 e.2.1 (fun l => given x a (e.2.2 l)) from hform.wrote hu h
  clear hu h
  revert e
  simp only [List.forall_mem_cons]
  refine ⟨?shfli, ?shflu, ?shfld, ?shflx, ?swapp, ?bcast, List.forall_mem_nil _⟩
  case shfli => exact writesResult_permute (fun _ => exec_shfli) rfl (fun _ => rfl)
  case shflu => exact writesResult_permute (fun _ => exec_shflu) rfl (fun _ => rfl)
  case shfld => exact writesResult_permute (fun _ => exec_shfld) rfl (fun _ => rfl)
  case shflx => exact writesResult_permute (fun _ => exec_shflx) rfl (fun _ => rfl)
  case swapp => exact .of_exec (fun _ => exec_swapp) rfl rfl (fun _ => laneSource_eq_given ..)
  case bcast => exact .of_exec (fun _ => exec_bcast) rfl rfl (fun l => by rw [rakeBase_eq, headD_voters]; rfl)

/-! ## Reductions and scans (R151) -/

/-- An operation folded over the operands of some lanes, from the first of them on. -/
def foldLanes (x : Ctx) (a : BitVec 7) (f : WidthOp) (ls : List Nat) : DWord :=
  match ls with
  | [] => 0
  | m :: ms => ms.foldl (fun v j => atWidth x.st f v (src1 x a j)) (src1 x a m)

/-- A reduction over the active lanes of the rake (R151). -/
theorem writesResult_reduce {x : Ctx} {d a : BitVec 7} {w : BitVec 1} {i : Instr} {fn : BitVec 3} {f g : WidthOp}
    (hexec : ∀ s, exec i s = reduce fn f d a w s) (hu : encode i = some (packReg 0x14 d a 0x78 w fn))
    (hf : ∀ n p q, f n p q = g n p q) : WritesResult x d w i (info2 d a) (fun l => foldLanes x a g (voters x l)) := by
  have hfg : f = g := by funext n p q; exact hf n p q
  refine .of_exec hexec hu rfl (fun l => ?_)
  simp only [atWidth2_eq, hfg]
  unfold foldLanes
  cases voters x l <;> rfl

/-- The reductions, the scan and the votes into a register write their rake's value (the second part of O16). -/
theorem reductionResults : ReductionResults := by
  intro s x d a w rakeOf fold maskOfLanes
  have hfold : ∀ f ls, foldLanes x a f ls = fold f ls := fun f ls => by cases ls <;> rfl
  refine ⟨fun e he u hu h => ?forms, fun h => ?vbal⟩
  case vbal => exact (WritesResult.of_exec (fun _ => exec_vbal) rfl rfl (fun _ => rfl)).wrote rfl h
  case forms =>
    suffices hform : WritesResult x d w e.1 (info2 d a) e.2 from hform.wrote hu h
    clear hu h
    revert e
    simp only [List.forall_mem_cons, ← hfold]
    refine ⟨?rdadd, ?rdmin, ?rdmax, ?rdand, ?rdor, ?rdxor, ?scadd, ?matchLanes, List.forall_mem_nil _⟩
    case rdadd => exact writesResult_reduce (fun _ => exec_rdadd) rfl (fun _ _ _ => rfl)
    case rdmin => exact writesResult_reduce (fun _ => exec_rdmin) rfl (fun _ => intMin_eq)
    case rdmax => exact writesResult_reduce (fun _ => exec_rdmax) rfl (fun _ => intMax_eq)
    case rdand => exact writesResult_reduce (fun _ => exec_rdand) rfl (fun _ _ _ => rfl)
    case rdor => exact writesResult_reduce (fun _ => exec_rdor) rfl (fun _ _ _ => rfl)
    case rdxor => exact writesResult_reduce (fun _ => exec_rdxor) rfl (fun _ _ _ => rfl)
    case scadd => exact .of_exec (fun _ => exec_scadd) rfl rfl (fun _ => by simp only [atWidth2_eq]; rfl)
    case matchLanes => exact .of_exec (fun _ => exec_matchLanes) rfl rfl (fun _ => rfl)

/-- Settles O16: every lane's value is its rake's. -/
theorem crossLaneResults : Obligations.CrossLaneResults := ⟨permuteResults, reductionResults⟩

end Sys2Proof.Machine
